-- ==== Sys2Proof/Word.lean ====
section
/-! DEFINITION. The word types of the model: bytes of memory, 32-bit words and 64-bit registers. -/

namespace Sys2Proof

/-- One byte of memory. -/
abbrev Byte := BitVec 8

/-- A 32-bit word: half a register (spec/00 R11, R12). -/
abbrev Word32 := BitVec 32

/-- A 64-bit register of BAR0 (spec/00 R11). -/
abbrev Word := BitVec 64

end Sys2Proof
end

