-- ==== Sys2Proof/Syntax.lean ====
section
/-! DEFINITION. The commands of the package: one constructor of `Instr` for each row of spec/opcode_table.json, in the
table's order. The table gives the rows no operands; each operand says what the environment fixes for that event (log 3). -/

namespace Sys2Proof

/-- Who writes or reads a register: a client (0 PF0, 1-63 VFs, 64 PF1), the MC, cluster firmware or JTAG (R332, R353). -/
inductive Agent where
  | client (f : Nat)
  | mc
  | firmware
  | jtag
  deriving DecidableEq, Repr

/-- The data of a register write that takes effect: a whole 64-bit write, or the upper half of two 32-bit writes (R11). -/
inductive RegData where
  | full (v : Word)
  | upper (v : Word32)
  deriving DecidableEq, Repr

/-- An ECC event met by a read of the command: memory space 0 HBM, 1 scratchpad, 2 cluster memory, 3 accumulator memory, 4 slice data,
5 slice tag; the address (for the accumulator the slot times 4,096 plus the word); 0 corrected on the DRAM die, 1 corrected, 2 and more
uncorrectable (R95, R114, R319, R320). -/
structure EccEvent where
  space : Nat
  addr : Nat
  bits : Nat
  deriving DecidableEq, Repr

/-- The kind of a memory access of a third-party site or of a slice request. -/
inductive MemOp where
  | read
  | write
  | atomic (code : Nat)
  deriving DecidableEq, Repr

/-- A request of a third-party site: kind, device address, length and data (R33). -/
structure SiteReq where
  op : MemOp
  addr : Nat
  len : Nat
  data : List Byte
  deriving DecidableEq, Repr

/-- One flit's worth of traffic that a die or the hub offers to Girth: class, operation tag and payload (Table 1.3), whether it is stage
traffic, the die it goes to (8 the hub), and whether it answers a request (R13, R27). -/
structure GirthOffer where
  cls : Nat
  tag : Nat
  stage : Bool
  dst : Nat
  resp : Bool
  payload : List Byte
  deriving DecidableEq, Repr

/-- A control-core AMO of R318. -/
inductive AmoOp where
  | swap | add | xor | and | or | min | max | minu | maxu
  deriving DecidableEq, Repr

/-- What one channel end sends to the other (R198-R214). `seq` is the message's SEQ, `start` the queue's TAIL count at its grant, and
`skipOff`, `skipLen` the place of a SKIP header, of length 0 without WRAP. -/
inductive NetBody where
  | openReq (ctx tag : Nat)
  | openGrant (tag : Nat)
  | openNack (tag code : Nat)
  | grantReq (seq len : Nat)
  | grant (seq start skipOff skipLen : Nat)
  | data (seq start skipOff skipLen : Nat) (bytes : List Byte)
  | ack (seq : Nat)
  | nack (seq code : Nat)
  | abort (seq : Nat)
  | close
  deriving DecidableEq, Repr

/-- A channel message in flight. A channel end is (package, logical core, channel), a queue end (package, logical core, queue);
`up` is true from a channel to a queue. -/
structure NetMsg where
  up : Bool
  ch : Nat × Nat × Nat
  rq : Nat × Nat × Nat
  /-- Wenlyn VC of the channel (1, 2 or 6) and the operation's tag, which travel with a message between packages. -/
  vc : Nat
  tag : Nat
  body : NetBody
  deriving DecidableEq, Repr

/-- What a snapshot's trailer says (R270, Tables 10.4, 10.5): header fields and, for each region, OFFSET, LENGTH, KIND, SOURCE, CRC;
`fail` when the source gives the snapshot up (R271). -/
structure SnapTrailer where
  fail : Bool
  copy : Nat
  base : Nat
  attPrev : Nat
  attBase : Nat
  lossValid : Bool
  loss : Nat
  mapId : Nat
  tsOpen : Nat
  digCount : Nat
  rngCores : Nat
  regions : List (Nat × Nat × Nat × Nat × Nat)
  deriving DecidableEq, Repr

/-- The commands. -/
inductive Instr where
  -- registers, resets (spec/00, 16)
  | registerWrite (a : Agent) (off : Nat) (v : RegData)
  | lowerHalfWrite (a : Agent) (off : Nat) (v : Word32)
  | lowerHalfRead (a : Agent) (off : Nat)
  | upperHalfRead (a : Agent) (off : Nat)
  | rcRead (a : Agent) (off : Nat)
  | resetPkgWrite (a : Agent)
  | dieResetWrite (a : Agent) (d : Nat)
  | packageReset
  | dieReset (d : Nat)
  -- Girth, Bridle, cores (spec/01)
  | girthTransmit (e : Nat) (offer : List GirthOffer)
  | girthFlitReceive (e flip : Nat)
  | girthAckTimeout (e : Nat)
  | girthReplayLimit (e : Nat)
  | girthRetrainDone (e : Nat)
  | girthLaneFail (e g lane : Nat)
  | laneSpared (e : Nat)
  | groupRetired (e : Nat)
  | girthRerouteRelease (e : Nat)
  | bridleRequest (site : Nat) (r : SiteReq)
  | bridleRateRelease (site : Nat)
  | siteDoorbell (site : Nat)
  | siteLinkDrop (site : Nat)
  | siteWidthDegrade (site w : Nat)
  | coreFailure (sl : Nat)
  | coreResetTimeout (sl : Nat)
  -- op queues and TODs (spec/02-06, 08, 09)
  | opqProdAdvance (sl q : Nat) (tods : List (List Byte)) (prod : Word32)
  | opqResume (a : Agent) (sl q : Nat)
  | tagWindowWrite (a : Agent) (sl : Nat) (v : Word)
  | todBadOpcode (sl q : Nat)
  | matmul (sl q : Nat)
  | matmulAt (sl q : Nat)
  | matmulBt (sl q : Nat)
  | drain (sl q : Nat)
  | eltwise (sl q : Nat)
  | reduce (sl q : Nat)
  | normFwd (sl q : Nat)
  | normBwd (sl q : Nat)
  | softmaxFwd (sl q : Nat)
  | softmaxBwd (sl q : Nat)
  | attnFwd (sl q : Nat)
  | attnBwd (sl q : Nat)
  | kvAppend (sl q : Nat)
  | admissionPass (sl q : Nat)
  | prefixLookup (sl q : Nat)
  | attach (sl q : Nat)
  | insert (sl q : Nat)
  | kvLockGrant (sl tag cycles : Nat)
  | gather (sl q : Nat)
  | scatter (sl q : Nat)
  | segmentReduce (sl q : Nat)
  | sortKeys (sl q : Nat)
  | convert (sl q : Nat)
  | stats (sl q : Nat)
  | send (sl q : Nat)
  | recv (sl q : Nat)
  | channelOpen (sl q : Nat)
  | channelClose (sl q : Nat)
  | channelCloseQueue (sl q : Nat)
  | phaseSwitch (sl q : Nat)
  | optimStep (sl q : Nat)
  | rngFill (sl q : Nat)
  | versionAcquireFwd (sl q : Nat)
  | versionAcquireBwd (sl q : Nat)
  | versionAcquireWrite (sl q : Nat)
  | versionAcquireReplay (sl q : Nat)
  | versionReleaseEnd (sl q : Nat)
  | versionReleaseCommit (sl q : Nat)
  | versionReleaseAbandon (sl q : Nat)
  | versionReleaseDrop (sl q : Nat)
  | bucketPush (sl q : Nat)
  | stepBegin (sl q : Nat)
  | rewind (sl q : Nat)
  | fence (sl q : Nat)
  | waitEvent (sl q : Nat)
  | waitEventTimeout (sl tag : Nat)
  | stashPut (sl q : Nat)
  | stashGet (sl q : Nat)
  | stashEnableWrite (a : Agent) (sl : Nat) (v : Word)
  | vecCall (sl q : Nat)
  | kernelEcall (sl tag steps : Nat) (ecc : List EccEvent)
  | kernelTrap (sl tag steps : Nat) (ecc : List EccEvent)
  | kernelTimeout (sl tag steps : Nat) (ecc : List EccEvent)
  | controlCoreAmo (cl hart : Nat) (op : AmoOp) (wide : Bool) (addr data : Nat)
  | loadReserved (cl hart : Nat) (wide : Bool) (addr : Nat)
  | storeConditional (cl hart : Nat) (wide : Bool) (addr data : Nat)
  | opStart (sl tag cycles : Nat) (ecc : List EccEvent)
  | matrixTileDone (sl tag : Nat) (ecc : List EccEvent)
  | drainTileDone (sl tag : Nat) (ecc : List EccEvent)
  | opComplete (sl tag cycles : Nat) (ecc : List EccEvent)
  | cplConsAdvance (sl q : Nat) (cons : Word32)
  -- channels (spec/07)
  | chanCfgWrite (a : Agent) (sl c : Nat) (v : Word)
  | rqCfgWrite (a : Agent) (sl r : Nat) (v : Word)
  | openRequest (i : Nat)
  | openGrant (i : Nat)
  | channelOpenTimeout (sl tag : Nat)
  | grantReq (i : Nat)
  | grantIssue (sl r : Nat)
  | grant (i cycles : Nat)
  | msgData (i : Nat)
  | deliverAck (i : Nat)
  | grantTimeout (sl c cycles : Nat)
  | nack (i : Nat)
  | abort (i : Nat)
  | xferTimeout (sl r : Nat)
  | closeNotice (i : Nat)
  | senderLossReport (sl r pkg core chan : Nat)
  -- versions (spec/08)
  | setCfgWrite (a : Agent) (d i : Nat) (v : Word)
  | holdCfgWrite (a : Agent) (sl : Nat) (v : Word)
  -- Cinch (spec/09)
  | cinchJobCfgWrite (a : Agent) (v : Word)
  | bucketLaunch (b : Nat)
  | cinchPart (i bucket step att lo : Nat)
  | bucketComplete (b : Nat)
  | stepDone (i step att : Nat)
  | stepFinal (i step att : Nat)
  | stepAbort (i step att : Nat) (stop : Bool)
  | stepDeadline
  | doneTimeout
  -- Shadow (spec/10)
  | shadowCfgWrite (a : Agent) (v : Word)
  | trickleStart
  | shadowData (i copy base att off : Nat) (places : List (Nat × Nat))
  | shadowStagingDone
  | shadowTrailer (i : Nat) (t : SnapTrailer)
  | snapAck (i copy base : Nat)
  | shadowCtlRead (i copy slot off len : Nat)
  | restore (q : Nat)
  | lock (q : Nat)
  | unlock (q : Nat)
  | verifyRelease (q : Nat)
  -- Wenlyn (spec/11)
  | portCtlWrite (a : Agent) (p : Nat) (v : Word)
  | failback (a : Agent) (p : Nat)
  | trainingDone (p lanes : Nat)
  | trainTimeout (p lanes : Nat)
  | trainRetry (p : Nat)
  | downRetrain (p : Nat)
  | hello (p pkg port level : Nat) (credits : List Nat) (idem : Nat) (authReq : Bool) (lanes : List Nat)
  | spdmGetVersion (p : Nat) (resp : Option (List Byte))
  | spdmGetCapabilities (p : Nat) (resp : Option (List Byte))
  | spdmNegotiateAlgorithms (p : Nat) (resp : Option (List Byte))
  | spdmGetDigests (p : Nat) (resp : Option (List Byte))
  | spdmGetCertificate (p : Nat) (resp : Option (List Byte))
  | spdmChallenge (p : Nat) (auth : Option (Nat × Bool))
  | spdmGetMeasurements (p : Nat) (resp : Option (List Byte))
  | authTimeout (p : Nat)
  | wenlynTransmit (p : Nat)
  | wenlynFlitReceive (p : Nat) (flit : List Byte) (spells : Option NetMsg)
  | wenlynAckTimeout (p : Nat)
  | ackCoalesceTimeout (p : Nat)
  | keepaliveTimeout (p : Nat)
  | wenlynReplayLimit (p : Nat)
  | linkDead (p : Nat)
  | lossOfLock (p : Nat) (lanes : List Nat)
  | wenlynLaneFail (p lane : Nat)
  | laneSwap (p lane : Nat)
  | wenlynErrorLimit (p : Nat)
  | creditStarved (p vc : Nat)
  | partnerFault (p pkg : Nat)
  | peerClose (p : Nat)
  | read (i : Nat)
  | write (i : Nat)
  | atomic (i : Nat)
  | resp (i : Nat) (spells : Option NetMsg)
  | remoteTimeout (tag reqId : Nat)
  | idemExpire (pkg reqId : Nat)
  -- memory (spec/12)
  | sliceRequest (op : MemOp) (addr len hint : Nat) (data : List Byte) (ecc : List EccEvent)
  | sliceAtomic (code addr operand compare : Nat) (ecc : List EccEvent)
  | rowCeLimit (d pch slot row : Nat)
  | rowHoldCopyDone (d h : Nat) (ecc : List EccEvent)
  | scrubStep (d : Nat) (ecc : List EccEvent)
  -- host (spec/13)
  | bar2Access (op : MemOp) (off len : Nat) (data : List Byte)
  | sqDoorbell (f i : Nat) (tail : Word32) (fail : Option Nat)
  | cqDoorbell (f i : Nat) (head : Word32)
  | badCommand (q : Nat)
  | task (q : Nat) (fail : Bool)
  | opqWrite (q : Nat) (fail : Bool)
  | copy (q : Nat)
  | copySegmentDone (id seg : Nat) (fail : Bool)
  | coreCtlResume (q : Nat)
  | coreCtlCancel (q : Nat)
  | coreCtlReset (q : Nat)
  | acctSnapshot (q : Nat) (fail : Bool)
  | taskPlace (id : Nat)
  | preemptSaveDone (core : Nat)
  | coreScrubDone (core : Nat)
  | taskRestoreDone (core : Nat)
  | commandComplete (id : Nat) (fail : Bool)
  | coalTimeout (q : Nat)
  | queueResume (a : Agent) (q : Nat)
  | qcfgWrite (a : Agent) (q : Nat) (v : Word)
  | acctClr (a : Agent) (f : Nat)
  | energyApportion (sl : Nat) (shares : List (Nat × Nat))
  | flr (f : Nat)
  | hostInterfaceReset
  -- faults and Lantern (spec/14)
  | faultRaise (cls inst : Nat) (trigger : Option (Nat × Nat))
  | faultAck (a : Agent) (cls inst : Nat)
  | fltStatusClear (a : Agent) (cls inst : Nat) (mask : Word32)
  | lanternHeartbeat (a : Agent) (count : Word32)
  | mcHeartbeatStop
  | bootWaitExpire
  | lanternPeerHeartbeat (l : Nat)
  | lanternLost (l : Nat)
  | lanternRelease (a : Agent)
  -- power (spec/15)
  | psuTimeout (cmd status : Nat)
  | pmbAlert (status : Nat)
  | inputUv (mv : Nat)
  | inputUvClear (mv : Nat)
  | inputOv (mv : Nat)
  | rsiAck (d rail : Nat)
  | rsiTimeout (d rail : Nat)
  | domainIdle (d n : Nat)
  | plevelRequest (a : Agent) (d : Nat) (v : Word)
  | frequencyChangeDone (d : Nat)
  | powerCapCheck (watts : Nat)
  | energyUpdate (d : Nat) (nj : List Nat) (other pkg : Nat)
  | thermalSample (d : Nat) (temps : List Int)
  | thermalCapStep (d : Nat) (up : Bool)
  | ivrFault (d rail mv : Nat)
  | refclkLoss
  | refclkRestore
  -- bring-up (spec/16, 18)
  | powerOn
  | powerLoss
  | perstNAssert
  | perstNRelease (gen width : Nat)
  | bootTry (a : Agent)
  | bootConfirm (a : Agent)
  | mailboxImageWrite (img : Nat) (hashOk sigOk : Bool) (version : Nat)
  | dieReady (d : Nat) (failed : List Nat) (hbmOk : Bool)
  | matrixSelftestDone (d : Nat) (failed : List Nat)
  -- Awl and Glint (spec/17)
  | awlStart (a : Agent) (p : Nat)
  | awlStop (a : Agent) (p : Nat) (prbs : List (Nat × Nat × Nat))
  | awlGenIssue (p : Nat)
  | awlInject (p arg : Nat)
  | injectionEnd (p : Nat)
  | prbsUnlock (p lane bits errs : Nat)
  | memGenStart (a : Agent) (v : Word)
  | girthMarginStart (a : Agent) (v : Word)
  | marginRunEnd (errors bits : Nat) (aborted : Bool)
  | pcieMarginCommand (lane kind offset errors : Nat)
  | ppsEdge
  | ppsLost
  | tbSet (a : Agent) (seconds : Word32)
  | mctpMessage (bytes : List Byte)
  | siteLinkTrained (site w : Nat)
  | msixVectorUnmask (f vec : Nat)
  | pcieLinkRetrain (gen width : Nat)
  | prbsLock (p lane : Nat)
  | memGenDone (lats : List Nat) (errors : Nat)
  deriving DecidableEq, Repr

end Sys2Proof
end

