-- ==== Sys2Proof/Machine/Bits.lean ====
section
/-! DEFINITION. Bit fields of numbers and registers, little-endian byte strings (spec/00 R8), and finite maps kept as
sorted lists. -/

namespace Sys2Proof.Machine

/-- Bits [lsb + w - 1 : lsb] of a number. -/
def bitsN (v lsb w : Nat) : Nat := v / 2 ^ lsb % 2 ^ w

/-- Bit `i` of a number as a Bool. -/
def bitN (v i : Nat) : Bool := v / 2 ^ i % 2 = 1

/-- Field [lsb + w - 1 : lsb] of a register. -/
def fld (v : Word) (lsb w : Nat) : Nat := bitsN v.toNat lsb w

/-- A register with field [lsb + w - 1 : lsb] replaced by `x` (taken modulo 2^w). -/
def setFld (v : Word) (lsb w x : Nat) : Word :=
  BitVec.ofNat 64 (v.toNat % 2 ^ lsb + (x % 2 ^ w) * 2 ^ lsb + v.toNat / 2 ^ (lsb + w) * 2 ^ (lsb + w))

/-- Modulo-2^w subtraction, for free-running counts. -/
def subMod (w a b : Nat) : Nat := (a + 2 ^ w - b % 2 ^ w) % 2 ^ w

/-- A count that stops at `top`. -/
def satAdd (top a b : Nat) : Nat := min top (a + b)

/-- Ceiling division. -/
def cdiv (a b : Nat) : Nat := (a + b - 1) / b

/-- `n` rounded up to a multiple of `b`. -/
def roundUp (n b : Nat) : Nat := cdiv n b * b

/-- The two's-complement reading of a `w`-bit number. -/
def toSigned (w v : Nat) : Int :=
  let x := v % 2 ^ w
  if x < 2 ^ (w - 1) then (x : Int) else (x : Int) - (2 ^ w : Nat)

/-- The `w`-bit two's-complement code of an integer. -/
def ofSigned (w : Nat) (i : Int) : Nat := (i % (2 ^ w : Nat)).toNat

/-- A little-endian byte string read as a number (R8). -/
def leNat : List Byte → Nat
  | [] => 0
  | b :: bs => b.toNat + 256 * leNat bs

/-- The `n` bytes of a number, lowest first (R8). -/
def leBytes : Nat → Nat → List Byte
  | 0, _ => []
  | n + 1, v => BitVec.ofNat 8 v :: leBytes n (v / 256)

/-- A Bool as a bit. -/
def b2n (b : Bool) : Nat := if b then 1 else 0

/-! Finite maps: lists of (key, value) with strictly rising keys. -/

/-- The value at a key, or the default. -/
def look {α : Type} (d : α) (m : List (Nat × α)) (a : Nat) : α := ((m.find? (fun p => p.1 = a)).map Prod.snd).getD d

/-- Store a value under a key, keeping keys rising; an entry equal to the default may stay. -/
def putRaw {α : Type} : List (Nat × α) → Nat → α → List (Nat × α)
  | [], a, v => [(a, v)]
  | (k, w) :: t, a, v =>
    if a < k then (a, v) :: (k, w) :: t
    else if a = k then (a, v) :: t
    else (k, w) :: putRaw t a v

/-- Store a value under a key in the canonical form: rising keys, no entry equal to the default. -/
def put {α : Type} [DecidableEq α] (d : α) (m : List (Nat × α)) (a : Nat) (v : α) : List (Nat × α) :=
  if v = d then m.filter (fun p => p.1 ≠ a) else putRaw m a v

/-- Whether a key is listed. -/
def has {α : Type} (m : List (Nat × α)) (a : Nat) : Bool := m.any (fun p => p.1 = a)

/-- Remove a key. -/
def del {α : Type} (m : List (Nat × α)) (a : Nat) : List (Nat × α) := m.eraseP (fun p => p.1 = a)

/-- Insert a number into a rising list of numbers without repeats. -/
def insertNat : List Nat → Nat → List Nat
  | [], a => [a]
  | k :: t, a => if a < k then a :: k :: t else if a = k then k :: t else k :: insertNat t a

/-- The element at index `i`, or the default. -/
def nth {α : Type} (d : α) (l : List α) (i : Nat) : α := l.getD i d

/-- The list with element `i` replaced; unchanged past the end. -/
def setNth {α : Type} (l : List α) (i : Nat) (v : α) : List α := l.set i v

/-- The list without element `i`. -/
def dropNth {α : Type} (l : List α) (i : Nat) : List α := l.eraseIdx i

/-- The first element that satisfies a test, with its index. -/
def findIdx1 {α : Type} (p : α → Bool) (l : List α) : Option (Nat × α) :=
  (l.zipIdx.find? (fun x => p x.1)).map (fun x => (x.2, x.1))

/-- `0, 1, …, n - 1` (structural, so that the kernel evaluates it). -/
def upto : Nat → List Nat
  | 0 => []
  | n + 1 => upto n ++ [n]

/-- Numbers from `a`, `n` of them. -/
def fromLen (a : Nat) : Nat → List Nat
  | 0 => []
  | n + 1 => a :: fromLen (a + 1) n

/-- Sum of a list. -/
def sumN (l : List Nat) : Nat := l.foldl (· + ·) 0

/-- Product of a list. -/
def prodN (l : List Nat) : Nat := l.foldl (· * ·) 1

end Sys2Proof.Machine
end

