-- ==== Sys2Proof/Machine/Crc.lean ====
section
/-! DEFINITION. CRC-32C of flits (spec/01 R18, spec/11 R285), CRC-64/ECMA-182 of prefixes, digests and snapshots
(spec/06 R185), and the Philox4x32-10 generator (spec/04 R132). -/

namespace Sys2Proof.Machine

/-- One bit of the reflected CRC-32C (polynomial 0x1EDC6F41, reflected 0x82F63B78; log 20). -/
def crc32cBit (c : Nat) : Nat := if c % 2 = 1 then (c / 2) ^^^ 0x82F63B78 else c / 2

def crc32cByte (c b : Nat) : Nat :=
  crc32cBit (crc32cBit (crc32cBit (crc32cBit (crc32cBit (crc32cBit (crc32cBit (crc32cBit (c ^^^ b))))))))

/-- CRC-32C of a byte string (initial value and final XOR all ones; log 20). -/
def crc32c (bs : List Byte) : Nat := bs.foldl (fun c b => crc32cByte c b.toNat) 0xFFFFFFFF ^^^ 0xFFFFFFFF

/-- One bit of CRC-64/ECMA-182: polynomial 0x42F0_E1EB_A9EA_3693, not reflected (R185). -/
def crc64Bit (c : Nat) : Nat :=
  if 2 ^ 63 ≤ c then ((c * 2) % 2 ^ 64) ^^^ 0x42F0E1EBA9EA3693 else c * 2

def crc64Byte (c b : Nat) : Nat :=
  crc64Bit (crc64Bit (crc64Bit (crc64Bit (crc64Bit (crc64Bit (crc64Bit (crc64Bit (c ^^^ (b * 2 ^ 56)))))))))

/-- CRC-64/ECMA-182 of a byte string: initial value 0, final XOR 0 (R185). -/
def crc64 (bs : List Byte) : Nat := bs.foldl (fun c b => crc64Byte c b.toNat) 0

/-- One round of Philox4x32: the four words and the two key words of the round (R132). -/
def philoxRound (x : Nat × Nat × Nat × Nat) (k0 k1 : Nat) : Nat × Nat × Nat × Nat :=
  let p0 := 0xD2511F53 * x.1
  let p1 := 0xCD9E8D57 * x.2.2.1
  ((p1 / 2 ^ 32) ^^^ x.2.1 ^^^ k0, p1 % 2 ^ 32, (p0 / 2 ^ 32) ^^^ x.2.2.2 ^^^ k1, p0 % 2 ^ 32)

def philoxGo : Nat → Nat × Nat × Nat × Nat → Nat → Nat → Nat × Nat × Nat × Nat
  | 0, x, _, _ => x
  | n + 1, x, k0, k1 =>
    philoxGo n (philoxRound x k0 k1) ((k0 + 0x9E3779B9) % 2 ^ 32) ((k1 + 0xBB67AE85) % 2 ^ 32)

/-- The output block for a 128-bit counter value and a 64-bit key: words X[0] to X[3] (R132). -/
def philox (key ctr : Nat) : List Nat :=
  let x := philoxGo 10 (bitsN ctr 0 32, bitsN ctr 32 32, bitsN ctr 64 32, bitsN ctr 96 32) (bitsN key 0 32) (bitsN key 32 32)
  [x.1, x.2.1, x.2.2.1, x.2.2.2]

/-- The 16 random bits of element `i` of a stream with counter `c` at operation start: value j = i mod 8 of the block for
counter c + ⌊i/8⌋ (R53). -/
def rand16 (key c i : Nat) : Nat :=
  let w := nth 0 (philox key ((c + i / 8) % 2 ^ 128)) (i % 8 / 2)
  if i % 2 = 0 then w % 2 ^ 16 else w / 2 ^ 16

/-- The 32-bit word of element `i`: word i mod 4 of the block for counter c + ⌊i/4⌋ (R134). -/
def rand32 (key c i : Nat) : Nat := nth 0 (philox key ((c + i / 4) % 2 ^ 128)) (i % 4)

/-- One step of PRBS31, x^31 + x^28 + 1: the new bit and the next state (R409). -/
def prbsStep (x : Nat) : Nat × Nat :=
  let b := (x / 2 ^ 30 + x / 2 ^ 27) % 2
  (b, (2 * x + b) % 2 ^ 31)

/-- Eight bits of PRBS31 as a byte, first bit lowest, and the next state. -/
def prbsByte : Nat → Nat → Nat × Nat
  | 0, x => (0, x)
  | n + 1, x =>
    let r := prbsStep x
    let t := prbsByte n r.2
    (r.1 + 2 * t.1, t.2)

/-- `n` bytes of PRBS31 from a state. -/
def prbsBytes : Nat → Nat → List Byte
  | 0, _ => []
  | n + 1, x => let r := prbsByte 8 x; BitVec.ofNat 8 r.1 :: prbsBytes n r.2

end Sys2Proof.Machine
end

