-- ==== Sys2Proof/Config.lean ====
section
/-! DEFINITION. What the spec leaves to the implementation: constants with no body, so that no proof sees a value. -/

namespace Sys2Proof.Config

/-- A fresh byte that the spec calls undefined; applied to the state's free counter (log 17). -/
opaque freeByte : Nat → BitVec 8

/-- A fresh 32-bit value that the spec leaves open; applied to the state's free counter (log 17). -/
opaque freeWord : Nat → BitVec 32

/-- Which of the results allowed by an error bound the transcendental unit gives: function code and input bits (R120, R134;
log 11). The model keeps only its remainder, so the result stays inside the bound whatever this is. -/
opaque ulpChoice : Nat → Nat → Nat

/-- The fixed hash that chooses the set of a line in a cache slice (R311; log 18). -/
opaque sliceHash : Nat → Nat

/-- The SPDM messages' contents that the manual leaves to SPDM 1.3 and to the device's identity (R300; log 19). -/
opaque spdmPayload : Nat → List (BitVec 8)

/-- ARG of a Wenlyn request or response whose layout Table 11.3 does not give: applied to its OP, the kind and the numbers it spells
(log 40). -/
opaque wireArg : Nat → Nat → List Nat → BitVec 64

/-- Whether a hart carries out a scalar access that is not naturally aligned, instead of trapping (R137; log 119). -/
opaque misalignedOk : Bool

/-- Whether the agnostic element `i` of a destination with elements of `w` bits is set to ones, instead of kept (R137; log 119). -/
opaque agnosticOnes : Nat → Nat → Bool

/-- The payload of a VC0 notice, whose layout the manual does not give: applied to its kind and to the values it carries (log 40). -/
opaque vc0Bytes : Nat → List Nat → List (BitVec 8)

/-- The state from which the PRBS31 pattern of a request's data starts, which the manual does not give (R409, R410; log 51). -/
opaque prbsSeed : BitVec 31

/-- Post-package repair resources of a bank: stack, pseudo-channel, bank slot (R323; log 14). -/
opaque repairResources : Nat → Nat → Nat → Nat

/-- Syndrome of a Girth event, whose bit places Table 1.5 does not give: applied to the event's row and its fields (log 62). -/
opaque girthSynd : Nat → List Nat → BitVec 64

end Sys2Proof.Config
end

