-- ==== Sys2Proof/Machine/Num.lean ====
section
/-! DEFINITION. Exact and rounded arithmetic: exact rationals, floating-point values, IEEE 754-2019 addition,
multiplication, FMA, division and square root rounded once (spec/02 R42, R438; spec/03 R73, R86; spec/04 R119). -/

namespace Sys2Proof.Machine

/-- A floating-point value: NaN, an infinity, or ± m · 2^e (with m = 0 a signed zero). -/
inductive FV where
  | nan
  | inf (neg : Bool)
  | fin (neg : Bool) (m : Nat) (e : Int)
  deriving DecidableEq, Repr

/-- An exact rational number n / d, with d at least 1. -/
structure Ex where
  n : Int
  d : Nat
  deriving DecidableEq, Repr

namespace FV

/-- +0. -/
def zero : FV := .fin false 0 0

/-- -0. -/
def negZero : FV := .fin true 0 0

/-- 1.0. -/
def one : FV := .fin false 1 0

def isNan : FV → Bool
  | .nan => true
  | _ => false

def isInf : FV → Bool
  | .inf _ => true
  | _ => false

def isZero : FV → Bool
  | .fin _ m _ => m = 0
  | _ => false

/-- The sign of a value that is not NaN; a NaN has none. -/
def sign : FV → Bool
  | .nan => false
  | .inf s => s
  | .fin s _ _ => s

/-- The value with its sign inverted; a NaN stays NaN. -/
def neg : FV → FV
  | .nan => .nan
  | .inf s => .inf (!s)
  | .fin s m e => .fin (!s) m e

/-- The magnitude; a NaN stays NaN. -/
def abs : FV → FV
  | .nan => .nan
  | .inf _ => .inf false
  | .fin _ m e => .fin false m e

end FV

/-- Numerator of 2^e. -/
def pow2N (e : Int) : Nat := if 0 ≤ e then 2 ^ e.toNat else 1

/-- Denominator of 2^e. -/
def pow2D (e : Int) : Nat := if 0 ≤ e then 1 else 2 ^ (-e).toNat

namespace Ex

def ofInt (i : Int) : Ex := ⟨i, 1⟩
def zero : Ex := ⟨0, 1⟩
def add (a b : Ex) : Ex :=
  if a.d = b.d then ⟨a.n + b.n, a.d⟩ else ⟨a.n * b.d + b.n * a.d, a.d * b.d⟩
def neg (a : Ex) : Ex := ⟨-a.n, a.d⟩
def sub (a b : Ex) : Ex := add a b.neg
def mul (a b : Ex) : Ex := ⟨a.n * b.n, a.d * b.d⟩
/-- a / b for b ≠ 0. -/
def div (a b : Ex) : Ex :=
  if 0 ≤ b.n then ⟨a.n * b.d, a.d * b.n.toNat⟩ else ⟨-(a.n * b.d), a.d * (-b.n).toNat⟩
def pow2 (e : Int) : Ex := ⟨pow2N e, pow2D e⟩
def lt (a b : Ex) : Bool := decide (a.n * b.d < b.n * a.d)
def le (a b : Ex) : Bool := decide (a.n * b.d ≤ b.n * a.d)
def eq (a b : Ex) : Bool := decide (a.n * b.d = b.n * a.d)
def abs (a : Ex) : Ex := ⟨a.n.natAbs, a.d⟩
/-- The floor. -/
def floor (a : Ex) : Int := a.n / a.d

end Ex

/-- The exact value of a finite value; NaN and infinities read as 0. -/
def FV.toEx : FV → Ex
  | .fin s m e =>
    let n : Nat := m * pow2N e
    ⟨if s then -(n : Int) else n, pow2D e⟩
  | _ => Ex.zero

/-- The three rounding modes of R52. -/
inductive Rnd where
  | rne | rtz | stoch
  deriving DecidableEq, Repr

/-- Rounding mode of a 2-bit RND code; code 3 is refused before use (R52). -/
def Rnd.ofCode : Nat → Rnd
  | 1 => .rtz
  | 2 => .stoch
  | _ => .rne

/-- ⌊log₂ (n / d)⌋ for n, d > 0. -/
def ilog2Q (n d : Nat) : Int :=
  let t : Int := (Nat.log2 n : Int) - (Nat.log2 d : Int)
  if pow2N t * d ≤ n * pow2D t then t else t - 1

/-- A magnitude n / d as (integer part, remainder, divisor) in units of 2^q. -/
def scaleQ (n d : Nat) (q : Int) : Nat × Nat × Nat :=
  let num := n * pow2D q
  let den := d * pow2N q
  (num / den, num % den, den)

/-- Round k + rem/den to an integer by the mode; `r` is the 16-bit random value of stochastic rounding (R52, R54). -/
def roundUnits (mode : Rnd) (r k rem den : Nat) : Nat :=
  if rem = 0 then k
  else match mode with
    | .rne => if den < 2 * rem then k + 1 else if 2 * rem < den then k else if k % 2 = 0 then k else k + 1
    | .rtz => k
    | .stoch => if r < rem * 65536 / den then k + 1 else k

/-- Round the magnitude n / d to `p` significant bits, never finer than 2^emin: the result is k · 2^q. -/
def roundMag (p : Nat) (emin : Int) (mode : Rnd) (r n d : Nat) : Nat × Int :=
  if n = 0 then (0, emin)
  else
    let q := max (ilog2Q n d - ((p : Int) - 1)) emin
    let (k, rem, den) := scaleQ n d q
    (roundUnits mode r k rem den, q)

/-- Round an exact value once to a binary format of `p` bits with smallest subnormal 2^emin and overflow bound
2^(emax + 1), under RNE, as IEEE 754-2019 does; an exact zero takes the sign `sz`. -/
def rneFmt (p : Nat) (emin emax : Int) (sz : Bool) (x : Ex) : FV :=
  if x.n = 0 then .fin sz 0 0
  else
    let s := decide (x.n < 0)
    let (k, q) := roundMag p emin .rne 0 x.n.natAbs x.d
    if k = 0 then .fin s 0 0
    else if pow2N (emax + 1) * pow2D q ≤ k * pow2N q * pow2D (emax + 1) then .inf s
    else .fin s k q

/-- rne32: round once to FP32 under RNE, subnormals kept; an exact zero takes the sign `sz` (R73, R86). -/
def rne32s (sz : Bool) (x : Ex) : FV := rneFmt 24 (-149) 127 sz x

/-- rne32 with an exact zero giving +0 (R73). -/
def rne32 (x : Ex) : FV := rne32s false x

/-- rne16: round once to binary16 under RNE; beyond 65,504 after rounding gives ±Inf (R74). -/
def rne16 (x : Ex) : FV := rneFmt 11 (-24) 15 false x

/-- Round to BF16 under RNE, as `rne_bf16` of R171 does. -/
def rneBf16 (sz : Bool) (x : Ex) : FV := rneFmt 8 (-133) 127 sz x

/-- IEEE addition in a format given by its rounding function: the sum of two zeros is -0 only when both are -0, and an
exact zero sum of nonzero values is +0 (R86, R119). -/
def addWith (rnd : Bool → Ex → FV) (a b : FV) : FV :=
  match a, b with
  | .nan, _ => .nan
  | _, .nan => .nan
  | .inf s, .inf t => if s = t then .inf s else .nan
  | .inf s, _ => .inf s
  | _, .inf t => .inf t
  | .fin s m e, .fin t n f =>
    if m = 0 && n = 0 then .fin (s && t) 0 0
    else rnd false ((FV.fin s m e).toEx.add (FV.fin t n f).toEx)

/-- IEEE multiplication in a format given by its rounding function. -/
def mulWith (rnd : Bool → Ex → FV) (a b : FV) : FV :=
  match a, b with
  | .nan, _ => .nan
  | _, .nan => .nan
  | .inf s, .inf t => .inf (s != t)
  | .inf s, .fin t n _ => if n = 0 then .nan else .inf (s != t)
  | .fin s m _, .inf t => if m = 0 then .nan else .inf (s != t)
  | .fin s m e, .fin t n f => rnd (s != t) ((FV.fin s m e).toEx.mul (FV.fin t n f).toEx)

/-- a × b + c rounded once. -/
def fmaWith (rnd : Bool → Ex → FV) (a b c : FV) : FV :=
  let prodNan : Bool := a.isNan || b.isNan || (a.isInf && b.isZero) || (a.isZero && b.isInf)
  if prodNan || c.isNan then .nan
  else
    let ps := a.sign != b.sign
    if a.isInf || b.isInf then
      match c with
      | .inf t => if t = ps then .inf ps else .nan
      | _ => .inf ps
    else match c with
      | .inf t => .inf t
      | _ =>
        let p := a.toEx.mul b.toEx
        let x := p.add c.toEx
        if p.n = 0 && c.isZero then .fin (ps && c.sign) 0 0
        else if x.n = 0 then .fin false 0 0
        else rnd false x

/-- IEEE division. -/
def divWith (rnd : Bool → Ex → FV) (a b : FV) : FV :=
  match a, b with
  | .nan, _ => .nan
  | _, .nan => .nan
  | .inf _, .inf _ => .nan
  | .inf s, .fin t _ _ => .inf (s != t)
  | .fin s _ _, .inf t => .fin (s != t) 0 0
  | .fin s m e, .fin t n f =>
    if n = 0 then (if m = 0 then .nan else .inf (s != t))
    else rnd (s != t) ((FV.fin s m e).toEx.div (FV.fin t n f).toEx)

def add32 (a b : FV) : FV := addWith rne32s a b
def sub32 (a b : FV) : FV := addWith rne32s a b.neg
def mul32 (a b : FV) : FV := mulWith rne32s a b
def fma32 (a b c : FV) : FV := fmaWith rne32s a b c
def div32 (a b : FV) : FV := divWith rne32s a b

/-- BF16 addition rounded once under RNE (Table 12.2). -/
def addBf16 (a b : FV) : FV := addWith rneBf16 a b

/-- One step of the digit-by-digit integer square root. -/
def isqrtGo : Nat → Nat → Nat → Nat
  | 0, _, r => r
  | i + 1, n, r => if (r + 2 ^ i) * (r + 2 ^ i) ≤ n then isqrtGo i n (r + 2 ^ i) else isqrtGo i n r

/-- ⌊√n⌋. -/
def isqrt (n : Nat) : Nat := isqrtGo (Nat.log2 n / 2 + 1) n 0

/-- Correctly rounded FP32 square root (R119). -/
def sqrt32 : FV → FV
  | .nan => .nan
  | .inf s => if s then .nan else .inf false
  | .fin s m e =>
    if m = 0 then .fin s 0 0
    else if s then .nan
    else
      -- m · 2^e = (m · 2^(e - 2h)) · 2^(2h); 60 extra bits and a sticky bit decide the rounding
      let h : Int := e / 2 - 60
      let n := m * pow2N (e - 2 * h)
      let r := isqrt n
      let v : Nat := 2 * r + (if r * r = n then 0 else 1)
      rne32 ⟨v * pow2N (h - 1), pow2D (h - 1)⟩

/-- Order of two values that are not NaN; -0 equals +0 (R60). -/
def FV.lt (a b : FV) : Bool :=
  match a, b with
  | .nan, _ => false
  | _, .nan => false
  | .inf s, .inf t => s && !t
  | .inf s, _ => s
  | _, .inf t => !t
  | x, y => x.toEx.lt y.toEx

/-- Equality of two values that are not NaN; -0 equals +0. -/
def FV.eqv (a b : FV) : Bool :=
  match a, b with
  | .nan, _ => false
  | _, .nan => false
  | .inf s, .inf t => s = t
  | .inf _, _ => false
  | _, .inf _ => false
  | x, y => x.toEx.eq y.toEx

/-- IEEE maximum: NaN wins, and on equality the first operand, the one of the lower index, wins (R60). -/
def FV.max (a b : FV) : FV := if a.isNan || b.isNan then .nan else if a.lt b then b else a

/-- IEEE minimum (R60). -/
def FV.min (a b : FV) : FV := if a.isNan || b.isNan then .nan else if b.lt a then b else a

/-- Fold of `max` with the index of the winner: ties to the lower index, a NaN winner takes the lowest NaN index (R60). -/
def winner (isMax : Bool) : List (Nat × FV) → Option (Nat × FV)
  | [] => none
  | x :: t =>
    some (t.foldl (fun (acc : Nat × FV) (y : Nat × FV) =>
      if acc.2.isNan then acc
      else if y.2.isNan then y
      else if (if isMax then acc.2.lt y.2 else y.2.lt acc.2) then y else acc) x)

/-- The fixed lane order of R123: lane l mod 512 adds its elements in increasing l, then a tree of nine levels. -/
def treeAdd (rnd2 : FV → FV → FV) : Nat → List FV → FV
  | 0, xs => xs.headD FV.zero
  | k + 1, xs =>
    let rec pairs : List FV → List FV
      | a :: b :: t => rnd2 a b :: pairs t
      | [a] => [a]
      | [] => []
    treeAdd rnd2 k (pairs xs)

/-- Elements of lane `j` of the lane order, by increasing index. -/
def laneOf (n j : Nat) (xs : List FV) : List FV :=
  (xs.zipIdx.filter (fun p => p.2 % n = j)).map (·.1)

/-- Sum in the order of R123: 512 lanes, an empty lane gives +0, then pairs 2q and 2q + 1. A lane starts from its first
element. -/
def laneSum (xs : List FV) : FV :=
  treeAdd add32 9 ((upto 512).map (fun j =>
    match laneOf 512 j xs with
    | [] => FV.zero
    | x :: t => t.foldl add32 x))

end Sys2Proof.Machine
end

