-- ==== Sys2Proof/Machine/Sources.lean ====
section
/-! DEFINITION. The blocks that hold a fault register set and their sources (spec/14 R356-R358, Tables 14.1, 14.3, 14.4
and the source tables those name). -/

namespace Sys2Proof.Machine

/-- A fault source. The names are the manual's; the class and index follow Table 14.3. -/
inductive FaultSrc where
  -- class 0, core slot
  | nanTrap | accProtect | accEccCorr | accEccUncorr | opqOverrun | memProtect | spadEccCorr | spadEccUncorr
  | kernelFault | waitTimeout | stashFull | stashMiss | tiedWeight | kvRange | posLimit | kvRefused | prefixCollision
  | peerGone | chanRefused | chanTimeout | chanMismatch | senderLost | rqReject | versionGone | holdBusy
  -- class 1, cluster
  | cmemEccCorr | cmemEccUncorr
  -- class 2, die control
  | coreFailed | spareMapped | coreOffline | rsiTimeout
  -- class 3, Girth port
  | girthLaneSpared | groupRetired | portDegraded | portDown | dieIsolated | replayLimit
  -- class 4, memory controller
  | eccCorr | eccUncorr | rowFail | rowRepaired | pageRetired | retireFull | versionEvict
  -- class 5, cache slice
  | sliceEccCorr | sliceEccUncorr
  -- class 6, host ring engine
  | queueOverrun | hostDma | preempt | flrDone | clampLost
  -- class 7, Wenlyn port
  | trainFail | authFail | wenLaneSpared | linkDown | failover | pkgUnreachable | creditStarved | malformed
  | admitDenied | partnerFault
  -- class 8, Cinch
  | stepAbort | stepStalled | bktEntryBad | gradNan
  -- class 9, Shadow
  | snapLate | snapSkipped | regionBad | holdCrc | holderLost | verifyFail
  -- class 10, Bridle site
  | bridleViolation | siteDown
  -- class 11, package power and clock
  | psuTimeout | inputUv | inputOv | powerCap | thermalThrottle | thermalCrit | ivrFault
  -- class 12, hub management complex
  | mcEccCorr | mcEccUncorr | lanternLost | imageBad | imageFallback | bootFail
  -- class 13, Awl and Glint
  | checkViolation | prbsUnlock | marginAbort | traceLost | ppsLost
  -- class 14, hub die
  | p2Event (d : Nat) | mixedStepping | lanternAction
  deriving DecidableEq, Repr

/-- Class and index of a source (Table 14.3). -/
def FaultSrc.at : FaultSrc → Nat × Nat
  | .nanTrap => (0, 0) | .accProtect => (0, 1) | .accEccCorr => (0, 2) | .accEccUncorr => (0, 3)
  | .opqOverrun => (0, 4) | .memProtect => (0, 5) | .spadEccCorr => (0, 6) | .spadEccUncorr => (0, 7)
  | .kernelFault => (0, 8) | .waitTimeout => (0, 9) | .stashFull => (0, 10) | .stashMiss => (0, 11)
  | .tiedWeight => (0, 12) | .kvRange => (0, 13) | .posLimit => (0, 14) | .kvRefused => (0, 15)
  | .prefixCollision => (0, 16) | .peerGone => (0, 17) | .chanRefused => (0, 18) | .chanTimeout => (0, 19)
  | .chanMismatch => (0, 20) | .senderLost => (0, 21) | .rqReject => (0, 22) | .versionGone => (0, 23)
  | .holdBusy => (0, 24)
  | .cmemEccCorr => (1, 0) | .cmemEccUncorr => (1, 1)
  | .coreFailed => (2, 0) | .spareMapped => (2, 1) | .coreOffline => (2, 2) | .rsiTimeout => (2, 3)
  | .girthLaneSpared => (3, 0) | .groupRetired => (3, 1) | .portDegraded => (3, 2) | .portDown => (3, 3)
  | .dieIsolated => (3, 4) | .replayLimit => (3, 5)
  | .eccCorr => (4, 0) | .eccUncorr => (4, 1) | .rowFail => (4, 2) | .rowRepaired => (4, 3) | .pageRetired => (4, 4)
  | .retireFull => (4, 5) | .versionEvict => (4, 6)
  | .sliceEccCorr => (5, 0) | .sliceEccUncorr => (5, 1)
  | .queueOverrun => (6, 0) | .hostDma => (6, 1) | .preempt => (6, 2) | .flrDone => (6, 3) | .clampLost => (6, 4)
  | .trainFail => (7, 0) | .authFail => (7, 1) | .wenLaneSpared => (7, 2) | .linkDown => (7, 3) | .failover => (7, 4)
  | .pkgUnreachable => (7, 5) | .creditStarved => (7, 6) | .malformed => (7, 7) | .admitDenied => (7, 8)
  | .partnerFault => (7, 9)
  | .stepAbort => (8, 0) | .stepStalled => (8, 1) | .bktEntryBad => (8, 2) | .gradNan => (8, 3)
  | .snapLate => (9, 0) | .snapSkipped => (9, 1) | .regionBad => (9, 2) | .holdCrc => (9, 3) | .holderLost => (9, 4)
  | .verifyFail => (9, 5)
  | .bridleViolation => (10, 0) | .siteDown => (10, 1)
  | .psuTimeout => (11, 0) | .inputUv => (11, 1) | .inputOv => (11, 2) | .powerCap => (11, 3)
  | .thermalThrottle => (11, 4) | .thermalCrit => (11, 5) | .ivrFault => (11, 6)
  | .mcEccCorr => (12, 0) | .mcEccUncorr => (12, 1) | .lanternLost => (12, 2) | .imageBad => (12, 3)
  | .imageFallback => (12, 4) | .bootFail => (12, 5)
  | .checkViolation => (13, 0) | .prbsUnlock => (13, 1) | .marginAbort => (13, 2) | .traceLost => (13, 3)
  | .ppsLost => (13, 4)
  | .p2Event d => (14, d % 8) | .mixedStepping => (14, 8) | .lanternAction => (14, 9)

/-- FLT_ACTION byte of a default: REACT in bits [2:0], ERR_N in bit 3, HOST in bit 4 (Table 14.2). -/
def actLog : Nat := 0
def actInt : Nat := 1
def actNmi : Nat := 2
def actBlock : Nat := 3
def actIntErr : Nat := 9
def actNmiErr : Nat := 10
def actIntErrHost : Nat := 25

/-- Default actions of a class, by source index (the source tables; R142, R367). The list is as long as the class has
sources. -/
def classDefaults : Nat → List Nat
  | 0 => [actInt, actInt, actLog, actNmi, actInt, actInt, actLog, actNmi, actInt, actLog, actInt, actInt, actInt,
          actInt, actInt, actLog, actLog, actInt, actInt, actInt, actInt, actInt, actLog, actLog, actInt]
  | 1 => [actLog, actNmi]
  | 2 => [actIntErr, actLog, actIntErr, actIntErr]
  | 3 => [actLog, actInt, actIntErr, actIntErr, actNmiErr, actInt]
  | 4 => [actLog, actInt, actInt, actLog, actInt, actIntErr, actLog]
  | 5 => [actLog, actInt]
  | 6 => [actInt, actInt, actLog, actLog, actLog]
  | 7 => [actLog, actInt, actLog, actIntErr, actInt, actIntErr, actInt, actLog, actLog, actIntErr]
  | 8 => [actInt, actIntErr, actInt, actLog]
  | 9 => [actLog, actLog, actInt, actInt, actInt, actIntErr]
  | 10 => [actInt, actIntErr]
  | 11 => [actIntErr, actIntErr, actIntErr, actLog, actLog, actIntErr, actIntErr]
  | 12 => [actLog, actBlock, actIntErr, actInt, actIntErr, actIntErr]
  | 13 => [actLog, actLog, actLog, actLog, actInt]
  | 14 => [actInt, actInt, actInt, actInt, actInt, actInt, actInt, actInt, actIntErr, actIntErrHost]
  | _ => []

/-- A block class that R364 cannot reset alone: REACT = 3 is applied as 1 there. -/
def notResettable (cls : Nat) : Bool := cls = 4 || cls = 5 || cls = 6 || cls = 11 || cls = 14

/-! Addresses of windows (Table 0.6, R13, R14). A core slot is numbered 64·die + 8·cluster + slot, as in Table 14.1. -/

def dieBase (d : Nat) : Nat := 0x1000000 + d * 0x800000
def clusterBase (d c : Nat) : Nat := dieBase d + 0x100000 + c * 0x80000
def slotBase (sl : Nat) : Nat := clusterBase (sl / 64) (sl / 8 % 8) + 0x10000 + (sl % 8) * 0x10000
def girthBase (d p : Nat) : Nat := dieBase d + 0x10000 + p * 0x4000
def mcBase (d : Nat) : Nat := dieBase d + 0x40000
def sliceBase (d : Nat) : Nat := dieBase d + 0x60000
def tackBase (d : Nat) : Nat := dieBase d + 0x80000
def engineBase : Nat := 0x100000
def clientBase (f : Nat) : Nat := 0x140000 + 0x100 * f
def wenBase (p : Nat) : Nat := 0x200000 + 0x8000 * p
def wenPkgBase : Nat := 0x290000
def cinchBase : Nat := 0x300000
def shadowBase : Nat := 0x380000
def siteBase (s : Nat) : Nat := 0x400000 + 0x10000 * s
def powerBase : Nat := 0x500000
def mailboxBase : Nat := 0x600000
def awlBase (p : Nat) : Nat := 0x701000 + 0x1000 * p
def memGenBase : Nat := 0x713000
def marginBase : Nat := 0x714000
def glintBase : Nat := 0x740000

/-- The slot number of a spare. -/
def spareSlot (d : Nat) : Nat := 64 * d + 60

/-- Whether a number names a core slot: slots 0-3 of each cluster, and slot 4 of cluster 7. -/
def isSlot (sl : Nat) : Bool := sl < 512 && (sl % 8 < 4 || sl % 64 = 60)

/-- The 264 core slots. -/
def allSlots : List Nat := (upto 512).filter isSlot

/-- Fault-set address of a block (Table 14.1). -/
def fltBase (cls inst : Nat) : Nat :=
  match cls with
  | 0 => slotBase inst + 0x100
  | 1 => clusterBase (inst / 8) (inst % 8) + 0x100
  | 2 => dieBase inst + 0x100
  | 3 => girthBase (inst / 4) (inst % 4) + 0x100
  | 4 => mcBase inst + 0x100
  | 5 => sliceBase inst + 0x100
  | 6 => 0x150400
  | 7 => wenBase inst + 0x400
  | 8 => cinchBase + 0x400
  | 9 => shadowBase + 0x400
  | 10 => siteBase inst + 0x400
  | 11 => powerBase + 0x400
  | 12 => mailboxBase + 0x400
  | 13 => 0x700400
  | _ => 0x400

/-- The block whose fault set starts at an offset, when one does. -/
def fltBlockAt (off : Nat) : Option (Nat × Nat) :=
  if off = 0x400 then some (14, 0)
  else if off = 0x150400 then some (6, 0)
  else if off = cinchBase + 0x400 then some (8, 0)
  else if off = shadowBase + 0x400 then some (9, 0)
  else if off = powerBase + 0x400 then some (11, 0)
  else if off = mailboxBase + 0x400 then some (12, 0)
  else if off = 0x700400 then some (13, 0)
  else if 0x200000 ≤ off && off < 0x290000 then
    (if (off - 0x200000) % 0x8000 = 0x400 then some (7, (off - 0x200000) / 0x8000) else none)
  else if 0x400000 ≤ off && off < 0x420000 then
    (if (off - 0x400000) % 0x10000 = 0x400 then some (10, (off - 0x400000) / 0x10000) else none)
  else if 0x1000000 ≤ off && off < 0x5000000 then
    let d := (off - 0x1000000) / 0x800000
    let o := (off - 0x1000000) % 0x800000
    if o = 0x100 then some (2, d)
    else if o = 0x40100 then some (4, d)
    else if o = 0x60100 then some (5, d)
    else if 0x10000 ≤ o && o < 0x1C000 then
      (if (o - 0x10000) % 0x4000 = 0x100 then some (3, 4 * d + (o - 0x10000) / 0x4000) else none)
    else if 0x100000 ≤ o && o < 0x500000 then
      let c := (o - 0x100000) / 0x80000
      let r := (o - 0x100000) % 0x80000
      if r = 0x100 then some (1, 8 * d + c)
      else if 0x10000 ≤ r && r % 0x10000 = 0x100 then
        let sl := 64 * d + 8 * c + (r / 0x10000 - 1)
        if r / 0x10000 ≤ 5 && isSlot sl then some (0, sl) else none
      else none
    else none
  else none

/-- Whether a class and an instance name a block (Table 14.1). -/
def isBlock (cls inst : Nat) : Bool := cls ≤ 14 && fltBlockAt (fltBase cls inst) = some (cls, inst)

end Sys2Proof.Machine
end

