-- ==== Sys2Proof/Machine/Regs.lean ====
section
/-! DEFINITION. The register table of BAR0: for every offset its fields with access code, reset value and legal range
(spec/00 R1, R9-R12, Tables 0.1, 0.6, 0.7; the register tables of spec/01-17). A gap between listed fields is a reserved field. -/

namespace Sys2Proof.Machine

/-- Access codes (Table 0.7); `res` is a reserved field. -/
inductive Acc where
  | rw | ro | w1c | w1s | wo | rc | res
  deriving DecidableEq, Repr

/-- The legal values of an RW field and what an illegal one is applied as (R10: the nearest legal value unless the field's
own text names another). -/
inductive Legal where
  | any
  | rng (lo hi : Nat)
  | above (hi sub : Nat)
  | swap (pairs : List (Nat × Nat))
  | only (v : List Nat) (sub : Nat)
  deriving DecidableEq, Repr

/-- The value applied for a written value (R10). -/
def Legal.apply : Legal → Nat → Nat
  | .any, v => v
  | .rng lo hi, v => if v < lo then lo else if hi < v then hi else v
  | .above hi sub, v => if hi < v then sub else v
  | .swap ps, v => look v ps v
  | .only vs sub, v => if vs.contains v then v else sub

structure Field where
  lsb : Nat
  w : Nat
  acc : Acc
  rst : Nat
  lg : Legal
  deriving DecidableEq, Repr

/-- An RW field with any value legal. -/
def fRW (lsb w rst : Nat) : Field := ⟨lsb, w, .rw, rst, .any⟩
/-- An RW field with a legal range. -/
def fRng (lsb w rst lo hi : Nat) : Field := ⟨lsb, w, .rw, rst, .rng lo hi⟩
/-- An RW field with another rule for illegal values. -/
def fLeg (lsb w rst : Nat) (lg : Legal) : Field := ⟨lsb, w, .rw, rst, lg⟩
def fRO (lsb w rst : Nat) : Field := ⟨lsb, w, .ro, rst, .any⟩
def fRC (lsb w : Nat) : Field := ⟨lsb, w, .rc, 0, .any⟩
def fW1C (lsb w : Nat) : Field := ⟨lsb, w, .w1c, 0, .any⟩
def fW1S (lsb w : Nat) : Field := ⟨lsb, w, .w1s, 0, .any⟩
def fWO (lsb w : Nat) : Field := ⟨lsb, w, .wo, 0, .any⟩

/-- A 64-bit read-only counter. -/
def counter : List Field := [fRO 0 64 0]
/-- A 64-bit RW register. -/
def word64 : List Field := [fRW 0 64 0]

/-- The listed fields with a reserved field in every gap up to bit 63. -/
def withGaps : Nat → List Field → List Field
  | pos, [] => if pos < 64 then [⟨pos, 64 - pos, .res, 0, .any⟩] else []
  | pos, f :: t =>
    if pos < f.lsb then ⟨pos, f.lsb - pos, .res, 0, .any⟩ :: f :: withGaps (f.lsb + f.w) t
    else f :: withGaps (f.lsb + f.w) t

/-- Fields of a fault register set at relative offset `o` (Table 14.2). -/
def fltFields (cls o : Nat) : Option (List Field) :=
  let dfl := classDefaults cls
  let n := dfl.length
  match o with
  | 0x00 => some [fW1C 0 n, fRO 32 n 0]
  | 0x08 => some [fRO 0 5 0, fRO 8 16 0, fW1C 24 1, fRO 25 3 0, fRO 28 1 0, fRO 29 1 0]
  | 0x10 => some counter
  | 0x18 => some counter
  | 0x20 => some [fW1C 0 1, fRO 16 16 0]
  | 0x28 => some []
  | _ =>
    if 0x30 ≤ o && o < 0x50 then
      let b := o - 0x30
      some ((upto 8).foldr (fun u acc =>
        if b + u < n then
          let a := nth 0 dfl (b + u)
          fLeg (8 * u) 3 (a % 8) (.swap (if notResettable cls then [(3, 1), (5, 4), (6, 4), (7, 4)] else [(5, 4), (6, 4), (7, 4)]))
            :: fRW (8 * u + 3) 1 (a / 8 % 2) :: fRW (8 * u + 4) 1 (a / 16 % 2) :: acc
        else acc) [])
    else none

/-- Highest 4 KiB page address field for WIN_BASE and WIN_LIMIT (R37, R306). -/
def winAddr : List Field := [fRng 12 36 0 0 0x5FFFFFF]
/-- WIN_ATTR (Table 1.9). -/
def winAttr : List Field := [fRW 0 1 0, fRW 1 1 0, fRW 2 1 0, fRW 3 1 0]
/-- DIE.PD_CTL and PKG.PD_CTL (Table 15.6). -/
def pdCtl : List Field := [fRO 0 3 0, fRW 3 1 1, fRW 4 1 0, fRW 5 1 0, fRng 12 20 0x3E8 1 1000000, fRO 32 32 0]
/-- DIE.ID and GLOBAL.HUB_ID (Table 1.11); the fused part comes from `State.fuses`. -/
def idFields : List Field := [fRO 0 8 0, fRO 8 8 0, fRO 16 8 0, fRO 24 8 0, fRO 32 8 0]
/-- GLOBAL.UPM (Table 0.1); the value comes from `State.fuses`. -/
def upmFields : List Field := [fRO 0 8 0, fRO 8 8 0, fRO 16 8 0, fRO 24 18 0, fRO 42 2 0, fRO 44 1 0, fRO 45 1 0, fRO 46 1 0,
  fRO 47 1 0, fRO 48 4 0, fRO 52 3 0]

/-- Eight 8-bit fields. -/
def bytes8 (f : Nat → Field) : List Field := (upto 8).map f

/-- Global window (spec/00, 01, 13, 14, 16). -/
def globalFields (o : Nat) : Option (List Field) :=
  match o with
  | 0x10 => some idFields
  | 0x20 => some [fW1S 0 1, fW1S 8 8, fRO 16 8 0, fRO 24 4 0, fRO 28 16 0]
  | 0x30 => some [fRO 0 1 0, fRO 1 1 0, fW1S 2 1, fW1S 3 1, fRO 4 1 0, fRO 5 1 0, fRO 6 1 0, fRO 16 16 0, fRO 32 16 0]
  | 0x100 => some upmFields
  | 0x200 => some word64
  | 0x208 => some [fRW 0 1 0, fRng 1 5 4 4 16, fRW 8 11 0]
  | 0x210 => some [fRO 0 32 0, fRW 32 32 0]
  | 0x218 => some [fRC 0 64]
  | 0x300 => some [fRW 0 1 0, fRng 16 11 0 0 2033]
  | 0x500 => some [fRO 0 2 0, fRO 2 1 0, fRO 3 2 0, fRO 5 1 0, fRO 6 1 0, fRO 7 1 0, fRO 16 48 0]
  | 0x508 => some [fW1S 0 1, fRng 8 8 0x14 1 255]
  | 0x510 => some [fRW 0 32 0]
  | 0x600 => some [fRO 0 3 0, fRO 3 1 0, fRO 4 3 0, fRO 7 1 0, fRO 8 1 0, fRO 9 1 0, fRO 10 1 0, fRO 11 2 0, fRO 32 32 0]
  | 0x6C0 => some [fRW 0 1 0, fRW 16 11 0]
  | _ =>
    if 0x400 ≤ o && o < 0x450 then fltFields 14 (o - 0x400)
    else if 0x640 ≤ o && o < 0x680 then
      some [fRO 0 3 0, fRO 3 1 0, fRO 4 1 0, fRO 5 1 0, fRO 6 1 0, fRO 7 1 0, fRO 8 6 0, fRO 16 6 0]
    else if 0x680 ≤ o && o < 0x6C0 then some counter
    else none

/-- A register of queue pair q (Tables 13.9, 13.10). -/
def queueFields (o : Nat) : Option (List Field) :=
  match o with
  | 0x00 => some word64
  | 0x08 => some word64
  | 0x10 => some [fRW 0 1 0, fRng 1 5 4 4 16, fRng 6 5 4 4 16, fRng 16 7 0 0 64, fRW 32 11 0, fRng 43 8 1 1 255, fRW 51 8 0]
  | 0x18 => some [fRO 0 32 0, fW1C 32 1, fRO 33 2 0]
  | 0x20 => some [fRO 0 32 0, fRO 32 32 0]
  | 0x28 => some [fRO 0 32 0]
  | _ => none

/-- A register of client block f (Tables 13.9, 13.10). -/
def clientFields (o : Nat) : Option (List Field) :=
  match o with
  | 0x00 => some [fRW 0 1 0, fRW 1 1 0, fRW 2 2 0, fW1S 4 1, fRW 8 8 0]
  | 0x08 => some [fRW 16 32 0]
  | _ =>
    if 0x10 ≤ o && o < 0x30 then some word64
    else if 0x40 ≤ o && o < 0x70 then some counter
    else none

/-- Host ring engine window (spec/13). -/
def engineFields (o : Nat) : Option (List Field) :=
  if o < 0x40000 then queueFields (o % 0x40)
  else if o < 0x44100 then clientFields ((o - 0x40000) % 0x100)
  else if 0x50000 ≤ o && o < 0x50040 then
    let i := (o - 0x50000) / 8
    some [fRW 0 1 1, fRng 33 15 i 0 0x2F]
  else if o = 0x50040 then some [fRW 0 1 1]
  else if 0x50400 ≤ o && o < 0x50450 then fltFields 6 (o - 0x50400)
  else none

/-- Credits at reset (Table 11.2). -/
def vcCredits : List Nat := [32, 896, 896, 1024, 256, 512, 384, 96]

/-- A Wenlyn port register (Tables 11.8, 11.9). -/
def wenPortFields (o : Nat) : Option (List Field) :=
  match o with
  | 0x00 => some [fRW 0 1 0, fRW 1 1 0, fRW 2 1 1, fRW 3 1 0, fRW 4 1 0, fW1S 5 1, fLeg 6 2 0 (.swap [(3, 0)]),
      fRng 8 5 0 0 17, fRW 13 1 0]
  | 0x08 => some [fRO 0 3 0, fRO 3 1 0, fRO 4 4 0]
  | 0x10 => some [fRO 0 9 0, fRO 9 9 0, fRO 18 3 0, fRO 21 1 0, fRO 22 1 0]
  | 0x18 => some [fRng 0 16 0xBB8 200 60000, fRng 16 12 0x64 10 4000, fRng 28 8 0xA 1 200, fRng 36 12 0x32 10 4000]
  | 0x20 => some [fRng 0 16 0x1F4 10 60000, fRng 16 16 0x7D0 100 60000, fRng 32 20 0x3E8 10 1000000]
  | 0x28 => some [fRng 0 16 0x400 1 65535, fRng 16 16 0x10 1 65535, fRng 32 16 0x1000 1 65535, fRng 48 8 0x10 1 255,
      fRng 56 8 0xA 1 255]
  | 0x30 => some ((upto 4).map (fun u => fRW (16 * u) 12 (nth 0 vcCredits u)))
  | 0x38 => some ((upto 4).map (fun u => fRW (16 * u) 12 (nth 0 vcCredits (4 + u))))
  | 0x40 => some (bytes8 (fun v => fRW (8 * v) 8 0))
  | 0x48 => some [fRO 0 12 0, fRO 12 5 0, fRO 17 8 0]
  | _ =>
    if 0x80 ≤ o && o ≤ 0xC0 then some counter
    else if 0x400 ≤ o && o < 0x450 then fltFields 7 (o - 0x400)
    else none

/-- The package-wide Wenlyn registers (Table 11.8). -/
def wenPkgFields (o : Nat) : Option (List Field) :=
  if o = 0 then some [fRW 0 12 0]
  else if o = 8 then some [fRng 0 12 1000 100 2000]
  else if 0x10 ≤ o && o < 0x40 then some word64
  else if 0x1000 ≤ o && o < 0x2000 then
    some ((upto 8).foldr (fun u acc => fRW (8 * u) 5 0 :: fRW (8 * u + 7) 1 0 :: acc) [])
  else if 0x2000 ≤ o && o < 0x2400 then
    (if o % 0x10 = 0 then some [fRW 0 12 0, fRW 12 12 0, fRW 24 8 0, fRW 32 1 0, fRW 33 1 0] else some [fRW 0 32 0])
  else if 0x2800 ≤ o && o < 0x2C00 then
    match o % 0x20 with
    | 0 => some winAddr
    | 8 => some winAddr
    | 0x10 => some winAttr
    | _ => none
  else none

/-- Highest address of a base aligned to 2^k, in units of 2^k (R261, R37). -/
def topUnit (k : Nat) : Nat := 0x5FFFFFFFFF / 2 ^ k

/-- Cinch registers (Tables 9.6, 9.7). -/
def cinchFields (o : Nat) : Option (List Field) :=
  match o with
  | 0x00 => some [fRW 0 1 0, fRW 1 1 0, fRng 2 5 4 1 16, fRW 8 4 0, fRW 12 4 0]
  | 0x08 => some [fRng 0 20 0x3E8 1 600000, fRng 20 20 0x2710 1 600000, fRW 40 4 3]
  | 0x10 => some [fRng 6 42 0 0 (topUnit 6)]
  | 0x18 => some [fRng 0 11 0 0 1024]
  | 0x20 => some [fRng 14 34 0 0 (topUnit 14)]
  | 0x28 => some [fRng 12 36 0 0 (topUnit 12)]
  | 0x30 => some [fRng 10 38 0 0 (topUnit 10)]
  | 0x38 => some [fRO 0 3 0, fRO 8 8 0, fRO 16 4 0, fRO 20 44 0]
  | _ =>
    if 0x80 ≤ o && o < 0x100 then some word64
    else if 0x100 ≤ o && o < 0x200 then some counter
    else if 0x200 ≤ o && o < 0x220 then some counter
    else if 0x400 ≤ o && o < 0x450 then fltFields 8 (o - 0x400)
    else none

/-- Shadow registers (Tables 10.9, 10.10). -/
def shadowFields (o : Nat) : Option (List Field) :=
  match o with
  | 0x00 => some [fRW 0 1 0, fRW 1 1 0, fRW 2 1 0, fRW 8 8 0, fRng 16 9 0x100 1 256, fRng 25 7 8 0 100,
      fRng 32 24 0x64 1 16777215]
  | 0x08 => some [fRW 6 42 0, fRng 56 7 0 0 120]
  | 0x10 => some [fRW 16 32 0]
  | 0x18 => some [fRW 16 32 0]
  | 0x20 => some [fRW 6 42 0]
  | 0x28 => some word64
  | 0x30 => some [fRng 0 5 0xA 4 23]
  | 0x38 => some [fRO 0 1 0, fRO 16 48 0]
  | 0x40 => some [fRO 0 1 0, fRO 1 1 0, fRO 2 1 0, fRO 3 1 0, fRO 4 1 0, fRO 5 1 0, fRO 16 48 0]
  | 0x48 => some ((upto 6).map (fun v => fRO (2 * v) 2 0))
  | _ =>
    if 0x80 ≤ o && o < 0xA0 then some counter
    else if 0x400 ≤ o && o < 0x450 then fltFields 9 (o - 0x400)
    else none

/-- A Bridle site's registers (spec/01). -/
def siteFields (o : Nat) : Option (List Field) :=
  if o = 0 then some [fRW 0 1 0, fRO 1 1 0, fRO 2 2 0, fRng 8 8 0x80 1 128, fRW 16 11 0, fLeg 27 7 0 (.above 64 0)]
  else if o = 8 then some [fRC 0 64]
  else if 0x100 ≤ o && o < 0x200 then
    match o % 0x20 with
    | 0 => some winAddr
    | 8 => some winAddr
    | 0x10 => some winAttr
    | _ => none
  else if 0x400 ≤ o && o < 0x450 then fltFields 10 (o - 0x400)
  else none

/-- Package power and clock (Table 15.7). -/
def powerFields (o : Nat) : Option (List Field) :=
  match o with
  | 0x00 => some [fRng 0 12 0xE10 500 3600]
  | 0x08 => some [fRO 0 16 0, fRO 16 16 0, fRO 32 3 0, fRO 35 3 0]
  | 0x10 => some counter
  | 0x18 => some [fRng 0 8 0x64 70 104, fRng 8 4 5 1 15]
  | 0x20 => some [fRW 0 7 0x10, fRng 8 16 0x14 1 10000]
  | _ =>
    if 0x100 ≤ o && o < 0x1B8 then some pdCtl
    else if 0x400 ≤ o && o < 0x450 then fltFields 11 (o - 0x400)
    else none

/-- Request codes of Table 11.3 that P_GEN.OP accepts; others are applied as 0x01 (Table 17.4). -/
def genOps : List Nat := [0x01, 0x02, 0x03, 0x10, 0x11, 0x12, 0x20, 0x21, 0x28, 0x29]

/-- Latency and histogram registers of an Awl slot, from +0x40 (Table 17.3). -/
def awlStat (o : Nat) : Option (List Field) :=
  if 0x40 ≤ o && o < 0xD8 then some counter
  else if 0x100 ≤ o && o < 0x200 then some counter
  else none

/-- An Awl port's registers (Tables 17.3, 17.4). -/
def awlPortFields (o : Nat) : Option (List Field) :=
  match o with
  | 0x00 => some [fRW 0 2 0, fW1S 2 1, fW1S 3 1, fRW 4 1 0, fRO 5 2 0]
  | 0x08 => some [fLeg 0 3 6 (.swap [(0, 6), (7, 6)]), fLeg 8 8 1 (.only genOps 1), fRW 16 8 0, fRng 32 7 0x64 1 100,
      fRW 40 24 0]
  | 0x10 => some [fRW 0 48 0, fRW 48 12 0]
  | 0x18 => some [fRW 0 3 0, fRW 3 5 0, fRW 8 8 0, fRng 16 16 0x3E8 1 65535, fRng 32 16 1 1 65535, fRng 48 16 0xA 1 65535]
  | 0x20 => some [fRW 0 16 0, fRng 16 8 0xA 1 255, fLeg 24 2 0 (.swap [(3, 0)]), fRng 32 13 0 0 4096, fRW 56 8 0]
  | _ =>
    match awlStat o with
    | some f => some f
    | none =>
      if 0x200 ≤ o && o < 0x248 then some counter
      else if 0x280 ≤ o && o < 0x2C8 then some counter
      else none

/-- Awl and Glint (Tables 17.3, 17.4); `o` counts from BAR0 0x0070_0000. -/
def awlFields (o : Nat) : Option (List Field) :=
  if 0x400 ≤ o && o < 0x450 then fltFields 13 (o - 0x400)
  else if 0x1000 ≤ o && o < 0x13000 then awlPortFields (o % 0x1000)
  else if o = 0x13000 then some [fRW 0 1 0, fRW 1 3 0, fRW 4 3 0, fW1S 7 1, fRO 8 2 0, fRW 10 54 0]
  else if o = 0x13008 || o = 0x13010 then some word64
  else if o = 0x13018 then some counter
  else if o = 0x13020 then awlPortFields 0x20
  else if 0x13040 ≤ o && o < 0x13200 then awlStat (o - 0x13000)
  else if o = 0x14000 then
    some [fRW 0 3 0, fRW 3 2 0, fRW 5 4 0, fRng 9 7 0 0 65, fRW 16 1 0,
      fLeg 17 7 0 (.swap ((fromLen 33 31).map (fun v => (v, 32)) ++ (fromLen 64 32).map (fun v => (v, 96)))),
      fW1S 24 1, fRO 25 2 0, fRng 32 16 0x3E8 1 65535]
  else if o = 0x14008 then some [fRO 0 32 0, fRO 32 32 0]
  else if o = 0x40000 then some counter
  else if o = 0x40008 then some [fRW 0 1 0, fRO 1 1 0, fRO 32 32 0]
  else if o = 0x40010 then some [fWO 0 32]
  else if 0x40100 ≤ o && o < 0x40200 then
    match o % 0x20 with
    | 0x00 => some [fRW 12 36 0]
    | 0x08 => some [fRW 0 1 0, fRng 1 5 8 8 24, fRW 6 3 0, fRW 16 8 0, fRW 24 8 0xFF]
    | 0x10 => some [fRO 0 32 0, fRW 32 32 0]
    | 0x18 => some [fRC 0 64]
    | _ => none
  else none

/-- CHAN_DEST layout (Table 7.10). -/
def chanDest : List Field := [fRW 0 12 0xFFF, fRW 16 8 0, fRW 24 4 0]
/-- RQ_ACCEPT layout (Table 7.10). -/
def rqAccept : List Field := [fRW 0 12 0, fRW 12 8 0, fRW 20 6 0, fRW 31 1 0, fRW 32 12 0, fRW 44 8 0, fRW 52 6 0, fRW 63 1 0]

/-- A core slot's registers (Tables 2.9, 3.10-3.12, 4.13-4.16, 5.7, 7.9, 7.10, 8.10, 8.11); `lc` is the slot's logical
number at reset. -/
def coreFields (lc o : Nat) : Option (List Field) :=
  if o = 0x8 then some [fRW 0 8 lc]
  else if 0x100 ≤ o && o < 0x150 then fltFields 0 (o - 0x100)
  else if o = 0x200 then some [fRW 0 1 0, fRO 1 1 0]
  else if o = 0x208 || o = 0x210 then some [fRO 0 32 0, fRO 32 32 0]
  else if o = 0x218 then some [fRO 0 32 0]
  else if 0x300 ≤ o && o < 0x380 then some (bytes8 (fun u => fLeg (8 * u) 8 0xFF (.swap [(0xFE, 0xFF)])))
  else if 0x380 ≤ o && o < 0x3A0 then some counter
  else if o = 0x3A0 then some [fRO 0 1 0, fRO 1 1 0, fRO 2 1 0, fRO 3 1 0]
  else if 0x400 ≤ o && o < 0x500 then
    match o % 0x40 with
    | 0x00 => some [fRW 0 1 0, fRng 1 4 4 4 12, fRW 8 8 0xFF, fRW 16 16 0, fRW 32 16 0, fRW 48 6 0, fRW 54 6 0x3F]
    | 0x08 => some [fRW 0 24 0, fRW 24 24 0, fRW 48 16 0]
    | 0x10 => some [fRW 0 48 0, fRW 48 16 0]
    | 0x18 => some [fRW 0 8 0, fRW 8 8 0, fRW 16 8 0, fRW 24 8 0]
    | 0x20 => some [fW1C 0 1, fRO 1 3 0, fRO 32 32 0]
    | _ => none
  else if 0x500 ≤ o && o < 0x700 then (if o % 0x20 < 0x18 then some word64 else none)
  else if 0x700 ≤ o && o < 0x780 then some [fRW 0 32 0]
  else if 0x780 ≤ o && o < 0x798 then some counter
  else if o = 0x800 then some [fRW 0 1 0, fRW 8 8 0xFF, fRng 16 24 0x10 1 4194304]
  else if o = 0x808 then some [fRW 16 32 0]
  else if o = 0x810 then some [fRO 0 32 0, fRO 32 9 0]
  else if o = 0x818 then some [fRC 0 32, fRC 32 9]
  else if o = 0x820 then some [fRO 0 32 0, fRO 32 32 0]
  else if 0x900 ≤ o && o < 0x1100 then
    match o % 0x20 with
    | 0x00 => some [fRW 0 1 0, fRW 1 1 0, fRng 2 2 0 0 2, fRW 8 8 0xFF, fRng 16 3 4 1 4, fRW 32 32 0]
    | 0x08 => some chanDest
    | 0x10 => some [fRO 0 3 0, fRO 8 8 0, fRO 16 32 0]
    | _ => none
  else if 0x1100 ≤ o && o < 0x1500 then
    match (o - 0x1100) % 0x40 with
    | 0x00 => some [fRW 0 1 0, fRW 1 1 0, fRW 2 1 0, fRW 8 8 0xFF, fRng 16 5 0x11 17 24, fRW 24 1 0, fRW 25 4 0,
        fRng 32 16 0x3E8 1 65535]
    | 0x08 => some [fRW 0 24 0]
    | 0x10 => some [fRO 0 32 0, fRO 32 32 0]
    | 0x18 => some [fRO 0 5 0, fRO 8 16 0, fRO 24 7 0, fRO 32 32 0]
    | _ => some rqAccept
  else if o = 0x1500 then
    some ((upto 5).foldr (fun p acc => fRO (8 * p) 4 0 :: fRO (8 * p + 4) 1 0 :: acc) [])
  else if o = 0x1508 || o = 0x1510 then some counter
  else if 0x1600 ≤ o && o < 0x1640 then
    match o % 0x20 with
    | 0x00 => some [fRW 0 1 0, fRW 1 2 0, fRW 3 1 0, fRW 4 3 0, fRng 8 4 4 4 12]
    | 0x08 => some [fRW 0 24 0, fRW 24 16 0]
    | 0x10 => some [fRO 0 16 0, fRO 16 12 0, fRO 28 1 0, fRO 29 1 0, fRO 30 1 0, fRO 32 32 0]
    | _ => none
  else if o = 0x1640 then some [fRW 0 1 0, fRng 1 4 6 6 12, fRW 8 16 0, fRO 32 13 0, fRW 48 8 0]
  else if 0x1680 ≤ o && o < 0x16C0 then some counter
  else if o = 0x16C0 then some [fRO 0 1 0, fRW 1 1 0, fRO 32 32 0]
  else if o = 0x16C8 then some [fRW 0 8 0, fRW 8 8 0, fRW 16 8 0]
  else if 0x1800 ≤ o && o < 0x1A00 then some chanDest
  else if 0x1A00 ≤ o && o < 0x1C00 then some rqAccept
  else none

/-- A Girth port's registers (Tables 1.6-1.8). -/
def girthFields (o : Nat) : Option (List Field) :=
  match o with
  | 0x00 => some [fRO 0 1 0, fRO 1 1 0, fRO 2 1 0, fRO 8 5 0, fRO 16 16 0, fRO 32 32 0]
  | 0x08 => some [fRng 0 16 0x40 1 65535, fRng 16 16 0x3E8 10 60000]
  | 0x10 => some [fRng 0 16 2000 200 50000]
  | 0x18 => some counter
  | 0x20 => some counter
  | _ => if 0x100 ≤ o && o < 0x150 then fltFields 3 (o - 0x100) else none

/-- Memory-controller registers (Tables 12.5-12.7). -/
def mcFields (o : Nat) : Option (List Field) :=
  if o = 0 then some [fRO 0 1 0, fRO 1 1 0, fRO 2 1 0, fRO 8 5 0, fRO 16 10 0]
  else if o = 8 then some [fRng 0 16 0x10 1 65535, fRng 16 16 0xE10 1 65535, fRW 32 1 1]
  else if o = 0x10 then some [fRW 0 1 1, fRng 8 8 0x18 1 255]
  else if 0x20 ≤ o && o < 0x50 then some counter
  else if 0x100 ≤ o && o < 0x150 then fltFields 4 (o - 0x100)
  else if 0x1000 ≤ o && o < 0x1800 then
    match o % 0x20 with
    | 0x00 => some [fRng 16 32 0 0 0x5FFFFF]
    | 0x08 => some [fRng 16 32 0 0 0x5FFFFF]
    | 0x10 => some [fRW 0 1 0, fRW 1 1 0, fRW 2 1 0, fRW 3 1 0, fRW 4 2 0, fRW 8 8 0xFF]
    | _ => none
  else if 0x2000 ≤ o && o < 0x2080 then some [fRO 0 6 0, fRO 6 6 0, fRO 12 14 0, fRO 26 1 0, fRO 27 1 0]
  else if 0x4000 ≤ o && o < 0x5000 then some [fRW 0 20 0, fRW 20 1 0, fRW 21 3 0, fRW 24 40 0]
  else none

/-- Cache-slice registers (Tables 12.5, 12.6). -/
def sliceFields (o : Nat) : Option (List Field) :=
  if o = 0 then some [fRW 0 4 0xC]
  else if 0x10 ≤ o && o < 0x38 then some counter
  else if 0x100 ≤ o && o < 0x150 then fltFields 5 (o - 0x100)
  else none

/-- Tack Store registers (Table 8.12). -/
def tackFields (o : Nat) : Option (List Field) :=
  if o < 0x8000 then
    match o % 0x40 with
    | 0x00 => some [fRng 12 36 0 0 0x5FFFFFF]
    | 0x08 => some [fRW 12 36 0]
    | 0x10 => some [fRW 6 42 0]
    | 0x18 => some [fRW 0 1 0, fRW 1 2 0, fRW 3 1 0, fRO 16 12 0, fRO 28 1 0, fRO 29 1 0, fRO 30 2 0]
    | 0x20 => some [fRO 0 48 0, fRO 48 4 0]
    | 0x28 => some [fRO 0 16 0, fRO 16 16 0, fRO 32 16 0, fRO 48 16 0]
    | _ => some []
  else if o < 0x8018 then some counter
  else none

/-- A die window's registers; `o` counts from the die window (Table 0.6, Tables 1.10, 15.5). -/
def dieFields (d o : Nat) : Option (List Field) :=
  if o = 0 then some idFields
  else if o = 0x20 then some [fRW 0 1 0, fRO 1 1 0, fRW 8 5 0]
  else if 0x100 ≤ o && o < 0x150 then fltFields 2 (o - 0x100)
  else if o = 0x2000 then some [fRng 0 3 4 0 5, fRO 8 3 5, fRO 11 1 0, fW1C 12 1, fRO 16 3 0, fRO 19 3 4]
  else if o = 0x2008 then some (bytes8 (fun i => fRO (8 * i) 8 0))
  else if 0x2100 ≤ o && o < 0x2270 then some pdCtl
  else if 0x2400 ≤ o && o < 0x2508 then some counter
  else if o = 0x2510 then some counter
  else if 0x10000 ≤ o && o < 0x1C000 then girthFields ((o - 0x10000) % 0x4000)
  else if 0x40000 ≤ o && o < 0x60000 then mcFields (o - 0x40000)
  else if 0x60000 ≤ o && o < 0x80000 then sliceFields (o - 0x60000)
  else if 0x80000 ≤ o && o < 0x100000 then tackFields (o - 0x80000)
  else if 0x100000 ≤ o && o < 0x500000 then
    let c := (o - 0x100000) / 0x80000
    let r := (o - 0x100000) % 0x80000
    if r < 0x10000 then (if 0x100 ≤ r && r < 0x150 then fltFields 1 (r - 0x100) else none)
    else
      let sl := 64 * d + 8 * c + (r / 0x10000 - 1)
      if r / 0x10000 ≤ 5 && isSlot sl then
        coreFields (if sl % 8 = 4 then 32 * d + 31 else 32 * d + 4 * c + sl % 8) (r % 0x10000)
      else none
  else none

/-- The fields of the register at a BAR0 offset; none where the offset maps nothing. Offsets are multiples of 8. -/
def regFields (off : Nat) : Option (List Field) :=
  if off % 8 ≠ 0 then none
  else if off < 0x100000 then globalFields off
  else if off < 0x200000 then engineFields (off - 0x100000)
  else if off < 0x290000 then wenPortFields ((off - 0x200000) % 0x8000)
  else if off < 0x300000 then wenPkgFields (off - 0x290000)
  else if off < 0x380000 then cinchFields (off - 0x300000)
  else if off < 0x400000 then shadowFields (off - 0x380000)
  else if off < 0x420000 then siteFields ((off - 0x400000) % 0x10000)
  else if off < 0x500000 then none
  else if off < 0x600000 then powerFields (off - 0x500000)
  else if off < 0x700000 then (if 0x600400 ≤ off && off < 0x600450 then fltFields 12 (off - 0x600400) else none)
  else if off < 0x800000 then awlFields (off - 0x700000)
  else if 0x1000000 ≤ off && off < 0x5000000 then dieFields ((off - 0x1000000) / 0x800000) ((off - 0x1000000) % 0x800000)
  else none

/-- Reset value built from the fields' reset values. -/
def resetFields (fs : List Field) : Word :=
  BitVec.ofNat 64 (sumN (fs.map (fun f => f.rst % 2 ^ f.w * 2 ^ f.lsb)))

/-- The value a register holds at its block's reset (R1 and the register tables; an offset that maps nothing holds 0). -/
def regReset (off : Nat) : Word :=
  match regFields off with
  | some fs => resetFields fs
  | none => 0#64

end Sys2Proof.Machine
end

