-- ==== Sys2Proof/Machine/State.lean ====
section
/-! DEFINITION. The state of the package, as plain data, and the state right after reset. -/

namespace Sys2Proof.Machine

/-- Why the machine stops with a fault: the manual gives every command an effect, and no command does. -/
inductive Fault
  deriving DecidableEq, Repr

/-- Why a command has no meaning. -/
inductive Refusal where
  /-- The command has no meaning yet. Raised only by arms of `exec`. Safe: the machine stops. -/
  | notModelled (mnemonic : String)
  deriving DecidableEq, Repr

/-- What the package sends out: the model's record of it, oldest first. -/
inductive Signal where
  /-- An MSI-X message of a client's function (R330, R338). -/
  | msix (f vec : Nat)
  /-- The fault interrupt of a block, asserted to its owner (R362). -/
  | irq (cls inst : Nat)
  /-- A non-maskable trap taken by an owner hart for a block (R363). -/
  | nmi (owner cls inst : Nat)
  /-- The ERR_N pin asserted (true) or released (R366). -/
  | errN (asserted : Bool)
  /-- THERMTRIP_N asserted (R390). -/
  | thermtrip
  /-- Data of a BAR0 register read. -/
  | busData (v : Word)
  /-- Data of a BAR2 read or a slice read; poisoned or not (R320). -/
  | memData (poisoned : Bool) (bytes : List Byte)
  /-- A completion sent to a third-party site: error or data (R34). -/
  | siteResp (site : Nat) (err : Bool) (bytes : List Byte)
  /-- The firmware of a host queue is woken (R335). -/
  | wake (q : Nat)
  /-- Completion interrupt of an op queue to hart 4 of the cluster (Table 4.3). -/
  | cplIrq (sl q : Nat)
  /-- A flit sent on a Wenlyn port (R285). -/
  | wenFlit (p : Nat) (flit : List Byte)
  /-- An SPDM message sent on a Wenlyn port (R300). -/
  | spdm (p : Nat) (bytes : List Byte)
  /-- A notice sent on VC0 of a Wenlyn port, with the values it carries: 0 HELLO, 1 partner fault, 2 close, 3 lane swap (R291, R295, R296,
  R305). -/
  | vc0 (p kind : Nat) (vals : List Nat)
  /-- A request of the package to another one ends without its effect, with a status of Table 11.10 (R307). -/
  | remoteEnd (pkg tag status : Nat)
  /-- A PMBus command issued to the supply (R373, R430). -/
  | pmbus (cmd : Nat)
  /-- The repeat notice to hart 4 of a cluster (R255). -/
  | repeatNotice (cl : Nat)
  /-- An RSI request to the regulator controller of a die: rail, level or state (R375, R376). -/
  | rsi (d rail level : Nat)
  /-- The clock of a die's core islands changes to a P-level (R386). -/
  | clock (d level : Nat)
  /-- The response of the receiver to a PCIe margining command (R417). -/
  | marginResp (lane errors : Nat)
  /-- An MCTP message delivered to the MC (R430). -/
  | mctp (bytes : List Byte)
  /-- A Girth flit's payload is passed on at an end, in SEQ order (R20). -/
  | girth (e cls tag : Nat) (payload : List Byte)
  /-- A PRBS pattern starts on a port's lanes (R409). -/
  | prbs (p : Nat)
  deriving DecidableEq, Repr

/-- What fuses hold: GLOBAL.UPM (R1) and the fused parts of DIE.ID and GLOBAL.HUB_ID (Table 1.11; log 4). -/
structure Fuses where
  upm : Word
  dieId : List Word
  hubId : Word
  deriving DecidableEq, Repr

/-- A fault trigger on its way to a fault set (R359); `ev` is the number of the event that raised it. -/
structure Raise where
  cls : Nat
  inst : Nat
  idx : Nat
  synd : Nat
  ev : Nat
  /-- Coordinate of the first NaN, for NAN_TRAP (R61). -/
  coord : List Nat
  deriving DecidableEq, Repr

/-- The NMI state of an owner hart: cluster control core 0-63, die control core 64 + d, MC 72 (R363). -/
structure NmiHart where
  nmivec : Nat
  mepc : Nat
  mcause : Nat
  mtval : Nat
  pc : Nat
  /-- The block whose NMI is being handled. -/
  handling : Option (Nat × Nat)
  /-- Held NMIs in arrival order: class, instance, event. -/
  held : List (Nat × Nat × Nat)
  deriving DecidableEq, Repr

/-- Accumulation modes (Table 3.1). -/
inductive AccMode where
  | acc32 | acc16 | wide | int32
  deriving DecidableEq, Repr

/-- Mode tag of an accumulator slot (R72). -/
inductive SlotTag where
  | empty
  | mode (m : AccMode)
  | poison
  deriving DecidableEq, Repr

/-- One accumulator element: the FP32, binary16 or INT32 code, or for WIDE the code of P, with W, the special state
(0 none, 1 NaN, 2 +Inf, 3 -Inf) and the term count n (R72, R75, R78). -/
structure AccEl where
  code : Nat
  w : Int
  sp : Nat
  n : Nat
  deriving DecidableEq, Repr

/-- The element of an EMPTY slot. -/
def AccEl.zero : AccEl := ⟨0, 0, 0, 0⟩

/-- A tensor descriptor (Table 4.7). -/
structure Desc where
  addr : Nat
  fmt : Nat
  ndim : Nat
  port : Bool
  scalePtr : Nat
  size : List Nat
  stride : List Nat
  deriving DecidableEq, Repr

/-- The first NaN of a write unit: coordinate, UNIT and FORMAT of Table 2.8. -/
structure NanAt where
  coord : List Nat
  unit : Nat
  fmt : Nat
  deriving DecidableEq, Repr

/-- The conversion counters of Table 2.7. -/
structure Counters where
  und : Nat
  sat : Nat
  nan : Nat
  zero : Nat
  deriving DecidableEq, Repr

/-- A slice atomic of a SCATTER: address, code (Operands of `atomicApply`), operand, coordinate in DST and its format (R127). -/
structure AtomW where
  addr : Nat
  code : Nat
  opnd : Nat
  coord : List Nat
  fmt : Nat
  deriving DecidableEq, Repr

/-- One write unit of an operation's fixed write order (R61): byte writes, slice atomics, what it counts, and its first NaN. -/
structure WUnit where
  writes : List (Nat × List Byte)
  atomics : List AtomW
  cnt : Counters
  trap : Option NanAt
  deriving DecidableEq, Repr

/-- The result of an operation: status, DETAIL, the record's bits [8:0] of bytes 6-7 (LONGSUM, INT_WRAP, INDEX_OOB,
EMPTY_SEG, FFLAGS), its write units in order, writes made at operation end, and a statistics record with its address, its
STATS_ACC and its bytes (R92). -/
structure OpRes where
  status : Nat
  detail : Nat
  flags : Nat
  units : List WUnit
  tail : List (Nat × List Byte)
  stats : Option (Nat × Bool × List Byte)
  deriving DecidableEq, Repr

/-- Progress of an operation in flight (R100, R101, R115, R116): issued and not started; running in its unit; its work done and
the completion record not yet written; its record held by a full completion ring. -/
inductive OpStage where
  | issued | running | finishing | recordHeld
  deriving DecidableEq, Repr

/-- An operation in flight (R100-R116). -/
structure Op where
  tag : Nat
  q : Nat
  /-- TOD_SEQ. -/
  seq : Nat
  /-- The 128 bytes of the TOD as one number, byte 0 lowest. -/
  tod : Nat
  ctx : Nat
  vstage : Nat
  mb : Nat
  /-- Descriptors read at issue, by DESC slot (R107). -/
  descs : List (Nat × Desc)
  stage : OpStage
  /-- Accumulator slots named (R83, R84) and the settled mode (R105). -/
  slots : List Nat
  mode : AccMode
  /-- Byte ranges [lo, hi) touched in scratchpad and cluster memory (R113). -/
  ins : List (Nat × Nat)
  outs : List (Nat × Nat)
  /-- Streams named (R133); key and counter of RNG_STREAM captured at the start of a drain. -/
  streams : List Nat
  ctrs : List (Nat × Nat)
  /-- Coarse scales by DESC slot, read when the operation started (R44). -/
  scales : List (Nat × Nat)
  /-- Row winners so far of a drain: column and FP32 code (R90). -/
  wins : List (Nat × Nat)
  /-- Waits already counted (R84, R113). -/
  hazAcc : Bool
  hazMem : Bool
  startTs : Nat
  /-- When its work was complete (END_TS). -/
  endTs : Nat
  res : OpRes
  /-- Next tile to compute and next tile to drain (R66, R93). -/
  tile : Nat
  drained : Nat
  /-- Messages assigned to operand ports: port, queue, and the message's TAIL count at its grant (R209). -/
  msgs : List (Nat × Nat × Nat)
  /-- Operation-specific progress. -/
  aux : List Nat
  /-- Accrued accounting (R349): HBM bytes, link bytes, energy in nJ. -/
  hbm : Nat
  link : Nat
  nj : Nat
  deriving DecidableEq, Repr

/-- A hart of a control core that runs kernels: its program counter, integer and floating-point registers, the 32 vector registers of 2 KiB in
the vector unit of its core, and its CSRs (R137-R139). -/
structure Hart where
  pc : Word
  x : List Word
  f : List Word32
  v : List (BitVec 16384)
  fflags : Nat
  frm : Nat
  vl : Nat
  /-- vtype: bits 7:0 and, where it is illegal, bit 63 (vill). -/
  vtype : Word
  vstart : Nat
  vxsat : Nat
  vxrm : Nat
  deriving DecidableEq, Repr

/-- A hart right after its reset: the manual gives no values (log 120). -/
def Hart.reset : Hart :=
  { pc := 0#64, x := List.replicate 32 0#64, f := List.replicate 32 0#32, v := List.replicate 32 0#16384, fflags := 0, frm := 0, vl := 0
    vtype := 0x8000000000000000#64, vstart := 0, vxsat := 0, vxrm := 0 }

/-- A VEC_CALL kernel running on a hart (R139): its operation's tag and queue, the context of its requests, CYCLE_LIMIT, and the bytes of HBM
it has moved. -/
structure Kernel where
  tag : Nat
  q : Nat
  ctx : Nat
  limit : Nat
  hbm : Nat
  deriving DecidableEq, Repr

/-- A record or SKIP header of the stash, in ring order (R155-R158): key, offset and length in 64-byte units; `mode`
how it was stored; `asked` when its release is due, `released` when it is marked so. -/
structure StashRec where
  skip : Bool
  mb : Nat
  vstage : Nat
  slot : Nat
  off : Nat
  len : Nat
  mode : Nat
  asked : Bool
  released : Bool
  deriving DecidableEq, Repr

/-- A grant request waiting at a receive queue (R202): its sender, its message and the message's LENGTH. -/
structure RxReq where
  pkg : Nat
  core : Nat
  chan : Nat
  seq : Nat
  len : Nat
  deriving DecidableEq, Repr

/-- A granted message of a receive queue, or a SKIP header, in grant order (R203-R211). -/
structure RxMsg where
  /-- TAIL when it was granted; names the message. -/
  start : Nat
  off : Nat
  len : Nat
  pkg : Nat
  core : Nat
  chan : Nat
  seq : Nat
  /-- 0 message, 1 SKIP, 2 ABORTED (Table 7.2). -/
  kind : Nat
  complete : Bool
  visible : Bool
  assigned : Option Nat
  released : Bool
  deriving DecidableEq, Repr

/-- A receive queue outside its registers (R196-R214). -/
structure RxQ where
  /-- Registered dynamic senders: package, core, channel. -/
  dyn : List (Nat × Nat × Nat)
  reqs : List RxReq
  msgs : List RxMsg
  /-- Ends that were registered when the queue closed: a grant request of one is answered with PEER_GONE (Table 7.1). -/
  gone : List (Nat × Nat × Nat)
  deriving DecidableEq, Repr

def RxQ.reset : RxQ := { dyn := [], reqs := [], msgs := [], gone := [] }

/-- A sender channel outside its registers. -/
structure Chan where
  /-- EN was cleared while the channel was OPENING, so it closes once its open ends (R198). -/
  closeWanted : Bool
  deriving DecidableEq, Repr

def Chan.reset : Chan := { closeWanted := false }

/-- A Wenlyn flit apart from the fields a transmitter writes afresh (R285, Table 11.1). -/
structure WFlit where
  vc : Nat
  som : Bool
  eom : Bool
  len8 : Nat
  src : Nat
  dst : Nat
  tag : Nat
  reqId : Nat
  ttl : Nat
  payload : List Byte
  deriving DecidableEq, Repr

/-- A request or response with its transaction header (R289). -/
structure WReq where
  vc : Nat
  src : Nat
  dst : Nat
  tag : Nat
  reqId : Nat
  op : Nat
  flags : Nat
  code : Nat
  arg : Nat
  data : List Byte
  deriving DecidableEq, Repr

/-- What a request the package originated serves. -/
inductive WOrigin where
  | chan (m : NetMsg)
  | cinch
  | shadow (base copy region : Nat)
  /-- A SNAP_ACK to the source of a snapshot. -/
  | snapAck
  /-- A read of a slot for a RESTORE, by its command. -/
  | restore (cmd : Nat)
  | awl (p : Nat)
  deriving DecidableEq, Repr

/-- A request without a response (R297); `sent` once its first flit has left. -/
structure WOut where
  port : Nat
  /-- The port its sender gave, where it gave one; else the route table names the port. -/
  via : Option Nat
  req : WReq
  org : WOrigin
  sent : Bool
  /-- When it was issued. -/
  at_ : Nat
  deriving DecidableEq, Repr

/-- An entry of a replay buffer (R292, R294). -/
structure WEntry where
  seq : Nat
  fl : WFlit
  resends : Nat
  due : Bool
  /-- When it was last resent for a gap. -/
  gapT : Option Nat
  deriving DecidableEq, Repr

/-- A DATA flit received and not delivered yet: its number, the rule of Table 17.1 its header breaks (0 none), the channel message the
request it ends spells (log 40), and the flit (R293). -/
structure WHeld where
  seq : Nat
  rule : Nat
  /-- Its two header words. -/
  lo : Nat
  hi : Nat
  spells : Option NetMsg
  fl : WFlit
  deriving DecidableEq, Repr

/-- A Wenlyn port outside its registers (R286-R296). -/
structure WPort where
  txq : List (Nat × List WFlit)
  replay : List WEntry
  nextSeq : Nat
  /-- Credit held, flits, for each VC; and the last CRED_RET applied. -/
  cred : List Nat
  lastRet : List Nat
  rxNext : Nat
  held : List WHeld
  part : List (Nat × List WFlit)
  /-- Flits kept in the input buffer while the idempotency table is full (R298). -/
  stuck : List WHeld
  /-- For each VC: DATA flits received, flits freed, and the freed count last carried to the partner. -/
  got : List Nat
  freed : List Nat
  retd : List Nat
  /-- Credit returned in the last microsecond: time, VC, flits (R304). -/
  retHist : List (Nat × Nat × Nat)
  /-- VCs whose count is owed to the partner, and an acknowledgement owed. -/
  credOwed : List Nat
  owe : Bool
  anyRx : Bool
  rr3 : Nat
  rr2 : Nat
  /-- Flits sent in the last microsecond: time and VC. -/
  recent : List (Nat × Nat)
  /-- Times of CRC failures and of malformed flits within the window. -/
  crcT : List Nat
  malT : List Nat
  /-- Training pauses for 1 s (R290). -/
  paused : Bool
  /-- The partner's HELLO has been accepted: its credits, idempotency window and AUTH_REQ. -/
  peerIdem : Nat
  /-- SPDM requests answered here, by the answer's code, and the request of this end that waits for its answer, by its code (R300). -/
  spdm : List Nat
  spdmReq : Option Nat
  /-- Bytes of the partner's certificate chain received. -/
  spdmCert : Nat
  /-- The lane whose swap for the spare is under way (R295). -/
  swap : Option Nat
  /-- Awl injection in force (0 none), its argument, and flits sent since the last one (R414). -/
  inj : Nat
  injArg : Nat
  injN : Nat
  deriving DecidableEq, Repr

def WPort.reset : WPort :=
  { txq := [], replay := [], nextSeq := 0, cred := [0, 0, 0, 0, 0, 0, 0, 0], lastRet := [0, 0, 0, 0, 0, 0, 0, 0], rxNext := 0
    held := [], part := [], stuck := [], got := [0, 0, 0, 0, 0, 0, 0, 0], freed := [0, 0, 0, 0, 0, 0, 0, 0]
    retd := [0, 0, 0, 0, 0, 0, 0, 0], retHist := [], credOwed := [], owe := false, anyRx := false, rr3 := 0, rr2 := 0
    recent := [], crcT := [], malT := [], paused := false, peerIdem := 0, spdm := [], spdmReq := none
    spdmCert := 0, swap := none, inj := 0, injArg := 0, injN := 0 }

/-- A channel request of another package that has not been answered: ends, kind (0 open, 1 grant request, 2 data), its SEQ or tag, and
the VC, TAG and REQ_ID of the answer. -/
structure ChanIn where
  ch : Nat × Nat × Nat
  rq : Nat × Nat × Nat
  kind : Nat
  key : Nat
  /-- The port it arrived on. -/
  port : Nat
  vc : Nat
  tag : Nat
  reqId : Nat
  deriving DecidableEq, Repr

/-- The package's Wenlyn state outside its registers (R297-R299). -/
structure Wen where
  ports : List (Nat × WPort)
  /-- REQ_ID of the next request. -/
  nextId : Nat
  outs : List WOut
  /-- Requests and responses delivered to the hub, with their port. -/
  inbox : List (Nat × WReq)
  /-- Idempotency table: package, REQ_ID, and the stored response once there is one: code and result. -/
  idem : List (Nat × Nat × Option (Nat × List Byte))
  chanIn : List ChanIn
  /-- Route entries moved by a failover: the port they left, and the package (R296). -/
  moved : List (Nat × Nat)
  /-- The partner's measurements on each port, which the mailbox reads (R300). -/
  meas : List (Nat × List Byte)
  deriving DecidableEq, Repr

def Wen.reset : Wen := { ports := [], nextId := 0, outs := [], inbox := [], idem := [], chanIn := [], moved := [], meas := [] }

/-- A bucket that is ACTIVE: its contribution at launch, and the element ranges of its result written so far (R249, R250). -/
structure CBucket where
  b : Nat
  contrib : List Byte
  sent : Nat
  fin : List (Nat × Nat)
  /-- Ranges whose partial sum has passed here. -/
  summed : List (Nat × Nat)
  deriving DecidableEq, Repr

/-- A partial that landed in STAGE before its bucket launched (R249). -/
structure CEarly where
  b : Nat
  step : Nat
  att : Nat
  lo : Nat
  n : Nat
  deriving DecidableEq, Repr

/-- Cinch outside its registers and its tables in HBM (spec/09). -/
structure Cinch where
  /-- The step after the older one is open. -/
  next : Bool
  /-- READY buckets in the order they became READY. -/
  ready : List Nat
  act : List CBucket
  early : List CEarly
  /-- STEP_DONE notices held: package, step, attempt. -/
  dones : List (Nat × Nat × Nat)
  /-- The attempt's first bucket has launched, so its deadline runs. -/
  launched : Bool
  /-- A repeat notice is out; the cores that have rewound. -/
  rep : Bool
  rewound : List Nat
  /-- STEP_BEGINs: step and core. -/
  begins : List (Nat × Nat)
  /-- SENT and RECV digests of buckets of the older step. -/
  digs : List (Nat × Nat × Nat)
  /-- The last step that became FINAL, and the attempt. -/
  lastFinal : Option (Nat × Nat)
  deriving DecidableEq, Repr

def Cinch.reset : Cinch :=
  { next := false, ready := [], act := [], early := [], dones := [], launched := false, rep := false, rewound := [], begins := []
    digs := [], lastFinal := none }

/-- A region of the region table (Table 10.2). -/
structure SRegion where
  even : Nat
  odd : Nat
  len : Nat
  kind : Nat
  gather : Bool
  bucket : Nat
  deriving DecidableEq, Repr

/-- A snapshot of this package that is open (R266-R272): base step, when it opened, attempt of step s - 1, regions, whether the
trickle has started, what was staged at FINAL (log 42), and the copies that have acknowledged. -/
structure Snap where
  base : Nat
  ts : Nat
  attPrev : Nat
  regions : List SRegion
  started : Bool
  staged : Option (List Byte × SnapTrailer)
  acks : List Nat
  /-- CRC of each region, by its number: of the bytes sent, and of a GATHER region the SENT digest of its bucket (R270). -/
  sums : List (Nat × Nat)
  deriving DecidableEq, Repr

/-- A slot this package holds for another one (R265): its number v, the package, copy and base step it fills or holds. -/
structure HSlot where
  v : Nat
  src : Nat
  copy : Nat
  base : Nat
  /-- Attempt of step s - 1 that its GATHER regions come from (R267). -/
  att : Nat
  /-- GATHER regions: bucket, and offset in the slot. -/
  places : List (Nat × Nat)
  /-- What they have received in this attempt: offset of the region, first byte, bytes. -/
  got : List (Nat × Nat × Nat)
  /-- Bytes of lines that are not whole yet, by offset in the slot (R274). -/
  buf : List (Nat × Byte)
  deriving DecidableEq, Repr

/-- A RESTORE that runs (R277). -/
structure Restore where
  /-- Its command. -/
  cmd : Nat
  holder : Nat
  copy : Nat
  slot : Nat
  /-- Slot bytes before the regions, as far as they have arrived. -/
  head : List Byte
  regions : List SRegion
  /-- Region that streams in, its bytes so far, and their CRC. -/
  region : Nat
  taken : Nat
  crc : Nat
  /-- Its status, once it is over. -/
  st : Option Nat
  deriving DecidableEq, Repr

/-- Shadow outside its registers and HBM (spec/10). -/
structure Shadow where
  snaps : List Snap
  /-- Base step that is due because the snapshot before it failed or was skipped (R266). -/
  dueAt : Option Nat
  /-- Base step for which a snapshot was last opened, or failed to open. -/
  last : Option Nat
  slots : List HSlot
  /-- The FINAL staging copy runs (R269). -/
  staging : Bool
  /-- Verification armed by RESTORE: the restored header and digests (R277). -/
  verify : Option (List Byte)
  /-- FINAL_EV held after a failed comparison (R280). -/
  heldEv : Bool
  rests : List Restore
  deriving DecidableEq, Repr

def Shadow.reset : Shadow :=
  { snaps := [], dueAt := none, last := none, slots := [], staging := false, verify := none, heldEv := false, rests := [] }

/-- A core slot's state outside its registers and memories. -/
structure Core where
  /-- Operations in flight, in issue order. -/
  ops : List Op
  /-- Queue served last by the round-robin of R100. -/
  rr : Nat
  acc : List (Nat × List (Nat × AccEl))
  tags : List (Nat × SlotTag)
  kernel : Option Kernel
  /-- The hart that runs the slot's kernels. -/
  hart : Hart
  stash : List StashRec
  /-- Context of each operand port's binding (R208). -/
  bindCtx : List (Nat × Nat)
  rqs : List (Nat × RxQ)
  chans : List (Nat × Chan)
  /-- Weight sets that the core's stages have bound in this step (R165, R235). -/
  bound : List Nat
  /-- A block reset of the slot has not completed (R364). -/
  resetting : Bool
  /-- The op queues have stopped issuing, for a pre-emption (R347). -/
  stopIssue : Bool
  /-- Times of the block resets in the last second (Table 14.4). -/
  resets : List Nat
  /-- For each tile that is ready for the drain, the tag of its operation, in the order they became ready (R94). -/
  drainQ : List Nat
  deriving DecidableEq, Repr

/-- A slot right after reset (R72, R155). -/
def Core.reset : Core :=
  { ops := [], rr := 3, acc := [], tags := [], kernel := none, hart := Hart.reset, stash := [], bindCtx := [], rqs := [], chans := [], bound := []
    resetting := false, stopIssue := false, resets := [], drainQ := [] }

/-- A line held by a cache slice (R311-R315); the list of lines is kept most recently used first. -/
structure CLine where
  line : Nat
  dirty : Bool
  keep : Bool
  deriving DecidableEq, Repr

/-- An RSI request of a die that has not been answered (R375, R376): rail, level code, the domain whose switch it gates (none for a
P-level), and whether it has been sent. -/
structure Rsi where
  rail : Nat
  code : Nat
  dom : Option Nat
  sent : Bool
  deriving DecidableEq, Repr

/-- A die outside its registers and cores. -/
structure Die where
  /-- Hold entries whose copy is under way (R322). -/
  copying : List Nat
  /-- Rows that have given an uncorrectable read and await their hold or retirement, and the times of corrected errors of rows within the
  window (R322). -/
  rowUe : List (Nat × Nat × Nat)
  rowCe : List ((Nat × Nat × Nat) × Nat)
  /-- Rows replaced by hPPR: pseudo-channel, bank slot, row; one resource of the bank each (R323). -/
  repaired : List (Nat × Nat × Nat)
  /-- Next line of the scrub pass (R321). -/
  scrub : Nat
  /-- RSI requests in the order they were made. -/
  rsi : List Rsi
  /-- P-levels of the core clock islands and of the matrix rail, and the level a frequency change goes to (R384-R386). -/
  clk : Nat
  rail0 : Nat
  freqTo : Option Nat
  /-- State a domain had before its wake or entry began: domain, state. -/
  former : List (Nat × Nat)
  /-- Domains whose entry is past its gate request and that an access has asked for (R381). -/
  wanted : List Nat
  /-- Slots that have failed since the package reset (R17). -/
  failed : List Nat
  /-- Slot of the die, as 8·cluster + core, that the spare replaces while SPARE_MAP.ACTIVE is 1 (R15). -/
  mapped : Nat
  /-- The cache slice has failed to wake (R377). -/
  noSlice : Bool
  deriving DecidableEq, Repr

def Die.reset : Die :=
  { copying := [], rowUe := [], rowCe := [], repaired := [], scrub := 0, rsi := [], clk := 5, rail0 := 5, freqTo := none, former := [], wanted := [], failed := [], mapped := 0
    noSlice := false }

/-- Where a Girth flit goes, which its payload says in a layout the manual does not give (log 102): stage traffic or not, destination
die (8 the hub), whether it answers a request, and how far its way round a degraded port has come: 0 it takes the usual way, 1 it goes
to the hub first, 2 it has left the hub, 3 it goes through the port 2 of the next die (R13, R27). -/
structure GDest where
  stage : Bool
  dst : Nat
  resp : Bool
  leg : Nat
  deriving DecidableEq, Repr

/-- A Girth flit apart from its number, acknowledgement and credit: class, tag and payload of LEN times 16 bytes (Table 1.3), and where it
goes. -/
structure GFlit where
  cls : Nat
  tag : Nat
  payload : List Byte
  way : GDest
  deriving DecidableEq, Repr

/-- An entry of a Girth replay buffer (R21-R23), with the credit that its flit returns. -/
structure GEntry where
  seq : Nat
  fl : GFlit
  credRet : Nat
  credCls : Nat
  resends : Nat
  due : Bool
  deriving DecidableEq, Repr

/-- One end of a Girth link outside its registers (R18-R29). End 4d + p is port p of die d; 4d + 3 is the hub's end of port 2. -/
structure GEnd where
  /-- Flits offered and not sent, in order. -/
  txq : List GFlit
  /-- For each class: flit times it has waited, credits held, and flits freed that have not been returned. -/
  waited : List Nat
  cred : List Nat
  owed : List Nat
  replay : List GEntry
  nextSeq : Nat
  rxNext : Nat
  held : List (Nat × GFlit)
  anyRx : Bool
  /-- Flits on their way to this end, each with where its payload says it goes. -/
  wire : List (List Byte × GDest)
  /-- What traffic has been released on another route: 0 none, 1 that of a degraded port, 2 all of a port that is down (R27, R28). -/
  moved : Nat
  training : Bool
  /-- Lane failures not handled yet, in the order they were detected: group, lane (R26). -/
  fails : List (Nat × Nat)
  deriving DecidableEq, Repr

/-- Credits of Table 1.4. -/
def girthCredits : List Nat := [256, 64, 16, 16]

def GEnd.reset : GEnd :=
  { txq := [], waited := [0, 0, 0, 0], cred := girthCredits, owed := [0, 0, 0, 0], replay := [], nextSeq := 0, rxNext := 0, held := []
    anyRx := false, wire := [], moved := 0, training := false, fails := [] }

/-- A third-party site outside its registers: requests held over the rate cap, and bytes passed in the last microsecond (R33). -/
structure Site where
  held : List SiteReq
  recent : List (Nat × Nat)
  deriving DecidableEq, Repr

def Site.reset : Site := { held := [], recent := [] }

/-- An Awl port outside its registers: requests issued in this measurement, and PRBS lanes whose checker is locked (R409, R410). -/
structure AwlP where
  issued : Nat
  locked : List Nat
  deriving DecidableEq, Repr

def AwlP.reset : AwlP := { issued := 0, locked := [] }

/-- A firmware image in flash: what the boot ROM finds in it (R398). -/
structure Image where
  hashOk : Bool
  sigOk : Bool
  version : Nat
  deriving DecidableEq, Repr

/-- Power, reset and bring-up of the package outside its registers (spec/14-16, 18). -/
structure Boot where
  /-- The input is above 33 V. -/
  powered : Bool
  /-- PERST_N is low. -/
  perst : Bool
  /-- A package reset is requested: LAST_CAUSE and CAUSE_BLOCK. -/
  resetReq : Option (Nat × Nat)
  /-- The boot ROM has chosen an image since the MC was last reset; an MC heartbeat has followed; one has since the package reset. -/
  checked : Bool
  heard : Bool
  ever : Bool
  /-- Images that did not run in this start, with their reason (Table 16.3). -/
  bad : List (Nat × Nat)
  images : List Image
  /-- Latches in the flash record area: block, FLT_FIRST, timestamp, syndrome (R365). -/
  records : List (Nat × Nat × Nat × Nat)
  /-- FEAT_EN has been set (R38). -/
  featSet : Bool
  /-- Lanterns whose heartbeat is present (R369). -/
  beats : List Nat
  /-- Lanterns whose heartbeat has been absent for 500 µs (R369). -/
  gone : List Nat
  /-- THERMTRIP_N is asserted (R390). -/
  tripped : Bool
  /-- The loops run on the holdover oscillator (R433). -/
  holdover : Bool
  /-- The P3 cap of R374; no PMBus command until the latch is acknowledged (R373). -/
  uv : Bool
  psuHold : Bool
  /-- Milliseconds the power has stayed below 95 % of the limit (R387). -/
  lowMs : Nat
  hubTemps : List Int
  /-- Width of the PCIe link, 0 before it has trained. -/
  width : Nat
  deriving DecidableEq, Repr

/-- Both images valid, of version 1 (log 16). -/
def Boot.reset : Boot :=
  { powered := true, perst := true, resetReq := none, checked := false, heard := false, ever := false, bad := []
    images := [⟨true, true, 1⟩, ⟨true, true, 1⟩], records := [], featSet := false, beats := [], gone := [], tripped := false, holdover := false
    uv := false, psuHold := false, lowMs := 0, hubTemps := [], width := 0 }

/-- Discipline of the time base by PPS (R418): consecutive edges within 50 ns, ns to be removed over the next second, what of that has not
made a whole ns yet, in parts of 10⁻⁹ ns, and the SECONDS a write has asked for. -/
structure TimeBase where
  good : Nat
  adj : Int
  frac : Nat
  tbSet : Option Nat
  deriving DecidableEq, Repr

def TimeBase.reset : TimeBase := { good := 0, adj := 0, frac := 0, tbSet := none }

/-- A run of TODs that the ring engine supplies to an op queue for a host command (R343, R344): command, core slot, queue, the TOD_SEQ of
each TOD copied into the ring so far, number of TODs, host address of the first, how many have been copied, the tag window that replaces
TAG bits [13:6], and what has completed: TOD_SEQ, status, DETAIL. -/
structure Run where
  cmd : Nat
  sl : Nat
  q : Nat
  seqs : List Nat
  count : Nat
  src : Nat
  fed : Nat
  win : Option Nat
  res : List (Nat × Nat × Nat)
  deriving DecidableEq, Repr

/-- A command fetched from a host queue (R336-R340): number, queue, client, the 64 bytes of its entry as one number, stage (0 waits to
start, 1 runs, 2 is over, 3 holds its completion entry), when it started, status, segments, the outcome of each segment, PREFIX,
DETAIL, and HBM and PCIe bytes. -/
structure HCmd where
  id : Nat
  q : Nat
  f : Nat
  ent : Nat
  stage : Nat
  start : Nat
  status : Nat
  segs : Nat
  segRes : List (Nat × Nat)
  prefix_ : Nat
  detail : Nat
  hbm : Nat
  link : Nat
  deriving DecidableEq, Repr

/-- What a save slot's state record holds, with the accumulator part of its image (R347): accumulator elements and tags, the saved
registers by offset from the core window, and the TODs of the op queue that had not issued. -/
structure Saved where
  slot : Nat
  acc : List (Nat × List (Nat × AccEl))
  tags : List (Nat × SlotTag)
  regs : List (Nat × Word)
  seq : Nat
  cplProd : Nat
  cplCons : Nat
  tods : List (List Byte)
  deriving DecidableEq, Repr

/-- A task (R342-R348): its command, client, logical core once it has one, stage (0 waits, 1 takes a pre-empted core, 2 its core is being
scrubbed, 3 runs, 4 its core stops for a pre-emption, 5 is being restored), and its saved state. -/
structure HTask where
  cmd : Nat
  f : Nat
  core : Nat
  stage : Nat
  saved : Option Saved
  deriving DecidableEq, Repr

/-- The host interface outside its registers (spec/13). -/
structure HostIf where
  /-- VF Enable (R352; log 15). -/
  vfEnable : Bool
  /-- MSI-X vectors that may send: enabled and unmasked (R35, R330; log 15). -/
  msixOn : List (Nat × Nat)
  /-- MSI-X messages held pending (R35). -/
  msixPend : List (Nat × Nat)
  runs : List Run
  /-- Energy below one µJ carried per client, in nJ (R349). -/
  njRem : List (Nat × Nat)
  cmds : List HCmd
  nextCmd : Nat
  /-- Host queue served last (R336). -/
  rrQ : Nat
  /-- Completion entries written since a queue's last message (R338). -/
  coal : List (Nat × Nat)
  /-- Tasks in order of arrival. -/
  tasks : List HTask
  /-- Client whose task a logical core held last (R343). -/
  lastOf : List (Nat × Nat)
  /-- Energy counter of a core slot when it was last apportioned (R349). -/
  njLast : List (Nat × Nat)
  deriving DecidableEq, Repr

def HostIf.reset : HostIf :=
  { vfEnable := false, msixOn := [], msixPend := [], runs := [], njRem := [], cmds := [], nextCmd := 0, rrQ := 4095, coal := [], tasks := []
    lastOf := [], njLast := [] }

/-- The state of the package: its registers by offset, its memories, the work in flight in each block, and the queue of commands. -/
structure State where
  /-- Commands that wait, first in, first out. -/
  pending : List Instr
  /-- Time in ns since reset; an empty queue lets one pass (log 2). -/
  now : Nat
  /-- Commands done so far; it numbers the event that raised a fault (R359). -/
  evNo : Nat
  /-- The model's own: a write of the command at hand met a poisoned line in part, or a retired page (R320, R325). -/
  memBad : Bool
  /-- The model's own: free values taken so far (log 17). -/
  freeCtr : Nat
  /-- What fuses hold (R1). -/
  fuses : Fuses
  /-- Registers that differ from their reset values, by offset in BAR0 (spec/01). -/
  regs : List (Nat × Word)
  /-- Lower halves written and waiting for the upper half, by offset (R11). -/
  held : List (Nat × Nat)
  /-- Upper halves latched by a read of the lower half, by offset (R11). -/
  latch : List (Nat × Nat)
  /-- Bytes of HBM, scratchpads, cluster memories and host memory that are not 0 (log 5, 6). -/
  mem : List Host.Cell
  /-- Lines held by the cache slices, most recently used first (R311). -/
  lines : List CLine
  /-- For each dirty line, the bytes HBM still holds (R395). -/
  stale : List (Nat × List Byte)
  /-- Poisoned lines of HBM (R320), and poisoned words of scratchpad and cluster memory (R114). -/
  poisonL : List Nat
  poisonW : List Nat
  /-- Fault triggers on their way to a fault set (R359). -/
  raises : List Raise
  /-- Status bits that hold ERR_N asserted (R366). -/
  errBits : List Nat
  /-- Owner harts of NMIs (R363). -/
  nmi : List (Nat × NmiHart)
  /-- What the package has sent out. -/
  outbox : List Signal
  /-- Core slots by number 64·die + 8·cluster + core (R14). -/
  cores : List (Nat × Core)
  /-- Dies. -/
  dies : List (Nat × Die)
  /-- Messages between packages, cores and engines on their way. -/
  net : List NetMsg
  /-- Wenlyn (spec/11). -/
  wen : Wen
  /-- Cinch (spec/09). -/
  cinch : Cinch
  /-- Shadow (spec/10). -/
  shadow : Shadow
  /-- Lines taken exclusive by LR: hart (8·cluster + hart) and line (R318). -/
  lr : List (Nat × Nat)
  /-- Operations waiting for an allocator LOCK, in arrival order: header, slot, tag (R189). -/
  kvWait : List (Nat × Nat × Nat)
  /-- VERSION_ACQUIREs waiting at the memory controllers, in arrival order: set, slot, tag (R227, R230). -/
  acqWait : List (Nat × Nat × Nat)
  /-- Host interface (spec/13). -/
  host : HostIf
  /-- Girth link ends (spec/01). -/
  girth : List (Nat × GEnd)
  /-- Third-party sites (spec/01). -/
  sites : List (Nat × Site)
  /-- Awl ports (spec/17). -/
  awl : List (Nat × AwlP)
  /-- Time base (R418). -/
  time : TimeBase
  /-- Power, reset and bring-up (spec/14-16, 18). -/
  boot : Boot
  deriving DecidableEq, Repr

/-- GLOBAL.UPM of the Gwela (R1). -/
def upmValue : Word := 0x0048FFFFFFFFFFFF#64

/-- The package right after reset: every register at its reset value (`regReset`), every memory empty, no work in flight
(log 4, 5, 7, 15). -/
def State.reset : State :=
  { pending := [], now := 0, evNo := 0, memBad := false, freeCtr := 0
    fuses := { upm := upmValue, dieId := (upto 8).map (fun _ => 0x01010100#64), hubId := 0x02010100#64 }
    regs := [], held := [], latch := [], mem := [], lines := [], stale := [], poisonL := [], poisonW := []
    raises := [], errBits := [], nmi := [], outbox := [], cores := [], dies := [], net := [], wen := Wen.reset, cinch := Cinch.reset, shadow := Shadow.reset, lr := [], kvWait := [], acqWait := []
    host := HostIf.reset, girth := [], sites := [], awl := [], time := TimeBase.reset, boot := Boot.reset }

end Sys2Proof.Machine
end

