-- ==== Sys2Proof/Machine/Ops.lean ====
section
/-! DEFINITION. Named operations over registers and memory that every family shares: register access, memory and the cache
slices behind it, fault triggers, MSI-X messages and Clamp Reports, core slots and logical numbers. -/

namespace Sys2Proof.Machine

abbrev Res := Host.Outcome State Fault Refusal

/-- The state after a command that did the work `t` in `s`: the queue and the fuses are kept, one more event has happened, and no bad
write is left to report. -/
def ended (s t : State) : State := { t with pending := s.pending, fuses := s.fuses, evNo := s.evNo + 1, memBad := false }

/-- One nanosecond of the hub's clock: the time base moves on at the rate that PPS has set (R418; log 2). -/
def tick (s : State) : State :=
  let f := (s.time.frac + 1000000000 + s.time.adj).toNat
  { s with now := s.now + f / 1000000000, time := { s.time with frac := f % 1000000000 } }

/-- The answer of a command that did the work `t` in `s`. -/
def done (s t : State) : Res := .next (ended s t)

/-! ## Registers -/

/-- A register's stored value (its reset value when the map lists none). -/
def State.rd (s : State) (off : Nat) : Word := look (regReset off) s.regs off

/-- Store a register's value. -/
def State.wr (s : State) (off : Nat) (v : Word) : State := { s with regs := put (regReset off) s.regs off v }

/-- A bit of GLOBAL.UPM (Table 0.1). -/
def upmBit (s : State) (i : Nat) : Bool := fld s.fuses.upm i 1 = 1
/-- Whether a logical core is built in: its die is present, and its place is within CLUSTERS_PER_DIE and CORES_PER_CLUSTER (Table 0.1). -/
def coreBuilt (s : State) (n : Nat) : Bool :=
  n < 256 && upmBit s (n / 32) && n / 4 % 8 < fld s.fuses.upm 48 4 && n % 4 < fld s.fuses.upm 52 3

/-- A field of a register. -/
def State.f (s : State) (off lsb w : Nat) : Nat := fld (s.rd off) lsb w

/-- A one-bit field of a register. -/
def State.fb (s : State) (off lsb : Nat) : Bool := s.f off lsb 1 = 1

/-- Set a field of a register. -/
def State.setF (s : State) (off lsb w x : Nat) : State := s.wr off (setFld (s.rd off) lsb w x)

/-- Set a one-bit field. -/
def State.setB (s : State) (off lsb : Nat) (b : Bool) : State := s.setF off lsb 1 (b2n b)

/-- Add to a 64-bit counter register. -/
def State.addCtr (s : State) (off n : Nat) : State := s.wr off (s.rd off + BitVec.ofNat 64 n)

/-- Add to a field that stops at its largest value. -/
def State.satF (s : State) (off lsb w n : Nat) : State := s.setF off lsb w (satAdd (2 ^ w - 1) (s.f off lsb w) n)

/-- Held lower halves of an address range are discarded, as a reset of the registers' block does (R11). That it empties read latches too
is the model's choice: R12 names no reset among what empties one (log 101). -/
def State.forget (s : State) (lo hi : Nat) : State :=
  { s with
    held := s.held.filter (fun p => !(lo ≤ p.1 && p.1 < hi))
    latch := s.latch.filter (fun p => !(lo ≤ p.1 && p.1 < hi)) }

/-- Read latch and held lower half of a register, which a write of it empties and uses up (R11, R12). -/
def dropLatch (s : State) (off : Nat) : State := { s with latch := del s.latch off }
def unhold (s : State) (off : Nat) : State := { s with held := del s.held off }

/-- Return registers of an address range to their reset values, and drop held lower halves (R11) and read latches there (log 101). -/
def State.resetRange (s : State) (lo hi : Nat) : State :=
  { s with
    regs := s.regs.filter (fun p => !(lo ≤ p.1 && p.1 < hi))
    held := s.held.filter (fun p => !(lo ≤ p.1 && p.1 < hi))
    latch := s.latch.filter (fun p => !(lo ≤ p.1 && p.1 < hi)) }

/-- Record a signal. -/
def State.emit (s : State) (g : Signal) : State := { s with outbox := s.outbox ++ [g] }

/-- A fresh free byte (log 17). -/
def State.freeByte (s : State) : Byte × State := (Config.freeByte s.freeCtr, { s with freeCtr := s.freeCtr + 1 })

/-- A fresh free word (log 17). -/
def State.freeWord (s : State) : Nat × State := ((Config.freeWord s.freeCtr).toNat, { s with freeCtr := s.freeCtr + 1 })

/-- `n` fresh free bytes. -/
def State.freeBytes (s : State) (n : Nat) : List Byte × State :=
  ((fromLen s.freeCtr n).map Config.freeByte, { s with freeCtr := s.freeCtr + n })

/-! ## Core slots and logical numbers (R14-R17) -/

/-- DIE.SPARE_MAP of a die. -/
def rSpareMap (d : Nat) : Nat := dieBase d + 0x20

def State.die (s : State) (d : Nat) : Die := look Die.reset s.dies d
def State.setDie (s : State) (d : Nat) (x : Die) : State := { s with dies := putRaw s.dies d x }
def State.modDie (s : State) (d : Nat) (f : Die → Die) : State := s.setDie d (f (s.die d))

/-- The slot that the spare of a die replaces since the die reset that mapped it; a later write of SPARE_MAP.TARGET waits for the next one
(R15). -/
def spareTarget (s : State) (d : Nat) : Nat := 64 * d + (s.die d).mapped

/-- Whether the spare of a die holds a logical number. -/
def spareActive (s : State) (d : Nat) : Bool := s.fb (rSpareMap d) 1

/-- Logical number of an ordinary slot (R14). -/
def slotNumber (sl : Nat) : Nat := 32 * (sl / 64) + 4 * (sl / 8 % 8) + sl % 8

/-- Logical number held by a slot (R14, R15). -/
def logicalOf (s : State) (sl : Nat) : Option Nat :=
  let d := sl / 64
  if sl % 64 = 60 then (if spareActive s d then some (slotNumber (spareTarget s d)) else none)
  else if spareActive s d && spareTarget s d = sl then none
  else some (slotNumber sl)

/-- Slot that holds a logical number. -/
def slotOf (s : State) (n : Nat) : Nat :=
  let sl := 64 * (n / 32) + 8 * (n / 4 % 8) + n % 4
  if spareActive s (n / 32) && spareTarget s (n / 32) = sl then spareSlot (n / 32) else sl

/-- The number a slot reports in syndromes (spec/14, after Table 14.1). -/
def coreNum (s : State) (sl : Nat) : Nat := (logicalOf s sl).getD (slotNumber sl % 256)

/-- Cluster served by a slot, as 8·die + cluster (R16). -/
def clusterOf (s : State) (sl : Nat) : Nat :=
  let d := sl / 64
  if sl % 64 = 60 && spareActive s d then spareTarget s d / 8 else sl / 8

/-- The slots a cluster serves. -/
def clusterSlots (s : State) (cl : Nat) : List Nat :=
  (fromLen (8 * cl) 4) ++ (if clusterOf s (spareSlot (cl / 8)) = cl then [spareSlot (cl / 8)] else [])

/-- Hart of the cluster control core that serves a slot (R16). -/
def hartOf (s : State) (sl : Nat) : Nat :=
  if sl % 64 = 60 && spareActive s (sl / 64) then spareTarget s (sl / 64) % 8 else sl % 8

/-- Whether a logical core is offline in the capability map (Table 16.5). -/
def offline (s : State) (n : Nat) : Bool := s.fb (0x6A0 + 8 * (n / 64)) (n % 64)

/-- Whether a logical core is ready in the capability map. -/
def coreReady (s : State) (n : Nat) : Bool := s.fb (0x680 + 8 * (n / 64)) (n % 64)

/-- Core slot state. -/
def State.core (s : State) (sl : Nat) : Core := look Core.reset s.cores sl

def State.setCore (s : State) (sl : Nat) (c : Core) : State := { s with cores := putRaw s.cores sl c }

def State.modCore (s : State) (sl : Nat) (f : Core → Core) : State := s.setCore sl (f (s.core sl))

/-- Client that owns a context (R332): 0x41-0xFD belong to client 0. -/
def clientOf (ctx : Nat) : Nat := if ctx ≤ 0x40 then ctx else 0

/-! ## Addresses -/

/-- First address past HBM (R310). -/
def hbmTop : Nat := 0x6000000000
/-- Bytes of one stack. -/
def stackBytes : Nat := 0xC00000000
def spadA (sl : Nat) : Nat := 2 ^ 56 + sl * 2 ^ 24
def cmemA (cl : Nat) : Nat := 2 ^ 57 + cl * 2 ^ 24
def hostA (a : Nat) : Nat := 2 ^ 65 + a % 2 ^ 64

/-- The place a core's address names (R110): HBM, its scratchpad or its cluster's memory. -/
def xlate (s : State) (sl a : Nat) : Option Nat :=
  if a < hbmTop then some a
  else if 0xFF0000000000 ≤ a && a < 0xFF0001000000 then some (spadA sl + (a - 0xFF0000000000))
  else if 0xFF0100000000 ≤ a && a < 0xFF0101000000 then some (cmemA (clusterOf s sl) + (a - 0xFF0100000000))
  else none

/-! ## Power domains (R378-R383) -/

/-- PD_CTL of domain `n` of die `d`, or of the package for `d` = 8 (Tables 15.5, 15.7). -/
def rPd (d n : Nat) : Nat := if d = 8 then powerBase + 0x100 + 8 * n else dieBase d + 0x2100 + 8 * n

/-- PD_CTL.STATE: 0 ON, 1 ENTERING, 2 RETENTION, 3 OFF, 4 WAKING. -/
def pdState (s : State) (d n : Nat) : Nat := s.f (rPd d n) 0 3

/-- Domain of a core slot. -/
def pdSlot (sl : Nat) : Nat := if sl % 64 = 60 then 32 else 4 * (sl / 8 % 8) + sl % 8

/-- A domain that an access inside another command finds asleep is ON for it: the stall is time, which the command does not count
(R380; log 61). -/
def wakeNow (s : State) (d n : Nat) : State :=
  if pdState s d n = 0 then s
  else
    let s := (s.setF (rPd d n) 0 3 0).satF (rPd d n) 32 32 1
    s.modDie d (fun x => { x with rsi := x.rsi.filter (fun r => r.dom ≠ some n), wanted := x.wanted.filter (fun m => m ≠ n) })

/-! ## Memory: one list of cells in canonical form (log 5, 6) -/

/-- The byte at a place. -/
def State.byte (s : State) (a : Nat) : Byte := look 0#8 s.mem a

/-- `n` bytes from a place. -/
def State.bytes (s : State) (a n : Nat) : List Byte := (fromLen a n).map s.byte

/-- A little-endian number of `n` bytes. -/
def State.num (s : State) (a n : Nat) : Nat := leNat (s.bytes a n)

/-- Store one byte. -/
def memPut (m : List Host.Cell) (a : Nat) (b : Byte) : List Host.Cell := put 0#8 m a b

/-- Store a run of bytes. -/
def memPutAll : List Host.Cell → Nat → List Byte → List Host.Cell
  | m, _, [] => m
  | m, a, b :: t => memPutAll (memPut m a b) (a + 1) t

/-- Canonical form of memory: strictly rising addresses, and no listed zero byte. -/
def Memory.wf : List Host.Cell → Bool
  | [] => true
  | [(_, b)] => b ≠ 0#8
  | (a, b) :: (a', b') :: t => b ≠ 0#8 && a < a' && Memory.wf ((a', b') :: t)

/-- Die whose stack holds an HBM address (R310). -/
def dieOfAddr (a : Nat) : Nat := a / stackBytes

/-- Page of an HBM address within its stack (R310). -/
def pageOfAddr (a : Nat) : Nat := a % stackBytes / 65536

/-- R310: chunk, pseudo-channel, quarter, bank slot, row and byte in the row of an HBM address. -/
structure DramPlace where
  page : Nat
  pch : Nat
  quarter : Nat
  slot : Nat
  row : Nat
  byte : Nat
  deriving DecidableEq, Repr

def dramPlace (a : Nat) : DramPlace :=
  let o := a % stackBytes
  let p := o / 65536
  let c := o / 256 % 256
  { page := p, pch := c % 64, quarter := c / 64, slot := p % 48, row := p / 48, byte := 256 * (c / 64) + o % 256 }

/-- Valid RETIRE entries of a die: the pages. -/
def retiredPages (s : State) (d : Nat) : List Nat :=
  (s.regs.filter (fun p => mcBase d + 0x4000 ≤ p.1 && p.1 < mcBase d + 0x5000 && fld p.2 20 1 = 1)).map (fun p => fld p.2 0 20)

/-- CAP_DIE of a die (Table 16.5). -/
def rCapDie (d : Nat) : Nat := 0x640 + 8 * d

/-- Whether an HBM address lies in a retired page (R325), or in a stack that is not trained (R402). -/
def isRetired (s : State) (a : Nat) : Bool :=
  !s.fb (rCapDie (dieOfAddr a)) 3 || (retiredPages s (dieOfAddr a)).contains (pageOfAddr a)

/-- Whether a die is READY: REDUCED, FULL or ISOLATED (Table 16.5, R401). -/
def dieReady (s : State) (d : Nat) : Bool := let st := s.f (rCapDie d) 0 3; 2 ≤ st && st ≤ 4

/-! ### Cache slices (R311-R315): which lines are held, dirty and marked KEEP -/

def lineDie (l : Nat) : Nat := l * 64 / stackBytes

/-- Two lines in one set of one slice. -/
def sameSet (a b : Nat) : Bool :=
  lineDie a = lineDie b && Config.sliceHash a % 65536 = Config.sliceHash b % 65536

def rSlice (d o : Nat) : Nat := sliceBase d + o

/-- Write one line back to HBM (R314): its HBM bytes become the current ones. -/
def writeBack (s : State) (l : Nat) : State :=
  let t : State := { s with
    lines := s.lines.map (fun c => if c.line = l then { c with dirty := false } else c)
    stale := del s.stale l }
  t.addCtr (rSlice (lineDie l) 0x20) 1

/-- Drop a line from its slice, writing it back first when dirty. -/
def dropLine (s : State) (l : Nat) : State :=
  let s := if s.lines.any (fun c => c.line = l && c.dirty) then writeBack s l else s
  { s with lines := s.lines.filter (fun c => c.line ≠ l) }

/-- Last element that satisfies a test: the least recently used one. -/
def lastWhere {α : Type} (p : α → Bool) (xs : List α) : Option α := (xs.filter p).getLast?

/-- Make room for a line in its set of 16 ways (R315). -/
def makeRoom (s : State) (l : Nat) : State :=
  if s.lines.length < 16 then s
  else
    let set := s.lines.filter (fun c => sameSet c.line l)
    if set.length < 16 then s
    else match lastWhere (fun c => !c.keep) set with
      | some v => dropLine s v.line
      | none => match lastWhere (fun _ => true) set with
        | some v => dropLine s v.line
        | none => s

/-- Hold the KEEP lines of a set to SLICE.CFG.KEEP_WAYS (R315). -/
def demote (s : State) (l : Nat) : State :=
  let lim := s.f (rSlice (lineDie l) 0) 0 4
  if (s.lines.filter (fun c => c.keep)).length ≤ lim then s
  else
    let set := s.lines.filter (fun c => c.keep && sameSet c.line l)
    if set.length ≤ lim then s
    else match lastWhere (fun _ => true) set with
      | some v =>
        let t : State := { s with lines := s.lines.map (fun c => if c.line = v.line then { c with keep := false } else c) }
        t.addCtr (rSlice (lineDie l) 0x30) 1
      | none => s

/-- Allocate a line as most recently used, with a KEEP mark or none. -/
def allocLine (s : State) (l : Nat) (keep : Bool) : State :=
  let s := makeRoom s l
  let s := { s with lines := ⟨l, false, keep⟩ :: s.lines }
  if keep then demote s l else s

/-- Move a line to the front (most recently used) or the back of the recency order. -/
def moveLine (s : State) (l : Nat) (front : Bool) : State :=
  match s.lines.find? (fun c => c.line = l) with
  | none => s
  | some c =>
    let rest := s.lines.filter (fun x => x.line ≠ l)
    { s with lines := if front then c :: rest else rest ++ [c] }

/-- Mark a line dirty, keeping the bytes HBM still holds (R395). Called before the write. -/
def markDirty (s : State) (l : Nat) : State :=
  if s.lines.any (fun c => c.line = l && c.dirty) then s
  else
    { s with
      lines := s.lines.map (fun c => if c.line = l then { c with dirty := true } else c)
      stale := putRaw s.stale l (s.bytes (64 * l) 64) }

def setKeep (s : State) (l : Nat) (k : Bool) : State :=
  { s with lines := s.lines.map (fun c => if c.line = l then { c with keep := k } else c) }

/-- Hints of Table 12.1 and R314. -/
def hintNormal : Nat := 0
def hintStream : Nat := 1
def hintKeep : Nat := 2
def hintDiscard : Nat := 3

/-- A read of one line under a hint (R314); MC.POISON_READS counts a read that returns poison (R320, R325). -/
def lineRead (s : State) (l hint : Nat) : State :=
  let d := lineDie l
  let s := wakeNow s d 41
  let s := if s.lines.any (fun c => c.line = l) then s else wakeNow s d 45
  let s := if s.poisonL.contains l || isRetired s (64 * l) then s.addCtr (mcBase d + 0x38) 1 else s
  if s.lines.any (fun c => c.line = l) then
    let s := s.addCtr (rSlice d 0x10) 1
    if hint = 3 then dropLine s l
    else moveLine s l (hint ≠ 1)
  else
    let s := s.addCtr (rSlice d 0x18) 1
    if hint = 0 then allocLine s l false
    else if hint = 2 then allocLine s l true
    else s

/-- The slice's part of a write of one line, before the bytes change (R314). -/
def lineWrite (s : State) (l hint : Nat) (whole : Bool) : State :=
  let d := lineDie l
  let s := wakeNow s d 41
  let hit := s.lines.any (fun c => c.line = l)
  let s := if hit then s else wakeNow s d 45
  let s := s.addCtr (rSlice d (if hit then 0x10 else 0x18)) 1
  if (hint = 1 || hint = 3) && whole then
    -- goes to HBM without allocating; a copy held in the slice gives way to it
    { s with lines := s.lines.filter (fun c => c.line ≠ l), stale := del s.stale l }
  else
    let keep := hint = 2
    let s := if hit then setKeep (moveLine s l true) l keep else allocLine s l keep
    let s := if hit && keep then demote s l else s
    markDirty s l

/-- Lines touched by `n` bytes from an HBM address. -/
def linesOf (a n : Nat) : List Nat := if n = 0 then [] else fromLen (a / 64) ((a + n - 1) / 64 - a / 64 + 1)

/-- The slice's part of reading a run of HBM bytes. -/
def hbmTouch (s : State) (hint a n : Nat) : State := (linesOf a n).foldl (fun s l => lineRead s l hint) s

/-- Write the part of a byte string that falls in one line, unless the page is retired (R325); a whole-line write clears poison
(R320), a write ends the LR reservations of the line (R318), and a write to a retired page or to part of a poisoned line is noted. -/
def hbmWriteLine (s : State) (hint a : Nat) (bs : List Byte) (l : Nat) : State :=
  let lo := max a (64 * l)
  let hi := min (a + bs.length) (64 * l + 64)
  if isRetired s (64 * l) then { s with memBad := true }
  else
    let whole := lo = 64 * l && hi = 64 * l + 64
    let s := lineWrite s l hint whole
    let s := if whole then { s with poisonL := s.poisonL.filter (fun p => p ≠ l) } else s
    { s with
      memBad := s.memBad || s.poisonL.contains l
      mem := memPutAll s.mem lo ((bs.drop (lo - a)).take (hi - lo))
      lr := s.lr.filter (fun p => p.2 ≠ l) }

/-- Write a byte string to HBM through the slices. -/
def hbmWrite (s : State) (hint a : Nat) (bs : List Byte) : State :=
  (linesOf a bs.length).foldl (fun s l => hbmWriteLine s hint a bs l) s

/-- The domain of a place in scratchpad or cluster memory. -/
def localDomain (a : Nat) : Nat × Nat :=
  if a < 2 ^ 57 then let sl := (a - 2 ^ 56) / 2 ^ 24; (sl / 64, pdSlot sl)
  else let cl := (a - 2 ^ 57) / 2 ^ 24; (cl / 8, 33 + cl % 8)

/-- Write a byte string to scratchpad or cluster memory; each written word loses its poison (R114). -/
def localWrite (s : State) (a : Nat) (bs : List Byte) : State :=
  let s := wakeNow s (localDomain a).1 (localDomain a).2
  { s with
    mem := memPutAll s.mem a bs
    poisonW := s.poisonW.filter (fun w => !(a / 8 ≤ w && w ≤ (a + bs.length - 1) / 8)) }

/-- Write to host memory by DMA. -/
def hostWrite (s : State) (a : Nat) (bs : List Byte) : State := { s with mem := memPutAll s.mem (hostA a) bs }

/-- Write at a place of any memory of the package. -/
def memWrite (s : State) (hint a : Nat) (bs : List Byte) : State :=
  if bs.isEmpty then s
  else if a < hbmTop then hbmWrite s hint a bs
  else localWrite s a bs

/-- Whether any of `n` bytes from a place is poisoned or lies in a retired page (R114, R320, R325). -/
def poisoned (s : State) (a n : Nat) : Bool :=
  if n = 0 then false
  else if a < hbmTop then (linesOf a n).any (fun l => s.poisonL.contains l || isRetired s (64 * l))
  else (fromLen (a / 8) ((a + n - 1) / 8 - a / 8 + 1)).any (fun w => s.poisonW.contains w)

/-- Poison a line or a word. -/
def poisonAt (s : State) (a : Nat) : State :=
  if a < hbmTop then { s with poisonL := insertNat s.poisonL (a / 64) }
  else { s with poisonW := insertNat s.poisonW (a / 8) }

/-! ### Windows of a die (R313) -/

/-- Whether window `w` of die `d` grants a context an access to every byte of a run; `bit` is 1 READ, 2 WRITE, 3 ATOMIC. -/
def winGrants (s : State) (d ctx bit a n w : Nat) : Bool :=
  let b := mcBase d + 0x1000 + 0x20 * w
  let lo := s.f b 16 32
  let hi := s.f (b + 8) 16 32
  let c := s.f (b + 0x10) 8 8
  s.fb (b + 0x10) 0 && s.fb (b + 0x10) bit && (c = ctx || c = 0xFE) && c ≠ 0xFF
    && lo ≤ hi && lo * 65536 ≤ a && a + n ≤ (hi + 1) * 65536

/-- The lowest-numbered window that grants a request (R313). -/
def winFind (s : State) (d ctx bit a n : Nat) : Option Nat :=
  (upto 64).find? (fun w => winGrants s d ctx bit a n w)

/-- Cut points of a byte run at the 64 KiB units of windows. -/
def unitsOf (a n : Nat) : List (Nat × Nat) :=
  if n = 0 then []
  else (fromLen (a / 65536) ((a + n - 1) / 65536 - a / 65536 + 1)).map (fun u =>
    (max a (65536 * u), min (a + n) (65536 * u + 65536)))

/-- Whether every byte of a run is granted by some window of die `d` (R110, R313). -/
def winCovers (s : State) (d ctx bit a n : Nat) : Bool :=
  (unitsOf a n).all (fun p => (winFind s d ctx bit p.1 (p.2 - p.1)).isSome)

/-- The hint of the window that grants a line (R313); NORMAL when none does. -/
def winHint (s : State) (d ctx bit a : Nat) : Nat :=
  match winFind s d ctx bit a 1 with
  | some w => s.f (mcBase d + 0x1000 + 0x20 * w + 0x10) 4 2
  | none => 0

/-! ## Fault triggers, messages, Clamp Reports -/

/-- A source is raised: its trigger is on its way to the block's fault set (R359). -/
def State.raise (s : State) (src : FaultSrc) (inst synd : Nat) : State :=
  { s with raises := s.raises ++ [⟨src.at.1, inst, src.at.2, synd % 2 ^ 64, s.evNo, []⟩] }

/-- Pack fields (value, lsb, width) into a number. -/
def packBits (fs : List (Nat × Nat × Nat)) : Nat := sumN (fs.map (fun p => p.1 % 2 ^ p.2.2 * 2 ^ p.2.1))

/-- Row of an HBM address: pseudo-channel, bank slot, row. -/
def rowAt (a : Nat) : Nat × Nat × Nat := ((dramPlace a).pch, (dramPlace a).slot, (dramPlace a).row)

/-- ROW_WINDOW_S in ns. -/
def rowWindow (s : State) (d : Nat) : Nat := s.f (mcBase d + 8) 16 16 * 1000000000

/-- A corrected error of a row is remembered for the window (R322). -/
def noteCe (s : State) (a : Nat) : State :=
  let d := dieOfAddr a
  s.modDie d (fun x => { x with rowCe := (rowAt a, s.now) :: x.rowCe.filter (fun e => s.now - e.2 ≤ rowWindow s d) })

/-- An uncorrectable read of a row (R322). -/
def noteUe (s : State) (a : Nat) : State :=
  s.modDie (dieOfAddr a) (fun x => { x with rowUe := if x.rowUe.contains (rowAt a) then x.rowUe else x.rowUe ++ [rowAt a] })

/-- A line the controller has corrected is written back to the slice (R319). -/
def fixLine (s : State) (l : Nat) : State := markDirty (if s.lines.any (fun c => c.line = l) then s else allocLine s l false) l

/-- An ECC event at an HBM line, met for a requester with this tag: counted and reported; an uncorrectable one poisons the line, and one of
the controller counts for its row (R322); answers whether it was uncorrectable. The way of a slice line is open, as its place in the set is
not stated (R319, R320; log 18). -/
def lineEcc (s : State) (tag : Nat) (e : EccEvent) : State × Bool :=
  let d := dieOfAddr e.addr
  let p := dramPlace e.addr
  if hbmTop ≤ e.addr then (s, false)
  else if e.space = 0 then
    if e.bits = 0 then (s.addCtr (mcBase d + 0x20) 1, false)
    else if e.bits = 1 then
      ((noteCe (s.addCtr (mcBase d + 0x28) 1) e.addr).raise .eccCorr d (packBits [(p.page, 0, 20), (p.pch, 20, 6)]), false)
    else
      ((poisonAt (noteUe (s.addCtr (mcBase d + 0x30) 1) e.addr) e.addr).raise .eccUncorr d (packBits [(p.page, 0, 20), (p.pch, 20, 6), (tag, 26, 14)]), true)
  else
    let (w, s) := s.freeWord
    let synd := [(Config.sliceHash (e.addr / 64) % 65536, 0, 16), (w, 16, 4)]
    if e.bits ≤ 1 then (s.raise .sliceEccCorr d (packBits synd), false)
    else ((poisonAt s e.addr).raise .sliceEccUncorr d (packBits (synd ++ [(b2n (e.space = 4), 20, 1)])), true)

/-- Send an MSI-X message of client `f`, or hold it pending (R35). -/
def State.sendMsix (s : State) (f vec : Nat) : State :=
  if 1 ≤ f && f ≤ 63 && !s.host.vfEnable then s
  else if s.host.msixOn.contains (f, vec) then s.emit (.msix f vec)
  else if s.host.msixPend.contains (f, vec) then s
  else { s with host := { s.host with msixPend := s.host.msixPend ++ [(f, vec)] } }

/-- SOURCE code of an agent (Table 13.8). -/
def agentCode : Agent → Nat
  | .client f => f
  | .mc => 0xF0
  | .firmware => 0xF1
  | .jtag => 0xF2

/-- A Clamp Report entry of 32 bytes (Table 13.8). -/
def clampEntry (off lsb width reason source written applied ts : Nat) : List Byte :=
  leBytes 4 (off % 2 ^ 27) ++ leBytes 1 lsb ++ leBytes 1 width ++ leBytes 1 reason ++ leBytes 1 source
    ++ leBytes 8 written ++ leBytes 8 applied ++ leBytes 8 ts

/-- REASON codes of Table 13.8. -/
def rsnRange : Nat := 1
def rsnReserved : Nat := 2
def rsnDiscarded : Nat := 3
def rsnAlign : Nat := 4
def rsnRefused : Nat := 5
def rsnConflict : Nat := 6
def rsnScaled : Nat := 7

/-- Write a Clamp Report entry, or count it as lost (R353). -/
def clampReport (s : State) (a : Agent) (off lsb width reason written applied : Nat) : State :=
  let prod := s.f 0x210 0 32
  let cons := s.f 0x210 32 32
  let n := s.f 0x208 1 5
  if !s.fb 0x208 0 || subMod 32 prod cons = 2 ^ n then
    let s := if (s.rd 0x218).toNat = 0 then s.raise .clampLost 0 (off % 2 ^ 27) else s
    s.addCtr 0x218 1
  else
    let s := hostWrite s ((s.rd 0x200).toNat + 32 * (prod % 2 ^ n))
      (clampEntry off lsb width reason (agentCode a) written applied s.now)
    let s := s.setF 0x210 0 32 (prod + 1)
    s.sendMsix 0 (s.f 0x208 8 11)

end Sys2Proof.Machine
end

