-- ==== Sys2Proof/Machine/Flags.lean ====
section
/-! DEFINITION. Status values, completion-record flags and conversion counters (spec/02 R59, spec/04 R115-R117, Tables 4.8-4.10;
the status tables of spec/05-11 and 13). -/

namespace Sys2Proof.Machine

def stOK : Nat := 0x0000
def stBadField : Nat := 0x0001
def stFormatIllegal : Nat := 0x0002
def stFormatUnavailable : Nat := 0x0003
def stMisaligned : Nat := 0x0004
def stBadScale : Nat := 0x0005
def stUnitAbsent : Nat := 0x0006
def stCoreOffline : Nat := 0x0007
def stNanTrap : Nat := 0x0008
def stAccProtect : Nat := 0x0009
def stAccUncorr : Nat := 0x000A
def stMemProtect : Nat := 0x000B
def stMemUncorr : Nat := 0x000C
def stIndexRange : Nat := 0x000D
def stWaitTimeout : Nat := 0x000E
def stKernelError : Nat := 0x000F
def stKernelFault : Nat := 0x0010
def stKernelTimeout : Nat := 0x0011
def stCancelled : Nat := 0x0012
/-- Statuses of failed remote requests (Table 11.10). -/
def stRemoteDenied : Nat := 0x0090
def stRemoteTimeout : Nat := 0x0091
def stPkgUnreachable : Nat := 0x0092
def stPartial : Nat := 0x00A0
def stBadCommand : Nat := 0x00A1
def stNotPermitted : Nat := 0x00A2
def stHostDmaError : Nat := 0x00A3
def stNoCore : Nat := 0x00A4

/-- Record bits [8:0] of bytes 6-7 (Table 4.8). -/
def flLongsum : Nat := 1
def flIntWrap : Nat := 2
def flIndexOob : Nat := 4
def flEmptySeg : Nat := 8
def flFflags (v : Nat) : Nat := v % 32 * 16

/-- Set flags in a record flag word. -/
def flOr (a b : Nat) : Nat := a ||| b

def Counters.zeros : Counters := ⟨0, 0, 0, 0⟩

/-- Counter sums stop at 0xFFFF_FFFF (R59). -/
def Counters.add (a b : Counters) : Counters :=
  let c (x y : Nat) := satAdd 0xFFFFFFFF x y
  ⟨c a.und b.und, c a.sat b.sat, c a.nan b.nan, c a.zero b.zero⟩

/-- The counters of a list of write units. -/
def sumCounters (us : List WUnit) : Counters := us.foldl (fun a u => a.add u.cnt) Counters.zeros

/-- A result with a status only. -/
def OpRes.ofStatus (st : Nat) : OpRes := ⟨st, 0, 0, [], [], none⟩

/-- The 64-byte completion record (Table 4.8). -/
def cplRecord (tag opcode : Nat) (phase : Bool) (status flags seq user : Nat) (c : Counters) (t0 t1 detail : Nat) : List Byte :=
  leBytes 2 (tag % 2 ^ 14) ++ leBytes 1 opcode ++ leBytes 1 (b2n phase * 128) ++ leBytes 2 status ++ leBytes 2 (flags % 512)
    ++ leBytes 4 seq ++ leBytes 4 user ++ leBytes 4 c.und ++ leBytes 4 c.sat ++ leBytes 4 c.nan ++ leBytes 4 c.zero
    ++ leBytes 8 t0 ++ leBytes 8 t1 ++ leBytes 4 detail ++ leBytes 12 0

end Sys2Proof.Machine
end

