-- ==== Sys2Proof/Machine/Operands.lean ====
section
/-! DEFINITION. Operand forms: element formats and scales (spec/02 R40-R50, R438), tensor descriptors and where their elements
and scales lie (spec/04 R107-R112). -/

namespace Sys2Proof.Machine

/-! ## Format codes (Table 2.1) -/

def fFP32 : Nat := 0x00
def fFP16 : Nat := 0x01
def fBF16 : Nat := 0x02
def fE4M3 : Nat := 0x03
def fE5M2 : Nat := 0x04
def fG16E4M3 : Nat := 0x05
def fG16E2M3 : Nat := 0x06
def fG16E3M2 : Nat := 0x07
def fG16E2M1 : Nat := 0x08
def fMX8 : Nat := 0x09
def fMX6 : Nat := 0x0A
def fMX4 : Nat := 0x0B
def fINT8 : Nat := 0x0C
def fINT32 : Nat := 0x0D
def fMASK1 : Nat := 0x0E
def fWIDE : Nat := 0x0F

def isG16 (f : Nat) : Bool := 5 ≤ f && f ≤ 8
def isMX (f : Nat) : Bool := 9 ≤ f && f ≤ 11

/-- Bits of an element in storage (Table 2.1). -/
def elemBits : Nat → Nat
  | 0 => 32 | 1 => 16 | 2 => 16 | 3 => 8 | 4 => 8 | 5 => 8 | 6 => 6 | 7 => 6 | 8 => 4 | 9 => 8 | 10 => 6 | 11 => 4
  | 12 => 8 | 13 => 32 | 14 => 1 | _ => 8

/-- Block size of a format with fine scales, 1 otherwise (R45, R49). -/
def blockSize (f : Nat) : Nat := if isG16 f then 16 else if isMX f then 32 else 1

/-- Whether a format uses a coarse scale (Tables 2.1, 2.5). -/
def hasCoarse (f : Nat) : Bool := f = 3 || f = 4 || isG16 f || f = 12

/-- Whether a format has a scale area. -/
def hasScaleArea (f : Nat) : Bool := hasCoarse f || isMX f

/-- A scalar floating-point layout (Table 2.2): exponent bits, mantissa bits, bias; kind 0 with infinities and NaNs, 1 with the
all-ones code NaN only, 2 with neither. -/
structure FFmt where
  e : Nat
  m : Nat
  bias : Nat
  kind : Nat
  deriving DecidableEq, Repr

/-- Layout of a format code's element (Table 2.2). -/
def ffmt : Nat → FFmt
  | 0 => ⟨8, 23, 127, 0⟩ | 1 => ⟨5, 10, 15, 0⟩ | 2 => ⟨8, 7, 127, 0⟩ | 3 => ⟨4, 3, 7, 1⟩ | 4 => ⟨5, 2, 15, 0⟩
  | 5 => ⟨4, 3, 7, 2⟩ | 6 => ⟨2, 3, 1, 2⟩ | 7 => ⟨3, 2, 3, 2⟩ | 8 => ⟨2, 1, 1, 2⟩
  | 9 => ⟨4, 3, 7, 1⟩ | 10 => ⟨2, 3, 1, 2⟩ | 11 => ⟨2, 1, 1, 2⟩ | _ => ⟨8, 23, 127, 0⟩

/-- The value a scalar floating-point code stands for (R42). -/
def FFmt.dec (f : FFmt) (code : Nat) : FV :=
  let s := bitN code (f.e + f.m)
  let x := bitsN code f.m f.e
  let k := bitsN code 0 f.m
  if f.kind = 0 && x = 2 ^ f.e - 1 then (if k = 0 then .inf s else .nan)
  else if f.kind = 1 && x = 2 ^ f.e - 1 && k = 2 ^ f.m - 1 then .nan
  else if x = 0 then .fin s k (1 - (f.bias : Int) - f.m)
  else .fin s (2 ^ f.m + k) ((x : Int) - f.bias - f.m)

/-- The code of a magnitude n / d that the format represents exactly. -/
def FFmt.encMag (f : FFmt) (n d : Nat) : Nat :=
  if n = 0 then 0
  else
    let t := ilog2Q n d
    let mn : Int := 1 - (f.bias : Int)
    if t < mn then (scaleQ n d (mn - f.m)).1
    else
      let k := (scaleQ n d (t - f.m)).1
      (t + f.bias).toNat * 2 ^ f.m + (k - 2 ^ f.m)

/-- Smallest subnormal as a power of two (Table 2.2). -/
def FFmt.minExp (f : FFmt) : Int := 1 - (f.bias : Int) - f.m

/-- Largest finite magnitude (Table 2.2): mantissa and exponent. -/
def FFmt.maxFin (f : FFmt) : Nat × Int :=
  let top : Nat := 2 ^ f.e - 1
  match f.kind with
  | 0 => (2 ^ (f.m + 1) - 1, (top : Int) - 1 - f.bias - f.m)
  | 1 => (2 ^ (f.m + 1) - 2, (top : Int) - f.bias - f.m)
  | _ => (2 ^ (f.m + 1) - 1, (top : Int) - f.bias - f.m)

/-- FP32 code of a value; a NaN is the canonical one (Table 2.6). -/
def enc32 : FV → Nat
  | .nan => 0x7FC00000
  | .inf s => (if s then 0xFF800000 else 0x7F800000)
  | .fin s m e => (if s then 2 ^ 31 else 0) + (ffmt 0).encMag (m * pow2N e) (pow2D e)

/-- Value of an FP32 code. -/
def dec32 (c : Nat) : FV := (ffmt 0).dec c

/-- binary16 code of a value. -/
def enc16 : FV → Nat
  | .nan => 0x7E00
  | .inf s => (if s then 0xFC00 else 0x7C00)
  | .fin s m e => (if s then 2 ^ 15 else 0) + (ffmt 1).encMag (m * pow2N e) (pow2D e)

def dec16 (c : Nat) : FV := (ffmt 1).dec c

/-- BF16 code of a value that BF16 holds. -/
def encBf16 : FV → Nat
  | .nan => 0x7FC0
  | .inf s => (if s then 0xFF80 else 0x7F80)
  | .fin s m e => (if s then 2 ^ 15 else 0) + (ffmt 2).encMag (m * pow2N e) (pow2D e)

def decBf16 (c : Nat) : FV := (ffmt 2).dec c

/-! ## Scales -/

/-- A UE5M3 fine scale (R43): none for the NaN block, zero for the zero block. -/
def decUE5M3 (c : Nat) : Option Ex :=
  if c = 0xFF then none
  else if c = 0 then some Ex.zero
  else if c < 8 then some ⟨c, 8 * 2 ^ 14⟩
  else some (Ex.mul ⟨8 + (c % 8 : Nat), 8⟩ (Ex.pow2 ((c / 8 : Nat) - 15)))

/-- An E8M0 scale (R49). -/
def decE8M0 (c : Nat) : Option Ex := if c = 0xFF then none else some (Ex.pow2 ((c : Int) - 127))

/-- The value element × scale rounded once to FP32 (R438). -/
def FV.scale32 (v : FV) (x : Ex) : FV :=
  match v with
  | .fin s m e => rne32s s ((FV.fin s m e).toEx.mul x)
  | _ => v

/-- A coarse scale is legal when positive and finite (R44). -/
def coarseOk (code : Nat) : Bool :=
  match dec32 code with
  | .fin s m _ => !s && m ≠ 0
  | _ => false

/-! ## Tensor descriptors (R108) -/

/-- Reads the fields of a 64-byte descriptor. SIZE[d] reads as 1 for d at or above NDIM. -/
def parseDesc (v : Nat) : Desc :=
  let nd := bitsN v 56 3
  { addr := bitsN v 0 48, fmt := bitsN v 48 8, ndim := nd, port := bitN v 59, scalePtr := bitsN v 64 48
    size := (upto 5).map (fun d => if d < nd then bitsN v (128 + 32 * d) 32 else 1)
    stride := (upto 5).map (fun d => if d = 0 then 0 else bitsN v (320 + 48 * (d - 1)) 48) }

/-- R108: NDIM 1-5, every size from 1 to 2³¹ - 1, reserved bits zero. -/
def descOk (v : Nat) : Bool :=
  let d := parseDesc v
  1 ≤ d.ndim && d.ndim ≤ 5 && d.size.all (fun n => 1 ≤ n && n < 2 ^ 31)
    && bitsN v 60 4 = 0 && bitsN v 112 16 = 0 && bitsN v 288 32 = 0

def Desc.n (d : Desc) (i : Nat) : Nat := nth 1 d.size i
def Desc.st (d : Desc) (i : Nat) : Nat := nth 0 d.stride i

/-- Number of elements. -/
def Desc.count (d : Desc) : Nat := prodN d.size

/-- Coordinates of a row-major linear index, dimension 0 fastest. -/
def coordOf : List Nat → Nat → List Nat
  | [], _ => []
  | n :: t, i => (i % n) :: coordOf t (i / n)

/-- Row-major linear index of coordinates. -/
def linOf : List Nat → List Nat → Nat
  | n :: t, i :: u => i + n * linOf t u
  | _, _ => 0

/-- Runs of a tensor: the coordinates of dimensions 1-4, row-major. -/
def Desc.runs (d : Desc) : List (List Nat) :=
  (upto (prodN (d.size.drop 1))).map (coordOf (d.size.drop 1))

/-- Bytes of one dimension-0 run in storage: whole blocks for block formats (R46, R48, R50). -/
def runBytes (f n0 : Nat) : Nat := cdiv (roundUp n0 (blockSize f) * elemBits f) 8

/-- Start of the run at coordinates of dimensions 1-4 (R108). -/
def Desc.runAddr (d : Desc) (cs : List Nat) : Nat :=
  d.addr + sumN ((cs.zip (d.stride.drop 1)).map (fun p => p.1 * p.2))

/-- Blocks of one run. -/
def Desc.nb (d : Desc) : Nat := cdiv (d.n 0) (blockSize d.fmt)

/-- Number of the block that holds a position (R47). -/
def Desc.blockOf (d : Desc) (i0 : Nat) (cs : List Nat) : Nat :=
  i0 / blockSize d.fmt + d.nb * linOf (d.size.drop 1) cs

/-- Alignment of ADDR and strides (R109). -/
def addrAlign (f : Nat) : Nat := if f = 0 || f = 13 || isG16 f || isMX f then 4 else if f = 1 || f = 2 then 2 else 1

/-- Bytes of one block of elements (R46); 1 for other formats. -/
def blockBytes (f : Nat) : Nat := if isG16 f || isMX f then blockSize f * elemBits f / 8 else 1

/-- R109 and R46: ADDR and strides are aligned. -/
def Desc.aligned (d : Desc) : Bool :=
  d.addr % addrAlign d.fmt = 0
    && ((upto 5).all (fun i => i = 0 || d.ndim ≤ i || (d.st i % addrAlign d.fmt = 0 && d.st i % blockBytes d.fmt = 0)))

/-- Bytes of the scale area that the format uses (Table 2.5). -/
def Desc.scaleBytes (d : Desc) : Nat :=
  if isG16 d.fmt || isMX d.fmt then 64 + d.nb * prodN (d.size.drop 1) else if hasCoarse d.fmt then 4 else 0

/-- Last byte plus one that the tensor spans. -/
def Desc.endAddr (d : Desc) : Nat := d.runAddr ((d.size.drop 1).map (fun n => n - 1)) + runBytes d.fmt (d.n 0)

/-- Byte ranges of R112 in device addresses: the span and the scale area. -/
def Desc.span (d : Desc) : List (Nat × Nat) :=
  (d.addr, d.endAddr) :: (if hasScaleArea d.fmt then [(d.scalePtr, d.scalePtr + d.scaleBytes)] else [])

/-- Whether the runs of a tensor follow one another without gaps, in order: a dimension's stride is the bytes of the dimensions below it. -/
def Desc.dense (d : Desc) : Bool :=
  (([1, 2, 3, 4] : List Nat).foldl (fun (a : Bool × Nat) i => (a.1 && (d.n i = 1 || d.st i = a.2), a.2 * d.n i))
    (true, runBytes d.fmt (d.n 0))).1

/-- Runs of data bytes: device address and length. One run when the tensor is dense. -/
def Desc.dataRuns (d : Desc) : List (Nat × Nat) :=
  let rb := runBytes d.fmt (d.n 0)
  if d.dense then [(d.addr, d.endAddr - d.addr)] else d.runs.map (fun cs => (d.runAddr cs, rb))

/-- Bytes of elements [i, i + n) of a run, and of their fine scales (R46, R47). -/
def Desc.segRuns (d : Desc) (i n : Nat) (cs : List Nat) : List (Nat × Nat) :=
  let w := elemBits d.fmt
  let B := blockSize d.fmt
  let lo := i / B * B * w / 8
  let hi := cdiv (roundUp (i + n) B * w) 8
  (d.runAddr cs + lo, hi - lo)
    :: (if isG16 d.fmt || isMX d.fmt then [(d.scalePtr + 64 + d.blockOf i cs, cdiv (i + n) B - i / B)] else [])

/-- Bytes written when an operation writes positions [0, n) of dimension 0 of every run (R48). -/
def Desc.headRuns (d : Desc) (n : Nat) : List (Nat × Nat) := d.runs.flatMap (fun cs => d.segRuns 0 n cs)

/-- Bytes read when the tensor is an input: data and scale area. -/
def Desc.readRuns (d : Desc) : List (Nat × Nat) :=
  d.dataRuns
    ++ (if hasCoarse d.fmt then [(d.scalePtr, 4)] else [])
    ++ (if isG16 d.fmt || isMX d.fmt then [(d.scalePtr + 64, d.nb * prodN (d.size.drop 1))] else [])

/-- Bytes written when the tensor is an output: data and fine scales. -/
def Desc.writeRuns (d : Desc) : List (Nat × Nat) :=
  d.dataRuns ++ (if isG16 d.fmt || isMX d.fmt then [(d.scalePtr + 64, d.nb * prodN (d.size.drop 1))] else [])

/-- The coarse scale an output tensor reads (R44). -/
def Desc.coarseRun (d : Desc) : List (Nat × Nat) := if hasCoarse d.fmt then [(d.scalePtr, 4)] else []

/-! ## Reading elements -/

/-- A view of a core's addresses: how an operation of slot `sl` reads bytes. -/
structure View where
  s : State
  sl : Nat

/-- Place of a device address: the data of an operand port stands at a private address past every device address; addresses outside
the three ranges were refused at issue (R110) and read place 0. -/
def View.place (v : View) (a : Nat) : Nat := if 2 ^ 60 ≤ a then a else (xlate v.s v.sl a).getD 0

def View.num (v : View) (a n : Nat) : Nat := v.s.num (v.place a) n

/-- Element code at a bit offset of `w` bits in a run. -/
def View.codeAt (v : View) (base w i0 : Nat) : Nat :=
  if w % 8 = 0 then v.num (base + i0 * (w / 8)) (w / 8)
  else
    let bit := i0 * w
    bitsN (v.num (base + bit / 8) (if bit % 8 + w ≤ 8 then 1 else 2)) (bit % 8) w

/-- Code of the element at (i0, coordinates 1-4). -/
def View.code (v : View) (d : Desc) (i0 : Nat) (cs : List Nat) : Nat := v.codeAt (d.runAddr cs) (elemBits d.fmt) i0

/-- Coarse scale code of a tensor; 1.0 for a format without one. -/
def View.coarseCode (v : View) (d : Desc) : Nat := if hasCoarse d.fmt then v.num d.scalePtr 4 else 0x3F800000

/-- Exact coarse scale. -/
def View.coarse (v : View) (d : Desc) : Ex := (dec32 (v.coarseCode d)).toEx

/-- Scale byte of the block of a position (R47). -/
def View.fineCode (v : View) (d : Desc) (i0 : Nat) (cs : List Nat) : Nat := v.num (d.scalePtr + 64 + d.blockOf i0 cs) 1

/-- Exact value of an element without its coarse scale: the code by Table 2.2, times its fine scale (R42, R45, R49, R50). -/
def View.elem (v : View) (d : Desc) (i0 : Nat) (cs : List Nat) : FV :=
  let c := v.code d i0 cs
  if d.fmt = fINT8 then
    let i := toSigned 8 c
    .fin (decide (i < 0)) i.natAbs 0
  else if d.fmt = fINT32 then
    let i := toSigned 32 c
    .fin (decide (i < 0)) i.natAbs 0
  else if d.fmt = fMASK1 then (if c = 1 then FV.one else FV.zero)
  else
    let x := (ffmt d.fmt).dec c
    if isG16 d.fmt then
      let fc := v.fineCode d i0 cs
      if fc = 0xFF then .nan
      else if fc = 0 then FV.zero
      else match x with
        | .fin s m e =>
          if fc < 8 then .fin s (m * fc) (e - 17)
          else .fin s (m * (8 + fc % 8)) (e + ((fc / 8 : Nat) : Int) - 18)
        | y => y
    else if isMX d.fmt then
      let fc := v.fineCode d i0 cs
      if fc = 0xFF then .nan
      else match x with
        | .fin s m e => .fin s m (e + (fc : Int) - 127)
        | y => y
    else x

/-- Element decoded to FP32 (R438), with the coarse scale given. -/
def View.elem32 (v : View) (d : Desc) (c : Ex) (i0 : Nat) (cs : List Nat) : FV :=
  let x := v.elem d i0 cs
  if hasCoarse d.fmt then x.scale32 c
  else match x with
    | .fin s _ _ => rne32s s x.toEx
    | y => y

/-- All elements of a run decoded to FP32. -/
def View.run32 (v : View) (d : Desc) (cs : List Nat) : List FV :=
  let c := v.coarse d
  (upto (d.n 0)).map (fun i => v.elem32 d c i cs)

/-- INT32 element as an integer. -/
def View.int (v : View) (d : Desc) (i0 : Nat) (cs : List Nat) : Int := toSigned 32 (v.code d i0 cs)

end Sys2Proof.Machine
end

