-- ==== Sys2Proof/Machine/Conv.lean ====
section
/-! DEFINITION. The output conversion (spec/02 R51-R58, Tables 2.6, 2.7): scale selection, quantization, special values and
counters, and the write units it makes (R61). -/

namespace Sys2Proof.Machine

/-- A value entering an output conversion, with the UNIT that produced it when it is a NaN (R61). -/
abbrev VU := FV × Nat

/-- What the conversion of one element gives: code, counts, and whether the element takes part in the NaN trap. -/
structure ElemOut where
  code : Nat
  und : Nat
  sat : Nat
  trap : Bool
  deriving DecidableEq, Repr

def ElemOut.plain (c : Nat) : ElemOut := ⟨c, 0, 0, false⟩

/-- Canonical NaN codes (R58). -/
def nanCode : Nat → Nat
  | 0 => 0x7FC00000 | 1 => 0x7E00 | 2 => 0x7FC0 | 3 => 0x7F | 4 => 0x7E | _ => 0

/-- round_element of R54 for a scalar floating-point or element format `f`, at the exact magnitude n / d of a quotient with
sign `neg`; `r` is the random value. -/
def roundFloat (f : FFmt) (mode : Rnd) (r : Nat) (neg : Bool) (n d : Nat) : ElemOut :=
  if n = 0 then .plain 0
  else if n * pow2D f.minExp < d * pow2N f.minExp then ⟨0, 1, 0, false⟩
  else
    let top := f.maxFin
    let sgn := if neg then 2 ^ (f.e + f.m) else 0
    if top.1 * pow2N top.2 * d < n * pow2D top.2 then
      ⟨sgn + f.encMag (top.1 * pow2N top.2) (pow2D top.2), 0, 1, false⟩
    else
      let (k, q) := roundMag (f.m + 1) f.minExp mode r n d
      .plain (sgn + f.encMag (k * pow2N q) (pow2D q))

/-- round_element of R54 for INT8. -/
def roundInt8 (mode : Rnd) (r : Nat) (neg : Bool) (n d : Nat) : ElemOut :=
  if n = 0 then .plain 0
  else
    let top := if neg then 128 else 127
    if top * d < n then ⟨if neg then 0x80 else 0x7F, 0, 1, false⟩
    else
      let k := roundUnits mode r (n / d) (n % d) d
      if k = 0 then ⟨0, 1, 0, false⟩ else .plain (if neg then 256 - k else k)

/-- Whether Table 2.6 marks a trap for an infinity in a destination format. -/
def infTraps (f : Nat) : Bool := f = 3 || isG16 f || isMX f || f = 12

/-- Conversion of one element to a destination without fine scales (R54, Table 2.6); `c` is the coarse scale. -/
def convScalar (f : Nat) (mode : Rnd) (r : Nat) (c : Ex) (v : FV) : ElemOut :=
  match v with
  | .nan => ⟨nanCode f, 0, 0, true⟩
  | .inf s =>
    if f = fMASK1 then .plain (if s then 0 else 1)
    else if infTraps f then ⟨nanCode f, 0, 0, true⟩
    else .plain ((if s then 2 ^ ((ffmt f).e + (ffmt f).m) else 0) + (2 ^ (ffmt f).e - 1) * 2 ^ (ffmt f).m)
  | .fin s m e =>
    let x := (FV.fin s m e).toEx
    if f = fMASK1 then .plain (if !s && m ≠ 0 then 1 else 0)
    else
      let q := if hasCoarse f then x.div c else x
      if f = fINT8 then roundInt8 mode r s q.n.natAbs q.d
      else roundFloat (ffmt f) mode r s q.n.natAbs q.d

/-- Largest magnitude of a block's values. -/
def amaxOf (vs : List FV) : Ex :=
  vs.foldl (fun a v => let x := v.abs.toEx; if a.lt x then x else a) Ex.zero

/-- EMAX of an element format as an exact value. -/
def emaxOf (f : Nat) : Ex := let t := (ffmt f).maxFin; ⟨(t.1 * pow2N t.2 : Nat), pow2D t.2⟩

/-- Code of the smallest UE5M3 value at or above t > 0, capped at 0xFE (R54). -/
def ue5m3Up (t : Ex) : Nat :=
  if (⟨114688, 1⟩ : Ex).le t then 0xFE
  else if t.le ⟨1, 2 ^ 14⟩ then max 1 (cdiv (t.n.natAbs * 2 ^ 17) t.d)
  else
    let e := ilog2Q t.n.natAbs t.d
    let (k, rem, _) := scaleQ t.n.natAbs t.d (e - 3)
    ((e + 15).toNat) * 8 + ((if rem = 0 then k else k + 1) - 8)

/-- Code of the smallest power of two 2^k, k from -127 to 127, with amax / 2^k at most EMAX (R49). -/
def e8m0Up (t : Ex) : Nat :=
  if t.n = 0 then 0
  else
    let e := ilog2Q t.n.natAbs t.d
    let k := if (Ex.pow2 e).eq t then e else e + 1
    (max (-127) (min 127 k) + 127).toNat

/-- Result of converting one block: scale code, element codes, counters, and the index of the element that stands for its NaN. -/
structure BlockOut where
  fine : Nat
  codes : List Nat
  cnt : Counters
  trap : Option Nat
  deriving DecidableEq, Repr

/-- Encode one G16 or MX block (R49, R54); the values exclude padding. -/
def encodeBlock (f : Nat) (mode : Rnd) (rs : List Nat) (c : Ex) (vs : List FV) : BlockOut :=
  match findIdx1 (fun v : FV => v.isNan || v.isInf) vs with
  | some (i, _) => ⟨0xFF, vs.map (fun _ => 0), ⟨0, 0, vs.length, 0⟩, some i⟩
  | none =>
    let a := amaxOf vs
    if a.n = 0 then ⟨0, vs.map (fun _ => 0), ⟨0, 0, 0, 1⟩, none⟩
    else
      let fc := if isMX f then e8m0Up (a.div (emaxOf f)) else ue5m3Up (a.div (c.mul (emaxOf f)))
      let s : Ex := if isMX f then (decE8M0 fc).getD Ex.zero else c.mul ((decUE5M3 fc).getD Ex.zero)
      let os := (vs.zip rs).map (fun p =>
        let q := p.1.toEx.div s
        roundFloat (ffmt f) mode p.2 p.1.sign q.n.natAbs q.d)
      ⟨fc, os.map (·.code), ⟨sumN (os.map (·.und)), sumN (os.map (·.sat)), 0, 0⟩, none⟩

/-- Pack element codes of `w` bits into a little-endian string (R46, R50). -/
def packCodes (w : Nat) (codes : List Nat) : Nat := codes.foldr (fun c acc => c % 2 ^ w + acc * 2 ^ w) 0

/-- How an operation's output conversion rounds: mode, stream key and counter at start (R52, R53). -/
structure ConvCtx where
  mode : Rnd
  key : Nat
  ctr : Nat
  deriving DecidableEq, Repr

/-- The random value of position `i` of the output region (R53); 0 in the other modes, where nothing reads it. -/
def ConvCtx.r (cx : ConvCtx) (i : Nat) : Nat := if cx.mode = .stoch then rand16 cx.key cx.ctr i else 0

/-- Row-major index of a position in an output region of extents `size` for destination `f` (R53). -/
def regionIndex (f : Nat) (size : List Nat) (i0 : Nat) (cs : List Nat) : Nat :=
  i0 + roundUp (nth 1 size 0) (blockSize f) * linOf (size.drop 1) cs

/-- Positions of an output region, padding included (R53). -/
def regionCount (f : Nat) (size : List Nat) : Nat := roundUp (nth 1 size 0) (blockSize f) * prodN (size.drop 1)

/-- Split a list into pieces of `n` (with fuel). -/
def piecesGo {α : Type} (n : Nat) : Nat → List α → List (List α)
  | 0, _ => []
  | k + 1, xs => if xs.isEmpty then [] else xs.take n :: piecesGo n k (xs.drop n)

def pieces {α : Type} (n : Nat) (xs : List α) : List (List α) := if n = 0 then [xs] else piecesGo n xs.length xs

/-- Convert a stretch of one dimension-0 run of an output tensor and form its write: the values start at position `i0` (a multiple
of the block size), `size` is the output region of R53, `o` the region's place of the run in it. The writes name device
addresses. -/
def convStretch (d : Desc) (cx : ConvCtx) (c : Ex) (size : List Nat) (cs : List Nat) (i0 : Nat) (vs : List VU) : WUnit :=
  let w := elemBits d.fmt
  let base := d.runAddr cs
  if isG16 d.fmt || isMX d.fmt then
    let B := blockSize d.fmt
    let bl := (pieces B vs).zipIdx.map (fun p =>
      let b0 := i0 + B * p.2
      let o := encodeBlock d.fmt cx.mode ((upto p.1.length).map (fun j => cx.r (regionIndex d.fmt size (b0 + j) cs))) c
        (p.1.map (·.1))
      (b0, p.1, o))
    let codes := bl.flatMap (fun p => p.2.2.codes ++ (upto (B - p.2.2.codes.length)).map (fun _ => 0))
    let trap := bl.findSome? (fun p => p.2.2.trap.map (fun j =>
      let v := nth (FV.zero, 0) p.2.1 j
      (⟨(p.1 + j) :: cs, if v.1.isNan then v.2 else 2, d.fmt⟩ : NanAt)))
    { writes := [(base + i0 * w / 8, leBytes (codes.length * w / 8) (packCodes w codes)),
        (d.scalePtr + 64 + d.blockOf i0 cs, bl.map (fun p => BitVec.ofNat 8 p.2.2.fine))]
      atomics := []
      cnt := bl.foldl (fun a p => a.add p.2.2.cnt) Counters.zeros
      trap := trap }
  else
    let os := vs.zipIdx.map (fun p => convScalar d.fmt cx.mode (cx.r (regionIndex d.fmt size (i0 + p.2) cs)) c p.1.1)
    let trap := (findIdx1 (fun o : ElemOut => o.trap) os).map (fun p =>
      let v := nth (FV.zero, 0) vs p.1
      (⟨(i0 + p.1) :: cs, if v.1.isNan then v.2 else 2, d.fmt⟩ : NanAt))
    { writes := [(base + i0 * w / 8, leBytes (cdiv (os.length * w) 8) (packCodes w (os.map (·.code))))]
      atomics := []
      cnt := ⟨sumN (os.map (·.und)), sumN (os.map (·.sat)), sumN (os.map (fun o => b2n o.trap)), 0⟩
      trap := trap }

/-- Convert one whole run into write units of 512 elements (R61). -/
def convRun (d : Desc) (cx : ConvCtx) (c : Ex) (cs : List Nat) (vs : List VU) : List WUnit :=
  (pieces 512 vs).zipIdx.map (fun p => convStretch d cx c d.size cs (512 * p.2) p.1)

/-- Convert a whole output tensor given its values by run. -/
def convTensor (d : Desc) (cx : ConvCtx) (c : Ex) (vals : List Nat → List VU) : List WUnit :=
  d.runs.flatMap (fun cs => convRun d cx c cs (vals cs))

/-- Join write units that belong to one unit of the write order. -/
def WUnit.join (a b : WUnit) : WUnit :=
  { writes := a.writes ++ b.writes, atomics := a.atomics ++ b.atomics, cnt := a.cnt.add b.cnt
    trap := match a.trap with | some t => some t | none => b.trap }

def WUnit.nil : WUnit := ⟨[], [], Counters.zeros, none⟩

end Sys2Proof.Machine
end

