-- ==== Sys2Proof/Machine/Atomic.lean ====
section
/-! DEFINITION. The slice atomic operations (spec/12 R317, R318, Table 12.2; codes 0-8 of spec/11 Table 11.3). -/

namespace Sys2Proof.Machine

/-- Codes of the atomic operations. 0-8 are those of Table 11.3; the others serve SCATTER (BF16 MAX and MIN) and the control
cores' AMOs (R318). -/
def atAddF32 : Nat := 0
def atAddBf16 : Nat := 1
def atAddI32 : Nat := 2
def atMaxF32 : Nat := 3
def atMinF32 : Nat := 4
def atMaxI32 : Nat := 5
def atMinI32 : Nat := 6
def atCas32 : Nat := 7
def atCas64 : Nat := 8
def atMaxBf16 : Nat := 9
def atMinBf16 : Nat := 10

/-- Bytes of the element an atomic acts on (R317: naturally aligned). -/
def atWidth (code : Nat) : Nat := if code = atCas64 then 8 else if code = 1 || code = 9 || code = 10 then 2 else 4

/-- A winner of MAX or MIN as stored: a winning -0 is +0 (R60). -/
def posZero (v : FV) : FV := if v.isZero then FV.zero else v

/-- New value of an element and whether the atomic produced a NaN: `old` stored bits, `x` operand, `cmp` comparand of CAS. On
equality MAX and MIN keep the stored element (R60). -/
def atomicApply (code old x cmp : Nat) : Nat × Bool :=
  match code with
  | 0 => let v := add32 (dec32 old) (dec32 x); (enc32 v, v.isNan)
  | 1 => let v := addBf16 (decBf16 old) (decBf16 x); (encBf16 v, v.isNan)
  | 2 => ((old + x) % 2 ^ 32, false)
  | 3 => let v := posZero ((dec32 old).max (dec32 x)); (enc32 v, v.isNan)
  | 4 => let v := posZero ((dec32 old).min (dec32 x)); (enc32 v, v.isNan)
  | 5 => (if toSigned 32 old < toSigned 32 x then x else old, false)
  | 6 => (if toSigned 32 x < toSigned 32 old then x else old, false)
  | 7 => (if old = cmp then x else old, false)
  | 8 => (if old = cmp then x else old, false)
  | 9 => let v := posZero ((decBf16 old).max (decBf16 x)); (encBf16 v, v.isNan)
  | 10 => let v := posZero ((decBf16 old).min (decBf16 x)); (encBf16 v, v.isNan)
  | _ => (old, false)

/-- An atomic on a place of HBM: the line is brought in, changed and marked dirty; SLICE.ATOMICS counts it. Answers the old value
and whether a NaN was produced. -/
def State.atomicAt (s : State) (hint code a x cmp : Nat) : State × Nat × Bool :=
  let w := atWidth code
  let old := s.num a w
  let (v, nan) := atomicApply code old x cmp
  let s := hbmWrite s hint a (leBytes w v)
  (s.addCtr (rSlice (dieOfAddr a) 0x28) 1, old, nan)

end Sys2Proof.Machine
end

