-- ==== Sys2Proof/Machine/Trace.lean ====
section
/-! DEFINITION. Glint trace records (spec/17 R419, R420, Table 17.2). -/

namespace Sys2Proof.Machine

def rRing (r o : Nat) : Nat := glintBase + 0x100 + 0x20 * r + o

/-- Whether ring `r` takes a record of source type bit `b`, of a core for operation records (R419). -/
def ringTakes (s : State) (r b : Nat) (core : Option Nat) : Bool :=
  s.fb (rRing r 8) 0 && bitN (s.f (rRing r 8) 6 3) b
    && (match core with
        | some n => s.f (rRing r 8) 16 8 ≤ n && n ≤ s.f (rRing r 8) 24 8
        | none => true)

/-- Write a record to ring `r`, or count it as lost (R420). -/
def ringPut (s : State) (r : Nat) (rec : List Byte) : State :=
  let prod := s.f (rRing r 0x10) 0 32
  let cons := s.f (rRing r 0x10) 32 32
  let n := s.f (rRing r 8) 1 5
  if subMod 32 prod cons = 2 ^ n then
    let s := if (s.rd (rRing r 0x18)).toNat = 0 then s.raise .traceLost 0 r else s
    s.addCtr (rRing r 0x18) 1
  else
    let s := memWrite s 0 ((s.rd (rRing r 0)).toNat + 32 * (prod % 2 ^ n)) rec
    s.setF (rRing r 0x10) 0 32 (prod + 1)

/-- A Glint record goes to every ring that selects its source: bit 0 operations, 1 links, 2 power. -/
def glint (s : State) (b : Nat) (core : Option Nat) (rec : List Byte) : State :=
  (upto 8).foldl (fun s r => if ringTakes s r b core then ringPut s r rec else s) s

/-- Block identifier (R356): class in bits [15:12], instance in bits [11:0]. -/
def blockId (cls inst : Nat) : Nat := cls * 4096 + inst

/-- A LINK record: a raise or a port state change (Table 17.2). -/
def glintLink (s : State) (cls inst code synd : Nat) : State :=
  glint s 1 none (leBytes 8 s.now ++ leBytes 1 3 ++ leBytes 1 code ++ leBytes 2 (blockId cls inst) ++ leBytes 12 0 ++ leBytes 8 synd)

/-- A POWER record: code 0 domain state or 1 P-level, with domain index and the change (Table 17.2). -/
def glintPower (s : State) (cls inst code dom frm upTo : Nat) : State :=
  glint s 2 none (leBytes 8 s.now ++ leBytes 1 4 ++ leBytes 1 code ++ leBytes 2 (blockId cls inst) ++ leBytes 2 dom
    ++ leBytes 2 (frm % 8 + 8 * (upTo % 8)) ++ leBytes 16 0)

end Sys2Proof.Machine
end

