-- ==== Sys2Proof/Machine/Domain.lean ====
section
/-! DEFINITION. Power domains and the requests of a die on the Regulator Serial Interface (spec/15 R375-R383). -/

namespace Sys2Proof.Machine

/-- Level codes that gate a domain's switch (R375). -/
def gateOn : Nat := 0xC
def gateRetention : Nat := 0xD
def gateOff : Nat := 0xE

/-- Rails whose switches gate a domain of a die (Table 15.1, Table 15.4). -/
def domRails (n : Nat) : List Nat :=
  if n ≤ 32 then [0, 1] else if n ≤ 40 then [2] else if n = 41 then [4] else if n ≤ 44 then [5] else [6]

/-- PD_CTL.STATE changes, with its POWER record (R420). -/
def setPd (s : State) (d n st : Nat) : State :=
  let was := pdState s d n
  if was = st then s
  else
    let s := s.setF (rPd d n) 0 3 st
    if d = 8 then glintPower s 11 0 0 n was st else glintPower s 2 d 0 n was st

/-- Send what may be sent: one request outstanding on a rail, in the order they were made, and at most eight on the die (R376). -/
def pumpRsi (s : State) (d : Nat) : State :=
  let all := (s.die d).rsi
  let r := all.foldl (fun (a : State × List Rsi × Nat) (q : Rsi) =>
    if q.sent then (a.1, a.2.1 ++ [q], a.2.2)
    else if all.any (fun x => x.sent && x.rail = q.rail) || a.2.1.any (fun x => x.rail = q.rail) || 8 ≤ a.2.2 then (a.1, a.2.1 ++ [q], a.2.2)
    else (a.1.emit (.rsi d q.rail q.code), a.2.1 ++ [{ q with sent := true }], a.2.2 + 1))
    (s, [], (all.filter (fun x => x.sent)).length)
  r.1.modDie d (fun x => { x with rsi := r.2.1 })

/-- Gate requests of a domain, one for each of its rails. -/
def askGate (s : State) (d n code : Nat) : State :=
  pumpRsi (s.modDie d (fun x => { x with rsi := x.rsi ++ (domRails n).map (fun r => ⟨r, code, some n, false⟩) })) d

/-- The state a domain comes from is kept until its request is answered. -/
def setFormer (s : State) (d n st : Nat) : State := s.modDie d (fun x => { x with former := putRaw x.former n st })

/-- An access finds a domain asleep: it starts the wake, cancels an entry whose gate request has not been sent, or is kept in mind until
the entry ends (R380, R381). Hub domains, whose rails the MC drives without RSI, are ON at once (log 61). -/
def wakeDom (s : State) (d n : Nat) : State :=
  let st := pdState s d n
  if st = 0 || st = 4 then s
  else if d = 8 then (setPd s d n 0).satF (rPd d n) 32 32 1
  else if st = 1 then
    if (s.die d).rsi.any (fun r => r.dom = some n && r.sent) then s.modDie d (fun x => { x with wanted := insertNat x.wanted n })
    else setPd (s.modDie d (fun x => { x with rsi := x.rsi.filter (fun r => r.dom ≠ some n) })) d n 0
  else askGate (setPd (setFormer s d n st) d n 4) d n gateOn

/-- Whether a domain is ON. -/
def domOn (s : State) (d n : Nat) : Bool := pdState s d n = 0

/-- An access that needs domains of a die proceeds when they are all ON; else it wakes them and is held: it is delivered again (R380;
log 61). -/
def needOn (s : State) (ns : List (Nat × Nat)) (act : State → State) : State :=
  if ns.all (fun p => domOn s p.1 p.2) then act s else ns.foldl (fun s p => wakeDom s p.1 p.2) s

/-- Domain of a cluster's memory. -/
def pdCluster (cl : Nat) : Nat × Nat := (cl / 8, 33 + cl % 8)

/-- Domains that an access to a line needs: its slice, and the HBM PHY when the line is not held there. -/
def lineDomains (s : State) (l : Nat) : List (Nat × Nat) :=
  (lineDie l, 41) :: (if s.lines.any (fun c => c.line = l) then [] else [(lineDie l, 45)])

/-- Whether a core slot and its cluster's memory are ON. -/
def coreOn (s : State) (sl : Nat) : Bool :=
  domOn s (sl / 64) (pdSlot sl) && domOn s (pdCluster (clusterOf s sl)).1 (pdCluster (clusterOf s sl)).2

end Sys2Proof.Machine
end

