-- ==== Sys2Proof/Machine/Tod.lean ====
section
/-! DEFINITION. Op queues, issue, start and completion of operations (spec/04 R97-R117, R133, R136; spec/02 R52, R53, R61, R62;
spec/03 R83, R84, R92; spec/07 R207-R211; spec/08 R222-R224; spec/16 R401, R404). -/

namespace Sys2Proof.Machine

/-! ## Fields of a TOD -/

/-- Field [lsb + w - 1 : lsb] of the 64-bit word at byte `b` of a TOD. -/
def tF (t b lsb w : Nat) : Nat := bitsN t (8 * b + lsb) w
def tB (t b lsb : Nat) : Bool := bitN t (8 * b + lsb)

def tOpcode (t : Nat) : Nat := bitsN t 0 8
def tTag (t : Nat) : Nat := bitsN t 8 14
def tRnd (t : Nat) : Nat := bitsN t 22 2
def tStream (t : Nat) : Nat := bitsN t 24 4
def tQuiet (t : Nat) : Bool := bitN t 28
def tIrq (t : Nat) : Bool := bitN t 29
def tEvEn (t : Nat) : Bool := bitN t 30
def tEvId (t : Nat) : Nat := bitsN t 32 4
def tMbq (t : Nat) : Bool := bitN t 64
def tUser (t : Nat) : Nat := bitsN t 96 32
/-- Descriptor slot i, 0xFFFF for none. -/
def tDesc (t i : Nat) : Nat := bitsN t (8 * 72 + 16 * i) 16

/-- Bits of the common header that are not reserved (Table 4.3). -/
def hdrMask : Nat := 2 ^ 31 - 1 + (2 ^ 64 - 2 ^ 32) + 2 ^ 64 + (2 ^ 128 - 2 ^ 96)
/-- Bits of the descriptor slots. -/
def slotMask : Nat := (2 ^ 128 - 1) * 2 ^ 576
/-- The bits [lsb + w - 1 : lsb] of the word at byte `b`. -/
def bm (b lsb w : Nat) : Nat := (2 ^ w - 1) * 2 ^ (8 * b + lsb)

/-! ## Op queues (R97-R99, Table 4.15) -/

def rTagCfg (sl : Nat) : Nat := slotBase sl + 8
def rNanCtl (sl : Nat) : Nat := slotBase sl + 0x200
def rOwner (sl n : Nat) : Nat := slotBase sl + 0x300 + 8 * n
def rOpq (sl q o : Nat) : Nat := slotBase sl + 0x400 + 0x40 * q + o
def rRngKey (sl n : Nat) : Nat := slotBase sl + 0x500 + 0x20 * n
def rEvent (sl e : Nat) : Nat := slotBase sl + 0x700 + 8 * e

def qEn (s : State) (sl q : Nat) : Bool := s.fb (rOpq sl q 0) 0
def qHalted (s : State) (sl q : Nat) : Bool := s.fb (rOpq sl q 0x20) 0
def qCtx (s : State) (sl q : Nat) : Nat := s.f (rOpq sl q 0) 8 8
def qSize (s : State) (sl q : Nat) : Nat := 2 ^ s.f (rOpq sl q 0) 1 4
/-- Places of the TOD ring, completion ring and header. -/
def qRing (s : State) (sl q : Nat) : Nat := cmemA (clusterOf s sl) + s.f (rOpq sl q 8) 0 24
def qCpl (s : State) (sl q : Nat) : Nat := cmemA (clusterOf s sl) + s.f (rOpq sl q 8) 24 24
def qHdr (s : State) (sl q : Nat) : Nat := cmemA (clusterOf s sl) + 256 * s.f (rOpq sl q 8) 48 16

/-- Word i of the queue header (Table 4.1): 0 PROD, 1 CONS, 2 CPL_PROD, 3 CPL_CONS. -/
def hdrW (s : State) (sl q i : Nat) : Nat := s.num (qHdr s sl q + 4 * i) 4
def setHdrW (s : State) (sl q i v : Nat) : State := localWrite s (qHdr s sl q + 4 * i) (leBytes 4 v)

/-- R99: when PROD - CONS exceeds the ring size the queue reports OPQ_OVERRUN and halts. -/
def overrunCheck (s : State) (sl q : Nat) : State :=
  if qEn s sl q && !qHalted s sl q && qSize s sl q < subMod 32 (hdrW s sl q 0) (hdrW s sl q 1) then
    let p := hdrW s sl q 0
    let s := (s.setF (rOpq sl q 0x20) 0 1 1).setF (rOpq sl q 0x20) 1 3 1
    s.raise .opqOverrun sl (packBits [(q, 0, 2), (p, 2, 32)])
  else s

/-- R98: the producer's TOD entries, then PROD. -/
def putTods : State → Nat → Nat → Nat → List (List Byte) → State
  | s, _, _, _, [] => s
  | s, sl, q, t, b :: bs =>
    putTods (localWrite s (qRing s sl q + 128 * (t % qSize s sl q)) (b.take 128)) sl q (t + 1) bs

/-- NAN_CTL.HALTED reads 1 while a queue is halted by NAN_TRAP (R100). -/
def nanHaltedBit (s : State) (sl : Nat) : State :=
  s.setB (rNanCtl sl) 1 ((upto 4).any (fun q => qHalted s sl q && s.f (rOpq sl q 0x20) 1 3 = 2))

/-- R99: OPQ_STATUS.HALTED is cleared and the queue goes on from CONS. -/
def resumeQueue (s : State) (sl q : Nat) : State :=
  let s := s.setF (rOpq sl q 0x20) 0 4 0
  overrunCheck (nanHaltedBit s sl) sl q

/-! ## Units (Table 4.2) -/

/-- Unit of an opcode: 0 matrix engine, 1 drain, 2 vector, 3 data mover, 4 channel ports, 5 control. -/
def unitOf (opc : Nat) : Nat :=
  if opc ≤ 3 || opc = 0x10 || opc = 0x11 then 0
  else if opc = 4 then 1
  else if (8 ≤ opc && opc ≤ 0xD) || opc = 0x20 || opc = 0x21 || opc = 0x30 || opc = 0x31 || opc = 0x40 then 2
  else if opc = 0x12 || (0x18 ≤ opc && opc ≤ 0x1B) || opc = 0x3E || opc = 0x3F then 3
  else if 0x28 ≤ opc && opc ≤ 0x2B then 4
  else 5

/-- The opcodes of Table 4.6. -/
def opcodeOk (opc : Nat) : Bool :=
  (1 ≤ opc && opc ≤ 4) || (8 ≤ opc && opc ≤ 0xD) || (0x10 ≤ opc && opc ≤ 0x13) || (0x18 ≤ opc && opc ≤ 0x1B)
    || opc = 0x20 || opc = 0x21 || (0x28 ≤ opc && opc ≤ 0x2C) || opc = 0x30 || opc = 0x31
    || (0x38 ≤ opc && opc ≤ 0x3A) || (0x3C ≤ opc && opc ≤ 0x40)

/-- ATTN_FWD and ATTN_BWD hold the vector unit too (Table 4.2). -/
def inUnit (opc u : Nat) : Bool := unitOf opc = u || ((opc = 0x10 || opc = 0x11) && u = 2)

def Op.opc (o : Op) : Nat := tOpcode o.tod
/-- Whether an operation has not completed (R115). -/
def Op.live (o : Op) : Bool := o.stage ≠ .recordHeld

/-! ## Which TOD issues next (R100) -/

/-- Whether an earlier operation of the queue holds back every later TOD: FENCE, WAIT_EVENT (R100), PHASE_SWITCH, and an acquire of
mode FWD, BWD or REPLAY (R224) or with REBASE (R229). -/
def holdsQueue (o : Op) : Bool :=
  o.live && (o.opc = 0x3C || o.opc = 0x3D || o.opc = 0x2C || (o.opc = 0x38 && (tF o.tod 16 0 2 ≠ 2 || tB o.tod 16 3)))

/-- The TOD waiting at CONS. -/
def frontTod (s : State) (sl q : Nat) : Nat :=
  s.num (qRing s sl q + 128 * (hdrW s sl q 1 % qSize s sl q)) 128

/-- Whether a TOD waits. -/
def todWaits (s : State) (sl q : Nat) : Bool :=
  qEn s sl q && !qHalted s sl q && hdrW s sl q 0 ≠ hdrW s sl q 1

/-- R370, R390: the package is held safe (Table 14.8), or its clocks have stopped, so no op queue issues. -/
def heldSafe (s : State) : Bool := s.f 0x500 0 2 = 3 || s.boot.tripped

/-- R370: a Lantern has frozen the admission of new work. -/
def frozen (s : State) : Bool := s.fb 0x500 6 || s.boot.tripped

/-- Whether the front TOD of a queue can issue (R100, R347, R370, R401). -/
def canIssue (s : State) (sl q : Nat) : Bool :=
  let c := s.core sl
  let t := frontTod s sl q
  todWaits s sl q && (logicalOf s sl).isSome && dieReady s (sl / 64)
    && ((coreOn s sl && !c.stopIssue && !c.resetting) || (logicalOf s sl).any (fun n => offline s n)) && !heldSafe s
    && !c.ops.any (fun o => o.tag = tTag t)
    && !c.ops.any (fun o => o.q = q && holdsQueue o)
    && (c.ops.filter (fun o => o.stage = .issued && unitOf o.opc = unitOf (tOpcode t))).length < 16

/-- The queue that issues in this clock, by round-robin after the one served last (R100). -/
def nextQueue (s : State) (sl : Nat) : Option Nat :=
  (([1, 2, 3, 4] : List Nat).map (fun k => ((s.core sl).rr + k) % 4)).find? (fun q => canIssue s sl q)

/-- The TOD that queue `q` issues now, when it is that queue's turn. -/
def todNow (s : State) (sl q : Nat) : Option Nat :=
  if nextQueue s sl = some q then some (frontTod s sl q) else none

/-! ## Micro-batch queues (R222-R224) -/

def rMbq (sl i o : Nat) : Nat := slotBase sl + 0x1600 + 0x20 * i + o

/-- The enabled micro-batch queue bound to an op queue. -/
def mbqOf (s : State) (sl q : Nat) : Option Nat :=
  (upto 2).find? (fun i => s.fb (rMbq sl i 0) 0 && s.f (rMbq sl i 0) 1 2 = q)

/-- Whether a micro-batch queue has a current entry. -/
def mbqCur (s : State) (sl i : Nat) : Bool := s.fb (rMbq sl i 0x10) 28

/-- Place of entry number `n` of a micro-batch queue (Table 8.1). -/
def mbqEntry (s : State) (sl i n : Nat) : Nat :=
  cmemA (clusterOf s sl) + s.f (rMbq sl i 8) 0 24 + 32 * (n % 2 ^ s.f (rMbq sl i 0) 8 4)

/-- Place of the current entry: the last one taken (R224). -/
def mbqCurEntry (s : State) (sl i : Nat) : Nat := mbqEntry s sl i (s.f (rMbq sl i 0x10) 32 32 + (2 ^ 32 - 1))

/-! ## Status values used at issue (Tables 7.8, 8.9) -/

def stChanNotOpen : Nat := 0x0030
def stChanFaulted : Nat := 0x0031
def stPeerGone : Nat := 0x0032
def stChanRefused : Nat := 0x0033
def stChanMismatch : Nat := 0x0034
def stChanTimeout : Nat := 0x0035
def stMsgAborted : Nat := 0x0036
def stMbqEmpty : Nat := 0x0041

/-! ## Visible writes of an operation -/

/-- The window hint of an operation's HBM access (R313, R314). -/
def opHint (s : State) (sl ctx bit a : Nat) : Nat := winHint s (sl / 64) ctx bit a

/-- Write bytes at a device address of a core (R110). -/
def coreWrite (s : State) (sl ctx a : Nat) (bs : List Byte) : State :=
  match xlate s sl a with
  | some p => memWrite s (opHint s sl ctx 2 a) p bs
  | none => s

def unitWrites (s : State) (sl ctx : Nat) (ws : List (Nat × List Byte)) : State :=
  ws.foldl (fun s w => coreWrite s sl ctx w.1 w.2) s

/-- Atomics of a SCATTER unit, in order; answers the coordinate of the first NaN they produce (R127, R317). -/
def unitAtomics (s : State) (sl ctx : Nat) : List AtomW → Option NanAt → State × Option NanAt
  | [], n => (s, n)
  | w :: ws, n =>
    let r := s.atomicAt (opHint s sl ctx 3 w.addr) w.code w.addr w.opnd 0
    let n' := match n with
      | some x => some x
      | none => if r.2.2 then some ⟨w.coord, 5, w.fmt⟩ else none
    unitAtomics r.1 sl ctx ws n'

/-- Bytes of HBM in a list of writes. -/
def hbmBytes (ws : List (Nat × List Byte)) : Nat := sumN (ws.map (fun w => if w.1 < hbmTop then w.2.length else 0))

/-- Apply write units in order; with `stop` the unit that holds the first NaN is the last one written (R61, R62). Answers the state,
the counters, the first NaN and the HBM bytes. -/
def applyUnits (stop : Bool) (s : State) (sl ctx : Nat) : List WUnit → Counters → Option NanAt → Nat → State × Counters × Option NanAt × Nat
  | [], c, n, b => (s, c, n, b)
  | u :: us, c, n, b =>
    let s1 := unitWrites s sl ctx u.writes
    let r := unitAtomics s1 sl ctx u.atomics none
    let n' := match n with
      | some x => some x
      | none => (match u.trap with | some t => some t | none => r.2)
    let c' := c.add u.cnt
    let b' := b + hbmBytes u.writes + sumN (u.atomics.map (fun w => atWidth w.code))
    if stop && n'.isSome then (r.1, c', n', b') else applyUnits stop r.1 sl ctx us c' n' b'

/-- Merge two statistics records (R92): counts add, bins stop at 0xFFFF_FFFF, AMAX takes the IEEE maximum. -/
def mergeStats (old new : List Byte) : List Byte :=
  let am := (dec32 (leNat (old.take 4))).max (dec32 (leNat (new.take 4)))
  leBytes 4 (enc32 am) ++ leBytes 4 0 ++ leBytes 8 (leNat ((old.drop 8).take 8) + leNat ((new.drop 8).take 8))
    ++ (upto 64).flatMap (fun b => leBytes 4 (satAdd 0xFFFFFFFF (leNat ((old.drop (16 + 4 * b)).take 4)) (leNat ((new.drop (16 + 4 * b)).take 4))))

/-- Update a statistics record at operation end (R92). -/
def putStats (s : State) (sl ctx : Nat) : Option (Nat × Bool × List Byte) → State
  | none => s
  | some (a, acc, rec) =>
    if acc then
      let s := memWrite s (opHint s sl ctx 3 a) a (mergeStats (s.bytes a 272) rec)
      s.addCtr (rSlice (dieOfAddr a) 0x28) 66
    else memWrite s (opHint s sl ctx 2 a) a rec

/-! ## Completion (R115, R116) -/

def rClient (ctx o : Nat) : Nat := clientBase (clientOf ctx) + o

/-- Add energy in nJ to a client: whole µJ to ENERGY_UJ, the remainder carried (R349). -/
def addEnergy (s : State) (f nj : Nat) : State :=
  let t := look 0 s.host.njRem f + nj
  let s := s.addCtr (clientBase f + 0x58) (t / 1000)
  { s with host := { s.host with njRem := put 0 s.host.njRem f (t % 1000) } }

/-- What a client is charged when the record of its work is written (R349, Table 13.7). -/
def account (s : State) (f ns hbm link nj : Nat) : State :=
  let b := clientBase f
  let s := (((s.addCtr (b + 0x40) ns).addCtr (b + 0x48) hbm).addCtr (b + 0x50) link).addCtr (b + 0x60) 1
  addEnergy s f nj

/-- An operation reached its completion record with this outcome: what the record says. -/
structure Rec where
  status : Nat
  detail : Nat
  flags : Nat
  cnt : Counters
  deriving DecidableEq, Repr

/-- A host command that runs TODs takes note of a completed one (R343, R344). -/
def noteRun (s : State) (sl q seq st det : Nat) : State :=
  { s with host := { s.host with runs := s.host.runs.map (fun r =>
      if r.sl = sl && r.q = q && r.seqs.contains seq then { r with res := r.res ++ [(seq, st, det)] } else r) } }

/-- A Glint operation record (Table 17.2). -/
def glintOp (s : State) (sl : Nat) (o : Op) (typ st det fl : Nat) : State :=
  match logicalOf s sl with
  | none => s
  | some n => glint s 0 (some n) (leBytes 8 s.now ++ leBytes 1 typ ++ leBytes 1 o.opc ++ leBytes 2 (blockId 0 sl) ++ leBytes 2 o.tag
      ++ leBytes 2 o.vstage ++ leBytes 2 o.mb ++ leBytes 2 st
      ++ leBytes 2 (if tMbq o.tod then nth 0 o.aux 15 else 0) ++ leBytes 2 0 ++ leBytes 4 det ++ leBytes 2 fl ++ leBytes 2 0)

/-- Add 1 to an event counter of a core (R136). -/
def addEvent (s : State) (sl e : Nat) : State := s.setF (rEvent sl e) 0 32 (s.f (rEvent sl e) 0 32 + 1)

/-- The completion record is written, CPL_PROD advances, the event counter adds and the tag is freed, in that order (R115); the
client is charged (R349). `o` is no longer in the list of operations. -/
def writeRecord (s : State) (sl : Nat) (o : Op) (r : Rec) : State :=
  let suppressed := tQuiet o.tod && r.status = stOK
  let s :=
    if suppressed then s
    else
      let p := hdrW s sl o.q 2
      let n := qSize s sl o.q
      let s := localWrite s (qCpl s sl o.q + 64 * (p % n))
        (cplRecord o.tag o.opc (p / n % 2 = 0) r.status r.flags o.seq (tUser o.tod) r.cnt o.startTs o.endTs r.detail)
      setHdrW s sl o.q 2 (p + 1)
  let s := if tEvEn o.tod then addEvent s sl (tEvId o.tod) else s
  let s := if tIrq o.tod then s.emit (.cplIrq sl o.q) else s
  let s := account s (clientOf o.ctx) (o.endTs - o.startTs) o.hbm o.link o.nj
  glintOp (noteRun s sl o.q o.seq r.status r.detail) sl o 2 r.status r.detail r.flags

/-- Whether a completion ring is full (R116). -/
def cplFull (s : State) (sl q : Nat) : Bool := subMod 32 (hdrW s sl q 2) (hdrW s sl q 3) = qSize s sl q

/-- HEAD of a receive queue passes released messages and SKIP headers that lie there (R211). -/
def passHead : List RxMsg → Nat → List RxMsg × Nat
  | [], h => ([], h)
  | m :: t, h => if m.released || m.kind = 1 then passHead t (h + m.len) else (m :: t, h)

def rRq (sl r o : Nat) : Nat := slotBase sl + 0x1100 + 0x40 * r + o

/-- Store a receive queue's internals. -/
def State.setRq (s : State) (sl r : Nat) (x : RxQ) : State := s.modCore sl (fun c => { c with rqs := putRaw c.rqs r x })
def State.rq (s : State) (sl r : Nat) : RxQ := look RxQ.reset (s.core sl).rqs r

/-- Whether bank B of a core's static routes is live (R234). -/
def bankB (s : State) (sl : Nat) : Bool := s.fb (slotBase sl + 0x16C0) 0

/-- Word `n` of a queue's accept entries, of bank B or of bank A (R234). -/
def rAccept (sl r n : Nat) (b : Bool) : Nat := (if b then slotBase sl + 0x1A00 + 0x20 * r else rRq sl r 0x20) + 8 * n

/-- Valid static entries of a queue in a bank (R196). -/
def staticCount (s : State) (sl r : Nat) (b : Bool) : Nat :=
  sumN ((upto 4).map (fun n => b2n (s.fb (rAccept sl r n b) 31) + b2n (s.fb (rAccept sl r n b) 63)))

/-- A message that the next operation may be assigned, once it is taken in order: visible, neither assigned nor discarded (R208, R209). -/
def RxMsg.ready (m : RxMsg) : Bool := m.kind ≠ 1 && m.visible && m.assigned.isNone && !m.released

/-- RQ_STATUS follows the queue's internals: SENDERS of the live bank, VISIBLE, PENDING. -/
def rqStatus (s : State) (sl r : Nat) : State :=
  let x := s.rq sl r
  let s := s.setF (rRq sl r 0x18) 0 5 (staticCount s sl r (bankB s sl) + x.dyn.length)
  let s := s.setF (rRq sl r 0x18) 8 16 (min 0xFFFF (x.msgs.filter RxMsg.ready).length)
  s.setF (rRq sl r 0x18) 24 7 x.reqs.length

/-- Release messages of a queue that satisfy a test, and let HEAD pass (R211). -/
def releaseMsgs (s : State) (sl r : Nat) (p : RxMsg → Bool) : State :=
  let x := s.rq sl r
  let ms := x.msgs.map (fun m => if p m then { m with released := true } else m)
  let (ms', h) := passHead ms (s.f (rRq sl r 0x10) 0 32)
  let s := s.setRq sl r { x with msgs := ms' }
  rqStatus (s.setF (rRq sl r 0x10) 0 32 h) sl r

/-- The messages of a completed operation are released (R211). -/
def freeMsgs (s : State) (sl : Nat) (o : Op) : State :=
  ((o.msgs.map (fun m => m.2.1)).eraseDups).foldl (fun s r => releaseMsgs s sl r (fun m => m.assigned = some o.tag)) s

/-- An operation has completed with an outcome: its messages are released, and its record is written or waits for the ring (R115,
R116, R211). An operation otherwise OK of which a write met a retired page or part of a poisoned line completes with MEM_UNCORR (R320,
R325). -/
def finish (s : State) (sl : Nat) (o : Op) (r : Rec) : State :=
  let r := if s.memBad && r.status = stOK then { r with status := stMemUncorr } else r
  let s := freeMsgs { s with memBad := false } sl o
  let o := { o with endTs := s.now }
  if !(tQuiet o.tod && r.status = stOK) && cplFull s sl o.q then
    let o' := { o with stage := OpStage.recordHeld, res := ⟨r.status, r.detail, r.flags, [⟨[], [], r.cnt, none⟩], [], none⟩, msgs := [] }
    s.modCore sl (fun c => { c with ops := c.ops.filter (fun x => x.tag ≠ o.tag) ++ [o'], drainQ := c.drainQ.filter (fun x => x ≠ o.tag) })
  else
    writeRecord (s.modCore sl (fun c =>
      { c with ops := c.ops.filter (fun x => x.tag ≠ o.tag), drainQ := c.drainQ.filter (fun x => x ≠ o.tag) })) sl o r

/-- A plain outcome. -/
def Rec.plain (st : Nat) : Rec := ⟨st, 0, 0, Counters.zeros⟩

/-- The operation completes with a status and no other effect. -/
def finishWith (s : State) (sl : Nat) (o : Op) (st : Nat) : State := finish s sl o (Rec.plain st)

/-- R62: operations of the halted queue that have issued and not started complete with CANCELLED. -/
def cancelIssued (s : State) (sl q : Nat) : State :=
  ((s.core sl).ops.filter (fun o => o.q = q && o.stage = .issued)).foldl (fun s o => finishWith s sl o stCancelled) s

/-- Raise NAN_TRAP for the first NaN of an operation (R61, Table 2.8). -/
def raiseNan (s : State) (sl : Nat) (o : Op) (n : NanAt) : State :=
  let synd := packBits [(o.tag, 0, 14), (coreNum s sl, 14, 8), (o.vstage, 22, 12), (o.mb, 34, 16), (n.unit, 50, 4), (n.fmt, 54, 8)]
  { s with raises := s.raises ++ [⟨0, sl, 0, synd, s.evNo, n.coord⟩] }

/-- The queue halts on NAN_TRAP (R62). -/
def nanHalt (s : State) (sl q : Nat) : State :=
  let s := (s.setF (rOpq sl q 0x20) 0 1 1).setF (rOpq sl q 0x20) 1 3 2
  s.setB (rNanCtl sl) 1 true

def nanContinue (s : State) (sl : Nat) : Bool := s.fb (rNanCtl sl) 0

/-- An operation completes with its result: writes become visible up to the NaN trap, side outputs and statistics follow, then the
record (R61, R62, R92, R115). -/
def complete (s : State) (sl : Nat) (o : Op) (res : OpRes) : State :=
  let stop := !nanContinue s sl
  let (s1, cnt, nan, hb) := applyUnits stop s sl o.ctx res.units Counters.zeros none 0
  let o := { o with hbm := o.hbm + hb }
  let ended := stop && nan.isSome
  let s2 := if ended then s1 else putStats (unitWrites s1 sl o.ctx res.tail) sl o.ctx res.stats
  let o := { o with hbm := o.hbm + (if ended then 0 else hbmBytes res.tail + (if res.stats.isSome then 272 else 0)) }
  let s3 := if res.flags % 2 = 1 then s2.addCtr (slotBase sl + 0x390) 1 else s2
  match nan with
  | none => finish s3 sl o ⟨res.status, res.detail, res.flags, cnt⟩
  | some n =>
    let s4 := raiseNan s3 sl o n
    if ended then
      let s5 := nanHalt s4 sl o.q
      cancelIssued (finish s5 sl o ⟨stNanTrap, res.detail, res.flags, cnt⟩) sl o.q
    else finish s4 sl o ⟨res.status, res.detail, res.flags, cnt⟩

/-! ## Issue (R100, R104, R106-R112) -/

/-- What the fields of a TOD ask for, before any descriptor is read. -/
structure Form where
  /-- Bits of bytes 16-71 and 88-127 that are not reserved. -/
  mask : Nat
  /-- DESC slots that may be used, and those that must be. -/
  slots : List Nat
  need : List Nat
  /-- Whether the operation uses RND and RNG_STREAM (R52). -/
  rnd : Bool
  /-- Streams named besides RNG_STREAM, and events named besides EV_ID. -/
  streams : List Nat
  events : List Nat
  /-- DESC slots that may set PORT = 1, with the port code (Table 7.3). -/
  ports : List (Nat × Nat)
  /-- Whether MX formats may be named (R41). -/
  mx : Bool
  /-- Whether the format limits of R68 and R404 apply. -/
  gate : Bool
  /-- A status found in the fields alone, 0 when they are legal. -/
  st : Nat
  /-- DESC slots that are neither read nor checked, whatever they hold (R105). -/
  ignore : List Nat := []
  deriving DecidableEq, Repr

/-- A form with no descriptors. -/
def Form.plain (mask st : Nat) : Form := ⟨mask, [], [], false, [], [], [], false, true, st, []⟩

/-- What an operation touches, once its descriptors are read: a status of the family's own checks; device byte runs (address, length)
read, written and updated by atomics, for R110; ranges [lo, hi) of inputs and outputs for R113; accumulator slots and mode; whether an
output overlaps an input (R112). -/
structure Use where
  st : Nat
  reads : List (Nat × Nat)
  writes : List (Nat × Nat)
  atoms : List (Nat × Nat)
  ins : List (Nat × Nat)
  outs : List (Nat × Nat)
  slots : List Nat
  mode : AccMode
  clash : Bool
  /-- An address refused whatever the windows grant. -/
  deny : Option Nat := none
  /-- Streams named, known only from the descriptors. -/
  streams : List Nat := []
  deriving DecidableEq, Repr

def Use.bad (st : Nat) : Use := ⟨st, [], [], [], [], [], [], .acc32, false, none, []⟩

/-- Overlap of two ranges [lo, hi). -/
def overlap (a b : Nat × Nat) : Bool := a.1 < b.2 && b.1 < a.2 && a.1 < a.2 && b.1 < b.2

def overlapAny (as bs : List (Nat × Nat)) : Bool := as.any (fun a => bs.any (fun b => overlap a b))

/-- Descriptors equal in ADDR, FORMAT, sizes, strides and SCALE_PTR, as far as they are used (R108, R112). -/
def sameTensor (a b : Desc) : Bool :=
  a.addr = b.addr && a.fmt = b.fmt && a.size = b.size && (!hasScaleArea a.fmt || a.scalePtr = b.scalePtr)
    && (upto 5).all (fun i => (a.ndim ≤ i && b.ndim ≤ i) || a.n i = 1 || a.st i = b.st i)

/-- The use of input and output tensors; `inPlace` says which input-output pairs may coincide (R112, R144, R149). -/
def Use.tensorsWith (inPlace : Desc → Desc → Bool) (ins outs : List Desc) : Use :=
  let ins' := ins.filter (fun d => !d.port)
  { st := 0
    reads := ins'.flatMap Desc.readRuns ++ outs.flatMap Desc.coarseRun
    writes := outs.flatMap Desc.writeRuns
    atoms := []
    ins := ins'.flatMap Desc.span
    outs := outs.flatMap Desc.span
    slots := []
    mode := .acc32
    clash := ins'.any (fun i => outs.any (fun o => !inPlace i o && overlapAny i.span o.span)) }

def Use.tensors (ins outs : List Desc) : Use := Use.tensorsWith (fun _ _ => false) ins outs

/-- The first nonzero status of a list of checks (the order of the checks is the model's, log 21). -/
def firstSt (l : List Nat) : Nat := (l.find? (fun x => x ≠ 0)).getD 0

def chk (ok : Bool) (st : Nat) : Nat := if ok then 0 else st

/-- The TOD ring, completion ring and header of a slot's enabled queues, as ranges of cluster memory (R97). -/
def queueSpans (s : State) (sl : Nat) : List (Nat × Nat) :=
  ((upto 4).filter (qEn s sl)).flatMap (fun q =>
    let r := rOpq sl q 8
    [(s.f r 0 24, s.f r 0 24 + 128 * qSize s sl q), (s.f r 24 24, s.f r 24 24 + 64 * qSize s sl q),
     (256 * s.f r 48 16, 256 * s.f r 48 16 + 64)])

/-- Whether a run of cluster memory meets a ring or a header of an enabled queue of the cluster: these lie outside every window (R111). -/
def meetsQueue (s : State) (sl lo hi : Nat) : Bool :=
  (clusterSlots s (clusterOf s sl)).any (fun x => (queueSpans s x).any (fun r => overlap (lo, hi) r))

/-- Whether a queue's windows cover a byte run of scratchpad or cluster memory, or the context's HBM windows grant it (R110, R111,
R313); `bit` is 1 READ, 2 WRITE, 3 ATOMIC. -/
def runOk (s : State) (sl q ctx bit a n : Nat) : Bool :=
  if n = 0 then true
  else if a + n ≤ hbmTop then winCovers s (sl / 64) ctx bit a n
  else
    let w := rOpq sl q 0x18
    if 0xFF0000000000 ≤ a && a + n ≤ 0xFF0001000000 then
      let o := a - 0xFF0000000000
      s.f w 0 8 * 65536 ≤ o && o + n ≤ (s.f w 8 8 + 1) * 65536 && s.f w 0 8 ≤ s.f w 8 8
    else if 0xFF0100000000 ≤ a && a + n ≤ 0xFF0101000000 then
      let o := a - 0xFF0100000000
      s.f w 16 8 * 65536 ≤ o && o + n ≤ (s.f w 24 8 + 1) * 65536 && s.f w 16 8 ≤ s.f w 24 8 && !meetsQueue s sl o (o + n)
    else false

/-- The first byte of a ring or header at or after device address `a` (log 105). -/
def ringStart (s : State) (sl a : Nat) : Nat :=
  (((clusterSlots s (clusterOf s sl)).flatMap (queueSpans s)).map (fun r => 0xFF0100000000 + r.1)).foldl
    (fun m b => if a ≤ b && (m ≤ a || b < m) then b else m) a

/-- The first byte of a run that is not permitted (R110, R142): permissions change at 64 KiB units and at the queues' rings. -/
def badByte (s : State) (sl q ctx bit a n : Nat) : Nat :=
  match (a :: (fromLen (a / 65536 + 1) (n / 65536 + 1)).map (fun u => 65536 * u)).find? (fun b =>
    b < a + n && !runOk s sl q ctx bit b (min (a + n) (b / 65536 * 65536 + 65536) - b)) with
  | none => a
  | some b => if runOk s sl q ctx bit b 1 then ringStart s sl b else b

/-- The first refused byte among an operation's runs, as (refused, address). -/
def protBad (s : State) (sl q ctx : Nat) (u : Use) : Option Nat :=
  let look (bit : Nat) (rs : List (Nat × Nat)) : Option Nat :=
    (rs.find? (fun r => !runOk s sl q ctx bit r.1 r.2)).map (fun r => badByte s sl q ctx bit r.1 r.2)
  match u.deny with
  | some a => some a
  | none => match look 1 u.reads with
    | some a => some a
    | none => match look 2 u.writes with
      | some a => some a
      | none => look 3 u.atoms

/-- Whether an operation would touch memory of a cache slice that has failed to wake (R377). -/
def sliceGone (s : State) (u : Use) : Bool :=
  (upto 8).any (fun d => (s.die d).noSlice
    && overlapAny ((u.reads ++ u.writes ++ u.atoms).map (fun r => (r.1, r.1 + r.2))) [(d * stackBytes, (d + 1) * stackBytes)])

/-- Descriptor table entry i of a queue: device address. -/
def descAddr (s : State) (sl q i : Nat) : Nat := s.f (rOpq sl q 0x10) 0 48 + 64 * i

/-- Whether a format is enabled on the core now (R68, R404). -/
def fmtAvail (s : State) (sl f : Nat) : Bool :=
  if s.f (rCapDie (sl / 64)) 0 3 = 2 then [0, 2, 3, 4, 13, 14].contains f
  else !isG16 f || s.fb (slotBase sl + 0x3A0) 2

/-- The checks of one descriptor (R41, R46, R47, R108, R109, R207). -/
def descSt (f : Form) (slot : Nat) (v : Nat) : Nat :=
  let d := parseDesc v
  firstSt [
    chk (descOk v) stBadField,
    chk (!d.port || f.ports.any (fun p => p.1 = slot)) stBadField,
    chk (d.fmt < 0xF && (f.mx || !isMX d.fmt)) stFormatIllegal,
    chk (d.port || d.aligned) stMisaligned,
    chk (d.port || !hasScaleArea d.fmt || d.scalePtr % 64 = 0) stMisaligned]

/-- Checks of the TOD's fields (R3, R102-R106, R136, R133, R52), in the order the model makes them. -/
def todSt (s : State) (sl q t : Nat) (f : Form) : Nat :=
  let cfg := rOpq sl q 0
  let tag := tTag t
  let streams := (if f.rnd && tRnd t = 2 then [tStream t] else []) ++ f.streams
  let events := (if tEvEn t then [tEvId t] else []) ++ f.events
  firstSt [
    chk (tag / 64 = s.f (rTagCfg sl) 0 8) stBadField,
    chk (s.f cfg 48 6 ≤ tag % 64 && tag % 64 ≤ s.f cfg 54 6) stBadField,
    chk (!((logicalOf s sl).any (fun n => offline s n))) stCoreOffline,
    chk (t &&& (hdrMask ||| slotMask ||| f.mask) = t) stBadField,
    chk (tOpcode t ≠ 0x3A || upmBit s 46) stUnitAbsent,
    chk (!(f.rnd && tRnd t = 3)) stBadField,
    chk (events.all (fun e => bitN (s.f cfg 32 16) e)) stBadField,
    chk (streams.all (fun e => bitN (s.f cfg 16 16) e)) stBadField,
    f.st,
    chk (!tMbq t || (mbqOf s sl q).isSome) stBadField,
    chk (!tMbq t || ((mbqOf s sl q).any (fun i => mbqCur s sl i))) stMbqEmpty,
    chk ((upto 8).all (fun i => tDesc t i = 0xFFFF || f.slots.contains i || f.ignore.contains i)) stBadField,
    chk (f.need.all (fun i => tDesc t i ≠ 0xFFFF)) stBadField]

/-- Slots a TOD uses. -/
def usedSlots (t : Nat) (f : Form) : List Nat := f.slots.filter (fun i => tDesc t i ≠ 0xFFFF)

/-- A TOD without its EV_EN when the queue may not name its EV_ID: it completes with BAD_FIELD and adds to no event counter (R136). -/
def evCut (s : State) (sl q t : Nat) : Nat :=
  if tEvEn t && !bitN (s.f (rOpq sl q 0) 32 16) (tEvId t) then t - 2 ^ 30 else t

/-- The operation a TOD makes, before its descriptors are known. -/
def newOp (s : State) (sl q t : Nat) : Op :=
  let cur := if tMbq t then mbqOf s sl q else none
  let e := (cur.map (fun i => mbqCurEntry s sl i)).getD 0
  { tag := tTag t, q := q, seq := hdrW s sl q 1, tod := evCut s sl q t, ctx := qCtx s sl q
    vstage := if cur.isSome then s.num (e + 2) 2 % 4096 else bitsN t 36 12
    mb := if cur.isSome then s.num e 2 else bitsN t 48 16
    descs := [], stage := .issued, slots := [], mode := .acc32, ins := [], outs := [], streams := [], ctrs := [], scales := [], wins := []
    hazAcc := false, hazMem := false, startTs := s.now, endTs := s.now, res := OpRes.ofStatus 0, tile := 0, drained := 0, msgs := []
    aux := (upto 14).map (fun _ => 0) ++ (if cur.isSome then [s.num (e + 16) 8, s.num (e + 30) 2] else [0, 0])
    hbm := 0, link := 0, nj := 0 }

/-- A TOD with TAG bits [13:6] replaced by a tag window (R343). -/
def retag (t : Nat) (win : Option Nat) : Nat :=
  match win with
  | none => t
  | some w => t % 2 ^ 14 + (w % 256) * 2 ^ 14 + t / 2 ^ 22 * 2 ^ 22

/-- Put one TOD into a queue's ring and advance PROD. -/
def putTod (s : State) (sl q : Nat) (t : Nat) : State :=
  let p := hdrW s sl q 0
  setHdrW (localWrite s (qRing s sl q + 128 * (p % qSize s sl q)) (leBytes 128 t)) sl q 0 (p + 1)

/-- The ring engine copies TODs of a host command into the ring while there is space, in order (R343, R344). -/
def feedRun : Nat → State → Nat → Nat → State
  | 0, s, _, _ => s
  | k + 1, s, sl, q =>
    match s.host.runs.find? (fun r => r.sl = sl && r.q = q && r.fed < r.count) with
    | none => s
    | some r =>
      if qSize s sl q ≤ subMod 32 (hdrW s sl q 0) (hdrW s sl q 1) then s
      else
        let t := retag (s.num (hostA (r.src + 128 * r.fed)) 128) r.win
        let n := hdrW s sl q 0
        let s := putTod s sl q t
        let s := { s with host := { s.host with runs := s.host.runs.map (fun x =>
          if x.cmd = r.cmd then { x with fed := x.fed + 1, seqs := x.seqs ++ [n] } else x) } }
        feedRun k s sl q

/-- CONS advances, with its copy in OPQ_STATUS, the queue becomes the one served last (R100), and a host command's next TODs follow. -/
def takeTod (s : State) (sl q : Nat) : State :=
  let n := hdrW s sl q 1 + 1
  let s := setHdrW s sl q 1 n
  let s := s.setF (rOpq sl q 0x20) 32 32 n
  feedRun 4096 (s.modCore sl (fun c => { c with rr := q })) sl q

/-- MEM_PROTECT raised with the address (R107, R110, R142). -/
def raiseProt (s : State) (sl q tag a : Nat) : State :=
  s.raise .memProtect sl (packBits [(tag, 0, 14), (q, 14, 2), (a, 16, 48)])

/-- ACC_PROTECT raised (R83, Table 3.13). -/
def raiseAcc (s : State) (sl tag ctx slot own : Nat) : State :=
  s.raise .accProtect sl (packBits [(tag, 0, 14), (ctx, 14, 8), (slot, 22, 7), (own, 29, 8)])

/-- Owner of an accumulator slot (Table 3.11). -/
def accOwner (s : State) (sl k : Nat) : Nat := s.f (rOwner sl (k / 8)) (8 * (k % 8)) 8

/-- Whether an operation waits for an accumulator slot (R84), or for local memory (R113), of an earlier one of its context. -/
def accHaz (c : Core) (o : Op) : Bool :=
  (c.ops.takeWhile (fun e => e.tag ≠ o.tag)).any (fun e => e.ctx = o.ctx && e.live && e.slots.any (fun k => o.slots.contains k))

/-- A STASH_GET waits for the STASH_PUT of its key (R158). -/
def stashDep (e o : Op) : Bool :=
  o.opc = 0x3F && e.opc = 0x3E && e.mb = o.mb && e.vstage = o.vstage && tF e.tod 16 0 8 = tF o.tod 16 0 8

def memHaz (c : Core) (o : Op) : Bool :=
  (c.ops.takeWhile (fun e => e.tag ≠ o.tag)).any (fun e => e.ctx = o.ctx && e.live
    && (overlapAny o.outs (e.ins ++ e.outs) || overlapAny o.ins e.outs || stashDep e o))

/-- Ranges that lie in scratchpad or cluster memory take part in R113. -/
def localRanges (rs : List (Nat × Nat)) : List (Nat × Nat) := rs.filter (fun r => hbmTop ≤ r.1)

/-- The first wait of an operation for a hazard adds to the event counter (R84, R113). -/
def noteHazards (s : State) (sl : Nat) (o : Op) : State :=
  let c := s.core sl
  let a := !o.hazAcc && accHaz c o
  let m := !o.hazMem && memHaz c o
  let s := if a then s.addCtr (slotBase sl + 0x380) 1 else s
  let s := if m then s.addCtr (slotBase sl + 0x780) 1 else s
  if a || m then
    s.modCore sl (fun c => { c with ops := c.ops.map (fun x =>
      if x.tag = o.tag then { x with hazAcc := x.hazAcc || a, hazMem := x.hazMem || m } else x) })
  else s

/-- A family's part: what the fields ask for, what the descriptors make of them (state, slot, queue, TOD, operation), and the
operation's start (state, slot, operation): the operation with its result or its progress, or a nonzero status with which it
completes at once with no other effect. -/
structure Family where
  form : Nat → Form
  use : State → Nat → Nat → Nat → Op → Use
  start : State → Nat → Op → State × Op × Nat

/-- Reading of the descriptors a TOD names (R107): a status and the address of a refused one, or the descriptors. -/
def readDescs (s : State) (sl q ctx t : Nat) (f : Form) : Nat × Nat × List (Nat × Desc) :=
  let us := usedSlots t f
  let cnt := s.f (rOpq sl q 0x10) 48 16
  if us.any (fun i => cnt ≤ tDesc t i) then (stBadField, 0, [])
  else
    match us.find? (fun i => !runOk s sl q ctx 1 (descAddr s sl q (tDesc t i)) 64) with
    | some i => (stMemProtect, descAddr s sl q (tDesc t i), [])
    | none =>
      let vs := us.map (fun i => (i, (xlate s sl (descAddr s sl q (tDesc t i))).getD 0))
      if vs.any (fun p => poisoned s p.2 64) then (stMemUncorr, 0, [])
      else
        let ds := vs.map (fun p => (p.1, s.num p.2 64))
        let st := firstSt (ds.map (fun p => descSt f p.1 p.2)
          ++ ds.map (fun p => chk (!f.gate || fmtAvail s sl (parseDesc p.2).fmt) stFormatUnavailable))
        (st, 0, ds.map (fun p => (p.1, parseDesc p.2)))

/-- The slice reads of the descriptors. -/
def touchDescs (s : State) (sl q ctx t : Nat) (f : Form) : State :=
  (usedSlots t f).foldl (fun s i =>
    let a := descAddr s sl q (tDesc t i)
    if a < hbmTop then hbmTouch s (opHint s sl ctx 1 a) a 64 else s) s

/-- Issue of the queue's next TOD (R100): the TOD is taken and checked; a failing check completes it at once with its status and no
other effect, and otherwise it enters the queue of its unit. Answers the state and the tag when it has entered. -/
def issueTod (s : State) (sl q t : Nat) (fam : Family) : State × Option Op :=
  let f := fam.form t
  let o := newOp s sl q t
  let s := takeTod s sl q
  let st := todSt s sl q t f
  if st ≠ 0 then (finishWith s sl o st, none)
  else
    let (dst, da, ds) := readDescs s sl q o.ctx t f
    if dst = stMemProtect then (finishWith (raiseProt s sl q o.tag da) sl o dst, none)
    else if dst ≠ 0 then (finishWith s sl o dst, none)
    else
      let s := touchDescs s sl q o.ctx t f
      let o := { o with descs := ds }
      let u := fam.use s sl q t o
      if u.st ≠ 0 then (finishWith s sl o u.st, none)
      else
        match protBad s sl q o.ctx u with
        | some a => (finishWith (raiseProt s sl q o.tag a) sl o stMemProtect, none)
        | none =>
          if u.clash then (finishWith s sl o stBadField, none)
          else if sliceGone s u then (finishWith s sl o stCoreOffline, none)
          else
            match u.slots.find? (fun k => accOwner s sl k ≠ o.ctx
                || (s.core sl).ops.any (fun e => e.ctx ≠ o.ctx && e.live && e.slots.contains k)) with
            | some k => (finishWith (raiseAcc s sl o.tag o.ctx k (accOwner s sl k)) sl o stAccProtect, none)
            | none =>
              let o := { o with
                slots := u.slots, mode := u.mode, ins := localRanges u.ins, outs := localRanges u.outs
                streams := (if f.rnd && tRnd t = 2 then [tStream t] else []) ++ f.streams ++ u.streams }
              let s := s.modCore sl (fun c => { c with ops := c.ops ++ [o] })
              (noteHazards s sl o, some o)

/-! ## Start (R101, R133, R209) -/

/-- STEP_BEGIN and REWIND name every stream (R252, R256). -/
def Op.namesAll (o : Op) : Bool := o.opc = 0x3A && tF o.tod 16 10 2 ≠ 0

/-- Streams of an earlier-issued operation that has not started (R133), or a STEP_BEGIN or REWIND that has not completed (R252). -/
def streamHeld (c : Core) (o : Op) : Bool :=
  (c.ops.takeWhile (fun e => e.tag ≠ o.tag)).any (fun e =>
    (e.stage = .issued && e.streams.any (fun k => o.streams.contains k)) || (e.namesAll && e.live && !o.streams.isEmpty))

def Op.started (o : Op) : Bool := o.stage = .running || o.stage = .finishing

/-- Whether an operation holds its units from start to end: VEC_CALL (R140), ATTN_FWD and ATTN_BWD (Table 4.2). -/
def Op.exclusive (o : Op) : Bool := o.opc = 0x40 || o.opc = 0x10 || o.opc = 0x11

/-- Whether a started operation keeps another one from starting: the engine works on one matrix operation's tiles at a time (R69), and
an exclusive operation holds its units. -/
def busyWith (e o : Op) : Bool :=
  e.started &&
    ((inUnit e.opc 0 && inUnit o.opc 0 && (e.stage = .running || e.exclusive))
      || (inUnit e.opc 2 && inUnit o.opc 2 && (e.exclusive || o.exclusive)))

/-- Whether a unit of the operation is held by an earlier operation: one that has not started (R101), or one that runs in a unit
that takes one operation at a time. -/
def unitHeld (c : Core) (o : Op) : Bool :=
  c.ops.any (fun e => e.tag ≠ o.tag && busyWith e o)
    || (c.ops.takeWhile (fun e => e.tag ≠ o.tag)).any (fun e => e.stage = .issued
          && ([0, 1, 2, 3, 4, 5].any (fun u => inUnit e.opc u && inUnit o.opc u)))

/-- DESC slots that may set PORT = 1, with the port's code (Table 7.3). -/
def portTable (t : Nat) : List (Nat × Nat) :=
  let o := tOpcode t
  if 1 ≤ o && o ≤ 3 then [(0, 0), (1, 1)] ++ (if tB t 16 3 then [(5, 4)] else [])
  else if o = 4 then [(5, 4)]
  else if o = 8 || (0xA ≤ o && o ≤ 0xD) || o = 0x20 || o = 0x21 then [(0, 2)]
  else if o = 9 || o = 0x1A then [(0, 3)]
  else []

/-- Operand ports an issued operation uses. -/
def Op.ports (o : Op) : List (Nat × Nat) := (portTable o.tod).filter (fun p => o.descs.any (fun d => d.1 = p.1 && d.2.port))

/-- Queue bound to a port for a context now (R208). -/
def boundRq (s : State) (sl ctx p : Nat) : Option Nat :=
  let b := s.rd (slotBase sl + 0x1500)
  if fld b (8 * p + 4) 1 = 1 && look 0x100 (s.core sl).bindCtx p = ctx then some (fld b (8 * p) 4) else none

/-- A RECV of the context that names the port, was issued before the operation and has not bound it yet (R209). -/
def recvPending (c : Core) (o : Op) (p : Nat) : Bool :=
  (c.ops.takeWhile (fun e => e.tag ≠ o.tag)).any (fun e =>
    e.opc = 0x29 && e.ctx = o.ctx && e.live && tF e.tod 16 4 3 = p && nth 0 e.aux 0 = 0)

/-- An earlier-issued operation of the context uses the port and has not been assigned its messages (R209). -/
def portBefore (c : Core) (o : Op) (p : Nat) : Bool :=
  (c.ops.takeWhile (fun e => e.tag ≠ o.tag)).any (fun e =>
    e.stage = .issued && e.ctx = o.ctx && e.opc ≠ 0x29 && e.ports.any (fun x => x.2 = p))

/-- Outcome of collecting messages for one port (R209, R210). -/
inductive Take where
  | ok (starts : List Nat)
  | wait
  | mismatch (seq : Nat)
  | aborted (starts : List Nat)
  deriving DecidableEq, Repr

/-- Place of a receive queue's ring. -/
def ringPlace (s : State) (sl r : Nat) : Nat :=
  (if s.fb (rRq sl r 0) 2 then cmemA (clusterOf s sl) else spadA sl) + s.f (rRq sl r 8) 0 24

/-- Header field of a message in its ring. -/
def msgF (s : State) (sl r : Nat) (m : RxMsg) (o n : Nat) : Nat := s.num (ringPlace s sl r + m.off + o) n

/-- Take visible messages until their sizes along the last dimension add up; along a single dimension one message must carry it all
(R209). -/
def takeMsgs (s : State) (sl r : Nat) (d : Desc) : List RxMsg → Nat → Nat → List Nat → Take
  | [], _, _, _ => .wait
  | m :: t, sum, coarse, acc =>
    if m.kind = 1 || m.assigned.isSome || m.released then takeMsgs s sl r d t sum coarse acc
    else if !m.visible then .wait
    else if m.kind = 2 then .aborted (acc ++ [m.start])
    else
      let last := msgF s sl r m (20 + 4 * (d.ndim - 1)) 4
      let same := msgF s sl r m 1 1 = d.fmt && msgF s sl r m 2 1 = d.ndim
        && (upto (d.ndim - 1)).all (fun k => msgF s sl r m (20 + 4 * k) 4 = d.n k)
        && (acc.isEmpty || msgF s sl r m 16 4 = coarse)
      let tot := sum + last
      if !same || d.n (d.ndim - 1) < tot || (d.ndim = 1 && tot ≠ d.n 0) then .mismatch m.seq
      else if tot = d.n (d.ndim - 1) then .ok (acc ++ [m.start])
      else takeMsgs s sl r d t tot (if acc.isEmpty then msgF s sl r m 16 4 else coarse) (acc ++ [m.start])

/-- Assign messages of a queue to an operation. -/
def assignMsgs (s : State) (sl r tag : Nat) (starts : List Nat) : State :=
  let x := s.rq sl r
  let s := s.setRq sl r { x with msgs := x.msgs.map (fun m => if starts.contains m.start then { m with assigned := some tag } else m) }
  rqStatus s sl r

/-- Start of the private address range where the data of an operand port stands for an operation: data, then its scale area. -/
def portAddr (p : Nat) : Nat := 2 ^ 60 + 2 ^ 40 * p
def portScale (p : Nat) : Nat := portAddr p + 2 ^ 36

/-- Dense strides of a tensor. -/
def denseStrides (f : Nat) (size : List Nat) : List Nat :=
  match size with
  | n0 :: n1 :: n2 :: n3 :: _ =>
    let r := runBytes f n0
    [0, r, r * n1, r * n1 * n2, r * n1 * n2 * n3]
  | _ => [0, 0, 0, 0, 0]

/-- The element and scale bytes of the assigned messages, in assignment order (R200, R209). -/
def portBytes (s : State) (sl : Nat) (o : Op) (p : Nat) : List Byte × List Byte × Nat :=
  (o.msgs.filter (fun m => m.1 = p)).foldl (fun (acc : List Byte × List Byte × Nat) m =>
    match (s.rq sl m.2.1).msgs.find? (fun x => x.start = m.2.2) with
    | none => acc
    | some x =>
      let f := msgF s sl m.2.1 x 1 1
      let size := (upto 5).map (fun k => msgF s sl m.2.1 x (20 + 4 * k) 4)
      let base := ringPlace s sl m.2.1 + x.off
      let e := runBytes f (nth 1 size 0) * prodN (size.drop 1)
      let g := if isG16 f then cdiv (nth 1 size 0) 16 * prodN (size.drop 1) else 0
      (acc.1 ++ s.bytes (base + 64) e, acc.2.1 ++ s.bytes (base + msgF s sl m.2.1 x 56 4) g,
        if acc.1.isEmpty then msgF s sl m.2.1 x 16 4 else acc.2.2)) ([], [], 0)

/-- The state and descriptors an operation computes from: message data stands at each port's private range. -/
def opView (s : State) (sl : Nat) (o : Op) : State × List (Nat × Desc) :=
  o.ports.foldl (fun (acc : State × List (Nat × Desc)) pr =>
    let (eb, sb, c) := portBytes s sl o pr.2
    let m := memPutAll acc.1.mem (portAddr pr.2) eb
    let m := memPutAll m (portScale pr.2) (leBytes 4 c)
    let m := memPutAll m (portScale pr.2 + 64) sb
    ({ acc.1 with mem := m }, acc.2.map (fun d =>
      if d.1 = pr.1 then (d.1, { d.2 with addr := portAddr pr.2, scalePtr := portScale pr.2, stride := denseStrides d.2.fmt d.2.size })
      else d))) (s, o.descs)

/-- What stands in the way of an operation's start (R101, R133, R209). -/
inductive StartRes where
  /-- It waits. -/
  | wait
  /-- It starts; messages are assigned. -/
  | go (s : State) (o : Op)
  /-- It has completed without starting. -/
  | over (s : State)

/-- Assign the messages of every port, or complete the operation (R209, R210). -/
def assignPorts (s : State) (sl : Nat) (o : Op) : StartRes :=
  let ps := o.ports
  if ps.isEmpty then .go s o
  else if ps.any (fun p => (boundRq s sl o.ctx p.2).isNone) then .over (finishWith s sl o stChanNotOpen)
  else
    let takes := ps.map (fun p =>
      let r := (boundRq s sl o.ctx p.2).getD 0
      let d := (o.descs.find? (fun d => d.1 = p.1)).map (·.2)
      match d with
      | some d => (p.2, r, takeMsgs s sl r d (s.rq sl r).msgs 0 0 [])
      | none => (p.2, r, Take.wait))
    match takes.find? (fun t => match t.2.2 with | Take.aborted _ => true | _ => false) with
    | some (p, r, Take.aborted st) =>
      let s := assignMsgs s sl r o.tag st
      .over (finishWith s sl { o with msgs := st.map (fun x => (p, r, x)) } stMsgAborted)
    | _ =>
      match takes.find? (fun t => match t.2.2 with | Take.mismatch _ => true | _ => false) with
      | some (p, r, Take.mismatch sq) =>
        let s := s.raise .chanMismatch sl (packBits [(o.tag, 0, 14), (r, 14, 4), (p, 18, 3), (sq, 21, 32)])
        .over (finishWith s sl o stChanMismatch)
      | _ =>
        if takes.any (fun t => match t.2.2 with | Take.ok _ => false | _ => true) then .wait
        else
          let s := takes.foldl (fun s t => match t.2.2 with
            | Take.ok st => assignMsgs s sl t.2.1 o.tag st
            | _ => s) s
          let ms := takes.flatMap (fun t => match t.2.2 with
            | Take.ok st => st.map (fun x => (t.1, t.2.1, x))
            | _ => [])
          let bad := ps.any (fun p => o.descs.any (fun d => d.1 = p.1 && hasCoarse d.2.fmt)
            && !coarseOk (portBytes s sl { o with msgs := ms } p.2).2.2)
          if bad then .over (finishWith s sl { o with msgs := ms } stBadScale)
          else .go s { o with msgs := ms }

/-- Whether an issued operation may start now, ports apart (R84, R101, R113, R133). -/
def startable (c : Core) (o : Op) : Bool :=
  o.stage = .issued && !accHaz c o && !memHaz c o && !streamHeld c o && !unitHeld c o
    && !o.ports.any (fun p => recvPending c o p.2 || portBefore c o p.2)

/-- Replace an operation in the list of operations. -/
def updOp (s : State) (sl : Nat) (o : Op) : State :=
  s.modCore sl (fun c => { c with ops := c.ops.map (fun x => if x.tag = o.tag then o else x) })

/-- The operation of a tag. -/
def opOf (s : State) (sl tag : Nat) : Option Op := (s.core sl).ops.find? (fun o => o.tag = tag)

/-- 128-bit counter of a stream. -/
def streamCtr (s : State) (sl n : Nat) : Nat := (s.rd (rRngKey sl n + 8)).toNat + 2 ^ 64 * (s.rd (rRngKey sl n + 16)).toNat
def setStreamCtr (s : State) (sl n v : Nat) : State :=
  (s.wr (rRngKey sl n + 8) (BitVec.ofNat 64 v)).wr (rRngKey sl n + 16) (BitVec.ofNat 64 (v / 2 ^ 64))

/-- Advance streams by (stream, blocks) (R53; log 10). -/
def advance (s : State) (sl : Nat) (l : List (Nat × Nat)) : State :=
  l.foldl (fun s p => setStreamCtr s sl p.1 (streamCtr s sl p.1 + p.2)) s

/-- Rounding of an operation's output conversion (R52, R53). -/
def Op.conv (o : Op) (s : State) (sl : Nat) : ConvCtx :=
  { mode := Rnd.ofCode (tRnd o.tod), key := (s.rd (rRngKey sl (tStream o.tod))).toNat, ctr := streamCtr s sl (tStream o.tod) }

/-- Blocks of 8 random values for an output region of N positions, charged to RNG_STREAM in stochastic mode (R53). -/
def rndAdvance (o : Op) (n : Nat) : List (Nat × Nat) := if tRnd o.tod = 2 then [(tStream o.tod, cdiv n 8)] else []

/-- Whether some input bytes are poisoned (R114, R320). -/
def anyPoison (s : State) (sl : Nat) (rs : List (Nat × Nat)) : Bool :=
  rs.any (fun r => match xlate s sl r.1 with | some p => poisoned s p r.2 | none => false)

/-- Slice reads of an operation's HBM inputs. -/
def touchReads (s : State) (sl ctx : Nat) (rs : List (Nat × Nat)) : State :=
  rs.foldl (fun s r => if r.1 < hbmTop then hbmTouch s (opHint s sl ctx 1 r.1) r.1 r.2 else s) s

def hbmLen (rs : List (Nat × Nat)) : Nat := sumN (rs.map (fun r => if r.1 < hbmTop then r.2 else 0))

/-- The point an operation stopped by an uncorrectable word had reached is open: some number of its write units is written
(R114; log 22). -/
def cutUnits (s : State) (res : OpRes) (st : Nat) : State × OpRes :=
  let (w, s) := s.freeWord
  (s, { res with status := st, detail := 0, units := res.units.take (w % (res.units.length + 1)), tail := [], stats := none })

/-- A poisoned input ends the operation with MEM_UNCORR. -/
def withPoison (s : State) (sl : Nat) (rs : List (Nat × Nat)) (res : OpRes) : State × OpRes :=
  if anyPoison s sl rs then cutUnits s res stMemUncorr else (s, res)

/-- Whether an input or output coarse scale is illegal (R44). -/
def badScale (v : View) (ds : List Desc) : Bool := ds.any (fun d => hasCoarse d.fmt && !d.port && !coarseOk (v.coarseCode d))

/-- Coarse scale of a DESC slot, as the operation read it at its start (R44). -/
def Op.coarse (o : Op) (i : Nat) : Nat := look 0x3F800000 o.scales i

/-- ECC events met by an operation's reads: corrected ones are counted and reported; answers whether an uncorrectable one was met
(R114, R319, R320). -/
def eccEvents (s : State) (sl : Nat) (o : Op) (evs : List EccEvent) : State × Bool :=
  evs.foldl (fun (acc : State × Bool) e =>
    let s := acc.1
    let one := e.bits ≤ 1
    if e.space = 0 || e.space = 4 || e.space = 5 then
      let r := lineEcc s o.tag e
      (if e.space = 0 && e.bits = 1 && e.addr < hbmTop then fixLine r.1 (e.addr / 64) else r.1, acc.2 || r.2)
    else if e.space = 1 then
      let a := e.addr % 2 ^ 24
      if one then ((s.addCtr (slotBase sl + 0x790) 1).raise .spadEccCorr sl (packBits [(a / 8, 3, 21)]), acc.2)
      else ((poisonAt s (spadA sl + a)).raise .spadEccUncorr sl (packBits [(o.tag, 0, 14), (a / 8, 17, 21)]), true)
    else if e.space = 2 then
      let a := e.addr % 2 ^ 24
      let cl := clusterOf s sl
      if one then (s.raise .cmemEccCorr cl (packBits [(a / 8, 3, 21)]), acc.2)
      else ((poisonAt s (cmemA cl + a)).raise .cmemEccUncorr cl (packBits [(o.tag, 0, 14), (a / 8, 17, 21)]), true)
    else acc) (s, false)

/-- Start an operation that nothing holds back (R101): its messages are assigned, its start time is taken and its family's start runs;
otherwise it goes on waiting. -/
def tryStart (s : State) (sl : Nat) (o : Op) (fam : Family) : State :=
  if !startable (s.core sl) o then s
  else
    match assignPorts s sl o with
    | .wait => s
    | .over t => t
    | .go t o1 =>
      let o2 := { o1 with startTs := t.now }
      let (t1, o3, st) := fam.start t sl o2
      if st ≠ 0 then finishWith t1 sl o2 st
      else glintOp (updOp t1 sl o3) sl o3 1 0 0 0

/-- A TOD command: the queue's next TOD issues when `mine` says it is of this kind, and starts when nothing holds it back. -/
def runTod (s : State) (sl q : Nat) (mine : Nat → Bool) (fam : Family) : State :=
  match todNow s sl q with
  | none => s
  | some t =>
    if !mine t then s
    else
      match issueTod s sl q t fam with
      | (s', none) => s'
      | (s', some o) => tryStart s' sl ((opOf s' sl o.tag).getD o) fam

/-- Whether a TOD has this opcode. -/
def isOpc (c t : Nat) : Bool := tOpcode t = c

end Sys2Proof.Machine
end

