-- ==== Sys2Proof/Machine/Transc.lean ====
section
/-! DEFINITION. The transcendental unit (spec/04 R120, R134; spec/03 R89): each function is enclosed by fixed-point series of
448 fraction bits, and the result is one of the FP32 values within the stated error, chosen by `Config.ulpChoice`, which
depends only on the function and the input bits (log 11). -/

namespace Sys2Proof.Machine

/-- Fraction bits of the fixed-point enclosures. -/
def fxP : Nat := 448

def fxOne : Int := 2 ^ fxP
def fxMul (a b : Int) : Int := a * b / fxOne
def fxDiv (a b : Int) : Int := a * fxOne / b
def fxOfEx (x : Ex) : Int := x.n * fxOne / x.d

/-- Σ t_k with t_0 = `t` and t_(k+1) = t_k · x / (k + 1): the exponential series. -/
def fxExpGo : Nat → Nat → Int → Int → Int → Int
  | 0, _, _, _, acc => acc
  | f + 1, k, x, t, acc => let t' := fxMul t x / (k + 1 : Nat); fxExpGo f (k + 1) x t' (acc + t')

def fxSquare : Nat → Int → Int
  | 0, a => a
  | n + 1, a => fxSquare n (fxMul a a)

/-- e^x for a non-negative fixed-point x below 256. -/
def fxExpPos (x : Int) : Int := fxSquare 10 (fxExpGo 60 0 (x / 1024) fxOne fxOne)

/-- e^x; zero below -256 and capped at e^256 above. -/
def fxExp (x : Int) : Int :=
  if x < -(256 * fxOne) then 0
  else if x < 0 then fxDiv fxOne (fxExpPos (-x))
  else fxExpPos (min x (256 * fxOne))

/-- Σ y^(2k+1) / (2k+1), alternating when `alt`: artanh or arctan. -/
def fxOddGo (alt : Bool) : Nat → Nat → Int → Int → Int → Int
  | 0, _, _, _, acc => acc
  | f + 1, k, y2, p, acc =>
    let t := p / (2 * k + 1 : Nat)
    fxOddGo alt f (k + 1) y2 (fxMul p y2) (if alt && k % 2 = 1 then acc - t else acc + t)

def fxArtanh (y : Int) : Int := fxOddGo false 150 0 (fxMul y y) y 0
def fxArctan (y : Int) : Int := fxOddGo true 250 0 (fxMul y y) y 0

def fxLn2 : Int := 2 * fxArtanh (fxOne / 3)

/-- π by Machin's formula. -/
def fxPi : Int := 16 * fxArctan (fxOne / 5) - 4 * fxArctan (fxOne / 239)

/-- ln of a positive exact value. -/
def fxLn (x : Ex) : Int :=
  let t := ilog2Q x.n.natAbs x.d
  let m := fxOfEx (x.mul (Ex.pow2 (-t)))
  2 * fxArtanh (fxDiv (m - fxOne) (m + fxOne)) + t * fxLn2

/-- Σ (-1)^k x^(2k+1) / (k! (2k+1)). -/
def fxErfGo : Nat → Nat → Int → Int → Int → Int
  | 0, _, _, _, acc => acc
  | f + 1, k, x2, p, acc =>
    let t := p / (2 * k + 1 : Nat)
    fxErfGo f (k + 1) x2 (fxMul p x2 / (k + 1 : Nat)) (if k % 2 = 1 then acc - t else acc + t)

def fxSqrt (a : Int) : Int := isqrt (a.toNat * 2 ^ fxP)

/-- erf; ±1 beyond 10, where 7 · erfc is below 2^-126 and so inside every bound that rests on it. -/
def fxErf (x : Int) : Int :=
  if 10 * fxOne < x then fxOne
  else if x < -(10 * fxOne) then -fxOne
  else 2 * fxDiv (fxErfGo 600 0 (fxMul x x) x 0) (fxSqrt fxPi)

/-- 1 / (1 + e^-x). -/
def fxSigmoid (x : Int) : Int :=
  if 0 ≤ x then fxDiv fxOne (fxOne + fxExp (-x)) else let e := fxExp x; fxDiv e (fxOne + e)

def fxTanh (x : Int) : Int := 2 * fxSigmoid (2 * x) - fxOne

/-- √(2/π). -/
def fxC : Int := fxSqrt (fxDiv (2 * fxOne) fxPi)

/-- √(2/π) · (v + 0.044715 v³). -/
def fxGeluArg (v : Int) : Int := fxMul fxC (v + fxMul (fxMul v (fxMul v v)) (44715 * fxOne / 1000000))

def fxSinGo : Nat → Nat → Int → Int → Int → Int
  | 0, _, _, _, acc => acc
  | f + 1, k, x2, p, acc =>
    let t := -(fxMul p x2 / ((k + 1) * (k + 2) : Nat))
    fxSinGo f (k + 2) x2 t (acc + t)

def fxSin (x : Int) : Int := fxSinGo 80 1 (fxMul x x) x x
def fxCos (x : Int) : Int := fxSinGo 80 0 (fxMul x x) fxOne fxOne

/-- The functions of the transcendental unit: FUNC codes 0x10-0x17 of Table 4.11, the derivative factors of codes
0x12-0x14 of Table 3.8, RSQRT, RECIP and the sine, cosine and root of R134. -/
inductive TFun where
  | exp | log | tanh | sigmoid | geluTanh | geluErf | silu | erf
  | geluTanhD | geluErfD | siluD | rsqrt | recip | sqrtN | logN | sin2pi | cos2pi
  deriving DecidableEq, Repr

/-- A number for each function, the first argument of `Config.ulpChoice`. -/
def TFun.code : TFun → Nat
  | .exp => 0 | .log => 1 | .tanh => 2 | .sigmoid => 3 | .geluTanh => 4 | .geluErf => 5 | .silu => 6 | .erf => 7
  | .geluTanhD => 8 | .geluErfD => 9 | .siluD => 10 | .rsqrt => 11 | .recip => 12 | .sqrtN => 13 | .logN => 14
  | .sin2pi => 15 | .cos2pi => 16

/-- The error bound in ulp (Table 4.12; 4 ulp inside NORMAL, R134). -/
def TFun.ulps : TFun → Nat
  | .exp => 2 | .log => 2 | .tanh => 3 | .sigmoid => 3 | .erf => 3
  | .geluTanh => 4 | .geluErf => 4 | .silu => 4
  | .geluTanhD => 6 | .geluErfD => 6 | .siluD => 6
  | .rsqrt => 1 | .recip => 1 | .sqrtN => 4 | .logN => 4 | .sin2pi => 4 | .cos2pi => 4

/-- The absolute part of the bound, as a power of two (Table 4.12). -/
def TFun.absBound : TFun → Option Int
  | .geluTanh => some (-126) | .geluErf => some (-126) | .silu => some (-126)
  | .geluTanhD => some (-23) | .geluErfD => some (-23) | .siluD => some (-23)
  | _ => none

/-- The enclosed value at a finite argument. -/
def TFun.exact (f : TFun) (x : Ex) : Ex :=
  let v := fxOfEx x
  let r : Int := match f with
    | .exp => fxExp v
    | .log => fxLn x
    | .logN => fxLn x
    | .tanh => fxTanh v
    | .sigmoid => fxSigmoid v
    | .erf => fxErf v
    | .geluTanh => fxMul (v / 2) (fxOne + fxTanh (fxGeluArg v))
    | .geluErf => fxMul (v / 2) (fxOne + fxErf (fxDiv v (fxSqrt (2 * fxOne))))
    | .silu => fxMul v (fxSigmoid v)
    | .geluTanhD =>
      let t := fxTanh (fxGeluArg v)
      let u' := fxMul fxC (fxOne + fxMul (fxMul v v) (3 * 44715 * fxOne / 1000000))
      (fxOne + t) / 2 + fxMul (fxMul (v / 2) (fxOne - fxMul t t)) u'
    | .geluErfD =>
      (fxOne + fxErf (fxDiv v (fxSqrt (2 * fxOne)))) / 2
        + fxMul v (fxDiv (fxExp (-(fxMul v v) / 2)) (fxSqrt (2 * fxPi)))
    | .siluD => let s := fxSigmoid v; fxMul s (fxOne + fxMul v (fxOne - s))
    | .sin2pi => fxSin (fxMul (2 * fxPi) v)
    | .cos2pi => fxCos (fxMul (2 * fxPi) v)
    | _ => 0
  match f with
  | .recip => Ex.div ⟨1, 1⟩ x
  | .rsqrt =>
    -- 1/√(n/d) = √(d/n), with 2^512 scaling
    ⟨isqrt (x.d * 2 ^ 1024 / x.n.natAbs), 2 ^ 512⟩
  | .sqrtN => ⟨isqrt (x.n.natAbs * 2 ^ 1024 / x.d), 2 ^ 512⟩
  | _ => ⟨r, 2 ^ fxP⟩

/-- Code of the greatest finite FP32 value at or below a non-negative value. -/
def codeBelow (a : Ex) : Nat :=
  if a.n ≤ 0 then 0
  else
    let q : Int := max (ilog2Q a.n.natAbs a.d - 23) (-149)
    min 0x7F7FFFFF ((q + 149).toNat * 2 ^ 23 + ((a.div (Ex.pow2 q)).floor).toNat)

/-- Code of the least finite FP32 value at or above a non-negative value. -/
def codeAbove (a : Ex) : Nat :=
  let c := codeBelow a
  if (dec32 c).toEx.lt a then min 0x7F7FFFFF (c + 1) else c

/-- Place of the first FP32 value at or above `a` in the order of all of them: +0 has place 0 and -0 has place -1. -/
def placeAbove (a : Ex) : Int := if a.n ≤ 0 then -((codeBelow a.neg : Nat) : Int) - 1 else (codeAbove a : Nat)

/-- Place of the last FP32 value at or below `a`. -/
def placeBelow (a : Ex) : Int := if a.n < 0 then -((codeAbove a.neg : Nat) : Int) - 1 else (codeBelow a : Nat)

/-- The FP32 value at a place. -/
def atPlace (k : Int) : FV := if 0 ≤ k then dec32 k.toNat else dec32 (2 ^ 31 + (-k - 1).toNat)

/-- The result within the bound: one of the FP32 values that differ from `a` by at most the bound, the one that `choice` names (R120;
log 11). -/
def pickWithin (ulps : Nat) (absB : Option Int) (choice : Nat) (a : Ex) : FV :=
  let q : Int := if a.n = 0 then -149 else max (ilog2Q a.n.natAbs a.d - 23) (-149)
  let t0 : Ex := Ex.mul ⟨(ulps : Int), 1⟩ (Ex.pow2 q)
  let tol := match absB with
    | none => t0
    | some b => if t0.lt (Ex.pow2 b) then Ex.pow2 b else t0
  let lo := placeAbove (a.sub tol)
  let hi := placeBelow (a.add tol)
  atPlace (lo + ((choice % ((hi - lo).toNat + 1) : Nat) : Int))

/-- A number for the bits of an FP32 input, the second argument of `Config.ulpChoice`: sign and magnitude. -/
def exKey (s : Bool) (x : Ex) : Nat := (if s then 1 else 0) + 2 * (x.n.natAbs * 2 ^ 200 / x.d)

/-- A result the manual does not state: a free FP32 value that depends on the function and the input bits (log 11). -/
def transcFree (f : TFun) (key : Nat) : FV :=
  let c := Config.ulpChoice f.code key % 2 ^ 32
  let x := bitsN c 23 8
  let k := bitsN c 0 23
  if x = 255 then (if k = 0 then .inf (bitN c 31) else .nan)
  else if x = 0 then .fin (bitN c 31) k (-149)
  else .fin (bitN c 31) (2 ^ 23 + k) ((x : Int) - 150)

/-- The transcendental unit: special values of Table 4.12, and the bounded result otherwise. -/
def transc (f : TFun) (x : FV) : FV :=
  match x with
  | .nan => .nan
  | .inf s =>
    match f with
    | .exp => if s then FV.zero else .inf false
    | .log => if s then .nan else .inf false
    | .logN => if s then .nan else .inf false
    | .tanh => .fin s 1 0
    | .erf => .fin s 1 0
    | .sigmoid => if s then FV.zero else FV.one
    | .geluTanh => if s then FV.negZero else .inf false
    | .geluErf => if s then FV.negZero else .inf false
    | .silu => if s then FV.negZero else .inf false
    | .geluTanhD => if s then FV.zero else FV.one
    | .geluErfD => if s then FV.zero else FV.one
    | .siluD => if s then FV.zero else FV.one
    | .rsqrt => if s then .nan else FV.zero
    | .recip => .fin s 0 0
    | .sqrtN => if s then .nan else .inf false
    | .sin2pi => .nan
    | .cos2pi => .nan
  | .fin s m e =>
    let ex := (FV.fin s m e).toEx
    let go : FV := pickWithin f.ulps f.absBound (Config.ulpChoice f.code (exKey s ex)) (f.exact ex)
    match f with
    | .exp =>
      if m = 0 then FV.one
      else if (Ex.pow2 128).le (TFun.exp.exact ex) then .inf false
      else go
    | .log => if m = 0 then .inf true else if s then .nan else if ex.eq ⟨1, 1⟩ then transcFree f (exKey s ex) else go
    | .logN => if m = 0 then .inf true else if s then .nan else go
    | .rsqrt => if m = 0 then .inf s else if s then .nan else go
    | .recip =>
      if m = 0 then .inf s
      else if (Ex.pow2 128).le ((TFun.recip.exact ex).abs) then transcFree f (exKey s ex) else go
    | .sqrtN => if m = 0 then .fin s 0 0 else if s then .nan else go
    | .tanh => if m = 0 then transcFree f (exKey s ex) else go
    | .erf => if m = 0 then transcFree f (exKey s ex) else go
    | .geluTanh => if m = 0 then transcFree f (exKey s ex) else go
    | .geluErf => if m = 0 then transcFree f (exKey s ex) else go
    | .silu => if m = 0 then transcFree f (exKey s ex) else go
    | _ => go

end Sys2Proof.Machine
end

