-- ==== Sys2Proof/Machine/Vector.lean ====
section
/-! DEFINITION. Operations of the vector unit: ELTWISE, REDUCE, CONVERT, STATS and RNG_FILL (spec/04 R118-R124, R131, R134). -/

namespace Sys2Proof.Machine

/-- Descriptor of a slot among an operation's descriptors. -/
def dsc (ds : List (Nat × Desc)) (i : Nat) : Option Desc := (ds.find? (fun p => p.1 = i)).map (·.2)

/-- A descriptor that the form requires; the form's checks make it present. -/
def dscD (ds : List (Nat × Desc)) (i : Nat) : Desc := (dsc ds i).getD ⟨0, 0, 1, false, 0, [], []⟩

/-- Formats an output conversion writes outside CONVERT (Table 2.1). -/
def outFmtOk (f : Nat) : Bool := f ≤ 8 || f = fINT8 || f = fMASK1

/-- An operation that has done its work and waits for completion. -/
def Op.ready (o : Op) (res : OpRes) : Op := { o with stage := OpStage.finishing, res := res }

/-- Start of an operation that computes its whole result at its start (log 9): coarse scales are checked (R44), then `pre`, inputs are
read, streams advance (R53), and a poisoned input cuts the result (R114, R320). `f` computes the result from the view and
descriptors. -/
def startPre (pre : View → Nat) (scaled : List Desc) (reads : List (Nat × Nat)) (streams : List (Nat × Nat))
    (f : View → List (Nat × Desc) → OpRes) (s : State) (sl : Nat) (o : Op) : State × Op × Nat :=
  let (vs, ds) := opView s sl o
  let v : View := ⟨vs, sl⟩
  if badScale v scaled then (s, o, stBadScale)
  else if pre v ≠ 0 then (s, o, pre v)
  else
    let res := f v ds
    let s := advance (touchReads s sl o.ctx reads) sl streams
    let (s, res) := withPoison s sl reads res
    (s, { o.ready res with hbm := o.hbm + hbmLen reads }, 0)

/-- `startPre` with nothing more to check. -/
def startWith (scaled : List Desc) (reads : List (Nat × Nat)) (streams : List (Nat × Nat))
    (f : View → List (Nat × Desc) → OpRes) (s : State) (sl : Nat) (o : Op) : State × Op × Nat :=
  startPre (fun _ => 0) scaled reads streams f s sl o

/-- Reads of a list of tensors, ports apart. -/
def readsOf (ds : List Desc) : List (Nat × Nat) := (ds.filter (fun d => !d.port)).flatMap Desc.readRuns

/-- Element of an input broadcast to a position of the output (R118). -/
def View.bcast (v : View) (d : Desc) (c : Ex) (i0 : Nat) (cs : List Nat) : FV :=
  v.elem32 d c (if d.n 0 = 1 then 0 else i0)
    ((cs.zip (d.size.drop 1)).map (fun p => if p.2 = 1 then 0 else p.1))

def bcastOk (d o : Desc) : Bool := (upto 5).all (fun i => d.n i = o.n i || d.n i = 1)

/-! ## ELTWISE (R118-R122) -/

def elFunc (t : Nat) : Nat := tF t 16 0 8
def elAlpha (t : Nat) : Nat := tF t 24 0 32
def elBeta (t : Nat) : Nat := tF t 24 32 32
def elDrop (t : Nat) : Nat := tF t 16 16 4
def elMask (t : Nat) : Bool := tB t 16 8

/-- Inputs that a FUNC reads, as DESC slots; none for a code outside Table 4.11. -/
def elInputs (f : Nat) : Option (List Nat) :=
  if f = 0 then some [0]
  else if f ≤ 6 then some [0, 1]
  else if f = 7 || f = 0x22 then some [0, 1, 2]
  else if f = 8 || f = 0x20 || f = 0x21 then some [0, 1]
  else if f = 9 || (0xA ≤ f && f ≤ 0xE) || (0x10 ≤ f && f ≤ 0x17) || f = 0x23 then some [0]
  else if 0x41 ≤ f && f ≤ 0x46 then some [0, 1]
  else none

def isDrop (t : Nat) : Bool := elFunc t = 0x23

/-- ALPHA × 65,536 rounded to the nearest integer, ties to even, held to 0-65,536 (R122, R134). -/
def dropT (code : Nat) : Nat :=
  match dec32 code with
  | .fin s m e =>
    if s then 0
    else
      let n := m * pow2N e * 65536
      let d := pow2D e
      min 65536 (roundUnits .rne 0 (n / d) (n % d) d)
  | _ => 0

/-- ALPHA in (0, 1] (R122). -/
def alphaOk (code : Nat) : Bool :=
  match dec32 code with
  | .fin s m e => !s && m ≠ 0 && m * pow2N e ≤ pow2D e
  | _ => false

def formEltwise (t : Nat) : Form :=
  let ins := (elInputs (elFunc t)).getD []
  let outs := [3] ++ (if isDrop t && elMask t then [4] else [])
  { mask := bm 16 0 8 + bm 16 8 1 + bm 16 16 4 + bm 24 0 64
    slots := ins ++ outs
    need := ins ++ outs
    rnd := true
    streams := if isDrop t then [elDrop t] else []
    events := []
    ports := portTable t
    mx := false
    gate := true
    st := firstSt [
      chk (elInputs (elFunc t)).isSome stBadField,
      chk (!isDrop t || alphaOk (elAlpha t)) stBadField,
      chk (!(isDrop t && tRnd t = 2 && tStream t = elDrop t)) stBadField] }

def elIns (o : Op) : List Desc := o.descs.filterMap (fun p => if p.1 ≤ 2 then some p.2 else none)
def elOuts (o : Op) : List Desc := o.descs.filterMap (fun p => if 3 ≤ p.1 then some p.2 else none)

def useEltwise (_ : State) (_ _ t : Nat) (o : Op) : Use :=
  let out := dscD o.descs 3
  let st := firstSt [
    chk ((elIns o).all (fun d => bcastOk d out)) stBadField,
    chk (!isDrop t || !elMask t || (dscD o.descs 4).size = out.size) stBadField,
    chk (outFmtOk out.fmt) stFormatIllegal,
    chk (!(elFunc t = 0x41) || (dscD o.descs 1).fmt = fMASK1) stFormatIllegal,
    chk (!isDrop t || !elMask t || (dscD o.descs 4).fmt = fMASK1) stFormatIllegal]
  if st ≠ 0 then Use.bad st else Use.tensorsWith sameTensor (elIns o) (elOuts o)

/-- A value with the unit that produces its NaN. -/
def vu (u : Nat) (v : FV) : VU := (v, u)

/-- Derivative factor and product of codes 0x42-0x46, as drain codes 0x12-0x16 (R89): gradient v and kept value x. -/
def derivFactor (f : Nat) (x : FV) : FV :=
  match f with
  | 0x42 => transc .geluTanhD x
  | 0x43 => transc .geluErfD x
  | 0x44 => transc .siluD x
  | 0x45 => mul32 x (sub32 FV.one x)
  | _ => fma32 x.neg x FV.one

/-- Result of FUNC on x, y, z (Table 4.11), DROPOUT apart, with the unit of a NaN result (R61; log 23). -/
def elOp (f : Nat) (alpha beta x y z : FV) : VU :=
  match f with
  | 0x00 => vu 2 x
  | 0x01 => vu 3 (add32 x y)
  | 0x02 => vu 3 (sub32 x y)
  | 0x03 => vu 3 (mul32 x y)
  | 0x04 => vu 4 (div32 x y)
  | 0x05 => vu 3 (x.max y)
  | 0x06 => vu 3 (x.min y)
  | 0x07 => vu 3 (fma32 x y z)
  | 0x08 => vu 3 (fma32 alpha x (mul32 beta y))
  | 0x09 => vu 3 (fma32 alpha x beta)
  | 0x0A => vu 3 x.abs
  | 0x0B => vu 3 x.neg
  | 0x0C => vu 4 (sqrt32 x)
  | 0x0D => vu 4 (transc .rsqrt x)
  | 0x0E => vu 4 (transc .recip x)
  | 0x10 => vu 4 (transc .exp x)
  | 0x11 => vu 4 (transc .log x)
  | 0x12 => vu 4 (transc .tanh x)
  | 0x13 => vu 4 (transc .sigmoid x)
  | 0x14 => vu 4 (transc .geluTanh x)
  | 0x15 => vu 4 (transc .geluErf x)
  | 0x16 => vu 4 (transc .silu x)
  | 0x17 => vu 4 (transc .erf x)
  | 0x20 => vu 3 (if y.lt x then FV.one else FV.zero)
  | 0x21 => vu 3 (if x.eqv y then FV.one else FV.zero)
  | 0x22 => vu 2 (if z.isZero then y else x)
  | 0x41 => vu 2 (if y.isZero then FV.zero else x)
  | _ =>
    let k := derivFactor f y
    vu (if f ≤ 0x44 && k.isNan then 4 else 3) (mul32 x k)

/-- The write units of ELTWISE. -/
def eltwiseUnits (v : View) (ds : List (Nat × Desc)) (t : Nat) (cx : ConvCtx) (dkey dctr : Nat) : List WUnit :=
  let out := dscD ds 3
  let f := elFunc t
  let inp (i : Nat) : Option (Desc × Ex) := (dsc ds i).map (fun d => (d, v.coarse d))
  let x := inp 0
  let y := inp 1
  let z := inp 2
  let get (d : Option (Desc × Ex)) (i : Nat) (cs : List Nat) : FV :=
    match d with | some (d, c) => v.bcast d c i cs | none => FV.zero
  let al := dec32 (elAlpha t)
  let be := dec32 (elBeta t)
  let c := v.coarse out
  let thr := dropT (elAlpha t)
  let keep (i : Nat) (cs : List Nat) : Bool := rand16 dkey dctr (regionIndex out.fmt out.size i cs) < thr
  out.runs.flatMap (fun cs =>
    let vals := (upto (out.n 0)).map (fun i =>
      if f = 0x23 then (if keep i cs then vu 3 (mul32 (get x i cs) be) else vu 3 FV.zero)
      else elOp f al be (get x i cs) (get y i cs) (get z i cs))
    let us := convRun out cx c cs vals
    if f = 0x23 && elMask t then
      let m := dscD ds 4
      let ms := convRun m { cx with mode := .rne } Ex.zero cs
        ((upto (out.n 0)).map (fun i => vu 3 (if keep i cs then FV.one else FV.zero)))
      (us.zip ms).map (fun p => p.1.join { p.2 with cnt := Counters.zeros })
    else us)

def startEltwise (s : State) (sl : Nat) (o : Op) : State × Op × Nat :=
  let t := o.tod
  let out := dscD o.descs 3
  let n := regionCount out.fmt out.size
  startWith (elIns o ++ [out]) (readsOf (elIns o) ++ out.coarseRun)
    (rndAdvance o n ++ (if isDrop t then [(elDrop t, cdiv n 8)] else []))
    (fun v ds => { OpRes.ofStatus 0 with
      units := eltwiseUnits v ds t (o.conv s sl) (s.rd (rRngKey sl (elDrop t))).toNat (streamCtr s sl (elDrop t)) }) s sl o

def famEltwise : Family := ⟨formEltwise, useEltwise, startEltwise⟩

/-- ELTWISE: its TOD issues, and starts when nothing holds it back. -/
def execEltwise (sl q : Nat) (s : State) : Res := done s (runTod s sl q (isOpc 0x08) famEltwise)

/-! ## REDUCE (R123) -/

def rdDim (t : Nat) : Nat := tF t 16 0 3
def rdOp (t : Nat) : Nat := tF t 16 3 3
def rdIdx (t : Nat) : Bool := tB t 16 6 && (rdOp t = 1 || rdOp t = 2)

def formReduce (t : Nat) : Form :=
  let sl := [0, 1] ++ (if rdIdx t then [2] else [])
  { mask := bm 16 0 7, slots := sl, need := sl, rnd := true, streams := [], events := [], ports := portTable t
    mx := false, gate := true
    st := firstSt [chk (rdDim t ≤ 4) stBadField, chk (rdOp t ≤ 4) stBadField] }

def rdOuts (o : Op) : List Desc := o.descs.filterMap (fun p => if 1 ≤ p.1 then some p.2 else none)

def useReduce (_ : State) (_ _ t : Nat) (o : Op) : Use :=
  let x := dscD o.descs 0
  let out := dscD o.descs 1
  let st := firstSt [
    chk (out.size = setNth x.size (rdDim t) 1) stBadField,
    chk (!rdIdx t || (dscD o.descs 2).size = out.size) stBadField,
    chk (outFmtOk out.fmt) stFormatIllegal,
    chk (!rdIdx t || (dscD o.descs 2).fmt = fINT32) stFormatIllegal]
  if st ≠ 0 then Use.bad st else Use.tensors [x] (rdOuts o)

/-- The reduction of a list of values by OP in the order of R123, and the winner's index. -/
def reduceVals (op : Nat) (xs : List FV) : FV × Nat :=
  match op with
  | 0 => (laneSum xs, 0)
  | 1 => match winner true (xs.zipIdx.map (fun p => (p.2, p.1))) with | some (i, v) => (v, i) | none => (FV.zero, 0)
  | 2 => match winner false (xs.zipIdx.map (fun p => (p.2, p.1))) with | some (i, v) => (v, i) | none => (FV.zero, 0)
  | 3 => (div32 (laneSum xs) (.fin false xs.length 0), 0)
  | _ => (laneSum (xs.map (fun x => mul32 x x)), 0)

/-- Bytes of an INT32 row, as one write. -/
def int32Run (d : Desc) (cs : List Nat) (i0 : Nat) (vals : List Int) : Nat × List Byte :=
  (d.runAddr cs + 4 * i0, vals.flatMap (fun i => leBytes 4 (ofSigned 32 i)))

def reduceUnits (v : View) (ds : List (Nat × Desc)) (t : Nat) (cx : ConvCtx) : List WUnit :=
  let x := dscD ds 0
  let out := dscD ds 1
  let cX := v.coarse x
  let c := v.coarse out
  let dim := rdDim t
  out.runs.flatMap (fun cs =>
    let rs := (upto (out.n 0)).map (fun i =>
      reduceVals (rdOp t) ((upto (x.n dim)).map (fun l =>
        if dim = 0 then v.elem32 x cX l cs else v.elem32 x cX i (setNth cs (dim - 1) l))))
    let us := convRun out cx c cs (rs.map (fun r => vu 3 r.1))
    if rdIdx t then
      us.zipIdx.map (fun p =>
        let part := (rs.drop (512 * p.2)).take 512
        { p.1 with writes := p.1.writes ++ [int32Run (dscD ds 2) cs (512 * p.2) (part.map (fun r => (r.2 : Int)))] })
    else us)

def startReduce (s : State) (sl : Nat) (o : Op) : State × Op × Nat :=
  let x := dscD o.descs 0
  let out := dscD o.descs 1
  startWith [x, out] (readsOf [x] ++ out.coarseRun) (rndAdvance o (regionCount out.fmt out.size))
    (fun v ds => { OpRes.ofStatus 0 with units := reduceUnits v ds o.tod (o.conv s sl) }) s sl o

def famReduce : Family := ⟨formReduce, useReduce, startReduce⟩

/-- REDUCE. -/
def execReduce (sl q : Nat) (s : State) : Res := done s (runTod s sl q (isOpc 0x09) famReduce)

/-! ## CONVERT and STATS (R131, R91, R92) -/

def formConvert (t : Nat) : Form :=
  { mask := 0, slots := [0, 1], need := [0, 1], rnd := true, streams := [], events := [], ports := portTable t
    mx := true, gate := true, st := 0 }

def useConvert (_ : State) (_ _ _ : Nat) (o : Op) : Use :=
  let x := dscD o.descs 0
  let out := dscD o.descs 1
  let st := firstSt [
    chk (x.size = out.size) stBadField,
    chk (outFmtOk out.fmt || isMX out.fmt) stFormatIllegal]
  if st ≠ 0 then Use.bad st else Use.tensorsWith sameTensor [x] [out]

def convertUnits (v : View) (ds : List (Nat × Desc)) (cx : ConvCtx) : List WUnit :=
  let x := dscD ds 0
  let out := dscD ds 1
  let cX := v.coarse x
  convTensor out cx (v.coarse out) (fun cs => (upto (out.n 0)).map (fun i => vu 2 (v.elem32 x cX i cs)))

def startConvert (s : State) (sl : Nat) (o : Op) : State × Op × Nat :=
  let x := dscD o.descs 0
  let out := dscD o.descs 1
  startWith [x, out] (readsOf [x] ++ out.coarseRun) (rndAdvance o (regionCount out.fmt out.size))
    (fun v ds => { OpRes.ofStatus 0 with units := convertUnits v ds (o.conv s sl) }) s sl o

def famConvert : Family := ⟨formConvert, useConvert, startConvert⟩

/-- CONVERT. -/
def execConvert (sl q : Nat) (s : State) : Res := done s (runTod s sl q (isOpc 0x20) famConvert)

/-- Bin of a value in a statistics record (Table 3.9). -/
def statsBin (v : FV) : Nat :=
  match v with
  | .nan => 63
  | .inf _ => 63
  | .fin _ m e =>
    if m = 0 then 0
    else
      let l := ilog2Q (m * pow2N e) (pow2D e)
      (min (max (l + 49) 1) 62).toNat

/-- The statistics record of a list of values (R91). -/
def statsRecord (vs : List FV) : List Byte :=
  let am := vs.foldl (fun a v => a.max v.abs) FV.zero
  let bins := vs.map statsBin
  leBytes 4 (enc32 am) ++ leBytes 4 0 ++ leBytes 8 vs.length
    ++ (upto 64).flatMap (fun b => leBytes 4 (min 0xFFFFFFFF (bins.filter (fun x => x = b)).length))

def stAddr (t : Nat) : Nat := tF t 48 0 48

/-- R91: STATS_ADDR is a 64-byte-aligned device address in HBM. -/
def statsAddrOk (a : Nat) : Bool := a % 64 = 0 && a < hbmTop

def formStats (t : Nat) : Form :=
  { mask := bm 16 7 1 + bm 48 0 48, slots := [0], need := [0], rnd := false, streams := [], events := [], ports := portTable t
    mx := false, gate := true, st := chk (statsAddrOk (stAddr t)) stMisaligned }

/-- The access to the statistics record (R92). -/
def Use.withStats (u : Use) (acc : Bool) (a : Nat) : Use :=
  let u := { u with outs := u.outs ++ [(a, a + 272)], clash := u.clash || overlapAny u.ins [(a, a + 272)] }
  if acc then { u with atoms := u.atoms ++ [(a, 272)] } else { u with writes := u.writes ++ [(a, 272)] }

def useStats (_ : State) (_ _ t : Nat) (o : Op) : Use :=
  (Use.tensors [dscD o.descs 0] []).withStats (tB t 16 7) (stAddr t)

def startStats (s : State) (sl : Nat) (o : Op) : State × Op × Nat :=
  let x := dscD o.descs 0
  startWith [x] (readsOf [x]) []
    (fun v ds =>
      let d := dscD ds 0
      { OpRes.ofStatus 0 with stats := some (stAddr o.tod, tB o.tod 16 7, statsRecord (d.runs.flatMap (fun cs => v.run32 d cs))) }) s sl o

def famStats : Family := ⟨formStats, useStats, startStats⟩

/-- STATS. -/
def execStats (sl q : Nat) (s : State) : Res := done s (runTod s sl q (isOpc 0x21) famStats)

/-! ## RNG_FILL (R134) -/

def rfDist (t : Nat) : Nat := tF t 16 0 2
def rfStream (t : Nat) : Nat := tF t 16 4 4

def formRngFill (t : Nat) : Form :=
  { mask := bm 16 0 2 + bm 16 4 4 + bm 24 0 64, slots := [0], need := [0], rnd := true, streams := [rfStream t], events := []
    ports := [], mx := false, gate := true
    st := firstSt [
      chk (rfDist t ≤ 2) stBadField,
      chk (!(rfDist t = 2 && ((dec32 (elAlpha t)).isNan || (dec32 (elAlpha t)).isInf))) stBadField,
      chk (!(tRnd t = 2 && tStream t = rfStream t)) stBadField] }

def useRngFill (_ : State) (_ _ _ : Nat) (o : Op) : Use :=
  let out := dscD o.descs 0
  let st := chk (outFmtOk out.fmt) stFormatIllegal
  if st ≠ 0 then Use.bad st else Use.tensors [] [out]

/-- u of R134: (⌊w / 2⁸⌋ + 0.5) · 2⁻²⁴. -/
def uniform (w : Nat) : FV := .fin false (2 * (w / 256) + 1) (-25)

/-- z_(i mod 4) of R134. -/
def normalAt (key c i : Nat) : FV :=
  let b := philox key ((c + i / 4) % 2 ^ 128)
  let k := i % 4 / 2
  let u1 := uniform (nth 0 b (2 * k))
  let u2 := uniform (nth 0 b (2 * k + 1))
  let rho := transc .sqrtN (mul32 (.fin true 2 0) (transc .logN u1))
  mul32 rho (transc (if i % 2 = 0 then .cos2pi else .sin2pi) u2)

/-- Element `i` of RNG_FILL. -/
def rngVal (dist : Nat) (al be : FV) (thr key c i : Nat) : FV :=
  if dist = 0 then fma32 be (uniform (rand32 key c i)) al
  else if dist = 1 then fma32 be (normalAt key c i) al
  else if rand16 key c i < thr then FV.one else FV.zero

def rngUnits (v : View) (ds : List (Nat × Desc)) (t : Nat) (cx : ConvCtx) (key c : Nat) : List WUnit :=
  let out := dscD ds 0
  let al := dec32 (elAlpha t)
  let be := dec32 (elBeta t)
  convTensor out cx (v.coarse out) (fun cs => (upto (out.n 0)).map (fun i =>
    vu 3 (rngVal (rfDist t) al be (dropT (elAlpha t)) key c (regionIndex out.fmt out.size i cs))))

def startRngFill (s : State) (sl : Nat) (o : Op) : State × Op × Nat :=
  let t := o.tod
  let out := dscD o.descs 0
  let n := regionCount out.fmt out.size
  startWith [out] out.coarseRun (rndAdvance o n ++ [(rfStream t, cdiv n (if rfDist t = 2 then 8 else 4))])
    (fun v ds => { OpRes.ofStatus 0 with
      units := rngUnits v ds t (o.conv s sl) (s.rd (rRngKey sl (rfStream t))).toNat (streamCtr s sl (rfStream t)) }) s sl o

def famRngFill : Family := ⟨formRngFill, useRngFill, startRngFill⟩

/-- RNG_FILL. -/
def execRngFill (sl q : Nat) (s : State) : Res := done s (runTod s sl q (isOpc 0x31) famRngFill)

end Sys2Proof.Machine
end

