-- ==== Sys2Proof/Machine/Matrix.lean ====
section
/-! DEFINITION. The matrix engine, accumulator memory and the drain pipeline (spec/03 R65-R95; spec/05 R144-R146; spec/16 R404). -/

namespace Sys2Proof.Machine

/-! ## Body fields (Table 4.4) -/

def mMode (t : Nat) : Nat := tF t 16 0 2
def mAccum (t : Nat) : Bool := tB t 16 2
def mDrain (t : Nat) : Bool := tB t 16 3
def mClear (t : Nat) : Bool := tB t 16 4
def mOutEn (t : Nat) : Bool := tB t 16 5
def mStats (t : Nat) : Bool := tB t 16 6
def mStatsAcc (t : Nat) : Bool := tB t 16 7
def mClip (t : Nat) : Bool := tB t 16 8
def mBase (t : Nat) : Nat := tF t 16 16 7
def mM (t : Nat) : Nat := tF t 16 24 10
def mN (t : Nat) : Nat := tF t 16 34 10
def mK (t : Nat) : Nat := tF t 24 0 31
def mScale (t : Nat) : Nat := tF t 24 32 32
def mBias (t : Nat) : Nat := tF t 32 0 2
def mAct (t : Nat) : Nat := tF t 32 2 5
def mElt (t : Nat) : Nat := tF t 32 7 2
def mPred (t : Nat) : Nat := tF t 32 9 4
def mMm (t : Nat) : Nat := tF t 32 13 2
def mIdxBase (t : Nat) : Nat := tF t 32 32 32
def mLo (t : Nat) : FV := dec32 (tF t 40 0 32)
def mHi (t : Nat) : FV := dec32 (tF t 40 32 32)
def mVal (t : Nat) : Nat := tF t 56 0 48
def mIdx (t : Nat) : Nat := tF t 64 0 48

/-- Whether an operation drains its tiles: a DRAIN, or a matrix operation with DRAIN_AFTER. -/
def drains (t : Nat) : Bool := tOpcode t = 4 || mDrain t

def AccMode.ofCode : Nat → AccMode
  | 0 => .acc32 | 1 => .acc16 | 2 => .wide | _ => .int32

/-- Slots of a tile (Table 3.3). -/
def AccMode.slots : AccMode → Nat
  | .acc16 => 1 | .acc32 => 2 | .int32 => 2 | .wide => 16

/-- FORMAT of Table 2.8 for an accumulator element. -/
def AccMode.fmt : AccMode → Nat
  | .acc32 => 0x00 | .acc16 => 0x01 | .wide => 0x0F | .int32 => 0x0D

def tileRows (t : Nat) : Nat := cdiv (mM t) 128
def tileCols (t : Nat) : Nat := cdiv (mN t) 128
def tileCount (t : Nat) : Nat := tileRows t * tileCols t

/-- Base slot of tile `k` in write order (R66). -/
def tileSlot (t : Nat) (m : AccMode) (k : Nat) : Nat := mBase t + k * m.slots

/-! ## Legal combinations (Table 3.2) -/

/-- K per cycle in sixteenths of an operand format in a mode; 0 where the format has no row. -/
def kPer (m : AccMode) (f : Nat) : Nat :=
  match m with
  | .acc32 => if f = 3 || f = 4 || (5 ≤ f && f ≤ 7) then 16 else if f = 8 then 32 else if f = 1 || f = 2 then 8 else if f = 0 then 1 else 0
  | .acc16 => if f = 3 || f = 4 || f = 1 then 32 else 0
  | .wide => if f = 3 || f = 4 || (5 ≤ f && f ≤ 8) || f = 12 then 8 else 0
  | .int32 => if f = 12 then 16 else 0

/-- R67: both formats in rows of the mode; FP32 only with FP32, INT8 only with INT8. -/
def pairOk (m : AccMode) (a b : Nat) : Bool :=
  kPer m a ≠ 0 && kPer m b ≠ 0 && ((a = 0) = (b = 0)) && ((a = 12) = (b = 12))

/-- Cycles of one tile of the engine: ⌈K/16⌉ × 16 / k (R69). -/
def tileCycles (k : Nat) (mode : AccMode) (fa fb : Nat) : Nat := cdiv (cdiv k 16 * 16 * 16) (max 1 (min (kPer mode fa) (kPer mode fb)))

/-- Cycles of one full tile of the drain (R94). -/
def drainCycles (act : Nat) : Nat := if (2 ≤ act && act ≤ 7) || (0x12 ≤ act && act ≤ 0x16) then 256 else 128

/-! ## Exact products and group sums (R70, R72, R78) -/

/-- Exact product of two element values; special values as R78 states. -/
def prodFV (a b : FV) : FV :=
  match a, b with
  | .nan, _ => .nan
  | _, .nan => .nan
  | .inf s, .inf t => .inf (s != t)
  | .inf s, .fin t n _ => if n = 0 then .nan else .inf (s != t)
  | .fin s m _, .inf t => if m = 0 then .nan else .inf (s != t)
  | .fin s m e, .fin t n f => .fin (s != t) (m * n) (e + f)

/-- Exact sum of finite values in units of the smallest exponent; specials by R78. -/
def sumFV (xs : List FV) : Ex × FV :=
  let nan := xs.any (fun x => x.isNan)
  let pinf := xs.any (fun x => x.isInf && !x.sign)
  let ninf := xs.any (fun x => x.isInf && x.sign)
  if nan || (pinf && ninf) then (Ex.zero, .nan)
  else if pinf then (Ex.zero, .inf false)
  else if ninf then (Ex.zero, .inf true)
  else
    let emin := xs.foldl (fun (a : Int) x => match x with | .fin _ m e => if m = 0 then a else min a e | _ => a) 0
    let n := xs.foldl (fun (a : Int) x => match x with
      | .fin s m e => if m = 0 then a else (let k : Nat := m * 2 ^ (e - emin).toNat; if s then a - k else a + k)
      | _ => a) 0
    (⟨n * pow2N emin, pow2D emin⟩, FV.zero)

/-- The three BF16 parts of a finite FP32 value (R70). -/
def split3 (v : FV) : List FV :=
  match v with
  | .fin s m e =>
    let cut (m : Nat) (e : Int) : Nat × Int := roundMag 8 (-133) .rtz 0 (m * pow2N e) (pow2D e)
    let hi := cut m e
    let r1 := (FV.fin false m e).toEx.sub (FV.fin false hi.1 hi.2).toEx
    let mid := roundMag 8 (-133) .rtz 0 r1.n.natAbs r1.d
    let r2 := r1.sub (FV.fin false mid.1 mid.2).toEx
    -- the rest in units of 2^-149
    let lo := (r2.n.natAbs * 2 ^ 149) / r2.d
    [.fin s hi.1 hi.2, .fin s mid.1 mid.2, .fin s lo (-149)]
  | _ => [v]

/-- The products a pair of operands brings to its group: one, or eight of the nine part products for finite FP32 (R70). -/
def products (fp32 : Bool) (a b : FV) : List FV :=
  match fp32, a, b with
  | true, .fin _ _ _, .fin _ _ _ =>
    let pa := (split3 a).zipIdx
    let pb := (split3 b).zipIdx
    pa.flatMap (fun x => pb.filterMap (fun y => if x.2 = 2 && y.2 = 2 then none else some (prodFV x.1 y.1)))
  | _, _, _ => [prodFV a b]

/-- Round an exact sum by a format's rounding; specials pass (R73, R78). -/
def roundSum (rnd : Ex → FV) (r : Ex × FV) : FV := match r.2 with | .fin _ _ _ => rnd r.1 | x => x

/-- Addition of R73: the exact sum rounded once, an exact zero giving +0. -/
def accAdd (rnd : Ex → FV) (a b : FV) : FV :=
  match a, b with
  | .fin _ _ _, .fin _ _ _ => rnd (a.toEx.add b.toEx)
  | .nan, _ => .nan
  | _, .nan => .nan
  | .inf s, .inf t => if s = t then .inf s else .nan
  | .inf s, _ => .inf s
  | _, .inf t => .inf t

/-- One level of the pairwise tree. -/
def treeLevel (rnd : Ex → FV) : List FV → List FV
  | a :: b :: t => accAdd rnd a b :: treeLevel rnd t
  | l => l

/-- Value of one chunk of 256 terms: groups of 16, then the tree (R73). -/
def chunkVal (rnd : Ex → FV) (fp32 : Bool) (ab : List (FV × FV)) : FV :=
  let groups := pieces 16 ab
  let xs := groups.map (fun g => roundSum rnd (sumFV (g.flatMap (fun p => products fp32 p.1 p.2))))
  let xs := xs ++ (upto (16 - xs.length)).map (fun _ => FV.zero)
  (treeLevel rnd (treeLevel rnd (treeLevel rnd (treeLevel rnd xs)))).headD FV.zero

/-- Chunks of one segment added to a running value in increasing k. -/
def segVal (rnd : Ex → FV) (fp32 : Bool) (t0 : FV) (ab : List (FV × FV)) : FV :=
  (pieces 256 ab).foldl (fun t c => accAdd rnd t (chunkVal rnd fp32 c)) t0

/-- acc32_element of R73 with the rounding of the mode (R74): the value and LONGSUM. -/
def accElement (rnd : Ex → FV) (fp32 : Bool) (s0 : FV) (ab : List (FV × FV)) : FV × Bool :=
  match pieces (2 ^ 20) ab with
  | [] => (s0, false)
  | g :: gs => (gs.foldl (fun s c => accAdd rnd s (segVal rnd fp32 FV.zero c)) (segVal rnd fp32 s0 g), !gs.isEmpty)

/-- Units of 2^-56 of a finite product (R75). -/
def wideUnits (p : FV) : Int :=
  match p with
  | .fin s m e => let k : Nat := m * pow2N (e + 56) / pow2D (e + 56); if s then -(k : Int) else k
  | _ => 0

/-- Special state after a product (R78): 0 none, 1 NaN, 2 +Inf, 3 -Inf. -/
def wideState (st : Nat) (p : FV) : Nat :=
  let n := match p with | .nan => 1 | .inf s => (if s then 3 else 2) | _ => 0
  if st = 0 then n
  else if st = 1 then 1
  else if n = 0 || n = st then st else 1

/-- Exact value of W. -/
def wideEx (w : Int) : Ex := ⟨w, 2 ^ 56⟩

/-- One term in WIDE mode (R75): the element, and LONGSUM when a window closed. The rule closes the window when n reaches a multiple of 2^24
and also says that P is +0 while n ≤ 2^24; at n = 2^24 the model closes it (DESIGN CHOICE, log 103). -/
def wideStep (x : AccEl × Bool) (ab : FV × FV) : AccEl × Bool :=
  let p := prodFV ab.1 ab.2
  let w := x.1.w + wideUnits p
  let n := (x.1.n + 1) % 2 ^ 40
  let sp := wideState x.1.sp p
  if n % 2 ^ 24 = 0 then
    let pv := match dec32 x.1.code with | .fin s m e => rne32 ((FV.fin s m e).toEx.add (wideEx w)) | y => y
    (⟨enc32 pv, 0, sp, n⟩, true)
  else (⟨x.1.code, w, sp, n⟩, x.2)

/-- INT32 element (R76): running value modulo 2^32 over chunks of 256, and INT_WRAP. -/
def intElement (s0 : Int) (ab : List (Int × Int)) : Int × Bool :=
  (pieces 256 ab).foldl (fun (acc : Int × Bool) c =>
    let v := acc.1 + c.foldl (fun a p => a + p.1 * p.2) 0
    if -(2 ^ 31) ≤ v && v < 2 ^ 31 then (v, acc.2) else (toSigned 32 (ofSigned 32 v), true)) (s0, false)

/-! ## Accumulator memory (R71, R72) -/

def Core.tag (c : Core) (k : Nat) : SlotTag := look SlotTag.empty c.tags k
def Core.setTags (c : Core) (b n : Nat) (g : SlotTag) : Core :=
  { c with tags := (fromLen b n).foldl (fun l k => put SlotTag.empty l k g) c.tags }
/-- Elements of the tile at a base slot. -/
def Core.tile (c : Core) (b : Nat) : List (Nat × AccEl) := look [] c.acc b
/-- Store a tile; older tiles that began inside its slots are gone. -/
def Core.setTile (c : Core) (b n : Nat) (els : List (Nat × AccEl)) : Core :=
  { c with acc := putRaw (c.acc.filter (fun p => !(b ≤ p.1 && p.1 < b + n))) b els }

/-- Tags of a tile's slots. -/
def Core.tileTags (c : Core) (b n : Nat) : List SlotTag := (fromLen b n).map c.tag

/-- Merge two rising lists of elements; the second wins. -/
def mergeEls : List (Nat × AccEl) → List (Nat × AccEl) → List (Nat × AccEl)
  | old, new => new.foldl (fun l p => put AccEl.zero l p.1 p.2) old

/-- Positions (row, column) of tile `k` inside the operation's region (R66). -/
def tileRowsOf (t k : Nat) : List Nat := let r := k / tileCols t; fromLen (128 * r) (min 128 (mM t - 128 * r))
def tileColsOf (t k : Nat) : List Nat := let c := k % tileCols t; fromLen (128 * c) (min 128 (mN t - 128 * c))

/-- FP value of an accumulator element by mode; WIDE and INT32 apart. -/
def AccEl.fv (m : AccMode) (x : AccEl) : FV := if m = .acc16 then dec16 x.code else dec32 x.code

/-- Whether an element is a NaN (R78). -/
def AccEl.isNan (m : AccMode) (x : AccEl) : Bool :=
  match m with
  | .wide => x.sp = 1 || (x.sp = 0 && (dec32 x.code).isNan)
  | .int32 => false
  | _ => (x.fv m).isNan

/-! ## Operands -/

/-- Element k of row i of A, or of column j of B, without its coarse scale. -/
def opndA (opc : Nat) (v : View) (d : Desc) (i k : Nat) : FV :=
  if opc = 2 then v.elem d i [k, 0, 0, 0] else v.elem d k [i, 0, 0, 0]
def opndB (opc : Nat) (v : View) (d : Desc) (j k : Nat) : FV :=
  if opc = 3 then v.elem d k [j, 0, 0, 0] else v.elem d j [k, 0, 0, 0]

/-- The integer of an INT8 element value. -/
def fvInt (x : FV) : Int := match x with | .fin s m _ => if s then -(m : Int) else m | _ => 0

/-- One element of a tile: start value, row of A and column of B (R73-R76). Answers element, LONGSUM, INT_WRAP. -/
def newElement (m : AccMode) (fp32 : Bool) (x0 : AccEl) (ab : List (FV × FV)) : AccEl × Bool × Bool :=
  match m with
  | .acc32 => let r := accElement rne32 fp32 (dec32 x0.code) ab; (⟨enc32 r.1, 0, 0, 0⟩, r.2, false)
  | .acc16 => let r := accElement rne16 false (dec16 x0.code) ab; (⟨enc16 r.1, 0, 0, 0⟩, r.2, false)
  | .wide => let r := ab.foldl wideStep (x0, false); (r.1, r.2, false)
  | .int32 =>
    let r := intElement (toSigned 32 x0.code) (ab.map (fun p => (fvInt p.1, fvInt p.2)))
    (⟨ofSigned 32 r.1, 0, 0, 0⟩, false, r.2)

/-! ## Issue checks -/

def drainMask : Nat :=
  bm 16 4 5 + bm 16 16 7 + bm 16 24 20 + bm 24 32 32 + bm 32 0 15 + bm 32 32 32 + bm 40 0 64 + bm 48 0 48 + bm 56 0 48 + bm 64 0 48
def matMask : Nat := drainMask + bm 16 0 4 + bm 24 0 31

/-- Slots the drain controls put to use (R106, Table 3.7). -/
def drainSlots (t : Nat) : List Nat :=
  (if mOutEn t then [2] else []) ++ (if mBias t ≠ 0 then [3] else []) ++ (if 0x11 ≤ mAct t then [4] else [])
    ++ (if mElt t ≠ 0 then [5] else []) ++ (if mPred t ≠ 0 then [6] else [])

/-- Checks of the drain controls' values (R87, R88, R91, R145). -/
def drainCtl (t : Nat) : Nat :=
  firstSt [
    chk (mBias t ≠ 3 && mElt t ≠ 3 && mMm t ≠ 3) stBadField,
    chk (mAct t ≤ 7 || (0x11 ≤ mAct t && mAct t ≤ 0x16)) stBadField,
    chk (mPred t ≤ 5 && (mPred t < 4 || mClip t)) stBadField,
    chk (!mClip t || (!(mLo t).isNan && !(mHi t).isNan && !(mHi t).lt (mLo t))) stBadField,
    chk (coarseOk (mScale t)) stBadScale,
    chk (!mStats t || statsAddrOk (stAddr t)) stMisaligned,
    chk (mMm t = 0 || (mVal t % 4 = 0 && mIdx t % 4 = 0)) stMisaligned]

/-- Checks of M, N, K and the base slot for a mode (R65, R71). -/
def regionSt (t : Nat) (m : AccMode) : Nat :=
  firstSt [
    chk (1 ≤ mM t && mM t ≤ 512 && 1 ≤ mN t && mN t ≤ 512) stBadField,
    chk (mBase t % m.slots = 0) stMisaligned,
    chk (mBase t + tileCount t * m.slots ≤ 128) stBadField]

def formMatrix (t : Nat) : Form :=
  let m := AccMode.ofCode (mMode t)
  let ds := if mDrain t then drainSlots t else []
  { mask := matMask
    -- a matrix operation without DRAIN_AFTER ignores DESC[2]-DESC[6] (R105)
    slots := [0, 1] ++ ds
    need := [0, 1] ++ ds
    ignore := if mDrain t then [] else [2, 3, 4, 5, 6]
    rnd := mDrain t
    streams := [], events := [], ports := portTable t, mx := false, gate := true
    st := firstSt [chk (1 ≤ mK t) stBadField, regionSt t m, if mDrain t then drainCtl t else 0] }

def formDrain (t : Nat) : Form :=
  { mask := drainMask, slots := drainSlots t, need := drainSlots t, rnd := true, streams := [], events := []
    ports := portTable t, mx := false, gate := true
    st := firstSt [chk (1 ≤ mM t && mM t ≤ 512 && 1 ≤ mN t && mN t ≤ 512) stBadField, drainCtl t] }

/-- Whether the stage controls other than STATS_EN are off (R87). -/
def stagesOff (t : Nat) : Bool := mBias t = 0 && mAct t = 0 && mElt t = 0 && !mClip t && mPred t = 0 && mMm t = 0

/-- Shape M × N with dimension 0 = N. -/
def isMN (t : Nat) (d : Desc) : Bool := d.size = [mN t, mM t, 1, 1, 1]

/-- OUT holds the M × N region at the start of each of its rows (log 39). -/
def outMN (t : Nat) (d : Desc) : Bool := mN t ≤ d.n 0 && d.size.drop 1 = [mM t, 1, 1, 1]

/-- The dimension-0 range that a drain writes ends at a multiple of OUT's block size or at its end (R48). -/
def rangeOk (t : Nat) (d : Desc) : Bool := d.n 0 = mN t || mN t % blockSize d.fmt = 0

/-- Checks of the drain's tensors for tiles in mode `m` (R48, R87, R88, R144, R146). -/
def drainTensors (t : Nat) (m : AccMode) (ds : List (Nat × Desc)) : Nat :=
  let ok (i : Nat) (p : Desc → Bool) (st : Nat) : Nat := match dsc ds i with | some d => chk (p d) st | none => 0
  firstSt [
    ok 2 (outMN t) stBadField,
    ok 2 (rangeOk t) stFormatIllegal,
    ok 2 (fun d => outFmtOk d.fmt || (d.fmt = fINT32 && m = .int32 && stagesOff t)) stFormatIllegal,
    ok 3 (fun d => d.fmt = fFP32 || d.fmt = fBF16) stFormatIllegal,
    ok 3 (fun d => d.size = [if mBias t = 1 then mN t else mM t, 1, 1, 1, 1]) stBadField,
    ok 4 (fun d => d.fmt ≠ fINT32 && (mAct t ≠ 0x11 || d.fmt = fMASK1)) stFormatIllegal,
    ok 4 (isMN t) stBadField,
    ok 5 (fun d => d.fmt ≠ fINT32) stFormatIllegal,
    ok 5 (isMN t) stBadField,
    ok 6 (fun d => d.fmt = fMASK1) stFormatIllegal,
    ok 6 (isMN t) stBadField]

/-- R144: AUX_Y and OUT of an in-place accumulation. -/
def accumPair (t : Nat) (i o : Desc) : Bool :=
  mElt t = 1 && i.fmt = fFP32 && o.fmt = fFP32 && i.addr = o.addr && i.size = o.size
    && (upto 5).all (fun k => (i.ndim ≤ k && o.ndim ≤ k) || i.n k = 1 || i.st k = o.st k)

/-- Tensors and side outputs that a drain touches. -/
def drainUse (t : Nat) (ins : List Desc) (ds : List (Nat × Desc)) : Use :=
  let pick (l : List Nat) : List Desc := ds.filterMap (fun p => if l.contains p.1 then some p.2 else none)
  let outs := pick [2, 6]
  let u := Use.tensors (ins ++ pick [3, 4, 5]) outs
  let u := { u with
    writes := outs.flatMap (fun d => if d.n 0 = mN t then d.writeRuns else d.headRuns (mN t))
    clash := (Use.tensors (ins ++ pick [3, 4]) outs).clash || (Use.tensorsWith (accumPair t) (pick [5]) outs).clash }
  let u := if mMm t = 0 then u else
    let rs := [(mVal t, mVal t + 4 * mM t), (mIdx t, mIdx t + 4 * mM t)]
    { u with writes := u.writes ++ [(mVal t, 4 * mM t), (mIdx t, 4 * mM t)], outs := u.outs ++ rs
             clash := u.clash || overlapAny u.ins rs }
  if mStats t then u.withStats (mStatsAcc t) (stAddr t) else u

/-- R68 and R404: the mode is enabled on the core. -/
def modeSt (s : State) (sl : Nat) (m : AccMode) : Nat :=
  firstSt [
    chk (m ≠ .wide || bitN s.fuses.upm.toNat 44) stUnitAbsent,
    chk (m ≠ .wide || s.fb (slotBase sl + 0x3A0) 3) stFormatUnavailable,
    chk (m = .acc32 || s.f (rCapDie (sl / 64)) 0 3 ≠ 2) stFormatUnavailable]

def useMatrix (s : State) (sl _ t : Nat) (o : Op) : Use :=
  let m := AccMode.ofCode (mMode t)
  let a := dscD o.descs 0
  let b := dscD o.descs 1
  let opc := tOpcode t
  let st := firstSt [
    chk (pairOk m a.fmt b.fmt) stFormatIllegal,
    modeSt s sl m,
    chk (a.size = (if opc = 2 then [mM t, mK t, 1, 1, 1] else [mK t, mM t, 1, 1, 1])) stBadField,
    chk (b.size = (if opc = 3 then [mK t, mN t, 1, 1, 1] else [mN t, mK t, 1, 1, 1])) stBadField,
    if mDrain t then drainTensors t m o.descs else 0]
  if st ≠ 0 then Use.bad st
  else
    let u := if mDrain t then drainUse t [a, b] o.descs else Use.tensors [a, b] []
    { u with slots := fromLen (mBase t) (tileCount t * m.slots), mode := m }

/-- The mode a DRAIN settles at issue (R105); an operation whose record waits for the ring is still in flight (R102, R116). -/
def settleMode (c : Core) (ctx t : Nat) : AccMode :=
  match (c.ops.filter (fun e => 1 ≤ e.opc && e.opc ≤ 3 && e.ctx = ctx && e.slots.contains (mBase t))).getLast? with
  | some e => AccMode.ofCode (mMode e.tod)
  | none => match c.tag (mBase t) with | .mode m => m | _ => .acc32

def useDrain (s : State) (sl _ t : Nat) (o : Op) : Use :=
  let m := settleMode (s.core sl) o.ctx t
  let st := firstSt [regionSt t m, drainTensors t m o.descs]
  if st ≠ 0 then Use.bad st
  else { drainUse t [] o.descs with slots := fromLen (mBase t) (tileCount t * m.slots), mode := m }

/-! ## Start -/

/-- Status of the tags of an operation's tiles at its start (R72, R95, R105). -/
def tagSt (c : Core) (t : Nat) (m : AccMode) (isDrain : Bool) : Nat :=
  let tiles := (upto (tileCount t)).map (fun k => c.tileTags (tileSlot t m k) m.slots)
  if !isDrain && !mAccum t then 0
  else if tiles.any (fun l => l.contains .poison) then stAccUncorr
  else if tiles.all (fun l => l.all (fun g => g = .mode m) || (!isDrain && l.all (fun g => g = .empty))) then 0
  else stFormatIllegal

/-- Positions of the drain's output region for R53. -/
def drainRegion (t : Nat) (ds : List (Nat × Desc)) : Nat :=
  regionCount (if mOutEn t then (dscD ds 2).fmt else 0) [mN t, mM t, 1, 1, 1]

/-- Tensors of the drain whose coarse scale is checked (R44). -/
def drainScaled (t : Nat) (ds : List (Nat × Desc)) : List Desc :=
  (drainSlots t).filterMap (fun i => if i = 2 || i = 4 || i = 5 then dsc ds i else none)

def startMat (s : State) (sl : Nat) (o : Op) : State × Op × Nat :=
  let t := o.tod
  let isD := o.opc = 4
  let m := o.mode
  let (vs, ds) := opView s sl o
  let v : View := ⟨vs, sl⟩
  let st := tagSt (s.core sl) t m isD
  let scaled := (if isD then [] else [dscD o.descs 0, dscD o.descs 1]) ++ (if drains t then drainScaled t o.descs else [])
  if st ≠ 0 then (s, o, st)
  else if badScale v scaled then (s, o, stBadScale)
  else
    let reads := readsOf (o.descs.filterMap (fun p => if [0, 1, 3, 4, 5].contains p.1 then some p.2 else none))
    let cx := o.conv s sl
    let lost := anyPoison s sl ((scaled.filter (fun d => !d.port)).flatMap Desc.coarseRun)
    let s := advance (touchReads s sl o.ctx reads) sl (if drains t then rndAdvance o (drainRegion t o.descs) else [])
    let s := if isD && !lost then s.modCore sl (fun c => { c with drainQ := c.drainQ ++ (upto (tileCount t)).map (fun _ => o.tag) }) else s
    (s, { o with
      stage := if isD || lost then OpStage.finishing else OpStage.running
      ctrs := [(cx.key, cx.ctr)]
      scales := ds.map (fun p => (p.1, v.coarseCode p.2))
      tile := if isD then tileCount t else 0
      res := if lost then { o.res with status := stMemUncorr } else o.res
      hbm := o.hbm + hbmLen reads }, 0)

def famMatrix : Family := ⟨formMatrix, useMatrix, startMat⟩
def famDrain : Family := ⟨formDrain, useDrain, startMat⟩

/-- MATMUL: its TOD issues, and starts when nothing holds it back; its tiles follow (MATRIX_TILE_DONE). -/
def execMatmul (sl q : Nat) (s : State) : Res := done s (runTod s sl q (isOpc 1) famMatrix)
/-- MATMUL_AT. -/
def execMatmulAt (sl q : Nat) (s : State) : Res := done s (runTod s sl q (isOpc 2) famMatrix)
/-- MATMUL_BT. -/
def execMatmulBt (sl q : Nat) (s : State) : Res := done s (runTod s sl q (isOpc 3) famMatrix)
/-- DRAIN. -/
def execDrain (sl q : Nat) (s : State) : Res := done s (runTod s sl q (isOpc 4) famDrain)

/-! ## Tiles of the engine -/

/-- ECC events in accumulator words (R95): corrected ones are counted; answers the first uncorrectable slot and word of a tile. -/
def accEcc (s : State) (sl b n : Nat) (evs : List EccEvent) : State × Option (Nat × Nat) :=
  evs.foldl (fun (acc : State × Option (Nat × Nat)) e =>
    let k := e.addr / 4096
    let w := e.addr % 4096
    if e.space ≠ 3 || !(b ≤ k && k < b + n) then acc
    else if e.bits ≤ 1 then
      ((acc.1.addCtr (slotBase sl + 0x398) 1).raise .accEccCorr sl (packBits [(k, 0, 7), (w, 7, 12)]), acc.2)
    else (acc.1, match acc.2 with | some x => some x | none => some (k, w))) (s, none)

/-- Fresh free elements for the positions of a tile inside the region. -/
def freeEls (s : State) (t k : Nat) : State × List (Nat × AccEl) :=
  (tileRowsOf t k).foldl (fun acc i =>
    (tileColsOf t k).foldl (fun (acc : State × List (Nat × AccEl)) j =>
      let (x, s1) := acc.1.freeWord
      let (y, s2) := s1.freeWord
      let (z, s3) := s2.freeWord
      (s3, acc.2 ++ [(128 * (i % 128) + j % 128, ⟨x, (y : Int) - 2 ^ 31, z % 4, z / 4⟩)])) acc) (s, [])

/-- Tile `k` onward of a stopped matrix operation holds undefined values, under its former tags or the operation's mode (R95). -/
def freeTiles (s : State) (sl : Nat) (o : Op) (k : Nat) : State :=
  let m := o.mode
  (fromLen k (tileCount o.tod - k)).foldl (fun s k =>
    let b := tileSlot o.tod m k
    let (s, els) := freeEls s o.tod k
    let (w, s) := s.freeWord
    s.modCore sl (fun c =>
      let c := c.setTile b m.slots (mergeEls (c.tile b) els)
      if w % 2 = 0 then c else c.setTags b m.slots (.mode m))) s

/-- An operation met a double-bit accumulator error in a tile and stops there (R95). -/
def accUncorr (s : State) (sl : Nat) (o : Op) (b slot w : Nat) : State × Op :=
  let s := s.modCore sl (fun c => c.setTags b o.mode.slots .poison)
  let s := s.raise .accEccUncorr sl (packBits [(o.tag, 0, 14), (slot, 14, 7), (w, 21, 12)])
  (s, { o with stage := OpStage.finishing, res := { o.res with status := stAccUncorr, stats := none, tail := [] } })

/-- Device-address runs of an operand that a tile reads, with their fine scales: its rows when dimension 0 is K, else its part of every
row (R114). -/
def tileRuns (d : Desc) (k0 : Bool) (idx : List Nat) : List (Nat × Nat) :=
  if d.port then []
  else if k0 then idx.flatMap (fun i => d.segRuns 0 (d.n 0) [i, 0, 0, 0])
  else (upto (d.n 1)).flatMap (fun k => d.segRuns (idx.headD 0) idx.length [k, 0, 0, 0])

/-- Device-address runs of the auxiliary tensors that the drain of a tile reads: BIAS, AUX_X and AUX_Y. -/
def auxRuns (o : Op) (k : Nat) : List (Nat × Nat) :=
  let rows := tileRowsOf o.tod k
  let cols := tileColsOf o.tod k
  o.descs.flatMap (fun p =>
    if p.2.port then []
    else if p.1 = 3 then (let idx := if mBias o.tod = 1 then cols else rows; p.2.segRuns (idx.headD 0) idx.length [0, 0, 0, 0])
    else if p.1 = 4 || p.1 = 5 then rows.flatMap (fun i => p.2.segRuns (cols.headD 0) cols.length [i, 0, 0, 0])
    else [])

/-- The NaN an engine tile holds, at the lowest row-major position (R61, R78). -/
def tileNan (t k : Nat) (m : AccMode) (els : List (Nat × AccEl)) : Option NanAt :=
  (els.find? (fun p => p.2.isNan m)).map (fun p =>
    ⟨[128 * (k % tileCols t) + p.1 % 128, 128 * (k / tileCols t) + p.1 / 128], 0, m.fmt⟩)

/-- The elements of tile `k` after its products (R72-R78): elements, LONGSUM, INT_WRAP. -/
def tileResult (v : View) (ds : List (Nat × Desc)) (o : Op) (start : List (Nat × AccEl)) (k : Nat) : List (Nat × AccEl) × Bool × Bool :=
  let t := o.tod
  let a := dscD ds 0
  let b := dscD ds 1
  let m := o.mode
  let ks := upto (mK t)
  let rows := (tileRowsOf t k).map (fun i => (i, ks.map (fun x => opndA o.opc v a i x)))
  let cols := (tileColsOf t k).map (fun j => (j, ks.map (fun x => opndB o.opc v b j x)))
  rows.foldl (fun acc r => cols.foldl (fun (acc : List (Nat × AccEl) × Bool × Bool) c =>
    let i := 128 * (r.1 % 128) + c.1 % 128
    let e := newElement m (a.fmt = 0) (look AccEl.zero start i) (r.2.zip c.2)
    (acc.1 ++ [(i, e.1)], acc.2.1 || e.2.1, acc.2.2 || e.2.2)) acc) ([], false, false)

/-- NAN_TRAP of an operation that works tile by tile: raised once; without CONTINUE the operation ends with this tile and its queue
halts (R61, R62). -/
def tileTrap (s : State) (sl : Nat) (o : Op) (n : Option NanAt) : State :=
  match n with
  | none => updOp s sl o
  | some x =>
    if nth 0 o.aux 0 ≠ 0 then updOp s sl o
    else
      let s := raiseNan s sl o x
      let o := { o with aux := setNth o.aux 0 1 }
      if nanContinue s sl then updOp s sl o
      else
        let o := { o with stage := OpStage.finishing, res := { o.res with status := stNanTrap, stats := none, tail := [] } }
        cancelIssued (nanHalt (updOp s sl o) sl o.q) sl o.q

/-- Elements of a tile outside the operation's region, which a partial tile leaves as they are (R66): under another mode's tag they have
no value of this mode, and are free. -/
def outsideEls (s : State) (sl t k : Nat) (m : AccMode) : State × List (Nat × AccEl) :=
  let c := s.core sl
  let b := tileSlot t m k
  let rows := (tileRowsOf t k).length
  let cols := (tileColsOf t k).length
  let tags := c.tileTags b m.slots
  if rows = 128 && cols = 128 then (s, [])
  else if tags.all (fun g => g = .empty) then (s, [])
  else if tags.all (fun g => g = .mode m) then (s, (c.tile b).filter (fun p => !(p.1 / 128 < rows && p.1 % 128 < cols)))
  else
    (upto 16384).foldl (fun (a : State × List (Nat × AccEl)) i =>
      if i / 128 < rows && i % 128 < cols then a
      else
        let (x, s1) := a.1.freeWord
        let (y, s2) := s1.freeWord
        let (z, s3) := s2.freeWord
        (s3, a.2 ++ [(i, ⟨x, (y : Int) - 2 ^ 31, z % 4, z / 4⟩)])) (s, [])

/-- The engine finishes the next tile of a matrix operation. -/
def matrixTile (s : State) (sl : Nat) (o : Op) (evs : List EccEvent) : State :=
  let t := o.tod
  let m := o.mode
  let k := o.tile
  let b := tileSlot t m k
  let (vs, ds) := opView s sl o
  let c := s.core sl
  let accum := mAccum t && c.tag b = .mode m
  let (s, bad) := if accum then accEcc s sl b m.slots evs else (s, none)
  match bad with
  | some (slot, w) =>
    let (s, o) := accUncorr s sl o b slot w
    updOp (freeTiles s sl o (k + 1)) sl o
  | none =>
    let (s, unc) := eccEvents s sl o (evs.filter (fun e => e.space ≠ 3))
    let runs := tileRuns (dscD o.descs 0) (o.opc ≠ 2) (tileRowsOf t k) ++ tileRuns (dscD o.descs 1) (o.opc = 3) (tileColsOf t k)
    if unc || anyPoison s sl runs then
      updOp s sl { o with stage := OpStage.finishing, res := { o.res with status := stMemUncorr, stats := none, tail := [] } }
    else
      let start := if accum then c.tile b else []
      let (els, ls, wr) := tileResult ⟨vs, sl⟩ ds o start k
      let (s, rest) := outsideEls s sl t k m
      let s := s.modCore sl (fun c => (c.setTile b m.slots (mergeEls rest els)).setTags b m.slots (.mode m))
      let s := if mDrain t then s.modCore sl (fun c => { c with drainQ := c.drainQ ++ [o.tag] }) else s
      let o := { o with
        tile := k + 1
        stage := if k + 1 = tileCount t then OpStage.finishing else OpStage.running
        res := { o.res with flags := flOr o.res.flags ((if ls then flLongsum else 0) + (if wr then flIntWrap else 0)) } }
      tileTrap s sl o (if mDrain t then none else tileNan t k m els)

/-! ## The drain (R85-R92) -/

/-- s of R87. -/
def drainScale (o : Op) : FV :=
  if o.opc = 4 then dec32 (mScale o.tod)
  else mul32 (mul32 (dec32 (o.coarse 0)) (dec32 (o.coarse 1))) (dec32 (mScale o.tod))

/-- An exact value times s, rounded once. -/
def scaleExact (x : Ex) (s : FV) : FV :=
  match s with
  | .fin _ _ _ => rne32 (x.mul s.toEx)
  | .inf _ => if x.n = 0 then .nan else .inf (decide (x.n < 0))
  | .nan => .nan

/-- Stage 1 (R87), with the unit of a NaN. -/
def stage1 (m : AccMode) (x : AccEl) (s : FV) : VU :=
  let v := match m with
    | .wide =>
      if x.sp = 1 then .nan
      else if x.sp = 2 then mul32 (.inf false) s
      else if x.sp = 3 then mul32 (.inf true) s
      else match dec32 x.code with
        | .fin a b c => scaleExact ((FV.fin a b c).toEx.add (wideEx x.w)) s
        | y => mul32 y s
    | .int32 => scaleExact (Ex.ofInt (toSigned 32 x.code)) s
    | _ => mul32 s (x.fv m)
  (v, if x.isNan m then 0 else 1)

/-- A later arithmetic stage: a NaN already there keeps its unit, a new one is the drain's. -/
def drainArith (a : VU) (r : FV) : VU := (r, if a.1.isNan then a.2 else 1)

/-- Stage 3 (R89, Table 3.8). -/
def stage3 (act : Nat) (a : VU) (x : FV) : VU :=
  let v := a.1
  match act with
  | 0 => a
  | 1 => if v.isNan then (.nan, 1) else if v.isZero || v.sign then (FV.zero, 1) else a
  | 2 => (transc .geluTanh v, 1)
  | 3 => (transc .geluErf v, 1)
  | 4 => (transc .silu v, 1)
  | 5 => (transc .sigmoid v, 1)
  | 6 => (transc .tanh v, 1)
  | 7 => (transc .exp v, 1)
  | 0x11 => if x.isZero then (FV.zero, 1) else a
  | _ => (mul32 v (derivFactor (act + 0x30) x), 1)

/-- The predicate bit of a value entering stage 5 (Table 5.3). -/
def predBit (p : Nat) (lo hi u : FV) : Bool :=
  if u.isNan then false
  else match p with
    | 1 => FV.zero.lt u
    | 2 => u.lt FV.zero
    | 3 => !u.isZero
    | 4 => !u.lt lo && !hi.lt u
    | 5 => FV.zero.lt u && !hi.lt u
    | _ => false

/-- What the drain makes of one element: the value leaving stage 7, with its unit, and the predicate. -/
def drainElem (v : View) (o : Op) (ds : List (Nat × Desc)) (s : FV) (x : AccEl) (i j : Nat) : VU × Bool :=
  let t := o.tod
  let cs := [i, 0, 0, 0]
  let el (k : Nat) : FV := match dsc ds k with | some d => v.elem32 d (dec32 (o.coarse k)).toEx j cs | none => FV.zero
  let a1 := stage1 o.mode x s
  let a2 := if mBias t = 0 then a1 else
    let d := dscD ds 3
    drainArith a1 (add32 a1.1 (v.elem32 d Ex.zero (if mBias t = 1 then j else i) [0, 0, 0, 0]))
  let a3 := stage3 (mAct t) a2 (if 0x11 ≤ mAct t then el 4 else FV.zero)
  let a4 := match mElt t with
    | 1 => drainArith a3 (add32 a3.1 (el 5))
    | 2 => drainArith a3 (mul32 a3.1 (el 5))
    | _ => a3
  let a5 := if mClip t then (((a4.1.max (mLo t)).min (mHi t)), a4.2) else a4
  (a5, predBit (mPred t) (mLo t) (mHi t) a4.1)

/-- Combine a row's winner so far with later columns (R60, R90). -/
def rowWin (mm : Nat) (cur : Option (Nat × Nat)) (vals : List (Nat × FV)) : Nat × Nat :=
  let all := (match cur with | some (j, c) => [(j, dec32 c)] | none => []) ++ vals
  match winner (mm = 1) all with
  | some (j, v) => (j, enc32 v)
  | none => (0, 0)

/-- An INT32 tile into an INT32 tensor: the bits unchanged (R87). -/
def intDrain (o : Op) (d : Option Desc) : Bool := o.mode = .int32 && (match d with | some d => d.fmt = fINT32 | none => false)

/-- The write unit of one drained tile, its values leaving stage 7 and its mask bits, by row. -/
def drainTile (v : View) (o : Op) (ds : List (Nat × Desc)) (els : List (Nat × AccEl)) (k : Nat) :
    WUnit × List (Nat × List (Nat × FV)) :=
  let t := o.tod
  let cols := tileColsOf t k
  let j0 := 128 * (k % tileCols t)
  let out := if mOutEn t then dsc ds 2 else none
  let intOut := intDrain o out
  let s := drainScale o
  let cx : ConvCtx := ⟨Rnd.ofCode (tRnd t), (o.ctrs.headD (0, 0)).1, (o.ctrs.headD (0, 0)).2⟩
  let c := (dec32 (o.coarse 2)).toEx
  (tileRowsOf t k).foldl (fun (acc : WUnit × List (Nat × List (Nat × FV))) i =>
    let xs : List (Nat × AccEl) := cols.map (fun j => (j, look AccEl.zero els (128 * (i % 128) + j % 128)))
    if intOut then
      let d := out.getD (dscD [] 0)
      let vals := xs.map (fun p => (p.1, rne32 (Ex.ofInt (toSigned 32 p.2.code))))
      ({ acc.1 with writes := acc.1.writes ++ [(d.runAddr [i, 0, 0, 0] + 4 * j0, xs.flatMap (fun p => leBytes 4 p.2.code))] }, acc.2 ++ [(i, vals)])
    else
      let rs : List (Nat × VU × Bool) := xs.map (fun p => (p.1, drainElem v o ds s p.2 i p.1))
      let vus := rs.map (fun (p : Nat × VU × Bool) => p.2.1)
      let u := match out with
        | some d => convStretch d cx c [mN t, mM t, 1, 1, 1] [i, 0, 0, 0] j0 vus
        | none => { WUnit.nil with trap := (rs.find? (fun (p : Nat × VU × Bool) => p.2.1.1.isNan)).map (fun (p : Nat × VU × Bool) => ⟨[p.1, i], p.2.1.2, 0⟩) }
      let mk := match (if mPred t ≠ 0 then dsc ds 6 else none) with
        | some d => [(d.runAddr [i, 0, 0, 0] + j0 / 8, leBytes (cdiv rs.length 8) (packCodes 1 (rs.map (fun (p : Nat × VU × Bool) => b2n p.2.2))))]
        | none => []
      (acc.1.join { u with writes := u.writes ++ mk }, acc.2 ++ [(i, rs.map (fun (p : Nat × VU × Bool) => (p.1, p.2.1.1)))])) (WUnit.nil, [])

/-- Row winners after one more tile. -/
def newWins (o : Op) (k : Nat) (rows : List (Nat × List (Nat × FV))) : List (Nat × Nat) :=
  if mMm o.tod = 0 then [] else
  let first := k % tileCols o.tod = 0
  if first then o.wins ++ rows.map (fun r => rowWin (mMm o.tod) none r.2)
  else
    let base := 128 * (k / tileCols o.tod)
    o.wins.zipIdx.map (fun p =>
      if base ≤ p.2 then
        match rows.find? (fun r => r.1 = p.2) with
        | some r => rowWin (mMm o.tod) (some p.1) r.2
        | none => p.1
      else p.1)

/-- Side outputs at the end of a drain: winning values through an FP32 conversion, and indices (R90). -/
def winWrites (o : Op) (wins : List (Nat × Nat)) : List (Nat × List Byte) :=
  if mMm o.tod = 0 then [] else
  [(mVal o.tod, wins.flatMap (fun w => leBytes 4 (convScalar 0 .rne 0 Ex.zero (dec32 w.2)).code)),
   (mIdx o.tod, wins.flatMap (fun w => leBytes 4 (w.1 + mIdxBase o.tod)))]

/-- Add a tile's values to the operation's statistics record (R91). -/
def addStats (o : Op) (vals : List FV) : Option (Nat × Bool × List Byte) :=
  if !mStats o.tod then none
  else
    let r := statsRecord vals
    some (stAddr o.tod, mStatsAcc o.tod, match o.res.stats with | some (_, _, old) => mergeStats old r | none => r)

/-- The counters an operation carries in its result. -/
def resCnt (r : OpRes) : Counters := sumCounters r.units

/-- The drain finishes the next tile of an operation. -/
def drainTileDone (s : State) (sl : Nat) (o : Op) (evs : List EccEvent) : State :=
  let t := o.tod
  let m := o.mode
  let k := o.drained
  let b := tileSlot t m k
  let (s, bad) := accEcc s sl b m.slots evs
  match bad with
  | some (slot, w) =>
    let (s, o') := accUncorr s sl o b slot w
    updOp (if o.opc = 4 then s else freeTiles s sl o (k + 1)) sl o'
  | none =>
    let (s, unc) := eccEvents s sl o (evs.filter (fun e => e.space ≠ 3))
    if unc || anyPoison s sl (auxRuns o k) then
      updOp s sl { o with stage := OpStage.finishing, res := { o.res with status := stMemUncorr, stats := none, tail := [] } }
    else
      let (vs, ds) := opView s sl o
      let (u, rows) := drainTile ⟨vs, sl⟩ o ds ((s.core sl).tile b) k
      let s := unitWrites s sl o.ctx u.writes
      let s := s.modCore sl (fun c => { c with drainQ := c.drainQ.erase o.tag })
      let s := if mClear t then s.modCore sl (fun c => (c.setTile b m.slots []).setTags b m.slots .empty) else s
      let wins := newWins o k rows
      let last := k + 1 = tileCount t
      let o := { o with
        drained := k + 1
        wins := wins
        hbm := o.hbm + hbmBytes u.writes
        res := { o.res with
          units := [⟨[], [], (resCnt o.res).add u.cnt, none⟩]
          stats := addStats o (rows.flatMap (fun r => r.2.map (·.2)))
          tail := if last then winWrites o wins else [] } }
      if s.memBad then
        updOp { s with memBad := false } sl
          { o with stage := OpStage.finishing, res := { o.res with status := stMemUncorr, stats := none, tail := [] } }
      else tileTrap s sl o u.trap

/-- Whether an operation has a tile ready for the drain. -/
def drainReady (o : Op) : Bool := o.started && 1 ≤ o.opc && o.opc ≤ 4 && drains o.tod && o.res.status = 0 && o.drained < o.tile

/-- The operation whose tile the drain serves next: the one that became ready first (R94; log 49). -/
def drainFront (s : State) (sl : Nat) : Option Nat :=
  (s.core sl).drainQ.find? (fun tag => (opOf s sl tag).any drainReady)

/-- Whether a matrix operation or a DRAIN has nothing left to do. -/
def matDone (o : Op) : Bool :=
  o.stage = .finishing && (o.res.status ≠ 0 || (o.tile = tileCount o.tod && (!drains o.tod || o.drained = tileCount o.tod)))

end Sys2Proof.Machine
end

