-- ==== Sys2Proof/Machine/Mover.lean ====
section
/-! DEFINITION. The data mover's operations on irregular data: GATHER, SCATTER, SEGMENT_REDUCE and SORT_KEYS (spec/04 R125-R130). -/

namespace Sys2Proof.Machine

/-! ## Moves (R125) -/

/-- A moved element code: a negative-zero code becomes the positive-zero code of its format (R125). -/
def moveCode (f c : Nat) : Nat :=
  if f = fINT8 || f = fINT32 || f = fMASK1 then c else if c = 2 ^ (elemBits f - 1) then 0 else c

/-- Codes and fine scales of a run of a tensor, as a move takes them. -/
def View.moveRun (v : View) (d : Desc) (cs : List Nat) : List Nat × List Nat :=
  ((upto (d.n 0)).map (fun i => moveCode d.fmt (v.code d i cs)),
   if isG16 d.fmt then (upto d.nb).map (fun b => v.fineCode d (16 * b) cs) else [])

/-- The writes of a run of codes into a tensor, in units of 512 elements (R61); padding of the last block is zero (R48). -/
def moveUnits (d : Desc) (cs : List Nat) (codes fines : List Nat) : List WUnit :=
  let w := elemBits d.fmt
  let padded := codes ++ (upto (roundUp codes.length (blockSize d.fmt) - codes.length)).map (fun _ => 0)
  (pieces 512 padded).zipIdx.map (fun p =>
    let i0 := 512 * p.2
    { WUnit.nil with writes :=
        (d.runAddr cs + i0 * w / 8, leBytes (cdiv (p.1.length * w) 8) (packCodes w p.1))
          :: (if isG16 d.fmt then
                [(d.scalePtr + 64 + d.blockOf i0 cs, ((fines.drop (32 * p.2)).take (cdiv p.1.length 16)).map (fun c => BitVec.ofNat 8 c))]
              else []) })

/-- R125: a move needs equal formats; MX formats were refused (R41). -/
def moveFmt (a b : Desc) : Nat := chk (a.fmt = b.fmt) stFormatIllegal

/-- R125: and bit-identical coarse scales. -/
def moveCoarse (v : View) (a b : Desc) : Nat := chk (v.coarseCode a = v.coarseCode b) stFormatIllegal

def idxBase (t : Nat) : Int := toSigned 32 (tF t 24 0 32)

/-- An index tensor: one dimension, INT32 (R126). -/
def idxSt (d : Desc) (n : Nat) : Nat :=
  firstSt [chk (d.ndim = 1 && d.n 0 = n) stBadField, chk (d.fmt = fINT32) stFormatIllegal]

/-- Position that an index names, when it lies in 0 to n - 1. -/
def idxAt (v : View) (d : Desc) (base : Int) (n i : Nat) : Option Nat :=
  let x := v.int d i [0, 0, 0, 0] - base
  if 0 ≤ x && x < n then some x.toNat else none

/-! ## GATHER (R126) -/

def formGather (_ : Nat) : Form :=
  { mask := bm 24 0 32, slots := [0, 1, 2], need := [0, 1, 2], rnd := false, streams := [], events := [], ports := []
    mx := false, gate := true, st := 0 }

def useGather (_ : State) (_ _ _ : Nat) (o : Op) : Use :=
  let src := dscD o.descs 0
  let idx := dscD o.descs 1
  let out := dscD o.descs 2
  let st := firstSt [
    chk (src.ndim = 2 && out.ndim = 2 && src.n 0 = out.n 0) stBadField,
    idxSt idx (out.n 1),
    moveFmt src out]
  if st ≠ 0 then Use.bad st else Use.tensors [src, idx] [out]

def gatherRes (v : View) (ds : List (Nat × Desc)) (t : Nat) : OpRes :=
  let src := dscD ds 0
  let idx := dscD ds 1
  let out := dscD ds 2
  let rows := (upto (out.n 1)).map (fun i => (i, idxAt v idx (idxBase t) (src.n 1) i))
  let bad := (rows.filter (fun r => r.2.isNone)).length
  { OpRes.ofStatus 0 with
    detail := bad
    flags := if bad = 0 then 0 else flIndexOob
    units := rows.flatMap (fun r =>
      match r.2 with
      | some k => let m := v.moveRun src [k, 0, 0, 0]; moveUnits out [r.1, 0, 0, 0] m.1 m.2
      | none => moveUnits out [r.1, 0, 0, 0] ((upto (out.n 0)).map (fun _ => 0)) ((upto out.nb).map (fun _ => 0))) }

/-- The bytes that GATHER reads: the indices, and the rows of SRC that they name (R114, R126). -/
def gatherReads (v : View) (t : Nat) (src idx out : Desc) : List (Nat × Nat) :=
  idx.dataRuns ++ src.coarseRun ++ out.coarseRun
    ++ (upto (out.n 1)).flatMap (fun i =>
      match idxAt v idx (idxBase t) (src.n 1) i with
      | some k => src.segRuns 0 (src.n 0) [k, 0, 0, 0]
      | none => [])

def startGather (s : State) (sl : Nat) (o : Op) : State × Op × Nat :=
  let src := dscD o.descs 0
  let out := dscD o.descs 2
  startPre (fun v => moveCoarse v src out) [src, out] (gatherReads ⟨s, sl⟩ o.tod src (dscD o.descs 1) out) []
    (fun v ds => gatherRes v ds o.tod) s sl o

def famGather : Family := ⟨formGather, useGather, startGather⟩

/-- GATHER. -/
def execGather (sl q : Nat) (s : State) : Res := done s (runTod s sl q (isOpc 0x18) famGather)

/-! ## SCATTER (R127) -/

def scComb (t : Nat) : Nat := tF t 16 0 2

def formScatter (_ : Nat) : Form :=
  { mask := bm 16 0 2 + bm 24 0 32, slots := [0, 1, 2], need := [0, 1, 2], rnd := false, streams := [], events := [], ports := []
    mx := false, gate := true, st := 0 }

def useScatter (_ : State) (_ _ t : Nat) (o : Op) : Use :=
  let src := dscD o.descs 0
  let idx := dscD o.descs 1
  let dst := dscD o.descs 2
  let st := firstSt [
    chk (src.ndim = 2 && dst.ndim = 2 && src.n 0 = dst.n 0) stBadField,
    idxSt idx (src.n 1),
    moveFmt src dst,
    chk (scComb t = 0 || ((src.fmt = fFP32 || src.fmt = fBF16 || src.fmt = fINT32) && dst.endAddr ≤ hbmTop)) stFormatIllegal]
  if st ≠ 0 then Use.bad st
  else
    let u := Use.tensors [src, idx] [dst]
    if scComb t = 0 then u else { u with writes := [], atoms := dst.writeRuns }

/-- Atomic code of a COMBINE and format. -/
def scCode (comb f : Nat) : Nat :=
  if f = fFP32 then (match comb with | 1 => atAddF32 | 2 => atMaxF32 | _ => atMinF32)
  else if f = fBF16 then (match comb with | 1 => atAddBf16 | 2 => atMaxBf16 | _ => atMinBf16)
  else (match comb with | 1 => atAddI32 | 2 => atMaxI32 | _ => atMinI32)

def scatterRes (v : View) (ds : List (Nat × Desc)) (t : Nat) : OpRes :=
  let src := dscD ds 0
  let idx := dscD ds 1
  let dst := dscD ds 2
  let rows := (upto (src.n 1)).map (fun i => (i, idxAt v idx (idxBase t) (dst.n 1) i))
  let bad := (rows.filter (fun r => r.2.isNone)).length
  let wb := elemBits dst.fmt / 8
  { OpRes.ofStatus 0 with
    detail := bad
    flags := if bad = 0 then 0 else flIndexOob
    units := rows.flatMap (fun r =>
      match r.2 with
      | none => []
      | some k =>
        if scComb t = 0 then let m := v.moveRun src [r.1, 0, 0, 0]; moveUnits dst [k, 0, 0, 0] m.1 m.2
        else
          (pieces 512 (upto (src.n 0))).map (fun js =>
            { WUnit.nil with atomics := js.map (fun j =>
                ⟨dst.runAddr [k, 0, 0, 0] + wb * j, scCode (scComb t) dst.fmt, v.code src j [r.1, 0, 0, 0], [j, k], dst.fmt⟩) })) }

/-- The bytes that SCATTER reads: the indices, the rows of SRC that go to a row of DST, and those rows of DST when they are combined
(R114, R127). -/
def scatterReads (v : View) (t : Nat) (src idx dst : Desc) : List (Nat × Nat) :=
  idx.dataRuns ++ src.coarseRun ++ dst.coarseRun
    ++ (upto (src.n 1)).flatMap (fun i =>
      match idxAt v idx (idxBase t) (dst.n 1) i with
      | some k => src.segRuns 0 (src.n 0) [i, 0, 0, 0] ++ (if scComb t = 0 then [] else dst.segRuns 0 (dst.n 0) [k, 0, 0, 0])
      | none => [])

def startScatter (s : State) (sl : Nat) (o : Op) : State × Op × Nat :=
  let src := dscD o.descs 0
  let dst := dscD o.descs 2
  startPre (fun v => if scComb o.tod = 0 then moveCoarse v src dst else 0) [src, dst]
    (scatterReads ⟨s, sl⟩ o.tod src (dscD o.descs 1) dst) []
    (fun v ds => scatterRes v ds o.tod) s sl o

def famScatter : Family := ⟨formScatter, useScatter, startScatter⟩

/-- SCATTER. -/
def execScatter (sl q : Nat) (s : State) : Res := done s (runTod s sl q (isOpc 0x19) famScatter)

/-! ## SEGMENT_REDUCE (R128) -/

def sgOp (t : Nat) : Nat := tF t 16 0 2
def sgIdx (t : Nat) : Bool := tB t 16 2 && (sgOp t = 1 || sgOp t = 2)

def formSegment (t : Nat) : Form :=
  let sl := [0, 1, 2] ++ (if sgIdx t then [3] else [])
  { mask := bm 16 0 3, slots := sl, need := sl, rnd := true, streams := [], events := [], ports := portTable t
    mx := false, gate := true, st := 0 }

def useSegment (_ : State) (_ _ t : Nat) (o : Op) : Use :=
  let x := dscD o.descs 0
  let offs := dscD o.descs 1
  let out := dscD o.descs 2
  let st := firstSt [
    chk (x.ndim = 2 && out.ndim = 2 && x.n 0 = out.n 0) stBadField,
    idxSt offs (out.n 1 + 1),
    chk (!sgIdx t || (dscD o.descs 3).size = out.size) stBadField,
    chk (outFmtOk out.fmt) stFormatIllegal,
    chk (!sgIdx t || (dscD o.descs 3).fmt = fINT32) stFormatIllegal]
  if st ≠ 0 then Use.bad st else Use.tensors [x, offs] (o.descs.filterMap (fun p => if 2 ≤ p.1 then some p.2 else none))

/-- Combination of one position's values over the rows of a segment, with the winning row. -/
def segVals (op : Nat) (xs : List (Nat × FV)) : FV × Int :=
  match xs with
  | [] => (FV.zero, -1)
  | x :: t =>
    match op with
    | 1 => match winner true xs with | some (i, v) => (v, i) | none => (FV.zero, -1)
    | 2 => match winner false xs with | some (i, v) => (v, i) | none => (FV.zero, -1)
    | 3 => (div32 (t.foldl (fun a y => add32 a y.2) x.2) (.fin false xs.length 0), 0)
    | _ => (t.foldl (fun a y => add32 a y.2) x.2, 0)

/-- Segment bounds until the first illegal one: (segment, first row, row past the last), and the illegal segment. -/
def segBounds (v : View) (offs : Desc) (rows : Nat) : List Nat → List (Nat × Nat × Nat) × Option Nat
  | [] => ([], none)
  | s :: t =>
    let a := v.int offs s [0, 0, 0, 0]
    let b := v.int offs (s + 1) [0, 0, 0, 0]
    if b < a || (s = 0 && a < 0) || (rows : Int) < b then ([], some s)
    else let r := segBounds v offs rows t; ((s, a.toNat, b.toNat) :: r.1, r.2)

def segmentRes (v : View) (ds : List (Nat × Desc)) (t : Nat) (cx : ConvCtx) : OpRes :=
  let x := dscD ds 0
  let out := dscD ds 2
  let cX := v.coarse x
  let c := v.coarse out
  let (segs, bad) := segBounds v (dscD ds 1) (x.n 1) (upto (out.n 1))
  let empty := (segs.filter (fun g => g.2.1 = g.2.2)).length
  { OpRes.ofStatus (if bad.isSome then stIndexRange else stOK) with
    detail := match bad with | some s => s | none => empty
    flags := if empty = 0 then 0 else flEmptySeg
    units := segs.flatMap (fun g =>
      let cs := [g.1, 0, 0, 0]
      let rs := (upto (out.n 0)).map (fun j =>
        segVals (sgOp t) ((fromLen g.2.1 (g.2.2 - g.2.1)).map (fun r => (r, v.elem32 x cX j [r, 0, 0, 0]))))
      let us := convRun out cx c cs (rs.map (fun r => vu 5 r.1))
      if sgIdx t then
        us.zipIdx.map (fun p =>
          let part := (rs.drop (512 * p.2)).take 512
          { p.1 with writes := p.1.writes ++ [int32Run (dscD ds 3) cs (512 * p.2) (part.map (·.2))] })
      else us) }

/-- The bytes that SEGMENT_REDUCE reads: the offsets up to the first illegal segment, and the rows of the segments before it (R114,
R128). -/
def segmentReads (v : View) (x offs out : Desc) : List (Nat × Nat) :=
  let (segs, bad) := segBounds v offs (x.n 1) (upto (out.n 1))
  offs.segRuns 0 (match bad with | some s => s + 2 | none => offs.n 0) [0, 0, 0, 0] ++ out.coarseRun
    ++ (if x.port then [] else x.coarseRun ++ segs.flatMap (fun g =>
      (fromLen g.2.1 (g.2.2 - g.2.1)).flatMap (fun r => x.segRuns 0 (x.n 0) [r, 0, 0, 0])))

def startSegment (s : State) (sl : Nat) (o : Op) : State × Op × Nat :=
  let x := dscD o.descs 0
  let out := dscD o.descs 2
  startWith [x, out] (segmentReads ⟨s, sl⟩ x (dscD o.descs 1) out) (rndAdvance o (regionCount out.fmt out.size))
    (fun v ds => segmentRes v ds o.tod (o.conv s sl)) s sl o

def famSegment : Family := ⟨formSegment, useSegment, startSegment⟩

/-- SEGMENT_REDUCE. -/
def execSegmentReduce (sl q : Nat) (s : State) : Res := done s (runTod s sl q (isOpc 0x1A) famSegment)

/-! ## SORT_KEYS (R130) -/

def skDesc (t : Nat) : Bool := tB t 16 0
def skVals (t : Nat) : Bool := tB t 16 1

def formSort (t : Nat) : Form :=
  let sl := [0] ++ (if skVals t then [1] else []) ++ [2] ++ (if skVals t then [3] else []) ++ [4]
  { mask := bm 16 0 2, slots := sl, need := sl, rnd := false, streams := [], events := [], ports := []
    mx := false, gate := true, st := 0 }

def keyFmt (f : Nat) : Bool := f = fINT32 || f = fFP32

/-- One-dimensional tensor of n elements. -/
def isVec (d : Desc) (n : Nat) : Bool := d.size = [n, 1, 1, 1, 1]

def useSort (_ : State) (_ _ t : Nat) (o : Op) : Use :=
  let k := dscD o.descs 0
  let ko := dscD o.descs 2
  let sc := dscD o.descs 4
  let n := k.n 0
  let st := firstSt [
    chk (n ≤ 2 ^ 24 && isVec k n && isVec ko n) stBadField,
    chk (keyFmt k.fmt) stFormatIllegal,
    moveFmt k ko,
    chk (!skVals t || (isVec (dscD o.descs 1) n && isVec (dscD o.descs 3) n)) stBadField,
    chk (!skVals t || keyFmt (dscD o.descs 1).fmt) stFormatIllegal,
    if skVals t then moveFmt (dscD o.descs 1) (dscD o.descs 3) else 0,
    chk (8 * n ≤ runBytes sc.fmt (sc.n 0) * prodN (sc.size.drop 1)) stBadField]
  if st ≠ 0 then Use.bad st
  else Use.tensors (if skVals t then [k, dscD o.descs 1] else [k]) (if skVals t then [ko, dscD o.descs 3, sc] else [ko, sc])

/-- Rank of a key: signed integers; FP32 in the order of R130, -0 equal to +0 and all NaNs equal. -/
def keyRank (f c : Nat) : Int :=
  if f = fINT32 then toSigned 32 c
  else if (dec32 c).isNan then 2 ^ 40
  else if c < 2 ^ 31 then c else -((c % 2 ^ 31 : Nat) : Int)

/-- Stable insertion behind every element that does not follow `x` in the order. -/
def insStable (x : Int × Nat × Nat) : List (Int × Nat × Nat) → List (Int × Nat × Nat)
  | [] => [x]
  | y :: t => if x.1 < y.1 then x :: y :: t else y :: insStable x t

/-- The stable sort of (rank, key, value). -/
def sortStable (l : List (Int × Nat × Nat)) : List (Int × Nat × Nat) := l.foldl (fun acc x => insStable x acc) []

def sortRes (v : View) (ds : List (Nat × Desc)) (t : Nat) : OpRes :=
  let k := dscD ds 0
  let n := k.n 0
  let items := (upto n).map (fun i =>
    let c := v.code k i [0, 0, 0, 0]
    let r := keyRank k.fmt c
    (if skDesc t then -r else r, c, if skVals t then v.code (dscD ds 1) i [0, 0, 0, 0] else 0))
  let out := sortStable items
  let vf := if skVals t then (dscD ds 1).fmt else 0
  let ku := moveUnits (dscD ds 2) [0, 0, 0, 0] (out.map (fun x => moveCode k.fmt x.2.1)) []
  let vl := if skVals t then moveUnits (dscD ds 3) [0, 0, 0, 0] (out.map (fun x => moveCode vf x.2.2)) [] else []
  { OpRes.ofStatus 0 with
    detail := if k.fmt = fFP32 then (items.filter (fun x => (dec32 x.2.1).isNan)).length else 0
    units := ku ++ vl }

/-- What SCRATCH holds afterwards is open: free bytes (log 24). -/
def scratchFree (s : State) (d : Desc) : State × List (Nat × List Byte) :=
  d.dataRuns.foldl (fun (acc : State × List (Nat × List Byte)) r =>
    let (bs, s) := acc.1.freeBytes r.2
    (s, acc.2 ++ [(r.1, bs)])) (s, [])

def startSort (s : State) (sl : Nat) (o : Op) : State × Op × Nat :=
  let k := dscD o.descs 0
  let r := startWith [] (readsOf (if skVals o.tod then [k, dscD o.descs 1] else [k])) [] (fun v ds => sortRes v ds o.tod) s sl o
  if r.2.2 ≠ 0 then r
  else
    let (s1, ws) := scratchFree r.1 (dscD o.descs 4)
    (s1, { r.2.1 with res := { r.2.1.res with units := { WUnit.nil with writes := ws } :: r.2.1.res.units } }, 0)

def famSort : Family := ⟨formSort, useSort, startSort⟩

/-- SORT_KEYS. -/
def execSortKeys (sl q : Nat) (s : State) : Res := done s (runTod s sl q (isOpc 0x1B) famSort)

end Sys2Proof.Machine
end

