-- ==== Sys2Proof/Machine/Fpu.lean ====
section
/-! DEFINITION. Floating-point arithmetic of the control cores' harts (spec/04 R137, R138): five rounding modes and the accrued exception
flags, as the RISC-V F extension and RVV 1.0 define them, which the manual names and does not repeat (PRESUMED, log 119). Values are FP32
codes; flags are NV 16, DZ 8, OF 4, UF 2, NX 1. -/

namespace Sys2Proof.Machine

/-- A rounding mode of frm. -/
inductive RMode where
  | rne | rtz | rdn | rup | rmm
  deriving DecidableEq, Repr

/-- The mode of an frm code; 5-7 are reserved. -/
def RMode.ofCode : Nat → Option RMode
  | 0 => some .rne
  | 1 => some .rtz
  | 2 => some .rdn
  | 3 => some .rup
  | 4 => some .rmm
  | _ => none

/-- Whether a magnitude k + rem/den is rounded away from zero. -/
def RMode.away (m : RMode) (neg : Bool) (k rem den : Nat) : Bool :=
  rem ≠ 0 && match m with
    | .rne => den < 2 * rem || (2 * rem = den && k % 2 = 1)
    | .rtz => false
    | .rdn => neg
    | .rup => !neg
    | .rmm => den ≤ 2 * rem

/-- The magnitude n / d in units of 2^q, rounded; and whether it was inexact. -/
def roundQ (m : RMode) (neg : Bool) (n d : Nat) (q : Int) : Nat × Bool :=
  let (k, rem, den) := scaleQ n d q
  (if m.away neg k rem den then k + 1 else k, rem ≠ 0)

/-- Round an exact value once to a format of `p` bits with smallest subnormal 2^emin and largest exponent emax; an exact zero takes the
sign `sz`. Tininess is found after rounding. -/
def roundFl (p : Nat) (emin emax : Int) (m : RMode) (sz : Bool) (x : Ex) : FV × Nat :=
  if x.n = 0 then (.fin sz 0 0, 0)
  else
    let s := decide (x.n < 0)
    let n := x.n.natAbs
    let free := ilog2Q n x.d - ((p : Int) - 1)
    let q := max free emin
    let r := roundQ m s n x.d q
    if (⟨((r.1 * pow2N q : Nat) : Int), pow2D q⟩ : Ex).lt (Ex.pow2 (emax + 1)) then
      let u := (roundQ m s n x.d free).1
      let tiny := (⟨((u * pow2N free : Nat) : Int), pow2D free⟩ : Ex).lt (Ex.pow2 (emin + p - 1))
      (.fin s r.1 (if r.1 = 0 then 0 else q), if r.2 then (if tiny then 3 else 1) else 0)
    else if (match m with | .rne => true | .rmm => true | .rtz => false | .rdn => s | .rup => !s) then (.inf s, 5)
    else (.fin s (2 ^ p - 1) (emax + 1 - p), 5)

/-- Rounding to FP32. -/
def round32 (m : RMode) (sz : Bool) (x : Ex) : FV × Nat := roundFl 24 (-149) 127 m sz x

/-! ## Arithmetic on values -/

def flAdd (m : RMode) (a b : FV) : FV × Nat :=
  match a, b with
  | .nan, _ => (.nan, 0)
  | _, .nan => (.nan, 0)
  | .inf s, .inf t => if s = t then (.inf s, 0) else (.nan, 16)
  | .inf s, _ => (.inf s, 0)
  | _, .inf t => (.inf t, 0)
  | .fin s k e, .fin t n f =>
    if k = 0 && n = 0 then (.fin (if s = t then s else decide (m = .rdn)) 0 0, 0)
    else round32 m (decide (m = .rdn)) ((FV.fin s k e).toEx.add (FV.fin t n f).toEx)

def flMul (m : RMode) (a b : FV) : FV × Nat :=
  match a, b with
  | .nan, _ => (.nan, 0)
  | _, .nan => (.nan, 0)
  | .inf s, .inf t => (.inf (s != t), 0)
  | .inf s, .fin t n _ => if n = 0 then (.nan, 16) else (.inf (s != t), 0)
  | .fin s k _, .inf t => if k = 0 then (.nan, 16) else (.inf (s != t), 0)
  | .fin s k e, .fin t n f => round32 m (s != t) ((FV.fin s k e).toEx.mul (FV.fin t n f).toEx)

def flDiv (m : RMode) (a b : FV) : FV × Nat :=
  match a, b with
  | .nan, _ => (.nan, 0)
  | _, .nan => (.nan, 0)
  | .inf _, .inf _ => (.nan, 16)
  | .inf s, .fin t _ _ => (.inf (s != t), 0)
  | .fin s _ _, .inf t => (.fin (s != t) 0 0, 0)
  | .fin s k e, .fin t n f =>
    if n = 0 then (if k = 0 then (.nan, 16) else (.inf (s != t), 8))
    else round32 m (s != t) ((FV.fin s k e).toEx.div (FV.fin t n f).toEx)

/-- a × b + c; the product of infinity and zero is invalid whatever c is. -/
def flFma (m : RMode) (a b c : FV) : FV × Nat :=
  if (a.isInf && b.isZero) || (a.isZero && b.isInf) then (.nan, 16)
  else if a.isNan || b.isNan || c.isNan then (.nan, 0)
  else
    let ps := a.sign != b.sign
    if a.isInf || b.isInf then
      match c with
      | .inf t => if t = ps then (.inf ps, 0) else (.nan, 16)
      | _ => (.inf ps, 0)
    else match c with
      | .inf t => (.inf t, 0)
      | _ =>
        let p := a.toEx.mul b.toEx
        if p.n = 0 && c.isZero then (.fin (if ps = c.sign then ps else decide (m = .rdn)) 0 0, 0)
        else round32 m (decide (m = .rdn)) (p.add c.toEx)

/-- Square root: 60 extra bits of ⌊√⌋ and a sticky bit decide every rounding. -/
def flSqrt (m : RMode) : FV → FV × Nat
  | .nan => (.nan, 0)
  | .inf s => if s then (.nan, 16) else (.inf false, 0)
  | .fin s k e =>
    if k = 0 then (.fin s 0 0, 0)
    else if s then (.nan, 16)
    else
      let h : Int := e / 2 - 60
      let n := k * pow2N (e - 2 * h)
      let r := isqrt n
      let v : Nat := 2 * r + (if r * r = n then 0 else 1)
      round32 m false ⟨v * pow2N (h - 1), pow2D (h - 1)⟩

/-! ## Operations on codes -/

/-- Whether an FP32 code is a signaling NaN. -/
def sNan (c : Nat) : Bool := bitsN c 23 8 = 255 && bitsN c 0 23 ≠ 0 && !bitN c 22

/-- A result from operand codes: a signaling operand is invalid, and a NaN is the canonical one. -/
def ofCodes (cs : List Nat) (r : FV × Nat) : Nat × Nat := (enc32 r.1, r.2 ||| (if cs.any sNan then 16 else 0))

def fAdd (m : RMode) (a b : Nat) : Nat × Nat := ofCodes [a, b] (flAdd m (dec32 a) (dec32 b))
def fSub (m : RMode) (a b : Nat) : Nat × Nat := ofCodes [a, b] (flAdd m (dec32 a) (dec32 b).neg)
def fMul (m : RMode) (a b : Nat) : Nat × Nat := ofCodes [a, b] (flMul m (dec32 a) (dec32 b))
def fDiv (m : RMode) (a b : Nat) : Nat × Nat := ofCodes [a, b] (flDiv m (dec32 a) (dec32 b))
def fSqrt (m : RMode) (a : Nat) : Nat × Nat := ofCodes [a] (flSqrt m (dec32 a))

/-- ± (a × b) ± c. -/
def fFma (m : RMode) (negP negC : Bool) (a b c : Nat) : Nat × Nat :=
  let x := dec32 a
  let z := dec32 c
  ofCodes [a, b, c] (flFma m (if negP then x.neg else x) (dec32 b) (if negC then z.neg else z))

/-- Sign injection: 0 copied, 1 inverted, 2 exclusive or. -/
def fSgn (k a b : Nat) : Nat :=
  let s := b / 2 ^ 31 % 2
  a % 2 ^ 31 + 2 ^ 31 * (match k with | 0 => s | 1 => 1 - s | _ => (a / 2 ^ 31 + s) % 2)

/-- Minimum or maximum number: a NaN gives way to a number, and -0 is below +0. -/
def fMinMax (isMax : Bool) (a b : Nat) : Nat × Nat :=
  let x := dec32 a
  let y := dec32 b
  let fl := if sNan a || sNan b then 16 else 0
  if x.isNan && y.isNan then (0x7FC00000, fl)
  else if x.isNan then (b, fl)
  else if y.isNan then (a, fl)
  else
    let below := x.lt y || (x.eqv y && bitN a 31 && !bitN b 31)
    (if below = isMax then b else a, fl)

/-- Comparisons: 0 equal, 1 less, 2 less or equal. Only the equality is quiet. -/
def fCmp (k a b : Nat) : Bool × Nat :=
  let x := dec32 a
  let y := dec32 b
  if x.isNan || y.isNan then (false, if k ≠ 0 || sNan a || sNan b then 16 else 0)
  else (match k with | 0 => x.eqv y | 1 => x.lt y | _ => x.lt y || x.eqv y, 0)

/-- The class mask of a code. -/
def fClass (a : Nat) : Nat :=
  let s := bitN a 31
  let e := bitsN a 23 8
  let m := bitsN a 0 23
  2 ^ (if e = 255 then (if m = 0 then (if s then 0 else 7) else if bitN a 22 then 9 else 8)
    else if e = 0 then (if m = 0 then (if s then 3 else 4) else if s then 2 else 5)
    else if s then 1 else 6)

/-- To an integer of `w` bits, as its bits: a NaN is the largest value, and a value out of range the nearest one, both invalid. -/
def fToInt (m : RMode) (signed : Bool) (w a : Nat) : Nat × Nat :=
  let top : Int := if signed then 2 ^ (w - 1) - 1 else 2 ^ w - 1
  let low : Int := if signed then -2 ^ (w - 1) else 0
  match dec32 a with
  | .nan => (ofSigned w top, 16)
  | .inf s => (ofSigned w (if s then low else top), 16)
  | .fin s k e =>
    let r := roundQ m s (k * pow2N e) (pow2D e) 0
    let v : Int := if s then -(r.1 : Int) else r.1
    if top < v then (ofSigned w top, 16)
    else if v < low then (ofSigned w low, 16)
    else (ofSigned w v, if r.2 then 1 else 0)

/-- From an integer. -/
def fOfInt (m : RMode) (i : Int) : Nat × Nat := let r := round32 m false (Ex.ofInt i); (enc32 r.1, r.2)

/-! ## Narrow formats (Zvfhmin, Zvfbfmin) -/

/-- binary16 to FP32, exact. -/
def fWidenH (c : Nat) : Nat × Nat := (enc32 (dec16 c), if bitsN c 10 5 = 31 && bitsN c 0 10 ≠ 0 && !bitN c 9 then 16 else 0)
/-- BF16 to FP32, exact. -/
def fWidenB (c : Nat) : Nat × Nat := (enc32 (decBf16 c), if sNan (c * 65536) then 16 else 0)

/-- FP32 to a narrower format: its bits, range and encoder. -/
def fNarrow (p : Nat) (emin emax : Int) (enc : FV → Nat) (m : RMode) (a : Nat) : Nat × Nat :=
  match dec32 a with
  | .nan => (enc .nan, if sNan a then 16 else 0)
  | .inf s => (enc (.inf s), 0)
  | x => let r := roundFl p emin emax m x.sign x.toEx; (enc r.1, r.2)

def fNarrowH (m : RMode) (a : Nat) : Nat × Nat := fNarrow 11 (-24) 15 enc16 m a
def fNarrowB (m : RMode) (a : Nat) : Nat × Nat := fNarrow 8 (-133) 127 encBf16 m a

/-! ## Estimates of seven bits (vfrec7, vfrsqrt7) -/

/-- ⌊a / b⌉ for positive numbers, no tie arising. -/
def nearQ (a b : Nat) : Nat := (2 * a + b) / (2 * b)

/-- The seven fraction bits of the reciprocal at the middle of interval `i` of 128 in [1, 2). -/
def recBits (i : Nat) : Nat := nearQ 65536 (257 + 2 * i) - 128

/-- The seven fraction bits of the reciprocal square root at the middle of interval `j` of 64, in [1, 2) for an odd exponent and in [2, 4)
for an even one: the integer nearest to 2^8 / √v, taken by its square. -/
def rsqrtBits (odd : Bool) (j : Nat) : Nat :=
  let d := (129 + 2 * j) * (if odd then 1 else 2)
  (isqrt (4 * 65536 * 128 / d) + 1) / 2 - 128

/-- Normalize a subnormal fraction of 23 bits: its exponent, and the fraction without its leading one. -/
def normSub (m : Nat) : Int × Nat :=
  let z := 22 - Nat.log2 m
  (-(z : Int), m * 2 ^ (z + 1) % 2 ^ 23)

/-- vfrec7. -/
def fRec7 (rm : RMode) (a : Nat) : Nat × Nat :=
  let s := a / 2 ^ 31
  let sg := s * 2 ^ 31
  let e := bitsN a 23 8
  let m := bitsN a 0 23
  if e = 255 then (if m = 0 then (sg, 0) else (0x7FC00000, if sNan a then 16 else 0))
  else if e = 0 && m = 0 then (sg + 0x7F800000, 8)
  else
    let (ex, sig) := if e = 0 then normSub m else ((e : Int), m)
    if ex < -1 then
      (sg + 0x7F800000 - (if rm = .rtz || (rm = .rdn && s = 0) || (rm = .rup && s = 1) then 1 else 0), 5)
    else
      let o := recBits (sig / 2 ^ 16) * 2 ^ 16
      let oe : Int := 253 - ex
      (sg + (if 0 < oe then oe.toNat * 2 ^ 23 + o else if oe = 0 then (o + 2 ^ 23) / 2 else (o + 2 ^ 23) / 4), 0)

/-- vfrsqrt7. -/
def fRsqrt7 (a : Nat) : Nat × Nat :=
  let s := bitN a 31
  let e := bitsN a 23 8
  let m := bitsN a 0 23
  if e = 255 && m ≠ 0 then (0x7FC00000, if sNan a then 16 else 0)
  else if e = 0 && m = 0 then (a + 0x7F800000, 8)
  else if s then (0x7FC00000, 16)
  else if e = 255 then (0, 0)
  else
    let (ex, sig) := if e = 0 then normSub m else ((e : Int), m)
    (((380 - ex) / 2).toNat * 2 ^ 23 + rsqrtBits (ex % 2 = 1) (sig / 2 ^ 17) * 2 ^ 16, 0)

end Sys2Proof.Machine
end

