-- ==== Sys2Proof/Machine/Hart.lean ====
section
/-! DEFINITION. A hart that runs a VEC_CALL kernel: its registers, its requests to memory under R110, R111 and R313, and the atomics of the
control cores (spec/04 R137-R139; spec/12 R317, R318, R320). What an instruction does is that of the RISC-V standards the manual names
(PRESUMED, log 119). -/

namespace Sys2Proof.Machine

/-- Why a hart stops running its kernel: a trap with its cause (8 is ecall from U-mode), or an uncorrectable word of local memory, which
ends the operation itself (R114). -/
inductive Trap where
  | cause (n : Nat)
  | uncorr
  deriving DecidableEq, Repr

/-- The core a kernel runs for: its slot, and the tag, queue and context of its operation. -/
structure KCtx where
  sl : Nat
  tag : Nat
  q : Nat
  ctx : Nat
  deriving DecidableEq, Repr

/-- A request to memory: the state after it, and what it read or why it traps. -/
inductive MemR where
  | ok (s : State) (v : Nat)
  | trap (s : State) (t : Trap)
  deriving DecidableEq, Repr

/-! ## Registers -/

/-- An integer register; x0 reads as zero. -/
def Hart.xr (h : Hart) (r : Nat) : Word := if r = 0 then 0#64 else nth 0#64 h.x r

/-- Write an integer register; x0 discards it. -/
def Hart.setX (h : Hart) (r : Nat) (v : Word) : Hart := if r = 0 then h else { h with x := setNth h.x r v }

/-- The FP32 code in a floating-point register. -/
def Hart.fr (h : Hart) (r : Nat) : Nat := (nth 0#32 h.f r).toNat

def Hart.setFr (h : Hart) (r v : Nat) : Hart := { h with f := setNth h.f r (BitVec.ofNat 32 v) }

/-- Exception flags accrue. -/
def Hart.accrue (h : Hart) (fl : Nat) : Hart := { h with fflags := h.fflags ||| fl }

/-- The rounding mode an instruction names: 7 is frm. -/
def Hart.rm (h : Hart) (c : Nat) : Option RMode := RMode.ofCode (if c = 7 then h.frm else c)

/-! ## Requests (R110, R111, R313, R320) -/

/-- Number of a hart in `State.lr`. -/
def hartId (cl hart : Nat) : Nat := 8 * cl + hart

/-- The reservations of one hart, kept over its own accesses. -/
def keepLr (s t : State) (h : Nat) : State := { t with lr := t.lr ++ s.lr.filter (fun p => p.1 = h && !t.lr.contains p) }

def KCtx.hid (c : KCtx) (s : State) : Nat := hartId (clusterOf s c.sl) (hartOf s c.sl)

/-- Bytes of HBM count for the kernel's operation (R349). -/
def KCtx.count (c : KCtx) (s : State) (a n : Nat) : State :=
  if a < hbmTop then s.modCore c.sl (fun k => { k with kernel := k.kernel.map (fun x => { x with hbm := x.hbm + n }) }) else s

/-- An access the queue's windows or the context's do not grant: MEM_PROTECT is raised, and the access traps. -/
def KCtx.refused (c : KCtx) (s : State) (a t : Nat) : MemR := .trap (raiseProt s c.sl c.q c.tag a) (.cause t)

/-- Poisoned bytes: an access fault in HBM, and the end of the operation in local memory. -/
def poisonTrap (a t : Nat) : Trap := if a < hbmTop then .cause t else .uncorr

/-- Read `n` bytes for a load or a fetch; `t` is the cause of its access fault. -/
def KCtx.read (c : KCtx) (s : State) (a n t : Nat) : MemR :=
  if !runOk s c.sl c.q c.ctx 1 a n then c.refused s a t
  else match xlate s c.sl a with
    | none => c.refused s a t
    | some p =>
      let s1 := c.count (touchReads s c.sl c.ctx [(a, n)]) a n
      if poisoned s1 p n then .trap s1 (poisonTrap a t) else .ok s1 (s1.num p n)

/-- Whether an access of `n` bytes may go on at its address. -/
def alignedOk (scalar : Bool) (a n : Nat) : Bool := a % n = 0 || (scalar && Config.misalignedOk)

/-- A load. -/
def KCtx.load (c : KCtx) (s : State) (scalar : Bool) (a n : Nat) : MemR :=
  if alignedOk scalar a n then c.read s a n 5 else .trap s (.cause 4)

/-- Bytes written by a request: a poisoned line that is not written whole answers with an access fault (R320). -/
def KCtx.write (c : KCtx) (s : State) (a : Nat) (bs : List Byte) : MemR :=
  let n := bs.length
  if !runOk s c.sl c.q c.ctx 2 a n then c.refused s a 7
  else if a < hbmTop && !(a % 64 = 0 && n = 64) && poisoned s a n then .trap s (.cause 5)
  else .ok (keepLr s (c.count (coreWrite s c.sl c.ctx a bs) a n) (c.hid s)) 0

/-- A store. -/
def KCtx.store (c : KCtx) (s : State) (scalar : Bool) (a n v : Nat) : MemR :=
  if alignedOk scalar a n then c.write s a (leBytes n v) else .trap s (.cause 6)

/-! ## Atomics (R317, R318) -/

/-- Result of an AMO on the old value. -/
def amoVal (op : AmoOp) (w old x : Nat) : Nat :=
  match op with
  | .swap => x % 2 ^ w
  | .add => (old + x) % 2 ^ w
  | .xor => (old ^^^ x) % 2 ^ w
  | .and => old &&& x
  | .or => (old ||| x) % 2 ^ w
  | .min => if toSigned w x < toSigned w old then x % 2 ^ w else old
  | .max => if toSigned w old < toSigned w x then x % 2 ^ w else old
  | .minu => if x % 2 ^ w < old then x % 2 ^ w else old
  | .maxu => if old < x % 2 ^ w then x % 2 ^ w else old

/-- An AMO of a kernel: in the slice on HBM, where it needs ATOMIC, and in place in local memory (log 121). -/
def KCtx.amo (c : KCtx) (s : State) (op : AmoOp) (a n x : Nat) : MemR :=
  if a % n ≠ 0 then .trap s (.cause 6)
  else if !runOk s c.sl c.q c.ctx 3 a n then c.refused s a 7
  else match xlate s c.sl a with
    | none => c.refused s a 7
    | some p =>
      if poisoned s p n then .trap s (poisonTrap a 5)
      else
        let old := s.num p n
        let bs := leBytes n (amoVal op (8 * n) old x)
        if a < hbmTop then
          let t := keepLr s (hbmWrite s (opHint s c.sl c.ctx 3 a) a bs) (c.hid s)
          .ok (c.count (t.addCtr (rSlice (dieOfAddr a) 0x28) 1) a n) old
        else .ok (coreWrite s c.sl c.ctx a bs) old

/-- LR of a kernel: the line is taken exclusive through the directory, which only HBM has (log 121). -/
def KCtx.lr (c : KCtx) (s : State) (a n : Nat) : MemR :=
  if a % n ≠ 0 then .trap s (.cause 4)
  else if hbmTop < a + n then .trap s (.cause 5)
  else match c.read s a n 5 with
    | .trap s t => .trap s t
    | .ok s v => .ok { s with lr := s.lr.filter (fun p => p.1 ≠ c.hid s) ++ [(c.hid s, a / 64)] } v

/-- SC of a kernel: 0 when no other agent has written the line since the LR, else 1. -/
def KCtx.sc (c : KCtx) (s : State) (a n x : Nat) : MemR :=
  if a % n ≠ 0 then .trap s (.cause 6)
  else if hbmTop < a + n then .trap s (.cause 7)
  else
    let drop (t : State) : State := { t with lr := t.lr.filter (fun p => p.1 ≠ c.hid s) }
    if s.lr.contains (c.hid s, a / 64) then
      match c.write s a (leBytes n x) with
      | .trap s t => .trap s t
      | .ok t _ => .ok (drop t) 0
    else if runOk s c.sl c.q c.ctx 2 a n then .ok (drop s) 1
    else c.refused s a 7

end Sys2Proof.Machine
end

