-- ==== Sys2Proof/Machine/Rvv.lean ====
section
/-! DEFINITION. Vector instructions of a kernel's hart: RISC-V Vector 1.0 in the Zve32f subset with VLEN 16,384, Zvfhmin and Zvfbfmin
(spec/04 R137, R138). An encoding the standard reserves is an illegal instruction (log 119). -/

namespace Sys2Proof.Machine

/-! ## Configuration -/

/-- The fields of a legal vtype: element width, log2 of LMUL, and the tail and mask policies. -/
structure VType where
  sew : Nat
  lm : Int
  ta : Bool
  ma : Bool
  deriving DecidableEq, Repr

/-- vtype as R137 allows it: SEW up to 32, and LMUL at least SEW / ELEN; none is vill. -/
def vtypeOf (t : Nat) : Option VType :=
  let k := bitsN t 3 3
  let lm : Int := toSigned 3 (bitsN t 0 3)
  if t / 256 ≠ 0 || 2 < k || lm = -4 || lm < (k : Int) - 2 then none
  else some ⟨8 * 2 ^ k, lm, bitN t 6, bitN t 7⟩

/-- Elements of a register. -/
def perReg (w : Nat) : Nat := 16384 / w

/-- VLMAX. -/
def VType.max (c : VType) : Nat := perReg c.sew * pow2N c.lm / pow2D c.lm

/-- vsetvl: the new vtype and vl. An AVL above VLMAX gives VLMAX; none keeps vl, where VLMAX still holds it. -/
def setVl (h : Hart) (rd t : Nat) (avl : Option Nat) : Hart :=
  let bad : Hart := { h with vtype := 0x8000000000000000#64, vl := 0, vstart := 0 }
  match vtypeOf t with
  | none => bad.setX rd 0#64
  | some c =>
    if avl.isNone && c.max < h.vl then bad.setX rd 0#64
    else
      let n := min (avl.getD h.vl) c.max
      ({ h with vtype := BitVec.ofNat 64 t, vl := n, vstart := 0 }).setX rd (BitVec.ofNat 64 n)

/-! ## Groups of registers -/

/-- A register group: its first register, the width of its elements and log2 of its EMUL. -/
structure Grp where
  r : Nat
  w : Nat
  em : Int
  deriving DecidableEq, Repr

/-- Registers of a group. -/
def Grp.regs (g : Grp) : Nat := pow2N g.em

/-- EMUL between 1/8 and 8, and a register that its multiple allows. -/
def Grp.ok (g : Grp) : Bool := -3 ≤ g.em && g.em ≤ 3 && g.r % g.regs = 0

def Grp.meets (a b : Grp) : Bool := a.r < b.r + b.regs && b.r < a.r + a.regs

/-- Whether a destination may overlap a source: of the same width; narrower, in the source's lowest part; wider, with the source in the
destination's highest part. -/
def Grp.mayCover (d a : Grp) : Bool :=
  !d.meets a || d.w = a.w || (d.w < a.w && d.r = a.r) || (a.w < d.w && 0 ≤ a.em && a.r + a.regs = d.r + d.regs)

/-- The mask register as a source. -/
def v0 : Grp := ⟨0, 1, 0⟩

/-- Sources of an instruction: each legal, and no register read with two widths. -/
def srcOk (vm : Bool) (gs : List Grp) : Bool :=
  let all := if vm then gs else v0 :: gs
  gs.all (fun g => g.ok) && all.all (fun a => all.all (fun b => !a.meets b || a.w = b.w))

/-- A destination group, its sources and its mask. -/
def dstOk (vm : Bool) (d : Grp) (gs : List Grp) : Bool :=
  d.ok && srcOk vm gs && gs.all (fun g => d.mayCover g) && (vm || !d.meets v0)

/-- A destination that no source may overlap. -/
def apart (vm : Bool) (d : Grp) (gs : List Grp) : Bool := dstOk vm d gs && gs.all (fun g => !d.meets g)

/-- Element `i` from a register on. -/
def Hart.el (h : Hart) (g : Grp) (i : Nat) : Nat :=
  ((nth 0#16384 h.v (g.r + i / perReg g.w)).toNat >>> (g.w * (i % perReg g.w))) % 2 ^ g.w

/-- Whether element `i` is active. -/
def Hart.act (h : Hart) (vm : Bool) (i : Nat) : Bool := vm || h.el v0 i = 1

/-- Registers from `r` on take the elements `new` gives for their index and old value. -/
def Hart.putRegs (h : Hart) (r w n : Nat) (new : Nat → Nat → Nat) : Hart :=
  (upto n).foldl (fun h j =>
    let img := (upto (perReg w)).foldr (fun k acc => acc * 2 ^ w + new (j * perReg w + k) (h.el ⟨r + j, w, 0⟩ k) % 2 ^ w) 0
    { h with v := setNth h.v (r + j) (BitVec.ofNat 16384 img) }) h

/-- An agnostic element: kept or set to ones. -/
def agnostic (w i old : Nat) : Nat := if Config.agnosticOnes w i then 2 ^ w - 1 else old

/-- The body of an instruction: from vstart up to `vl`, active elements take `new` and its flags accrue; the others and the tail follow
their policies. Without a body nothing changes. Answers the hart and the flags. -/
def vbody (h : Hart) (ta ma vm : Bool) (vl : Nat) (d : Grp) (new : Nat → Nat × Nat) : Hart × Nat :=
  if vl ≤ h.vstart then ({ h with vstart := 0 }, 0)
  else
    let fl := (upto vl).foldl (fun f i => if h.vstart ≤ i && h.act vm i then f ||| (new i).2 else f) 0
    let g := h.putRegs d.r d.w d.regs (fun i old =>
      if i < h.vstart then old
      else if i < vl then (if h.act vm i then (new i).1 else if ma then agnostic d.w i old else old)
      else if ta then agnostic d.w i old else old)
    ({ g with vstart := 0 }, fl)

/-- An instruction with a vector result under vtype. -/
def vop (h : Hart) (c : VType) (vm : Bool) (d : Grp) (new : Nat → Nat × Nat) : Hart × Nat := vbody h c.ta c.ma vm h.vl d new

/-- One with a mask result: its tail is agnostic always. -/
def vmask (h : Hart) (c : VType) (vm : Bool) (r : Nat) (new : Nat → Bool × Nat) : Hart × Nat :=
  vbody h true c.ma vm h.vl ⟨r, 1, 0⟩ (fun i => let y := new i; (b2n y.1, y.2))

/-- Fixed-point results accrue saturation. -/
def satOf (r : Hart × Nat) : Option Hart := some { r.1 with vxsat := r.1.vxsat ||| r.2 }
/-- Floating-point results accrue exceptions. -/
def excOf (r : Hart × Nat) : Option Hart := some (r.1.accrue r.2)
/-- Other results. -/
def resOf (r : Hart × Nat) : Option Hart := some r.1

/-- Only a legal encoding runs. -/
def vif (ok : Bool) (r : Option Hart) : Option Hart := if ok then r else none

/-! ## Integer elements -/

/-- Bits of an integer result. -/
def iw (w : Nat) (i : Int) : Nat := ofSigned w i

/-- Round a shift right by `d` bits under vxrm: nearest up, nearest even, down, to odd. -/
def rshift (rm d : Nat) (x : Int) : Int :=
  let t := x / 2 ^ d
  let low := (x % 2 ^ d).toNat
  let half := 2 ^ d / 2
  if d = 0 then x
  else match rm with
    | 0 => if half ≤ low then t + 1 else t
    | 1 => if half < low || (low = half && t % 2 ≠ 0) then t + 1 else t
    | 2 => t
    | _ => if low ≠ 0 && t % 2 = 0 then t + 1 else t

/-- Saturate to a range, with the saturation flag. -/
def sat (w : Nat) (signed : Bool) (x : Int) : Nat × Nat :=
  let top : Int := if signed then 2 ^ (w - 1) - 1 else 2 ^ w - 1
  let low : Int := if signed then -2 ^ (w - 1) else 0
  if top < x then (iw w top, 1) else if x < low then (iw w low, 1) else (iw w x, 0)

/-- OPI operations on elements of `w` bits: `a` of vs2, `b` the other one. -/
def opiEl (f6 w rm a b : Nat) : Option (Nat × Nat) :=
  let sa := toSigned w a
  let sb := toSigned w b
  let k := b % w
  let one (x : Nat) : Option (Nat × Nat) := some (x % 2 ^ w, 0)
  match f6 with
  | 0x00 => one (a + b)
  | 0x02 => one (subMod w a b)
  | 0x03 => one (subMod w b a)
  | 0x04 => one (min a b)
  | 0x05 => one (if sa < sb then a else b)
  | 0x06 => one (max a b)
  | 0x07 => one (if sa < sb then b else a)
  | 0x09 => one (a &&& b)
  | 0x0A => one (a ||| b)
  | 0x0B => one (a ^^^ b)
  | 0x20 => some (sat w false ((a : Int) + b))
  | 0x21 => some (sat w true (sa + sb))
  | 0x22 => some (sat w false ((a : Int) - b))
  | 0x23 => some (sat w true (sa - sb))
  | 0x25 => one (a * 2 ^ k)
  | 0x27 => some (sat w true (rshift rm (w - 1) (sa * sb)))
  | 0x28 => one (a / 2 ^ k)
  | 0x29 => one (iw w (sa / 2 ^ k))
  | 0x2A => one (iw w (rshift rm k a))
  | 0x2B => one (iw w (rshift rm k sa))
  | _ => none

/-- Which OPI operations have the forms .vv, .vx and .vi. -/
def opiForm (f6 f3 : Nat) : Bool :=
  if f3 = 0 then f6 ≠ 0x03 else if f3 = 4 then true
  else [0x00, 0x03, 0x09, 0x0A, 0x0B, 0x20, 0x21, 0x25, 0x28, 0x29, 0x2A, 0x2B].contains f6

/-- Compares of OPI: the forms and the result. -/
def opiCmp (f6 f3 w a b : Nat) : Option Bool :=
  let sa := toSigned w a
  let sb := toSigned w b
  match f6 with
  | 0x18 => some (a = b)
  | 0x19 => some (a ≠ b)
  | 0x1A => if f3 = 3 then none else some (a < b)
  | 0x1B => if f3 = 3 then none else some (sa < sb)
  | 0x1C => some (a ≤ b)
  | 0x1D => some (sa ≤ sb)
  | 0x1E => if f3 = 0 then none else some (b < a)
  | 0x1F => if f3 = 0 then none else some (sb < sa)
  | _ => none

/-- OPM operations on elements of one width: averaging, division, multiplication. -/
def opmEl (f6 w rm a b : Nat) : Option Nat :=
  let sa := toSigned w a
  let sb := toSigned w b
  match f6 with
  | 0x08 => some (iw w (rshift rm 1 ((a : Int) + b)))
  | 0x09 => some (iw w (rshift rm 1 (sa + sb)))
  | 0x0A => some (iw w (rshift rm 1 ((a : Int) - b)))
  | 0x0B => some (iw w (rshift rm 1 (sa - sb)))
  | 0x20 => some (if b = 0 then 2 ^ w - 1 else a / b)
  | 0x21 => some (if b = 0 then 2 ^ w - 1 else iw w (sa.tdiv sb))
  | 0x22 => some (if b = 0 then a else a % b)
  | 0x23 => some (if b = 0 then a else iw w (sa.tmod sb))
  | 0x24 => some (a * b / 2 ^ w)
  | 0x25 => some (a * b % 2 ^ w)
  | 0x26 => some (iw w (sa * b / 2 ^ w))
  | 0x27 => some (iw w (sa * sb / 2 ^ w))
  | _ => none

/-- Multiply-add: `d` of vd, `b` of vs1, `a` of vs2. -/
def opmMac (f6 w d b a : Nat) : Option Nat :=
  match f6 with
  | 0x29 => some (iw w ((b : Int) * d + a))
  | 0x2B => some (iw w (a - (b : Int) * d))
  | 0x2D => some (iw w ((b : Int) * a + d))
  | 0x2F => some (iw w (d - (b : Int) * a))
  | _ => none

/-- Widening operations: element of vs2 and of the other operand, of the widths the form gives, and of vd. -/
def opmWide (f6 w a b d : Nat) : Option Nat :=
  let sa := toSigned w a
  let sb := toSigned w b
  let dd : Int := toSigned (2 * w) d
  let wa : Int := toSigned (2 * w) a
  match f6 with
  | 0x30 => some (a + b)
  | 0x31 => some (iw (2 * w) (sa + sb))
  | 0x32 => some (iw (2 * w) ((a : Int) - b))
  | 0x33 => some (iw (2 * w) (sa - sb))
  | 0x34 => some ((a + b) % 2 ^ (2 * w))
  | 0x35 => some (iw (2 * w) (wa + sb))
  | 0x36 => some (iw (2 * w) ((a : Int) - b))
  | 0x37 => some (iw (2 * w) (wa - sb))
  | 0x38 => some (a * b)
  | 0x3A => some (iw (2 * w) (sa * b))
  | 0x3B => some (iw (2 * w) (sa * sb))
  | 0x3C => some (iw (2 * w) (dd + (a : Int) * b))
  | 0x3D => some (iw (2 * w) (dd + sa * sb))
  | 0x3E => some (iw (2 * w) (dd + sa * b))
  | 0x3F => some (iw (2 * w) (dd + a * sb))
  | _ => none

/-- Integer reductions, by function code 0-7. -/
def redEl (k w acc x : Nat) : Nat :=
  match k with
  | 0 => (acc + x) % 2 ^ w
  | 1 => acc &&& x
  | 2 => acc ||| x
  | 3 => acc ^^^ x
  | 4 => min acc x
  | 5 => if toSigned w x < toSigned w acc then x else acc
  | 6 => max acc x
  | _ => if toSigned w acc < toSigned w x then x else acc

/-! ## Operands -/

/-- The other operand of an instruction: a vector, a scalar or an immediate. -/
inductive Op1 where
  | vec (g : Grp)
  | scalar (x : Nat)
  deriving DecidableEq, Repr

def Op1.at (o : Op1) (h : Hart) (i : Nat) : Nat := match o with | .vec g => h.el g i | .scalar x => x
def Op1.grp : Op1 → List Grp
  | .vec g => [g]
  | .scalar _ => []

/-- Active elements of a source in [0, vl), as a list with their index. -/
def Hart.actives (h : Hart) (vm : Bool) (g : Grp) : List (Nat × Nat) :=
  ((upto h.vl).filter (h.act vm)).map (fun i => (i, h.el g i))

/-- A scalar result in element 0 of a register: nothing with vl = 0. -/
def scalarRes (h : Hart) (c : VType) (r w : Nat) (x : Nat × Nat) : Hart × Nat :=
  if h.vl = 0 then ({ h with vstart := 0 }, 0)
  else vbody h c.ta c.ma true 1 ⟨r, w, 0⟩ (fun _ => x)

/-! ## OPIVV, OPIVX, OPIVI -/

/-- Immediate of OPIVI: unsigned for shifts, slides and gathers. -/
def viImm (f6 w i : Nat) : Nat :=
  if [0x0C, 0x0E, 0x0F, 0x25, 0x28, 0x29, 0x2A, 0x2B, 0x2C, 0x2D, 0x2E, 0x2F].contains f6 then i else iw w (toSigned 5 i)

/-- Narrowing shifts and clips of an element of 2w bits. -/
def narrowEl (f6 w rm a b : Nat) : Nat × Nat :=
  let k := b % (2 * w)
  let sa := toSigned (2 * w) a
  match f6 with
  | 0x2C => (a / 2 ^ k % 2 ^ w, 0)
  | 0x2D => (iw w (sa / 2 ^ k), 0)
  | 0x2E => sat w false (rshift rm k a)
  | _ => sat w true (rshift rm k sa)

def execOpi (h : Hart) (c : VType) (f3 f6 : Nat) (vm : Bool) (vd vs2 s1 : Nat) : Option Hart :=
  let w := c.sew
  let d : Grp := ⟨vd, w, c.lm⟩
  let a : Grp := ⟨vs2, w, c.lm⟩
  let a2 : Grp := ⟨vs2, 2 * w, c.lm + 1⟩
  let x : Nat := if f3 = 3 then viImm f6 w s1 else (h.xr s1).toNat
  let o : Op1 := if f3 = 0 then .vec ⟨s1, w, c.lm⟩ else .scalar (x % 2 ^ w)
  let src := a :: o.grp
  let md : Grp := ⟨vd, 1, 0⟩
  let carry (i : Nat) : Nat := if vm then 0 else h.el v0 i
  match f6 with
  | 0x0C =>
    vif (apart vm d src) (resOf (vop h c vm d (fun i =>
      let k := if f3 = 0 then o.at h i else x
      (if k < c.max then h.el a k else 0, 0))))
  | 0x0E =>
    if f3 = 0 then
      let ix : Grp := ⟨s1, 16, c.lm + 4 - (Nat.log2 w : Int)⟩
      vif (apart vm d [a, ix]) (resOf (vop h c vm d (fun i => (if h.el ix i < c.max then h.el a (h.el ix i) else 0, 0))))
    else vif (apart vm d [a]) (resOf (vop h c vm d (fun i => (if i < x then h.el d i else h.el a (i - x), 0))))
  | 0x0F =>
    vif (f3 ≠ 0 && dstOk vm d [a]) (resOf (vop h c vm d (fun i => (if i + x < c.max then h.el a (i + x) else 0, 0))))
  | 0x10 => vif (!vm && dstOk false d src) (resOf (vop h c true d (fun i => ((h.el a i + o.at h i + carry i) % 2 ^ w, 0))))
  | 0x11 => vif (srcOk vm src && src.all (fun g => md.mayCover g))
      (resOf (vmask h c true vd (fun i => (2 ^ w ≤ h.el a i + o.at h i + carry i, 0))))
  | 0x12 => vif (f3 ≠ 3 && !vm && dstOk false d src)
      (resOf (vop h c true d (fun i => (subMod w (h.el a i) (o.at h i + carry i), 0))))
  | 0x13 => vif (f3 ≠ 3 && srcOk vm src && src.all (fun g => md.mayCover g))
      (resOf (vmask h c true vd (fun i => (h.el a i < o.at h i + carry i, 0))))
  | 0x17 =>
    if vm then vif (vs2 = 0 && dstOk true d o.grp) (resOf (vop h c true d (fun i => (o.at h i, 0))))
    else vif (dstOk false d src) (resOf (vop h c true d (fun i => (if h.el v0 i = 1 then o.at h i else h.el a i, 0))))
  | 0x27 =>
    if f3 = 3 then
      let n := s1 + 1
      let evl := 2048 * n
      vif (vm && (n = 1 || n = 2 || n = 4 || n = 8) && vd % n = 0 && vs2 % n = 0)
        (resOf (vbody h false false true (evl * 8 / w) ⟨vd, w, (Nat.log2 n : Int)⟩ (fun i => (h.el ⟨vs2, w, (Nat.log2 n : Int)⟩ i, 0))))
    else vif (dstOk vm d src) (satOf (vop h c vm d (fun i => (opiEl f6 w h.vxrm (h.el a i) (o.at h i)).getD (0, 0))))
  | 0x30 | 0x31 =>
    let one : Grp := ⟨s1, 2 * w, 0⟩
    let ext (v : Nat) : Nat := if f6 = 0x31 then iw (2 * w) (toSigned w v) else v
    vif (f3 = 0 && w < 32 && h.vstart = 0 && srcOk vm [a, one]) (resOf (scalarRes h c vd (2 * w)
      ((h.actives vm a).foldl (fun acc p => (acc + ext p.2) % 2 ^ (2 * w)) (h.el one 0), 0)))
  | 0x2C | 0x2D | 0x2E | 0x2F =>
    vif (w < 32 && dstOk vm d (a2 :: o.grp)) (satOf (vop h c vm d (fun i =>
      narrowEl f6 w h.vxrm (h.el a2 i) (match o with | .vec g => h.el g i | .scalar _ => x))))
  | _ =>
    if 0x18 ≤ f6 && f6 ≤ 0x1F then
      vif ((opiCmp f6 f3 w 0 0).isSome && srcOk vm src && src.all (fun g => md.mayCover g))
        (resOf (vmask h c vm vd (fun i => ((opiCmp f6 f3 w (h.el a i) (o.at h i)).getD false, 0))))
    else
      vif ((opiEl f6 w h.vxrm 0 0).isSome && opiForm f6 f3 && dstOk vm d src)
        (satOf (vop h c vm d (fun i => (opiEl f6 w h.vxrm (h.el a i) (o.at h i)).getD (0, 0))))

/-! ## OPMVV, OPMVX -/

/-- Logic of two mask bits. -/
def maskBit (f6 : Nat) (a b : Bool) : Bool :=
  match f6 with
  | 0x18 => a && !b
  | 0x19 => a && b
  | 0x1A => a || b
  | 0x1B => a != b
  | 0x1C => a || !b
  | 0x1D => !(a && b)
  | 0x1E => !(a || b)
  | _ => a == b

/-- Ones of a mask among active elements, in index order. -/
def Hart.ones (h : Hart) (vm : Bool) (r : Nat) : List Nat := (upto h.vl).filter (fun i => h.act vm i && h.el ⟨r, 1, 0⟩ i = 1)

/-- Unary OPMVV of mask registers: set-before-first, set-only-first, set-including-first, iota and element index. -/
def execVmunary (h : Hart) (c : VType) (vm : Bool) (vd vs2 k : Nat) : Option Hart :=
  let d : Grp := ⟨vd, c.sew, c.lm⟩
  let m : Grp := ⟨vs2, 1, 0⟩
  let first := (h.ones vm vs2).head?
  let setF (f : Nat → Nat → Bool) (none_ : Bool) : Option Hart :=
    vif (h.vstart = 0 && vd ≠ vs2 && (vm || vd ≠ 0)) (resOf (vmask h c vm vd (fun i =>
      (match first with | some j => f i j | none => none_, 0))))
  match k with
  | 0x01 => setF (fun i j => i < j) true
  | 0x02 => setF (fun i j => i = j) false
  | 0x03 => setF (fun i j => i ≤ j) true
  | 0x10 =>
    vif (h.vstart = 0 && apart vm d [m]) (resOf (vop h c vm d (fun i =>
      (((h.ones vm vs2).filter (fun j => j < i)).length % 2 ^ c.sew, 0))))
  | 0x11 => vif (vs2 = 0 && dstOk vm d []) (resOf (vop h c vm d (fun i => (i % 2 ^ c.sew, 0))))
  | _ => none

/-- vzext and vsext by a factor of 2 or 4. -/
def execVext (h : Hart) (c : VType) (vm : Bool) (vd vs2 k : Nat) : Option Hart :=
  let n := if k ≤ 5 then 4 else 2
  let d : Grp := ⟨vd, c.sew, c.lm⟩
  let a : Grp := ⟨vs2, c.sew / n, c.lm - (Nat.log2 n : Int)⟩
  vif (4 ≤ k && k ≤ 7 && 8 * n ≤ c.sew && dstOk vm d [a]) (resOf (vop h c vm d (fun i =>
    (if k % 2 = 1 then iw c.sew (toSigned a.w (h.el a i)) else h.el a i, 0))))

def execOpm (h : Hart) (c : VType) (f3 f6 : Nat) (vm : Bool) (vd vs2 s1 : Nat) : Option Hart :=
  let w := c.sew
  let d : Grp := ⟨vd, w, c.lm⟩
  let a : Grp := ⟨vs2, w, c.lm⟩
  let x := (h.xr s1).toNat
  let vv := decide (f3 = 2)
  let o : Op1 := if vv then .vec ⟨s1, w, c.lm⟩ else .scalar (x % 2 ^ w)
  let src := a :: o.grp
  let d2 : Grp := ⟨vd, 2 * w, c.lm + 1⟩
  let a2 : Grp := ⟨vs2, 2 * w, c.lm + 1⟩
  let zero : Option Hart := some { h with vstart := 0 }
  match f6 with
  | 0x0E =>
    vif (!vv && apart vm d [a]) (resOf (vop h c vm d (fun i => (if i = 0 then x % 2 ^ w else h.el a (i - 1), 0))))
  | 0x0F =>
    vif (!vv && dstOk vm d [a]) (resOf (vop h c vm d (fun i => (if i + 1 = h.vl then x % 2 ^ w else h.el a (i + 1), 0))))
  | 0x10 =>
    if vv then match s1 with
      | 0x00 => vif vm (zero.map (fun g => g.setX vd (BitVec.ofInt 64 (toSigned w (h.el a 0)))))
      | 0x10 => vif (h.vstart = 0) (some (h.setX vd (BitVec.ofNat 64 (h.ones vm vs2).length)))
      | 0x11 => vif (h.vstart = 0) (some (h.setX vd (match (h.ones vm vs2).head? with
          | some j => BitVec.ofNat 64 j
          | none => BitVec.ofInt 64 (-1))))
      | _ => none
    else vif (vm && vs2 = 0) (resOf (if h.vstart = 0 then scalarRes h c vd w (x % 2 ^ w, 0) else ({ h with vstart := 0 }, 0)))
  | 0x12 => if vv then execVext h c vm vd vs2 s1 else none
  | 0x14 => if vv then execVmunary h c vm vd vs2 s1 else none
  | 0x17 =>
    let m : Grp := ⟨s1, 1, 0⟩
    let picked := ((upto h.vl).filter (fun i => h.el m i = 1)).map (h.el a)
    vif (vv && vm && h.vstart = 0 && apart true d [a] && srcOk true [a, m] && !d.meets m)
      (resOf (if h.vl = 0 then (h, 0) else vbody h c.ta c.ma true picked.length d (fun i => (nth 0 picked i, 0))))
  | _ =>
    if f6 ≤ 0x07 then
      vif (vv && h.vstart = 0 && srcOk vm [a, ⟨s1, w, 0⟩]) (resOf (scalarRes h c vd w
        ((h.actives vm a).foldl (fun acc p => redEl f6 w acc p.2) (h.el ⟨s1, w, 0⟩ 0), 0)))
    else if 0x18 ≤ f6 && f6 ≤ 0x1F then
      vif (vv && vm) (resOf (vmask h c true vd (fun i => (maskBit f6 (h.el ⟨vs2, 1, 0⟩ i = 1) (h.el ⟨s1, 1, 0⟩ i = 1), 0))))
    else if 0x30 ≤ f6 then
      let big := 0x34 ≤ f6 && f6 ≤ 0x37
      let s2 := if big then a2 else a
      vif ((opmWide f6 w 0 0 0).isSome && !(vv && f6 = 0x3E) && w < 32 && dstOk vm d2 (s2 :: o.grp))
        (resOf (vop h c vm d2 (fun i => ((opmWide f6 w (h.el s2 i) (o.at h i) (h.el d2 i)).getD 0, 0))))
    else match opmMac f6 w 0 0 0 with
      | some _ => vif (dstOk vm d src) (resOf (vop h c vm d (fun i => ((opmMac f6 w (h.el d i) (o.at h i) (h.el a i)).getD 0, 0))))
      | none => vif ((opmEl f6 w h.vxrm 0 0).isSome && dstOk vm d src)
          (resOf (vop h c vm d (fun i => ((opmEl f6 w h.vxrm (h.el a i) (o.at h i)).getD 0, 0))))

/-! ## OPFVV, OPFVF -/

/-- FP32 operations on two elements: `a` of vs2, `b` the other one. -/
def opfEl (f6 : Nat) (m : RMode) (a b : Nat) : Option (Nat × Nat) :=
  match f6 with
  | 0x00 => some (fAdd m a b)
  | 0x02 => some (fSub m a b)
  | 0x04 => some (fMinMax false a b)
  | 0x06 => some (fMinMax true a b)
  | 0x08 => some (fSgn 0 a b, 0)
  | 0x09 => some (fSgn 1 a b, 0)
  | 0x0A => some (fSgn 2 a b, 0)
  | 0x20 => some (fDiv m a b)
  | 0x21 => some (fDiv m b a)
  | 0x24 => some (fMul m a b)
  | 0x27 => some (fSub m b a)
  | _ => none

/-- Fused operations: `d` of vd, `b` of vs1, `a` of vs2. -/
def opfMac (f6 : Nat) (m : RMode) (d b a : Nat) : Option (Nat × Nat) :=
  match f6 with
  | 0x28 => some (fFma m false false b d a)
  | 0x29 => some (fFma m true true b d a)
  | 0x2A => some (fFma m false true b d a)
  | 0x2B => some (fFma m true false b d a)
  | 0x2C => some (fFma m false false b a d)
  | 0x2D => some (fFma m true true b a d)
  | 0x2E => some (fFma m false true b a d)
  | 0x2F => some (fFma m true false b a d)
  | _ => none

/-- FP32 compares. -/
def opfCmp (f6 a b : Nat) : Option (Bool × Nat) :=
  match f6 with
  | 0x18 => some (fCmp 0 a b)
  | 0x19 => some (fCmp 2 a b)
  | 0x1B => some (fCmp 1 a b)
  | 0x1C => let r := fCmp 0 a b; some (!r.1, r.2)
  | 0x1D => some (fCmp 1 b a)
  | 0x1F => some (fCmp 2 b a)
  | _ => none

/-- Conversions: widths of the source and of the result, and the element's conversion. -/
def cvtEl (k sew : Nat) (m : RMode) : Option (Nat × Nat × (Nat → Nat × Nat)) :=
  match k, sew with
  | 0x00, 32 => some (32, 32, fToInt m false 32)
  | 0x01, 32 => some (32, 32, fToInt m true 32)
  | 0x02, 32 => some (32, 32, fun a => fOfInt m a)
  | 0x03, 32 => some (32, 32, fun a => fOfInt m (toSigned 32 a))
  | 0x06, 32 => some (32, 32, fToInt .rtz false 32)
  | 0x07, 32 => some (32, 32, fToInt .rtz true 32)
  | 0x0A, 16 => some (16, 32, fun a => fOfInt m a)
  | 0x0B, 16 => some (16, 32, fun a => fOfInt m (toSigned 16 a))
  | 0x0C, 16 => some (16, 32, fWidenH)
  | 0x0D, 16 => some (16, 32, fWidenB)
  | 0x10, 16 => some (32, 16, fToInt m false 16)
  | 0x11, 16 => some (32, 16, fToInt m true 16)
  | 0x14, 16 => some (32, 16, fNarrowH m)
  | 0x16, 16 => some (32, 16, fToInt .rtz false 16)
  | 0x17, 16 => some (32, 16, fToInt .rtz true 16)
  | 0x1D, 16 => some (32, 16, fNarrowB m)
  | _, _ => none

/-- A sum with its flags. -/
def fAcc (m : RMode) (acc : Nat × Nat) (x : Nat) : Nat × Nat := let r := fAdd m acc.1 x; (r.1, acc.2 ||| r.2)

/-- The pairwise tree of R123 over lane sums with their flags. -/
def fTree (m : RMode) : Nat → List (Nat × Nat) → Nat × Nat
  | 0, xs => xs.headD (0, 0)
  | k + 1, xs =>
    let n := xs.length / 2
    fTree m k ((upto n).map (fun j =>
      let a := nth (0, 0) xs (2 * j)
      let b := nth (0, 0) xs (2 * j + 1)
      let r := fAdd m a.1 b.1
      (r.1, a.2 ||| b.2 ||| r.2)))

/-- vfredusum: the active elements in the pairwise order of R123 over 512 lanes, an empty lane giving +0, and then the scalar (R138). -/
def fRedU (m : RMode) (init : Nat) (xs : List (Nat × Nat)) : Nat × Nat :=
  if xs.isEmpty then (init, 0)
  else
    let lanes := (upto 512).map (fun j => match (xs.filter (fun p => p.1 % 512 = j)).map (·.2) with
      | [] => (0, 0)
      | x :: t => t.foldl (fAcc m) (x, 0))
    let r := fTree m 9 lanes
    let y := fAdd m init r.1
    (y.1, r.2 ||| y.2)

/-- The reductions: 1 unordered sum, 3 ordered sum in increasing index, 5 minimum, 7 maximum (R138). -/
def fRed (k : Nat) (m : RMode) (init : Nat) (xs : List (Nat × Nat)) : Nat × Nat :=
  match k with
  | 1 => fRedU m init xs
  | 3 => xs.foldl (fun acc p => fAcc m acc p.2) (init, 0)
  | _ => xs.foldl (fun acc p => let r := fMinMax (k = 7) acc.1 p.2; (r.1, acc.2 ||| r.2)) (init, 0)

def execOpf (h : Hart) (c : VType) (f3 f6 : Nat) (vm : Bool) (vd vs2 s1 : Nat) : Option Hart :=
  match RMode.ofCode h.frm with
  | none => none
  | some m =>
    let d : Grp := ⟨vd, 32, c.lm⟩
    let a : Grp := ⟨vs2, 32, c.lm⟩
    let vv := decide (f3 = 1)
    let x := h.fr s1
    let o : Op1 := if vv then .vec ⟨s1, 32, c.lm⟩ else .scalar x
    let src := a :: o.grp
    let md : Grp := ⟨vd, 1, 0⟩
    if f6 = 0x12 then
      match (if vv then cvtEl s1 c.sew m else none) with
      | none => none
      | some (ws, wd, f) =>
        let em (w : Nat) : Int := c.lm + (Nat.log2 w : Int) - (Nat.log2 c.sew : Int)
        let g : Grp := ⟨vs2, ws, em ws⟩
        let t : Grp := ⟨vd, wd, em wd⟩
        vif (dstOk vm t [g]) (excOf (vop h c vm t (fun i => f (h.el g i))))
    else if c.sew ≠ 32 then none
    else match f6 with
      | 0x01 | 0x03 | 0x05 | 0x07 =>
        vif (vv && h.vstart = 0 && srcOk vm [a, ⟨s1, 32, 0⟩])
          (excOf (scalarRes h c vd 32 (fRed f6 m (h.el ⟨s1, 32, 0⟩ 0) (h.actives vm a)) |> fun r => if h.vl = 0 then (r.1, 0) else r))
      | 0x0E => vif (!vv && apart vm d [a]) (resOf (vop h c vm d (fun i => (if i = 0 then x else h.el a (i - 1), 0))))
      | 0x0F => vif (!vv && dstOk vm d [a]) (resOf (vop h c vm d (fun i => (if i + 1 = h.vl then x else h.el a (i + 1), 0))))
      | 0x10 =>
        if vv then vif (vm && s1 = 0) (some ({ h with vstart := 0 }.setFr vd (h.el a 0)))
        else vif (vm && vs2 = 0) (resOf (if h.vstart = 0 then scalarRes h c vd 32 (x, 0) else ({ h with vstart := 0 }, 0)))
      | 0x13 =>
        let f : Option (Nat → Nat × Nat) := match s1 with
          | 0x00 => some (fSqrt m)
          | 0x04 => some fRsqrt7
          | 0x05 => some (fRec7 m)
          | 0x10 => some (fun v => (fClass v, 0))
          | _ => none
        match f with
        | none => none
        | some f => vif (vv && dstOk vm d [a]) (excOf (vop h c vm d (fun i => f (h.el a i))))
      | 0x17 =>
        if vv then none
        else if vm then vif (vs2 = 0 && dstOk true d []) (resOf (vop h c true d (fun _ => (x, 0))))
        else vif (dstOk false d [a]) (resOf (vop h c true d (fun i => (if h.el v0 i = 1 then x else h.el a i, 0))))
      | _ =>
        if 0x18 ≤ f6 && f6 ≤ 0x1F then
          vif ((opfCmp f6 0 0).isSome && !(vv && (f6 = 0x1D || f6 = 0x1F)) && srcOk vm src && src.all (fun g => md.mayCover g))
            (excOf (vmask h c vm vd (fun i => (opfCmp f6 (h.el a i) (o.at h i)).getD (false, 0))))
        else match opfMac f6 m 0 0 0 with
          | some _ => vif (dstOk vm d src) (excOf (vop h c vm d (fun i => (opfMac f6 m (h.el d i) (o.at h i) (h.el a i)).getD (0, 0))))
          | none => vif ((opfEl f6 m 0 0).isSome && !(vv && (f6 = 0x21 || f6 = 0x27)) && dstOk vm d src)
              (excOf (vop h c vm d (fun i => (opfEl f6 m (h.el a i) (o.at h i)).getD (0, 0))))

/-- An arithmetic instruction of opcode OP-V but vsetvl; none is illegal. -/
def execVarith (h : Hart) (w : Nat) : Option Hart :=
  match vtypeOf h.vtype.toNat with
  | none => none
  | some c =>
    let f3 := bitsN w 12 3
    let go (f : Hart → VType → Nat → Nat → Bool → Nat → Nat → Nat → Option Hart) : Option Hart :=
      f h c f3 (bitsN w 26 6) (bitN w 25) (bitsN w 7 5) (bitsN w 20 5) (bitsN w 15 5)
    if f3 = 0 || f3 = 3 || f3 = 4 then go execOpi
    else if f3 = 2 || f3 = 6 then go execOpm
    else if f3 = 1 || f3 = 5 then go execOpf
    else none

/-- vsetvli, vsetivli and vsetvl. -/
def execVset (h : Hart) (w : Nat) : Option Hart :=
  let rd := bitsN w 7 5
  let r1 := bitsN w 15 5
  let avl : Option Nat := if r1 ≠ 0 then some (h.xr r1).toNat else if rd ≠ 0 then some (2 ^ 64 - 1) else none
  if !bitN w 31 then some (setVl h rd (bitsN w 20 11) avl)
  else if bitN w 30 then some (setVl h rd (bitsN w 20 10) (some r1))
  else if bitsN w 25 6 = 0 then some (setVl h rd (h.xr (bitsN w 20 5)).toNat avl)
  else none

/-! ## Loads and stores -/

/-- What a memory instruction does. -/
inductive VOut where
  | ok (s : State) (h : Hart)
  | trap (s : State) (h : Hart) (t : Trap)
  | illegal
  deriving DecidableEq, Repr

/-- A vector memory access: its fields of `w` bits, elements [vstart, evl), the address of field f of element i, whether it stops at its
first fault, and whether masked. -/
structure VMem where
  nf : Nat
  w : Nat
  em : Int
  evl : Nat
  vm : Bool
  ff : Bool
  addr : Nat → Nat → Nat

/-- Field f's register group. -/
def VMem.grp (m : VMem) (vd f : Nat) : Grp := ⟨vd + f * pow2N m.em, m.w, m.em⟩

/-- The accesses in order: elements, and the fields of each. -/
def VMem.list (m : VMem) (h : Hart) : List (Nat × Nat) :=
  (((upto m.evl).filter (fun i => h.vstart ≤ i && h.act m.vm i)).flatMap (fun i => (upto m.nf).map (fun f => (i, f))))

/-- Loads in order: the images of the fields so far, one number each, and why and where they stop. -/
def vloadGo (c : KCtx) (m : VMem) : List (Nat × Nat) → State → List Nat → State × List Nat × Option (Trap × Nat)
  | [], s, im => (s, im, none)
  | (i, f) :: rest, s, im =>
    match c.load s false (m.addr i f) (m.w / 8) with
    | .trap t x => (if m.ff && i ≠ 0 && x ≠ .uncorr then s else t, im, some (x, i))
    | .ok t v => vloadGo c m rest t (setNth im f (nth 0 im f + v * 2 ^ (m.w * i)))

/-- A load: every field's register group takes its elements. A fault on element 0 traps; one behind it in a fault-only-first load ends vl
there. -/
def vload (c : KCtx) (s : State) (h : Hart) (ta ma : Bool) (m : VMem) (vd : Nat) : VOut :=
  let r := vloadGo c m (m.list h) s ((upto m.nf).map (fun _ => 0))
  let fill (h : Hart) (vl : Nat) : Hart :=
    let g := (upto m.nf).foldl (fun g f =>
      { (vbody { g with vstart := h.vstart } ta ma m.vm vl (m.grp vd f) (fun i => ((nth 0 r.2.1 f >>> (m.w * i)) % 2 ^ m.w, 0))).1 with
        vstart := h.vstart }) h
    { g with vstart := 0 }
  match r.2.2 with
  | none => .ok r.1 (fill h m.evl)
  | some (t, i) =>
    if m.ff && i ≠ 0 && t ≠ .uncorr then .ok r.1 { fill h i with vl := i }
    else .trap r.1 { h with vstart := i } t

/-- Stores in order. -/
def vstoreGo (c : KCtx) (m : VMem) (h : Hart) (vd : Nat) : List (Nat × Nat) → State → VOut
  | [], s => .ok s { h with vstart := 0 }
  | (i, f) :: rest, s =>
    match c.store s false (m.addr i f) (m.w / 8) (h.el (m.grp vd f) i) with
    | .trap t x => .trap t { h with vstart := i } x
    | .ok t _ => vstoreGo c m h vd rest t

/-- Runs of one line that contiguous elements [lo, hi) fill, as element ranges. -/
def lineRuns (base es lo hi : Nat) : List (Nat × Nat) :=
  if hi ≤ lo then []
  else
    let l0 := (base + es * lo) / 64
    let l1 := (base + es * (hi - 1)) / 64
    (fromLen l0 (l1 - l0 + 1)).map (fun l => (max lo ((64 * l - base + es - 1) / es), min hi ((64 * l + 64 - base + es - 1) / es)))

/-- A contiguous unmasked store in requests of at most a line (R313). -/
def vstoreRun (c : KCtx) (m : VMem) (h : Hart) (vd base : Nat) : List (Nat × Nat) → State → VOut
  | [], s => .ok s { h with vstart := 0 }
  | (lo, hi) :: rest, s =>
    let bs := (fromLen lo (hi - lo)).flatMap (fun i => leBytes (m.w / 8) (h.el (m.grp vd 0) i))
    match c.write s (base + m.w / 8 * lo) bs with
    | .trap t x => .trap t { h with vstart := lo } x
    | .ok t _ => vstoreRun c m h vd base rest t

def vstore (c : KCtx) (s : State) (h : Hart) (m : VMem) (vd : Nat) : VOut :=
  let base := m.addr 0 0
  if m.vm && m.nf = 1 && m.ff && base % (m.w / 8) = 0 then vstoreRun c m h vd base (lineRuns base (m.w / 8) h.vstart m.evl) s
  else vstoreGo c m h vd (m.list h) s

/-- Width of a vector access by its width field: 64 is not supported (R137). -/
def vwidth (k : Nat) : Option Nat := match k with | 0 => some 8 | 5 => some 16 | 6 => some 32 | _ => none

/-- An address of a vector access. -/
def vaddr (base off : Nat) : Nat := (base + off) % 2 ^ 64

/-- A vector load (`ld`) or store. For a store `ff` marks contiguous elements. -/
def execVmem (c : KCtx) (s : State) (h : Hart) (w : Nat) (ld : Bool) : VOut :=
  let vd := bitsN w 7 5
  let base := (h.xr (bitsN w 15 5)).toNat
  let k := bitsN w 20 5
  let vm := bitN w 25
  let nf := bitsN w 29 3 + 1
  let mop := bitsN w 26 2
  let t := vtypeOf h.vtype.toNat
  let go (ta ma : Bool) (m : VMem) : VOut := if ld then vload c s h ta ma m vd else vstore c s h m vd
  let fits (m : VMem) : Bool := m.nf * pow2N m.em ≤ 8 && vd + m.nf * pow2N m.em ≤ 32
  match (if bitN w 28 then none else vwidth (bitsN w 12 3)) with
  | none => .illegal
  | some e =>
    if mop = 0 && k = 8 then
      let m : VMem := { nf := 1, w := e, em := (Nat.log2 nf : Int), evl := nf * perReg e, vm := true, ff := !ld, addr := fun i _ => vaddr base (e / 8 * i) }
      if vm && [1, 2, 4, 8].contains nf && vd % nf = 0 && (ld || e = 8) then go false false m else .illegal
    else match t with
      | none => .illegal
      | some y =>
        let em : Int := y.lm + (Nat.log2 e : Int) - (Nat.log2 y.sew : Int)
        if mop = 0 && k = 0x0B then
          let m : VMem := { nf := 1, w := 8, em := 0, evl := cdiv h.vl 8, vm := true, ff := !ld, addr := fun i _ => vaddr base i }
          if vm && nf = 1 && e = 8 then go true true m else .illegal
        else if mop = 0 || mop = 2 then
          let stride := if mop = 0 then nf * (e / 8) else (h.xr k).toNat
          let m : VMem := { nf := nf, w := e, em := em, evl := h.vl, vm := vm, ff := mop = 0 && (if ld then k = 0x10 else true)
                            addr := fun i f => vaddr base (stride * i + e / 8 * f) }
          if (mop = 2 || k = 0 || (ld && k = 0x10)) && (m.grp vd 0).ok && fits m && (vm || vd ≠ 0) then go y.ta y.ma m else .illegal
        else
          let ix : Grp := ⟨k, e, em⟩
          let m : VMem := { nf := nf, w := y.sew, em := y.lm, evl := h.vl, vm := vm, ff := false
                            addr := fun i f => vaddr base (h.el ix i + y.sew / 8 * f) }
          let d := m.grp vd 0
          let clear : Bool := if ld then
              (if nf = 1 then d.mayCover ix else (upto nf).all (fun f => !(m.grp vd f).meets ix)) && (vm || vd ≠ 0)
            else srcOk vm [d, ix]
          if ix.ok && d.ok && fits m && srcOk vm [ix] && clear then go y.ta y.ma m else .illegal

end Sys2Proof.Machine
end

