-- ==== Sys2Proof/Machine/Rv.lean ====
section
/-! DEFINITION. Instructions of a kernel's hart: RV64IMAC with F, run in U-mode, and the run itself (spec/04 R137, R139; log 119). -/

namespace Sys2Proof.Machine

/-- What an instruction does: the state and the hart after it, or a trap with the hart as it stands. -/
inductive HOut where
  | next (s : State) (h : Hart)
  | trap (s : State) (h : Hart) (t : Trap)
  deriving DecidableEq, Repr

/-- An illegal instruction. -/
def HOut.illegal (s : State) (h : Hart) : HOut := .trap s h (.cause 2)

/-! ## Fields -/

def rRd (w : Nat) : Nat := bitsN w 7 5
def rRs1 (w : Nat) : Nat := bitsN w 15 5
def rRs2 (w : Nat) : Nat := bitsN w 20 5
def rF3 (w : Nat) : Nat := bitsN w 12 3
def rF7 (w : Nat) : Nat := bitsN w 25 7

/-- A 64-bit register value of a signed number of `n` bits. -/
def sext (n v : Nat) : Word := BitVec.ofInt 64 (toSigned n v)

def immI (w : Nat) : Word := sext 12 (bitsN w 20 12)
def immS (w : Nat) : Word := sext 12 (packBits [(bitsN w 7 5, 0, 5), (bitsN w 25 7, 5, 7)])
def immB (w : Nat) : Word := sext 13 (packBits [(bitsN w 8 4, 1, 4), (bitsN w 25 6, 5, 6), (bitsN w 7 1, 11, 1), (bitsN w 31 1, 12, 1)])
def immU (w : Nat) : Word := sext 32 (bitsN w 12 20 * 4096)
def immJ (w : Nat) : Word := sext 21 (packBits [(bitsN w 21 10, 1, 10), (bitsN w 20 1, 11, 1), (bitsN w 12 8, 12, 8), (bitsN w 31 1, 20, 1)])

/-! ## Integer operations -/

/-- Register-register operations of 64 bits, by funct7 and funct3. -/
def alu (f7 f3 : Nat) (a b : Word) : Option Word :=
  let k := b.toNat % 64
  match f7, f3 with
  | 0x00, 0 => some (a + b)
  | 0x20, 0 => some (a - b)
  | 0x00, 1 => some (a <<< k)
  | 0x00, 2 => some (if a.toInt < b.toInt then 1#64 else 0#64)
  | 0x00, 3 => some (if a.toNat < b.toNat then 1#64 else 0#64)
  | 0x00, 4 => some (a ^^^ b)
  | 0x00, 5 => some (a >>> k)
  | 0x20, 5 => some (a.sshiftRight k)
  | 0x00, 6 => some (a ||| b)
  | 0x00, 7 => some (a &&& b)
  | 0x01, 0 => some (a * b)
  | 0x01, 1 => some (BitVec.ofInt 64 (a.toInt * b.toInt / 2 ^ 64))
  | 0x01, 2 => some (BitVec.ofInt 64 (a.toInt * b.toNat / 2 ^ 64))
  | 0x01, 3 => some (BitVec.ofNat 64 (a.toNat * b.toNat / 2 ^ 64))
  | 0x01, 4 => some (if b = 0#64 then BitVec.ofInt 64 (-1) else BitVec.ofInt 64 (a.toInt.tdiv b.toInt))
  | 0x01, 5 => some (if b = 0#64 then BitVec.ofInt 64 (-1) else BitVec.ofNat 64 (a.toNat / b.toNat))
  | 0x01, 6 => some (if b = 0#64 then a else BitVec.ofInt 64 (a.toInt.tmod b.toInt))
  | 0x01, 7 => some (if b = 0#64 then a else BitVec.ofNat 64 (a.toNat % b.toNat))
  | _, _ => none

/-- Operations of 32 bits, their result sign-extended. -/
def aluW (f7 f3 : Nat) (a b : Word) : Option Word :=
  let x := a.toNat % 2 ^ 32
  let y := b.toNat % 2 ^ 32
  let sx := toSigned 32 x
  let sy := toSigned 32 y
  let out (i : Int) : Option Word := some (sext 32 (ofSigned 32 i))
  match f7, f3 with
  | 0x00, 0 => out (sx + sy)
  | 0x20, 0 => out (sx - sy)
  | 0x00, 1 => out (x * 2 ^ (y % 32))
  | 0x00, 5 => out (x / 2 ^ (y % 32))
  | 0x20, 5 => out (sx / 2 ^ (y % 32))
  | 0x01, 0 => out (sx * sy)
  | 0x01, 4 => out (if y = 0 then -1 else sx.tdiv sy)
  | 0x01, 5 => out (if y = 0 then -1 else x / y)
  | 0x01, 6 => out (if y = 0 then sx else sx.tmod sy)
  | 0x01, 7 => out (if y = 0 then x else x % y)
  | _, _ => none

/-- Whether a branch is taken. -/
def branch (f3 : Nat) (a b : Word) : Option Bool :=
  match f3 with
  | 0 => some (a = b)
  | 1 => some (a ≠ b)
  | 4 => some (a.toInt < b.toInt)
  | 5 => some (b.toInt ≤ a.toInt)
  | 6 => some (a.toNat < b.toNat)
  | 7 => some (b.toNat ≤ a.toNat)
  | _ => none

/-- Operations with an immediate: shifts carry their amount and a code in the upper bits. -/
def aluImm (f3 w : Nat) (a : Word) : Option Word :=
  let sh := BitVec.ofNat 64 (bitsN w 20 6)
  match f3, bitsN w 26 6 with
  | 1, 0 => alu 0 1 a sh
  | 1, _ => none
  | 5, 0 => alu 0 5 a sh
  | 5, 0x10 => alu 0x20 5 a sh
  | 5, _ => none
  | _, _ => alu 0 f3 a (immI w)

def aluImmW (f3 w : Nat) (a : Word) : Option Word :=
  let sh := BitVec.ofNat 64 (bitsN w 20 5)
  match f3, rF7 w with
  | 0, _ => aluW 0 0 a (immI w)
  | 1, 0 => aluW 0 1 a sh
  | 5, 0 => aluW 0 5 a sh
  | 5, 0x20 => aluW 0x20 5 a sh
  | _, _ => none

/-- The AMO of a funct5. -/
def amoOf : Nat → Option AmoOp
  | 0x00 => some .add
  | 0x01 => some .swap
  | 0x04 => some .xor
  | 0x08 => some .or
  | 0x0C => some .and
  | 0x10 => some .min
  | 0x14 => some .max
  | 0x18 => some .minu
  | 0x1C => some .maxu
  | _ => none

/-! ## CSRs of U-mode -/

/-- The value of a CSR that U-mode reads. -/
def Hart.csr (h : Hart) (n : Nat) : Option Nat :=
  match n with
  | 0x001 => some h.fflags
  | 0x002 => some h.frm
  | 0x003 => some (h.fflags + 32 * h.frm)
  | 0x008 => some h.vstart
  | 0x009 => some h.vxsat
  | 0x00A => some h.vxrm
  | 0x00F => some (h.vxsat + 2 * h.vxrm)
  | 0xC20 => some h.vl
  | 0xC21 => some h.vtype.toNat
  | 0xC22 => some 2048
  | _ => none

/-- A CSR written; one that is read only, none. -/
def Hart.setCsr (h : Hart) (n v : Nat) : Option Hart :=
  match n with
  | 0x001 => some { h with fflags := v % 32 }
  | 0x002 => some { h with frm := v % 8 }
  | 0x003 => some { h with fflags := v % 32, frm := v / 32 % 8 }
  | 0x008 => some { h with vstart := v % 16384 }
  | 0x009 => some { h with vxsat := v % 2 }
  | 0x00A => some { h with vxrm := v % 4 }
  | 0x00F => some { h with vxsat := v % 2, vxrm := v / 2 % 4 }
  | _ => none

/-- CSRRW, CSRRS and CSRRC with a register or a 5-bit immediate; a set or clear of nothing writes nothing. -/
def execCsr (h : Hart) (w : Nat) : Option Hart :=
  let f3 := rF3 w
  let n := bitsN w 20 12
  let x := if 4 ≤ f3 then rRs1 w else (h.xr (rRs1 w)).toNat
  match h.csr n with
  | none => none
  | some old =>
    let new := match f3 % 4 with
      | 1 => some x
      | 2 => some (old ||| x)
      | 3 => some (old - (old &&& x))
      | _ => none
    let g := if f3 % 4 ≠ 1 && rRs1 w = 0 then some h else new.bind (fun v => h.setCsr n v)
    if f3 % 4 = 0 then none else g.map (fun g => g.setX (rRd w) (BitVec.ofNat 64 old))

/-! ## Floating point -/

/-- Fused multiply-add by its opcode. -/
def execFma (h : Hart) (w op : Nat) : Option Hart :=
  match h.rm (rF3 w) with
  | none => none
  | some m =>
    let r := fFma m (op = 0x4B || op = 0x4F) (op = 0x47 || op = 0x4F) (h.fr (rRs1 w)) (h.fr (rRs2 w)) (h.fr (bitsN w 27 5))
    if bitsN w 25 2 ≠ 0 then none else some ((h.setFr (rRd w) r.1).accrue r.2)

/-- OP-FP for FP32. -/
def execFp (h : Hart) (w : Nat) : Option Hart :=
  let f3 := rF3 w
  let r2 := rRs2 w
  let a := h.fr (rRs1 w)
  let b := h.fr r2
  let toF (r : Nat × Nat) : Hart := (h.setFr (rRd w) r.1).accrue r.2
  let toX (v : Word) (fl : Nat) : Hart := (h.setX (rRd w) v).accrue fl
  let rnd (f : RMode → Hart) : Option Hart := (h.rm f3).map f
  match rF7 w with
  | 0x00 => rnd (fun m => toF (fAdd m a b))
  | 0x04 => rnd (fun m => toF (fSub m a b))
  | 0x08 => rnd (fun m => toF (fMul m a b))
  | 0x0C => rnd (fun m => toF (fDiv m a b))
  | 0x2C => if r2 = 0 then rnd (fun m => toF (fSqrt m a)) else none
  | 0x10 => if f3 < 3 then some (toF (fSgn f3 a b, 0)) else none
  | 0x14 => if f3 < 2 then some (toF (fMinMax (f3 = 1) a b)) else none
  | 0x50 => if f3 < 3 then (let r := fCmp (2 - f3) a b; some (toX (if r.1 then 1#64 else 0#64) r.2)) else none
  | 0x60 =>
    if r2 < 4 then rnd (fun m =>
      let n := if r2 < 2 then 32 else 64
      let r := fToInt m (r2 % 2 = 0) n a
      toX (sext n r.1) r.2)
    else none
  | 0x68 =>
    let x := (h.xr (rRs1 w)).toNat
    match r2 with
    | 0 => rnd (fun m => toF (fOfInt m (toSigned 32 (x % 2 ^ 32))))
    | 1 => rnd (fun m => toF (fOfInt m (x % 2 ^ 32 : Nat)))
    | 2 => rnd (fun m => toF (fOfInt m (toSigned 64 x)))
    | 3 => rnd (fun m => toF (fOfInt m x))
    | _ => none
  | 0x70 => if r2 = 0 && f3 = 0 then some (toX (sext 32 a) 0) else if r2 = 0 && f3 = 1 then some (toX (BitVec.ofNat 64 (fClass a)) 0) else none
  | 0x78 => if r2 = 0 && f3 = 0 then some (toF ((h.xr (rRs1 w)).toNat % 2 ^ 32, 0)) else none
  | _ => none

/-! ## Compressed instructions, as the words they stand for -/

def encR (op f3 f7 rd r1 r2 : Nat) : Nat := packBits [(op, 0, 7), (rd, 7, 5), (f3, 12, 3), (r1, 15, 5), (r2, 20, 5), (f7, 25, 7)]
def encI (op f3 rd r1 imm : Nat) : Nat := packBits [(op, 0, 7), (rd, 7, 5), (f3, 12, 3), (r1, 15, 5), (imm, 20, 12)]
def encS (op f3 r1 r2 imm : Nat) : Nat :=
  packBits [(op, 0, 7), (bitsN imm 0 5, 7, 5), (f3, 12, 3), (r1, 15, 5), (r2, 20, 5), (bitsN imm 5 7, 25, 7)]
def encB (f3 r1 r2 imm : Nat) : Nat :=
  packBits [(0x63, 0, 7), (bitsN imm 11 1, 7, 1), (bitsN imm 1 4, 8, 4), (f3, 12, 3), (r1, 15, 5), (r2, 20, 5), (bitsN imm 5 6, 25, 6), (bitsN imm 12 1, 31, 1)]
def encJ (rd imm : Nat) : Nat :=
  packBits [(0x6F, 0, 7), (rd, 7, 5), (bitsN imm 12 8, 12, 8), (bitsN imm 11 1, 20, 1), (bitsN imm 1 10, 21, 10), (bitsN imm 20 1, 31, 1)]

/-- Sign-extend `n` bits to `m` bits. -/
def sx (n m v : Nat) : Nat := ofSigned m (toSigned n v)

/-- Quadrants 0 and 1 of the compressed instructions of RV64C without D. -/
def expand01 (c : Nat) : Option Nat :=
  let r1 := 8 + bitsN c 7 3
  let r2 := 8 + bitsN c 2 3
  let rd := bitsN c 7 5
  let i6 := packBits [(bitsN c 2 5, 0, 5), (bitsN c 12 1, 5, 1)]
  let lw := packBits [(bitsN c 6 1, 2, 1), (bitsN c 10 3, 3, 3), (bitsN c 5 1, 6, 1)]
  let ld := packBits [(bitsN c 10 3, 3, 3), (bitsN c 5 2, 6, 2)]
  let j := packBits [(bitsN c 3 3, 1, 3), (bitsN c 11 1, 4, 1), (bitsN c 2 1, 5, 1), (bitsN c 7 1, 6, 1), (bitsN c 6 1, 7, 1), (bitsN c 9 2, 8, 2),
    (bitsN c 8 1, 10, 1), (bitsN c 12 1, 11, 1)]
  let b := packBits [(bitsN c 3 2, 1, 2), (bitsN c 10 2, 3, 2), (bitsN c 2 1, 5, 1), (bitsN c 5 2, 6, 2), (bitsN c 12 1, 8, 1)]
  match bitsN c 0 2, bitsN c 13 3 with
  | 0, 0 =>
    let n := packBits [(bitsN c 6 1, 2, 1), (bitsN c 5 1, 3, 1), (bitsN c 11 2, 4, 2), (bitsN c 7 4, 6, 4)]
    if n = 0 then none else some (encI 0x13 0 r2 2 n)
  | 0, 2 => some (encI 0x03 2 r2 r1 lw)
  | 0, 3 => some (encI 0x03 3 r2 r1 ld)
  | 0, 6 => some (encS 0x23 2 r1 r2 lw)
  | 0, 7 => some (encS 0x23 3 r1 r2 ld)
  | 1, 0 => some (encI 0x13 0 rd rd (sx 6 12 i6))
  | 1, 1 => if rd = 0 then none else some (encI 0x1B 0 rd rd (sx 6 12 i6))
  | 1, 2 => some (encI 0x13 0 rd 0 (sx 6 12 i6))
  | 1, 3 =>
    if rd = 2 then
      let n := packBits [(bitsN c 6 1, 4, 1), (bitsN c 2 1, 5, 1), (bitsN c 5 1, 6, 1), (bitsN c 3 2, 7, 2), (bitsN c 12 1, 9, 1)]
      if n = 0 then none else some (encI 0x13 0 2 2 (sx 10 12 n))
    else if i6 = 0 then none
    else some (packBits [(0x37, 0, 7), (rd, 7, 5), (sx 6 20 i6, 12, 20)])
  | 1, 4 =>
    match bitsN c 10 2 with
    | 0 => some (encI 0x13 5 r1 r1 i6)
    | 1 => some (encI 0x13 5 r1 r1 (i6 + 0x400))
    | 2 => some (encI 0x13 7 r1 r1 (sx 6 12 i6))
    | _ => match bitsN c 12 1, bitsN c 5 2 with
      | 0, 0 => some (encR 0x33 0 0x20 r1 r1 r2)
      | 0, 1 => some (encR 0x33 4 0 r1 r1 r2)
      | 0, 2 => some (encR 0x33 6 0 r1 r1 r2)
      | 0, _ => some (encR 0x33 7 0 r1 r1 r2)
      | _, 0 => some (encR 0x3B 0 0x20 r1 r1 r2)
      | _, 1 => some (encR 0x3B 0 0 r1 r1 r2)
      | _, _ => none
  | 1, 5 => some (encJ 0 (sx 12 21 j))
  | 1, 6 => some (encB 0 r1 0 (sx 9 13 b))
  | 1, 7 => some (encB 1 r1 0 (sx 9 13 b))
  | _, _ => none

/-- Quadrant 2. -/
def expand2 (c : Nat) : Option Nat :=
  let rd := bitsN c 7 5
  let r2 := bitsN c 2 5
  let i6 := packBits [(bitsN c 2 5, 0, 5), (bitsN c 12 1, 5, 1)]
  match bitsN c 13 3 with
  | 0 => some (encI 0x13 1 rd rd i6)
  | 2 => if rd = 0 then none
    else some (encI 0x03 2 rd 2 (packBits [(bitsN c 4 3, 2, 3), (bitsN c 12 1, 5, 1), (bitsN c 2 2, 6, 2)]))
  | 3 => if rd = 0 then none
    else some (encI 0x03 3 rd 2 (packBits [(bitsN c 5 2, 3, 2), (bitsN c 12 1, 5, 1), (bitsN c 2 3, 6, 3)]))
  | 4 =>
    if bitsN c 12 1 = 0 then
      (if r2 ≠ 0 then some (encR 0x33 0 0 rd 0 r2) else if rd = 0 then none else some (encI 0x67 0 0 rd 0))
    else if r2 ≠ 0 then some (encR 0x33 0 0 rd rd r2)
    else if rd = 0 then some 0x00100073
    else some (encI 0x67 0 1 rd 0)
  | 6 => some (encS 0x23 2 2 r2 (packBits [(bitsN c 9 4, 2, 4), (bitsN c 7 2, 6, 2)]))
  | 7 => some (encS 0x23 3 2 r2 (packBits [(bitsN c 10 3, 3, 3), (bitsN c 7 3, 6, 3)]))
  | _ => none

def expandC (c : Nat) : Option Nat := if bitsN c 0 2 = 2 then expand2 c else expand01 c

/-! ## An instruction -/

/-- A legal result with the pc past the instruction, or an illegal instruction. -/
def HOut.ofHart (s : State) (h : Hart) (len : Nat) : Option Hart → HOut
  | some g => .next s { g with pc := h.pc + BitVec.ofNat 64 len }
  | none => .illegal s h

/-- A request's result taken by `f`. -/
def HOut.ofMem (h : Hart) (len : Nat) (r : MemR) (f : Nat → Hart) : HOut :=
  match r with
  | .ok s v => .next s { f v with pc := h.pc + BitVec.ofNat 64 len }
  | .trap s t => .trap s h t

/-- Scalar loads and stores. -/
def execMem (c : KCtx) (s : State) (h : Hart) (w len : Nat) : HOut :=
  let f3 := rF3 w
  let n := 2 ^ (f3 % 4)
  let la := (h.xr (rRs1 w) + immI w).toNat
  let sa := (h.xr (rRs1 w) + immS w).toNat
  match bitsN w 0 7 with
  | 0x03 =>
    if f3 = 7 then .illegal s h
    else .ofMem h len (c.load s true la n) (fun v => h.setX (rRd w) (if f3 < 4 then sext (8 * n) v else BitVec.ofNat 64 v))
  | 0x07 => .ofMem h len (c.load s true la 4) (fun v => h.setFr (rRd w) v)
  | 0x23 => if 4 ≤ f3 then .illegal s h else .ofMem h len (c.store s true sa n (h.xr (rRs2 w)).toNat) (fun _ => h)
  | _ => .ofMem h len (c.store s true sa 4 (h.fr (rRs2 w))) (fun _ => h)

/-- LR, SC and AMO of words and doublewords. -/
def execAmo (c : KCtx) (s : State) (h : Hart) (w len : Nat) : HOut :=
  let f3 := rF3 w
  let n := 2 ^ f3
  let f5 := bitsN w 27 5
  let a := (h.xr (rRs1 w)).toNat
  let x := (h.xr (rRs2 w)).toNat
  let out (v : Nat) : Hart := h.setX (rRd w) (sext (8 * n) v)
  if f3 ≠ 2 && f3 ≠ 3 then .illegal s h
  else if f5 = 2 then (if rRs2 w = 0 then .ofMem h len (c.lr s a n) out else .illegal s h)
  else if f5 = 3 then .ofMem h len (c.sc s a n x) (fun v => h.setX (rRd w) (BitVec.ofNat 64 v))
  else match amoOf f5 with
    | some op => .ofMem h len (c.amo s op a n x) out
    | none => .illegal s h

/-- ECALL, EBREAK and the CSR instructions; the others of SYSTEM are privileged (R139). -/
def execSystem (s : State) (h : Hart) (w len : Nat) : HOut :=
  if w = 0x00000073 then .trap s h (.cause 8)
  else if w = 0x00100073 then .trap s h (.cause 3)
  else .ofHart s h len (execCsr h w)

/-- A vector memory access, or a scalar one of FP32. -/
def execFpMem (c : KCtx) (s : State) (h : Hart) (w len : Nat) : HOut :=
  let f3 := rF3 w
  if f3 = 2 then execMem c s h w len
  else if f3 = 0 || 5 ≤ f3 then
    match execVmem c s h w (bitsN w 0 7 = 0x07) with
    | .ok s g => .ofHart s h len (some g)
    | .trap s g t => .trap s g t
    | .illegal => .illegal s h
  else .illegal s h

/-- One instruction of 32 bits, `len` bytes long in memory. -/
def execRv (c : KCtx) (s : State) (h : Hart) (w len : Nat) : HOut :=
  let f3 := rF3 w
  let a := h.xr (rRs1 w)
  let b := h.xr (rRs2 w)
  let link := h.pc + BitVec.ofNat 64 len
  let put (v : Option Word) : HOut := .ofHart s h len (v.map (fun v => h.setX (rRd w) v))
  match bitsN w 0 7 with
  | 0x37 => put (some (immU w))
  | 0x17 => put (some (h.pc + immU w))
  | 0x6F => .next s { h.setX (rRd w) link with pc := h.pc + immJ w }
  | 0x67 => if f3 = 0 then .next s { h.setX (rRd w) link with pc := (a + immI w) &&& ~~~1#64 } else .illegal s h
  | 0x63 => match branch f3 a b with
    | some t => .next s { h with pc := if t then h.pc + immB w else link }
    | none => .illegal s h
  | 0x03 => execMem c s h w len
  | 0x23 => execMem c s h w len
  | 0x13 => put (aluImm f3 w a)
  | 0x1B => put (aluImmW f3 w a)
  | 0x33 => put (alu (rF7 w) f3 a b)
  | 0x3B => put (aluW (rF7 w) f3 a b)
  | 0x0F => if f3 = 0 then .ofHart s h len (some h) else .illegal s h
  | 0x2F => execAmo c s h w len
  | 0x73 => execSystem s h w len
  | 0x07 => execFpMem c s h w len
  | 0x27 => execFpMem c s h w len
  | 0x43 => .ofHart s h len (execFma h w 0x43)
  | 0x47 => .ofHart s h len (execFma h w 0x47)
  | 0x4B => .ofHart s h len (execFma h w 0x4B)
  | 0x4F => .ofHart s h len (execFma h w 0x4F)
  | 0x53 => .ofHart s h len (execFp h w)
  | 0x57 => .ofHart s h len (if f3 = 7 then execVset h w else execVarith h w)
  | _ => .illegal s h

/-- Fetch and run one instruction: 16 bits, or 32 where the lowest two are set. -/
def hartStep (c : KCtx) (s : State) (h : Hart) : HOut :=
  match c.read s h.pc.toNat 2 1 with
  | .trap s t => .trap s h t
  | .ok s lo =>
    if lo % 4 = 3 then
      match c.read s (h.pc.toNat + 2) 2 1 with
      | .trap s t => .trap s h t
      | .ok s hi => execRv c s h (lo + 65536 * hi) 4
    else match expandC lo with
      | some w => execRv c s h w 2
      | none => .illegal s h

/-- At most `n` instructions, up to the first trap. -/
def hartRun (c : KCtx) : Nat → State → Hart → State × Hart × Option Trap
  | 0, s, h => (s, h, none)
  | n + 1, s, h =>
    match hartStep c s h with
    | .next t g => hartRun c n t g
    | .trap t g x => (t, g, some x)

/-! ## The kernel of a slot -/

/-- `n` free 64-bit values, for registers whose values at a kernel's start the manual does not give (log 120). -/
def freeDwords (s : State) (n : Nat) : List Word :=
  (upto n).map (fun i => BitVec.ofNat 64 ((Config.freeWord (s.freeCtr + 2 * i)).toNat + 2 ^ 32 * (Config.freeWord (s.freeCtr + 2 * i + 1)).toNat))

/-- The hart at a kernel's start: pc at ENTRY, a0-a4 the arguments, a5 the tag, vector registers zero, frm RNE and no flag accrued; the
other registers are free (R138, R139; log 120). -/
def hartStart (s : State) (entry tag : Nat) (args : List Nat) : Hart :=
  let x := freeDwords s 32
  let put (l : List Word) (p : Nat × Nat) : List Word := setNth l p.1 (BitVec.ofNat 64 p.2)
  { Hart.reset with
    pc := BitVec.ofNat 64 entry
    x := ((args.zipIdx.map (fun (a : Nat × Nat) => (10 + a.2, a.1))) ++ [(15, tag)]).foldl put x
    f := (upto 32).map (fun i => BitVec.ofNat 32 (Config.freeWord (s.freeCtr + 64 + i)).toNat) }

/-- A kernel begins on the slot's hart. -/
def startKernel (s : State) (sl : Nat) (k : Kernel) (entry : Nat) (args : List Nat) : State :=
  let h := hartStart s entry k.tag args
  { (s.modCore sl (fun c => { c with kernel := some k, hart := h })) with freeCtr := s.freeCtr + 96 }

/-- The slot's kernel runs for at most `n` instructions: the state after them and why it stopped, if it did. -/
def runKernel (s : State) (sl n : Nat) (k : Kernel) : State × Option Trap :=
  let c : KCtx := ⟨sl, k.tag, k.q, k.ctx⟩
  let r := hartRun c n s (s.core sl).hart
  (r.1.modCore sl (fun x => { x with hart := r.2.1 }), r.2.2)

end Sys2Proof.Machine
end

