-- ==== Sys2Proof/Machine/OpCtl.lean ====
section
/-! DEFINITION. Producers and consumers of op queues, FENCE, WAIT_EVENT, VEC_CALL and the control cores' atomics (spec/04 R98, R106,
R115, R116, R135-R140; spec/12 R318). -/

namespace Sys2Proof.Machine

/-- OPQ_PROD_ADVANCE: the producer writes its entries, then PROD (R98; log 8), and the sequencer checks for an overrun (R99). The write
waits for the cluster memory, and wakes the core of an enabled queue (R380, Table 15.4). -/
def execOpqProdAdvance (sl q : Nat) (tods : List (List Byte)) (prod : Word32) (s : State) : Res :=
  done s (needOn s [pdCluster (clusterOf s sl)] (fun s =>
    let s1 := putTods s sl q (hdrW s sl q 0) tods
    let s2 := overrunCheck (setHdrW s1 sl q 0 prod.toNat) sl q
    if qEn s2 sl q then wakeDom s2 (sl / 64) (pdSlot sl) else s2))

/-- TOD_BAD_OPCODE: a TOD with an opcode outside Table 4.6 completes with BAD_FIELD (R106). -/
def execTodBadOpcode (sl q : Nat) (s : State) : Res :=
  done s (match todNow s sl q with
    | none => s
    | some t => if opcodeOk (tOpcode t) then s else finishWith (takeTod s sl q) sl (newOp s sl q t) stBadField)

/-- Records held for a full ring are written, oldest first, while there is room (R116). -/
def releaseHeld : Nat → State → Nat → Nat → State
  | 0, s, _, _ => s
  | n + 1, s, sl, q =>
    if cplFull s sl q then s
    else match (s.core sl).ops.find? (fun o => o.q = q && o.stage = .recordHeld) with
      | none => s
      | some o =>
        let s := s.modCore sl (fun c => { c with ops := c.ops.filter (fun x => x.tag ≠ o.tag) })
        releaseHeld n (writeRecord s sl o ⟨o.res.status, o.res.detail, o.res.flags, sumCounters o.res.units⟩) sl q

/-- CPL_CONS_ADVANCE. -/
def execCplConsAdvance (sl q : Nat) (cons : Word32) (s : State) : Res :=
  done s (releaseHeld 64 (setHdrW s sl q 3 cons.toNat) sl q)

/-! ## FENCE and WAIT_EVENT (R135, R136) -/

def formFence (t : Nat) : Form := Form.plain (bm 16 0 2) (chk (tF t 16 0 2 ≤ 2) stBadField)

/-- An operation that touches nothing. -/
def useNone (_ : State) (_ _ _ : Nat) (_ : Op) : Use := Use.bad 0

/-- A control operation begins, and completes when its condition holds. -/
def startWaiting (s : State) (_ : Nat) (o : Op) : State × Op × Nat := (s, { o with stage := OpStage.running }, 0)

def famFence : Family := ⟨formFence, useNone, startWaiting⟩

/-- FENCE. -/
def execFence (sl q : Nat) (s : State) : Res := done s (runTod s sl q (isOpc 0x3C) famFence)

/-- Whether every earlier-issued operation of the queue has completed (R135). -/
def fenceDone (c : Core) (o : Op) : Bool :=
  (c.ops.takeWhile (fun e => e.tag ≠ o.tag)).all (fun e => e.q ≠ o.q || !e.live)

def weEv (t : Nat) : Nat := tF t 16 0 4
def weTarget (t : Nat) : Nat := tF t 16 32 32
def weTimeout (t : Nat) : Nat := tF t 24 0 32

def formWait (t : Nat) : Form :=
  { Form.plain (bm 16 0 4 + bm 16 32 32 + bm 24 0 32) 0 with events := [weEv t] }

def famWait : Family := ⟨formWait, useNone, startWaiting⟩

/-- WAIT_EVENT. -/
def execWaitEvent (sl q : Nat) (s : State) : Res := done s (runTod s sl q (isOpc 0x3D) famWait)

/-- Value of a core's event counter. -/
def eventVal (s : State) (sl e : Nat) : Nat := s.f (rEvent sl e) 0 32

/-- Whether the counter has reached TARGET (R136). -/
def waitReached (s : State) (sl : Nat) (o : Op) : Bool :=
  subMod 32 (eventVal s sl (weEv o.tod)) (weTarget o.tod) < 2 ^ 31

/-- WAIT_EVENT_TIMEOUT: TIMEOUT_US has passed first (R136; log 3). -/
def execWaitEventTimeout (sl tag : Nat) (s : State) : Res :=
  done s (match opOf s sl tag with
    | none => s
    | some o =>
      if o.stage = .running && o.opc = 0x3D && weTimeout o.tod ≠ 0 && !waitReached s sl o then
        let s1 := s.raise .waitTimeout sl (packBits [(tag, 0, 14), (weEv o.tod, 14, 4)])
        finish s1 sl o ⟨stWaitTimeout, eventVal s sl (weEv o.tod), 0, Counters.zeros⟩
      else s)

/-! ## VEC_CALL (R139, R140) -/

/-- VEC_CALL names STAGE, and uses RND, only with an OUT (R52, R106, R139). -/
def formVec (t : Nat) : Form :=
  let conv : Bool := tDesc t 1 ≠ 0xFFFF
  { mask := bm 16 0 48 + bm 24 0 40 + bm 32 0 320
    slots := if conv then [0, 1] else [], need := if conv then [0, 1] else [], rnd := conv, streams := [], events := [], ports := []
    mx := false, gate := true, st := 0 }

/-- The bytes of a queue's scratchpad and cluster-memory windows (R140). -/
def queueWindows (s : State) (sl q : Nat) : List (Nat × Nat) :=
  let w := rOpq sl q 0x18
  let one (b l base : Nat) : List (Nat × Nat) := if b ≤ l then [(base + 65536 * b, base + 65536 * (l + 1))] else []
  one (s.f w 0 8) (s.f w 8 8) 0xFF0000000000 ++ one (s.f w 16 8) (s.f w 24 8) 0xFF0100000000

def useVec (s : State) (sl q t : Nat) (o : Op) : Use :=
  let ws := queueWindows s sl q
  if tDesc t 1 = 0xFFFF then { Use.bad 0 with ins := ws, outs := ws }
  else
    let x := dscD o.descs 0
    let out := dscD o.descs 1
    let st := firstSt [
      chk (x.size = out.size) stBadField,
      chk (x.fmt = fFP32) stFormatIllegal,
      chk (outFmtOk out.fmt) stFormatIllegal]
    if st ≠ 0 then Use.bad st else { Use.tensors [x] [out] with ins := ws, outs := ws }

/-- The kernel starts on the core's hart (R139); the stream of its conversion is captured and advances (R53), and so is the coarse scale
of OUT (R44). -/
def startVec (s : State) (sl : Nat) (o : Op) : State × Op × Nat :=
  let t := o.tod
  let used := tDesc t 1 ≠ 0xFFFF
  let out := dscD o.descs 1
  if used && badScale ⟨s, sl⟩ [out] then (s, o, stBadScale)
  else
    let cx := o.conv s sl
    let s1 := if used then advance s sl (rndAdvance o (regionCount out.fmt out.size)) else s
    let k : Kernel := { tag := o.tag, q := o.q, ctx := o.ctx, limit := tF t 24 0 40, hbm := 0 }
    (startKernel s1 sl k (tF t 16 0 48) ((upto 5).map (fun i => tF t (32 + 8 * i) 0 64)),
     { o with stage := OpStage.running, ctrs := [(cx.key, cx.ctr)]
              scales := if used then [(1, View.coarseCode ⟨s, sl⟩ out)] else [] }, 0)

def famVec : Family := ⟨formVec, useVec, startVec⟩

/-- VEC_CALL. -/
def execVecCall (sl q : Nat) (s : State) : Res := done s (runTod s sl q (isOpc 0x40) famVec)

/-- The running kernel's operation, when it has the tag. -/
def kernelOp (s : State) (sl tag : Nat) : Option Op :=
  match (s.core sl).kernel with
  | some k => if k.tag = tag then opOf s sl tag else none
  | none => none

/-- The kernel ends: its operation takes the flags its hart accrued and the bytes of HBM it moved. -/
def endKernel (s : State) (sl : Nat) (o : Op) (res : OpRes) : State :=
  let n := match (s.core sl).kernel with | some k => k.hbm | none => 0
  updOp (s.modCore sl (fun c => { c with kernel := none })) sl
    ({ o with hbm := o.hbm + n }.ready { res with flags := flFflags (s.core sl).hart.fflags })

/-- The kernel's hart runs for at most `n` instructions, whose reads meet ECC events; answers also why it stopped, an uncorrectable word
ending the operation (R114). -/
def kernelStep (s : State) (sl n : Nat) (o : Op) (ecc : List EccEvent) : State × Option Trap :=
  match (s.core sl).kernel with
  | none => (s, none)
  | some k =>
    let r := eccEvents s sl o ecc
    if r.2 then (r.1, some .uncorr) else runKernel r.1 sl n k

/-- The conversion of STAGE into OUT (R139). -/
def stageUnits (v : View) (o : Op) : List WUnit :=
  let x := dscD o.descs 0
  let out := dscD o.descs 1
  let k := nth (0, 0) o.ctrs 0
  convTensor out { mode := Rnd.ofCode (tRnd o.tod), key := k.1, ctr := k.2 } (dec32 (o.coarse 1)).toEx
    (fun cs => (upto (out.n 0)).map (fun i => vu 3 (v.elem32 x Ex.zero i cs)))

/-- The end of a kernel that returned: the status comes from a0, and with 0 STAGE is converted into OUT (R139). -/
def kernelReturn (s : State) (sl : Nat) (o : Op) : State :=
  let a0 := ((s.core sl).hart.xr 10).toNat
  if a0 ≠ 0 then endKernel s sl o { OpRes.ofStatus stKernelError with detail := a0 % 2 ^ 32 }
  else if tDesc o.tod 1 = 0xFFFF then endKernel s sl o (OpRes.ofStatus 0)
  else
    let reads := (dscD o.descs 0).readRuns ++ (dscD o.descs 1).coarseRun
    let (t, res) := withPoison (touchReads s sl o.ctx reads) sl reads { OpRes.ofStatus 0 with units := stageUnits ⟨s, sl⟩ o }
    endKernel t sl { o with hbm := o.hbm + hbmLen reads } res

/-- KERNEL_ECALL: the kernel's hart runs for at most `steps` instructions. One that ends in ecall returns; without a trap the kernel goes on
from there (log 3). -/
def execKernelEcall (sl tag steps : Nat) (ecc : List EccEvent) (s : State) : Res :=
  done s (match kernelOp s sl tag with
    | none => s
    | some o =>
      let r := kernelStep s sl steps o ecc
      match r.2 with
      | none => r.1
      | some (.cause 8) => kernelReturn r.1 sl o
      | some (.cause _) => s
      | some .uncorr => endKernel r.1 sl o (OpRes.ofStatus stMemUncorr))

/-- KERNEL_TRAP: the same with a trap other than ecall at the end, which ends the kernel with KERNEL_FAULT (R139). -/
def execKernelTrap (sl tag steps : Nat) (ecc : List EccEvent) (s : State) : Res :=
  done s (match kernelOp s sl tag with
    | none => s
    | some o =>
      let r := kernelStep s sl steps o ecc
      match r.2 with
      | none => r.1
      | some (.cause 8) => s
      | some (.cause n) =>
        endKernel (r.1.raise .kernelFault sl (packBits [(tag, 0, 14), (hartOf s sl, 14, 3), (n, 17, 15)])) sl o
          { OpRes.ofStatus stKernelFault with detail := n }
      | some .uncorr => endKernel r.1 sl o (OpRes.ofStatus stMemUncorr))

/-- The hart of a slot at its reset values, without a reservation. -/
def resetHart (s : State) (sl : Nat) : State :=
  let s := s.modCore sl (fun c => { c with hart := Hart.reset })
  { s with lr := s.lr.filter (fun p => p.1 ≠ hartId (clusterOf s sl) (hartOf s sl)) }

/-- KERNEL_TIMEOUT: after `steps` instructions without a trap CYCLE_LIMIT has passed; the operation ends with KERNEL_TIMEOUT, and the hart
is reset (R139; log 3). -/
def execKernelTimeout (sl tag steps : Nat) (ecc : List EccEvent) (s : State) : Res :=
  done s (match kernelOp s sl tag with
    | none => s
    | some o =>
      let r := kernelStep s sl steps o ecc
      match r.2 with
      | none => resetHart (endKernel r.1 sl o (OpRes.ofStatus stKernelTimeout)) sl
      | some .uncorr => endKernel r.1 sl o (OpRes.ofStatus stMemUncorr)
      | some _ => s)

/-! ## Atomics of the control cores (R318) -/

/-- Slot whose core a hart 0-3 of a cluster serves. -/
def hartSlot (s : State) (cl hart : Nat) : Nat :=
  slotOf s (32 * (cl / 8) + 4 * (cl % 8) + hart % 4)

/-- Context of a hart's requests: that of the kernel it runs; the firmware hart's requests are granted by windows of every context
(log 25). -/
def hartCtx (s : State) (cl hart : Nat) : Nat :=
  if hart = 4 then 0xFE
  else match (s.core (hartSlot s cl hart)).kernel with
    | some k => (match opOf s (hartSlot s cl hart) k.tag with | some o => o.ctx | none => 0xFE)
    | none => 0xFE

/-- Whether the windows of the die grant a hart's request in HBM; a refused one, and one outside HBM, which no window holds, reports
MEM_PROTECT for the kernel it runs (R110, R310, R313). -/
def hartGrant (s : State) (cl hart bit addr n : Nat) : Bool := addr + n ≤ hbmTop && winCovers s (cl / 8) (hartCtx s cl hart) bit addr n

def hartRefused (s : State) (cl hart addr : Nat) : State :=
  if hart = 4 then s
  else match (s.core (hartSlot s cl hart)).kernel with
    | some k => (match opOf s (hartSlot s cl hart) k.tag with
        | some o => raiseProt s (hartSlot s cl hart) o.q k.tag addr
        | none => s)
    | none => s

/-- CONTROL_CORE_AMO: performed in the owning slice (R317, R318); the old value returns to the hart. -/
def execControlCoreAmo (cl hart : Nat) (op : AmoOp) (wide : Bool) (addr data : Nat) (s : State) : Res :=
  let n := if wide then 8 else 4
  if addr % n ≠ 0 then done s s
  else if !hartGrant s cl hart 3 addr n then done s (hartRefused s cl hart addr)
  else if poisoned s addr n then done s (s.emit (.memData true []))
  else
    let old := s.num addr n
    let t := hbmWrite s (winHint s (cl / 8) (hartCtx s cl hart) 3 addr) addr (leBytes n (amoVal op (8 * n) old data))
    let t := (keepLr s t (hartId cl hart)).addCtr (rSlice (dieOfAddr addr) 0x28) 1
    done s (t.emit (.memData false (leBytes n old)))

/-- LOAD_RESERVED: the line is taken exclusive through the directory (R318). -/
def execLoadReserved (cl hart : Nat) (wide : Bool) (addr : Nat) (s : State) : Res :=
  let n := if wide then 8 else 4
  if addr % n ≠ 0 then done s s
  else if !hartGrant s cl hart 1 addr n then done s (hartRefused s cl hart addr)
  else
    let t := lineRead s (addr / 64) (winHint s (cl / 8) (hartCtx s cl hart) 1 addr)
    let t : State := { t with lr := t.lr.filter (fun p => p.1 ≠ hartId cl hart) ++ [(hartId cl hart, addr / 64)] }
    done s (t.emit (.memData (poisoned s addr n) (if poisoned s addr n then [] else s.bytes addr n)))

/-- STORE_CONDITIONAL: succeeds (answer 0) only when no other agent has written the line since the LR (R318). -/
def execStoreConditional (cl hart : Nat) (wide : Bool) (addr data : Nat) (s : State) : Res :=
  let n := if wide then 8 else 4
  if addr % n ≠ 0 then done s s
  else if !hartGrant s cl hart 2 addr n then done s (hartRefused s cl hart addr)
  else
    let held := s.lr.contains (hartId cl hart, addr / 64)
    if held && poisoned s addr n then done s (s.emit (.memData true []))
    else
    let t := if held then hbmWrite s (winHint s (cl / 8) (hartCtx s cl hart) 2 addr) addr (leBytes n data) else s
    let t : State := { t with lr := t.lr.filter (fun p => p.1 ≠ hartId cl hart) }
    done s (t.emit (.memData false (leBytes n (if held then 0 else 1))))

end Sys2Proof.Machine
end

