-- ==== Sys2Proof/Machine/Backward.lean ====
section
/-! DEFINITION. The row operations NORM_FWD, NORM_BWD, SOFTMAX_FWD and SOFTMAX_BWD, the activation stash, and the choice of the
gradient format (spec/05 R147-R164). -/

namespace Sys2Proof.Machine

/-! ## Row operations (R147-R154) -/

/-- R147: X's row length. -/
def rowSt (x : Desc) : Nat := chk (x.n 0 ≤ 2 ^ 20) stBadField

/-- GAMMA or BETA: FP32 or BF16, one dimension of H. -/
def vecSt (d : Desc) (h : Nat) (fmts : List Nat) : Nat :=
  firstSt [chk (d.ndim = 1 && d.n 0 = h) stBadField, chk (fmts.contains d.fmt) stFormatIllegal]

/-- RSTATS: FP32, two numbers for each row. -/
def rstatsSt (d x : Desc) : Nat :=
  firstSt [chk (d.size = setNth x.size 0 2) stBadField, chk (d.fmt = fFP32) stFormatIllegal]

/-- MASK: MASK1, dimension 0 equal to H, the others equal or broadcast. -/
def maskSt (d x : Desc) : Nat :=
  firstSt [chk (d.n 0 = x.n 0 && bcastOk d x) stBadField, chk (d.fmt = fMASK1) stFormatIllegal]

/-- A positive finite FP32 parameter. -/
def posFinite (c : Nat) : Bool := coarseOk c

/-- Conversion into an FP32 tensor, where nothing is rounded. -/
def cvExact : ConvCtx := ⟨.rne, 0, 0⟩

/-- A row's two statistics as the write unit that follows the units of the row (R51, R147, R169; log 104). -/
def rstatsUnit (d : Desc) (cs : List Nat) (a b : FV) : WUnit := convStretch d cvExact Ex.zero d.size cs 0 [vu 3 a, vu 3 b]

def rowParam (t : Nat) : Nat := tF t 16 32 32

/-- Whether a row operation's one-bit field at bit `i` of its body is set. -/
def rowBit (t i : Nat) : Bool := tB t 16 i

def formNormFwd (t : Nat) : Form :=
  let sl := [0, 1] ++ (if rowBit t 1 then [2] else []) ++ [3] ++ (if rowBit t 2 then [4] else [])
  { mask := bm 16 0 3 + bm 16 32 32, slots := sl, need := sl, rnd := true, streams := [], events := [], ports := portTable t
    mx := false, gate := true, st := chk (posFinite (rowParam t)) stBadField }

def useNormFwd (_ : State) (_ _ t : Nat) (o : Op) : Use :=
  let x := dscD o.descs 0
  let out := dscD o.descs 3
  let st := firstSt [
    rowSt x,
    chk (out.size = x.size) stBadField,
    vecSt (dscD o.descs 1) (x.n 0) [fFP32, fBF16],
    (if rowBit t 1 then vecSt (dscD o.descs 2) (x.n 0) [fFP32, fBF16] else 0),
    (if rowBit t 2 then rstatsSt (dscD o.descs 4) x else 0),
    chk (outFmtOk out.fmt) stFormatIllegal]
  if st ≠ 0 then Use.bad st
  else Use.tensors ([x, dscD o.descs 1] ++ (if rowBit t 1 then [dscD o.descs 2] else []))
    ([out] ++ (if rowBit t 2 then [dscD o.descs 4] else []))

/-- norm_fwd_row of R148. -/
def normFwdRow (layer : Bool) (eps : FV) (x gamma : List FV) (beta : Option (List FV)) : List FV × FV × FV :=
  let h : FV := .fin false x.length 0
  let mu := if layer then posZero (div32 (laneSum x) h) else FV.zero
  let d := if layer then x.map (fun v => sub32 v mu) else x
  let var := div32 (laneSum (d.map (fun v => mul32 v v))) h
  let r := transc .rsqrt (add32 var eps)
  let xh := d.map (fun v => mul32 v r)
  let y := match beta with
    | some b => ((xh.zip gamma).zip b).map (fun p => fma32 p.1.1 p.1.2 p.2)
    | none => (xh.zip gamma).map (fun p => mul32 p.1 p.2)
  (y, mu, r)

def normFwdUnits (v : View) (ds : List (Nat × Desc)) (t : Nat) (cx : ConvCtx) : List WUnit :=
  let x := dscD ds 0
  let out := dscD ds 3
  let g := v.run32 (dscD ds 1) [0, 0, 0, 0]
  let b := if rowBit t 1 then some (v.run32 (dscD ds 2) [0, 0, 0, 0]) else none
  let c := v.coarse out
  out.runs.flatMap (fun cs =>
    let (y, mu, r) := normFwdRow (!rowBit t 0) (dec32 (rowParam t)) (v.run32 x cs) g b
    let us := convRun out cx c cs (y.map (vu 3))
    if rowBit t 2 then us ++ [rstatsUnit (dscD ds 4) cs mu r] else us)

def startNormFwd (s : State) (sl : Nat) (o : Op) : State × Op × Nat :=
  let out := dscD o.descs 3
  let ins := [dscD o.descs 0, dscD o.descs 1] ++ (if rowBit o.tod 1 then [dscD o.descs 2] else [])
  startWith [dscD o.descs 0, out] (readsOf ins ++ out.coarseRun) (rndAdvance o (regionCount out.fmt out.size))
    (fun v ds => { OpRes.ofStatus 0 with units := normFwdUnits v ds o.tod (o.conv s sl) }) s sl o

def famNormFwd : Family := ⟨formNormFwd, useNormFwd, startNormFwd⟩

/-- NORM_FWD. -/
def execNormFwd (sl q : Nat) (s : State) : Res := done s (runTod s sl q (isOpc 0x0A) famNormFwd)

def formNormBwd (t : Nat) : Form :=
  let sl := [0, 1, 2, 3, 4, 5] ++ (if rowBit t 1 then [6] else [])
  { mask := bm 16 0 3, slots := sl, need := sl, rnd := true, streams := [], events := [], ports := portTable t
    mx := false, gate := true, st := 0 }

def normParams (t : Nat) (ds : List (Nat × Desc)) : List Desc := [dscD ds 5] ++ (if rowBit t 1 then [dscD ds 6] else [])

def useNormBwd (_ : State) (_ _ t : Nat) (o : Op) : Use :=
  let x := dscD o.descs 1
  let dy := dscD o.descs 0
  let dx := dscD o.descs 4
  let ps := normParams t o.descs
  let st := firstSt ([
    rowSt x,
    chk (dy.size = x.size && dx.size = x.size) stBadField,
    vecSt (dscD o.descs 2) (x.n 0) [fFP32, fBF16],
    rstatsSt (dscD o.descs 3) x,
    chk (outFmtOk dx.fmt) stFormatIllegal] ++ ps.map (fun d => vecSt d (x.n 0) [fFP32]))
  if st ≠ 0 then Use.bad st
  else
    let u := Use.tensors [dy, x, dscD o.descs 2, dscD o.descs 3] ([dx] ++ ps)
    if rowBit t 2 then { u with reads := u.reads ++ ps.flatMap Desc.readRuns } else u

/-- norm_bwd_row of R149: dx and x̂. -/
def normBwdRow (layer : Bool) (dy x gamma : List FV) (mu r : FV) : List FV × List FV :=
  let h : FV := .fin false x.length 0
  let xh := x.map (fun v => mul32 (if layer then sub32 v mu else v) r)
  let g := (dy.zip gamma).map (fun p => mul32 p.1 p.2)
  let b := div32 (laneSum ((g.zip xh).map (fun p => mul32 p.1 p.2))) h
  let a := if layer then div32 (laneSum g) h else FV.zero
  ((g.zip xh).map (fun p => mul32 r (sub32 (sub32 p.1 a) (mul32 p.2 b))), xh)

/-- The result of NORM_BWD: DX row by row, then DGAMMA and DBETA, each through the output conversion of R51 (log 104). -/
def normBwdRes (v : View) (ds : List (Nat × Desc)) (t : Nat) (cx : ConvCtx) : OpRes :=
  let dy := dscD ds 0
  let x := dscD ds 1
  let rs := dscD ds 3
  let dx := dscD ds 4
  let g := v.run32 (dscD ds 2) [0, 0, 0, 0]
  let c := v.coarse dx
  let start (d : Desc) : List FV := if rowBit t 2 then v.run32 d [0, 0, 0, 0] else (upto (x.n 0)).map (fun _ => FV.zero)
  let z0 : List FV := if rowBit t 1 then start (dscD ds 6) else []
  let res := x.runs.foldl (fun (acc : List WUnit × List FV × List FV) cs =>
    let dyv := v.run32 dy cs
    let (d, xh) := normBwdRow (!rowBit t 0) dyv (v.run32 x cs) g (v.elem rs 0 cs) (v.elem rs 1 cs)
    (acc.1 ++ convRun dx cx c cs (d.map (vu 3)),
     ((dyv.zip xh).zip acc.2.1).map (fun p => fma32 p.1.1 p.1.2 p.2),
     (dyv.zip acc.2.2).map (fun p => add32 p.2 p.1))) ([], start (dscD ds 5), z0)
  let put (d : Desc) (vs : List FV) : List WUnit := convTensor d cvExact Ex.zero (fun _ => vs.map (vu 3))
  { OpRes.ofStatus 0 with
    units := res.1 ++ put (dscD ds 5) res.2.1 ++ (if rowBit t 1 then put (dscD ds 6) res.2.2 else []) }

def startNormBwd (s : State) (sl : Nat) (o : Op) : State × Op × Nat :=
  let dx := dscD o.descs 4
  let ins := [dscD o.descs 0, dscD o.descs 1, dscD o.descs 2, dscD o.descs 3]
    ++ (if rowBit o.tod 2 then normParams o.tod o.descs else [])
  startWith [dscD o.descs 0, dscD o.descs 1, dx] (readsOf ins ++ dx.coarseRun) (rndAdvance o (regionCount dx.fmt dx.size))
    (fun v ds => normBwdRes v ds o.tod (o.conv s sl)) s sl o

def famNormBwd : Family := ⟨formNormBwd, useNormBwd, startNormBwd⟩

/-- NORM_BWD. -/
def execNormBwd (sl q : Nat) (s : State) : Res := done s (runTod s sl q (isOpc 0x0B) famNormBwd)

def formSoftFwd (t : Nat) : Form :=
  let sl := [0] ++ (if rowBit t 0 then [1] else []) ++ [2] ++ (if rowBit t 1 then [3] else [])
  { mask := bm 16 0 2 + bm 16 32 32, slots := sl, need := sl, rnd := true, streams := [], events := [], ports := portTable t
    mx := false, gate := true, st := chk (posFinite (rowParam t)) stBadScale }

def useSoftFwd (_ : State) (_ _ t : Nat) (o : Op) : Use :=
  let x := dscD o.descs 0
  let out := dscD o.descs 2
  let st := firstSt [
    rowSt x,
    chk (out.size = x.size) stBadField,
    (if rowBit t 0 then maskSt (dscD o.descs 1) x else 0),
    (if rowBit t 1 then rstatsSt (dscD o.descs 3) x else 0),
    chk (outFmtOk out.fmt) stFormatIllegal]
  if st ≠ 0 then Use.bad st
  else Use.tensors ([x] ++ (if rowBit t 0 then [dscD o.descs 1] else [])) ([out] ++ (if rowBit t 1 then [dscD o.descs 3] else []))

/-- Mask bits of a row; all kept without a mask (R150). -/
def keepRow (v : View) (m : Option Desc) (h : Nat) (cs : List Nat) : List Bool :=
  (upto h).map (fun i => match m with
    | some d => !(v.bcast d Ex.zero i cs).isZero
    | none => true)

def FV.isNegInf : FV → Bool
  | .inf s => s
  | _ => false

/-- softmax_fwd_row of R150: y, M and L. -/
def softFwdRow (tau : FV) (x : List FV) (keep : List Bool) : List FV × FV × FV :=
  let s := x.map (fun v => mul32 tau v)
  let m0 := (s.zip keep).foldl (fun (a : FV) p => if p.2 then a.max p.1 else a) (.inf true)
  if m0.isNegInf then (x.map (fun _ => FV.zero), .inf true, FV.zero)
  else
    let m := posZero m0
    let e := (s.zip keep).map (fun p => if p.2 then transc .exp (sub32 p.1 m) else FV.zero)
    let l := laneSum e
    ((e.zip keep).map (fun p => if p.2 then div32 p.1 l else FV.zero), m, l)

def softFwdUnits (v : View) (ds : List (Nat × Desc)) (t : Nat) (cx : ConvCtx) : List WUnit :=
  let x := dscD ds 0
  let out := dscD ds 2
  let c := v.coarse out
  out.runs.flatMap (fun cs =>
    let (y, m, l) := softFwdRow (dec32 (rowParam t)) (v.run32 x cs) (keepRow v (if rowBit t 0 then dsc ds 1 else none) (x.n 0) cs)
    let us := convRun out cx c cs (y.map (vu 4))
    if rowBit t 1 then us ++ [rstatsUnit (dscD ds 3) cs m l] else us)

def startSoftFwd (s : State) (sl : Nat) (o : Op) : State × Op × Nat :=
  let out := dscD o.descs 2
  let ins := [dscD o.descs 0] ++ (if rowBit o.tod 0 then [dscD o.descs 1] else [])
  startWith [dscD o.descs 0, out] (readsOf ins ++ out.coarseRun) (rndAdvance o (regionCount out.fmt out.size))
    (fun v ds => { OpRes.ofStatus 0 with units := softFwdUnits v ds o.tod (o.conv s sl) }) s sl o

def famSoftFwd : Family := ⟨formSoftFwd, useSoftFwd, startSoftFwd⟩

/-- SOFTMAX_FWD. -/
def execSoftmaxFwd (sl q : Nat) (s : State) : Res := done s (runTod s sl q (isOpc 0x0C) famSoftFwd)

/-- SOFTMAX_BWD names RSTATS only with SRC = 1 (R151; log 26). -/
def formSoftBwd (t : Nat) : Form :=
  let sl := [0, 1] ++ (if rowBit t 0 then [2] else []) ++ (if rowBit t 1 then [3] else []) ++ [4]
  { mask := bm 16 0 2 + bm 16 32 32, slots := sl, need := sl, rnd := true, streams := [], events := [], ports := portTable t
    mx := false, gate := true, st := chk (posFinite (rowParam t)) stBadScale }

def useSoftBwd (_ : State) (_ _ t : Nat) (o : Op) : Use :=
  let x := dscD o.descs 1
  let dx := dscD o.descs 4
  let st := firstSt [
    rowSt x,
    chk ((dscD o.descs 0).size = x.size && dx.size = x.size) stBadField,
    (if rowBit t 0 then maskSt (dscD o.descs 2) x else 0),
    (if rowBit t 1 then rstatsSt (dscD o.descs 3) x else 0),
    chk (outFmtOk dx.fmt) stFormatIllegal]
  if st ≠ 0 then Use.bad st
  else Use.tensors ([dscD o.descs 0, x] ++ (if rowBit t 0 then [dscD o.descs 2] else [])
    ++ (if rowBit t 1 then [dscD o.descs 3] else [])) [dx]

/-- softmax_bwd_row of R151. -/
def softBwdRow (tau : FV) (dy y : List FV) (keep : List Bool) : List FV :=
  let d := laneSum (((dy.zip y).zip keep).map (fun p => if p.2 then mul32 p.1.1 p.1.2 else FV.zero))
  ((dy.zip y).zip keep).map (fun p => if p.2 then mul32 tau (mul32 p.1.2 (sub32 p.1.1 d)) else FV.zero)

/-- One row of SOFTMAX_BWD: a fully masked row gives +0 everywhere (R152; with SRC = 0 it is known by its kept y being zero). -/
def softBwdFull (src : Bool) (tau m l : FV) (dy yx : List FV) (keep : List Bool) : List FV :=
  let y := if src then (yx.zip keep).map (fun p => if p.2 then div32 (transc .exp (sub32 (mul32 tau p.1) m)) l else FV.zero) else yx
  let masked := if src then m.isNegInf else (y.zip keep).all (fun p => !p.2 || p.1.isZero)
  if masked then yx.map (fun _ => FV.zero) else softBwdRow tau dy y keep

def softBwdUnits (v : View) (ds : List (Nat × Desc)) (t : Nat) (cx : ConvCtx) : List WUnit :=
  let x := dscD ds 1
  let dx := dscD ds 4
  let c := v.coarse dx
  dx.runs.flatMap (fun cs =>
    let keep := keepRow v (if rowBit t 0 then dsc ds 2 else none) (x.n 0) cs
    let rs := dscD ds 3
    let (m, l) := if rowBit t 1 then (v.elem rs 0 cs, v.elem rs 1 cs) else (FV.zero, FV.zero)
    convRun dx cx c cs ((softBwdFull (rowBit t 1) (dec32 (rowParam t)) m l (v.run32 (dscD ds 0) cs) (v.run32 x cs) keep).map (vu 3)))

def startSoftBwd (s : State) (sl : Nat) (o : Op) : State × Op × Nat :=
  let dx := dscD o.descs 4
  let ins := [dscD o.descs 0, dscD o.descs 1] ++ (if rowBit o.tod 0 then [dscD o.descs 2] else [])
    ++ (if rowBit o.tod 1 then [dscD o.descs 3] else [])
  startWith [dscD o.descs 0, dscD o.descs 1, dx] (readsOf ins ++ dx.coarseRun) (rndAdvance o (regionCount dx.fmt dx.size))
    (fun v ds => { OpRes.ofStatus 0 with units := softBwdUnits v ds o.tod (o.conv s sl) }) s sl o

def famSoftBwd : Family := ⟨formSoftBwd, useSoftBwd, startSoftBwd⟩

/-- SOFTMAX_BWD. -/
def execSoftmaxBwd (sl q : Nat) (s : State) : Res := done s (runTod s sl q (isOpc 0x0D) famSoftBwd)

/-- Cycles of one row of length `h` (R154, Table 5.5): 0 LayerNorm forward, 1 RMSNorm forward, 2 NORM_BWD, 3 SOFTMAX_FWD, 4 and 5
SOFTMAX_BWD with SRC 0 and 1. -/
def rowCycles (op h : Nat) : Nat :=
  let p := cdiv h 512
  let x := cdiv h 64 + cdiv h 128
  match op with
  | 0 => 3 * p + 16
  | 1 => 2 * p + 16
  | 2 => 2 * p + 16
  | 3 => p + x + 16
  | 4 => 2 * p + 16
  | _ => 2 * p + x + 16

/-! ## The activation stash (R155-R160) -/

def stStashFull : Nat := 0x0050
def stStashDup : Nat := 0x0051
def stStashMiss : Nat := 0x0052
def stTiedWeight : Nat := 0x0053

def rStash (sl o : Nat) : Nat := slotBase sl + 0x800 + o
/-- Start of a core's stash region, and its size in 64-byte units. -/
def stashBase (s : State) (sl : Nat) : Nat := 65536 * s.f (rStash sl 8) 16 32
def stashUnits (s : State) (sl : Nat) : Nat := 1024 * s.f (rStash sl 0) 16 24
def stashHead (s : State) (sl : Nat) : Nat := s.f (rStash sl 0x20) 0 32
def stashTail (s : State) (sl : Nat) : Nat := s.f (rStash sl 0x20) 32 32

/-- R155: who may use the stash. -/
def stashSt (s : State) (sl : Nat) (o : Op) : Nat :=
  firstSt [
    chk (s.fb (rStash sl 0) 0 && s.f (rStash sl 0) 8 8 = o.ctx) stMemProtect,
    chk (o.mb ≠ 0xFFFF) stBadField]

/-- The registers that follow the stash's contents: STASH_PTR, STASH_OCC and STASH_HWM (Table 5.7). -/
def stashRegs (s : State) (sl head tail : Nat) : State :=
  let rs := (s.core sl).stash
  let used := if rs.isEmpty then 0 else if head < tail then tail - head else stashUnits s sl - head + tail
  let ents := (rs.filter (fun r => !r.skip && !r.released)).length
  let s := (s.setF (rStash sl 0x20) 0 32 head).setF (rStash sl 0x20) 32 32 tail
  let s := (s.setF (rStash sl 0x10) 0 32 used).setF (rStash sl 0x10) 32 9 ents
  let s := s.setF (rStash sl 0x18) 0 32 (max used (s.f (rStash sl 0x18) 0 32))
  s.setF (rStash sl 0x18) 32 9 (max ents (s.f (rStash sl 0x18) 32 9))

/-- HEAD passes released records and SKIP headers (R158). -/
def stashPass : List StashRec → Nat → List StashRec × Nat
  | [], h => ([], h)
  | r :: t, h => if r.skip || r.released then stashPass t (r.off + r.len) else (r :: t, h)

/-- HEAD advances; with no live record left, HEAD and TAIL return to 0 (R158). -/
def stashAdvance (s : State) (sl : Nat) : State :=
  let (rs, h) := stashPass (s.core sl).stash (stashHead s sl)
  let s := s.modCore sl (fun c => { c with stash := rs })
  if rs.isEmpty then stashRegs s sl 0 0
  else stashRegs s sl (if h = stashUnits s sl then 0 else h) (stashTail s sl)

/-- The empty stash (R155). -/
def stashClear (s : State) (sl : Nat) : State := stashRegs (s.modCore sl (fun c => { c with stash := [] })) sl 0 0

/-- The live record of a key, one not yet RELEASED, the newest first (R156, R158). -/
def stashLook (c : Core) (mb vs slot : Nat) : Option StashRec :=
  c.stash.reverse.find? (fun r => !r.skip && !r.released && r.mb = mb && r.vstage = vs && r.slot = slot)

/-- Whether a STASH_GET of a record is in flight, one tag apart (R158). -/
def getInFlight (c : Core) (r : StashRec) (tag : Nat) : Bool :=
  c.ops.any (fun o => o.opc = 0x3F && o.tag ≠ tag && o.live && o.mb = r.mb && o.vstage = r.vstage && tF o.tod 16 0 8 = r.slot
    && (o.stage = .issued || nth 0 o.aux 1 = r.off + 1))

/-- Mark RELEASED every record whose release is due and of which no STASH_GET is in flight; its header's FLAGS follow (R157, R158). -/
def stashRelease (s : State) (sl ctx tag : Nat) : State :=
  let c := s.core sl
  let due := c.stash.filter (fun r => r.asked && !r.released && !getInFlight c r tag)
  if due.isEmpty then s
  else
    let s := due.foldl (fun s r => coreWrite s sl ctx (stashBase s sl + 64 * r.off + 6) [1#8]) s
    let s := s.modCore sl (fun c => { c with stash := c.stash.map (fun r => if due.contains r then { r with released := true } else r) })
    stashAdvance s sl

/-- Ask for a record's release. -/
def stashAsk (s : State) (sl off : Nat) : State :=
  s.modCore sl (fun c => { c with stash := c.stash.map (fun r => if !r.skip && r.off = off then { r with asked := true } else r) })

def spSlot (t : Nat) : Nat := tF t 16 0 8
def spMode (t : Nat) : Nat := tF t 16 8 2
def spReplace (t : Nat) : Bool := tB t 16 10
def spCoarse (t : Nat) : Nat := tF t 16 32 32

def formStashPut (t : Nat) : Form :=
  { mask := bm 16 0 11 + bm 16 32 32, slots := [0], need := [0], rnd := spMode t = 1, streams := [], events := [], ports := []
    mx := false, gate := true
    st := firstSt [chk (spMode t ≤ 2) stBadField, chk (spMode t ≠ 1 || coarseOk (spCoarse t)) stBadScale] }

def useStashPut (s : State) (sl _ t : Nat) (o : Op) : Use :=
  let st := firstSt [stashSt s sl o, chk (spMode t ≠ 1 || fmtAvail s sl fG16E4M3) stFormatUnavailable]
  if st ≠ 0 then Use.bad st else Use.tensors [dscD o.descs 0] []

/-- Format of the stored data (R156). -/
def storedFmt (mode f : Nat) : Nat := if mode = 0 then f else if mode = 1 then fG16E4M3 else fMASK1

/-- Whether a record holds a scale area: G16 and FP8 data (R156). -/
def stashScaled (f : Nat) : Bool := isG16 f || f = 3 || f = 4

/-- Bytes of a record's scale area and of its elements, each rounded up to 64 (R156). -/
def stashScaleLen (f : Nat) (size : List Nat) : Nat :=
  if isG16 f then roundUp (64 + cdiv (nth 1 size 0) 16 * prodN (size.drop 1)) 64 else if stashScaled f then 64 else 0

def stashDataLen (f : Nat) (size : List Nat) : Nat := roundUp (runBytes f (nth 1 size 0) * prodN (size.drop 1)) 64

/-- Length of a record in 64-byte units. -/
def stashLen (f : Nat) (size : List Nat) : Nat := (64 + stashScaleLen f size + stashDataLen f size) / 64

/-- The stored data of a record at an address, as a dense tensor (R156; log 27). -/
def storedDesc (a f ndim : Nat) (size : List Nat) : Desc :=
  { addr := a + 64 + stashScaleLen f size, fmt := f, ndim := ndim, port := false, scalePtr := a + 64, size := size
    stride := denseStrides f size }

/-- A record header (Table 5.6). -/
def stashHeader (mb vs slot kind mode orig stored ndim coarse : Nat) (size : List Nat) (len : Nat) : List Byte :=
  leBytes 2 mb ++ leBytes 2 vs ++ leBytes 1 slot ++ leBytes 1 kind ++ leBytes 1 0 ++ leBytes 1 mode ++ leBytes 1 orig ++ leBytes 1 stored
    ++ leBytes 1 ndim ++ leBytes 1 0 ++ leBytes 4 coarse ++ size.flatMap (leBytes 4) ++ leBytes 4 0 ++ leBytes 8 (64 * len) ++ leBytes 16 0

/-- Where a record of `len` units goes: its offset and the length of a SKIP header before it (R156). -/
def stashPlace (empty : Bool) (units head tail len : Nat) : Option (Nat × Nat) :=
  if empty then (if len ≤ units then some (0, 0) else none)
  else if head < tail then
    (if tail + len ≤ units then some (tail, 0)
     else if len ≤ head then some (0, units - tail) else none)
  else if tail + len ≤ head then some (tail, 0) else none

/-- STASH_PUT starts: the record is placed, and an old one under REPLACE released (R156). -/
def startStashPut (s : State) (sl : Nat) (o : Op) : State × Op × Nat :=
  let t := o.tod
  let x := dscD o.descs 0
  let mode := spMode t
  let f := storedFmt mode x.fmt
  let v : View := ⟨s, sl⟩
  let len := stashLen f x.size
  let old := stashLook (s.core sl) o.mb o.vstage (spSlot t)
  if badScale v [x] then (s, o, stBadScale)
  else if old.isSome && !spReplace t then (s, o, stStashDup)
  else
    let s1 := match old with
      | some r => stashRelease (stashAsk s sl r.off) sl o.ctx o.tag
      | none => s
    let c1 := s1.core sl
    let live := (c1.stash.filter (fun r => !r.skip && !r.released)).length
    match stashPlace c1.stash.isEmpty (stashUnits s sl) (stashHead s1 sl) (stashTail s1 sl) len with
    | none => (s.raise .stashFull sl (packBits [(o.tag, 0, 14), (len, 14, 32)]), o, stStashFull)
    | some (off, skip) =>
      if 256 ≤ live then (s.raise .stashFull sl (packBits [(o.tag, 0, 14), (len, 14, 32)]), o, stStashFull)
      else
        let a := stashBase s sl + 64 * off
        if !runOk s sl o.q o.ctx 2 a (64 * len) then (raiseProt s sl o.q o.tag (badByte s sl o.q o.ctx 2 a (64 * len)), o, stMemProtect)
        else
          let tail0 := stashTail s1 sl
          let rec0 : StashRec := { skip := false, mb := o.mb, vstage := o.vstage, slot := spSlot t, off := off, len := len, mode := mode, asked := false, released := false }
          let skips : List StashRec := if skip = 0 then [] else
            [{ skip := true, mb := 0, vstage := 0, slot := 0, off := tail0, len := skip, mode := 0, asked := false, released := false }]
          let s2 := s1.modCore sl (fun c => { c with stash := c.stash ++ skips ++ [rec0] })
          let s3 := stashRegs s2 sl (stashHead s1 sl) ((off + len) % stashUnits s sl)
          let (fw, s4) := if hasCoarse f then (0, s3) else s3.freeWord
          let coarse := if mode = 1 then spCoarse t else if hasCoarse f then v.coarseCode x else fw
          let d := storedDesc a f x.ndim x.size
          let hdr : WUnit := { WUnit.nil with writes :=
            (if skip = 0 then [] else
              [(stashBase s sl + 64 * tail0, stashHeader 0 0 0 1 0 0 0 0 0 [0, 0, 0, 0, 0] skip)])
            ++ [(a, stashHeader o.mb o.vstage (spSlot t) 0 mode x.fmt f x.ndim coarse x.size len)]
            ++ (if stashScaled f then [(a + 64, leBytes 4 coarse)] else []) }
          let cx := o.conv s sl
          let cX := v.coarse x
          let body :=
            if mode = 0 then x.runs.flatMap (fun cs => let m := v.moveRun x cs; moveUnits d cs m.1 m.2)
            else convTensor d cx (dec32 coarse).toEx (fun cs => (upto (x.n 0)).map (fun i => vu 2 (v.elem32 x cX i cs)))
          let s5 := advance (touchReads s4 sl o.ctx x.readRuns) sl (if mode = 1 then rndAdvance o (regionCount f x.size) else [])
          let (s6, res) := withPoison s5 sl x.readRuns { OpRes.ofStatus 0 with units := hdr :: body }
          (s6, { o.ready res with hbm := o.hbm + hbmLen x.readRuns }, 0)

def famStashPut : Family := ⟨formStashPut, useStashPut, startStashPut⟩

/-- STASH_PUT. -/
def execStashPut (sl q : Nat) (s : State) : Res := done s (runTod s sl q (isOpc 0x3E) famStashPut)

/-- Whether the transfer of a STASH_GET converts: its record is of MODE 1 and DST is FP32, FP16 or BF16 (R52, R158). The record is that of
the newest STASH_PUT of the key that has not started, else the one in the directory. -/
def getConverts (c : Core) (o : Op) : Bool :=
  let puts := c.ops.filter (fun e => e.stage = .issued && stashDep e o)
  let mode := match puts.getLast? with
    | some e => some (spMode e.tod)
    | none => (stashLook c o.mb o.vstage (spSlot o.tod)).map (·.mode)
  mode = some 1 && (dscD o.descs 0).fmt ≤ 2

/-- RND and RNG_STREAM of a STASH_GET are looked at once it is known that it converts (`useStashGet`). -/
def formStashGet (_ : Nat) : Form :=
  { mask := bm 16 0 9, slots := [0], need := [0], rnd := false, streams := [], events := [], ports := []
    mx := false, gate := true, st := 0 }

def useStashGet (s : State) (sl q t : Nat) (o : Op) : Use :=
  let conv := getConverts (s.core sl) o
  let named := if conv && tRnd t = 2 then [tStream t] else []
  let st := firstSt [
    stashSt s sl o,
    chk (!conv || tRnd t ≠ 3) stBadField,
    chk (named.all (fun n => bitN (s.f (rOpq sl q 0) 16 16) n)) stBadField]
  if st ≠ 0 then Use.bad st else { Use.tensors [] [dscD o.descs 0] with streams := named }

/-- STASH_GET starts: it looks its key up, checks DST against the record, and transfers (R158). -/
def startStashGet (s : State) (sl : Nat) (o : Op) : State × Op × Nat :=
  let t := o.tod
  let out := dscD o.descs 0
  let v : View := ⟨s, sl⟩
  match stashLook (s.core sl) o.mb o.vstage (spSlot t) with
  | none =>
    (s.raise .stashMiss sl (packBits [(o.tag, 0, 14), (o.mb, 14, 16), (o.vstage, 30, 12), (spSlot t, 42, 8)]), o, stStashMiss)
  | some r =>
    let a := stashBase s sl + 64 * r.off
    let h (i n : Nat) : Nat := s.num (a + i) n
    let mode := h 7 1
    let f := h 9 1
    let size := (upto 5).map (fun i => h (16 + 4 * i) 4)
    let d := storedDesc a f (h 10 1) size
    let reads := [(a, 64 * r.len)]
    let decode := mode = 1 && out.fmt ≠ fG16E4M3
    let fmtOk := if mode = 1 then (out.fmt = fG16E4M3 && v.coarseCode out = h 12 4) || out.fmt ≤ 2
      else out.fmt = f && (!hasCoarse f || v.coarseCode out = h 12 4)
    if !runOk s sl o.q o.ctx 1 a (64 * r.len) then (raiseProt s sl o.q o.tag (badByte s sl o.q o.ctx 1 a (64 * r.len)), o, stMemProtect)
    else if poisoned s a 64 then (s, o, stMemUncorr)
    else if out.size ≠ size then (s, o, stBadField)
    else if !fmtOk then (s, o, stFormatIllegal)
    else if badScale v [out] then (s, o, stBadScale)
    else
      let cx := o.conv s sl
      let units :=
        if decode then
          let c := v.coarse d
          convTensor out cx Ex.zero (fun cs => (upto (out.n 0)).map (fun i => vu 2 (v.elem32 d c i cs)))
        else out.runs.flatMap (fun cs => let m := v.moveRun d cs; moveUnits out cs m.1 m.2)
      let s1 := advance (touchReads s sl o.ctx reads) sl (if decode then rndAdvance o (regionCount out.fmt out.size) else [])
      let (s2, res) := withPoison s1 sl reads { OpRes.ofStatus 0 with units := units }
      (s2, { o.ready res with hbm := o.hbm + hbmLen reads, aux := setNth o.aux 1 (r.off + 1) }, 0)

def famStashGet : Family := ⟨formStashGet, useStashGet, startStashGet⟩

/-- STASH_GET. -/
def execStashGet (sl q : Nat) (s : State) : Res := done s (runTod s sl q (isOpc 0x3F) famStashGet)

/-- What the completion of a STASH_GET adds: a RELEASE is noted, and releases that were waiting take place (R158). -/
def stashGetDone (s : State) (sl : Nat) (o : Op) : State :=
  let off := nth 0 o.aux 1
  let s := if tB o.tod 16 8 && off ≠ 0 then stashAsk s sl (off - 1) else s
  stashRelease s sl o.ctx o.tag

/-! ## Gradient format per layer (R161-R164) -/

/-- A format-state record (Table 5.8), STATS apart. -/
structure FmtState where
  cur : Nat
  pend : Nat
  streak : Nat
  coarse : Nat
  t5 : Nat
  t4 : Nat
  step : Nat
  sat : Nat
  deriving DecidableEq, Repr

/-- Rank of a gradient format: E5M2 < G16-E4M3 < BF16. -/
def fmtRank (f : Nat) : Nat := if f = fE5M2 then 0 else if f = fG16E4M3 then 1 else 2

/-- FP32 code of 2^k for k from -149 to 127. -/
def pow2Code (k : Int) : Nat := enc32 (.fin false 1 k)

/-- choose_format of R162: COUNT, AMAX code and bins of the step record, the format state and the step. -/
def chooseFormat (count amax : Nat) (bins : List Nat) (st : FmtState) (t : Nat) : FmtState :=
  let bin (b : Nat) : Nat := nth 0 bins b
  let n := count - bin 0 - bin 63
  let e : Int := match dec32 amax with
    | .fin _ m x => ilog2Q (m * pow2N x) (pow2D x)
    | _ => 0
  let h : Nat := (min (max (e + 49) 1) 62).toNat
  let upTo (k : Nat) : Nat := sumN ((fromLen 1 k).map bin)
  let cand : Nat :=
    if 0 < bin 63 || 0 < st.sat then fBF16
    else if n = 0 then st.cur
    else if upTo (h - 29) * 2 ^ st.t5 ≤ n then fE5M2
    else if upTo (h - 15) * 2 ^ st.t4 ≤ n then fG16E4M3
    else fBF16
  let st :=
    if fmtRank st.cur < fmtRank cand then { st with cur := cand, pend := cand, streak := 0 }
    else if fmtRank cand < fmtRank st.cur then
      let st := if cand = st.pend then { st with streak := st.streak + 1 } else { st with pend := cand, streak := 1 }
      if st.streak = 2 then { st with cur := cand, streak := 0 } else st
    else { st with pend := st.cur, streak := 0 }
  let finite := !(dec32 amax).isNan && !(dec32 amax).isInf
  let st :=
    if 0 < n && finite then
      (if st.cur = fE5M2 then { st with coarse := pow2Code (max (e - 14) (-149)) }
       else if st.cur = fG16E4M3 then { st with coarse := pow2Code (max (e - 8) (-149)) }
       else st)
    else st
  { st with sat := 0, step := t }

end Sys2Proof.Machine
end

