-- ==== Sys2Proof/Machine/Attn.lean ====
section
/-! DEFINITION. Attention and the key-value cache: ATTN_FWD, ATTN_BWD, KV_APPEND with its admission pass, and PREFIX_LOOKUP (spec/06
R168-R190, R193). -/

namespace Sys2Proof.Machine

def stKvFull : Nat := 0x0060
def stKvNoSeq : Nat := 0x0061
def stKvSeqBusy : Nat := 0x0062
def stKvRange : Nat := 0x0063
def stPosLimit : Nat := 0x0064

/-- R178: the longest sequence. -/
def maxPos : Nat := 4194304

/-- Length bucket of a sequence (R177). -/
def bucketOf (n : Nat) : Nat := ((upto 16).find? (fun b => n ≤ 2 ^ (b + 7))).getD 15

/-! ## The allocator header and its tables (R179, R180, Tables 6.2-6.5) -/

def none32 : Nat := 0xFFFFFFFF

/-- Field of the header. -/
def kvF (s : State) (kva o n : Nat) : Nat := s.num (kva + o) n

/-- Write a number at an HBM address; nothing past HBM is written. -/
def kvPut (s : State) (a n v : Nat) : State := if a + n ≤ hbmTop then hbmWrite s 0 a (leBytes n v) else s

def kvSet (s : State) (kva o n v : Nat) : State := kvPut s (kva + o) n v

def kvFree (s : State) (kva : Nat) : Nat := kvF s kva 4 4
def kvCommit (s : State) (kva : Nat) : Nat := kvF s kva 8 4
def kvStepNo (s : State) (kva : Nat) : Nat := kvF s kva 24 8

/-- Frame-table entry of a frame: REF at +0, NEXT at +4. -/
def frameAt (s : State) (kva f : Nat) : Nat := kvF s kva 32 6 + 8 * f
/-- Sequence-table entry (Table 6.3). -/
def seqAt (s : State) (kva q : Nat) : Nat := kvF s kva 40 6 + 64 * q
/-- Request-ring entry (Table 6.4). -/
def reqAt (s : State) (kva i : Nat) : Nat := kvF s kva 48 6 + 32 * (i % 2 ^ kvF s kva 56 4)
/-- Node-table entry (Table 6.5). -/
def nodeAt (s : State) (kva n : Nat) : Nat := kvF s kva 80 6 + 64 * n

/-- Page-table entry of a sequence. -/
def pageAt (s : State) (kva q p : Nat) : Nat := s.num (seqAt s kva q + 24) 6 + 4 * p
def pageOf (s : State) (kva q p : Nat) : Nat := s.num (pageAt s kva q p) 4

def seqActive (s : State) (kva q : Nat) : Bool := q < kvF s kva 20 4 && s.num (seqAt s kva q) 1 = 1
def seqMaxLen (s : State) (kva q : Nat) : Nat := s.num (seqAt s kva q + 8) 4

/-- Add to a 32-bit field (modulo 2³²). -/
def kvAdd (s : State) (a : Nat) (d : Int) : State := kvPut s a 4 (ofSigned 32 ((s.num a 4 : Nat) + d))

/-- Push a frame onto the head of the free list. -/
def pushFrame (s : State) (kva f : Nat) : State :=
  let s := kvPut s (frameAt s kva f + 4) 4 (kvF s kva 12 4)
  kvAdd (kvSet s kva 12 4 f) (kva + 4) 1

/-- One holder of a frame fewer; at 0 the frame is free. -/
def dropFrame (s : State) (kva f : Nat) : State :=
  let r := s.num (frameAt s kva f) 4
  let s := kvPut s (frameAt s kva f) 4 (r - 1)
  if r ≤ 1 then pushFrame s kva f else s

/-- Slice[d] field. -/
def slF (s : State) (kva d o n : Nat) : Nat := kvF s kva (256 + 32 * d + o) n

/-- A slice's geometry (R179). -/
structure KvSlice where
  base : Nat
  heads : Nat
  fmt : Nat
  layers : Nat
  dim : Nat
  ck : Nat
  cv : Nat
  deriving DecidableEq, Repr

def sliceOf (s : State) (kva d : Nat) : KvSlice :=
  { base := slF s kva d 0 6, heads := slF s kva d 8 1, fmt := slF s kva d 9 1, layers := slF s kva d 10 2, dim := slF s kva d 12 2
    ck := slF s kva d 16 4, cv := slF s kva d 20 4 }

def KvSlice.w (k : KvSlice) : Nat := if k.fmt = fFP16 || k.fmt = fBF16 then 2 else 1

/-- Address of element 0 of a position (0-63) of a frame, for layer, kind (0 K, 1 V) and head (R179). -/
def KvSlice.at (k : KvSlice) (f lay kind h p : Nat) : Nat :=
  k.base + f * (2 * k.layers * k.heads * 64 * k.dim * k.w) + (((lay * 2 + kind) * k.heads + h) * 64 + p) * k.dim * k.w

/-- R179, R183: whether the slice can hold the layer, head and dimension. -/
def KvSlice.st (k : KvSlice) (lay h dim : Nat) : Nat :=
  firstSt [
    chk (h < k.heads && lay < k.layers && k.dim = dim) stBadField,
    chk (1 ≤ k.fmt && k.fmt ≤ 4) stFormatIllegal,
    chk (!hasCoarse k.fmt || (coarseOk k.ck && coarseOk k.cv)) stBadScale]

/-- Byte runs of the header's tables (R180). -/
def kvTables (s : State) (kva : Nat) : List (Nat × Nat) :=
  [(kvF s kva 32 6, 8 * kvF s kva 0 4), (kvF s kva 40 6, 64 * kvF s kva 20 4), (kvF s kva 48 6, 32 * 2 ^ kvF s kva 56 4),
   (kvF s kva 72 6, 64 * 2 ^ kvF s kva 68 4), (kvF s kva 80 6, 64 * kvF s kva 88 4), (kvF s kva 96 6, 1024 * kvF s kva 88 4)]

/-- Byte runs of the cache's slices (R179, R180). -/
def kvSlices (s : State) (kva : Nat) : List (Nat × Nat) :=
  (upto 8).filterMap (fun d =>
    let k := sliceOf s kva d
    if k.heads = 0 then none else some (k.base, kvF s kva 0 4 * (2 * k.layers * k.heads * 64 * k.dim * k.w)))

/-- The page table of a sequence. -/
def pageTab (s : State) (kva q : Nat) : Nat × Nat := (pageAt s kva q 0, 4 * cdiv (seqMaxLen s kva q) 64)

/-- The first byte of a list of HBM runs that the context's windows do not grant. -/
def kvBad (s : State) (sl : Nat) (o : Op) (bit : Nat) (rs : List (Nat × Nat)) : Option Nat :=
  (rs.find? (fun r => r.2 ≠ 0 && (hbmTop < r.1 + r.2 || !runOk s sl o.q o.ctx bit r.1 r.2))).map
    (fun r => badByte s sl o.q o.ctx bit r.1 r.2)

/-- The first byte of the cache's tables, which the operation reads (`bit` 1) or updates (`bit` 2), or of its slices, that lies outside the
context's windows (R180). -/
def kvOutside (s : State) (sl : Nat) (o : Op) (bit kva : Nat) : Option Nat :=
  (kvBad s sl o bit (kvTables s kva)).orElse (fun _ => kvBad s sl o 1 (kvSlices s kva))

def kvaOf (t : Nat) : Nat := tF t 32 0 48

/-- Raise POS_LIMIT (Table 6.9). -/
def raisePos (s : State) (sl tag pos : Nat) : State := s.raise .posLimit sl (packBits [(tag, 0, 14), (pos, 14, 24)])
/-- Raise KV_RANGE. -/
def raiseRange (s : State) (sl tag q page : Nat) : State :=
  s.raise .kvRange sl (packBits [(tag, 0, 14), (q, 14, 24), (page, 38, 16)])

/-! ## ATTN_FWD (R168-R173) -/

def atCausal (t : Nat) : Bool := tB t 16 0
def atMask (t : Nat) : Bool := tB t 16 1
def atPaged (t : Nat) : Bool := tOpcode t = 0x10 && tB t 16 2
def atSave (t : Nat) : Bool := tB t 16 3
def atGroup (t : Nat) : Nat := tF t 16 4 4 + 1
def atBase (t : Nat) : Nat := tF t 16 8 7
def atTau (t : Nat) : Nat := tF t 16 32 32

/-- Formats of Q, K, V and DOUT (R169). -/
def attnFmt (f : Nat) : Bool := 1 ≤ f && f ≤ 8

def formAttnFwd (t : Nat) : Form :=
  let sl := [0] ++ (if atPaged t then [] else [1, 2]) ++ [3] ++ (if atMask t then [4] else []) ++ [5] ++ (if atSave t then [6] else [])
  { mask := bm 16 0 15 + bm 16 32 32 + bm 24 0 3 + bm 24 8 24 + bm 32 0 48
    slots := sl, need := sl, rnd := true, streams := [], events := [], ports := [], mx := false, gate := true
    st := firstSt [
      chk (coarseOk (atTau t)) stBadScale,
      chk (atBase t % 8 = 0) stMisaligned,
      chk (!atPaged t || kvaOf t % 64 = 0) stMisaligned] }

/-- A SEQ tensor: INT32, three numbers for each sequence (R169). -/
def seqSt (d : Desc) : Nat :=
  firstSt [chk (d.n 0 = 3 && d.n 2 = 1 && d.n 3 = 1 && d.n 4 = 1) stBadField, chk (d.fmt = fINT32) stFormatIllegal]

def useAttnFwd (_ : State) (_ _ t : Nat) (o : Op) : Use :=
  let d := dscD o.descs
  let st := chk (!atPaged t || kvaOf t + 512 ≤ hbmTop) stMemProtect
  if st ≠ 0 then Use.bad st
  else
    let u := Use.tensors ([d 0] ++ (if atPaged t then [] else [d 1, d 2]) ++ [d 3] ++ (if atMask t then [d 4] else []))
      ([d 5] ++ (if atSave t then [d 6] else []))
    { u with
      slots := fromLen (atBase t) 8
      reads := u.reads ++ (if atPaged t then [(kvaOf t, 512)] else []) }

/-- Entry b of SEQ: q_len, k_len and slot; 0 for a number that a misshapen SEQ does not hold. -/
def seqEntry (v : View) (d : Desc) (b : Nat) : Int × Int × Int :=
  let g (i : Nat) : Int := if i < d.n 0 then v.int d i [b, 0, 0, 0] else 0
  (g 0, g 1, g 2)

/-- Where an attention operation's keys and values come from: element codes of K and V at (position, sequence) before coarse scales. -/
structure KvSrc where
  k : Nat → Nat → List FV
  v : Nat → Nat → List FV

/-- dot32 of R171. -/
def dot32 (a b : List FV) : FV := (accElement rne32 false FV.zero (a.zip b)).1

/-- Round an FP32 value to BF16. -/
def toBf16 (v : FV) : FV := match v with | .fin s _ _ => rneBf16 s v.toEx | x => x

/-- The unit of a value that is a NaN: that of the first operand which is one already, else the unit that forms the value (R61). -/
def unitOfNan (own : Nat) (ops : List VU) : Nat := ((ops.find? (fun p => p.1.isNan)).map (·.2)).getD own

/-- Progress of attn_fwd_row, each value with the unit of its NaN. -/
structure AttnRow where
  m : FV
  l : VU
  o : List VU

/-- One key block of attn_fwd_row (R171): `js` its positions, with their kept flags. A NaN that arises in the scores has UNIT 0, one in exp or
its argument UNIT 4, one in the engine's pv32 UNIT 0, and one in other arithmetic UNIT 3 (log 106). -/
def attnBlock (t cv : FV) (dim : Nat) (q : List FV) (kOf vOf : Nat → List FV) (a : AttnRow) (js : List (Nat × Bool)) : AttnRow :=
  if js.all (fun j => !j.2) then a
  else
    let ss := js.map (fun j => (j, if j.2 then mul32 t (dot32 q (kOf j.1)) else FV.zero))
    let mb := ss.foldl (fun (x : FV) p => if p.1.2 then x.max p.2 else x) (.inf true)
    if mb.isNegInf then a
    else
      let mn := posZero (a.m.max mb)
      let ux := if mb.isNan then 0 else 4
      let al : VU := (transc .exp (sub32 a.m mn), ux)
      let ps := ss.map (fun p => (p.1, if p.1.2 then transc .exp (sub32 p.2 mn) else FV.zero))
      let sum : VU := (laneSum (ps.map (·.2)), if ps.any (fun p => p.2.isNan) then ux else 3)
      let l := add32 (mul32 al.1 a.l.1) sum.1
      let vs := ps.map (fun p => if p.1.2 then vOf p.1.1 else [])
      let pv := (upto dim).map (fun e =>
        ((accElement rne32 false FV.zero ((ps.zip vs).map (fun p =>
          if p.1.1.2 then (toBf16 p.1.2, nth FV.zero p.2 e) else (FV.zero, FV.zero)))).1,
         if ps.any (fun p => p.2.isNan) then ux else 0))
      { m := mn
        l := (l, unitOfNan 3 [a.l, al, sum])
        o := (a.o.zip pv).map (fun p => (add32 (mul32 al.1 p.1.1) (mul32 cv p.2.1), unitOfNan 3 [p.1, al, p.2])) }

/-- attn_fwd_row of R171: the row's outputs with their NaN units, m and l. -/
def attnRow (t cv : FV) (dim n : Nat) (q : List FV) (kOf vOf : Nat → List FV) (keep : Nat → Bool) : List VU × FV × FV :=
  let a := (upto (cdiv n 128)).foldl (fun a c =>
    attnBlock t cv dim q kOf vOf a ((fromLen (128 * c) (min 128 (n - 128 * c))).map (fun j => (j, keep j))))
    { m := FV.inf true, l := vu 3 FV.zero, o := (upto dim).map (fun _ => vu 3 FV.zero) }
  if a.m.isNegInf then ((upto dim).map (fun _ => vu 3 FV.zero), .inf true, FV.zero)
  else (a.o.map (fun x => vu (unitOfNan 3 [x, a.l]) (div32 x.1 a.l.1)), a.m, a.l.1)

/-- The kept pairs of R170. -/
def kept (v : View) (t : Nat) (mask : Option Desc) (ql kl i j g b : Nat) : Bool :=
  i < ql && j < kl && (!atCausal t || j + ql ≤ kl + i)
    && (match mask with
        | some d => v.code d j [i, if d.n 2 = 1 then 0 else g, if d.n 3 = 1 then 0 else b, 0] = 1
        | none => true)

/-- Values of a tensor's dimension-0 run before its coarse scale. -/
def View.rawRun (v : View) (d : Desc) (cs : List Nat) : List FV := (upto (d.n 0)).map (fun i => v.elem d i cs)

/-- Keys and values of dense tensors. -/
def denseKv (v : View) (k vt : Desc) : KvSrc := ⟨fun j b => v.rawRun k [j, 0, b, 0], fun j b => v.rawRun vt [j, 0, b, 0]⟩

def pgDie (t : Nat) : Nat := tF t 24 0 3
def pgHead (t : Nat) : Nat := tF t 24 8 8
def pgLayer (t : Nat) : Nat := tF t 24 16 16

/-- Elements of a position in the paged cache (R184). -/
def pagedRun (s : State) (kva : Nat) (k : KvSlice) (lay kind h q j : Nat) : List FV :=
  let a := k.at (pageOf s kva q (j / 64)) lay kind h (j % 64)
  (upto k.dim).map (fun e => (ffmt k.fmt).dec (s.num (a + e * k.w) k.w))

/-- Keys and values of the paged cache. -/
def pagedKv (v : View) (t : Nat) (seq : Desc) : KvSrc :=
  let k := sliceOf v.s (kvaOf t) (pgDie t)
  let q (b : Nat) : Nat := (seqEntry v seq b).2.2.toNat
  ⟨fun j b => pagedRun v.s (kvaOf t) k (pgLayer t) 0 (pgHead t) (q b) j,
   fun j b => pagedRun v.s (kvaOf t) k (pgLayer t) 1 (pgHead t) (q b) j⟩

/-- The lengths of SEQ, or a status and the position of a POS_LIMIT (R170, R178). -/
def seqLimit (es : List (Int × Int × Int)) : Option Int :=
  es.findSome? (fun e => if (maxPos : Int) < e.1 then some e.1 else if (maxPos : Int) < e.2.1 then some e.2.1 else none)

def seqLens (t : Nat) (es : List (Int × Int × Int)) (lq lk : Nat) : Nat :=
  chk (es.all (fun e => 0 ≤ e.1 && 0 ≤ e.2.1 && e.1 ≤ lq && e.2.1 ≤ lk && (!atCausal t || e.1 ≤ e.2.1))) stBadField

/-- R169: shapes common to both operations, for Q, SEQ, MASK and Lk. -/
def attnShape (t : Nat) (q seq : Desc) (mask : Option Desc) (lk : Nat) : Nat :=
  firstSt [
    seqSt seq,
    chk (q.n 0 % 16 = 0 && 16 ≤ q.n 0 && q.n 0 ≤ 256 && q.n 2 = atGroup t && q.n 4 = 1 && q.n 1 ≤ maxPos && lk ≤ maxPos) stBadField,
    chk (seq.n 1 = q.n 3) stBadField,
    (match mask with
      | some m => firstSt [
          chk (m.n 0 = lk && m.n 1 = q.n 1 && (m.n 2 = 1 || m.n 2 = q.n 2) && (m.n 3 = 1 || m.n 3 = q.n 3) && m.n 4 = 1) stBadField,
          chk (m.fmt = fMASK1) stFormatIllegal]
      | none => 0)]

/-- A K-like tensor: D, Lk, 1, B. -/
def kvShape (d q : Desc) (lk : Nat) : Bool := d.size = [q.n 0, lk, 1, q.n 3, 1]

/-- The paged checks of R180 and R184: a status, with KV_RANGE's sequence and page or with the address of MEM_PROTECT. -/
def pagedSt (s : State) (sl t : Nat) (o : Op) (dim : Nat) (es : List (Int × Int × Int)) : Nat × Nat × Nat :=
  let kva := kvaOf t
  let k := sliceOf s kva (pgDie t)
  let st := k.st (pgLayer t) (pgHead t) dim
  match kvOutside s sl o 1 kva with
  | some a => (stMemProtect, a, 0)
  | none =>
    if es.any (fun e => e.2.2 < 0 || !seqActive s kva e.2.2.toNat) then (stKvNoSeq, 0, 0)
    else match kvBad s sl o 1 (es.map (fun e => pageTab s kva e.2.2.toNat)) with
    | some a => (stMemProtect, a, 0)
    | none =>
      match es.find? (fun e => seqMaxLen s kva e.2.2.toNat < e.2.1.toNat) with
      | some e => (stKvRange, e.2.2.toNat, (e.2.1.toNat - 1) / 64)
      | none =>
        match es.findSome? (fun e =>
            ((upto (cdiv e.2.1.toNat 64)).find? (fun p => pageOf s kva e.2.2.toNat p = none32)).map (fun p => (e.2.2.toNat, p))) with
        | some (q, p) => (stKvRange, q, p)
        | none =>
          if st ≠ 0 then (st, 0, 0)
          else
            match kvBad s sl o 1 (es.flatMap (fun e => (upto (cdiv e.2.1.toNat 64)).flatMap (fun p =>
                let f := pageOf s kva e.2.2.toNat p
                [(k.at f (pgLayer t) 0 (pgHead t) 0, 64 * k.dim * k.w), (k.at f (pgLayer t) 1 (pgHead t) 0, 64 * k.dim * k.w)]))) with
            | some a => (stMemProtect, a, 0)
            | none => (0, 0, 0)

/-- Byte runs of the cache that a paged ATTN_FWD reads. -/
def pagedRuns (s : State) (t : Nat) (es : List (Int × Int × Int)) : List (Nat × Nat) :=
  let kva := kvaOf t
  let k := sliceOf s kva (pgDie t)
  (kva, 512) :: es.flatMap (fun e => (upto (cdiv e.2.1.toNat 64)).flatMap (fun p =>
    let f := pageOf s kva e.2.2.toNat p
    let n := min 64 (e.2.1.toNat - 64 * p) * k.dim * k.w
    [(k.at f (pgLayer t) 0 (pgHead t) 0, n), (k.at f (pgLayer t) 1 (pgHead t) 0, n)]))

/-- Coarse scale of a tensor as an FP32 value. -/
def View.coarse32 (v : View) (d : Desc) : FV := dec32 (v.coarseCode d)

/-- The write units of ATTN_FWD: rows of OUT in row-major order, each followed by its RSTATS, which no output conversion forms (R61, R172;
log 104). -/
def attnFwdUnits (v : View) (o : Op) (cx : ConvCtx) (es : List (Int × Int × Int)) : List WUnit :=
  let t := o.tod
  let d := dscD o.descs
  let q := d 0
  let out := d 5
  let mask := if atMask t then dsc o.descs 4 else none
  let src := if atPaged t then pagedKv v t (d 3) else denseKv v (d 1) (d 2)
  let ks := sliceOf v.s (kvaOf t) (pgDie t)
  let ck := if atPaged t then (if hasCoarse ks.fmt then dec32 ks.ck else FV.one) else v.coarse32 (d 1)
  let cv := if atPaged t then (if hasCoarse ks.fmt then dec32 ks.cv else FV.one) else v.coarse32 (d 2)
  let tt := mul32 (mul32 (v.coarse32 q) ck) (dec32 (atTau t))
  let c := v.coarse out
  out.runs.flatMap (fun cs =>
    let i := nth 0 cs 0
    let g := nth 0 cs 1
    let b := nth 0 cs 2
    let e := nth (0, 0, 0) es b
    let ql := e.1.toNat
    let kl := e.2.1.toNat
    let (y, m, l) := attnRow tt cv (q.n 0) kl (v.rawRun q cs) (fun j => src.k j b) (fun j => src.v j b)
      (fun j => kept v t mask ql kl i j g b)
    let us := convRun out cx c cs y
    let us := if i < ql then us else us.map (fun u => { u with cnt := Counters.zeros })
    if atSave t then us ++ [{ WUnit.nil with writes := [((d 6).runAddr cs, leBytes 4 (enc32 (posZero m)) ++ leBytes 4 (enc32 (posZero l)))] }]
    else us)

/-- Mark working slots EMPTY (R169). -/
def emptySlots (s : State) (sl : Nat) (ks : List Nat) : State :=
  s.modCore sl (fun c => { c with
    tags := ks.foldl (fun l k => put SlotTag.empty l k .empty) c.tags
    acc := c.acc.filter (fun p => !ks.contains p.1) })

/-- R95: a POISON slot answers every operation that names it with ACC_UNCORR. -/
def poisonSt (s : State) (sl : Nat) (ks : List Nat) : Nat :=
  chk (!ks.any (fun k => look SlotTag.empty (s.core sl).tags k = .poison)) stAccUncorr

/-- ATTN_FWD starts: the position limit, then shapes and formats, lengths and the cache are checked (R169, R170, R178, R184). -/
def startAttnFwd (s : State) (sl : Nat) (o : Op) : State × Op × Nat :=
  let t := o.tod
  let d := dscD o.descs
  let v : View := ⟨s, sl⟩
  let q := d 0
  let mask := if atMask t then dsc o.descs 4 else none
  let es := (upto ((d 3).n 1)).map (seqEntry v (d 3))
  let lk := if !atPaged t then (d 1).n 1 else match mask with
    | some m => m.n 0
    | none => (es.foldl (fun (a : Int) (e : Int × Int × Int) => max a e.2.1) 1).toNat
  if anyPoison s sl (d 3).readRuns then (s, o, stMemUncorr)
  else match (if (d 3).fmt = fINT32 then seqLimit es else none) with
  | some p => (raisePos s sl o.tag p.toNat, o, stPosLimit)
  | none =>
    let kvOk := atPaged t || (kvShape (d 1) q lk && kvShape (d 2) q lk)
    let kf := if atPaged t then (sliceOf s (kvaOf t) (pgDie t)).fmt else (d 1).fmt
    let vf := if atPaged t then kf else (d 2).fmt
    let st := firstSt [
      attnShape t q (d 3) mask lk,
      chk (kvOk && (d 5).size = q.size && (!atSave t || (d 6).size = setNth q.size 0 2)) stBadField,
      chk (attnFmt q.fmt && attnFmt kf && attnFmt vf && pairOk .acc32 q.fmt kf && outFmtOk (d 5).fmt) stFormatIllegal,
      chk (!atSave t || (d 6).fmt = fFP32) stFormatIllegal,
      seqLens t es (q.n 1) lk,
      poisonSt s sl o.slots]
    let pg := if atPaged t then pagedSt s sl t o (q.n 0) es else (0, 0, 0)
    if st ≠ 0 then (s, o, st)
    else if pg.1 = stKvRange then (raiseRange s sl o.tag pg.2.1 pg.2.2, o, stKvRange)
    else if pg.1 = stMemProtect then (raiseProt s sl o.q o.tag pg.2.1, o, stMemProtect)
    else if pg.1 ≠ 0 then (s, o, pg.1)
    else
      let scaled := [q, d 5] ++ (if atPaged t then [] else [d 1, d 2])
      let reads := readsOf ([q, d 3] ++ (if atPaged t then [] else [d 1, d 2]) ++ (mask.toList)) ++ (d 5).coarseRun
        ++ (if atPaged t then pagedRuns s t es else [])
      let (s1, o1, st1) := startWith scaled reads (rndAdvance o (regionCount (d 5).fmt (d 5).size))
        (fun v _ => { OpRes.ofStatus 0 with units := attnFwdUnits v o (o.conv s sl) es }) s sl o
      (if st1 = 0 then emptySlots s1 sl o.slots else s1, o1, st1)

def famAttnFwd : Family := ⟨formAttnFwd, useAttnFwd, startAttnFwd⟩

/-- ATTN_FWD. -/
def execAttnFwd (sl q : Nat) (s : State) : Res := done s (runTod s sl q (isOpc 0x10) famAttnFwd)

/-! ## ATTN_BWD (R174-R176) -/

def formAttnBwd (t : Nat) : Form :=
  let sl := [0, 1, 2, 3, 4, 5] ++ (if atMask t then [6] else []) ++ [7, 8, 9, 10]
  { mask := bm 16 0 2 + bm 16 4 11 + bm 16 32 32 + bm 88 0 48
    slots := sl, need := sl, rnd := true, streams := [], events := [], ports := [], mx := false, gate := true
    st := firstSt [chk (coarseOk (atTau t)) stBadScale, chk (atBase t % 16 = 0) stMisaligned] }

def useAttnBwd (_ : State) (_ _ t : Nat) (o : Op) : Use :=
  let d := dscD o.descs
  { Use.tensors ([d 0, d 1, d 2, d 3, d 4, d 5, d 7] ++ (if atMask t then [d 6] else [])) [d 8, d 9, d 10] with
    slots := fromLen (atBase t) 16 }

/-- What ATTN_BWD forms for one query row: its sequence's probabilities and score gradients by key position, each with the unit of its NaN
(R174 steps 1-3). -/
structure BwdRow where
  q : List FV
  dout : List FV
  /-- (p, dS) by key position; none where p is +0 by definition. -/
  pd : List (Option (VU × VU))

/-- A row with no p but the +0 of its definition: it receives +0 in DQ (R174). -/
def BwdRow.masked (r : BwdRow) : Bool := r.pd.all Option.isNone

/-- acc32 of R73 over terms, with LONGSUM. -/
def acc32 (ab : List (FV × FV)) : FV × Bool := accElement rne32 false FV.zero ab

/-- Steps 1-3 of R174 for row (g, i) of sequence b, over `lk` key positions. -/
def bwdRow (v : View) (o : Op) (t cdv : FV) (lk kl ql : Nat) (i g b : Nat) : BwdRow :=
  let d := dscD o.descs
  let tod := o.tod
  let mask := if atMask tod then dsc o.descs 6 else none
  let cs := [i, g, b, 0]
  let q := v.rawRun (d 0) cs
  let dout := v.rawRun (d 4) cs
  let m := v.elem (d 7) 0 cs
  let l := v.elem (d 7) 1 cs
  let dl := vu 3 (laneSum (((v.run32 (d 4) cs).zip (v.run32 (d 3) cs)).map (fun p => mul32 p.1 p.2)))
  let pd := (upto lk).map (fun j =>
    if kept v tod mask ql kl i j g b && !m.isNegInf then
      let s := vu 0 (mul32 t (dot32 q (v.rawRun (d 1) [j, 0, b, 0])))
      let ex : VU := (transc .exp (sub32 s.1 m), unitOfNan 4 [s])
      let p : VU := (div32 ex.1 l, unitOfNan 3 [ex])
      let dot := vu 0 (dot32 dout (v.rawRun (d 2) [j, 0, b, 0]))
      let dp : VU := (mul32 cdv dot.1, unitOfNan 3 [dot])
      some (p, (mul32 p.1 (sub32 dp.1 dl.1), unitOfNan 3 [p, dp, dl]))
    else none)
  { q := q, dout := dout, pd := pd }

/-- A value of ATTN_BWD's result, `f` times a sum of the engine over p or dS: a NaN has the unit of the first term that is one, else UNIT 0
when the sum is one, else UNIT 3 (log 28, log 106). -/
def bwdVu (f : FV) (terms : List (Option VU)) (acc : FV) : VU :=
  (mul32 f acc, unitOfNan 3 (terms.filterMap id ++ [vu 0 acc]))

/-- The results of ATTN_BWD: DQ, then DK, then DV, each a row-major tensor. Each of the three starts on a fresh Philox block, in that order, so
that the stream advances by the sum of the three ceilings (DESIGN CHOICE, log 28). -/
def attnBwdRes (v : View) (o : Op) (cx : ConvCtx) (es : List (Int × Int × Int)) : OpRes :=
  let d := dscD o.descs
  let q := d 0
  let k := d 1
  let cQ := v.coarse32 q
  let cK := v.coarse32 k
  let t := mul32 (mul32 cQ cK) (dec32 (atTau o.tod))
  let cdv := mul32 (v.coarse32 (d 4)) (v.coarse32 (d 2))
  let rows := (upto (q.n 3)).map (fun b =>
    let e := nth (0, 0, 0) es b
    (upto (q.n 2)).flatMap (fun g => (upto (q.n 1)).map (fun i => bwdRow v o t cdv (k.n 1) e.2.1.toNat e.1.toNat i g b)))
  let rowOf (b g i : Nat) : BwdRow := nth ⟨[], [], []⟩ (nth [] rows b) (g * q.n 1 + i)
  let sel (x : Option (VU × VU)) (ds : Bool) : Option VU := x.map (fun p => if ds then p.2 else p.1)
  let term (x : Option VU) : FV := match x with | some p => toBf16 p.1 | none => FV.zero
  let dq := d 8
  let dk := d 9
  let dv := d 10
  let nq := cdiv (regionCount dq.fmt dq.size) 8
  let nk := cdiv (regionCount dk.fmt dk.size) 8
  let fQ := mul32 t cK
  let fK := mul32 t cQ
  let vdq (cs : List Nat) : List (VU × Bool) :=
    let b := nth 0 cs 2
    let r := rowOf b (nth 0 cs 1) (nth 0 cs 0)
    let ts := r.pd.map (fun x => sel x true)
    (upto (q.n 0)).map (fun e =>
      let a := acc32 (ts.zipIdx.map (fun x => (term x.1, if x.1.isSome then v.elem k e [x.2, 0, b, 0] else FV.zero)))
      (if r.masked then vu 3 FV.zero else bwdVu fQ ts a.1, a.2))
  let col (cs : List Nat) (ds : Bool) (f : FV) (val : BwdRow → Nat → FV) : List (VU × Bool) :=
    let b := nth 0 cs 2
    let j := nth 0 cs 0
    let ts := (nth [] rows b).map (fun r => sel (nth none r.pd j) ds)
    (upto (q.n 0)).map (fun e =>
      let a := acc32 (((nth [] rows b).zip ts).map (fun x => (term x.2, if x.2.isSome then val x.1 e else FV.zero)))
      (bwdVu f ts a.1, a.2))
  let conv (x : Desc) (off : Nat) (vals : List Nat → List (VU × Bool)) : List WUnit × Bool :=
    let rs := x.runs.map (fun cs => (cs, vals cs))
    (rs.flatMap (fun r => convRun x { cx with ctr := cx.ctr + off } (v.coarse x) r.1 (r.2.map (·.1))), rs.any (fun r => r.2.any (·.2)))
  let uq := conv dq 0 vdq
  let uk := conv dk nq (fun cs => col cs true fK (fun r e => nth FV.zero r.q e))
  let uv := conv dv (nq + nk) (fun cs => col cs false (v.coarse32 (d 4)) (fun r e => nth FV.zero r.dout e))
  { OpRes.ofStatus 0 with
    flags := if uq.2 || uk.2 || uv.2 then flLongsum else 0
    units := uq.1 ++ uk.1 ++ uv.1 }

/-- ATTN_BWD starts. -/
def startAttnBwd (s : State) (sl : Nat) (o : Op) : State × Op × Nat :=
  let t := o.tod
  let d := dscD o.descs
  let v : View := ⟨s, sl⟩
  let q := d 0
  let lk := (d 1).n 1
  let mask := if atMask t then dsc o.descs 6 else none
  let es := (upto ((d 5).n 1)).map (seqEntry v (d 5))
  if anyPoison s sl (d 5).readRuns then (s, o, stMemUncorr)
  else match (if (d 5).fmt = fINT32 then seqLimit es else none) with
  | some p => (raisePos s sl o.tag p.toNat, o, stPosLimit)
  | none =>
    let st := firstSt [
      attnShape t q (d 5) mask lk,
      chk (kvShape (d 1) q lk && kvShape (d 2) q lk && kvShape (d 9) q lk && kvShape (d 10) q lk) stBadField,
      chk ((d 3).size = q.size && (d 4).size = q.size && (d 8).size = q.size && (d 7).size = setNth q.size 0 2) stBadField,
      chk (attnFmt q.fmt && attnFmt (d 1).fmt && attnFmt (d 2).fmt && attnFmt (d 4).fmt && pairOk .acc32 q.fmt (d 1).fmt) stFormatIllegal,
      chk (outFmtOk (d 3).fmt && outFmtOk (d 8).fmt && outFmtOk (d 9).fmt && outFmtOk (d 10).fmt && (d 7).fmt = fFP32) stFormatIllegal,
      seqLens t es (q.n 1) lk,
      poisonSt s sl o.slots]
    if st ≠ 0 then (s, o, st)
    else
      let ins := [q, d 1, d 2, d 3, d 4, d 5, d 7] ++ mask.toList
      let outs := [d 8, d 9, d 10]
      let n := sumN (outs.map (fun x => 8 * cdiv (regionCount x.fmt x.size) 8))
      let (s1, o1, st1) := startWith ([q, d 1, d 2, d 3, d 4] ++ outs) (readsOf ins ++ outs.flatMap Desc.coarseRun) (rndAdvance o n)
        (fun v _ => attnBwdRes v o (o.conv s sl) es) s sl o
      (if st1 = 0 then emptySlots s1 sl o.slots else s1, o1, st1)

def famAttnBwd : Family := ⟨formAttnBwd, useAttnBwd, startAttnBwd⟩

/-- ATTN_BWD. -/
def execAttnBwd (sl q : Nat) (s : State) : Res := done s (runTod s sl q (isOpc 0x11) famAttnBwd)

/-- Core cycles of one block of 128 × 128 (R176). -/
def attnCycles (bwd : Bool) (dim fq fk fv : Nat) : Nat :=
  let ks := max 1 (min (kPer .acc32 fq) (kPer .acc32 fk))
  let kv := max 1 (min (kPer .acc32 fBF16) (kPer .acc32 fv))
  let a := cdiv (cdiv dim 16 * 16 * 16) ks
  let b := cdiv (cdiv dim 128 * 128 * 16) kv
  (if bwd then max (2 * a + 3 * b) 640 else max (a + b) 384) + 16

/-! ## The allocator's LOCK (R189, R190) -/

/-- Take LOCK by compare-and-swap in the slice. -/
def takeLock (s : State) (kva tag : Nat) : State := (kvSet s kva 16 4 tag).addCtr (rSlice (dieOfAddr kva) 0x28) 1

/-- Whether LOCK can be taken by an operation that has just arrived. -/
def lockFree (s : State) (kva : Nat) : Bool := kvF s kva 16 4 = 0 && !s.kvWait.any (fun w => w.1 = kva)

/-- Progress of an allocator step in `Op.aux` 3: 1 holds LOCK, 2 waits for it. -/
def Op.lock (o : Op) (x : Nat) : Op := { o with aux := setNth o.aux 3 x }

/-- The last update of an allocator step (R190). -/
def unlockKv (s : State) (o : Op) : State := if nth 0 o.aux 3 = 1 then kvSet s (kvaOf o.tod) 16 4 0 else s

/-! ## KV_APPEND with FUNC = APPEND (R183) -/

def kvFunc (t : Nat) : Nat := tF t 16 0 2
def kvSeq (t : Nat) : Nat := tF t 24 0 32
def kvPos (t : Nat) : Nat := tF t 24 32 22
def kaDie (t : Nat) : Nat := tF t 40 0 3
def kaHead (t : Nat) : Nat := tF t 40 8 8
def kaLayer (t : Nat) : Nat := tF t 40 16 16

def formKv (t : Nat) : Form :=
  let app := kvFunc t = 0
  { mask := bm 16 0 2 + bm 32 0 48 + bm 24 0 54 + bm 40 0 3 + bm 40 8 24
    slots := if app then [0, 1] else [], need := if app then [0, 1] else [], rnd := app
    streams := [], events := [], ports := [], mx := false, gate := true
    st := firstSt [chk (kvFunc t ≤ 1) stBadField, chk (kvaOf t % 64 = 0) stMisaligned] }

/-- The header must lie in HBM windows that grant the step (R180, R313). -/
def kvUse (u : Use) (t : Nat) : Use :=
  if hbmTop < kvaOf t + 512 then Use.bad stMemProtect
  else { u with reads := u.reads ++ [(kvaOf t, 512)], writes := u.writes ++ [(kvaOf t, 512)], atoms := u.atoms ++ [(kvaOf t + 16, 4)] }

def useKv (_ : State) (_ _ t : Nat) (o : Op) : Use :=
  if kvFunc t = 1 then kvUse (Use.bad 0) t
  else
    let k := dscD o.descs 0
    let v := dscD o.descs 1
    let st := chk (k.size = [k.n 0, k.n 1, 1, 1, 1] && v.size = k.size) stBadField
    -- R178: the position check comes before the shape checks
    if st ≠ 0 && kvPos t + k.n 1 ≤ maxPos then Use.bad st else kvUse (Use.tensors [k, v] []) t

/-- Allocate a frame for every page of a range that holds none (R183). -/
def allocPages (s : State) (kva q : Nat) : List Nat → State
  | [] => s
  | p :: ps =>
    if pageOf s kva q p ≠ none32 then allocPages s kva q ps
    else
      let f := kvF s kva 12 4
      let s1 := kvSet s kva 12 4 (s.num (frameAt s kva f + 4) 4)
      let s2 := kvAdd (kvAdd (kvAdd (kvAdd s1 (kva + 4) (-1)) (kva + 8) (-1)) (seqAt s1 kva q + 12) (-1)) (seqAt s1 kva q + 16) 1
      let s3 := kvPut s2 (frameAt s2 kva f) 4 1
      allocPages (kvPut s3 (pageAt s3 kva q p) 4 f) kva q ps

/-- Pages of positions POS to POS + n - 1. -/
def posPages (pos n : Nat) : List Nat := fromLen (pos / 64) ((pos + n - 1) / 64 - pos / 64 + 1)

/-- The units that write one of K and V into the slice (R179, R183). -/
def appendUnits (v : View) (o : Op) (cx : ConvCtx) (kva : Nat) (k : KvSlice) (kind : Nat) (x : Desc) : List WUnit :=
  let cX := v.coarse x
  let c : Ex := if hasCoarse k.fmt then (dec32 (if kind = 0 then k.ck else k.cv)).toEx else Ex.zero
  (upto (x.n 1)).flatMap (fun j =>
    let p := kvPos o.tod + j
    let a := k.at (pageOf v.s kva (kvSeq o.tod) (p / 64)) (kaLayer o.tod) kind (kaHead o.tod) (p % 64)
    let d : Desc := { addr := a, fmt := k.fmt, ndim := 2, port := false, scalePtr := 0, size := x.size, stride := [0, 0, 0, 0, 0] }
    convRun d cx c [j, 0, 0, 0] ((upto (x.n 0)).map (fun e => vu 2 (v.elem32 x cX e [j, 0, 0, 0]))))

/-- Whether an append has pages to allocate. -/
def needsFrames (s : State) (o : Op) : Bool :=
  (posPages (kvPos o.tod) ((dscD o.descs 0).n 1)).any (fun p => pageOf s (kvaOf o.tod) (kvSeq o.tod) p = none32)

/-- The frame-allocation step of an append, which takes LOCK and ends by writing it 0 (R183, R189, R190). -/
def allocStep (s : State) (o : Op) (pages : List Nat) : State :=
  if needsFrames s o then kvSet (allocPages (takeLock s (kvaOf o.tod) o.tag) (kvaOf o.tod) (kvSeq o.tod) pages) (kvaOf o.tod) 16 4 0 else s

/-- KV_APPEND runs: its checks, the allocation of frames and the conversion (R44, R180, R183). The V region starts on a fresh Philox block,
after the blocks of the K region (DESIGN CHOICE, log 29). -/
def appendGo (s : State) (sl : Nat) (o : Op) : State × Op × Nat :=
  let t := o.tod
  let kva := kvaOf t
  let kd := dscD o.descs 0
  let vd := dscD o.descs 1
  let n := kd.n 1
  let q := kvSeq t
  let k := sliceOf s kva (kaDie t)
  let pages := posPages (kvPos t) n
  if poisoned s kva 512 then (s, o, stMemUncorr)
  else if maxPos < kvPos t + n then (raisePos s sl o.tag (kvPos t + n - 1), o, stPosLimit)
  else match kvOutside s sl o 2 kva with
  | some a => (raiseProt s sl o.q o.tag a, o, stMemProtect)
  | none =>
    if !seqActive s kva q then (s, o, stKvNoSeq)
    else if seqMaxLen s kva q < kvPos t + n then (raiseRange s sl o.tag q ((kvPos t + n - 1) / 64), o, stKvRange)
    else match kvBad s sl o 2 [pageTab s kva q] with
    | some a => (raiseProt s sl o.q o.tag a, o, stMemProtect)
    | none =>
      match pages.find? (fun p => pageOf s kva q p ≠ none32 && 1 < s.num (frameAt s kva (pageOf s kva q p)) 4) with
      | some p => (raiseRange s sl o.tag q p, o, stKvRange)
      | none =>
        let st := firstSt [k.st (kaLayer t) (kaHead t) (kd.n 0), chk (!badScale ⟨s, sl⟩ [kd, vd]) stBadScale]
        if st ≠ 0 then (s, o, st)
        else
          let s1 := allocStep s o pages
          let s2 := kvPut s1 (seqAt s1 kva q + 4) 4 (max (s1.num (seqAt s1 kva q + 4) 4) (kvPos t + n))
          let blocks := pages.flatMap (fun p =>
            let f := pageOf s2 kva q p
            [(k.at f (kaLayer t) 0 (kaHead t) 0, 64 * k.dim * k.w), (k.at f (kaLayer t) 1 (kaHead t) 0, 64 * k.dim * k.w)])
          match kvBad s2 sl o 2 blocks with
          | some a => (raiseProt s sl o.q o.tag a, o, stMemProtect)
          | none =>
            let cx := o.conv s sl
            let nk := cdiv (regionCount k.fmt kd.size) 8
            startWith [] (readsOf [kd, vd]) (rndAdvance o (2 * 8 * nk))
              (fun v _ => { OpRes.ofStatus 0 with
                units := appendUnits v o cx kva k 0 kd ++ appendUnits v o { cx with ctr := cx.ctr + nk } kva k 1 vd }) s2 sl o

/-! ## The admission pass (R181, R182, R188) -/

/-- Entry of the hash table in line `l`, place `e`: address. -/
def hashAt (s : State) (kva l e : Nat) : Nat := kvF s kva 72 6 + 64 * (l % 2 ^ kvF s kva 68 4) + 16 * e

/-- The probe sequence of a hash (R186): the addresses of its entries up to the first empty one, and that one when there is one. -/
def probeGo (s : State) : List Nat → List Nat × Option Nat
  | [] => ([], none)
  | a :: t =>
    if s.num (a + 8) 4 = none32 then ([], some a)
    else let r := probeGo s t; (a :: r.1, r.2)

def probe (s : State) (kva h : Nat) : List Nat × Option Nat :=
  probeGo s ((upto 8).flatMap (fun i => (upto 4).map (fun e => hashAt s kva (h + i) e)))

/-- Whether a node can be reclaimed (R188). -/
def reclaimable (s : State) (kva n : Nat) : Bool :=
  let a := nodeAt s kva n
  s.num (a + 44) 1 = 1 && s.num (a + 12) 4 = 0
    && (upto 4).all (fun i => s.num (frameAt s kva (s.num (a + 16 + 4 * i) 4)) 4 = 1)

/-- The next node to reclaim: lowest LAST_STEP, then lowest number. -/
def reclaimNext (s : State) (kva : Nat) : Option Nat :=
  (upto (kvF s kva 88 4)).foldl (fun (best : Option Nat) n =>
    if !reclaimable s kva n then best
    else match best with
      | none => some n
      | some b => if s.num (nodeAt s kva n + 32) 8 < s.num (nodeAt s kva b + 32) 8 then some n else some b) none

/-- Reclaim a node (R188). -/
def reclaimNode (s : State) (kva n : Nat) : State :=
  let a := nodeAt s kva n
  let h := s.num a 8
  let par := s.num (a + 8) 4
  let s1 := (upto 4).foldl (fun s i => dropFrame s kva (s.num (a + 16 + 4 * i) 4)) s
  let s2 := match (probe s1 kva h).1.find? (fun e => s1.num (e + 8) 4 = n) with
    | some e => kvPut s1 (e + 8) 4 0xFFFFFFFE
    | none => s1
  let s3 := if par = none32 then s2 else kvAdd s2 (nodeAt s2 kva par + 12) (-1)
  let s4 := kvPut (kvPut s3 (a + 44) 1 0) (a + 48) 4 (kvF s3 kva 92 4)
  kvSet s4 kva 92 4 n

/-- FREE - COMMIT. -/
def kvRoom (s : State) (kva : Nat) : Nat := kvFree s kva - kvCommit s kva

/-- Reclaim nodes until `r` frames have room; none when that cannot be reached. -/
def reclaimTo : Nat → State → Nat → Nat → Option State
  | 0, s, kva, r => if r ≤ kvRoom s kva then some s else none
  | k + 1, s, kva, r =>
    if r ≤ kvRoom s kva then some s
    else match reclaimNext s kva with
      | some n => reclaimTo k (reclaimNode s kva n) kva r
      | none => none

/-- A LEAVE. -/
def leave (s : State) (kva q : Nat) : State :=
  let s1 := (upto (cdiv (seqMaxLen s kva q) 64)).foldl (fun s p =>
    let f := pageOf s kva q p
    if f = none32 then s else dropFrame s kva f) s
  let s2 := kvAdd s1 (kva + 8) (-(s1.num (seqAt s1 kva q + 12) 4 : Nat))
  kvPut s2 (seqAt s2 kva q) 1 0

/-- Admission of a JOIN of `r` frames. -/
def join (s : State) (kva q e r : Nat) : State :=
  let a := seqAt s kva q
  let pt := s.num (e + 16) 6
  let s1 := if pt + 4 * r ≤ hbmTop then hbmWrite s 0 pt ((upto (4 * r)).map (fun _ => 0xFF#8)) else s
  let s2 := kvPut s1 a 8 1
  let s3 := kvPut (kvPut (kvPut s2 (a + 8) 4 (s.num (e + 8) 4)) (a + 12) 4 r) (a + 16) 4 0
  let s4 := kvPut (kvPut (kvPut s3 (a + 24) 8 (s.num (e + 16) 8)) (a + 32) 8 (kvStepNo s kva)) (a + 40) 8 (s.num (e + 24) 8)
  kvAdd s4 (kva + 8) r

/-- Progress of the admissions: state, whether a JOIN has been refused for capacity, JOINs admitted, and their page tables. -/
structure Adm where
  s : State
  full : Bool
  n : Nat
  pts : List (Nat × Nat)

/-- One JOIN of the second pass. -/
def joinOne (sl tag kva : Nat) (a : Adm) (e : Nat) : Adm :=
  let s := a.s
  let q := s.num (e + 4) 4
  let ml := s.num (e + 8) 4
  let stat (s : State) (v : Nat) : State := kvPut s (e + 2) 2 v
  let r := cdiv ml 64
  if kvF s kva 20 4 ≤ q || ml = 0 || s.num (e + 16) 8 % 4 ≠ 0 then { a with s := stat s stBadField }
  else if seqActive s kva q then { a with s := stat s stKvSeqBusy }
  else if maxPos < ml then { a with s := stat (raisePos s sl tag ml) stPosLimit }
  else
    let refuse : Adm :=
      let t := s.raise .kvRefused sl (packBits [(q, 0, 24), (r, 24, 24), (min 0xFFFF (kvRoom s kva), 48, 16)])
      { a with s := stat t stKvFull, full := true }
    if a.full then refuse
    else match reclaimTo (kvF s kva 88 4) s kva r with
      | some t => { s := stat (join t kva q e r) 0, full := false, n := a.n + 1, pts := a.pts ++ [(s.num (e + 16) 6, 4 * r)] }
      | none => refuse

/-- Ring entries of a pass. -/
def passEntries (s : State) (kva : Nat) : List Nat :=
  (upto (subMod 32 (kvF s kva 60 4) (kvF s kva 64 4))).map (fun i => reqAt s kva (kvF s kva 64 4 + i))

/-- One LEAVE of the first pass: state, and the page table it reads. An entry that is neither takes BAD_FIELD. -/
def leaveOne (kva : Nat) (a : State × List (Nat × Nat)) (e : Nat) : State × List (Nat × Nat) :=
  let s := a.1
  let q := s.num (e + 4) 4
  match s.num e 1 with
  | 1 => a
  | 2 => if seqActive s kva q then (kvPut (leave s kva q) (e + 2) 2 0, a.2 ++ [pageTab s kva q]) else (kvPut s (e + 2) 2 stKvNoSeq, a.2)
  | _ => (kvPut s (e + 2) 2 stBadField, a.2)

/-- The admission pass: departures, admissions, finish (R181). A page table of a LEAVE or of an admitted JOIN that lies outside the windows
ends the operation with no effect (R180). LOCK stays held until the operation completes. -/
def admitGo (s : State) (sl : Nat) (o : Op) : State × Op × Nat :=
  let kva := kvaOf o.tod
  if poisoned s kva 512 then (s, o, stMemUncorr)
  else match kvOutside s sl o 2 kva with
  | some a => (raiseProt s sl o.q o.tag a, o, stMemProtect)
  | none =>
    let prod := kvF s kva 60 4
    let es := passEntries s kva
    let (s1, pts) := es.foldl (leaveOne kva) (takeLock s kva o.tag, [])
    let a := es.foldl (fun (a : Adm) e => if a.s.num e 1 = 1 then joinOne sl o.tag kva a e else a) { s := s1, full := false, n := 0, pts := pts }
    match kvBad s sl o 2 a.pts with
    | some x => (raiseProt s sl o.q o.tag x, o, stMemProtect)
    | none =>
      let s2 := kvSet (kvSet a.s kva 64 4 prod) kva 24 8 (kvStepNo a.s kva + 1)
      (s2, (o.ready { OpRes.ofStatus 0 with detail := a.n }).lock 1, 0)

/-! ## PREFIX_LOOKUP (R185-R187) -/

def formPrefix (t : Nat) : Form :=
  { mask := bm 16 0 2 + bm 24 0 32 + bm 32 0 48, slots := [0, 1], need := [0, 1], rnd := false
    streams := [], events := [], ports := [], mx := false, gate := true
    st := firstSt [chk (kvFunc t ≤ 2) stBadField, chk (kvaOf t % 64 = 0) stMisaligned] }

def usePrefix (_ : State) (_ _ t : Nat) (o : Op) : Use :=
  let x := dscD o.descs 0
  let r := dscD o.descs 1
  let st := firstSt [
    chk (x.ndim = 1 && r.size = [4, 1, 1, 1, 1]) stBadField,
    chk (x.fmt = fINT32 && r.fmt = fINT32) stFormatIllegal]
  if st ≠ 0 then Use.bad st else kvUse (Use.tensors [x] [r]) t

/-- Token bytes of segment k. -/
def segBytes (v : View) (x : Desc) (k : Nat) : List Byte := v.s.bytes (v.place (x.addr + 1024 * k)) 1024

/-- h_k of R185. -/
def segHash (prev : Nat) (toks : List Byte) : Nat := crc64 (leBytes 8 prev ++ toks)

/-- Outcome of a probe for one segment (R187): the matching node and the number of collisions. -/
def findNode (s : State) (kva h par : Nat) (toks : List Byte) : Option Nat × Nat :=
  (probe s kva h).1.foldl (fun (acc : Option Nat × Nat) e =>
    let n := s.num (e + 8) 4
    let a := nodeAt s kva n
    if acc.1.isSome || n = 0xFFFFFFFE || s.num e 8 ≠ h || s.num (a + 44) 1 ≠ 1 || s.num a 8 ≠ h then acc
    else if s.num (a + 8) 4 = par && s.bytes (kvF s kva 96 6 + 1024 * n) 1024 = toks then (some n, acc.2)
    else (none, acc.2 + 1)) (none, 0)

/-- Result of a walk: matched nodes in order, collisions (depth, hash), nodes inserted, and whether INSERT stopped for lack of a node
or an entry. -/
structure Walk where
  s : State
  nodes : List Nat
  coll : List (Nat × Nat)
  ins : Nat
  lack : Bool

/-- Insert segment k as a node (R187); none when no node or entry is free. -/
def insertNode (s : State) (kva q k h par : Nat) (toks : List Byte) : Option (State × Nat) :=
  let n := kvF s kva 92 4
  let p := probe s kva h
  let place := match p.1.find? (fun e => s.num (e + 8) 4 = 0xFFFFFFFE) with
    | some e => some e
    | none => p.2
  match place with
  | none => none
  | some e =>
    if n = none32 then none
    else
      let a := nodeAt s kva n
      let fr := (upto 4).map (fun i => pageOf s kva q (4 * k + i))
      let s1 := kvSet s kva 92 4 (s.num (a + 48) 4)
      let s2 := kvPut (kvPut (kvPut s1 a 8 h) (a + 8) 4 par) (a + 12) 4 0
      let s3 := fr.zipIdx.foldl (fun s p => kvPut s (a + 16 + 4 * p.2) 4 p.1) s2
      let s4 := kvPut (kvPut (kvPut s3 (a + 32) 8 (kvStepNo s kva)) (a + 40) 4 k) (a + 44) 1 1
      let s5 := fr.foldl (fun s f => kvAdd s (frameAt s kva f) 1) s4
      let s6 := if par = none32 then s5 else kvAdd s5 (nodeAt s5 kva par + 12) 1
      let ta := kvF s kva 96 6 + 1024 * n
      let s7 := if ta + 1024 ≤ hbmTop then hbmWrite s6 0 ta toks else s6
      some (kvPut (kvPut s7 e 8 h) (e + 8) 4 n, n)

/-- The walk over segments (R187); the segments below number `ins` may be inserted. -/
def walkGo (x : Desc) (sl kva q ins : Nat) : Nat → Nat → Nat → Nat → Walk → Walk
  | 0, _, _, _, w => w
  | fuel + 1, k, prev, par, w =>
    let toks := segBytes ⟨w.s, sl⟩ x k
    let h := segHash prev toks
    let r := findNode w.s kva h par toks
    let w := { w with coll := w.coll ++ (upto r.2).map (fun _ => (k, h)) }
    match r.1 with
    | some n => walkGo x sl kva q ins fuel (k + 1) h n { w with nodes := w.nodes ++ [n] }
    | none =>
      if ins ≤ k || r.2 ≠ 0 || (upto 4).any (fun i => pageOf w.s kva q (4 * k + i) = none32) then w
      else match insertNode w.s kva q k h par toks with
        | some (s, n) => walkGo x sl kva q ins fuel (k + 1) h n { w with s := s, ins := w.ins + 1 }
        | none => { w with lack := true }

/-- LAST_STEP of matched nodes (R187). -/
def stampNodes (s : State) (kva : Nat) (ns : List Nat) : State :=
  ns.foldl (fun s n => kvPut s (nodeAt s kva n + 32) 8 (kvStepNo s kva)) s

/-- ATTACH of matched nodes to a sequence. -/
def attachNodes (s : State) (kva q : Nat) (ns : List Nat) : State :=
  let m := ns.length
  let s1 := ns.zipIdx.foldl (fun s p =>
    (upto 4).foldl (fun s i =>
      let f := s.num (nodeAt s kva p.1 + 16 + 4 * i) 4
      kvAdd (kvPut s (pageAt s kva q (4 * p.2 + i)) 4 f) (frameAt s kva f) 1) s) s
  let a := seqAt s kva q
  let s2 := kvAdd (kvAdd (kvAdd s1 (a + 12) (-(4 * m : Nat))) (kva + 8) (-(4 * m : Nat))) (a + 16) (4 * m : Nat)
  kvPut s2 (a + 4) 4 (256 * m)

/-- PREFIX_LOOKUP runs in the slice (R187). -/
def prefixGo (s : State) (sl : Nat) (o : Op) : State × Op × Nat :=
  let t := o.tod
  let kva := kvaOf t
  let func := kvFunc t
  let q := kvSeq t
  let x := dscD o.descs 0
  let out := dscD o.descs 1
  if poisoned s kva 512 then (s, o, stMemUncorr)
  else match kvOutside s sl o (if func = 0 then 1 else 2) kva with
  | some a => (raiseProt s sl o.q o.tag a, o, stMemProtect)
  | none =>
    if func ≠ 0 && !seqActive s kva q then (s, o, stKvNoSeq)
    else if func = 1 && (s.num (seqAt s kva q + 4) 4 ≠ 0 || s.num (seqAt s kva q + 16) 4 ≠ 0) then (s, o, stKvSeqBusy)
    else match (if func = 0 then none else kvBad s sl o 2 [pageTab s kva q]) with
    | some a => (raiseProt s sl o.q o.tag a, o, stMemProtect)
    | none =>
      let ins := if func = 2 then s.num (seqAt s kva q + 4) 4 / 256 else 0
      let w := walkGo x sl kva q ins (x.n 0 / 256) 0 0 none32 { s := takeLock s kva o.tag, nodes := [], coll := [], ins := 0, lack := false }
      let s1 := w.coll.foldl (fun s c =>
        s.raise .prefixCollision sl (o.tag % 2 ^ 14 + c.1 % 2 ^ 24 * 2 ^ 14 + c.2 / 2 ^ 38 % 2 ^ 26 * 2 ^ 38)) w.s
      let s2 := if func = 1 then attachNodes (stampNodes s1 kva w.nodes) kva q (w.nodes.take (seqMaxLen s kva q / 256))
        else if func = 2 then stampNodes s1 kva w.nodes else s1
      let res : List Int := [w.nodes.length, w.coll.length, w.ins, if w.lack then 1 else 0]
      let (s3, o1, st) := startWith [] (readsOf [x]) []
        (fun _ _ => { OpRes.ofStatus 0 with
          detail := w.nodes.length
          units := [{ WUnit.nil with writes := [int32Run out [0, 0, 0, 0] 0 res] }] }) s2 sl o
      (s3, o1.lock 1, st)

/-- The allocator step of an operation: KV_APPEND, the admission pass or PREFIX_LOOKUP. -/
def kvGo (s : State) (sl : Nat) (o : Op) : State × Op × Nat :=
  if o.opc = 0x13 then prefixGo s sl o
  else if kvFunc o.tod = 1 then admitGo s sl o
  else appendGo s sl o

/-- Start of an operation that may need LOCK: it takes it, or waits for it (R189). -/
def startKv (s : State) (sl : Nat) (o : Op) : State × Op × Nat :=
  let kva := kvaOf o.tod
  let needs := o.opc = 0x13 || kvFunc o.tod = 1 || needsFrames s o
  if !needs || lockFree s kva then kvGo s sl o
  else ({ s with kvWait := s.kvWait ++ [(kva, sl, o.tag)] }, { o with stage := OpStage.running }.lock 2, 0)

def famKv : Family := ⟨formKv, useKv, startKv⟩
def famPrefix : Family := ⟨formPrefix, usePrefix, startKv⟩

/-- KV_APPEND with FUNC = APPEND, or with a FUNC that Table 6.7 does not list. -/
def execKvAppend (sl q : Nat) (s : State) : Res := done s (runTod s sl q (fun t => isOpc 0x12 t && kvFunc t ≠ 1) famKv)

/-- ADMISSION_PASS: KV_APPEND with FUNC = ADMIT. -/
def execAdmissionPass (sl q : Nat) (s : State) : Res := done s (runTod s sl q (fun t => isOpc 0x12 t && kvFunc t = 1) famKv)

/-- PREFIX_LOOKUP with FUNC = LOOKUP, or with a FUNC that Table 6.7 does not list. -/
def execPrefixLookup (sl q : Nat) (s : State) : Res :=
  done s (runTod s sl q (fun t => isOpc 0x13 t && kvFunc t ≠ 1 && kvFunc t ≠ 2) famPrefix)

/-- ATTACH: PREFIX_LOOKUP with FUNC = 1. -/
def execAttach (sl q : Nat) (s : State) : Res := done s (runTod s sl q (fun t => isOpc 0x13 t && kvFunc t = 1) famPrefix)

/-- INSERT: PREFIX_LOOKUP with FUNC = 2. -/
def execInsert (sl q : Nat) (s : State) : Res := done s (runTod s sl q (fun t => isOpc 0x13 t && kvFunc t = 2) famPrefix)

/-- KV_LOCK_GRANT: the waiting operation whose request arrived first takes LOCK; its wait is counted (R189; log 3). -/
def execKvLockGrant (sl tag cycles : Nat) (s : State) : Res :=
  done s (match opOf s sl tag with
    | none => s
    | some o =>
      let kva := kvaOf o.tod
      let first := (s.kvWait.find? (fun w => w.1 = kva)).any (fun w => w = (kva, sl, tag))
      if nth 0 o.aux 3 ≠ 2 || !first || kvF s kva 16 4 ≠ 0 then s
      else
        let s1 : State := { s with kvWait := s.kvWait.filter (fun w => w ≠ (kva, sl, tag)) }
        let s2 := s1.addCtr (slotBase sl + 0x788) cycles
        let o1 := { o with stage := OpStage.issued }.lock 0
        let (s3, o2, st) := kvGo s2 sl o1
        if st ≠ 0 then finishWith s3 sl o1 st else updOp s3 sl o2)

end Sys2Proof.Machine
end

