-- ==== Sys2Proof/Machine/Ring.lean ====
section
/-! DEFINITION. The Girth links as the rest of the package sees them: their ends, whether they carry traffic, and the routes between dies
(spec/01 R13, R27-R29; spec/07 R215). -/

namespace Sys2Proof.Machine

/-! ## Ends -/

def State.gend (s : State) (e : Nat) : GEnd := look GEnd.reset s.girth e
def State.setGend (s : State) (e : Nat) (x : GEnd) : State := { s with girth := putRaw s.girth e x }
def State.modGend (s : State) (e : Nat) (f : GEnd → GEnd) : State := s.setGend e (f (s.gend e))

/-- The end a link leads to (Table 1.2). -/
def farEnd (e : Nat) : Nat :=
  let d := e / 4
  match e % 4 with
  | 0 => 4 * ((d + 1) % 8) + 1
  | 1 => 4 * ((d + 7) % 8)
  | 2 => 4 * d + 3
  | _ => 4 * d + 2

/-- Port whose registers govern an end: those of port 2 govern both ends of the link to the hub. -/
def gPort (e : Nat) : Nat := if e % 4 = 3 then 2 else e % 4
def rGirth (e o : Nat) : Nat := girthBase (e / 4) (gPort e) + o

def gUp (s : State) (e : Nat) : Bool := e < 32 && s.fb (rGirth e 0) 0
def gActive (s : State) (e : Nat) : Nat := s.f (rGirth e 0) 8 5
def gRetired (s : State) (e g : Nat) : Bool := s.fb (rGirth e 0) (16 + g)
def gSpares (s : State) (e g : Nat) : Nat := s.f (rGirth e 0) (32 + 2 * g) 2

/-- CAP_DIE.STATE: 0 ABSENT, 1 TRAINING, 2 REDUCED, 3 FULL, 4 ISOLATED, 5 RESETTING. -/
def dieState (s : State) (d : Nat) : Nat := s.f (rCapDie d) 0 3

/-- Whether a die is isolated (R28). -/
def isolated (s : State) (d : Nat) : Bool := dieState s d = 4

/-- Die of a logical core. -/
def dieOfCore (n : Nat) : Nat := n / 32

/-- Whether a port has no active group left, so that it is down for good (R28, R29). -/
def gDead (s : State) (e : Nat) : Bool := (upto 16).all (fun g => gRetired s e g)

/-- Whether the link of an end carries nothing: a port of it is down, or the die behind it is absent or in reset. -/
def gLost (s : State) (e : Nat) : Bool :=
  gDead s e || gDead s (farEnd e) || dieState s (e / 4) = 0 || dieState s (e / 4) = 5 || dieState s (farEnd e / 4) = 0
    || dieState s (farEnd e / 4) = 5

/-! ## Routes between dies -/

/-- The ring neighbour whose port 2 stands in for that of die `d`: d + 1, and d + 7 when that one is degraded too (R27). A neighbour that
the port cannot reach is passed over (log 102). -/
def gStandIn (s : State) (d : Nat) : Nat :=
  let a := (d + 1) % 8
  let b := (d + 7) % 8
  let dead (e : Nat) : Bool := gDead s e || gDead s (farEnd e)
  if !dead (4 * a + 2) && !s.fb (rGirth (4 * a + 2) 0) 1 && !dead (4 * d) then a
  else if !dead (4 * b + 2) && !dead (4 * d + 1) then b else a

/-- Port of the ring that leads from die `d` to die `x` the shorter way; to the opposite die a request leaves through port 0, and its
response comes back the same way (R13). -/
def ringPort (d x : Nat) (resp : Bool) : Nat :=
  let k := (x + 8 - d % 8) % 8
  if k < 4 then 0 else if 4 < k then 1 else b2n resp

/-- Whether a port's channel messages take another route: it is down, or degraded (R27, R28, R215). -/
def gTurned (s : State) (e : Nat) : Bool := gDead s e || gDead s (farEnd e) || s.fb (rGirth e 0) 1

/-- Ends through which a message goes from a die to the hub, or from the hub to a die when `down`; place 8 is the hub itself. Where port 2
is degraded or down, a neighbour's stands in, unless a degraded one is all that is left (R27). -/
def hubHops (s : State) (d : Nat) (down : Bool) : List Nat :=
  let n := gStandIn s d
  let own := 4 * d + 2
  let side := 4 * d + b2n (n ≠ (d + 1) % 8)
  let lost (e : Nat) : Bool := gDead s e || gDead s (farEnd e)
  if d = 8 then []
  else if !gTurned s own || (!lost own && (lost side || lost (4 * n + 2))) then [if down then farEnd own else own]
  else if down then [4 * n + 3, farEnd side] else [side, 4 * n + 2]

/-- The route of a channel message between two places of the package, 0-7 its dies and 8 the hub: the die mesh, the Girth port between
ring-adjacent dies, or the hub over both dies' port 2. A degraded or down ring port moves it to the hub (R215). -/
def chanHops (s : State) (a b : Nat) : List Nat :=
  if a = b then []
  else if a < 8 && b < 8 && ((a + 1) % 8 = b || (b + 1) % 8 = a) && !gTurned s (4 * a + ringPort a b false) then
    [4 * a + ringPort a b false]
  else hubHops s a false ++ hubHops s b true

/-- Whether a link carries traffic from an end. -/
def gCarries (s : State) (e : Nat) : Bool := gUp s e && !(s.gend e).training && !gLost s e

end Sys2Proof.Machine
end

