-- ==== Sys2Proof/Machine/WenCore.lean ====
section
/-! DEFINITION. Requests of the package on the Wenlyn links: routes, flits of a request, submission and responses (spec/11 R285, R286,
R289, R297, R298), and the messages between channel ends, which travel on the package or on a link (spec/07 R215). -/

namespace Sys2Proof.Machine

/-! ## Ports and routes -/

def State.wport (s : State) (p : Nat) : WPort := look WPort.reset s.wen.ports p
def State.setWport (s : State) (p : Nat) (x : WPort) : State := { s with wen := { s.wen with ports := putRaw s.wen.ports p x } }
def State.modWport (s : State) (p : Nat) (f : WPort → WPort) : State := s.setWport p (f (s.wport p))

/-- The package's own number (R194, R291). -/
def ownPkg (s : State) : Nat := s.f wenPkgBase 0 12

/-- PORT_STATUS.STATE: 0 DISABLED, 1 DOWN, 2 TRAINING, 3 INIT, 4 AUTH, 5 UP, 6 AUTH_FAILED (Table 11.9). -/
def portState (s : State) (p : Nat) : Nat := s.f (wenBase p + 8) 0 3
def portUp (s : State) (p : Nat) : Bool := p < 18 && portState s p = 5

/-- Whether a port is given to Awl (R407). -/
def awlPort (s : State) (p : Nat) : Bool := s.fb (wenBase p) 1

/-- A port that carries the package's own traffic: UP, and not given to Awl (R407). -/
def portCarries (s : State) (p : Nat) : Bool := portUp s p && !awlPort s p

/-- Port of the route table for a package (Table 11.8). -/
def routeOf (s : State) (pkg : Nat) : Option Nat :=
  let r := wenPkgBase + 0x1000 + 8 * (pkg / 8)
  if s.fb r (8 * (pkg % 8) + 7) then some (s.f r (8 * (pkg % 8)) 5) else none

/-- The UP port a request to a package leaves by: a given one or its failover partner, or the route's (R296, R297). -/
def pickPort (s : State) (port : Option Nat) (pkg : Nat) : Option Nat :=
  match port with
  | some p =>
    if portCarries s p then some p
    else
      let f := s.f (wenBase p) 8 5
      if p < 18 && s.fb (wenBase p) 13 && portCarries s f then some f else none
  | none => match routeOf s pkg with
    | some p => if portCarries s p then some p else none
    | none => none

/-! ## Flits of a request (R285, R286, R289) -/

/-- The transaction header. -/
def txHeader (r : WReq) : List Byte :=
  leBytes 1 r.op ++ leBytes 1 r.flags ++ leBytes 2 r.code ++ leBytes 4 r.data.length ++ leBytes 8 r.arg

/-- Bytes rounded up to whole 8-byte units with zeros. -/
def pad8 (bs : List Byte) : List Byte := bs ++ (upto (roundUp bs.length 8 - bs.length)).map (fun _ => 0#8)

/-- The DATA flits of a request: 232 payload bytes each, SOM on the first, EOM on the last. -/
def flitsOf (r : WReq) : List WFlit :=
  let ps := pieces 232 (txHeader r ++ r.data)
  ps.zipIdx.map (fun p =>
    let b := pad8 p.1
    { vc := r.vc, som := p.2 = 0, eom := p.2 + 1 = ps.length, len8 := b.length / 8, src := r.src, dst := r.dst, tag := r.tag
      reqId := r.reqId, ttl := 15, payload := b })

/-- Append flits to a port's queue of their VC. -/
def enqueue (s : State) (p vc : Nat) (fs : List WFlit) : State :=
  s.modWport p (fun x => { x with txq := putRaw x.txq vc (look [] x.txq vc ++ fs) })

/-- PKG_UNREACHABLE on a port's fault set (R297, Table 11.11). -/
def raiseUnreach (s : State) (p pkg : Nat) : State := s.raise .pkgUnreachable (p % 18) (packBits [(pkg, 0, 12)])

/-- The package originates a request: it takes the next REQ_ID and joins its port's queue. Answers false when no port toward the
package is UP, where it ends with PKG_UNREACHABLE (R297, R307). -/
def submit (s : State) (port : Option Nat) (r : WReq) (org : WOrigin) : State × Bool :=
  match pickPort s port r.dst with
  | none =>
    ((raiseUnreach s ((port.orElse (fun _ => routeOf s r.dst)).getD 0) r.dst).emit (.remoteEnd r.dst r.tag stPkgUnreachable), false)
  | some p =>
    let id := s.wen.nextId
    let r := { r with src := ownPkg s, reqId := id }
    let s := enqueue s p r.vc (flitsOf r)
    ({ s with wen := { s.wen with nextId := (id + 1) % 2 ^ 26, outs := s.wen.outs ++ [⟨p, port, r, org, false, s.now⟩] } }, true)

/-- RESP_CODE values (Table 11.3). -/
def rcOk : Nat := 0
def rcDenied : Nat := 1
def rcPoisoned : Nat := 2
def rcUnsupported : Nat := 3
def rcMalformed : Nat := 4
def rcBusy : Nat := 5

/-- The port a response leaves by: the one its request arrived on where that is given to Awl, else the route's, else, while it is UP, the one
its request arrived on (R289, R407). -/
def answerPort (s : State) (via dst : Nat) : Option Nat :=
  if awlPort s via then some via
  else (pickPort s none dst).orElse (fun _ => if portUp s via then some via else none)

/-- A response to a request that arrived on port `via`, on the same VC with its TAG and REQ_ID (R289). -/
def respond (s : State) (via vc dst tag reqId code arg : Nat) (data : List Byte) : State :=
  match answerPort s via dst with
  | none => s
  | some p =>
    enqueue s p vc (flitsOf { vc := vc, src := ownPkg s, dst := dst, tag := tag, reqId := reqId, op := 0x80, flags := 0, code := code
                              arg := arg, data := data })

/-- The stored response of the idempotency table is filled in (R298). -/
def idemStore (s : State) (pkg reqId code : Nat) (res : List Byte) : State :=
  { s with wen := { s.wen with idem := s.wen.idem.map (fun e =>
      if e.1 = pkg && e.2.1 = reqId then (pkg, reqId, some (code, res.take 8)) else e) } }

/-- Answer a request received on a port and keep the response (R298). -/
def answerOn (s : State) (p : Nat) (r : WReq) (code arg : Nat) (data : List Byte) : State :=
  respond (idemStore s r.src r.reqId code data) p r.vc r.src r.tag r.reqId code arg data

/-! ## Messages between channel ends -/

/-- Kind and numbers a channel message spells on a link. -/
def netWords : NetBody → Nat × List Nat
  | .openReq ctx tag => (0, [ctx, tag])
  | .openGrant tag => (1, [tag])
  | .openNack tag code => (2, [tag, code])
  | .grantReq seq len => (3, [seq, len])
  | .grant seq start o l => (4, [seq, start, o, l])
  | .data seq start o l _ => (5, [seq, start, o, l])
  | .ack seq => (6, [seq])
  | .nack seq code => (7, [seq, code])
  | .abort seq => (8, [seq])
  | .close => (9, [])

/-- OP code of a channel request (Table 11.3). -/
def netOp : NetBody → Nat
  | .grantReq _ _ => 0x10
  | .data _ _ _ _ _ => 0x11
  | _ => 0x12

def netBytes : NetBody → List Byte
  | .data _ _ _ _ bs => bs
  | _ => []

def netArg (m : NetMsg) : Nat :=
  (Config.wireArg (netOp m.body) (netWords m.body).1 ((netWords m.body).2 ++ [m.ch.2.1, m.ch.2.2, m.rq.2.1, m.rq.2.2])).toNat

/-- Kind and key of the request a reply answers, and of a request (0 open, 1 grant request, 2 data). -/
def netKeys : NetBody → List (Nat × Nat)
  | .openReq _ tag => [(0, tag)]
  | .openGrant tag => [(0, tag)]
  | .openNack tag _ => [(0, tag)]
  | .grantReq seq _ => [(1, seq)]
  | .grant seq _ _ _ => [(1, seq)]
  | .data seq _ _ _ _ => [(2, seq)]
  | .ack seq => [(2, seq)]
  | .nack seq _ => [(2, seq), (1, seq)]
  | _ => []

def onPackage (s : State) (m : NetMsg) : State := { s with net := s.net ++ [m] }

/-- The NACK UNREACHABLE a channel gets for a message that finds no way (R297). -/
def unreachReply (s : State) (m : NetMsg) : State :=
  match m.body with
  | .openReq _ tag => onPackage s { m with up := false, body := .openNack tag 5 }
  | .grantReq seq _ => onPackage s { m with up := false, body := .nack seq 5 }
  | .data seq _ _ _ _ => onPackage s { m with up := false, body := .nack seq 5 }
  | _ => s

/-- A message leaves a channel end: on the package, or on a Wenlyn link as a request or as the response to one (R215, R289). -/
def State.post (s : State) (m : NetMsg) : State :=
  if (if m.up then m.rq.1 else m.ch.1) = ownPkg s then onPackage s m
  else if m.up then
    let r : WReq := { vc := m.vc, src := ownPkg s, dst := m.rq.1, tag := m.tag, reqId := 0, op := netOp m.body, flags := 0, code := 0
                      arg := netArg m, data := netBytes m.body }
    let (s, ok) := submit s none r (.chan m)
    if ok then s else unreachReply s m
  else
    match s.wen.chanIn.find? (fun c => c.ch = m.ch && c.rq = m.rq && (netKeys m.body).contains (c.kind, c.key)) with
    | none => s
    | some c =>
      let s := { s with wen := { s.wen with chanIn := s.wen.chanIn.filter (fun x => x ≠ c) } }
      let s := idemStore s m.ch.1 c.reqId 0 (leBytes 8 (netArg m))
      respond s c.port c.vc m.ch.1 c.tag c.reqId 0 (netArg m) []

end Sys2Proof.Machine
end

