-- ==== Sys2Proof/Machine/Chan.lean ====
section
/-! DEFINITION. Stage channels between cores: SEND, RECV, CHANNEL_OPEN, CHANNEL_CLOSE and the messages between channel ends (spec/07
R194-R219; spec/08 R234, R236). -/

namespace Sys2Proof.Machine

/-! ## Registers and ends -/

def rChan (sl c o : Nat) : Nat := slotBase sl + 0x900 + 0x20 * c + o

/-- CHAN_STATUS.STATE: 0 CLOSED, 1 OPENING, 2 OPEN, 3 CLOSING, 4 FAULTED (Table 7.4). -/
def chanState (s : State) (sl c : Nat) : Nat := s.f (rChan sl c 0x10) 0 3
def setChanState (s : State) (sl c x : Nat) : State := s.setF (rChan sl c 0x10) 0 3 x
def chanCause (s : State) (sl c : Nat) : Nat := s.f (rChan sl c 0x10) 8 8
def chanSeq (s : State) (sl c : Nat) : Nat := s.f (rChan sl c 0x10) 16 32
def chanDyn (s : State) (sl c : Nat) : Bool := s.fb (rChan sl c 0) 1
def chanCtx (s : State) (sl c : Nat) : Nat := s.f (rChan sl c 0) 8 8

def State.chan (s : State) (sl c : Nat) : Chan := look Chan.reset (s.core sl).chans c
def State.setChan (s : State) (sl c : Nat) (x : Chan) : State := s.modCore sl (fun k => { k with chans := putRaw k.chans c x })

/-- Destination of a channel: package, logical core, queue (R194); a static channel uses the live bank (R234). -/
def chanDestOf (s : State) (sl c : Nat) : Nat × Nat × Nat :=
  let r := if bankB s sl && !chanDyn s sl c then slotBase sl + 0x1800 + 8 * c else rChan sl c 8
  (if s.f r 0 12 = 0xFFF then ownPkg s else s.f r 0 12, s.f r 16 8, s.f r 24 4)

/-- A channel as an end. -/
def chanEnd (s : State) (sl c : Nat) : Nat × Nat × Nat := (ownPkg s, coreNum s sl, c)

/-- A message of a channel leaves for its destination (R215); `d` is the queue's end and `tag` the operation's tag. -/
def fromChan (s : State) (sl c tag : Nat) (d : Nat × Nat × Nat) (b : NetBody) : State :=
  s.post ⟨true, chanEnd s sl c, d, nth 6 [1, 2, 6, 6] (s.f (rChan sl c 0) 2 2), tag, b⟩

/-- No route from an end to a core of this package: the core is offline, or a die on the way is isolated (R28, R198, Table 7.1). -/
def noRoute (s : State) (src : Nat × Nat × Nat) (n : Nat) : Bool :=
  offline s n || (if src.1 = ownPkg s && dieOfCore src.2.1 = dieOfCore n then false
    else isolated s (dieOfCore n) || (src.1 = ownPkg s && isolated s (dieOfCore src.2.1)))

/-! ## Live SENDs of a channel -/

def sendChan (t : Nat) : Nat := tF t 16 0 6
/-- Progress of a SEND: 0 its request is not sent, 1 waiting for its grant, 2 granted. -/
def Op.sendPhase (o : Op) : Nat := nth 0 o.aux 4
def Op.sendDest (o : Op) : Nat × Nat × Nat := (nth 0 o.aux 5, nth 0 o.aux 6, nth 0 o.aux 7)
def Op.sendSeq (o : Op) : Nat := nth 0 o.aux 8
/-- The message of a SEND. -/
def Op.sendBytes (o : Op) : List Byte := o.res.tail.flatMap (·.2)

def Op.isSend (o : Op) (c : Nat) : Bool := o.opc = 0x28 && o.live && sendChan o.tod = c

/-- SENDs of a channel that have not completed, in issue order. -/
def liveSends (s : State) (sl c : Nat) : List Op := (s.core sl).ops.filter (fun o => o.isSend c)

/-- A SEND with this SEQ whose request has been sent. -/
def sendOf (s : State) (sl c seq : Nat) : Option Op := (liveSends s sl c).find? (fun o => 1 ≤ o.sendPhase && o.sendSeq = seq)

/-- AHEAD of a channel. -/
def chanAhead (s : State) (sl c : Nat) : Nat := s.f (rChan sl c 0) 16 3

/-- Requests outstanding (R204). -/
def outstanding (s : State) (sl c : Nat) : Nat := ((liveSends s sl c).filter (fun o => 1 ≤ o.sendPhase)).length

/-- Grant requests go out in issue order, at most AHEAD outstanding (R202, R204). -/
def pumpSends : Nat → State → Nat → State
  | 0, s, _ => s
  | n + 1, s, sl =>
    match (s.core sl).ops.find? (fun o => o.opc = 0x28 && o.stage = .running && o.sendPhase = 0
        && outstanding s sl (sendChan o.tod) < chanAhead s sl (sendChan o.tod)) with
    | none => s
    | some o =>
      let c := sendChan o.tod
      let q := chanSeq s sl c
      let d := chanDestOf s sl c
      let aux := setNth (setNth (setNth (setNth (setNth o.aux 4 1) 5 d.1) 6 d.2.1) 7 d.2.2) 8 q
      let s := updOp s sl { o with aux := aux }
      let s := s.setF (rChan sl c 0x10) 16 32 (q + 1)
      pumpSends n (fromChan s sl c o.tag d (.grantReq q o.sendBytes.length)) sl

/-! ## Receive queues -/

def rqEn (s : State) (sl r : Nat) : Bool := s.fb (rRq sl r 0) 0
def rqSize (s : State) (sl r : Nat) : Nat := 2 ^ s.f (rRq sl r 0) 16 5
def rqHead (s : State) (sl r : Nat) : Nat := s.f (rRq sl r 0x10) 0 32
def rqTail (s : State) (sl r : Nat) : Nat := s.f (rRq sl r 0x10) 32 32

/-- Whether the accept entries of a bank name an end (R197, R234). -/
def acceptedIn (s : State) (sl r : Nat) (b : Bool) (e : Nat × Nat × Nat) : Bool :=
  (upto 8).any (fun i =>
    let a := rAccept sl r (i / 2) b
    let u := 32 * (i % 2)
    s.fb a (u + 31) && s.f a u 12 = e.1 && s.f a (u + 12) 8 = e.2.1 && s.f a (u + 20) 6 = e.2.2)

/-- Whether the queue takes messages of an end now: a registered dynamic sender, or a static one of the live bank. -/
def rqTakes (s : State) (sl r : Nat) (e : Nat × Nat × Nat) : Bool :=
  (s.rq sl r).dyn.contains e || acceptedIn s sl r (bankB s sl) e

/-- Senders of a queue (R196). -/
def rqSenders (s : State) (sl r : Nat) : Nat := s.f (rRq sl r 0x18) 0 5

def rxEnd (q : RxReq) : Nat × Nat × Nat := (q.pkg, q.core, q.chan)
def msgEnd (m : RxMsg) : Nat × Nat × Nat := (m.pkg, m.core, m.chan)

/-- A queue's end. -/
def rqEnd (s : State) (sl r : Nat) : Nat × Nat × Nat := (ownPkg s, coreNum s sl, r)

/-- A NACK is sent to an end; RQ_STATUS counts it (Table 7.10). -/
def rqNack (s : State) (sl r : Nat) (e : Nat × Nat × Nat) (b : NetBody) : State :=
  (s.satF (rRq sl r 0x18) 32 32 1).post ⟨false, e, rqEnd s sl r, 0, 0, b⟩

/-- Syndrome of SENDER_LOST and RQ_REJECT (Table 7.11). -/
def rxSynd (r : Nat) (e : Nat × Nat × Nat) : List (Nat × Nat × Nat) := [(r, 0, 4), (e.1, 4, 12), (e.2.1, 16, 8), (e.2.2, 24, 6)]

def raiseReject (s : State) (sl r : Nat) (e : Nat × Nat × Nat) (code : Nat) : State :=
  s.raise .rqReject sl (packBits (rxSynd r e ++ [(code, 30, 8)]))

/-- Serve the request at the front of a queue, when its source is valid and space suffices (R203, R236). -/
def serveRq (s : State) (sl r : Nat) : State :=
  let x := s.rq sl r
  match x.reqs with
  | [] => s
  | q :: rest =>
    let z := rqSize s sl r
    let tail := rqTail s sl r
    let t := tail % z
    let free := z - subMod 32 tail (rqHead s sl r)
    let wrap := z - t < q.len
    let need := if wrap then (z - t) + q.len else q.len
    if !rqEn s sl r || !rqTakes s sl r (rxEnd q) || free < need then s
    else
      let start := if wrap then (tail + (z - t)) % 2 ^ 32 else tail
      let sk := if wrap then z - t else 0
      let mk (st off len kind : Nat) (cpl : Bool) : RxMsg :=
        ⟨st, off, len, q.pkg, q.core, q.chan, q.seq, kind, cpl, cpl, none, false⟩
      let ms := (if wrap then [mk tail t sk 1 true] else []) ++ [mk start (start % z) q.len 0 false]
      let s := s.setRq sl r { x with reqs := rest, msgs := x.msgs ++ ms }
      let s := s.setF (rRq sl r 0x10) 32 32 (tail + need)
      rqStatus (s.post ⟨false, rxEnd q, rqEnd s sl r, 0, 0, .grant q.seq start t sk⟩) sl r

/-- Messages become visible in grant order while each is complete; answers how many did (R205). -/
def showMsgs : List RxMsg → List RxMsg × Nat
  | [] => ([], 0)
  | m :: t =>
    if !m.complete then (m :: t, 0)
    else
      let (t', n) := showMsgs t
      ({ m with visible := true } :: t', n + b2n (!m.visible))

/-- R205, R206: visibility, and one event for each message that becomes visible. -/
def updateVisible (s : State) (sl r : Nat) : State :=
  let x := s.rq sl r
  let (ms, n) := showMsgs x.msgs
  let s := rqStatus (s.setRq sl r { x with msgs := ms }) sl r
  if s.fb (rRq sl r 0) 24 then
    let e := s.f (rRq sl r 0) 25 4
    s.setF (rEvent sl e) 0 32 (s.f (rEvent sl e) 0 32 + n)
  else s

/-! ## Channels that close (Table 7.4) -/

/-- CHANNEL_CLOSE operations with SIDE = 0 that wait on a channel complete with OK. -/
def endCloses (s : State) (sl c : Nat) : State :=
  ((s.core sl).ops.filter (fun o => o.opc = 0x2B && o.stage = .running && sendChan o.tod = c)).foldl
    (fun s o => finishWith s sl o stOK) s

/-- The channel enters CLOSED; a dynamic one sends its CLOSE notice unless CAUSE is PEER_GONE or UNREACHABLE after a fault. -/
def enterClosed (s : State) (sl c : Nat) (faulted : Bool) : State :=
  let s := setChanState s sl c 0
  let gone := faulted && (chanCause s sl c = 1 || chanCause s sl c = 5)
  let s := if chanDyn s sl c && !gone then fromChan s sl c 0 (chanDestOf s sl c) .close else s
  endCloses s sl c

/-- CLOSING becomes CLOSED once every SEND of the channel has completed. -/
def checkClosed (s : State) (sl c : Nat) : State :=
  if chanState s sl c = 3 && (liveSends s sl c).isEmpty then enterClosed s sl c false else s

/-- Channels of a core that are CLOSING become CLOSED as soon as their last SEND has ended, however it ended (R212). -/
def closeEnded (s : State) (sl : Nat) : State := (upto 64).foldl (fun s c => checkClosed s sl c) s

/-! ## RECV (R208) -/

def rvRq (t : Nat) : Nat := tF t 16 0 4
def rvPort (t : Nat) : Nat := tF t 16 4 3
def rvUnbind (t : Nat) : Bool := tB t 16 7
def rvWait (t : Nat) : Nat := tF t 16 16 16
def rvDrop (t : Nat) : Nat := tF t 16 32 16

/-- Visible messages that are neither assigned nor discarded. -/
def readyMsgs (s : State) (sl r : Nat) : List RxMsg := (s.rq sl r).msgs.filter RxMsg.ready

/-- Remove a port's binding. -/
def unbindPort (s : State) (sl p : Nat) : State := s.setF (slotBase sl + 0x1500) (8 * p) 5 0

/-- Bind a queue to a port; a queue is bound to at most one port, and the port's previous binding is replaced (R208). -/
def bindPort (s : State) (sl p r ctx : Nat) : State :=
  let s := (upto 5).foldl (fun s k =>
    if s.f (slotBase sl + 0x1500) (8 * k) 5 = r + 16 then unbindPort s sl k else s) s
  let s := s.setF (slotBase sl + 0x1500) (8 * p) 5 (r + 16)
  s.modCore sl (fun c => { c with bindCtx := putRaw c.bindCtx p ctx })

/-- Whether earlier-issued operations of the context keep a RECV from changing its port's binding (R208). -/
def bindHeld (c : Core) (o : Op) : Bool := recvPending c o (rvPort o.tod) || portBefore c o (rvPort o.tod)

/-- An earlier RECV of the queue has not discarded its messages yet. -/
def dropHeld (c : Core) (o : Op) : Bool :=
  (c.ops.takeWhile (fun e => e.tag ≠ o.tag)).any (fun e =>
    e.opc = 0x29 && e.live && rvRq e.tod = rvRq o.tod && nth 0 e.aux 1 = 0)

/-- One move of a running RECV: it discards, binds, or completes; none when it waits. -/
def recvMove (s : State) (sl : Nat) (o : Op) : Option State :=
  let r := rvRq o.tod
  let n := rvDrop o.tod
  let c := s.core sl
  if nth 0 o.aux 1 = 0 then
    if (readyMsgs s sl r).length < n || dropHeld c o then none
    else
      let drop := ((readyMsgs s sl r).take n).map (·.start)
      let s := releaseMsgs s sl r (fun m => drop.contains m.start && m.kind ≠ 1)
      some (updOp s sl { o with aux := setNth o.aux 1 1 })
  else if nth 0 o.aux 0 = 0 then
    if bindHeld c o then none
    else
      let s := if rvUnbind o.tod then unbindPort s sl (rvPort o.tod) else bindPort s sl (rvPort o.tod) r o.ctx
      some (updOp s sl { o with aux := setNth o.aux 0 1 })
  else if (readyMsgs s sl r).length < rvWait o.tod then none
  else some (finishWith s sl o stOK)

/-- The first running RECV that can move. -/
def recvNext (s : State) (sl : Nat) : Option State :=
  ((s.core sl).ops.filter (fun o => o.opc = 0x29 && o.stage = .running)).findSome? (fun o => recvMove s sl o)

/-- Running RECVs go on as far as they can. -/
def recvPump : Nat → State → Nat → State
  | 0, s, _ => s
  | n + 1, s, sl =>
    match recvNext s sl with
    | none => s
    | some t => recvPump n t sl

/-- A core's channel ports settle after any change: RECVs go on, channels close, and requests go out. -/
def settle (s : State) (sl : Nat) : State := pumpSends 64 (closeEnded (recvPump 512 s sl) sl) sl

def formRecv (t : Nat) : Form := Form.plain (bm 16 0 8 + bm 16 16 32) (chk (rvPort t ≤ 4) stBadField)

/-- A RECV of a queue of another context completes with MEM_PROTECT, of a disabled one with CHAN_NOT_OPEN (R208). -/
def useRecv (s : State) (sl _ t : Nat) (o : Op) : Use :=
  Use.bad (firstSt [
    chk (s.f (rRq sl (rvRq t) 0) 8 8 = o.ctx) stMemProtect,
    chk (rqEn s sl (rvRq t)) stChanNotOpen])

def famRecv : Family := ⟨formRecv, useRecv, startWaiting⟩

/-- RECV. -/
def execRecv (sl q : Nat) (s : State) : Res := done s (settle (runTod s sl q (isOpc 0x29) famRecv) sl)

/-! ## SEND (R199-R206) -/

/-- E and F of R200. -/
def sendE (d : Desc) : Nat := runBytes d.fmt (d.n 0) * prodN (d.size.drop 1)
def sendF (d : Desc) : Nat := if isG16 d.fmt then d.nb * prodN (d.size.drop 1) else 0
def sendLen (d : Desc) : Nat := 64 + roundUp (sendE d) 64 + roundUp (sendF d) 64

def padTo (n : Nat) (bs : List Byte) : List Byte := bs ++ (upto (n - bs.length)).map (fun _ => 0#8)

/-- Message header (Table 7.2). -/
def msgHeader (d : Desc) (e : Nat × Nat × Nat) (seq coarse vtag mb vstage user : Nat) : List Byte :=
  leBytes 1 0 ++ leBytes 1 d.fmt ++ leBytes 1 d.ndim ++ leBytes 1 0 ++ leBytes 4 (sendLen d)
    ++ leBytes 4 (packBits [(e.1, 0, 12), (e.2.1, 12, 8), (e.2.2, 20, 6)]) ++ leBytes 4 seq ++ leBytes 4 coarse
    ++ (upto 5).flatMap (fun k => leBytes 4 (d.n k)) ++ leBytes 8 vtag ++ leBytes 2 mb ++ leBytes 2 vstage ++ leBytes 4 user
    ++ leBytes 4 (if isG16 d.fmt then 64 + roundUp (sendE d) 64 else 0) ++ leBytes 4 0

/-- Payload of a message: elements, then fine scales, each padded to 64 bytes (R200). -/
def msgPayload (v : View) (d : Desc) : List Byte :=
  let rs := d.runs.map (fun cs => v.moveRun d cs)
  let e := rs.flatMap (fun p => leBytes (runBytes d.fmt (d.n 0)) (packCodes (elemBits d.fmt) p.1))
  let f := rs.flatMap (fun p => p.2.map (fun c => BitVec.ofNat 8 c))
  padTo (roundUp (sendE d) 64) e ++ padTo (roundUp (sendF d) 64) f

/-- The message carries its SEQ once its request is sent. -/
def withSeq (bs : List Byte) (seq : Nat) : List Byte := bs.take 12 ++ leBytes 4 seq ++ bs.drop 16

def formSend (_ : Nat) : Form :=
  { mask := bm 16 0 6 + bm 16 32 32 + bm 24 0 64, slots := [0], need := [0], rnd := false, streams := [], events := [], ports := []
    mx := false, gate := false, st := 0 }

/-- R194, R201, R212. -/
def useSend (s : State) (sl _ t : Nat) (o : Op) : Use :=
  let c := sendChan t
  let d := dscD o.descs 0
  let st := firstSt [
    chk (chanCtx s sl c = o.ctx) stMemProtect,
    chk (chanState s sl c ≠ 4) stChanFaulted,
    chk (chanState s sl c = 2) stChanNotOpen,
    chk (sendLen d ≤ 65536) stBadField]
  if st ≠ 0 then Use.bad st else Use.tensors [d] []

/-- The message is formed from its source (R199-R201). -/
def startSend (s : State) (sl : Nat) (o : Op) : State × Op × Nat :=
  let d := dscD o.descs 0
  let v : View := ⟨s, sl⟩
  if badScale v [d] then (s, o, stBadScale)
  else
    let s1 := touchReads s sl o.ctx d.readRuns
    if anyPoison s sl d.readRuns then (s1, o, stMemUncorr)
    else
      let c := sendChan o.tod
      let vtag := if tMbq o.tod then nth 0 o.aux 14 else tF o.tod 24 0 64
      let h := msgHeader d (chanEnd s sl c) 0 (if hasCoarse d.fmt then v.coarseCode d else 0) vtag o.mb o.vstage (tF o.tod 16 32 32)
      (s1, { o with
        stage := OpStage.running, hbm := o.hbm + hbmLen d.readRuns
        res := { OpRes.ofStatus 0 with tail := [(0, h ++ msgPayload v d)] } }, 0)

def famSend : Family := ⟨formSend, useSend, startSend⟩

/-- SEND. -/
def execSend (sl q : Nat) (s : State) : Res := done s (settle (runTod s sl q (isOpc 0x28) famSend) sl)

/-! ## Closing and faulting a channel (Table 7.4, R212, R213) -/

/-- A close acts on a channel: EN is cleared, or a CHANNEL_CLOSE of a dynamic channel (R197, R198, R212). -/
def closeChan (s : State) (sl c : Nat) : State :=
  match chanState s sl c with
  | 1 => s.setChan sl c { closeWanted := true }
  | 2 => checkClosed (setChanState s sl c 3) sl c
  | 4 => enterClosed s sl c true
  | _ => s

/-- Remove the waiting requests of an end at a queue of this package, and its requests and data on the way. -/
def withdrawReq (s : State) (e d : Nat × Nat × Nat) (p : Nat → Bool) : State :=
  let s := { s with net := s.net.filter (fun m => !(m.up && m.ch = e && m.rq = d
    && (match m.body with | .grantReq q _ => p q | .data q _ _ _ _ => p q | _ => false))) }
  if d.1 = ownPkg s then
    let sl := slotOf s d.2.1
    let x := s.rq sl d.2.2
    rqStatus (s.setRq sl d.2.2 { x with reqs := x.reqs.filter (fun q => !(rxEnd q = e && p q.seq)) }) sl d.2.2
  else s

/-- The cycles a request waited that ends without its grant are added to CORE.CHAN_WAIT_CYCLES (R204): how many they are is open
(log 108). -/
def chargeGrant (s : State) (sl : Nat) (o : Op) : State :=
  if o.sendPhase = 1 then
    let (n, s) := s.freeWord
    s.addCtr (slotBase sl + 0x1508) n
  else s

/-- A SEND that has not completed ends with a status and a DETAIL; a request of it that still waits is withdrawn. -/
def endSend (s : State) (sl : Nat) (o : Op) (st det : Nat) : State :=
  let s := if o.sendPhase = 1 then withdrawReq s (chanEnd s sl (sendChan o.tod)) o.sendDest (fun q => q = o.sendSeq) else s
  finish s sl o ⟨st, det, 0, Counters.zeros⟩

/-- A fault event meets a channel that is OPEN or CLOSING: CAUSE is recorded, the SEND it names completes with `st`, every other
SEND of the channel with CHAN_FAULTED, and the source is raised (Table 7.4, R204, R213). The wait of a SEND that timed out has been
charged. -/
def faultChan (s : State) (sl c cause : Nat) (tag : Option Nat) (st det : Nat) (src : FaultSrc) (synd : Nat) : State :=
  let x := chanState s sl c
  if x ≠ 2 && x ≠ 3 then s
  else
    let s := s.setF (rChan sl c 0x10) 8 8 cause
    let s := if x = 2 then setChanState s sl c 4 else s
    let s := (liveSends s sl c).foldl (fun s o =>
      if some o.tag = tag then endSend (if st = stChanTimeout then s else chargeGrant s sl o) sl o st det
      else endSend (chargeGrant s sl o) sl o stChanFaulted 0) s
    let s := s.raise src sl synd
    if x = 3 then enterClosed s sl c true else s

/-! ## CHANNEL_OPEN and CHANNEL_CLOSE (R197, R198, R212) -/

def coTimeout (t : Nat) : Nat := tF t 16 16 16

def formOpen (_ : Nat) : Form := Form.plain (bm 16 0 6 + bm 16 16 16) 0

def useOpen (s : State) (sl _ t : Nat) (o : Op) : Use :=
  let c := sendChan t
  Use.bad (firstSt [
    chk (chanCtx s sl c = o.ctx) stMemProtect,
    chk (chanDyn s sl c && s.fb (rChan sl c 0) 0) stBadField,
    chk (chanState s sl c = 0) stBadField])

def famOpen : Family := ⟨formOpen, useOpen, startWaiting⟩

/-- Issue the queue's next TOD when `mine` takes it, and act on it at once: the channel's state changes at the issue (Table 7.4). -/
def issueNow (s : State) (sl q : Nat) (mine : Nat → Bool) (fam : Family) (act : State → Op → State) : State :=
  match todNow s sl q with
  | none => s
  | some t =>
    if !mine t then s
    else
      match issueTod s sl q t fam with
      | (s', none) => s'
      | (s', some o) =>
        let o := { o with stage := OpStage.running }
        act (glintOp (updOp s' sl o) sl o 1 0 0 0) o

/-- CHANNEL_OPEN: the channel enters OPENING and its OPEN request is sent (R198). -/
def execChannelOpen (sl q : Nat) (s : State) : Res :=
  done s (issueNow s sl q (isOpc 0x2A) famOpen (fun s o =>
    let c := sendChan o.tod
    let s := (setChanState s sl c 1).setChan sl c Chan.reset
    fromChan s sl c o.tag (chanDestOf s sl c) (.openReq (chanCtx s sl c) o.tag)))

def closeSide (t : Nat) : Bool := tB t 16 8

def formClose (t : Nat) : Form := Form.plain (if closeSide t then bm 16 0 4 + bm 16 8 1 else bm 16 0 6 + bm 16 8 1) 0

def useClose (s : State) (sl _ t : Nat) (o : Op) : Use :=
  let c := sendChan t
  Use.bad (firstSt [
    chk (chanCtx s sl c = o.ctx) stMemProtect,
    chk (chanDyn s sl c) stBadField])

def famClose : Family := ⟨formClose, useClose, startWaiting⟩

/-- CHANNEL_CLOSE with SIDE = 0. -/
def execChannelClose (sl q : Nat) (s : State) : Res :=
  done s (issueNow s sl q (fun t => tOpcode t = 0x2B && !closeSide t) famClose (fun s o =>
    let c := sendChan o.tod
    if chanState s sl c = 0 then finishWith s sl o stOK
    else closeChan s sl c))

/-- The open of a channel ends without success: the channel is CLOSED, and closes that waited complete with OK (R198, R212). -/
def openFails (s : State) (sl c : Nat) (o : Op) (st det : Nat) (src : FaultSrc) (synd : Nat) : State :=
  let s := (setChanState s sl c 0).setChan sl c Chan.reset
  let s := finish s sl o ⟨st, det, 0, Counters.zeros⟩
  endCloses (s.raise src sl synd) sl c

/-- The CHANNEL_OPEN of a tag that waits on a channel. -/
def openOp (s : State) (sl c tag : Nat) : Option Op :=
  if chanState s sl c ≠ 1 then none
  else (s.core sl).ops.find? (fun o => o.tag = tag && o.opc = 0x2A && o.stage = .running && sendChan o.tod = c)

def chanTimeoutSynd (tag c : Nat) : Nat := packBits [(tag, 0, 14), (c, 14, 6)]
def refusedSynd (tag c code : Nat) : Nat := packBits [(tag, 0, 14), (c, 14, 6), (code, 20, 8)]
def goneSynd (tag c : Nat) (d : Nat × Nat × Nat) : Nat :=
  packBits [(tag, 0, 14), (c, 14, 6), (d.1, 20, 12), (d.2.1, 32, 8), (d.2.2, 40, 4)]

/-- CHANNEL_OPEN_TIMEOUT (R198; log 3). -/
def execChannelOpenTimeout (sl tag : Nat) (s : State) : Res :=
  done s (match opOf s sl tag with
    | none => s
    | some o =>
      let c := sendChan o.tod
      match openOp s sl c tag with
      | none => s
      | some o => openFails s sl c o stChanTimeout 0 .chanTimeout (chanTimeoutSynd tag c))

/-! ## Closing a receive queue (R213) -/

/-- Operations that wait under R209 for messages of a queue. -/
def waitsFor (s : State) (sl r : Nat) (o : Op) : Bool :=
  startable (s.core sl) o && o.ports.any (fun p => boundRq s sl o.ctx p.2 = some r)

/-- What is left of a queue that closes: the dynamic senders it knew (R213, Table 7.1). -/
def RxQ.closed (x : RxQ) : RxQ := { RxQ.reset with gone := (x.gone ++ x.dyn).eraseDups }

/-- The steps of R213 after EN is 0. A sender in another package hears of a granted message in the answer to its data (R289). -/
def closeRq (s : State) (sl r : Nat) : State :=
  let x := s.rq sl r
  let waiting := (s.core sl).ops.filter (fun o =>
    (o.opc = 0x29 && o.stage = .running && rvRq o.tod = r) || waitsFor s sl r o)
  let s := x.reqs.foldl (fun s q => rqNack s sl r (rxEnd q) (.nack q.seq 1)) s
  let s := (x.msgs.filter (fun m => !m.complete && m.pkg = ownPkg s)).foldl (fun s m => rqNack s sl r (msgEnd m) (.nack m.seq 1)) s
  let s := (upto 5).foldl (fun s k => if s.f (slotBase sl + 0x1500) (8 * k) 5 = r + 16 then unbindPort s sl k else s) s
  let s := (s.setRq sl r x.closed).wr (rRq sl r 0x10) 0#64
  let s := rqStatus s sl r
  let s := waiting.foldl (fun s o => finishWith s sl o stChanNotOpen) s
  settle s sl

def useCloseQ (s : State) (sl _ t : Nat) (o : Op) : Use :=
  Use.bad (chk (s.f (rRq sl (tF t 16 0 4) 0) 8 8 = o.ctx) stMemProtect)

def famCloseQ : Family := ⟨formClose, useCloseQ, startWaiting⟩

/-- CHANNEL_CLOSE with SIDE = 1: receive queue RQ closes exactly as clearing its EN does (R212). -/
def execChannelCloseQueue (sl q : Nat) (s : State) : Res :=
  done s (issueNow s sl q (fun t => tOpcode t = 0x2B && closeSide t) famCloseQ (fun s o =>
    let r := tF o.tod 16 0 4
    finishWith (closeRq (s.setF (rRq sl r 0) 0 1 0) sl r) sl o stOK))

/-! ## Delivery between ends -/

/-- Whether a message's destination is in this package. -/
def netLocal (s : State) (m : NetMsg) : Bool := if m.up then m.rq.1 = ownPkg s else m.ch.1 = ownPkg s

/-- The place of the package a core's messages go from and to: its die, or the hub for a core of another package. -/
def placeOf (s : State) (e : Nat × Nat × Nat) : Nat := if e.1 = ownPkg s then dieOfCore e.2.1 else 8

/-- Whether the route of a message carries traffic. The hub stands for a queue's die that is isolated, and answers for it (R198, R215). -/
def routeOpen (s : State) (m : NetMsg) : Bool :=
  let c := placeOf s m.ch
  let q := placeOf s m.rq
  let q := if c ≠ q && q < 8 && isolated s q then 8 else q
  (if m.up then chanHops s c q else chanHops s q c).all (fun e => gCarries s e)

/-- Take message `i`, when its route carries traffic and nothing sent earlier between the same ends in the same direction is still on its
way (R205, R215). -/
def netTake (s : State) (i : Nat) : Option (NetMsg × State) :=
  match s.net[i]? with
  | none => none
  | some m =>
    if !netLocal s m || !routeOpen s m || (s.net.take i).any (fun e => e.up = m.up && e.ch = m.ch && e.rq = m.rq) then none
    else some (m, { s with net := dropNth s.net i })

/-- Deliver message `i` to its queue's slot when it is of this kind. -/
def atQueue (s : State) (i : Nat) (mine : NetBody → Bool) (act : State → Nat → Nat → NetMsg → State) : State :=
  match netTake s i with
  | none => s
  | some (m, t) => if m.up && mine m.body then act t (slotOf s m.rq.2.1) m.rq.2.2 m else s

/-- Deliver message `i` to its channel's slot when it is of this kind. -/
def atChan (s : State) (i : Nat) (mine : NetBody → Bool) (act : State → Nat → Nat → NetMsg → State) : State :=
  match netTake s i with
  | none => s
  | some (m, t) => if !m.up && mine m.body then act t (slotOf s m.ch.2.1) m.ch.2.2 m else s

/-- OPEN_REQUEST: the queue grants the request and registers the sender, or answers with a NACK (R196, R198, R213). -/
def execOpenRequest (i : Nat) (s : State) : Res :=
  done s (atQueue s i (fun b => match b with | .openReq _ _ => true | _ => false) (fun s sl r m =>
    match m.body with
    | .openReq ctx tag =>
      if noRoute s m.ch m.rq.2.1 then s.post { m with up := false, body := .openNack tag 5 }
      else
        let x := s.rq sl r
        if !rqEn s sl r then rqNack s sl r m.ch (.openNack tag 3)
        else if !s.fb (rRq sl r 0) 1 || (m.ch.1 = ownPkg s && ctx ≠ s.f (rRq sl r 0) 8 8) then
          raiseReject (rqNack s sl r m.ch (.openNack tag 2)) sl r m.ch 2
        else if 16 ≤ rqSenders s sl r && !x.dyn.contains m.ch then
          raiseReject (rqNack s sl r m.ch (.openNack tag 4)) sl r m.ch 4
        else
          let s := s.setRq sl r { x with
            dyn := if x.dyn.contains m.ch then x.dyn else x.dyn ++ [m.ch], gone := x.gone.filter (fun d => d ≠ m.ch) }
          (rqStatus s sl r).post { m with up := false, body := .openGrant tag }
    | _ => s))

/-- OPEN_GRANT: the channel enters OPEN with SEQ = 0 and its CHANNEL_OPEN completes; a close that waited acts now (R198, R212). -/
def execOpenGrant (i : Nat) (s : State) : Res :=
  done s (atChan s i (fun b => match b with | .openGrant _ => true | _ => false) (fun s sl c m =>
    match m.body with
    | .openGrant tag =>
      match openOp s sl c tag with
      | none => s
      | some o =>
        let want := (s.chan sl c).closeWanted
        let s := (setChanState s sl c 2).setF (rChan sl c 0x10) 16 32 0
        let s := finishWith (s.setChan sl c Chan.reset) sl o stOK
        if want then closeChan s sl c else s
    | _ => s))

/-- GRANT_REQ: the request joins the queue, or is answered with a NACK; alone in the queue it is served at once (R197, R202, R203,
R213, R236). -/
def execGrantReq (i : Nat) (s : State) : Res :=
  done s (atQueue s i (fun b => match b with | .grantReq _ _ => true | _ => false) (fun s sl r m =>
    match m.body with
    | .grantReq seq len =>
      if noRoute s m.ch m.rq.2.1 then s.post { m with up := false, body := .nack seq 5 }
      else if !rqEn s sl r then rqNack s sl r m.ch (.nack seq 1)
      else if !rqTakes s sl r m.ch && !acceptedIn s sl r (!bankB s sl) m.ch then
        if (s.rq sl r).gone.contains m.ch then rqNack s sl r m.ch (.nack seq 1)
        else raiseReject (rqNack s sl r m.ch (.nack seq 2)) sl r m.ch 2
      else
        let x := s.rq sl r
        let s := rqStatus (s.setRq sl r { x with reqs := x.reqs ++ [⟨m.ch.1, m.ch.2.1, m.ch.2.2, seq, len⟩] }) sl r
        if x.reqs.isEmpty then serveRq s sl r else s
    | _ => s))

/-- GRANT_ISSUE: the waiting request at the front is served once its source is valid and there is space (R203, R236). -/
def execGrantIssue (sl r : Nat) (s : State) : Res := done s (serveRq s sl r)

/-- GRANT: the sender writes its message; a SEND that has ended meanwhile sends an ABORT instead (R203, R204, R214). -/
def execGrant (i cycles : Nat) (s : State) : Res :=
  done s (atChan s i (fun b => match b with | .grant _ _ _ _ => true | _ => false) (fun s sl c m =>
    match m.body with
    | .grant seq start so sk =>
      match sendOf s sl c seq with
      | none => s.post { m with up := true, body := .abort seq }
      | some o =>
        let s := s.addCtr (slotBase sl + 0x1508) cycles
        let far := if m.rq.1 = ownPkg s then 0 else o.sendBytes.length
        let s := updOp s sl { o with aux := setNth o.aux 4 2, link := o.link + far }
        fromChan s sl c o.tag m.rq (.data seq start so sk (withSeq o.sendBytes seq))
    | _ => s))

/-- A granted message of an end, not yet complete. -/
def isIncomplete (m : NetMsg) (seq : Nat) (x : RxMsg) : Bool := !x.complete && x.kind = 0 && msgEnd x = m.ch && x.seq = seq

/-- Data for a message that is complete already, or that the queue no longer holds, is discarded. A sender in another package is answered:
the first with the acknowledgement, the other with NACK PEER_GONE (R213, R289). One in this package has been told before. -/
def lateData (s : State) (sl r seq : Nat) (m : NetMsg) : State :=
  if m.ch.1 = ownPkg s then s
  else if (s.rq sl r).msgs.any (fun y => y.complete && y.kind ≠ 1 && msgEnd y = m.ch && y.seq = seq) then
    s.post { m with up := false, body := .ack seq }
  else rqNack s sl r m.ch (.nack seq 1)

/-- MSG_DATA: the message, and a SKIP header before it, are written into the ring; it becomes complete, visible in grant order, and is
acknowledged (R203, R205, R206). -/
def execMsgData (i : Nat) (s : State) : Res :=
  done s (atQueue s i (fun b => match b with | .data _ _ _ _ _ => true | _ => false) (fun s sl r m =>
    match m.body with
    | .data seq start so sk bs =>
      let x := s.rq sl r
      if !rqEn s sl r then lateData s sl r seq m
      else match x.msgs.find? (fun y => isIncomplete m seq y && y.start = start) with
        | none => lateData s sl r seq m
        | some y =>
          let p := ringPlace s sl r
          let s := if 0 < sk then localWrite s (p + so) (leBytes 4 1 ++ leBytes 4 sk ++ padTo 56 []) else s
          let s := localWrite s (p + y.off) bs
          let s := s.setRq sl r { x with msgs := x.msgs.map (fun z => if z.start = start then { z with complete := true } else z) }
          let s := updateVisible s sl r
          settle (s.post { m with up := false, body := .ack seq }) sl
    | _ => s))

/-- DELIVER_ACK: the SEND completes with OK (R206). -/
def execDeliverAck (i : Nat) (s : State) : Res :=
  done s (atChan s i (fun b => match b with | .ack _ => true | _ => false) (fun s sl c m =>
    match m.body with
    | .ack seq =>
      match sendOf s sl c seq with
      | none => s
      | some o => pumpSends 64 (checkClosed (finishWith s sl o stOK) sl c) sl
    | _ => s))

/-- GRANT_TIMEOUT: the oldest waiting request of the channel has waited GRANT_TIMEOUT_US (R204; log 3). -/
def execGrantTimeout (sl c cycles : Nat) (s : State) : Res :=
  done s (match (liveSends s sl c).find? (fun o => o.sendPhase = 1) with
    | none => s
    | some o =>
      if s.f (rChan sl c 0) 32 32 = 0 then s
      else
        faultChan (s.addCtr (slotBase sl + 0x1508) cycles) sl c 0x10 (some o.tag) stChanTimeout 0 .chanTimeout
          (chanTimeoutSynd o.tag c))

/-- NACK: an OPEN fails with CHAN_REFUSED, or a SEND's NACK faults the channel (R198, R213, Table 7.4). -/
def execNack (i : Nat) (s : State) : Res :=
  done s (atChan s i (fun b => match b with | .nack _ _ => true | .openNack _ _ => true | _ => false) (fun s sl c m =>
    match m.body with
    | .openNack tag code =>
      match openOp s sl c tag with
      | none => s
      | some o => openFails s sl c o stChanRefused code .chanRefused (refusedSynd tag c code)
    | .nack seq code =>
      let tag := (sendOf s sl c seq).map (·.tag)
      if code = 1 then faultChan s sl c 1 tag stPeerGone 0 .peerGone (goneSynd (tag.getD 0) c m.rq)
      else faultChan s sl c code tag stChanRefused code .chanRefused (refusedSynd (tag.getD 0) c code)
    | _ => s))

/-- A granted message that is not complete becomes ABORTED; SENDER_LOST is raised (R214). It counts as complete, so a sender that was only
slow gets its acknowledgement (R206; log 109). -/
def abortMsg (s : State) (sl r : Nat) (y : RxMsg) (timeout : Bool) : State :=
  let x := s.rq sl r
  let s := localWrite s (ringPlace s sl r + y.off) (leBytes 1 2)
  let s := s.setRq sl r { x with msgs := x.msgs.map (fun z => if z.start = y.start then { z with complete := true, kind := 2 } else z) }
  let s := s.raise .senderLost sl (packBits (rxSynd r (msgEnd y) ++ [(b2n timeout, 30, 1)]))
  let s := if timeout && y.pkg = ownPkg s then s.post ⟨false, msgEnd y, rqEnd s sl r, 0, 0, .ack y.seq⟩ else s
  settle (updateVisible s sl r) sl

/-- ABORT. -/
def execAbort (i : Nat) (s : State) : Res :=
  done s (atQueue s i (fun b => match b with | .abort _ => true | _ => false) (fun s sl r m =>
    match m.body with
    | .abort seq =>
      match (s.rq sl r).msgs.find? (isIncomplete m seq) with
      | none => s
      | some y => abortMsg s sl r y false
    | _ => s))

/-- XFER_TIMEOUT: the oldest granted message that is not complete has stayed so for XFER_TIMEOUT_US (R214; log 3). -/
def execXferTimeout (sl r : Nat) (s : State) : Res :=
  done s (if !rqEn s sl r then s
    else match (s.rq sl r).msgs.find? (fun m => !m.complete) with
      | none => s
      | some y => abortMsg s sl r y true)

/-- A sender leaves a queue: its registration and its waiting requests go (R212, R214). -/
def leaveRq (s : State) (sl r : Nat) (e : Nat × Nat × Nat) : State :=
  let x := s.rq sl r
  rqStatus (s.setRq sl r { x with
    dyn := x.dyn.filter (fun d => d ≠ e)
    gone := x.gone.filter (fun d => d ≠ e)
    reqs := x.reqs.filter (fun q => rxEnd q ≠ e) }) sl r

/-- CLOSE_NOTICE. -/
def execCloseNotice (i : Nat) (s : State) : Res :=
  done s (atQueue s i (fun b => match b with | .close => true | _ => false) (fun s sl r m => leaveRq s sl r m.ch))

/-- SENDER_LOSS_REPORT: the hub or a Wenlyn port reports a sender lost (R214). -/
def execSenderLossReport (sl r pkg core chan : Nat) (s : State) : Res := done s (leaveRq s sl r (pkg, core, chan))

/-! ## Cancel and reset of senders (R214) -/

/-- A cancel of a SEND: a waiting request is withdrawn, a granted message aborted; the SEND completes with CANCELLED. -/
def cancelSend (s : State) (sl : Nat) (o : Op) : State :=
  let c := sendChan o.tod
  let e := chanEnd s sl c
  let s := if 1 ≤ o.sendPhase then withdrawReq s e o.sendDest (fun q => q = o.sendSeq) else s
  let s := if o.sendPhase = 2 then fromChan s sl (sendChan o.tod) o.tag o.sendDest (.abort o.sendSeq) else s
  pumpSends 64 (checkClosed (finishWith (chargeGrant s sl o) sl o stCancelled) sl c) sl

/-- Reset of a sending core: ABORT for every granted incomplete message, waiting requests withdrawn (a CLOSE notice tells a queue of another
package), dynamic channels deregistered, and every channel CLOSED (R214, Table 7.4); for the channels that satisfy a test. -/
def resetSender (s : State) (sl : Nat) (p : Nat → Bool) : State :=
  let s := ((s.core sl).ops.filter (fun o => o.opc = 0x28 && o.live && 1 ≤ o.sendPhase && p (sendChan o.tod))).foldl (fun s o =>
    let e := chanEnd s sl (sendChan o.tod)
    let s := withdrawReq s e o.sendDest (fun q => q = o.sendSeq)
    if o.sendPhase = 2 then fromChan s sl (sendChan o.tod) o.tag o.sendDest (.abort o.sendSeq)
    else if !chanDyn s sl (sendChan o.tod) && o.sendDest.1 ≠ ownPkg s then fromChan s sl (sendChan o.tod) 0 o.sendDest .close
    else s) s
  (upto 64).foldl (fun s c =>
    if chanState s sl c = 0 || !p c then s
    else
      let s := if chanDyn s sl c then fromChan s sl c 0 (chanDestOf s sl c) .close else s
      setChanState s sl c 0) s

end Sys2Proof.Machine
end

