-- ==== Sys2Proof/Machine/Version.lean ====
section
/-! DEFINITION. Micro-batch queues, the Tack Store, hold tables, phase banks and OPTIM_STEP (spec/08 R220-R243; spec/05 R165). -/

namespace Sys2Proof.Machine

def stVersionGone : Nat := 0x0040
def stMbqKind : Nat := 0x0042
def stHoldBusy : Nat := 0x0043
def stHoldMissing : Nat := 0x0044
def stSetDisabled : Nat := 0x0045
def stWritePending : Nat := 0x0046

/-! ## The mapper contract (R220, R221) -/

/-- Core of stage n in a pipeline of P cores (R220). -/
def stageCore (p n : Nat) : Nat := n % p

/-- Layers of stage k out of S (R221). -/
def stageLayers (l s k : Nat) : Nat := l / s + (if s - l % s ≤ k then 1 else 0)

/-- Head or expert slots of each core, and whether core k holds a padding one (R221). -/
def headSlots (h c : Nat) : Nat := cdiv h c
def headPad (h c k : Nat) : Bool := h % c ≠ 0 && h % c ≤ k

/-! ## Sets of the Tack Store (R225-R227, Table 8.12) -/

def rSet (n o : Nat) : Nat := tackBase (n / 512) + 0x40 * (n % 512) + o
def setEn (s : State) (n : Nat) : Bool := s.fb (rSet n 0x18) 0
def setDepth (s : State) (n : Nat) : Nat := s.f (rSet n 0x18) 1 2 + 1
def setBase (s : State) (n : Nat) : Nat := (s.rd (rSet n 0)).toNat
def setStride (s : State) (n : Nat) : Nat := (s.rd (rSet n 8)).toNat
def setSize (s : State) (n : Nat) : Nat := (s.rd (rSet n 0x10)).toNat
def setNewest (s : State) (n : Nat) : Nat := s.f (rSet n 0x20) 0 48
def slotValid (s : State) (n k : Nat) : Bool := s.fb (rSet n 0x20) (48 + k)
def slotRef (s : State) (n k : Nat) : Nat := s.f (rSet n 0x28) (16 * k) 16
def setWriting (s : State) (n : Nat) : Bool := s.fb (rSet n 0x18) 29
def setWslot (s : State) (n : Nat) : Nat := s.f (rSet n 0x18) 30 2

/-- Version that lives in slot k: the newest commit v with (v - 1) mod DEPTH = k (R225). -/
def slotVersion (s : State) (n k : Nat) : Nat :=
  let d := setDepth s n
  setNewest s n - (setNewest s n + d - 1 - k) % d

/-- Whether slot k is VALID and holds version v. -/
def slotHolds (s : State) (n k v : Nat) : Bool := k < setDepth s n && slotValid s n k && slotVersion s n k = v

/-- The slot with the newest VALID version, and the version. -/
def bestSlot (s : State) (n : Nat) : Option (Nat × Nat) :=
  ((upto (setDepth s n)).filter (fun k => slotValid s n k)).foldl (fun b k =>
    match b with
    | none => some (k, slotVersion s n k)
    | some (_, v) => if v < slotVersion s n k then some (k, slotVersion s n k) else b) none

def setRef (s : State) (n k x : Nat) : State := s.setF (rSet n 0x28) (16 * k) 16 x

/-- A version tag (Table 8.4). -/
def versionTag (n k v : Nat) : Nat := v % 2 ^ 48 + (k % 4) * 2 ^ 48 + (n % 4096) * 2 ^ 50
def tagVersion (t : Nat) : Nat := bitsN t 0 48
def tagSlot (t : Nat) : Nat := bitsN t 48 2
def tagSet (t : Nat) : Nat := bitsN t 50 12

/-- One reference of a hold goes, while the slot still holds the hold's version (R231). -/
def dropRef (s : State) (tag : Nat) : State :=
  let n := tagSet tag
  let k := tagSlot tag
  if slotHolds s n k (tagVersion tag) then setRef s n k (slotRef s n k - 1) else s

/-- A version is evicted with references: counted, and VERSION_EVICT raised (R230, R241). -/
def evict (s : State) (n k : Nat) : State :=
  let s := s.addCtr (tackBase (n / 512) + 0x8000) 1
  s.raise .versionEvict (n / 512) (packBits [(n, 0, 12), (k, 12, 2), (slotRef s n k, 14, 16), (slotVersion s n k, 30, 34)])

/-- The stage is bound to a set, by a core (R165). -/
def bindSet (s : State) (sl n vs : Nat) : State :=
  let s := (s.setF (rSet n 0x18) 28 1 1).setF (rSet n 0x18) 16 12 vs
  s.modCore sl (fun c => { c with bound := insertNat c.bound n })

/-- Whether a set is bound to another stage: a VERSION_ACQUIRE of any mode then completes with TIED_WEIGHT (R165). -/
def tied (s : State) (n vs : Nat) : Bool := s.fb (rSet n 0x18) 28 && s.f (rSet n 0x18) 16 12 ≠ vs

def raiseTied (s : State) (sl n tag vs : Nat) : State :=
  s.raise .tiedWeight sl (packBits [(tag, 0, 14), (vs, 14, 12), (s.f (rSet n 0x18) 16 12, 26, 12)])

def goneCount (s : State) (n : Nat) : State := s.addCtr (tackBase (n / 512) + 0x8008) 1

def raiseGone (s : State) (sl tag mb vs v : Nat) : State :=
  s.raise .versionGone sl (packBits [(tag, 0, 14), (mb, 14, 16), (vs, 30, 12), (v, 42, 22)])

/-! ## Micro-batch queues and hold tables (R222-R224, R232) -/

def mbqHdr (s : State) (sl i : Nat) : Nat := cmemA (clusterOf s sl) + 256 * s.f (rMbq sl i 8) 24 16
def mbqProd (s : State) (sl i : Nat) : Nat := s.num (mbqHdr s sl i) 4
def mbqCons (s : State) (sl i : Nat) : Nat := s.num (mbqHdr s sl i + 4) 4

/-- Fields of an entry at a place (Table 8.1). -/
def enMb (s : State) (e : Nat) : Nat := s.num e 2
def enVstage (s : State) (e : Nat) : Nat := s.num (e + 2) 2 % 4096
def enBwd (s : State) (e : Nat) : Bool := s.num (e + 4) 1 ≠ 0
def enReplay (s : State) (e : Nat) : Bool := s.num (e + 5) 1 % 2 = 1
def enSet (s : State) (e : Nat) : Nat := s.num (e + 8) 2 % 4096
def enWant (s : State) (e : Nat) : Nat := s.num (e + 24) 6

/-- Write the flag byte's bit b of an entry. -/
def enSetFlag (s : State) (e b : Nat) : State := localWrite s (e + 5) (leBytes 1 (s.num (e + 5) 1 ||| 2 ^ b))

def rHold (sl : Nat) : Nat := slotBase sl + 0x1640

/-- Index of hold (MB, VSTAGE) (R232). -/
def holdIdx (s : State) (sl mb vs : Nat) : Nat :=
  mb % 2 ^ (s.f (rHold sl) 1 4 - 3) * 8 + vs / (s.f (rHold sl) 48 8 + 1) % 8

def holdAt (s : State) (sl i : Nat) : Nat := cmemA (clusterOf s sl) + 256 * s.f (rHold sl) 8 16 + 16 * i
def holdTag (s : State) (sl i : Nat) : Nat := s.num (holdAt s sl i) 8
def holdState (s : State) (sl i : Nat) : Nat := s.num (holdAt s sl i + 12) 1

/-- Whether an entry holds (MB, VSTAGE). -/
def holdIs (s : State) (sl i mb vs : Nat) : Bool :=
  holdState s sl i ≠ 0 && s.num (holdAt s sl i + 8) 2 = mb && s.num (holdAt s sl i + 10) 2 % 4096 = vs

/-- Write STATE of a hold; HELD counts the entries that are not free. -/
def setHoldState (s : State) (sl i x : Nat) : State :=
  let was := b2n (holdState s sl i ≠ 0)
  let n := s.f (rHold sl) 32 13
  let s := localWrite s (holdAt s sl i + 12) (leBytes 1 x)
  s.setF (rHold sl) 32 13 (n + b2n (x ≠ 0) - was)

/-- A new hold. -/
def makeHold (s : State) (sl i tag mb vs wbuf : Nat) : State :=
  let s := setHoldState s sl i 1
  let p := holdAt s sl i
  localWrite (localWrite s p (leBytes 8 tag ++ leBytes 2 mb ++ leBytes 2 vs)) (p + 13) (leBytes 1 wbuf ++ leBytes 2 0)

/-- MBQ_STATUS of the current entry at `e`. -/
def mbqShow (s : State) (sl i : Nat) : State :=
  let r := rMbq sl i 0x10
  if !s.fb r 28 then s
  else
    let e := mbqCurEntry s sl i
    let mb := enMb s e
    let vs := enVstage s e
    let h := holdIdx s sl mb vs
    (((s.setF r 0 16 mb).setF r 16 12 vs).setB r 29 (enBwd s e)).setB r 30
      (enReplay s e && holdIs s sl h mb vs && holdState s sl h = 2)

/-- MBQ_STATUS of both queues follows a hold that has changed. -/
def holdShow (s : State) (sl : Nat) : State := mbqShow (mbqShow s sl 0) sl 1

/-- Entry CONS is taken and becomes current (R224). -/
def mbqTake (s : State) (sl i : Nat) : State :=
  let n := mbqCons s sl i + 1
  let s := localWrite s (mbqHdr s sl i + 4) (leBytes 4 n)
  mbqShow ((s.setF (rMbq sl i 0x10) 32 32 n).setF (rMbq sl i 0x10) 28 1 1) sl i

/-- No entry is current. -/
def mbqNone (s : State) (sl i : Nat) : State := s.setF (rMbq sl i 0x10) 0 31 0

/-! ## VERSION_ACQUIRE (R228-R230) -/

def vaMode (t : Nat) : Nat := tF t 16 0 2
def vaFetch (t : Nat) : Bool := tB t 16 2 && vaMode t ≠ 2
def vaRebase (t : Nat) : Bool := tB t 16 3
def vaMbq (t : Nat) : Nat := tF t 16 4 1
def vaWbuf (t : Nat) : Nat := tF t 16 8 3
def vaSet (t : Nat) : Nat := tF t 16 16 12
def vaDst (t : Nat) : Nat := tF t 32 0 48
def vaFirst (t : Nat) : Nat := tF t 40 0 16
def vaN (t : Nat) : Nat := tF t 40 16 16

def formAcquire (t : Nat) : Form :=
  let m := bm 16 0 4 + bm 40 0 32 + (if vaMode t = 2 then bm 16 16 12 else bm 16 4 1 + bm 16 8 3 + bm 32 0 48)
  Form.plain m (chk (!(vaMode t = 2 && tB t 16 2)) stBadField)

/-- Whether an acquire of a context may use the core's hold table (R232); one that is not enabled belongs to none (log 113). -/
def holdCtxOk (s : State) (sl ctx : Nat) : Bool := s.f (rStash sl 0) 8 8 = ctx && s.fb (rHold sl) 0

/-- Whether a micro-batch queue is enabled and bound to an op queue. -/
def mbqBound (s : State) (sl i q : Nat) : Bool := s.fb (rMbq sl i 0) 0 && s.f (rMbq sl i 0) 1 2 = q

/-- The set whose version an acquire copies, as far as its entry tells. -/
def acqSet (s : State) (sl t : Nat) : Option Nat :=
  let i := vaMbq t
  match vaMode t with
  | 0 => if mbqProd s sl i = mbqCons s sl i then none else some (enSet s (mbqEntry s sl i (mbqCons s sl i)))
  | 1 =>
    let e := mbqEntry s sl i (mbqCons s sl i)
    if mbqProd s sl i = mbqCons s sl i then none
    else some (tagSet (holdTag s sl (holdIdx s sl (enMb s e) (enVstage s e))))
  | 2 => some (vaSet t)
  | _ => if mbqCur s sl i then some (enSet s (mbqCurEntry s sl i)) else none

/-- Whether a range lies in scratchpad or cluster memory addresses. -/
def localRange (a n : Nat) : Bool :=
  (0xFF0000000000 ≤ a && a + n ≤ 0xFF0001000000) || (0xFF0100000000 ≤ a && a + n ≤ 0xFF0101000000)

def useAcquire (s : State) (sl q t : Nat) (o : Op) : Use :=
  let st := firstSt [
    chk (vaMode t = 2 || holdCtxOk s sl o.ctx) stMemProtect,
    chk (vaMode t = 2 || mbqBound s sl (vaMbq t) q) stBadField,
    chk (!vaRebase t || vaFirst t + vaN t ≤ s.f (rOpq sl q 0x10) 48 16) stBadField]
  if st ≠ 0 then Use.bad st
  else
    let ds := if vaRebase t && vaN t ≠ 0 then [(descAddr s sl q (vaFirst t), 64 * vaN t)] else []
    let n := if vaFetch t then ((acqSet s sl t).map (fun n => setSize s n)).getD 0 else 0
    { Use.bad 0 with
      reads := ds, writes := ds ++ (if vaFetch t && n ≠ 0 then [(vaDst t, n)] else [])
      outs := if vaFetch t && n ≠ 0 then [(vaDst t, vaDst t + n)] else []
      deny := if vaFetch t && !localRange (vaDst t) n then some (vaDst t) else none }

/-- Descriptors that a REBASE rewrites, as byte runs (R229). -/
def rebaseWrites (s : State) (sl : Nat) (o : Op) (n k : Nat) : List (Nat × List Byte) :=
  let b := setBase s n
  let d := setStride s n
  let mv (x : Nat) : Nat := if b ≤ x && x < b + setDepth s n * d then b + k * d + (x - b) % d else x
  (upto (vaN o.tod)).flatMap (fun j =>
    let a := descAddr s sl o.q (vaFirst o.tod + j)
    match xlate s sl a with
    | none => []
    | some p => [(a, leBytes 6 (mv (s.num p 6))), (a + 8, leBytes 6 (mv (s.num (p + 8) 6)))])

def rWbuf (sl b : Nat) : Nat := slotBase sl + 0x1680 + 8 * b

/-- Bytes of a version; of a slot that reaches past the stacks no rule says what they are, and they are free (log 115). -/
def slotBytes (s : State) (a n : Nat) : List Byte × State := if a + n ≤ hbmTop then (s.bytes a n, s) else s.freeBytes n

/-- The acquired version in slot k of set n is delivered (R229): the operation with its result. -/
def deliver (s : State) (sl : Nat) (o : Op) (n k tag : Nat) : State × Op :=
  let t := o.tod
  let src := setBase s n + k * setStride s n
  let old := (s.rd (rWbuf sl (vaWbuf t))).toNat
  let copy := vaFetch t && old ≠ tag
  let dr := if vaRebase t then [(descAddr s sl o.q (vaFirst t), 64 * vaN t)] else []
  let rd := dr ++ (if copy then [(src, setSize s n)] else [])
  let bad := anyPoison s sl rd
  let s1 := touchReads s sl o.ctx rd
  let (bs, s1) := if copy && !bad then slotBytes s1 src (setSize s n) else ([], s1)
  let ws := (if vaRebase t then rebaseWrites s sl o n k else []) ++ (if copy && !bad then [(vaDst t, bs)] else [])
  let res : OpRes := { OpRes.ofStatus (if bad then stMemUncorr else 0) with
    detail := if copy && !bad then (if old = 0 then 1 else 2) else 0
    units := if bad then [] else [{ WUnit.nil with writes := ws }] }
  (s1, { o with hbm := o.hbm + hbmLen rd, aux := setNth o.aux 6 (b2n copy) }.ready res)

/-- Progress kept in `aux` of an acquire: 0 waiting (0), WRITE waiting (3) or served (1); 1 tag; 2 entry number; 3 set; 4 hold index;
5 former tag of a REPLAY; 6 a copy is under way; 7 it has waited. -/
def acqAux (o : Op) (ph tag e n h old : Nat) : Op :=
  { o with aux := setNth (setNth (setNth (setNth (setNth (setNth o.aux 0 ph) 1 tag) 2 e) 3 n) 4 h) 5 old }

def raiseHoldBusy (s : State) (sl tag mb vs h : Nat) : State :=
  s.raise .holdBusy sl (packBits [(tag, 0, 14), (mb, 14, 16), (vs, 30, 12), (h, 42, 12)])

/-- One attempt to serve a waiting acquire at the memory controller (R227, R230): none when it waits on; otherwise the operation, and
a nonzero status when it completes without a version. The hold's entry is looked at again, since another queue may have taken it
meanwhile (R232). -/
def acqServe (s : State) (sl : Nat) (o : Op) : Option (State × Op × Nat) :=
  let t := o.tod
  let n := nth 0 o.aux 3
  let i := vaMbq t
  if vaMode t = 2 then
    let k := setNewest s n % setDepth s n
    let held := slotValid s n k && slotRef s n k ≠ 0
    if held && !s.fb (rSet n 0x18) 3 then none
    else
      let s := if held then evict s n k else s
      let s := setRef (s.setF (rSet n 0x20) (48 + k) 1 0) n k 0
      let (s, o) := deliver s sl (acqAux o 1 0 0 n 0 0) n k 0
      some (s, o, 0)
  else
    let e := mbqEntry s sl i (nth 0 o.aux 2)
    let vs := enVstage s e
    let mb := enMb s e
    let h := nth 0 o.aux 4
    if tied s n vs then some (raiseTied s sl n o.tag vs, o, stTiedWeight)
    else if vaMode t = 0 && holdState s sl h ≠ 0 then some (raiseHoldBusy s sl o.tag mb vs h, o, stHoldBusy)
    else
      let want := if vaMode t = 0 then enWant s e else 0
      let pick : Option (Nat × Nat) :=
        if want = 0 then bestSlot s n
        else if setNewest s n < want then none else some ((want - 1) % setDepth s n, want)
      match pick with
      | none => none
      | some (k, v) =>
        if !slotHolds s n k v then some (raiseGone (goneCount s n) sl o.tag mb vs v, o, stVersionGone)
        else if setWriting s n && setWslot s n = k then none
        else
          let tag := versionTag n k v
          let old := if vaMode t = 3 then holdTag s sl h else 0
          let s := setRef (bindSet s sl n vs) n k (min 0xFFFF (slotRef s n k + 1))
          let s := if vaMode t = 3 then localWrite (setHoldState s sl h 1) (holdAt s sl h) (leBytes 8 tag)
            else makeHold s sl h tag mb vs (vaWbuf t)
          let (s, o) := deliver (holdShow s sl) sl (acqAux o 1 tag (nth 0 o.aux 2) n h old) n k tag
          some (s, o, 0)

/-- Serve now, or wait in order of arrival (R227, R230). -/
def acqTry (s : State) (sl : Nat) (o : Op) : State × Op × Nat :=
  match acqServe s sl o with
  | some r => r
  | none => ({ s with acqWait := s.acqWait ++ [(nth 0 o.aux 3, sl, o.tag)] },
      { o with stage := OpStage.running, aux := setNth o.aux 7 1 }, 0)

/-- A waiting acquire is no longer in line. -/
def leaveLine (s : State) (w : Nat × Nat × Nat) : State := { s with acqWait := s.acqWait.filter (fun x => x ≠ w) }

/-- A waiting acquire is served, when it can be: its result is ready, or it has completed. -/
def serveWaiter (s : State) (w : Nat × Nat × Nat) : Option State :=
  match opOf s w.2.1 w.2.2 with
  | none => none
  | some o => (acqServe s w.2.1 o).map (fun r =>
    let t := leaveLine r.1 w
    if r.2.2 ≠ 0 then finishWith t w.2.1 r.2.1 r.2.2 else updOp t w.2.1 r.2.1)

/-- The memory controller serves what waits on a set, in order of arrival, as far as it can: after each commit, release or withdrawal, and so
before anything that arrives later (R227). -/
def serveSet : Nat → State → Nat → State
  | 0, s, _ => s
  | fuel + 1, s, n =>
    match (s.acqWait.filter (fun w => w.1 = n)).findSome? (fun w => serveWaiter s w) with
    | none => s
    | some t => serveSet fuel t n

/-- A set has changed: what waits on it is served. -/
def setMoved (s : State) (n : Nat) : State := serveSet s.acqWait.length s n

/-- A hold ends (R231). -/
def endHold (s : State) (sl h : Nat) : State :=
  let tag := holdTag s sl h
  setMoved (holdShow (setHoldState (dropRef s tag) sl h 0) sl) (tagSet tag)

/-- TACK.WAIT_CYCLES of the die that is a set's home (Table 8.12). -/
def rAcqWait (n : Nat) : Nat := tackBase (n / 512) + 0x8010

/-- A waiting acquire is withdrawn; the cycles a WRITE has waited are counted, and how many they are is open (R230; log 108). -/
def acqWithdraw (s : State) (w : Nat × Nat × Nat) (o : Op) : State :=
  let s := leaveLine s w
  if vaMode o.tod = 2 then
    let (c, s) := s.freeWord
    (s.addCtr (rAcqWait w.1) c).setF (rSet w.1 0x18) 29 3 0
  else s

/-- An acquire arrives (R224, R228, R230, R232). -/
def startAcquire (s : State) (sl : Nat) (o : Op) : State × Op × Nat :=
  let t := o.tod
  let i := vaMbq t
  let n0 := mbqCons s sl i
  let e := if vaMode t = 3 then mbqCurEntry s sl i else mbqEntry s sl i n0
  let mb := enMb s e
  let vs := enVstage s e
  let h := holdIdx s sl mb vs
  match vaMode t with
  | 0 =>
    let n := enSet s e
    if mbqProd s sl i = n0 then (s, o, stMbqEmpty)
    else if enBwd s e then (s, o, stMbqKind)
    else if !setEn s n then (s, o, stSetDisabled)
    else if tied s n vs then (raiseTied s sl n o.tag vs, o, stTiedWeight)
    else if holdState s sl h ≠ 0 then
      (raiseHoldBusy s sl o.tag mb vs h, o, stHoldBusy)
    else acqTry s sl (acqAux o 0 0 n0 n h 0)
  | 1 =>
    let tag := holdTag s sl h
    let n := tagSet tag
    if mbqProd s sl i = n0 then (s, o, stMbqEmpty)
    else if !enBwd s e then (s, o, stMbqKind)
    else if !holdIs s sl h mb vs then (s, o, stHoldMissing)
    else if !setEn s n then (s, o, stSetDisabled)
    else if tied s n vs then (raiseTied s sl n o.tag vs, o, stTiedWeight)
    else if slotHolds s n (tagSlot tag) (tagVersion tag) then
      let (s, o) := deliver s sl (acqAux o 1 tag n0 n h 0) n (tagSlot tag) tag
      (s, o, 0)
    else
      let s := enSetFlag (raiseGone (goneCount s n) sl o.tag mb vs (tagVersion tag)) e 0
      (mbqTake (setHoldState s sl h 2) sl i, o, stVersionGone)
  | 2 =>
    let n := vaSet t
    if !setEn s n then (s, o, stSetDisabled)
    else if tied s n o.vstage then (raiseTied s sl n o.tag o.vstage, o, stTiedWeight)
    else if setWriting s n then (s, o, stWritePending)
    else
      let k := setNewest s n % setDepth s n
      let s := (s.setF (rSet n 0x18) 29 1 1).setF (rSet n 0x18) 30 2 k
      acqTry s sl (acqAux o 3 0 0 n 0 0)
  | _ =>
    let n := enSet s e
    if !mbqCur s sl i || !enReplay s e || !holdIs s sl h mb vs || holdState s sl h ≠ 2 then (s, o, stBadField)
    else if !setEn s n then (s, o, stSetDisabled)
    else acqTry s sl (acqAux o 0 0 (s.f (rMbq sl i 0x10) 32 32 + (2 ^ 32 - 1)) n h 0)

def famAcquire : Family := ⟨formAcquire, useAcquire, startAcquire⟩

/-- What an acquire had done toward its own result is undone (R229, R230). -/
def acqUndo (s : State) (sl : Nat) (o : Op) : State :=
  let h := nth 0 o.aux 4
  let tag := nth 0 o.aux 1
  let s := match vaMode o.tod with
    | 0 => endHold s sl h
    | 3 => setMoved (holdShow (localWrite (setHoldState (dropRef s tag) sl h 2) (holdAt s sl h) (leBytes 8 (nth 0 o.aux 5))) sl) (tagSet tag)
    | _ => s
  if nth 0 o.aux 6 = 1 then s.wr (rWbuf sl (vaWbuf o.tod)) 0#64 else s

/-- A served acquire completes (R224, R229, R230). -/
def acqComplete (s : State) (sl : Nat) (o : Op) : State :=
  let t := o.tod
  let i := vaMbq t
  let tag := nth 0 o.aux 1
  if o.res.status ≠ 0 then
    let s := acqUndo s sl o
    if nth 0 o.aux 6 = 1 then
      let (bs, s) := s.freeBytes (setSize s (nth 0 o.aux 3))
      complete (coreWrite s sl o.ctx (vaDst t) bs) sl o o.res
    else complete s sl o o.res
  else
    let s := if vaFetch t then s.wr (rWbuf sl (vaWbuf t)) (BitVec.ofNat 64 tag) else s
    let s := if vaMode t = 2 then s else localWrite s (mbqEntry s sl i (nth 0 o.aux 2) + 16) (leBytes 8 tag)
    let s := if vaMode t = 0 || vaMode t = 1 then mbqTake s sl i else s
    complete (mbqShow s sl i) sl o o.res

/-- A cancel of an acquire (R230, R345). -/
def acqCancel (s : State) (sl : Nat) (o : Op) : State :=
  let n := nth 0 o.aux 3
  if o.stage = .running then finishWith (setMoved (acqWithdraw s (n, sl, o.tag) o) n) sl o stCancelled
  else finishWith (if nth 0 o.aux 0 = 1 then acqUndo s sl o else s) sl o stCancelled

/-- Acquires that wait on a set whose EN is cleared complete with SET_DISABLED (R243). -/
def setDisable (s : State) (n : Nat) : State :=
  let s := (upto 4).foldl (fun s k => if slotRef s n k ≠ 0 then evict s n k else s) s
  let s := (s.acqWait.filter (fun w => w.1 = n)).foldl (fun s w =>
    match opOf s w.2.1 w.2.2 with
    | none => leaveLine s w
    | some o => finishWith (acqWithdraw s w o) w.2.1 o stSetDisabled) s
  let s := (s.wr (rSet n 0x20) (setFld (s.rd (rSet n 0x20)) 48 4 0)).wr (rSet n 0x28) 0#64
  s.setF (rSet n 0x18) 29 3 0

/-- EN is set: VERSION, VALID, REF and the binding are cleared (R243). -/
def setEnable (s : State) (n : Nat) : State :=
  ((s.wr (rSet n 0x20) 0#64).wr (rSet n 0x28) 0#64).setF (rSet n 0x18) 16 16 0

def isAcquire (m t : Nat) : Bool := tOpcode t = 0x38 && vaMode t = m

/-- VERSION_ACQUIRE with MODE = FWD. -/
def execVersionAcquireFwd (sl q : Nat) (s : State) : Res := done s (runTod s sl q (isAcquire 0) famAcquire)
/-- VERSION_ACQUIRE with MODE = BWD. -/
def execVersionAcquireBwd (sl q : Nat) (s : State) : Res := done s (runTod s sl q (isAcquire 1) famAcquire)
/-- VERSION_ACQUIRE with MODE = WRITE. -/
def execVersionAcquireWrite (sl q : Nat) (s : State) : Res := done s (runTod s sl q (isAcquire 2) famAcquire)
/-- VERSION_ACQUIRE with MODE = REPLAY. -/
def execVersionAcquireReplay (sl q : Nat) (s : State) : Res := done s (runTod s sl q (isAcquire 3) famAcquire)

/-! ## VERSION_RELEASE (R231) -/

def vrMode (t : Nat) : Nat := tF t 16 0 2
def vrDropMb (t : Nat) : Nat := tF t 24 0 16
def vrDropVs (t : Nat) : Nat := tF t 24 16 12

def formRelease (t : Nat) : Form :=
  Form.plain (match vrMode t with
    | 0 => bm 16 0 2 + bm 16 4 1
    | 3 => bm 16 0 2 + bm 24 0 28
    | _ => bm 16 0 2 + bm 16 16 12) 0

/-- Whether a hold of (MB, VSTAGE) is there to be ended: only an enabled table has any (log 113). -/
def heldNow (s : State) (sl mb vs : Nat) : Bool := s.fb (rHold sl) 0 && holdIs s sl (holdIdx s sl mb vs) mb vs

def startRelease (s : State) (sl : Nat) (o : Op) : State × Op × Nat :=
  let t := o.tod
  let ok (s : State) : State × Op × Nat := (s, o.ready (OpRes.ofStatus 0), 0)
  match vrMode t with
  | 0 =>
    let i := vaMbq t
    let e := mbqCurEntry s sl i
    if !mbqCur s sl i then (s, o, stMbqEmpty)
    else
      let s := if enBwd s e && heldNow s sl (enMb s e) (enVstage s e) then endHold s sl (holdIdx s sl (enMb s e) (enVstage s e)) else s
      ok (mbqNone (enSetFlag s e 2) sl i)
  | 3 =>
    if heldNow s sl (vrDropMb t) (vrDropVs t) then ok (endHold s sl (holdIdx s sl (vrDropMb t) (vrDropVs t))) else (s, o, stHoldMissing)
  | m =>
    let n := vaSet t
    let k := setWslot s n
    if !setEn s n then (s, o, stSetDisabled)
    else if !setWriting s n || slotValid s n k then (s, o, stBadField)
    else
      let s := s.setF (rSet n 0x18) 29 3 0
      if m = 1 then
        let s := (s.setF (rSet n 0x20) 0 48 (setNewest s n + 1)).setF (rSet n 0x20) (48 + k) 1 1
        ok (setMoved (setRef s n k 0) n)
      else ok (setMoved s n)

def famRelease : Family := ⟨formRelease, useNone, startRelease⟩

def isRelease (m t : Nat) : Bool := tOpcode t = 0x39 && vrMode t = m

/-- VERSION_RELEASE with MODE = END. -/
def execVersionReleaseEnd (sl q : Nat) (s : State) : Res := done s (runTod s sl q (isRelease 0) famRelease)
/-- VERSION_RELEASE with MODE = COMMIT. -/
def execVersionReleaseCommit (sl q : Nat) (s : State) : Res := done s (runTod s sl q (isRelease 1) famRelease)
/-- VERSION_RELEASE with MODE = ABANDON. -/
def execVersionReleaseAbandon (sl q : Nat) (s : State) : Res := done s (runTod s sl q (isRelease 2) famRelease)
/-- VERSION_RELEASE with MODE = DROP. -/
def execVersionReleaseDrop (sl q : Nat) (s : State) : Res := done s (runTod s sl q (isRelease 3) famRelease)

/-! ## PHASE_SWITCH (R235) -/

def rPhase (sl : Nat) : Nat := slotBase sl + 0x16C0

def formPhase (_ : Nat) : Form := Form.plain (bm 16 0 2 + bm 16 32 32) 0

def famPhase : Family := ⟨formPhase, useNone, startWaiting⟩

/-- PHASE_SWITCH. -/
def execPhaseSwitch (sl q : Nat) (s : State) : Res := done s (runTod s sl q (isOpc 0x2C) famPhase)

/-- Whether an operation uses a channel: it is a channel operation, or receives operands through a port. -/
def Op.usesChannel (o : Op) : Bool := (0x28 ≤ o.opc && o.opc ≤ 0x2B) || !o.ports.isEmpty

/-- Whether every earlier-issued operation of the core that uses a channel has completed. -/
def phaseReady (c : Core) (o : Op) : Bool := (c.ops.takeWhile (fun e => e.tag ≠ o.tag)).all (fun e => !e.live || !e.usesChannel)

/-- The switch: the bank flips, open static channels restart their SEQ, and at step end the core's bindings are cleared (R235). -/
def phaseFlip (s : State) (sl : Nat) (o : Op) : State :=
  let b := tF o.tod 16 0 1
  if s.f (rPhase sl) 0 1 = b then finish s sl o ⟨0, 1, 0, Counters.zeros⟩
  else
    let s := (s.setF (rPhase sl) 0 1 b).satF (rPhase sl) 32 32 1
    let s := (upto 64).foldl (fun s c =>
      if !chanDyn s sl c && chanState s sl c = 2 then s.setF (rChan sl c 0x10) 16 32 0 else s) s
    let s := if tB o.tod 16 1 && s.f (rPhase sl) 1 1 = b then
        let s := (s.core sl).bound.foldl (fun s n => s.setF (rSet n 0x18) 16 13 0) s
        s.modCore sl (fun c => { c with bound := [] })
      else s
    finishWith ((upto 16).foldl (fun s r => rqStatus s sl r) s) sl o stOK

/-! ## OPTIM_STEP (R237, R238) -/

def opSgd (t : Nat) : Bool := tB t 16 0
def opScalar (t i : Nat) : Nat := bitsN t (8 * 16 + 32 + 32 * i) 32
def inUnitR (c : Nat) : Bool := c < 0x3F800000
def nonNeg (c : Nat) : Bool := c < 0x7F800000
def atLeast1 (c : Nat) : Bool := 0x3F800000 ≤ c && c < 0x7F800000

/-- Scalars in body order: 0 GSCALE, 1 LR, 2 WD, 3 B1, 4 OMB1, 5 B2, 6 OMB2, 7 EPS, 8 BC1, 9 BC2 (Table 8.7). -/
def optimOk (t : Nat) : Bool :=
  posFinite (opScalar t 0) && nonNeg (opScalar t 1) && nonNeg (opScalar t 2) && inUnitR (opScalar t 3)
    && (opSgd t || (inUnitR (opScalar t 4) && inUnitR (opScalar t 5) && inUnitR (opScalar t 6) && posFinite (opScalar t 7)
      && atLeast1 (opScalar t 8) && atLeast1 (opScalar t 9)))

def formOptim (t : Nat) : Form :=
  let sl := if opSgd t then [0, 1, 2] else [0, 1, 2, 3]
  { mask := bm 16 0 1 + bm 16 32 32 + (2 ^ 288 - 1) * 2 ^ (8 * 24), slots := sl ++ [4], need := sl, rnd := true, streams := []
    events := [], ports := [], mx := false, gate := true, st := chk (optimOk t) stBadField }

/-- Descriptors of the tensors an OPTIM_STEP updates: W, M and V. -/
def optimState (t : Nat) (ds : List (Nat × Desc)) : List Desc :=
  [dscD ds 0, dscD ds 2] ++ (if opSgd t then [] else [dscD ds 3])

def optimOut (ds : List (Nat × Desc)) : List Desc := ((dsc ds 4).map (fun d => [d])).getD []

/-- Whether any two of a list of tensors overlap. -/
def pairClash : List Desc → Bool
  | [] => false
  | d :: t => t.any (fun e => overlapAny d.span e.span) || pairClash t

def useOptim (_ : State) (_ _ t : Nat) (o : Op) : Use :=
  let ds := o.descs
  let w := dscD ds 0
  let g := dscD ds 1
  let st3 := optimState t ds
  let out := optimOut ds
  let mv (f : Nat) : Bool := f = fFP32 || f = fBF16
  let st := firstSt [
    chk ((g :: st3 ++ out).all (fun d => d.size = w.size)) stBadField,
    chk (w.fmt = fFP32 && g.fmt = fFP32) stFormatIllegal,
    chk ((st3.drop 1).all (fun d => mv d.fmt)) stFormatIllegal,
    chk (out.all (fun d => d.fmt ≤ 8 || d.fmt = fINT8)) stFormatIllegal]
  if st ≠ 0 then Use.bad st
  else
    { Use.bad 0 with
      reads := (g :: st3).flatMap Desc.readRuns ++ out.flatMap Desc.coarseRun
      writes := (st3 ++ out).flatMap Desc.writeRuns
      ins := (g :: st3).flatMap Desc.span
      outs := (st3 ++ out).flatMap Desc.span
      clash := pairClash (g :: st3) || out.any (fun d => (g :: st3).any (fun e => overlapAny d.span e.span)) }

/-- optim_element (R238): new w, m and v. -/
def optimElement (t : Nat) (w g m v : FV) : FV × FV × FV :=
  let c (i : Nat) : FV := dec32 (opScalar t i)
  let g := mul32 g (c 0)
  if opSgd t then
    let m := fma32 (c 3) m (fma32 (c 2) w g)
    (fma32 (c 1).neg m w, m, v)
  else
    let m := fma32 (c 3) m (mul32 (c 4) g)
    let v := fma32 (c 5) v (mul32 (c 6) (mul32 g g))
    let den := add32 (sqrt32 (mul32 v (c 9))) (c 7)
    let u := div32 (mul32 m (c 8)) den
    (fma32 (c 1).neg (add32 u (mul32 (c 2) w)) w, m, v)

/-- Join units of one stretch; the NaN at the lowest position comes first. -/
def joinLow (a b : WUnit) : WUnit :=
  let j := a.join b
  match a.trap, b.trap with
  | some x, some y => { j with trap := if nth 0 y.coord 0 < nth 0 x.coord 0 then some y else some x }
  | _, _ => j

/-- Write units of an OPTIM_STEP: the stretches of W, M, V and OUT at the same 512 elements are one unit, and of NaNs at one position that of W
comes before those of M, V and OUT: the rules order no two tensors (DESIGN CHOICE, log 114). -/
def optimUnits (v : View) (ds : List (Nat × Desc)) (t : Nat) (cx : ConvCtx) : List WUnit :=
  let w := dscD ds 0
  let rne : ConvCtx := ⟨.rne, 0, 0⟩
  let co := (optimOut ds).map (fun d => (d, v.coarse d))
  w.runs.flatMap (fun cs =>
    let r (i : Nat) : List FV := v.run32 (dscD ds i) cs
    let vs := if opSgd t then (r 0).map (fun _ => FV.zero) else r 3
    let es := (((r 0).zip (r 1)).zip ((r 2).zip vs)).map (fun p => optimElement t p.1.1 p.1.2 p.2.1 p.2.2)
    (pieces 512 es).zipIdx.map (fun p =>
      let st (d : Desc) (x : ConvCtx) (c : Ex) (l : List FV) : WUnit := convStretch d x c d.size cs (512 * p.2) (l.map (vu 3))
      let uw := st w rne Ex.zero (p.1.map (·.1))
      let um := st (dscD ds 2) rne Ex.zero (p.1.map (·.2.1))
      let a := joinLow uw um
      let b := if opSgd t then a else joinLow a (st (dscD ds 3) rne Ex.zero (p.1.map (·.2.2)))
      co.foldl (fun u d => joinLow u (st d.1 cx d.2 (p.1.map (·.1)))) b))

def startOptim (s : State) (sl : Nat) (o : Op) : State × Op × Nat :=
  let out := optimOut o.descs
  let n := out.map (fun d => regionCount d.fmt d.size)
  startWith out (readsOf (dscD o.descs 1 :: optimState o.tod o.descs) ++ out.flatMap Desc.coarseRun)
    (n.flatMap (fun k => rndAdvance o k))
    (fun v ds => { OpRes.ofStatus 0 with units := optimUnits v ds o.tod (o.conv s sl) }) s sl o

def famOptim : Family := ⟨formOptim, useOptim, startOptim⟩

/-- OPTIM_STEP. -/
def execOptimStep (sl q : Nat) (s : State) : Res := done s (runTod s sl q (isOpc 0x30) famOptim)

/-- Elements per core clock: 64 for AdamW, 256 for SGD (R238). -/
def optimRate (t : Nat) : Nat := if opSgd t then 256 else 64

end Sys2Proof.Machine
end

