-- ==== Sys2Proof/Machine/Bucket.lean ====
section
/-! DEFINITION. Cinch's tables: buckets, groups and the step registers (spec/09 R244, R248, R249, R253, R257, Tables 9.1, 9.2, 9.7). -/

namespace Sys2Proof.Machine

def stStepRepeat : Nat := 0x0070
def stBktState : Nat := 0x0071
def stStepStalled : Nat := 0x0072
def stStepOrder : Nat := 0x0073

/-! ## Registers -/

def rCinch (o : Nat) : Nat := cinchBase + o
def cinchEn (s : State) : Bool := s.fb (rCinch 0) 0
def perLayer (s : State) : Bool := s.fb (rCinch 0) 1
def maxActive (s : State) : Nat := s.f (rCinch 0) 2 5
def finalEv (s : State) : Nat := s.f (rCinch 0) 8 4
def repeatEv (s : State) : Nat := s.f (rCinch 0) 12 4
def repeatLimit (s : State) : Nat := s.f (rCinch 8) 40 4
def bktCount (s : State) : Nat := s.f (rCinch 0x18) 0 11
def rCursor (n : Nat) : Nat := rCinch (0x80 + 8 * n)
def rCurStart (k n : Nat) : Nat := rCinch (0x100 + 0x80 * k + 8 * n)

/-- STEP_STATUS.STATE: 0 IDLE, 1 OPEN, 2 DONE_SENT, 3 FINAL, 4 ABORTING, 5 STALLED. -/
def stepState (s : State) : Nat := s.f (rCinch 0x38) 0 3
def stepAtt (s : State) : Nat := s.f (rCinch 0x38) 8 8
def stepNo (s : State) : Nat := s.f (rCinch 0x38) 20 44
def setStepState (s : State) (x : Nat) : State := s.setF (rCinch 0x38) 0 3 x

/-- Change Cinch's state, whose domain is ON for it (R380; log 61). -/
def State.modCinch (s : State) (f : Cinch → Cinch) : State := let s := wakeNow s 8 0; { s with cinch := f s.cinch }

/-- Whether a step is open: the older step before it is FINAL, or the one after it (R252). -/
def stepOpen (s : State) (t : Nat) : Bool :=
  (t = stepNo s && (stepState s = 1 || stepState s = 2)) || (s.cinch.next && t = stepNo s + 1)

/-- Current attempt of a step. -/
def attOf (s : State) (t : Nat) : Nat := if t = stepNo s then stepAtt s else 0

/-! ## Bucket entries (Table 9.1) -/

def bktAt (s : State) (b : Nat) : Nat := (s.rd (rCinch 0x10)).toNat + 64 * b
def bkAddr (s : State) (b : Nat) : Nat := s.num (bktAt s b) 6
def bkLen (s : State) (b : Nat) : Nat := s.num (bktAt s b + 8) 4
def bkOp (s : State) (b : Nat) : Nat := s.num (bktAt s b + 12) 1
def bkGroup (s : State) (b : Nat) : Nat := s.num (bktAt s b + 13) 1
def bkParts (s : State) (b : Nat) : Nat := s.num (bktAt s b + 14) 2
def bkStage (s : State) (b : Nat) : Nat := s.num (bktAt s b + 16) 6
def bkCore (s : State) (b : Nat) : Nat := s.num (bktAt s b + 24) 2 % 256
def bkEv (s : State) (b : Nat) : Nat := s.num (bktAt s b + 26) 1 % 16
/-- STATE: 0 FILLING, 1 READY, 2 ACTIVE, 3 COMPLETE. -/
def bkState (s : State) (b : Nat) : Nat := s.num (bktAt s b + 32) 1
def bkAtt (s : State) (b : Nat) : Nat := s.num (bktAt s b + 33) 1
def bkPushed (s : State) (b : Nat) : Nat := s.num (bktAt s b + 34) 2
def bkStep (s : State) (b : Nat) : Nat := s.num (bktAt s b + 40) 8

def setBkState (s : State) (b x : Nat) : State := hbmWrite s 0 (bktAt s b + 32) (leBytes 1 x)

/-- Cinch's half of an entry. -/
def writeBkt (s : State) (b st att pushed nan step : Nat) : State :=
  hbmWrite s 0 (bktAt s b + 32) (leBytes 1 st ++ leBytes 1 att ++ leBytes 2 pushed ++ leBytes 4 nan ++ leBytes 8 step ++ leBytes 16 0)

/-- Elements of a bucket. -/
def bkElems (s : State) (b : Nat) : Nat := bkLen s b / 4

/-! ## Groups (Table 9.2) -/

def grpAt (s : State) (g : Nat) : Nat := (s.rd (rCinch 0x20)).toNat + 0x4000 * g
def grR (s : State) (g : Nat) : Nat := s.num (grpAt s g) 2
def grMy (s : State) (g : Nat) : Nat := s.num (grpAt s g + 2) 2
def grPlanes (s : State) (g : Nat) : Nat := s.num (grpAt s g + 4) 1
def grNext (s : State) (g p : Nat) : Nat := s.num (grpAt s g + 8 + p) 1
def grPrev (s : State) (g p : Nat) : Nat := s.num (grpAt s g + 12 + p) 1
def grPkg (s : State) (g r : Nat) : Nat := s.num (grpAt s g + 64 + 2 * r) 2 % 4096

/-- Whether a group entry is within its ranges and names this package (R248). -/
def groupOk (s : State) (g : Nat) : Bool :=
  let a := grpAt s g
  1 ≤ grR s g && grR s g ≤ 4096 && grMy s g < grR s g && 1 ≤ grPlanes s g && grPlanes s g ≤ 4
    && (upto (grPlanes s g)).all (fun p => grNext s g p ≤ 17 && grPrev s g p ≤ 17)
    && (s.bytes (a + 5) 3).all (fun b => b = 0#8) && (s.bytes (a + 16) 48).all (fun b => b = 0#8)
    && grPkg s g (grMy s g) = ownPkg s

/-- Whether a bucket entry keeps the rules of Table 9.1 (R244). -/
def entryOk (s : State) (b : Nat) : Bool :=
  let a := bktAt s b
  bkAddr s b % 65536 = 0 && s.num (a + 6) 2 = 0 && 4194304 ≤ bkLen s b && bkLen s b ≤ 67108864 && bkLen s b % 65536 = 0
    && bkOp s b ≤ 2 && 1 ≤ bkParts s b && bkParts s b ≤ 4096 && bkStage s b % 65536 = 0 && s.num (a + 22) 2 = 0
    && s.num (a + 24) 2 < 256 && s.num (a + 26) 1 < 16 && (s.bytes (a + 27) 5).all (fun x => x = 0#8) && groupOk s (bkGroup s b)

/-- First element of segment j of E elements over R ranks (R249). -/
def segLo (e r j : Nat) : Nat := j * e / r

/-- Segment that holds an element. -/
def segOf (e r x : Nat) : Nat := ((upto r).find? (fun j => segLo e r j ≤ x && x < segLo e r (j + 1))).getD 0

/-- First element of plane p of a segment (R249; log 43). -/
def planeLo (lo hi planes p : Nat) : Nat := lo + (hi - lo) * p / planes

/-- Plane of an element of a segment. -/
def planeOf (lo hi planes x : Nat) : Nat :=
  ((upto planes).find? (fun p => planeLo lo hi planes p ≤ x && x < planeLo lo hi planes (p + 1))).getD 0

/-- The segment of a rank, as a byte range of the bucket. -/
def cinchSeg (s : State) (b j : Nat) : Nat × Nat :=
  let r := grR s (bkGroup s b)
  (4 * segLo (bkElems s b) r j, 4 * segLo (bkElems s b) r (j + 1))

/-- This package's peers: the packages named in the groups of its buckets, other than itself (R254). -/
def peers (s : State) : List Nat :=
  ((((upto (bktCount s)).map (fun b => bkGroup s b)).eraseDups.filter (fun g => groupOk s g)).flatMap (fun g =>
    (upto (grR s g)).map (fun r => grPkg s g r))).eraseDups.filter (fun p => p ≠ ownPkg s)

/-- DONE_CORE of every bucket. -/
def doneCores (s : State) : List Nat := ((upto (bktCount s)).map (fun b => bkCore s b)).eraseDups

/-- Add 1 to an event counter of a logical core. -/
def addEventOf (s : State) (n e : Nat) : State := addEvent s (slotOf s n) e

/-- Step record of core n for step t (R252). -/
def stepRec (s : State) (n t : Nat) : Nat := (s.rd (rCinch 0x30)).toNat + 0x400 * n + 0x200 * (t % 2)

/-- Digest log entry of a step: header and first digest (R258). -/
def digHdr (s : State) (t : Nat) : Nat := (s.rd (rCinch 0x28)).toNat + 64 * (t % 64)
def digAt (s : State) (t b : Nat) : Nat := (s.rd (rCinch 0x28)).toNat + 0x1000 + 0x4000 * (t % 64) + 16 * b

/-- Contents of HBM that become undefined. -/
def freeRegion (s : State) (a n : Nat) : State :=
  let (bs, s) := s.freeBytes n
  hbmWrite s 0 a bs

/-- Take entry `i` of the package's inbox when it carries this OP. -/
def inTake (s : State) (i op : Nat) : Option (Nat × WReq × State) :=
  match s.wen.inbox[i]? with
  | none => none
  | some (p, r) => if r.op = op then some (p, r, { s with wen := { s.wen with inbox := dropNth s.wen.inbox i } }) else none

end Sys2Proof.Machine
end

