-- ==== Sys2Proof/Machine/Shadow.lean ====
section
/-! DEFINITION. Shadow: snapshots, holder slots, restore and verification (spec/10 R262-R283). -/

namespace Sys2Proof.Machine

def stShadowBusy : Nat := 0x0080
def stShadowMismatch : Nat := 0x0081
def stShadowCrc : Nat := 0x0082
def stShadowUnreachable : Nat := 0x0083
def stShadowNoSlot : Nat := 0x0084

def rShadow (o : Nat) : Nat := shadowBase + o
def shadowEn (s : State) : Bool := s.fb (rShadow 0) 0
def copies (s : State) : Nat := s.f (rShadow 0) 1 1 + 1
def slotCount (s : State) : Nat := if s.fb (rShadow 0) 2 then 3 else 2
def shGroup (s : State) : Nat := s.f (rShadow 0) 8 8
def shCores (s : State) : Nat := s.f (rShadow 0) 16 9
def shInterval (s : State) : Nat := s.f (rShadow 0) 32 24
def shSlotSize (s : State) : Nat := (s.rd (rShadow 0x18)).toNat
def lossAddr (s : State) : Nat := (s.rd (rShadow 0x20)).toNat
def regCount (s : State) : Nat := s.f (rShadow 8) 56 7

/-- Change Shadow's state, whose domain is ON for it (R380; log 61). -/
def State.modShadow (s : State) (f : Shadow → Shadow) : State := let s := wakeNow s 8 1; { s with shadow := f s.shadow }

/-- Package at rank MY_RANK + d of the Shadow group. -/
def rankPkg (s : State) (d : Int) : Nat :=
  let g := shGroup s
  grPkg s g (((grMy s g : Int) + d) % (grR s g : Int)).toNat

/-- Holder of copy j (R265). -/
def holderOf (s : State) (j : Nat) : Nat := rankPkg s j
/-- Package whose copy j this package holds. -/
def heldFor (s : State) (j : Nat) : Nat := rankPkg s (-(j : Int))

/-! ## Regions (R262, R263, Table 10.2) -/

def regAt (s : State) (i : Nat) : Nat := s.f (rShadow 8) 6 42 * 64 + 32 * i

def readRegion (s : State) (i : Nat) : SRegion :=
  let a := regAt s i
  { even := s.num a 6, odd := s.num (a + 8) 6, len := s.num (a + 16) 8, kind := s.num (a + 24) 1, gather := s.num (a + 25) 1 = 1
    bucket := s.num (a + 26) 2 % 1024 }

def regionTable (s : State) : List SRegion := (upto (regCount s)).map (fun i => readRegion s i)

/-- Start of each region in a slot, from 0x2_6000, on 4 KiB boundaries (R273); regions are whole 4 KiB units. -/
def regionOffs : List SRegion → Nat → List Nat
  | [], _ => []
  | r :: t, o => o :: regionOffs t (o + roundUp r.len 4096)

def regionsEnd (rs : List SRegion) : Nat := 0x26000 + sumN (rs.map (fun r => roundUp r.len 4096))

/-- Rule broken by an entry of the region table, 0 for none (R263; the numbers are the model's, log 44). -/
def regionRule (s : State) (i : Nat) : Nat :=
  let a := regAt s i
  let r := readRegion s i
  if s.num (a + 6) 2 ≠ 0 || s.num (a + 14) 2 ≠ 0 || r.len % 4096 ≠ 0 || r.len < 4096 || 2 ^ 40 < r.len || 3 < r.kind
      || 1 < s.num (a + 25) 1 || 1024 ≤ s.num (a + 26) 2 || s.num (a + 28) 4 ≠ 0 then 2
  else if r.kind ≤ 1 && r.even < r.odd + r.len && r.odd < r.even + r.len then 3
  else if r.gather && (bktCount s ≤ r.bucket || bkOp s r.bucket ≠ 2
      || r.len ≠ (cinchSeg s r.bucket (grMy s (bkGroup s r.bucket))).2 - (cinchSeg s r.bucket (grMy s (bkGroup s r.bucket))).1) then 4
  else 0

/-- The entry and the rule broken by the region table, when it breaks one. -/
def tableFault (s : State) : Option (Nat × Nat) :=
  if regCount s = 0 then some (0, 1)
  else match (upto (regCount s)).find? (fun i => regionRule s i ≠ 0) with
    | some i => some (i, regionRule s i)
    | none => if shSlotSize s < regionsEnd (regionTable s) then some (0, 5) else none

/-- Address of a region for base step s: the buffer of parity (s - 1) mod 2 (R262). -/
def regionAddr (r : SRegion) (base : Nat) : Nat := if base % 2 = 1 then r.even else r.odd

/-! ## The source: opening, trickle, staging, trailer (R266-R272) -/

/-- STATUS.FILLING follows the open snapshots. -/
def shadowStatus (s : State) : State := s.setB (rShadow 0x38) 0 (!s.shadow.snaps.isEmpty)

def snapOf (s : State) (base : Nat) : Option Snap := s.shadow.snaps.find? (fun x => x.base = base)

/-- Send a SHADOW_CTL request; `kind` 0 trailer, 1 SNAP_ACK. Answers whether it has a way. -/
def sendCtl (s : State) (dst kind : Nat) (words : List Nat) (org : WOrigin) : State × Bool :=
  submit s none { vc := 4, src := 0, dst := dst, tag := 0, reqId := 0, op := 0x29, flags := 0, code := 0
                  arg := (Config.wireArg 0x29 kind words).toNat, data := [] } org

/-- A snapshot fails or is skipped: it is counted, and the next step's is due (R266, R271). -/
def countFail (s : State) (base : Nat) : State := (s.addCtr (rShadow 0x88) 1).modShadow (fun h => { h with dueAt := some (base + 1) })

/-- An open snapshot fails, and its holders are told (R271, R272). -/
def failSnap (s : State) (base : Nat) : State :=
  match snapOf s base with
  | none => s
  | some _ =>
    let s := s.modShadow (fun h => { h with snaps := h.snaps.filter (fun x => x.base ≠ base) })
    let s := (countFail s base).modShadow (fun h => { h with staging := h.staging && !h.snaps.isEmpty })
    let s := (upto (copies s)).foldl (fun s j => (sendCtl s (holderOf s (j + 1)) 0 [j + 1, base, 1] (.shadow base (j + 1) 255)).1) s
    shadowStatus s

/-- A holder is unreachable (R271). -/
def holderLost (s : State) (base copy : Nat) : State :=
  match snapOf s base with
  | none => s
  | some _ => failSnap (s.raise .holderLost 0 (packBits [(holderOf s copy, 0, 12), (copy, 12, 2)])) base

/-- Send something to the holder of every copy, copy 1 first; a holder out of reach fails the snapshot (R271). -/
def toHolders (s : State) (base : Nat) (send : State → Nat → State × Bool) : State :=
  let r := (upto (copies s)).foldl (fun (acc : State × Nat) j =>
    let t := send acc.1 (j + 1)
    (t.1, if t.2 then acc.2 else j + 1)) (s, 0)
  if r.2 = 0 then r.1 else holderLost r.1 base r.2

/-- Whether a snapshot is due for a base step (R266). -/
def snapDue (s : State) (base : Nat) : Bool := base % max 1 (shInterval s) = 0 || s.shadow.dueAt = some base

/-- GATHER regions of a table: bucket, and offset in the slot. -/
def gatherPlaces (rs : List SRegion) : List (Nat × Nat) :=
  ((rs.zip (regionOffs rs 0x26000)).filter (fun p => p.1.gather)).map (fun p => (p.1.bucket, p.2))

/-- The holder of a copy is told that a snapshot opens, with the places of its GATHER regions: a SHADOW_DATA request without data (R266, R267;
log 45). Answers whether it has a way. -/
def sendOpen (s : State) (base att copy : Nat) (places : List (Nat × Nat)) : State × Bool :=
  submit s none { vc := 4, src := 0, dst := holderOf s copy, tag := 0, reqId := 0, op := 0x28, flags := 0, code := 0
                  arg := (Config.wireArg 0x28 0 ([copy, base, 255, att] ++ places.flatMap (fun p => [p.1, p.2]))).toNat, data := [] }
    (.shadow base copy 255)

/-- A snapshot opens, once for its base step, or fails on its region table (R263, R266, R267). -/
def openSnap (s : State) (base att : Nat) : State :=
  if !shadowEn s || frozen s || !snapDue s base || s.shadow.last = some base then s
  else
    let s := s.modShadow (fun h => { h with last := some base, dueAt := if h.dueAt = some base then none else h.dueAt })
    match tableFault s with
    | some (i, r) => countFail (s.raise .regionBad 0 (packBits [(i, 0, 7), (r, 7, 4)])) base
    | none =>
      let rs := regionTable s
      let x : Snap :=
        { base := base, ts := s.now, attPrev := att, regions := rs, started := false, staged := none, acks := [], sums := [] }
      let s := shadowStatus (s.modShadow (fun h => { h with snaps := h.snaps ++ [x] }))
      toHolders s base (fun t j => sendOpen t base att j (gatherPlaces rs))

/-- A launch of a bucket in step s - 1 opens the snapshot of base s when a GATHER region names it; its SENT digest is the region's CRC
(R267, R270). -/
def shadowLaunch (s : State) (b sent : Nat) : State :=
  if !(shadowEn s && (regionTable s).any (fun r => r.gather && r.bucket = b)) then s
  else
    let s := openSnap s (stepNo s + 1) (stepAtt s)
    let mine (x : Snap) : List (Nat × Nat) := (x.regions.zipIdx.filter (fun p => p.1.gather && p.1.bucket = b)).map (fun p => (p.2, sent))
    s.modShadow (fun h => { h with snaps := h.snaps.map (fun x =>
      if x.base = stepNo s + 1 then { x with sums := (mine x).foldl (fun l p => putRaw l p.1 p.2) x.sums } else x) })

/-- Send bytes of a slot to the holder of a copy as SHADOW_DATA of at most 4 KiB. -/
def sendSlot (s : State) (base copy region off : Nat) (bs : List Byte) : State × Bool :=
  (pieces 4096 bs).zipIdx.foldl (fun (acc : State × Bool) p =>
    if !acc.2 then acc
    else submit acc.1 none { vc := 4, src := 0, dst := holderOf acc.1 copy, tag := 0, reqId := 0, op := 0x28, flags := 0, code := 0
                             arg := (Config.wireArg 0x28 0 [copy, base, region, off + 4096 * p.2]).toNat, data := p.1 }
                           (.shadow base copy region)) (s, true)

/-- The TRICKLE regions go to a holder in table order (R268). -/
def trickleTo (s : State) (x : Snap) (j : Nat) : State × Bool :=
  ((x.regions.zip (regionOffs x.regions 0x26000)).zipIdx).foldl (fun (acc : State × Bool) p =>
    let r := p.1.1
    if !acc.2 || r.gather then acc
    else sendSlot acc.1 x.base j p.2 p.1.2 (acc.1.bytes (regionAddr r x.base) r.len)) (s, true)

/-- CRCs of a snapshot's regions, with those of the TRICKLE regions as they are sent (R270). -/
def trickleSums (s : State) (x : Snap) : List (Nat × Nat) :=
  (x.regions.zipIdx.filter (fun p => !p.1.gather)).foldl (fun l p =>
    putRaw l p.2 (crc64 (s.bytes (regionAddr p.1 x.base) p.1.len))) x.sums

/-- TRICKLE_START: step s - 1 is FINAL and CORES cores have issued STEP_BEGIN for step s (R268). -/
def execTrickleStart (s : State) : Res :=
  done s (
    let base := stepNo s
    let begun := ((s.cinch.begins.filter (fun p => p.1 = base)).map (·.2)).eraseDups.length
    if !shadowEn s || stepState s ≠ 1 || s.cinch.lastFinal.map (fun p => p.1 + 1) ≠ some base || begun < shCores s then s
    else
      let s := openSnap s base ((s.cinch.lastFinal.map (·.2)).getD 0)
      match snapOf s base with
      | none => s
      | some x =>
        if x.started then s
        else
          let s := s.modShadow (fun h => { h with snaps := h.snaps.map (fun y =>
            if y.base = base then { y with started := true, sums := trickleSums s y } else y) })
          toHolders s base (fun t j => trickleTo t x j))

/-- Regions of a snapshot that are not wholly sent. -/
def unsentRegions (s : State) (x : Snap) : Nat :=
  if !x.started then (x.regions.filter (fun r => !r.gather)).length
  else
    ((s.wen.outs.filterMap (fun o =>
      match o.org with
      | .shadow b _ r =>
        if b = x.base && r < 120 && (look [] (s.wport o.port).txq 4).any (fun f => f.reqId = o.req.reqId && f.src = ownPkg s)
        then some r else none
      | _ => none)).eraseDups).length

/-- The loss record: LOSS_VALID and LOSS (R269). -/
def lossRec (s : State) (step : Nat) : Bool × Nat :=
  (lossAddr s ≠ 0 && s.num (lossAddr s) 8 = step, s.num (lossAddr s + 8) 4)

/-- Slot bytes 0x1000 to 0x25FFF: cursors, step records and digests (Table 10.4). -/
def stagedBytes (s : State) (base : Nat) : List Byte :=
  (upto 16).flatMap (fun n => leBytes 8 (s.rd (rCurStart (base % 2) n)).toNat) ++ leBytes 3968 0
    ++ (upto 256).flatMap (fun n => s.bytes (stepRec s n base) 512) ++ s.bytes (digAt s base 0) 16384

/-- The trailer of a snapshot, apart from its copy (R270). -/
def mkTrailer (s : State) (x : Snap) : SnapTrailer :=
  { fail := false, copy := 0, base := x.base, attPrev := x.attPrev, attBase := stepAtt s
    lossValid := (lossRec s x.base).1, loss := (lossRec s x.base).2, mapId := (s.rd (rShadow 0x28)).toNat, tsOpen := x.ts
    digCount := s.num (digHdr s x.base + 10) 2
    rngCores := ((upto 256).filter (fun n => s.num (stepRec s n x.base) 8 = x.base)).length
    regions := ((x.regions.zip (regionOffs x.regions 0x26000)).zipIdx).map (fun p =>
      (p.1.2, p.1.1.len, p.1.1.kind, b2n p.1.1.gather, look 0 x.sums p.2)) }

/-- Step s becomes FINAL: the snapshot of base s is late, or its staging copy starts, and that of base s + 1 learns the attempt (R269, R271,
Table 10.5). The copied state is what stands at FINAL (log 42). -/
def shadowFinal (s : State) : State :=
  let s := s.modShadow (fun h => { h with snaps := h.snaps.map (fun y =>
    if y.base = stepNo s + 1 then { y with attPrev := stepAtt s } else y) })
  match snapOf s (stepNo s) with
  | none => s
  | some x =>
    let n := unsentRegions s x
    if n ≠ 0 then failSnap (s.raise .snapLate 0 (packBits [(x.base, 0, 48), (n, 48, 8)])) x.base
    else
      let d := (stagedBytes s x.base, mkTrailer s x)
      s.modShadow (fun h => { h with
        staging := true, snaps := h.snaps.map (fun y => if y.base = x.base then { y with staged := some d } else y) })

/-- The staged records and the trailer go to the holder of a copy (R269, R270). -/
def stagedTo (s : State) (base : Nat) (bs : List Byte) (t : SnapTrailer) (j : Nat) : State × Bool :=
  let a := sendSlot s base j 254 0x1000 bs
  let c := sendCtl a.1 (holderOf a.1 j) 0 ([j, base, 0, t.loss, t.mapId] ++ t.regions.map (·.2.2.2.2)) (.shadow base j 254)
  (c.1, a.2 && c.2)

/-- A snapshot whose copy has ended goes to its holders, once. -/
def stagedOut (s : State) (x : Snap) : State :=
  match x.staged with
  | none => s
  | some (bs, t) => if !x.acks.isEmpty then s else toHolders s x.base (fun u j => stagedTo u x.base bs t j)

/-- SHADOW_STAGING_DONE: the copy ends, held STEP_BEGINs may proceed, and the records and the trailer go to each holder (R269,
R270). -/
def execShadowStagingDone (s : State) : Res :=
  done s (if !s.shadow.staging then s
    else
      let s := s.modShadow (fun h => { h with staging := false })
      s.shadow.snaps.foldl stagedOut s)

/-- SNAP_ACK: with every copy's acknowledgement LAST_BASE is set (R270). -/
def execSnapAck (i copy base : Nat) (s : State) : Res :=
  done s (match inTake s i 0x29 with
    | none => s
    | some (p, r, s) =>
      let s := answerOn s p r 0 0 []
      match snapOf s base with
      | none => s
      | some x =>
        let acks := if x.acks.contains copy then x.acks else x.acks ++ [copy]
        if acks.length < copies s then
          s.modShadow (fun h => { h with snaps := h.snaps.map (fun y => if y.base = base then { y with acks := acks } else y) })
        else
          let s := s.modShadow (fun h => { h with snaps := h.snaps.filter (fun y => y.base ≠ base) })
          shadowStatus ((s.setF (rShadow 0x38) 16 48 base).addCtr (rShadow 0x80) 1))

/-! ## The holder (R265-R267, R270, R273-R275) -/

def slotV (copy k : Nat) : Nat := 3 * (copy - 1) + k
def slotSt (s : State) (v : Nat) : Nat := s.f (rShadow 0x48) (2 * v) 2
def setSlotSt (s : State) (v x : Nat) : State := s.setF (rShadow 0x48) (2 * v) 2 x

/-- Address of slot k for copy j (R265). -/
def slotAddr (s : State) (copy k : Nat) : Nat := (s.rd (rShadow 0x10)).toNat + ((copy - 1) * slotCount s + k) * shSlotSize s

/-- The newest COMPLETE slot of a package and copy. -/
def newestSlot (s : State) (src copy : Nat) : Option HSlot :=
  (s.shadow.slots.filter (fun h => h.src = src && h.copy = copy && slotSt s h.v = 2)).foldl (fun b h =>
    match b with
    | none => some h
    | some x => if x.base < h.base then some h else b) none

/-- The FILLING slot of a snapshot. -/
def fillingSlot (s : State) (src copy base : Nat) : Option HSlot :=
  s.shadow.slots.find? (fun h => h.src = src && h.copy = copy && h.base = base && slotSt s h.v = 1)

/-- A slot is taken for a snapshot (R266). -/
def takeSlot (s : State) (src copy base att : Nat) : Option (State × HSlot) :=
  match fillingSlot s src copy base with
  | some h => some (s, h)
  | none =>
    let newest := (newestSlot s src copy).map (·.v)
    match (upto (slotCount s)).find? (fun k =>
        let v := slotV copy k
        some v ≠ newest && slotSt s v ≠ 1 && slotSt s v ≠ 3) with
    | none => none
    | some k =>
      let h : HSlot := ⟨slotV copy k, src, copy, base, att, [], [], []⟩
      let s := setSlotSt s h.v 1
      some (s.modShadow (fun x => { x with slots := x.slots.filter (fun y => y.v ≠ h.v) ++ [h] }), h)

def hslotAddr (s : State) (h : HSlot) : Nat := slotAddr s h.copy (h.v % 3)

/-- Whether this package holds copy j of a package. -/
def holdsFor (s : State) (src copy : Nat) : Bool := shadowEn s && 1 ≤ copy && copy ≤ copies s && heldFor s copy = src

def setSlot (s : State) (h : HSlot) : State := s.modShadow (fun x => { x with slots := x.slots.map (fun y => if y.v = h.v then h else y) })

/-- The holder writes bytes of a slot as whole 64-byte lines with the STREAM hint; parts of a line wait until it is whole (R274). -/
def slotWrite (s : State) (h : HSlot) (off : Nat) (bs : List Byte) : State × HSlot :=
  if off % 64 = 0 && bs.length % 64 = 0 then (hbmWrite s hintStream (hslotAddr s h + off) bs, h)
  else
    let old := h.buf.filter (fun c => !(off ≤ c.1 && c.1 < off + bs.length))
    let buf := old ++ bs.zipIdx.map (fun p => (off + p.2, p.1))
    (fromLen (off / 64) ((off + bs.length + 63) / 64 - off / 64)).foldl (fun (acc : State × HSlot) l =>
      let part := acc.2.buf.filter (fun c => c.1 / 64 = l)
      if part.length < 64 then acc
      else
        let line := (fromLen (64 * l) 64).map (fun x => look 0#8 part x)
        (hbmWrite acc.1 hintStream (hslotAddr s h + 64 * l) line, { acc.2 with buf := acc.2.buf.filter (fun c => c.1 / 64 ≠ l) }))
      (s, { h with buf := buf })

/-- Bytes `lo` on of a GATHER region at place `o` of a slot arrive. -/
def gatherInto (s : State) (h : HSlot) (o lo : Nat) (bs : List Byte) : State × HSlot :=
  let r := slotWrite s h (o + lo) bs
  (r.1, { r.2 with got := r.2.got ++ [(o, lo, bs.length)] })

/-- Bytes of another package's segment that pass during an ALL_GATHER of step s - 1 go into the slot that fills for its snapshot of base s
(R267). -/
def gatherCopy (s : State) (b j att lo : Nat) (bs : List Byte) : State :=
  let src := grPkg s (bkGroup s b) j
  (s.shadow.slots.filter (fun h => h.src = src && h.base = stepNo s + 1 && slotSt s h.v = 1)).foldl (fun s h =>
    (h.places.filter (fun p => p.1 = b)).foldl (fun s p =>
      let h := ((s.shadow.slots.find? (fun y => y.v = h.v)).getD h)
      let r := gatherInto s { h with att := att } p.2 (4 * lo - (cinchSeg s b j).1) bs
      setSlot r.1 r.2) s) s

/-- What has passed of a source's segments before its snapshot was known here is taken from the bucket's result (R267). -/
def gatherPassed (s : State) (h : HSlot) : State × HSlot :=
  if h.base ≠ stepNo s + 1 then (s, h)
  else h.places.foldl (fun (acc : State × HSlot) p =>
    let b := p.1
    let g := bkGroup s b
    match (upto (grR s g)).find? (fun j => grPkg s g j = h.src) with
    | none => acc
    | some j =>
      let seg := cinchSeg s b j
      let runs : List (Nat × Nat) :=
        if !(b < bktCount s) || bkStep s b ≠ stepNo s || bkAtt s b ≠ stepAtt s || bkOp s b ≠ 2 then []
        else if bkState s b = 3 then [seg]
        else match s.cinch.act.find? (fun a => a.b = b) with
          | none => []
          | some a => (a.fin.map (fun q => (4 * q.1, 4 * (q.1 + q.2)))).filter (fun q => seg.1 ≤ q.1 && q.2 ≤ seg.2)
      runs.foldl (fun (acc : State × HSlot) q =>
        gatherInto acc.1 { acc.2 with att := stepAtt s } p.2 (q.1 - seg.1) (s.bytes (bkAddr s b + q.1) (q.2 - q.1))) acc) (s, h)

/-- An abort of step s - 1 discards the GATHER copies of its attempt (R267, R272). -/
def shadowAborted (s : State) : State :=
  s.modShadow (fun x => { x with slots := x.slots.map (fun h => if h.base = stepNo s + 1 then { h with got := [], buf := [] } else h) })

/-- SHADOW_DATA: the holder writes the data into the slot; a request without data opens the snapshot, whose GATHER regions lie at `places`
(R266, R267, R274). Without a slot it answers BUSY (log 45). -/
def execShadowData (i copy base att off : Nat) (places : List (Nat × Nat)) (s : State) : Res :=
  done s (match inTake s i 0x28 with
    | none => s
    | some (p, r, s) =>
      if !holdsFor s r.src copy then answerOn s p r rcDenied 0 []
      else
        match takeSlot s r.src copy base att with
        | none => answerOn s p r rcBusy 0 []
        | some (s, h) =>
          if r.data.isEmpty then
            let t := gatherPassed s { h with places := places }
            answerOn (setSlot t.1 t.2) p r 0 0 []
          else if shSlotSize s < off + r.data.length then answerOn s p r rcDenied 0 []
          else
            let t := slotWrite s h off r.data
            answerOn (setSlot t.1 t.2) p r (if t.1.memBad then rcPoisoned else 0) 0 [])

/-- First line of a header (Table 10.5). -/
def headerLine (t : SnapTrailer) (src tsDone crc : Nat) (locked : Bool) : List Byte :=
  leBytes 4 0x57444853 ++ leBytes 2 1 ++ leBytes 2 src ++ leBytes 8 t.base ++ leBytes 1 t.attPrev ++ leBytes 1 t.attBase
    ++ leBytes 1 (1 + 2 * b2n t.lossValid + 4 * b2n locked) ++ leBytes 1 t.copy ++ leBytes 4 t.loss ++ leBytes 8 t.mapId
    ++ leBytes 8 t.tsOpen ++ leBytes 8 tsDone ++ leBytes 2 t.regions.length ++ leBytes 2 t.digCount ++ leBytes 2 t.rngCores
    ++ leBytes 2 0 ++ leBytes 8 crc

/-- A directory entry (Table 10.4). -/
def dirEntry (r : Nat × Nat × Nat × Nat × Nat) : List Byte :=
  leBytes 8 r.1 ++ leBytes 8 r.2.1 ++ leBytes 1 r.2.2.1 ++ leBytes 1 r.2.2.2.1 ++ leBytes 6 0 ++ leBytes 8 r.2.2.2.2

/-- A slot returns to FREE. -/
def freeSlot (s : State) (h : HSlot) : State :=
  (setSlotSt s h.v 0).modShadow (fun x => { x with slots := x.slots.filter (fun y => y.v ≠ h.v) })

/-- When Cinch enters STALLED every snapshot that is FILLING fails, and the slots that fill here are FREE (R271, R272). -/
def shadowStalled (s : State) : State :=
  let s := s.shadow.snaps.foldl (fun s x => failSnap s x.base) s
  (s.shadow.slots.filter (fun h => slotSt s h.v = 1)).foldl freeSlot s

/-- Whether a region of a slot fails the holder's check: its CRC differs, or a GATHER region did not pass whole in the attempt that committed
(R267, R270). -/
def regionBadAt (s : State) (h : HSlot) (t : SnapTrailer) (p : Nat × Nat × Nat × Nat × Nat) : Bool :=
  crc64 (s.bytes (hslotAddr s h + p.1) p.2.1) ≠ p.2.2.2.2
    || (p.2.2.2.1 = 1 && !(h.att = t.attPrev && sumN ((h.got.filter (fun g => g.1 = p.1)).map (fun g => g.2.2)) = p.2.1))

/-- A slot whose CRCs are right is written out: directory, header, and its first line last (R270, R274). -/
def slotDone (s : State) (h : HSlot) (t : SnapTrailer) (src : Nat) : State :=
  let a := hslotAddr s h
  let dir := t.regions.flatMap dirEntry
  let s := hbmWrite s hintStream (a + 0x100) (dir ++ leBytes (3840 - dir.length) 0)
  let s := hbmWrite s hintStream (a + 64) (leBytes 192 0)
  let s := hbmWrite s hintStream a (headerLine t src s.now (crc64 (s.bytes (a + 0x100) (0x26000 - 0x100))) false)
  setSlotSt s h.v 2

/-- SHADOW_TRAILER: the holder checks the CRCs of what it wrote, writes directory and header, COMPLETE last, and returns SNAP_ACK; or
the copy fails (R270, R271, R274). -/
def execShadowTrailer (i : Nat) (t : SnapTrailer) (s : State) : Res :=
  done s (match inTake s i 0x29 with
    | none => s
    | some (p, r, s) =>
      match fillingSlot s r.src t.copy t.base with
      | none => answerOn s p r rcBusy 0 []
      | some h =>
        if t.fail then answerOn (freeSlot s h) p r 0 0 []
        else
          match findIdx1 (fun p => regionBadAt s h t p) t.regions with
          | some (k, _) =>
            let s := s.raise .holdCrc 0 (packBits [(t.base, 0, 48), (r.src, 48, 12), (k, 60, 4)])
            answerOn (freeSlot s h) p r rcPoisoned 0 []
          | none =>
            (sendCtl (answerOn (slotDone s h t r.src) p r 0 0 []) r.src 1 [t.copy, t.base] .snapAck).1)

/-- SHADOW_CTL_READ: the holder serves bytes of a slot for a restore (R277). -/
def execShadowCtlRead (i copy slot off len : Nat) (s : State) : Res :=
  done s (match inTake s i 0x29 with
    | none => s
    | some (p, r, s) =>
      if !holdsFor s r.src copy || slotCount s ≤ slot || shSlotSize s < off + len then answerOn s p r rcDenied 0 []
      else
        let a := slotAddr s copy slot + off
        let s1 := hbmTouch s hintNormal a len
        if poisoned s a len then answerOn s1 p r rcPoisoned 0 [] else answerOn s1 p r 0 0 (s.bytes a len))

/-! ## Commands (R275, R277, R279-R281) -/

/-- LOCK and UNLOCK rewrite the header's first line (R274, R275); answers the status. -/
def lockSlot (s : State) (src copy slot : Nat) (lock : Bool) : State × Nat :=
  let v := slotV copy slot
  let held := s.shadow.slots.any (fun h => h.v = v && h.src = src && h.copy = copy)
  let need := if lock then 2 else 3
  if copy = 0 || 2 < copy || slotCount s ≤ slot || !held || slotSt s v ≠ need then (s, stShadowNoSlot)
  else
    let a := slotAddr s copy slot
    let f := s.num (a + 18) 1
    let line := (s.bytes a 64).take 18 ++ leBytes 1 (f % 4 + 4 * b2n lock) ++ (s.bytes a 64).drop 19
    (setSlotSt (hbmWrite s hintStream a line) v (if lock then 3 else 2), 0)

/-- Whether any op queue of the CORES cores is enabled (R277). -/
def anyQueueOn (s : State) : Bool :=
  (upto (shCores s)).any (fun n => (upto 4).any (fun q => qEn s (slotOf s n) q))

/-- Field of a slot's bytes. -/
def snF (bs : List Byte) (o n : Nat) : Nat := leNat ((bs.drop o).take n)

/-- Status of a RESTORE's checks of a slot (R277, steps 2 and 3). -/
def restoreCheck (s : State) (bs : List Byte) : Nat :=
  let rs := regionTable s
  let dirOk := snF bs 48 2 = rs.length && (rs.zipIdx).all (fun p =>
    let d := 0x100 + 32 * p.2
    snF bs (d + 8) 8 = p.1.len && snF bs (d + 16) 1 = p.1.kind && snF bs (d + 17) 1 = b2n p.1.gather)
  firstSt [
    chk (snF bs 0 4 = 0x57444853 && snF bs 18 1 % 2 = 1 && snF bs 56 8 = crc64 ((bs.drop 0x100).take (0x26000 - 0x100))
      && snF bs 6 2 % 4096 = ownPkg s) stShadowCrc,
    chk dirOk stShadowMismatch]

/-- Streams of a saved step record go into the core's registers (R277, step 6). -/
def restoreStreams (s : State) (bs : List Byte) (base : Nat) : State :=
  (upto 256).foldl (fun s n =>
    let o := 0x2000 + 0x200 * n
    if snF bs o 8 ≠ base then s
    else (upto 16).foldl (fun s k =>
      let a := o + 64 + 24 * k
      ((s.wr (rRngKey (slotOf s n) k) (BitVec.ofNat 64 (snF bs a 8))).wr (rRngKey (slotOf s n) k + 8)
        (BitVec.ofNat 64 (snF bs (a + 8) 8))).wr (rRngKey (slotOf s n) k + 16) (BitVec.ofNat 64 (snF bs (a + 16) 8))) s) s

/-- The last steps of a RESTORE: cursors, streams, and verification is armed (R277, steps 5 to 7). -/
def restoreEnd (s : State) (bs : List Byte) : State :=
  let base := snF bs 8 8
  let s := (upto 16).foldl (fun s n => s.wr (rCursor n) (BitVec.ofNat 64 (snF bs (0x1000 + 8 * n) 8))) s
  let s := (restoreStreams s bs base).modShadow (fun h => { h with verify := some (bs.take 0x26000) })
  s.wr (rShadow 0x40) (BitVec.ofNat 64 (packBits [(1, 0, 1), (base, 16, 48)]))

def setRestore (s : State) (j : Restore) : State :=
  s.modShadow (fun h => { h with rests := h.rests.map (fun x => if x.cmd = j.cmd then j else x) })

/-- A RESTORE is over with a status. -/
def restoreOver (s : State) (j : Restore) (st : Nat) : State := setRestore s { j with st := some st }

/-- The next read of a slot is sent to its holder: 4,096 bytes on VC4 (R277; log 45). -/
def restoreRead (s : State) (j : Restore) : State :=
  let off := if j.head.length < 0x26000 then j.head.length else snF j.head (0x100 + 32 * j.region) 8 + j.taken
  let r := sendCtl (setRestore s j) j.holder 2 [j.copy, j.slot, off, 4096] (.restore j.cmd)
  if r.2 then r.1 else restoreOver r.1 j stShadowUnreachable

/-- The next thing a RESTORE does: it reads on, checks header and directory once they are there, or ends (R277). -/
def restoreNext (s : State) (j : Restore) : State :=
  if j.head.length < 0x26000 then restoreRead s j
  else
    let st := if j.region = 0 && j.taken = 0 then restoreCheck s j.head else 0
    if st ≠ 0 then restoreOver s j st
    else if j.region < j.regions.length then restoreRead s j
    else restoreOver (restoreEnd s j.head) j 0

/-- Bytes of a region arrive and are written to its ADDR; with the last of them its CRC is checked (R277, step 4). -/
def restoreRegion (s : State) (j : Restore) (r : SRegion) (bs : List Byte) : State :=
  let s := hbmWrite s 0 (regionAddr r (snF j.head 8 8) + j.taken) bs
  let s := { s with host := { s.host with cmds := s.host.cmds.map (fun c => if c.id = j.cmd then { c with hbm := c.hbm + bs.length } else c) } }
  let crc := bs.foldl (fun c b => crc64Byte c b.toNat) j.crc
  let n := j.taken + bs.length
  if n < r.len then restoreNext s { j with taken := n, crc := crc }
  else if crc ≠ snF j.head (0x100 + 32 * j.region + 24) 8 then restoreOver s j stShadowCrc
  else restoreNext s { j with region := j.region + 1, taken := 0, crc := 0 }

/-- The holder's answer to a read of a RESTORE. One that brings no bytes counts as a failure of the header or of a CRC (log 45). -/
def restoreGot (s : State) (cmd code : Nat) (bs : List Byte) : State :=
  match s.shadow.rests.find? (fun j => j.cmd = cmd && j.st.isNone) with
  | none => s
  | some j =>
    if !s.host.cmds.any (fun c => c.id = cmd) then s.modShadow (fun h => { h with rests := h.rests.filter (fun x => x.cmd ≠ cmd) })
    else if code ≠ 0 || bs.length ≠ 4096 then restoreOver s j stShadowCrc
    else if j.head.length < 0x26000 then restoreNext s { j with head := j.head ++ bs }
    else match j.regions[j.region]? with
      | none => s
      | some r => restoreRegion s j r bs

/-- The holder of a RESTORE is unreachable. -/
def restoreLost (s : State) (cmd : Nat) : State :=
  match s.shadow.rests.find? (fun j => j.cmd = cmd && j.st.isNone) with
  | none => s
  | some j => restoreOver s j stShadowUnreachable

/-- A RESTORE begins (R277, step 1). -/
def restoreBegin (s : State) (cmd holder copy slot : Nat) : State :=
  let j : Restore :=
    { cmd := cmd, holder := holder, copy := copy, slot := slot, head := [], regions := regionTable s, region := 0, taken := 0, crc := 0
      st := none }
  let s := s.modShadow (fun h => { h with rests := h.rests.filter (fun x => x.cmd ≠ cmd) ++ [j] })
  if cinchEn s || anyQueueOn s then restoreOver s j stShadowBusy else restoreNext s j

/-- The status of a RESTORE that is over. -/
def restoreStatus (s : State) (cmd : Nat) : Option Nat := (s.shadow.rests.find? (fun j => j.cmd = cmd)).bind (fun j => j.st)

/-- Whether two losses agree (R279). -/
def lossOk (exact : Bool) (tol old new : Nat) : Bool :=
  let a := dec32 old
  let b := dec32 new
  if a.isNan || b.isNan then false
  else if exact then old = new
  else if a.isInf || b.isInf then old = new
  else ((b.toEx.sub a.toEx).abs).le ((a.toEx.abs).mul (Ex.pow2 (-(tol : Int))))

/-- Shadow's comparison at FINAL of the armed step; answers whether FINAL_EV is signalled now (R279, R280). -/
def shadowVerify (s : State) : State × Bool :=
  match s.shadow.verify with
  | none => (s, true)
  | some bs =>
    let t := stepNo s
    if !s.fb (rShadow 0x40) 0 || snF bs 8 8 ≠ t then (s, true)
    else
      let exact := snF bs 32 8 = (s.rd (rShadow 0x28)).toNat
      let (lv, loss) := lossRec s t
      let lossBad := bitN (snF bs 18 1) 1 && lv && !lossOk exact (s.f (rShadow 0x30) 0 5) (snF bs 20 4) loss
      let diff := if exact then
          (upto (snF bs 50 2)).find? (fun b => snF bs (0x22000 + 16 * b) 16 ≠ s.num (digAt s t b) 16)
        else none
      let ok := !lossBad && diff.isNone
      let v := packBits [(0, 0, 1), (1, 1, 1), (b2n ok, 2, 1), (b2n exact, 3, 1), (b2n lossBad, 4, 1), (b2n diff.isSome, 5, 1), (t, 16, 48)]
      let s := (s.wr (rShadow 0x40) (BitVec.ofNat 64 v)).modShadow (fun h => { h with verify := none, heldEv := !ok })
      if ok then (s, true)
      else (s.raise .verifyFail 0 (packBits [(t, 0, 48), (if lossBad then 1 else 2, 48, 2), (diff.getD 0, 50, 10)]), false)

end Sys2Proof.Machine
end

