-- ==== Sys2Proof/Machine/Cinch.lean ====
section
/-! DEFINITION. Gradient exchange with Cinch: BUCKET_PUSH, launches, the ring reduction and the step boundary (spec/09 R244-R261). -/

namespace Sys2Proof.Machine

/-! ## Notices, aborts and the end of a step (R254, R255, R258) -/

/-- Send a STEP_DONE (0), STEP_FINAL (1) or STEP_ABORT (2) notice to every peer on VC3 (R254). -/
def notify (s : State) (kind : Nat) (words : List Nat) : State :=
  (peers s).foldl (fun s p =>
    (submit s none { vc := 3, src := 0, dst := p, tag := 0, reqId := 0, op := 0x21, flags := 0, code := 0
                     arg := (Config.wireArg 0x21 kind words).toNat, data := [] } .cinch).1) s

/-- Cause codes (Table 9.5). -/
def cDeadline : Nat := 1
def cRemote : Nat := 2
def cPeerLost : Nat := 3
def cDoneTimeout : Nat := 4
def cRepeatLimit : Nat := 5

/-- The package enters STALLED (R254, R255, R272). -/
def stall (s : State) (cause : Nat) : State :=
  let s := (setStepState s 5).raise .stepStalled 0 (packBits [(stepNo s, 0, 44), (cause, 44, 4)])
  shadowStalled s

/-- The first bucket that is not COMPLETE for the current attempt. -/
def firstMissing (s : State) : Nat :=
  ((upto (bktCount s)).find? (fun b => !(bkState s b = 3 && bkStep s b = stepNo s && bkAtt s b = stepAtt s))).getD 0

/-- Every bucket returns to FILLING for the older step in attempt `att`; the STAGE of every bucket, and ADDR of ACTIVE ones, become undefined
(R255). An entry that breaks Table 9.1 names no region of Cinch. -/
def dropSums (s : State) (att : Nat) : State :=
  (upto (bktCount s)).foldl (fun s b =>
    let s := if entryOk s b then freeRegion s (bkStage s b) (bkLen s b) else s
    let s := if s.cinch.act.any (fun a => a.b = b) then freeRegion s (bkAddr s b) (bkLen s b) else s
    writeBkt s b 0 att 0 0 (stepNo s)) s

/-- The package aborts the older step's attempt (R255). -/
def abortStep (s : State) (cause : Nat) (stopIn : Bool) : State :=
  let t := stepNo s
  let a := stepAtt s
  let stop := cause = cPeerLost || stopIn || repeatLimit s < a + 1
  let miss := firstMissing s
  let s := s.setF (rCinch 0x38) 16 4 cause
  let s := notify s 2 [t, a, b2n stop]
  let s := shadowAborted s
  let s := (dropSums s (if stop then a else a + 1)).modCinch (fun c => { c with
    next := false, ready := [], act := [], early := [], dones := [], launched := false, digs := []
    begins := c.begins.filter (fun p => p.1 ≤ t) })
  let s := (upto 16).foldl (fun s n => s.wr (rCursor n) (s.rd (rCurStart (t % 2) n))) s
  let s := s.raise .stepAbort 0 (packBits [(t, 0, 44), (a, 44, 8), (cause, 52, 4), (miss, 56, 8)])
  if stop then stall s (if cause = cPeerLost then cPeerLost else if stopIn then cRemote else cRepeatLimit)
  else
    let s := (setStepState s 1).setF (rCinch 0x38) 8 8 (a + 1)
    let s := (s.addCtr (rCinch 0x200) 1).modCinch (fun c => { c with rep := true, rewound := [] })
    let ds := doneCores s
    let s := ds.foldl (fun s n => addEventOf s n (repeatEv s)) s
    ((ds.map (fun n => clusterOf s (slotOf s n))).eraseDups).foldl (fun s c => s.emit (.repeatNotice c)) s

/-- A peer is lost: the attempt is abandoned while the step is OPEN (R254, R297). -/
def peerLost (s : State) : State := if cinchEn s && stepState s = 1 then abortStep s cPeerLost false else s

/-- FINAL_EV of every DONE_CORE (R254). -/
def signalFinal (s : State) : State := (doneCores s).foldl (fun s n => addEventOf s n (finalEv s)) s

/-- Log entry of the step (R258): VALID goes to 0 first and to 1 with the header. -/
def digestLog (s : State) : State :=
  let t := stepNo s
  let s := hbmWrite s 0 (digHdr s t + 9) (leBytes 1 0)
  let s := s.cinch.digs.foldl (fun s d => hbmWrite s 0 (digAt s t d.1) (leBytes 8 d.2.1 ++ leBytes 8 d.2.2)) s
  hbmWrite s 0 (digHdr s t) (leBytes 8 t ++ leBytes 1 (stepAtt s) ++ leBytes 1 1 ++ leBytes 2 (bktCount s) ++ leBytes 4 0
    ++ leBytes 8 s.now ++ leBytes 40 0)

/-- The older step becomes FINAL (R251, R252, R254, R258, R269, R280). -/
def becomeFinal (s : State) : State :=
  let t := stepNo s
  let a := stepAtt s
  let s := notify (setStepState s 3) 1 [t, a]
  let s := digestLog s
  let (s, go) := shadowVerify s
  let s := if go then signalFinal s else s
  let s := shadowFinal s
  let s := (upto (bktCount s)).foldl (fun s b =>
    if bkState s b = 3 && bkStep s b = t then writeBkt s b 0 0 0 0 (t + 1) else s) s
  let nx := s.cinch.next
  let s := s.modCinch (fun c => { c with
    next := false, launched := false, rep := false, rewound := [], digs := [], lastFinal := some (t, a)
    dones := c.dones.filter (fun d => t < d.2.1), begins := c.begins.filter (fun p => t < p.1) })
  if nx then s.wr (rCinch 0x38) (BitVec.ofNat 64 (packBits [(1, 0, 3), (s.f (rCinch 0x38) 16 4, 16, 4), (t + 1, 20, 44)])) else s

/-- FINAL once every peer's STEP_DONE is held (R254). -/
def tryFinal (s : State) : State :=
  if stepState s = 2 && (peers s).all (fun p => s.cinch.dones.contains (p, stepNo s, stepAtt s)) then becomeFinal s else s

/-- Whether every bucket is COMPLETE for the current attempt. -/
def allComplete (s : State) : Bool :=
  (upto (bktCount s)).all (fun b => bkState s b = 3 && bkStep s b = stepNo s && bkAtt s b = stepAtt s)

/-! ## BUCKET_PUSH (R245, R246, R252, R253, R256) -/

def bpBucket (t : Nat) : Nat := tF t 16 0 10
def bpFunc (t : Nat) : Nat := tF t 16 10 2
def bpStep (t : Nat) : Nat := tF t 24 0 64

/-- What an attempt of a waiting operation comes to. -/
inductive Try where
  | wait
  | fin (s : State) (st : Nat)

def formPush (t : Nat) : Form := Form.plain (bm 16 0 12 + bm 24 0 64) (chk (bpFunc t ≠ 3) stBadField)

def usePush (s : State) (_ _ t : Nat) (_ : Op) : Use :=
  Use.bad (chk (bpFunc t ≠ 0 || bpBucket t < bktCount s) stBadField)

/-- BKT_ENTRY_BAD (R244). -/
def raiseEntry (s : State) (b : Nat) : State := s.raise .bktEntryBad 0 (packBits [(b, 0, 10), (bkGroup s b, 10, 8)])

/-- One attempt of a PUSH (R246, R253, R256). -/
def tryPush (s : State) (sl : Nat) (o : Op) : Try :=
  let t := bpStep o.tod
  let b := bpBucket o.tod
  let att := attOf s t
  let mine := bkStep s b = t && bkAtt s b = att
  let first := !mine || bkPushed s b = 0
  if !fenceDone (s.core sl) o then .wait
  else if s.cinch.rep && !s.cinch.rewound.contains (coreNum s sl) then .fin s stStepRepeat
  else if !cinchEn s || !stepOpen s t then .fin s stStepOrder
  else if !first && bkParts s b ≤ bkPushed s b then .fin s stBktState
  else if bkState s b ≠ 0 || (bkStep s b < t && bkStep s b = stepNo s && stepState s ≠ 3) then .wait
  else if first && !entryOk s b then .fin (raiseEntry s b) stBadField
  else
    let n := (if first then 0 else bkPushed s b) + 1
    let full := n = bkParts s b
    let s := writeBkt s b (b2n full) att n 0 t
    .fin (if full then s.modCinch (fun c => { c with ready := c.ready ++ [b] }) else s) 0

/-- Whether earlier-issued operations that name a stream have completed (R252, R256). -/
def streamsQuiet (c : Core) (o : Op) : Bool :=
  (c.ops.takeWhile (fun e => e.tag ≠ o.tag)).all (fun e => !e.live || (e.streams.isEmpty && !e.namesAll))

/-- Step t opens on the package (R252). Before the first step of a job no bucket has a step, and the first fills them all (log 116). -/
def openStep (s : State) (t : Nat) : State :=
  let s := if stepState s = 0 then (upto (bktCount s)).foldl (fun s b => writeBkt s b 0 0 0 0 t) s else s
  let s :=
    if stepState s = 0 || stepState s = 3 then
      s.wr (rCinch 0x38) (BitVec.ofNat 64 (packBits [(1, 0, 3), (s.f (rCinch 0x38) 16 4, 16, 4), (t, 20, 44)]))
    else s.modCinch (fun c => { c with next := true })
  (upto 16).foldl (fun s n => s.wr (rCurStart (t % 2) n) (s.rd (rCursor n))) s

/-- The core's 16 streams go into its step record (R252). -/
def saveStreams (s : State) (sl t : Nat) : State :=
  let a := stepRec s (coreNum s sl) t
  hbmWrite s 0 a (leBytes 8 t ++ leBytes 56 0 ++ (upto 16).flatMap (fun k =>
    leBytes 8 (s.rd (rRngKey sl k)).toNat ++ leBytes 16 (streamCtr s sl k)))

/-- One attempt of a STEP_BEGIN (R252, R269). -/
def tryBegin (s : State) (sl : Nat) (o : Op) : Try :=
  let t := bpStep o.tod
  let st := stepState s
  let newest := if s.cinch.next then stepNo s + 1 else stepNo s
  let rec1 (s : State) : Try :=
    let s := saveStreams s sl t
    .fin (s.modCinch (fun c => { c with begins := c.begins ++ [(t, coreNum s sl)] })) 0
  if !streamsQuiet (s.core sl) o then .wait
  else if !cinchEn s then .fin s stStepOrder
  else if st = 0 then (if s.shadow.staging || frozen s then .wait else rec1 (openStep s t))
  else if t < newest then .fin s stStepOrder
  else if t = newest then (if st = 3 then .fin s stStepOrder else rec1 s)
  else if s.shadow.staging || s.cinch.next || frozen s then .wait
  else if (st = 3 && t ≤ newest + 2) || ((st = 1 || st = 2) && t = newest + 1) then rec1 (openStep s t)
  else .wait

/-- One attempt of a REWIND (R256). -/
def tryRewind (s : State) (sl : Nat) (o : Op) : Try :=
  let t := bpStep o.tod
  let before := (s.core sl).ops.takeWhile (fun e => e.tag ≠ o.tag)
  let a := stepRec s (coreNum s sl) t
  if !streamsQuiet (s.core sl) o || before.any (fun e => e.live && e.opc = 0x3A) then .wait
  else if s.num a 8 ≠ t then .fin s stBadField
  else
    let s := (upto 16).foldl (fun s k =>
      let b := a + 64 + 24 * k
      setStreamCtr (s.wr (rRngKey sl k) (BitVec.ofNat 64 (s.num b 8))) sl k (s.num (b + 8) 16)) s
    .fin (s.modCinch (fun c => { c with rewound := insertNat c.rewound (coreNum s sl) })) 0

/-- One attempt of a BUCKET_PUSH; in STALLED each completes with STEP_STALLED (R256). -/
def tryFunc (s : State) (sl : Nat) (o : Op) : Try :=
  if stepState s = 5 then .fin s stStepStalled
  else match bpFunc o.tod with
  | 0 => tryPush s sl o
  | 1 => tryBegin s sl o
  | _ => tryRewind s sl o

/-- The operation acts at once, or waits and tries again at its completion. -/
def startPush (s : State) (sl : Nat) (o : Op) : State × Op × Nat :=
  match tryFunc s sl o with
  | .wait => (s, { o with stage := OpStage.running }, 0)
  | .fin s st => if st = 0 then (s, o.ready (OpRes.ofStatus 0), 0) else (s, o, st)

def famPush : Family := ⟨formPush, usePush, startPush⟩

/-- BUCKET_PUSH with FUNC = PUSH (FUNC = 3 completes with BAD_FIELD). -/
def execBucketPush (sl q : Nat) (s : State) : Res :=
  done s (runTod s sl q (fun t => isOpc 0x3A t && (bpFunc t = 0 || bpFunc t = 3)) famPush)
/-- BUCKET_PUSH with FUNC = STEP_BEGIN. -/
def execStepBegin (sl q : Nat) (s : State) : Res := done s (runTod s sl q (fun t => isOpc 0x3A t && bpFunc t = 1) famPush)
/-- BUCKET_PUSH with FUNC = REWIND. -/
def execRewind (sl q : Nat) (s : State) : Res := done s (runTod s sl q (fun t => isOpc 0x3A t && bpFunc t = 2) famPush)

/-! ## The ring (R247-R251) -/

def cAct (s : State) (b : Nat) : Option CBucket := s.cinch.act.find? (fun a => a.b = b)

def updAct (s : State) (x : CBucket) : State :=
  s.modCinch (fun c => { c with act := c.act.map (fun a => if a.b = x.b then x else a) })

/-- Send elements from `lo` on to the next rank, on the port of their plane, in requests of at most 1,024 elements (log 43). -/
def sendPart (s : State) (b lo : Nat) (bs : List Byte) : State × Bool :=
  let g := bkGroup s b
  let r := grR s g
  let e := bkElems s b
  let j := segOf e r lo
  let p := planeOf (segLo e r j) (segLo e r (j + 1)) (grPlanes s g) lo
  (pieces 4096 bs).zipIdx.foldl (fun (acc : State × Bool) c =>
    if !acc.2 then acc
    else submit acc.1 (some (grNext s g p))
      { vc := 3, src := 0, dst := grPkg s g ((grMy s g + 1) % r), tag := 0, reqId := 0, op := 0x20, flags := 0, code := 0
        arg := (Config.wireArg 0x20 0 [b, stepNo s, stepAtt s, lo + 1024 * c.2]).toNat, data := c.1 } .cinch) (s, true)

/-- Send a whole segment of this rank, plane by plane. -/
def sendSegment (s : State) (b j : Nat) (bs : List Byte) : State × Bool :=
  let g := bkGroup s b
  let e := bkElems s b
  let lo := segLo e (grR s g) j
  let hi := segLo e (grR s g) (j + 1)
  (upto (grPlanes s g)).foldl (fun (acc : State × Bool) p =>
    let a := planeLo lo hi (grPlanes s g) p
    let z := planeLo lo hi (grPlanes s g) (p + 1)
    if !acc.2 || a = z then acc else sendPart acc.1 b a ((bs.drop (4 * (a - lo))).take (4 * (z - a)))) (s, true)

/-- Elementwise sum: the partial S first, this rank's contribution second (R249). -/
def addPart (sum mine : List Byte) : List Byte :=
  ((pieces 4 sum).zip (pieces 4 mine)).flatMap (fun p => leBytes 4 (enc32 (add32 (dec32 (leNat p.1)) (dec32 (leNat p.2)))))

/-- A part of an ACTIVE bucket is taken: reduced and forwarded, or written as result and passed on (R249, R250). Answers whether the
next rank could be reached. -/
def takePart (s : State) (x : CBucket) (lo : Nat) (bs : List Byte) : State × Bool :=
  let b := x.b
  let g := bkGroup s b
  let r := grR s g
  let my := grMy s g
  let j := segOf (bkElems s b) r lo
  let n := bs.length / 4
  let write (s : State) (x : CBucket) (d : List Byte) : State :=
    hbmWrite (updAct s { x with fin := x.fin ++ [(lo, n)] }) 0 (bkAddr s b + 4 * lo) d
  let pass (s : State) (d : List Byte) : State × Bool := if (my + 1) % r = j then (s, true) else sendPart s b lo d
  if bkOp s b = 2 then
    pass (gatherCopy (write s x bs) b j (stepAtt s) lo bs) bs
  else
    let reduce := my ≠ (j + 1) % r && !x.summed.any (fun q => q.1 ≤ lo && lo < q.1 + q.2)
    if reduce then
      let new := addPart bs ((x.contrib.drop (4 * lo)).take (4 * n))
      let x := { x with summed := x.summed ++ [(lo, n)] }
      if my = j then
        let s := write s x new
        if bkOp s b = 0 then pass s new else (s, true)
      else sendPart (updAct s x) b lo new
    else pass (write s x bs) bs

/-- Whether a bucket may launch now (R247, R256). -/
def canLaunch (s : State) (b : Nat) : Bool :=
  cinchEn s && stepState s = 1 && b < bktCount s && bkState s b = 1 && bkStep s b = stepNo s && s.cinch.act.length < maxActive s
    && (if perLayer s then (s.cinch.ready.find? (fun x => bkStep s x = stepNo s)) = some b
        else (upto (bktCount s)).all (fun x => bkStep s x = stepNo s && bkState s x ≠ 0 && (x < b → bkState s x ≠ 1)))

/-- Parts that landed in STAGE before the launch are taken, in the order they arrived (R249). -/
def takeEarly (s : State) (b : Nat) : List CEarly → State × Bool
  | [] => (s, true)
  | e :: t =>
    match cAct s b with
    | none => (s, true)
    | some x =>
      let (s1, ok) := takePart s x e.lo (s.bytes (bkStage s b + 4 * e.lo) (4 * e.n))
      if ok then takeEarly s1 b t else (s1, false)

/-- Bytes of segment j of a bucket's contribution. -/
def launchSeg (s : State) (b j : Nat) : List Byte :=
  let q := cinchSeg s b j
  ((s.bytes (bkAddr s b) (bkLen s b)).drop q.1).take (q.2 - q.1)

/-- The SENT digest of a bucket: over its contribution (R257). -/
def launchSent (s : State) (b : Nat) : Nat :=
  crc64 (if bkOp s b = 2 then launchSeg s b (grMy s (bkGroup s b)) else s.bytes (bkAddr s b) (bkLen s b))

/-- The bucket becomes ACTIVE with its contribution as it stands; answers the parts of it that came early too (R247, R249, R267). -/
def launchActive (s : State) (b : Nat) : State × List CEarly :=
  let t := shadowLaunch s b (launchSent s b)
  let early := t.cinch.early.filter (fun e => e.b = b && e.step = stepNo t && e.att = stepAtt t)
  ((setBkState t b 2).modCinch (fun c => { c with
    ready := c.ready.filter (fun y => y ≠ b), act := c.act ++ [⟨b, s.bytes (bkAddr s b) (bkLen s b), launchSent s b, [], []⟩]
    launched := true, early := c.early.filter (fun e => !early.contains e) }), early)

/-- The segment a rank sends first: its own in an ALL_GATHER, else that of the rank before it (R249). -/
def firstSeg (s : State) (b : Nat) : Nat :=
  let r := grR s (bkGroup s b)
  let my := grMy s (bkGroup s b)
  if bkOp s b = 2 then my else (my + r - 1) % r

/-- BUCKET_LAUNCH: the contribution is taken as it stands, its SENT digest kept, and this rank's first part sent (R247, R249, R257,
R267). -/
def execBucketLaunch (b : Nat) (s : State) : Res :=
  done s (if !canLaunch s b then s
    else
      let (t, early) := launchActive s b
      if grR s (bkGroup s b) = 1 then t
      else
        let (t, ok) := sendSegment t b (firstSeg s b) (launchSeg s b (firstSeg s b))
        let (t, ok2) := if ok then takeEarly t b early else (t, false)
        if ok2 then t else peerLost t)

/-- A flit or notice of the older step from an attempt above the current one aborts the current one, and each that follows below its own; a
notice with STOP = 1 ends in STALLED (R254, R255). -/
def catchUpN : Nat → State → Nat → Nat → Bool → State
  | 0, s, _, _, _ => s
  | n + 1, s, step, att, stop =>
    if step = stepNo s && stepAtt s < att && (stepState s = 1 || stepState s = 2) then catchUpN n (abortStep s cRemote stop) step att stop
    else s

def catchUp (s : State) (step att : Nat) (stop : Bool) : State := catchUpN 256 s step att stop

/-- Whether a step's attempt is past: below the current one, or of a FINAL step (R254). -/
def stale (s : State) (step att : Nat) : Bool :=
  step < stepNo s || (step = stepNo s && (stepState s = 3 || stepState s = 5 || att < stepAtt s)) || stepState s = 5

/-- CINCH_PART: the part is reduced or taken, lands in STAGE before the launch, or is discarded as late (R249, R254). -/
def execCinchPart (i bucket step att lo : Nat) (s : State) : Res :=
  done s (match inTake s i 0x20 with
    | none => s
    | some (p, r, s) =>
      let s := answerOn s p r 0 0 []
      if !cinchEn s || bktCount s ≤ bucket then s
      else
        let s := catchUp s step att false
        if stale s step att then s.addCtr (rCinch 0x208) (flitsOf r).length
        else
          match (if step = stepNo s && att = stepAtt s then cAct s bucket else none) with
          | some x =>
            let (s, ok) := takePart s x lo r.data
            if ok then s else peerLost s
          | none =>
            let s := hbmWrite s 0 (bkStage s bucket + 4 * lo) r.data
            s.modCinch (fun c => { c with early := c.early ++ [⟨bucket, step, att, lo, r.data.length / 4⟩] }))

/-- Elements of the result that are still to be written when none is: what BUCKET_COMPLETE waits for (R250). -/
def expected (s : State) (b : Nat) : Nat :=
  let g := bkGroup s b
  let e := bkElems s b
  let own := segLo e (grR s g) (grMy s g + 1) - segLo e (grR s g) (grMy s g)
  if grR s g = 1 then 0 else if bkOp s b = 0 then e else if bkOp s b = 1 then own else e - own

/-- NaN elements of a byte string of FP32 values. -/
def nanCount (bs : List Byte) : Nat := ((pieces 4 bs).filter (fun q => (dec32 (leNat q)).isNan)).length

/-- Where the result lies in a bucket: this rank's segment of a REDUCE_SCATTER, else the whole bucket (R250). -/
def resultRun (s : State) (b : Nat) : Nat × Nat :=
  if bkOp s b = 1 && grR s (bkGroup s b) ≠ 1 then cinchSeg s b (grMy s (bkGroup s b)) else (0, bkLen s b)

/-- The rest of a bucket becomes undefined with its result (R250). -/
def freeRest (s : State) (b : Nat) : State :=
  let r := resultRun s b
  if r = (0, bkLen s b) then s else freeRegion (freeRegion s (bkAddr s b) r.1) (bkAddr s b + r.2) (bkLen s b - r.2)

/-- The result of a bucket. -/
def resultBytes (s : State) (b : Nat) : List Byte :=
  let r := resultRun s b
  (freeRest s b).bytes (bkAddr s b + r.1) (r.2 - r.1)

/-- NaN elements of a result, as NAN_COUNT holds them; an ALL_GATHER counts none (R251). -/
def resultNan (s : State) (b : Nat) : Nat := if bkOp s b = 2 then 0 else min 0xFFFFFFFF (nanCount (resultBytes s b))

/-- A bucket with its result becomes COMPLETE: its NaNs are counted, its digests kept, and its core's counter adds (R250, R251, R257). -/
def bucketDone (s : State) (b : Nat) (x : CBucket) : State :=
  let n := resultNan s b
  let t := writeBkt (freeRest s b) b 3 (bkAtt s b) (bkPushed s b) n (bkStep s b)
  let t := if n = 0 then t else t.raise .gradNan 0 (packBits [(b, 0, 10), (bkStep s b, 10, 44)])
  let t := t.modCinch (fun c => { c with
    act := c.act.filter (fun a => a.b ≠ b), digs := c.digs ++ [(b, x.sent, crc64 (resultBytes s b))] })
  addEventOf t (bkCore s b) (bkEv s b)

/-- The end of a step here: with every bucket COMPLETE STEP_DONE goes to every peer, or, where one is out of reach, an abort in its place
(R254). -/
def stepDoneHere (s : State) : State :=
  if !allComplete s then s
  else if !(peers s).all (fun p => (pickPort s none p).isSome) then peerLost s
  else tryFinal (setStepState (notify s 0 [stepNo s, stepAtt s]) 2)

/-- BUCKET_COMPLETE: the result is written and visible (R250, R251, R254, R257). -/
def execBucketComplete (b : Nat) (s : State) : Res :=
  done s (match cAct s b with
    | none => s
    | some x => if sumN (x.fin.map (·.2)) ≠ expected s b || stepState s ≠ 1 then s else stepDoneHere (bucketDone s b x))

/-! ## Notices (R254) -/

/-- STEP_DONE. -/
def execStepDone (i step att : Nat) (s : State) : Res :=
  done s (match inTake s i 0x21 with
    | none => s
    | some (p, r, s) =>
      let s := answerOn s p r 0 0 []
      if !cinchEn s then s
      else
        let s := catchUp s step att false
        if stale s step att then s
        else tryFinal (s.modCinch (fun c => { c with dones := c.dones ++ [(r.src, step, att)] })))

/-- STEP_FINAL. -/
def execStepFinal (i step att : Nat) (s : State) : Res :=
  done s (match inTake s i 0x21 with
    | none => s
    | some (p, r, s) =>
      let s := answerOn s p r 0 0 []
      if !cinchEn s then s
      else
        let s := catchUp s step att false
        if step = stepNo s && att = stepAtt s && (stepState s = 1 || stepState s = 2) then becomeFinal s else s)

/-- STEP_ABORT: a notice aborts the attempt in OPEN or DONE_SENT (R254, R255). -/
def execStepAbort (i step att : Nat) (stop : Bool) (s : State) : Res :=
  done s (match inTake s i 0x21 with
    | none => s
    | some (p, r, s) =>
      let s := answerOn s p r 0 0 []
      if !cinchEn s then s
      else
        let s := catchUp s step att stop
        if step = stepNo s && att = stepAtt s && (stepState s = 1 || stepState s = 2) then abortStep s cRemote stop else s)

/-- STEP_DEADLINE: DEADLINE_MS after the attempt's first launch a bucket is not COMPLETE (R254; log 3). -/
def execStepDeadline (s : State) : Res :=
  done s (if cinchEn s && stepState s = 1 && s.cinch.launched && !allComplete s then abortStep s cDeadline false else s)

/-- DONE_TIMEOUT: DONE_TIMEOUT_MS in DONE_SENT without FINAL or an abort (R254; log 3). -/
def execDoneTimeout (s : State) : Res :=
  done s (if cinchEn s && stepState s = 2 then stall s cDoneTimeout else s)

/-- JOB_CFG.EN rises: IDLE with no step open, ATTEMPT 0, every bucket FILLING with PUSHED = 0 (R261). The job's base steps start anew. -/
def jobEnable (s : State) : State :=
  let s := (s.wr (rCinch 0x38) 0#64).modCinch (fun _ => Cinch.reset)
  let s := s.modShadow (fun h => { h with last := none, dueAt := none })
  (upto (bktCount s)).foldl (fun s b => writeBkt s b 0 0 0 0 (bkStep s b)) s

end Sys2Proof.Machine
end

