-- ==== Sys2Proof/Machine/Start.lean ====
section
/-! DEFINITION. OP_START and OP_COMPLETE: an issued operation starts once nothing holds it back, and an operation whose work is done
completes (spec/03 R84, R95; spec/04 R100, R101, R113-R115, R135, R136; spec/07 R209; spec/08 R230, R235). -/

namespace Sys2Proof.Machine

/-- The family of an opcode (Table 4.6). -/
def familyOf (opc : Nat) : Option Family :=
  match opc with
  | 0x01 => some famMatrix
  | 0x02 => some famMatrix
  | 0x03 => some famMatrix
  | 0x04 => some famDrain
  | 0x08 => some famEltwise
  | 0x09 => some famReduce
  | 0x0A => some famNormFwd
  | 0x0B => some famNormBwd
  | 0x0C => some famSoftFwd
  | 0x0D => some famSoftBwd
  | 0x10 => some famAttnFwd
  | 0x11 => some famAttnBwd
  | 0x12 => some famKv
  | 0x13 => some famPrefix
  | 0x18 => some famGather
  | 0x19 => some famScatter
  | 0x1A => some famSegment
  | 0x1B => some famSort
  | 0x20 => some famConvert
  | 0x21 => some famStats
  | 0x28 => some famSend
  | 0x29 => some famRecv
  | 0x2C => some famPhase
  | 0x30 => some famOptim
  | 0x31 => some famRngFill
  | 0x38 => some famAcquire
  | 0x39 => some famRelease
  | 0x3A => some famPush
  | 0x3C => some famFence
  | 0x3D => some famWait
  | 0x3E => some famStashPut
  | 0x3F => some famStashGet
  | 0x40 => some famVec
  | _ => none

/-- Whether an operation still waits for its start. -/
def stillIssued (s : State) (sl tag : Nat) : Bool := (opOf s sl tag).any (fun o => o.stage = .issued)

/-- The cycles an operation waited, charged to the causes of its wait (R84, R113, R209; log 3). -/
def chargeWait (s : State) (sl : Nat) (o : Op) (cycles : Nat) : State :=
  let s := if o.hazAcc then s.addCtr (slotBase sl + 0x388) cycles else s
  let s := if o.hazMem then s.addCtr (slotBase sl + 0x788) cycles else s
  if o.ports.isEmpty then s else s.addCtr (slotBase sl + 0x1510) cycles

/-- An operation that met an uncorrectable word has MEM_UNCORR, and is cut where its reads stopped (R114, R320; log 22). -/
def cutStarted (s : State) (sl tag : Nat) : State :=
  match opOf s sl tag with
  | none => s
  | some o =>
    if o.stage = .finishing && o.res.status = 0 && !(1 ≤ o.opc && o.opc ≤ 4) then
      let (s1, r) := cutUnits s o.res stMemUncorr
      updOp s1 sl { o with res := r }
    else s

/-- OP_START: an issued operation starts when its hazards, the order of its unit and streams, and its port assignments allow. -/
def execOpStart (sl tag cycles : Nat) (ecc : List EccEvent) (s : State) : Res :=
  done s (match opOf s sl tag with
    | none => s
    | some o =>
      match familyOf o.opc with
      | none => s
      | some fam =>
        if o.stage ≠ .issued then s
        else
          let s1 := tryStart s sl o fam
          if stillIssued s1 sl tag then s
          else
            let (s2, unc) := eccEvents s1 sl o ecc
            let s3 := if unc then cutStarted s2 sl tag else s2
            settle (chargeWait s3 sl o cycles) sl)

/-! ## Tiles (R93, R94) -/

/-- MATRIX_TILE_DONE: the engine finishes the next tile of the operation that runs (R69, R73-R78, R93, R95). -/
def execMatrixTileDone (sl tag : Nat) (ecc : List EccEvent) (s : State) : Res :=
  done s (match opOf s sl tag with
    | some o => if o.stage = .running && 1 ≤ o.opc && o.opc ≤ 3 && o.tile < tileCount o.tod then settle (matrixTile s sl o ecc) sl else s
    | none => s)

/-- DRAIN_TILE_DONE: the drain finishes the tile that became ready first (R85, R93-R95). -/
def execDrainTileDone (sl tag : Nat) (ecc : List EccEvent) (s : State) : Res :=
  done s (match opOf s sl tag with
    | some o => if drainReady o && drainFront s sl = some tag then settle (drainTileDone s sl o ecc) sl else s
    | none => s)

/-! ## OP_COMPLETE (R115) -/

/-- ECC events met in accumulator words by an ATTN_FWD or ATTN_BWD: an uncorrectable one ends it with ACC_UNCORR and poisons its working
slots (R95). -/
def attnAccEcc (s : State) (sl : Nat) (o : Op) (ecc : List EccEvent) : State × Op :=
  if o.opc ≠ 0x10 && o.opc ≠ 0x11 then (s, o)
  else
    let b := nth 0 o.slots 0
    match accEcc s sl b o.slots.length ecc with
    | (s, none) => (s, o)
    | (s, some (k, w)) =>
      let s := s.modCore sl (fun c => c.setTags b o.slots.length .poison)
      let s := s.raise .accEccUncorr sl (packBits [(o.tag, 0, 14), (k, 14, 7), (w, 21, 12)])
      let (s, r) := cutUnits s o.res stAccUncorr
      (s, { o with res := r })

/-- Last effects of an operation whose work is done: its result becomes visible, its record is written, and its locks end. -/
def finishOp (s : State) (sl : Nat) (o : Op) : State :=
  if o.opc = 0x38 then acqComplete s sl o
  else if o.opc = 0x12 || o.opc = 0x13 then complete (unlockKv s o) sl o o.res
  else if o.opc = 0x3F then stashGetDone (complete s sl o o.res) sl o
  else complete s sl o o.res

/-- An operation in the finishing stage completes; ECC events its last reads met come first. -/
def completeReady (s : State) (sl : Nat) (o : Op) (ecc : List EccEvent) : State :=
  if 1 ≤ o.opc && o.opc ≤ 4 then (if matDone o then complete s sl o o.res else s)
  else
    let (s, o) := attnAccEcc s sl o (ecc.filter (fun e => e.space = 3))
    let (s, unc) := eccEvents s sl o (ecc.filter (fun e => e.space ≠ 3))
    if unc && o.res.status = 0 then
      let (s, r) := cutUnits s o.res stMemUncorr
      finishOp s sl { o with res := r }
    else finishOp s sl o

/-- The cycles a WRITE acquire waited for its slot (R230, Table 8.12). -/
def acqCharge (s : State) (o : Op) (cycles : Nat) : State :=
  if o.opc = 0x38 && vaMode o.tod = 2 && nth 0 o.aux 7 = 1 then s.addCtr (rAcqWait (nth 0 o.aux 3)) cycles else s

/-- A running operation completes when the condition it waits for holds. -/
def completeRunning (s : State) (sl : Nat) (o : Op) : State :=
  if o.opc = 0x3C then (if fenceDone (s.core sl) o then finishWith s sl o stOK else s)
  else if o.opc = 0x3D then
    (if waitReached s sl o then finish s sl o ⟨stOK, eventVal s sl (weEv o.tod), 0, Counters.zeros⟩ else s)
  else if o.opc = 0x2C then (if phaseReady (s.core sl) o then phaseFlip s sl o else s)
  else if o.opc = 0x3A then
    (match tryFunc s sl o with
      | .wait => s
      | .fin t st => finishWith t sl o st)
  else s

/-- OP_COMPLETE. -/
def execOpComplete (sl tag cycles : Nat) (ecc : List EccEvent) (s : State) : Res :=
  done s (match opOf s sl tag with
    | none => s
    | some o =>
      match o.stage with
      | .finishing => settle (completeReady (acqCharge s o cycles) sl o ecc) sl
      | .running => settle (completeRunning s sl o) sl
      | .issued => s
      | .recordHeld => s)

end Sys2Proof.Machine
end

