-- ==== Sys2Proof/Machine/Link.lean ====
section
/-! DEFINITION. Flits of a Wenlyn port: header and CRC, acknowledgements, credit, arbitration and replay, and the port's states (spec/11
R285-R288, R290-R297, R304; spec/17 R407, R414). -/

namespace Sys2Proof.Machine

/-! ## The flit (R285, Table 11.1) -/

/-- The header of a flit. -/
structure WHdr where
  seq : Nat
  vc : Nat
  ackValid : Bool
  ackSeq : Nat
  typ : Nat
  som : Bool
  eom : Bool
  len8 : Nat
  retx : Bool
  credValid : Bool
  credVc : Nat
  credRet : Nat
  ttl : Nat
  resv : Nat
  src : Nat
  dst : Nat
  tag : Nat
  reqId : Nat
  deriving DecidableEq, Repr

/-- Bytes 0-7 of the header as a number. -/
def hdrLow (h : WHdr) : Nat :=
  packBits [(h.seq, 0, 12), (h.vc, 12, 3), (b2n h.ackValid, 15, 1), (h.ackSeq, 16, 12), (h.typ, 28, 2), (b2n h.som, 30, 1),
    (b2n h.eom, 31, 1), (h.len8, 32, 5), (b2n h.retx, 37, 1), (b2n h.credValid, 38, 1), (h.credVc, 39, 3), (h.credRet, 42, 12),
    (h.ttl, 54, 4), (h.resv, 58, 6)]

/-- Bytes 8-15 of the header as a number. -/
def hdrHigh (h : WHdr) : Nat := packBits [(h.src, 0, 12), (h.dst, 12, 12), (h.tag, 24, 14), (h.reqId, 38, 26)]

/-- The header two 64-bit words spell. -/
def hdrOf (lo hi : Nat) : WHdr :=
  { seq := bitsN lo 0 12, vc := bitsN lo 12 3, ackValid := bitN lo 15, ackSeq := bitsN lo 16 12, typ := bitsN lo 28 2, som := bitN lo 30
    eom := bitN lo 31, len8 := bitsN lo 32 5, retx := bitN lo 37, credValid := bitN lo 38, credVc := bitsN lo 39 3
    credRet := bitsN lo 42 12, ttl := bitsN lo 54 4, resv := bitsN lo 58 6, src := bitsN hi 0 12, dst := bitsN hi 12 12
    tag := bitsN hi 24 14, reqId := bitsN hi 38 26 }

/-- A flit of 256 bytes: header, payload filled with zeros, CRC-32C over bytes 0-247 and 252-255, trailer. `bad` inverts the CRC. -/
def flitBytes (h : WHdr) (payload : List Byte) (trailer : Nat) (bad : Bool) : List Byte :=
  let body := leBytes 8 (hdrLow h) ++ leBytes 8 (hdrHigh h) ++ padTo 232 (payload.take 232)
  let tr := leBytes 4 trailer
  let c := crc32c (body ++ tr)
  body ++ leBytes 4 (if bad then 2 ^ 32 - 1 - c else c) ++ tr

/-- Whether a flit's CRC is correct. -/
def flitCrcOk (fl : List Byte) : Bool :=
  fl.length = 256 && crc32c (fl.take 248 ++ fl.drop 252) = leNat ((fl.drop 248).take 4)

/-! ## Port registers (Table 11.9) -/

def portF (s : State) (p o lsb w : Nat) : Nat := s.f (wenBase p + o) lsb w
def portEn (s : State) (p : Nat) : Bool := s.fb (wenBase p) 0
def ackTimerNs (s : State) (p : Nat) : Nat := portF s p 0x18 0 16
def errWindowNs (s : State) (p : Nat) : Nat := portF s p 0x28 56 8 * 1000000

/-- The mode of a port given to Awl: 0 IDLE, 1 PRBS, 2 TRAFFIC, 3 GOLDEN (R408). -/
def awlMode (s : State) (p : Nat) : Nat := s.f (awlBase p) 0 2
def awlIn (s : State) (p m : Nat) : Bool := awlPort s p && awlMode s p = m

/-- A port state change, with its LINK record (R290, R420). -/
def setPortState (s : State) (p st : Nat) : State :=
  if portState s p = st then s
  else glintLink (s.setF (wenBase p + 8) 0 3 st) 7 p (0x80 + st) 0

/-- Whether flits flow on a port: INIT, AUTH or UP, and not PRBS. -/
def linkLive (s : State) (p : Nat) : Bool :=
  p < 18 && (portState s p = 3 || portState s p = 4 || portState s p = 5) && !awlIn s p 1

/-! ## Building a flit -/

def addAt (l : List Nat) (i n : Nat) : List Nat := setNth l i (nth 0 l i + n)

/-- Whether the idempotency table is full (R298). -/
def idemFull (s : State) : Bool := 65536 ≤ s.wen.idem.length

/-- Entries of a history that lie in the last microsecond. -/
def lastUs {α : Type} (now : Nat) (t : α → Nat) (l : List α) : List α := l.filter (fun e => now - t e < 1000)

/-- Free-running count of VC `v` that may be carried now: the ingress cap limits the credit of one microsecond (R304), a full idempotency
table withholds it on VC1-VC6 (R298), and so does an Awl injection (R414). -/
def credAllowed (s : State) (p : Nat) (x : WPort) (v : Nat) : Nat :=
  let f := nth 0 x.freed v
  let r := nth 0 x.retd v
  let cap := portF s p 0x40 (8 * v) 8
  if idemFull s && 1 ≤ v && v ≤ 6 then r
  else if x.inj = 4 && bitN (s.f (awlBase p + 0x18) 8 8) v then r
  else if cap = 0 then f
  else min f (r + (cap * 1000 / 256 - sumN (((lastUs s.now (fun e => e.1) x.retHist).filter (fun e => e.2.1 = v)).map (fun e => e.2.2))))

/-- The VC whose count the next flit carries: the first one owed that has something new, or only restates its count. -/
def credPick (s : State) (p : Nat) (x : WPort) : Option Nat :=
  match x.credOwed.find? (fun v => nth 0 x.retd v < credAllowed s p x v) with
  | some v => some v
  | none => x.credOwed.find? (fun v => nth 0 x.freed v = nth 0 x.retd v)

/-- Credit fields of the next flit, and the port after it carries them. -/
def credOut (s : State) (p : Nat) (x : WPort) : Option (Nat × Nat) × WPort :=
  match credPick s p x with
  | none => (none, x)
  | some v =>
    let a := credAllowed s p x v
    let n := a - nth 0 x.retd v
    (some (v, a % 4096), { x with
      retd := setNth x.retd v a
      retHist := (if n = 0 then [] else [(s.now, v, n)]) ++ lastUs s.now (fun e => e.1) x.retHist
      credOwed := x.credOwed.filter (fun u => u ≠ v) ++ (if a < nth 0 x.freed v then [v] else []) })

/-- The trailer: bit i says that flit ACK_SEQ + 2 + i is held (R285). -/
def ackTrailer (x : WPort) : Nat :=
  packBits ((upto 32).map (fun i => (b2n (x.held.any (fun h => h.seq = (x.rxNext + 1 + i) % 4096)), i, 1)))

/-- A breach of rule `r` of Table 17.1 in a flit about to be sent; `k` is which (R414). -/
def breakRule (r k : Nat) (h : WHdr) (pl : List Byte) : WHdr × List Byte :=
  match r with
  | 1 => ({ h with typ := 2 + k % 2 }, pl)
  | 2 => ({ h with len8 := nth 0 [0, 30, 31] (k % 3) }, pl)
  | 3 => ({ h with resv := 1 + k % 63 }, pl)
  | 4 => ({ h with som := !h.som }, pl)
  | 5 => (h, BitVec.ofNat 8 (0x40 + k % 64) :: pl.drop 1)
  | 6 => (h, pl.take 4 ++ leBytes 4 (leNat ((pl.drop 4).take 4) + 1 + k % 256) ++ pl.drop 8)
  | 7 => ({ h with vc := 1 + k % 6 }, pl)
  | _ => (h, pl)

/-- Send one flit: `f` is none for a NULL flit, else the flit with its number and whether it is resent. The acknowledgement, trailer,
credit and RETX are written afresh (R285), and an Awl injection acts on it (R414). -/
def sendFlit (s : State) (p : Nat) (f : Option (Nat × Bool × WFlit)) : State :=
  let x := s.wport p
  let (cr, x) := credOut s p x
  let ackOn := x.anyRx && x.inj ≠ 2
  let h0 : WHdr :=
    { seq := 0, vc := 0, ackValid := ackOn, ackSeq := if ackOn then (x.rxNext + 4095) % 4096 else 0, typ := 1, som := false, eom := false
      len8 := 0, retx := false, credValid := cr.isSome, credVc := (cr.getD (0, 0)).1, credRet := (cr.getD (0, 0)).2, ttl := 0, resv := 0
      src := ownPkg s, dst := s.f (wenBase p + 0x48) 0 12, tag := 0, reqId := 0 }
  let h := match f with
    | none => h0
    | some (q, re, w) => { h0 with
        seq := q, vc := w.vc, typ := 0, som := w.som, eom := w.eom, len8 := w.len8, retx := re, ttl := w.ttl, src := w.src, dst := w.dst
        tag := w.tag, reqId := w.reqId }
  let pl := match f with | none => [] | some (_, _, w) => w.payload
  let (h, pl) := if x.inj = 5 && f.isSome then breakRule (s.f (awlBase p + 0x18) 3 5) x.injArg h pl else (h, pl)
  let bad := (x.inj = 1 && f.isSome) || (x.inj = 3 && f.isNone)
  let fl := flitBytes h pl (if ackOn then ackTrailer x else 0) bad
  let once := (x.inj = 1 && f.isSome) || (x.inj = 3 && f.isNone) || (x.inj = 5 && f.isSome)
  let s := s.setWport p { x with owe := x.owe && x.inj = 2, inj := if once then 0 else x.inj, injN := x.injN + 1 }
  (s.addCtr (wenBase p + 0x80) 1).emit (.wenFlit p fl)

/-! ## Arbitration (R288) -/

/-- What the transmitter sends at a flit slot. -/
inductive TxPick where
  | resend (e : WEntry)
  | fresh (vc : Nat)
  | null
  | none
  deriving DecidableEq, Repr

/-- Requests the package originated that wait on a port for their response, and their data bytes (R297). -/
def outstandingOn (s : State) (p : Nat) : Nat × Nat :=
  let l := s.wen.outs.filter (fun o => o.port = p && o.sent)
  (l.length, sumN (l.map (fun o => o.req.data.length)))

/-- The request of the package that a SOM flit begins. -/
def outOfFlit (s : State) (p : Nat) (f : WFlit) : Option WOut :=
  if f.som && f.payload.head? ≠ some 0x80#8 then
    s.wen.outs.find? (fun o => o.port = p && o.req.vc = f.vc && o.req.dst = f.dst && o.req.tag = f.tag && o.req.reqId = f.reqId && f.src = o.req.src)
  else none

/-- Whether a port may begin one more request: 4,096 requests and 8 MiB outstanding (R297). -/
def mayBegin (s : State) (p : Nat) (f : WFlit) : Bool :=
  match outOfFlit s p f with
  | some o => o.sent || ((outstandingOn s p).1 < 4096 && (outstandingOn s p).2 + o.req.data.length ≤ 8388608)
  | none => true

/-- Whether fewer than 2,048 numbers are in use from the oldest unacknowledged flit (R292). -/
def windowOpen (x : WPort) : Bool :=
  match x.replay with
  | [] => true
  | e :: _ => subMod 12 x.nextSeq e.seq < 2048

/-- Whether VC `v` can send its next flit now: credit, window, and only VC0 before UP, while a lane is swapped or while the package is held
safe (R287, R291, R292, R295, R370). -/
def vcReady (s : State) (p : Nat) (x : WPort) (v : Nat) : Bool :=
  match look [] x.txq v with
  | [] => false
  | f :: _ => 0 < nth 0 x.cred v && windowOpen x && (v = 0 || (portUp s p && !heldSafe s && x.swap.isNone)) && mayBegin s p f

/-- Bytes a VC has sent in the last microsecond. -/
def sentUs (s : State) (x : WPort) (v : Nat) : Nat := 256 * ((lastUs s.now (fun e => e.1) x.recent).filter (fun e => e.2 = v)).length

/-- SHADOW.CFG.MIN_RATE in GB/s. -/
def shadowMinRate (s : State) : Nat := s.f shadowBase 25 7

def txPick (s : State) (p : Nat) : TxPick :=
  let x := s.wport p
  let r (v : Nat) : Bool := vcReady s p x v
  match x.replay.find? (fun e => e.due && (x.swap.isNone || e.fl.vc = 0)) with
  | some e => .resend e
  | none =>
    let ring3 := if x.rr3 = 1 then [2, 3, 1] else if x.rr3 = 2 then [3, 1, 2] else [1, 2, 3]
    let ring2 := if x.rr2 = 5 then [6, 5] else [5, 6]
    match ([0].filter r ++ (if sentUs s x 7 < 2000 then [7].filter r else [])
        ++ (if sentUs s x 4 < shadowMinRate s * 1000 then [4].filter r else [])
        ++ ring3.filter r ++ ring2.filter r ++ [7].filter r ++ [4].filter r).head? with
    | some v => .fresh v
    | none => if (x.owe && x.inj ≠ 2) || (credPick s p x).isSome then .null else .none

/-- Bytes of VC3 and VC4 are counted by Cinch and Shadow (Tables 9.7, 10.9). -/
def countVc (s : State) (vc len8 : Nat) (tx : Bool) : State :=
  if vc = 3 then s.addCtr (cinchBase + (if tx then 0x210 else 0x218)) (8 * len8)
  else if vc = 4 then s.addCtr (shadowBase + (if tx then 0x90 else 0x98)) (8 * len8)
  else s

/-- A request's first flit leaves: it counts as outstanding, and its latency runs from now unless it is sent again (R297, R411). -/
def markSent (s : State) (p : Nat) (f : WFlit) : State :=
  match outOfFlit s p f with
  | some o => { s with wen := { s.wen with outs := s.wen.outs.map (fun y =>
      if y = o then { y with sent := true, at_ := if y.sent then y.at_ else s.now } else y) } }
  | none => s

/-- Send what the arbitration picked. -/
def transmit (s : State) (p : Nat) : State :=
  match txPick s p with
  | .resend e =>
    let s := sendFlit s p (some (e.seq, true, e.fl))
    let s := s.modWport p (fun x => { x with replay := x.replay.map (fun y =>
      if y.seq = e.seq then { y with due := false, resends := y.resends + 1 } else y) })
    countVc (s.addCtr (wenBase p + 0x90) 1) e.fl.vc e.fl.len8 true
  | .fresh v =>
    match look [] (s.wport p).txq v with
    | [] => s
    | f :: rest =>
      let q := (s.wport p).nextSeq
      let s := markSent s p f
      let s := if (s.wport p).inj = 3 && (s.wport p).owe then sendFlit s p none else s
      let s := sendFlit s p (some (q, false, f))
      let s := s.modWport p (fun x => { x with
        txq := putRaw x.txq v rest, replay := x.replay ++ [⟨q, f, 0, false, none⟩], nextSeq := (q + 1) % 4096
        cred := setNth x.cred v (nth 0 x.cred v - 1), recent := (s.now, v) :: lastUs s.now (fun e => e.1) x.recent
        rr3 := if 1 ≤ v && v ≤ 3 then v else x.rr3, rr2 := if v = 5 || v = 6 then v else x.rr2 })
      countVc s v f.len8 true
  | .null => sendFlit s p none
  | .none => s

/-! ## Acknowledgements and credit received (R285, R287, R294) -/

/-- Free entries a cumulative or selective acknowledgement covers, and mark for resending the flits missing below a selectively
acknowledged one. -/
def applyAck (x : WPort) (now timer ackSeq bits : Nat) : WPort :=
  let covered (e : WEntry) : Bool := subMod 12 ackSeq e.seq < 2048
  let sel (e : WEntry) : Bool := subMod 12 e.seq (ackSeq + 2) < 32 && bitN bits (subMod 12 e.seq (ackSeq + 2))
  let rest := x.replay.filter (fun e => !covered e && !sel e)
  let top := ((upto 32).filter (fun i => bitN bits i)).getLast?
  match top with
  | none => { x with replay := rest }
  | some i =>
    let m := ackSeq + 2 + i
    { x with replay := rest.map (fun e =>
        if subMod 12 m e.seq < 2048 && (match e.gapT with | none => true | some t => timer ≤ now - t)
        then { e with due := true, gapT := some now } else e) }

/-- Apply a credit return: the advance of the VC's free-running count. -/
def applyCred (x : WPort) (v ret : Nat) : WPort :=
  { x with cred := addAt x.cred v (subMod 12 ret (nth 0 x.lastRet v)), lastRet := setNth x.lastRet v ret }

/-! ## States of a port (R290, R296) -/

/-- Payload of a VC0 notice (log 40): 8 to 232 bytes. -/
def vc0Payload (kind : Nat) (vals : List Nat) : List Byte := 0#8 :: (Config.vc0Bytes kind vals).take 231

/-- The flits of a message on VC0: TAG and REQ_ID are zero (Table 11.1). -/
def vc0Flits (s : State) (p : Nat) (bs : List Byte) : List WFlit :=
  let ps := pieces 232 bs
  ps.zipIdx.map (fun q =>
    let b := pad8 q.1
    { vc := 0, som := q.2 = 0, eom := q.2 + 1 = ps.length, len8 := b.length / 8, src := ownPkg s, dst := s.f (wenBase p + 0x48) 0 12, tag := 0
      reqId := 0, ttl := 15, payload := b })

/-- Queue a VC0 notice: 0 HELLO, 1 partner fault, 2 close, 3 lane swap. -/
def sendVc0 (s : State) (p kind : Nat) (vals : List Nat) : State :=
  (enqueue s p 0 (vc0Flits s p (vc0Payload kind vals))).emit (.vc0 p kind vals)

/-- Credits of VC v advertised to the partner (Table 11.8). -/
def creditsOf (s : State) (p v : Nat) : Nat := portF s p (0x30 + 8 * (v / 4)) (16 * (v % 4)) 12

/-- The physical lane of each logical lane: the spare carries the one it stands for (R291, R295). -/
def laneMap (s : State) (p : Nat) : List Nat :=
  (upto 8).map (fun l => if s.fb (wenBase p + 0x10) 21 && portF s p 0x10 18 3 = l then 8 else l)

/-- The values of HELLO: package, port, feature level in force, the eight credit counts, IDEM_WINDOW_US, AUTH_REQ and the lane map
(R291). -/
def helloVals (s : State) (p : Nat) : List Nat :=
  [ownPkg s, p, s.f 0x10 32 8] ++ (upto 8).map (fun v => creditsOf s p v) ++ [s.f (wenPkgBase + 8) 0 12, portF s p 0 2 1] ++ laneMap s p

/-- Training begins: the lanes are released (R290, R295). -/
def startTraining (s : State) (p : Nat) : State :=
  let s := wakeDom s 8 (5 + p)
  setPortState ((s.setWport p WPort.reset).wr (wenBase p + 0x10) 0#64) p 2

/-- Reissued flits go ahead of new traffic on their VC, after a request whose flits are leaving (R286, R296). -/
def putAhead (s : State) (p vc : Nat) (fs : List WFlit) : State :=
  s.modWport p (fun x =>
    let q := look [] x.txq vc
    let mid := match q with | f :: _ => !f.som | [] => false
    let head := if mid then q.takeWhile (fun f => !f.eom) ++ (q.dropWhile (fun f => !f.eom)).take 1 else []
    { x with txq := putRaw x.txq vc (head ++ fs ++ q.drop head.length) })

/-- Requests of the package on a port, in issue order. -/
def outsOn (s : State) (p : Nat) : List WOut := s.wen.outs.filter (fun o => o.port = p)

/-- Register and position of a package's route entry. -/
def routeAt (pkg : Nat) : Nat × Nat := (wenPkgBase + 0x1000 + 8 * (pkg / 8), 8 * (pkg % 8))

/-- Packages whose valid route entry names a port. -/
def routesVia (s : State) (p : Nat) : List Nat := (upto 4096).filter (fun g => routeOf s g = some p)

/-- Name another port in the route entries of packages. -/
def setRoutes (s : State) (f : Nat) (gs : List Nat) : State := gs.foldl (fun s g => s.setF (routeAt g).1 (routeAt g).2 5 f) s

/-- Failover: routes move in one step, and the requests without a response are reissued on the partner in issue order. -/
def failOver (s : State) (p f : Nat) : State :=
  let l := outsOn s p
  let gs := routesVia s p
  let s := (setRoutes s f gs).setF (wenBase p + 8) 3 1 1
  let s := { s with wen := { s.wen with moved := s.wen.moved ++ gs.map (fun g => (p, g)) } }
  let s := (upto 8).foldl (fun s v =>
    let fs := (l.filter (fun o => o.req.vc = v)).flatMap (fun o => flitsOf o.req)
    if fs.isEmpty then s else putAhead s f v fs) s
  let s := { s with wen := { s.wen with outs := s.wen.outs.map (fun (o : WOut) => if o.port = p then { o with port := f, sent := false } else o) } }
  s.raise .failover p (packBits [(f, 0, 5), (l.length, 5, 13)])

/-- A request fails without a response, with a status: channels get a NACK UNREACHABLE, Cinch loses its peer and Shadow its holder, and an
Awl request counts as timed out (R297, R307, R410). -/
def failOut (s : State) (o : WOut) (st : Nat) : State :=
  let s := ({ s with wen := { s.wen with outs := s.wen.outs.filter (fun y => y ≠ o) } } : State).emit (.remoteEnd o.req.dst o.req.tag st)
  match o.org with
  | .chan m => unreachReply s m
  | .cinch => peerLost s
  | .shadow base copy _ => holderLost s base copy
  | .snapAck => s
  | .restore cmd => restoreLost s cmd
  | .awl p => s.addCtr (awlBase p + 0x68) 1

/-- A request of a port that went down without a failover: with no port UP toward its package it fails at once, one not begun moves to the
port the route names by now, and one that has left waits for its timeout (R297; log 77). -/
def afterDown (s : State) (p : Nat) (o : WOut) : State :=
  match pickPort s o.via o.req.dst with
  | none => failOut (raiseUnreach s p o.req.dst) o stPkgUnreachable
  | some q =>
    if o.sent then s
    else
      let s := enqueue s q o.req.vc (flitsOf o.req)
      { s with wen := { s.wen with outs := s.wen.outs.map (fun y => if y = o then { y with port := q } else y) } }

/-- An UP port goes down for a cause of Table 11.7 and enters state `st`; `awl` says it was given to Awl (R296, R407). -/
def linkDownTo (s : State) (p cause st : Nat) (awl : Bool) : State :=
  if portState s p ≠ 5 then s
  else
    let l := outsOn s p
    let s := if cause = 8 then s else s.emit (.vc0 p 2 [cause])
    let s := s.raise .linkDown p (packBits [(cause, 0, 4), (l.length, 4, 13)])
    let s := s.setF (wenBase p + 8) 4 4 cause
    let s := setPortState (s.setWport p WPort.reset) p st
    let f := portF s p 0 8 5
    if s.fb (wenBase p) 13 && portCarries s f && !awl then failOver s p f
    else l.foldl (fun s o => afterDown s p o) s

/-- An UP port goes down (R296). -/
def linkDown (s : State) (p cause : Nat) : State := linkDownTo s p cause 1 (awlPort s p)

/-- Entries that moved to the partner move back once the port is UP again (R296, FAILBACK). -/
def failBack (s : State) (p : Nat) : State :=
  if s.fb (wenBase p + 8) 3 && portUp s p then
    let f := portF s p 0 8 5
    let gs := (s.wen.moved.filter (fun m => m.1 = p && routeOf s m.2 = some f)).map (·.2)
    let s := (setRoutes s p gs).setF (wenBase p + 8) 3 1 0
    { s with wen := { s.wen with moved := s.wen.moved.filter (fun m => m.1 ≠ p) } }
  else s

/-- The port's part of a change of PORT_CTL from `old` to its present value (R290, R407). -/
def portCtlHook (s : State) (p : Nat) (old : Word) : State :=
  let en := portEn s p
  let was := fld old 0 1 = 1
  let awl := fld old 1 1 = 1
  if was && !en then
    let s := linkDownTo s p 9 0 awl
    setPortState (s.setWport p WPort.reset) p 0
  else if !was && en then startTraining s p
  else if en && awl ≠ awlPort s p then
    (if portState s p = 5 then linkDownTo s p 9 1 awl else startTraining s p)
  else s

end Sys2Proof.Machine
end

