-- ==== Sys2Proof/Machine/Wenlyn.lean ====
section
/-! DEFINITION. What a Wenlyn port does with flits it receives, the events of its states, lanes and timers, authentication, and requests
and responses at the hub (spec/11 R285-R305; spec/17 R412-R414). -/

namespace Sys2Proof.Machine

/-! ## Checker and malformed flits (R303, R412) -/

/-- A violation of Table 17.1 is counted when CHECK_EN is 1; the first one copies the flit header and raises CHECK_VIOLATION. -/
def awlCheck (s : State) (p rule lo hi : Nat) : State :=
  let b := awlBase p
  if rule = 0 || !s.fb b 4 then s
  else
    let first := (upto 10).all (fun i => (s.rd (b + 0x88 + 8 * i)).toNat = 0)
    let s := s.addCtr (b + 0x88 + 8 * (rule - 1)) 1
    if first then
      ((s.wr (b + 0x78) (BitVec.ofNat 64 lo)).wr (b + 0x80) (BitVec.ofNat 64 hi)).raise .checkViolation 0
        (packBits [(p, 0, 5), (rule, 5, 5), (bitsN hi 0 12, 10, 12)])
    else s

/-- A malformed flit is counted and raised; the request it belongs to is dropped and, when it had a SOM, answered MALFORMED (R303). -/
def malformedAt (s : State) (p rule : Nat) (f : WFlit) : State :=
  let x := s.wport p
  let parts := look [] x.part f.vc
  let op := ((parts ++ [f]).head?.bind (fun g => g.payload.head?)).getD 0#8
  let som := f.som || !parts.isEmpty
  let s := s.setWport p { x with part := putRaw x.part f.vc [], malT := s.now :: x.malT }
  let s := (s.addCtr (wenBase p + 0xB0) 1).raise .malformed p (packBits [(f.src, 0, 12), (f.vc, 12, 3), (rule, 15, 5)])
  if som && 1 ≤ f.vc && f.vc ≤ 6 && op ≠ 0x80#8 then
    answerOn s p { vc := f.vc, src := f.src, dst := f.dst, tag := f.tag, reqId := f.reqId, op := op.toNat, flags := 0, code := 0, arg := 0, data := [] }
      rcMalformed 0 []
  else s

/-! ## Admission (R301) -/

/-- Whether entry `n` of the admission table is valid and its range contains a package. -/
def admitHas (s : State) (n pkg : Nat) : Bool :=
  let a := wenPkgBase + 0x2000 + 0x10 * n
  s.fb a 32 && s.f a 0 12 ≤ pkg && pkg ≤ s.f a 12 12

/-- The first valid entry whose range contains a package. -/
def admitEntry (s : State) (pkg : Nat) : Option Nat := (upto 64).find? (fun n => admitHas s n pkg)

/-- Whether a package's flits on a VC are admitted. -/
def admitted (s : State) (pkg vc : Nat) : Bool :=
  match admitEntry s pkg with
  | some n => s.fb (wenPkgBase + 0x2000 + 0x10 * n) (24 + vc)
  | none => false

/-- Whether one remote window in the entry's WIN_MASK contains every byte and permits the access: bit 1 READ, 2 WRITE, 3 ATOMIC. -/
def remoteWin (s : State) (pkg bit a n : Nat) : Bool :=
  match admitEntry s pkg with
  | none => false
  | some e => (upto 32).any (fun w =>
      let b := wenPkgBase + 0x2800 + 0x20 * w
      s.fb (wenPkgBase + 0x2008 + 0x10 * e) w && s.fb (b + 0x10) 0 && s.fb (b + 0x10) bit
        && s.f b 12 36 * 4096 ≤ a && a + n ≤ (s.f (b + 8) 12 36 + 1) * 4096 && s.f b 12 36 ≤ s.f (b + 8) 12 36)

/-- A refusal is counted and raised. -/
def admitDrop (s : State) (p : Nat) (r : WReq) : State :=
  let a := if r.op ≤ 3 then r.arg else 0
  (s.addCtr (wenBase p + 0xB8) 1).raise .admitDenied p (packBits [(r.src, 0, 12), (r.vc, 12, 3), (bitsN a 12 36, 15, 36)])

/-- What the NACK UNREACHABLE to a refused channel request spells: the code after the number of the request it answers, which a CLOSE has
not. -/
def nackArg (r : WReq) : Option NetMsg → Nat
  | none => (Config.wireArg r.op 7 [0, 5]).toNat
  | some m => match m.body with
    | .openReq _ tag => netArg { m with up := false, body := .openNack tag 5 }
    | .grantReq seq _ => netArg { m with up := false, body := .nack seq 5 }
    | .data seq _ _ _ _ => netArg { m with up := false, body := .nack seq 5 }
    | .abort seq => netArg { m with up := false, body := .nack seq 5 }
    | _ => netArg { m with up := false, body := .nack 0 5 }

/-- A refused request is discarded, and answered DENIED or, for a channel request, with NACK UNREACHABLE. -/
def denyReq (s : State) (p : Nat) (r : WReq) (sp : Option NetMsg) : State :=
  let s := admitDrop s p r
  if r.op = 0x80 then s
  else if 0x10 ≤ r.op && r.op ≤ 0x12 then respond s p r.vc r.src r.tag r.reqId 0 (nackArg r sp) []
  else answerOn s p r rcDenied 0 []

/-! ## A whole request (R289, R298, R302, R413) -/

/-- The VCs of an OP code (Table 11.3). -/
def opVc (op vc : Nat) : Bool :=
  match op with
  | 0x01 => vc = 5
  | 0x02 => vc = 5
  | 0x03 => vc = 5
  | 0x10 => vc = 1 || vc = 2 || vc = 6
  | 0x11 => vc = 1 || vc = 2 || vc = 6
  | 0x12 => vc = 1 || vc = 2 || vc = 6
  | 0x20 => vc = 3
  | 0x21 => vc = 3
  | 0x28 => vc = 4
  | 0x29 => vc = 4
  | 0x80 => 1 ≤ vc && vc ≤ 6
  | _ => false

/-- Whether a spelled message fits a received channel request (log 40). -/
def spellOk (s : State) (r : WReq) (m : NetMsg) : Bool :=
  m.up && m.ch.1 = r.src && m.rq.1 = ownPkg s && m.vc = r.vc && m.tag = r.tag && netOp m.body = r.op && netBytes m.body = r.data

/-- Hand a request to the hub. -/
def toInbox (s : State) (p : Nat) (r : WReq) : State := { s with wen := { s.wen with inbox := s.wen.inbox ++ [(p, r)] } }

/-- A request is entered in the idempotency table (R298). -/
def idemEnter (s : State) (r : WReq) : State := { s with wen := { s.wen with idem := s.wen.idem ++ [(r.src, r.reqId, none)] } }

/-- A channel request joins the messages of its ends; CLOSE and ABORT get their plain RESP at once. -/
def channelIn (s : State) (p : Nat) (r : WReq) (m : NetMsg) : State :=
  let s := onPackage s m
  match (netKeys m.body).head? with
  | some (k, key) => { s with wen := { s.wen with chanIn := s.wen.chanIn ++ [⟨m.ch, m.rq, k, key, p, r.vc, r.tag, r.reqId⟩] } }
  | none => answerOn s p r rcOk 0 []

/-- `n` bytes of the PATTERN of a HIST_CFG register (Table 17.4, R410). -/
def patBytes (s : State) (b n : Nat) : List Byte :=
  match s.f (b + 0x20) 24 2 with
  | 0 => (upto n).map (fun i => BitVec.ofNat 8 i)
  | 1 => prbsBytes n Config.prbsSeed.toNat
  | _ => (upto n).map (fun _ => BitVec.ofNat 8 (s.f (b + 0x20) 56 8))

/-- The length of a READ (Table 11.3). -/
def readLen (r : WReq) : Nat := 64 * (r.flags + 1)

/-- GOLDEN mode answers RESP OK, with pattern data to a READ, grants at offset 0 and acknowledges messages (R413). -/
def goldenAnswer (s : State) (p : Nat) (r : WReq) (sp : Option NetMsg) : State :=
  if r.op = 0x80 then s
  else
    let arg := match sp with
      | some m => (match m.body with
          | .grantReq seq _ => netArg { m with up := false, body := .grant seq 0 0 0 }
          | .data seq _ _ _ _ => netArg { m with up := false, body := .ack seq }
          | .openReq _ tag => netArg { m with up := false, body := .openGrant tag }
          | _ => 0)
      | none => 0
    answerOn s p r rcOk arg (if r.op = 1 then patBytes s (awlBase p) (readLen r) else [])

/-- An answer of the idempotency table is sent again (R298). -/
def repeatAnswer (s : State) (p : Nat) (r : WReq) (code : Nat) (res : List Byte) : State :=
  if 0x10 ≤ r.op && r.op ≤ 0x12 then respond s p r.vc r.src r.tag r.reqId code (leNat res) []
  else respond s p r.vc r.src r.tag r.reqId code 0 res

/-- A request whose EOM flit has arrived at its destination. -/
def commitReq (s : State) (p : Nat) (r : WReq) (sp : Option NetMsg) : State :=
  if awlIn s p 3 then goldenAnswer s p r sp
  else if !admitted s r.src r.vc then denyReq s p r sp
  else if r.op = 0x80 || r.op = 1 then toInbox s p r
  else match s.wen.idem.find? (fun e => e.1 = r.src && e.2.1 = r.reqId) with
    | some (_, _, some (code, res)) => repeatAnswer s p r code res
    | some (_, _, none) => s
    | none =>
      if 0x10 ≤ r.op && r.op ≤ 0x12 then
        match sp with
        | none => answerOn (idemEnter s r) p r rcMalformed 0 []
        | some m =>
          if !spellOk s r m then answerOn (idemEnter s r) p r rcMalformed 0 []
          else
            let open_ := match m.body with | .openReq _ _ => true | _ => false
            let dyn := (admitEntry s r.src).any (fun n => s.fb (wenPkgBase + 0x2000 + 0x10 * n) 33)
            if open_ && !dyn then denyReq s p r sp else channelIn (idemEnter s r) p r m
      else toInbox (idemEnter s r) p r

/-- The flits of a whole request: transit traffic is relayed on the same VC with TTL one less, or is malformed once its route is lost; on
VC0 and VC7 no transaction header follows; and the rest is taken apart (R286, R289, R302, R303). -/
def endRequest (s : State) (p : Nat) (fs : List WFlit) (h : WHeld) : State :=
  let f := h.fl
  if f.vc = 0 then s
  else if f.dst ≠ ownPkg s then
    match pickPort s none f.dst with
    | some q => enqueue s q f.vc (fs.map (fun g => { g with ttl := g.ttl - 1 }))
    | none => awlCheck (malformedAt s p 8 { f with som := true, payload := (fs.head?.map (fun g => g.payload)).getD [] }) p 8 h.lo h.hi
  else if f.vc = 7 then s
  else
    let bs := fs.flatMap (fun g => g.payload)
    let n (o k : Nat) : Nat := leNat ((bs.drop o).take k)
    let r : WReq :=
      { vc := f.vc, src := f.src, dst := f.dst, tag := f.tag, reqId := f.reqId, op := n 0 1, flags := n 1 1, code := n 2 2, arg := n 8 8
        data := (bs.drop 16).take (n 4 4) }
    if !opVc r.op f.vc then awlCheck (malformedAt s p 5 { f with som := true, payload := bs }) p 5 h.lo h.hi
    else if bs.length < 16 || roundUp (16 + n 4 4) 8 ≠ bs.length then
      awlCheck (malformedAt s p 6 { f with som := true, payload := bs }) p 6 h.lo h.hi
    else commitReq s p r h.spells

/-! ## Flits in order (R293, R298, R303) -/

/-- The rule of Table 17.1 a flit breaks at its delivery. -/
def deliverRule (s : State) (p : Nat) (h : WHeld) : Nat :=
  let f := h.fl
  if h.rule ≠ 0 then h.rule
  else if 1 ≤ f.vc && !portUp s p then 7
  else if (look [] (s.wport p).part f.vc).isEmpty ≠ f.som then 4
  else if 1 ≤ f.vc && f.dst ≠ ownPkg s && !(s.fb (wenBase p) 3 && f.ttl ≠ 0 && (pickPort s none f.dst).isSome) then 8
  else 0

/-- A flit reaches the hub: its buffer place is freed, and it joins its request. -/
def takeFlit (s : State) (p : Nat) (h : WHeld) : State :=
  let f := h.fl
  let s := s.modWport p (fun x => { x with
    freed := addAt x.freed f.vc 1, credOwed := if x.credOwed.contains f.vc then x.credOwed else x.credOwed ++ [f.vc] })
  let rule := deliverRule s p h
  if rule ≠ 0 then awlCheck (malformedAt s p rule f) p rule h.lo h.hi
  else
    let fs := look [] (s.wport p).part f.vc ++ [f]
    let s := s.modWport p (fun x => { x with part := putRaw x.part f.vc (if f.eom then [] else fs) })
    if f.eom then endRequest s p fs h else s

/-- A flit in order is delivered, or stays in the buffer while the idempotency table is full (R298). -/
def deliverFlit (s : State) (p : Nat) (h : WHeld) : State :=
  if 1 ≤ h.fl.vc && h.fl.vc ≤ 6 && idemFull s then s.modWport p (fun x => { x with stuck := x.stuck ++ [h] })
  else takeFlit s p h

/-- Held flits are passed on in SEQ order (R293). -/
def deliverHeld : Nat → State → Nat → State
  | 0, s, _ => s
  | n + 1, s, p =>
    let x := s.wport p
    match x.held.find? (fun h => h.seq = x.rxNext) with
    | none => s
    | some h =>
      let s := s.setWport p { x with rxNext := (x.rxNext + 1) % 4096, held := x.held.filter (fun y => y.seq ≠ h.seq) }
      deliverHeld n (deliverFlit s p h) p

/-- Flits kept back go on once the table has room. -/
def unstick : Nat → State → Nat → State
  | 0, s, _ => s
  | n + 1, s, p =>
    match (s.wport p).stuck with
    | [] => s
    | h :: t =>
      if idemFull s then s
      else unstick n (takeFlit (s.modWport p (fun x => { x with stuck := t })) p h) p

/-- The rule a flit's header alone breaks (R303). -/
def headRule (h : WHdr) : Nat :=
  if 2 ≤ h.typ then 1
  else if (if h.typ = 0 then h.len8 = 0 || 29 < h.len8 else h.len8 ≠ 0) then 2
  else if h.resv ≠ 0 then 3
  else 0

/-- A DATA flit with a correct CRC: a duplicate is discarded, another one is held and passed on in order. The window ends 2,047 above the
last number received in order, which is one below the missing one (R293). -/
def dataFlit (s : State) (p : Nat) (h : WHdr) (lo hi rule : Nat) (payload : List Byte) (spells : Option NetMsg) : State :=
  let x := s.wport p
  if 2047 ≤ subMod 12 h.seq x.rxNext || x.held.any (fun y => y.seq = h.seq) then
    (s.setWport p { x with owe := true, anyRx := true }).addCtr (wenBase p + 0xA0) 1
  else
    let breach := creditsOf s p h.vc + nth 0 x.retd h.vc ≤ nth 0 x.got h.vc
    let f : WFlit := { vc := h.vc, som := h.som, eom := h.eom, len8 := h.len8, src := h.src, dst := h.dst, tag := h.tag, reqId := h.reqId
                       ttl := h.ttl, payload := payload.take (8 * h.len8) }
    let s := s.setWport p { x with
      owe := true, anyRx := true, got := addAt x.got h.vc 1
      held := x.held ++ [{ seq := h.seq, rule := rule, lo := lo, hi := hi, spells := spells, fl := f }] }
    let s := if breach then awlCheck s p 9 lo hi else s
    deliverHeld 2049 (countVc s h.vc h.len8 false) p

/-- WENLYN_FLIT_RECEIVE: a 256-byte flit arrives. `spells` is the channel message that the request it ends spells (log 40). -/
def execWenlynFlitReceive (p : Nat) (flit : List Byte) (spells : Option NetMsg) (s : State) : Res :=
  done s (if !linkLive s p || flit.length ≠ 256 then s
    else if !flitCrcOk flit then
      (s.modWport p (fun x => { x with crcT := s.now :: x.crcT })).addCtr (wenBase p + 0x98) 1
    else
      let lo := leNat (flit.take 8)
      let hi := leNat ((flit.drop 8).take 8)
      let h := hdrOf lo hi
      let s := s.addCtr (wenBase p + 0x88) 1
      let s := if h.ackValid then s.modWport p (fun x => applyAck x s.now (ackTimerNs s p) h.ackSeq (leNat (flit.drop 252))) else s
      let s := if h.credValid then s.modWport p (fun x => applyCred x h.credVc h.credRet) else s
      let rule := headRule h
      if h.typ = 0 then dataFlit s p h lo hi rule ((flit.drop 16).take 232) spells
      else if rule = 0 then s
      else
        let s := (s.modWport p (fun x => { x with malT := s.now :: x.malT })).addCtr (wenBase p + 0xB0) 1
        awlCheck (s.raise .malformed p (packBits [(h.src, 0, 12), (h.vc, 12, 3), (rule, 15, 5)])) p rule lo hi)

/-- WENLYN_TRANSMIT: a flit slot (R288). -/
def execWenlynTransmit (p : Nat) (s : State) : Res := done s (if linkLive s p then transmit s p else s)

/-! ## Timers and limits (R288, R294, R296, R303, R304; log 3) -/

/-- WENLYN_ACK_TIMEOUT: the oldest unacknowledged flit and those of the following 32 are due for resending. -/
def execWenlynAckTimeout (p : Nat) (s : State) : Res :=
  done s (if !linkLive s p then s
    else s.modWport p (fun x =>
      match x.replay with
      | [] => x
      | e :: _ => { x with replay := x.replay.map (fun y => if subMod 12 y.seq e.seq ≤ 32 then { y with due := true } else y) }))

/-- ACK_COALESCE_TIMEOUT: an owed acknowledgement goes out in a NULL flit. -/
def execAckCoalesceTimeout (p : Nat) (s : State) : Res :=
  done s (if linkLive s p && (s.wport p).owe && (s.wport p).inj ≠ 2 then sendFlit s p none else s)

/-- KEEPALIVE_TIMEOUT: every VC's count is owed again, and a NULL flit goes out. -/
def execKeepaliveTimeout (p : Nat) (s : State) : Res :=
  done s (if linkLive s p then
      sendFlit (s.modWport p (fun x => { x with credOwed := x.credOwed ++ (upto 8).filter (fun v => !x.credOwed.contains v) })) p none
    else s)

/-- WENLYN_REPLAY_LIMIT: a flit has been resent REPLAY_LIMIT times. -/
def execWenlynReplayLimit (p : Nat) (s : State) : Res :=
  done s (if (s.wport p).replay.any (fun e => portF s p 0x28 48 8 ≤ e.resends) then linkDown s p 3 else s)

/-- LINK_DEAD. -/
def execLinkDead (p : Nat) (s : State) : Res := done s (if p < 18 then linkDown s p 2 else s)

/-- WENLYN_ERROR_LIMIT: more CRC failures or malformed flits than the limit within the window. -/
def execWenlynErrorLimit (p : Nat) (s : State) : Res :=
  let n (l : List Nat) : Nat := (l.filter (fun t => s.now - t ≤ errWindowNs s p)).length
  done s (if portF s p 0x28 0 16 < n (s.wport p).crcT then linkDown s p 4
    else if portF s p 0x28 16 16 < n (s.wport p).malT then linkDown s p 5
    else s)

/-- CREDIT_STARVED: a VC with flits waiting has had no credit for CREDIT_STARVE_US. -/
def execCreditStarved (p vc : Nat) (s : State) : Res :=
  done s (if !portUp s p || (look [] (s.wport p).txq vc).isEmpty || nth 0 (s.wport p).cred vc ≠ 0 then s
    else
      let s := s.raise .creditStarved p (packBits [(vc, 0, 3)])
      if s.fb (wenBase p) 4 then linkDown s p 7 else s)

/-- PARTNER_FAULT: the notice is raised, and Cinch treats the sending package as lost. -/
def execPartnerFault (p pkg : Nat) (s : State) : Res :=
  done s (if !portUp s p then s
    else
      let s := s.raise .partnerFault p (packBits [(pkg, 0, 12)])
      if (peers s).contains pkg then peerLost s else s)

/-- PEER_CLOSE: the partner's close notice. -/
def execPeerClose (p : Nat) (s : State) : Res := done s (if p < 18 then linkDown s p 8 else s)

/-- PARTNER_FAULT goes out on every UP port that is not given to Awl (R305, R407). -/
def tellPartners (s : State) : State := (upto 18).foldl (fun s p => if portCarries s p then sendVc0 s p 1 [] else s) s

/-! ## Bring-up (R290, R291) -/

/-- Lanes of a mask. -/
def lanesIn (m : Nat) : Nat := ((upto 9).filter (fun l => bitN m l)).length

/-- TRAINING_DONE: training is done on 8 or 9 lanes, given as a mask of physical lanes; lane 8 is the ninth one. With only one data lane
untrained the ninth lane carries it (log 50). -/
def execTrainingDone (p lanes : Nat) (s : State) : Res :=
  done s (if !(p < 18) || portState s p ≠ 2 || (s.wport p).paused || lanesIn lanes < 8 then s
    else
      let lost := (upto 8).find? (fun l => !bitN lanes l)
      let s := s.wr (wenBase p + 0x10) (BitVec.ofNat 64 (packBits
        [(lanes, 0, 9), (2 ^ (lost.getD 9) % 512, 9, 9), (lost.getD 0, 18, 3), (b2n lost.isSome, 21, 1), (b2n (bitN lanes 8), 22, 1)]))
      let s := setPortState (s.setWport p { WPort.reset with cred := [16, 0, 0, 0, 0, 0, 0, 0] }) p 3
      if awlIn s p 1 then s.emit (.prbs p) else sendVc0 s p 0 (helloVals s p))

/-- TRAIN_TIMEOUT: TRAIN_FAIL is raised with the lanes that have locked, and training pauses (R290, Table 11.11). -/
def execTrainTimeout (p lanes : Nat) (s : State) : Res :=
  done s (if !(p < 18) || portState s p ≠ 2 || (s.wport p).paused then s
    else
      let s := s.setF (wenBase p + 0x10) 0 9 lanes
      let s := s.raise .trainFail p (packBits [(portF s p 0x10 0 9, 0, 9)])
      s.modWport p (fun x => { x with paused := true }))

/-- TRAIN_RETRY: the pause ends. -/
def execTrainRetry (p : Nat) (s : State) : Res :=
  done s (if p < 18 && portState s p = 2 then s.modWport p (fun x => { x with paused := false }) else s)

/-- DOWN_RETRAIN: 1 ms after DOWN. -/
def execDownRetrain (p : Nat) (s : State) : Res := done s (if p < 18 && portState s p = 1 then startTraining s p else s)

/-- Whether a HELLO is accepted: another package's number, feature level 1 or more, and every field in its range (R287, R291). -/
def helloOk (s : State) (pkg port level : Nat) (credits : List Nat) (idem : Nat) (lanes : List Nat) : Bool :=
  pkg ≠ ownPkg s && pkg < 4096 && port < 18 && 1 ≤ level && level < 256 && credits.length = 8 && credits.all (fun c => c < 4096)
    && sumN credits ≤ 4096 && 16 ≤ nth 0 credits 0 && 100 ≤ idem && idem ≤ 2000 && lanes.length = 8 && lanes.all (fun l => l < 9)
    && lanes.eraseDups.length = 8

/-! ## SPDM messages (R300; log 19) -/

/-- An SPDM message goes out in VC0 flits: version, code, the bytes the manual states, and content it leaves to SPDM 1.3 and the device's
identity. What frames it in the flits is open (log 40). -/
def spdmSend (s : State) (p ver code : Nat) (stated : List Byte) : State :=
  let m := leBytes 1 ver ++ leBytes 1 code ++ stated ++ Config.spdmPayload s.freeCtr
  let s := (enqueue s p 0 (vc0Flits s p (vc0Payload 4 [m.length] ++ m))).emit (.spdm p m)
  { s with freeCtr := s.freeCtr + 1 }

/-- This end sends a request of the exchange and waits for its answer. -/
def spdmAsk (s : State) (p ver code : Nat) (stated : List Byte) : State :=
  (spdmSend s p ver code stated).modWport p (fun x => { x with spdmReq := some code })

/-- HELLO: a HELLO arrives. Accepted, it sets PEER and the credits, and the port enters AUTH, or UP when neither end requires
authentication; refused, the port trains again (R291, R300, R413). -/
def execHello (p pkg port level : Nat) (credits : List Nat) (idem : Nat) (authReq : Bool) (lanes : List Nat) (s : State) : Res :=
  done s (if !linkLive s p || portState s p ≠ 3 then s
    else if !helloOk s pkg port level credits idem lanes then startTraining s p
    else
      let s := s.wr (wenBase p + 0x48) (BitVec.ofNat 64 (packBits [(pkg, 0, 12), (port, 12, 5), (level, 17, 8)]))
      let s := s.modWport p (fun x => { x with
        peerIdem := idem
        cred := (upto 8).map (fun v => if v = 0 then nth 0 x.cred 0 + nth 0 credits 0 - 16 else nth 0 x.cred v + nth 0 credits v) })
      let own := s.fb (wenBase p) 2 && !awlIn s p 3
      if own || authReq then spdmAsk (setPortState s p 4) p 0x10 0x84 (leBytes 2 0) else setPortState s p 5)

/-- The idempotency window toward a port's partner: the smaller of the two, in µs (R291). -/
def idemWindow (s : State) (p : Nat) : Nat := min (s.f (wenPkgBase + 8) 0 12) (s.wport p).peerIdem

/-! ## Authentication, the package's end of it (R300; log 19) -/

/-- The trusted root hash (WEN.SPDM_ROOT). -/
def spdmRoot (s : State) : Nat := sumN ((upto 6).map (fun i => (s.rd (wenPkgBase + 0x10 + 8 * i)).toNat * 2 ^ (64 * i)))

/-- Authentication fails: AUTH_FAILED and AUTH_FAIL, whose step and error codes the manual does not number. -/
def authFails (s : State) (p : Nat) : State :=
  let (w, s) := s.freeWord
  setPortState (s.raise .authFail p (packBits [(w, 0, 16)])) p 6

/-- A request of the exchange is answered while VC0 flows, and noted. -/
def spdmAnswer (s : State) (p ver code : Nat) (stated : List Byte) : State :=
  if !linkLive s p || portState s p = 3 then s
  else (spdmSend s p ver code stated).modWport p (fun x => { x with spdm := insertNat x.spdm code })

/-- Whether this end waits for the answer to its request `code`. -/
def spdmWaits (s : State) (p code : Nat) : Bool := linkLive s p && (s.wport p).spdmReq = some code

/-- `n` bytes of a message at `o`, as a number. -/
def msgNat (m : List Byte) (o n : Nat) : Nat := leNat ((m.drop o).take n)

/-- The answer to this end's request `code` arrives: it must have the code `ans` and pass the check, or the partner is not authenticated.
Then the next request goes out. -/
def spdmStep (s : State) (p code ans : Nat) (m : List Byte) (ok : Bool) (next : State → State) : State :=
  if !spdmWaits s p code || portState s p ≠ 4 then s
  else if msgNat m 1 1 = ans && ok then next s
  else authFails s p

/-- SPDM_GET_VERSION: VERSION, 1.3 only. A VERSION that offers 1.3 is followed by GET_CAPABILITIES. -/
def execSpdmGetVersion (p : Nat) (resp : Option (List Byte)) (s : State) : Res :=
  done s (match resp with
    | none => spdmAnswer s p 0x10 0x04 [0#8, 0#8, 0#8, 1#8, 0x00#8, 0x13#8]
    | some m =>
      spdmStep s p 0x84 0x04 m ((upto (msgNat m 5 1)).any (fun k => msgNat m (7 + 2 * k) 1 = 0x13))
        (fun s => spdmAsk s p 0x13 0xE1 (leBytes 2 0 ++ leBytes 4 0 ++ leBytes 4 0x16)))

/-- SPDM_GET_CAPABILITIES: CERT_CAP, CHAL_CAP and MEAS_CAP with signature. -/
def execSpdmGetCapabilities (p : Nat) (resp : Option (List Byte)) (s : State) : Res :=
  done s (match resp with
    | none => spdmAnswer s p 0x13 0x61 (leBytes 2 0 ++ leBytes 4 0 ++ leBytes 4 0x16)
    | some m =>
      spdmStep s p 0xE1 0x61 m (bitN (msgNat m 8 4) 1 && bitN (msgNat m 8 4) 2 && bitsN (msgNat m 8 4) 3 2 = 2)
        (fun s => spdmAsk s p 0x13 0xE3 (leBytes 2 0 ++ leBytes 2 32 ++ leBytes 2 1 ++ leBytes 4 0x80 ++ leBytes 4 0x2)))

/-- SPDM_NEGOTIATE_ALGORITHMS: ECDSA P-384 and SHA-384 only. -/
def execSpdmNegotiateAlgorithms (p : Nat) (resp : Option (List Byte)) (s : State) : Res :=
  done s (match resp with
    | none => spdmAnswer s p 0x13 0x63 (leBytes 2 0 ++ leBytes 2 36 ++ leBytes 2 1 ++ leBytes 4 0x4 ++ leBytes 4 0x80 ++ leBytes 4 0x2)
    | some m =>
      spdmStep s p 0xE3 0x63 m (msgNat m 12 4 = 0x80 && msgNat m 16 4 = 0x2) (fun s => spdmAsk s p 0x13 0x81 (leBytes 2 0)))

/-- GET_CERTIFICATE for the part of the chain in slot 0 from the bytes received on. -/
def certAsk (s : State) (p : Nat) : State :=
  spdmAsk s p 0x13 0x82 (leBytes 2 0 ++ leBytes 2 (s.wport p).spdmCert ++ leBytes 2 0x1000)

/-- SPDM_GET_DIGESTS: the digest of slot 0. -/
def execSpdmGetDigests (p : Nat) (resp : Option (List Byte)) (s : State) : Res :=
  done s (match resp with
    | none => spdmAnswer s p 0x13 0x01 (leBytes 2 0x0100)
    | some m => spdmStep s p 0x81 0x01 m (bitN (msgNat m 3 1) 0) (fun s => certAsk s p))

/-- SPDM_GET_CERTIFICATE: a part of the chain in slot 0. After the last part the CHALLENGE goes out. -/
def execSpdmGetCertificate (p : Nat) (resp : Option (List Byte)) (s : State) : Res :=
  done s (match resp with
    | none => spdmAnswer s p 0x13 0x02 (leBytes 2 0)
    | some m =>
      spdmStep s p 0x82 0x02 m true (fun s =>
        let s := s.modWport p (fun x => { x with spdmCert := x.spdmCert + msgNat m 4 2 })
        if msgNat m 6 2 = 0 then spdmAsk s p 0x13 0x83 (leBytes 2 0) else certAsk s p))

/-- SPDM_CHALLENGE: a CHALLENGE is answered with CHALLENGE_AUTH; a received CHALLENGE_AUTH, given as the root hash of its chain and
whether its signature verifies, authenticates the partner or fails it. The measurements of an authenticated partner are asked for. -/
def execSpdmChallenge (p : Nat) (auth : Option (Nat × Bool)) (s : State) : Res :=
  done s (match auth with
    | none => spdmAnswer s p 0x13 0x03 (leBytes 2 0)
    | some (root, sig) =>
      if !spdmWaits s p 0x83 || portState s p ≠ 4 then s
      else if root = spdmRoot s && sig then spdmAsk (setPortState s p 5) p 0x13 0xE0 (leBytes 1 1 ++ leBytes 1 0xFF)
      else authFails s p)

/-- SPDM_GET_MEASUREMENTS: the signed firmware measurements; those of the partner are kept for the mailbox. -/
def execSpdmGetMeasurements (p : Nat) (resp : Option (List Byte)) (s : State) : Res :=
  done s (match resp with
    | none => spdmAnswer s p 0x13 0x60 (leBytes 2 0)
    | some m =>
      if !spdmWaits s p 0xE0 || msgNat m 1 1 ≠ 0x60 then s
      else
        let s := s.modWport p (fun x => { x with spdmReq := none })
        { s with wen := { s.wen with meas := putRaw s.wen.meas p m } })

/-- AUTH_TIMEOUT. -/
def execAuthTimeout (p : Nat) (s : State) : Res := done s (if p < 18 && portState s p = 4 then authFails s p else s)

/-! ## Lanes (R295) -/

/-- Whether the spare can take a lane over. -/
def spareFree (s : State) (p : Nat) : Bool := s.fb (wenBase p + 0x10) 22 && !s.fb (wenBase p + 0x10) 21 && !s.fb (wenBase p + 0x10) (9 + 8)

/-- Whether a physical lane carries data. -/
def laneInUse (s : State) (p l : Nat) : Bool :=
  let used := s.fb (wenBase p + 0x10) 21
  if l = 8 then used else l < 8 && !(used && s.f (wenBase p + 0x10) 18 3 = l)

/-- A lane fails: the spare is asked for on VC0, or, where it is in use or promised to another lane, the link goes down with
LANE_EXHAUSTED. -/
def laneFails (s : State) (p l : Nat) : State :=
  if !(l < 9) then s
  else
    let data := laneInUse s p l
    let s := s.setB (wenBase p + 0x10) (9 + l) true
    if !data || (s.wport p).swap = some l then s
    else if l < 8 && spareFree s p && (s.wport p).swap.isNone then
      (sendVc0 s p 3 [l]).modWport p (fun x => { x with swap := some l })
    else linkDown s p 6

/-- LOSS_OF_LOCK: lanes lose lock; two or more at once take the link down. -/
def execLossOfLock (p : Nat) (lanes : List Nat) (s : State) : Res :=
  done s (if !linkLive s p then s
    else
      let ls := (lanes.filter (fun l => l < 9 && s.fb (wenBase p + 0x10) l)).eraseDups
      let s := ls.foldl (fun s l => s.setB (wenBase p + 0x10) l false) s
      if 2 ≤ ls.length then linkDown s p 1
      else ls.foldl (fun s l => laneFails s p l) s)

/-- WENLYN_LANE_FAIL: a lane exceeds LANE_SER_LIMIT within the window. -/
def execWenlynLaneFail (p lane : Nat) (s : State) : Res := done s (if linkLive s p then laneFails s p lane else s)

/-- LANE_SWAP: the exchange ends and the lane map changes at a codeword boundary; LANE_SPARED is raised. Another lane that waited for the
spare has none, and the link goes down. -/
def execLaneSwap (p lane : Nat) (s : State) : Res :=
  done s (if !linkLive s p || !(lane < 8) || !spareFree s p then s
    else
      let lost := (s.wport p).swap.any (fun l => l ≠ lane)
      let s := ((s.setF (wenBase p + 0x10) 18 3 lane).setF (wenBase p + 0x10) 21 1 1).modWport p (fun x => { x with swap := none })
      let s := s.raise .wenLaneSpared p (packBits [(lane, 0, 4), (lane, 4, 3)])
      if lost then linkDown s p 6 else s)

/-! ## Requests at the hub (R289, R298, R299, R301, R317) -/

/-- READ: executed in the owning slice. -/
def execRead (i : Nat) (s : State) : Res :=
  done s (match inTake s i 0x01 with
    | none => s
    | some (p, r, s) =>
      let a := r.arg % 2 ^ 48
      let n := readLen r
      if !remoteWin s r.src 1 a n then answerOn (admitDrop s p r) p r rcDenied 0 []
      else
        let t := hbmTouch s hintNormal a n
        if poisoned s a n then answerOn t p r rcPoisoned 0 [] else answerOn t p r rcOk 0 (s.bytes a n))

/-- WRITE: committed at EOM. -/
def execWrite (i : Nat) (s : State) : Res :=
  done s (match inTake s i 0x02 with
    | none => s
    | some (p, r, s) =>
      let a := r.arg % 2 ^ 48
      let n := r.data.length
      if n = 0 || 4096 < n then answerOn s p r rcMalformed 0 []
      else if !remoteWin s r.src 2 a n then answerOn (admitDrop s p r) p r rcDenied 0 []
      else
        let t := hbmWrite s hintNormal a r.data
        answerOn t p r (if t.memBad then rcPoisoned else rcOk) 0 [])

/-- ATOMIC: performed in the owning slice, answered with the old value. The comparand of a CAS comes before the new value. -/
def execAtomic (i : Nat) (s : State) : Res :=
  done s (match inTake s i 0x03 with
    | none => s
    | some (p, r, s) =>
      let a := r.arg % 2 ^ 48
      let code := r.flags % 16
      let w := atWidth code
      let need := if code = 8 then 16 else if code = 7 then 8 else 4
      if 8 < code then answerOn s p r rcUnsupported 0 []
      else if r.data.length ≠ need || a % w ≠ 0 then answerOn s p r rcMalformed 0 []
      else if !remoteWin s r.src 3 a w then answerOn (admitDrop s p r) p r rcDenied 0 []
      else if poisoned s a w then answerOn s p r rcPoisoned 0 []
      else
        let cas := 7 ≤ code
        let cmp := if cas then leNat (r.data.take w) else 0
        let x := if cas then leNat ((r.data.drop w).take w) else leNat (r.data.take w)
        let (t, old, _) := s.atomicAt hintNormal code a x cmp
        answerOn t p r rcOk 0 (leBytes w old))

/-! ## Responses and timeouts (R297, R299, R410, R411) -/

/-- Latency statistics of an Awl port (or of slot 18): minimum, maximum, sum, count and histogram (R411). -/
def addLatency (s : State) (b l : Nat) : State :=
  let n := (s.rd (b + 0x58)).toNat
  let s := if n = 0 || l < (s.rd (b + 0x40)).toNat then s.wr (b + 0x40) (BitVec.ofNat 64 l) else s
  let s := if (s.rd (b + 0x48)).toNat < l then s.wr (b + 0x48) (BitVec.ofNat 64 l) else s
  let s := (s.addCtr (b + 0x50) l).addCtr (b + 0x58) 1
  let k := min ((l - s.f (b + 0x20) 0 16) / max 1 (s.f (b + 0x20) 16 8)) 63
  s.satF (b + 0x100 + 8 * (k / 2)) (32 * (k % 2)) 32 1

/-- Differing bytes of two strings. -/
def diffBytes (a b : List Byte) : Nat := ((a.zip b).filter (fun p => p.1 ≠ p.2)).length

/-- What a response does for the request it answers. One answered DENIED ends with REMOTE_DENIED (R307). -/
def outAnswered (s : State) (o : WOut) (r : WReq) (spells : Option NetMsg) : Option State :=
  let s := if r.code = rcDenied then s.emit (.remoteEnd o.req.dst o.req.tag stRemoteDenied) else s
  match o.org with
  | .chan m =>
    if r.code ≠ 0 then some (unreachReply s m)
    else if (netKeys m.body).isEmpty then some s
    else match spells with
      | none => none
      | some y =>
        if !y.up && y.ch = m.ch && y.rq = m.rq && (netKeys y.body).any (fun k => (netKeys m.body).head? = some k) then some (onPackage s y)
        else none
  | .cinch => some (if r.code = 0 then s else peerLost s)
  | .shadow base copy _ =>
    some (if r.code = 0 then s
      else if r.code = rcBusy && (snapOf s base).isSome then
        failSnap (s.raise .snapSkipped 0 (packBits [(base, 0, 48), (copy, 48, 2)])) base
      else failSnap s base)
  | .snapAck => some s
  | .restore cmd => some (restoreGot s cmd r.code r.data)
  | .awl p =>
    let b := awlBase p
    let s := addLatency s b (s.now - o.at_)
    some (if o.req.op = 1 then s.addCtr (b + 0x60) (diffBytes r.data (patBytes s b r.data.length)) else s)

/-- RESP: the first response completes its request; another one with the pair is discarded and counted. -/
def execResp (i : Nat) (spells : Option NetMsg) (s : State) : Res :=
  done s (match inTake s i 0x80 with
    | none => s
    | some (p, r, t) =>
      match t.wen.outs.find? (fun o => o.req.tag = r.tag && o.req.reqId = r.reqId) with
      | none => awlCheck (t.addCtr (wenBase p + 0xA8) 1) p 10 0 (packBits [(r.src, 0, 12), (ownPkg s, 12, 12), (r.tag, 24, 14), (r.reqId, 38, 26)])
      | some o =>
        (outAnswered { t with wen := { t.wen with outs := t.wen.outs.filter (fun y => y ≠ o) } } o r spells).getD s)

/-- REMOTE_TIMEOUT: a request has had no response for REQ_TIMEOUT_US. -/
def execRemoteTimeout (tag reqId : Nat) (s : State) : Res :=
  done s (match s.wen.outs.find? (fun o => o.req.tag = tag && o.req.reqId = reqId && o.sent) with
    | none => s
    | some o => failOut s o stRemoteTimeout)

/-- IDEM_EXPIRE: an entry expires, and requests kept back go on. -/
def execIdemExpire (pkg reqId : Nat) (s : State) : Res :=
  let t : State := { s with wen := { s.wen with idem := s.wen.idem.filter (fun e => !(e.1 = pkg && e.2.1 = reqId)) } }
  done s ((upto 18).foldl (fun s p => unstick 4096 s p) t)

end Sys2Proof.Machine
end

