-- ==== Sys2Proof/Machine/Memory.lean ====
section
/-! DEFINITION. Requests at the cache slices, failing rows, repair and retirement, and scrub (spec/12 R311-R326). -/

namespace Sys2Proof.Machine

/-! ## Hold entries (R322, Table 12.7) -/

def rHoldEnt (d h : Nat) : Nat := mcBase d + 0x2000 + 8 * h
def holdValid (s : State) (d h : Nat) : Bool := s.fb (rHoldEnt d h) 26
/-- Row of a hold entry: pseudo-channel, bank slot, row. -/
def holdRow (s : State) (d h : Nat) : Nat × Nat × Nat := (s.f (rHoldEnt d h) 0 6, s.f (rHoldEnt d h) 6 6, s.f (rHoldEnt d h) 12 14)

/-- MC.STATUS.HOLD_USED follows the entries. -/
def holdUsed (s : State) (d : Nat) : State := s.setF (mcBase d) 8 5 ((upto 16).filter (fun h => holdValid s d h)).length

/-- Page that a row belongs to (R310). -/
def pageOfRow (slot row : Nat) : Nat := 48 * row + slot

/-- Repair resources a bank still has (R323; log 14). -/
def resourcesLeft (s : State) (d pch slot : Nat) : Nat :=
  Config.repairResources d pch slot - ((s.die d).repaired.filter (fun r => r.1 = pch && r.2.1 = slot)).length

/-! ## Retirement (R324-R326) -/

def rRetire (d i : Nat) : Nat := mcBase d + 0x4000 + 8 * i

/-- A page is retired in the first free RETIRE entry; with none free RETIRE_FULL is raised. -/
def retirePage (s : State) (d page cause : Nat) : State :=
  if (retiredPages s d).contains page then s
  else match (upto 512).find? (fun i => !s.fb (rRetire d i) 20) with
    | none => s.raise .retireFull d (packBits [(page, 0, 20)])
    | some i =>
      let s := s.wr (rRetire d i) (BitVec.ofNat 64 (packBits [(page, 0, 20), (1, 20, 1), (cause, 21, 3), (s.now / 2 ^ 24, 24, 40)]))
      let s := s.setF (mcBase d) 16 10 (s.f (mcBase d) 16 10 + 1)
      s.raise .pageRetired d (packBits [(page, 0, 20), (cause, 20, 3)])

/-- Whether a row is failing: a read of it was uncorrectable, or its corrected errors have reached ROW_CE_LIMIT within the window (R322). -/
def rowFails (s : State) (d : Nat) (r : Nat × Nat × Nat) : Bool :=
  (s.die d).rowUe.contains r
    || s.f (mcBase d + 8) 0 16 ≤ ((s.die d).rowCe.filter (fun e => e.1 = r && s.now - e.2 ≤ rowWindow s d)).length

/-- ROW_CE_LIMIT: a failing row is held or its page retired (R322, R324). -/
def execRowCeLimit (d pch slot row : Nat) (s : State) : Res :=
  let page := pageOfRow slot row
  let isHeld := (upto 16).any (fun h => holdValid s d h && holdRow s d h = (pch, slot, row))
  done s (if 8 ≤ d || 64 ≤ pch || 48 ≤ slot || 16384 ≤ row || isHeld || (retiredPages s d).contains page
        || !rowFails s d (pch, slot, row) then s
    else
      let s := s.modDie d (fun x => { x with
        rowUe := x.rowUe.filter (fun r => r ≠ (pch, slot, row)), rowCe := x.rowCe.filter (fun e => e.1 ≠ (pch, slot, row)) })
      let before := (s.die d).repaired.contains (pch, slot, row)
      let gone := before && resourcesLeft s d pch slot = 0
      let free := (upto 16).find? (fun h => !holdValid s d h)
      let hold := s.fb (mcBase d + 8) 32 && free.isSome && !gone
      let s := s.raise .rowFail d (packBits [(row, 0, 14), (slot, 14, 6), (pch, 20, 6), (b2n hold, 26, 1)])
      if gone then retirePage s d page 1
      else match free with
        | none => retirePage s d page 2
        | some h =>
          if !hold then s
          else
            let s := s.wr (rHoldEnt d h) (BitVec.ofNat 64 (packBits
              [(pch, 0, 6), (slot, 6, 6), (row, 12, 14), (1, 26, 1), (b2n before, 27, 1)]))
            holdUsed (s.modDie d (fun x => { x with copying := x.copying ++ [h] })) d)

/-- ROW_HOLD_COPY_DONE: the row's 1 KiB is in the entry, which serves every access to the row from now on; the lines its reads found
uncorrectable are poisoned (R322). -/
def execRowHoldCopyDone (d h : Nat) (ecc : List EccEvent) (s : State) : Res :=
  done s (if !(s.die d).copying.contains h then s
    else
      let bad := ecc.filter (fun e => e.space = 0 && 2 ≤ e.bits && dieOfAddr e.addr = d && rowAt e.addr = holdRow s d h)
      let s := s.modDie d (fun x => { x with copying := x.copying.filter (fun y => y ≠ h) })
      bad.foldl (fun s e => poisonAt s e.addr) s)

/-- hPPR at a die reset: each held row whose bank has a resource is repaired, and the page of another one is retired; every entry is freed
(R323). -/
def repairRows (s : State) (d : Nat) : State :=
  let s := (upto 16).foldl (fun s h =>
    if !holdValid s d h then s
    else
      let r := holdRow s d h
      let s1 := s.wr (rHoldEnt d h) 0#64
      if 0 < resourcesLeft s d r.1 r.2.1 then
        let s2 := s1.modDie d (fun x => { x with repaired := x.repaired ++ [r] })
        (s2.addCtr (mcBase d + 0x48) 1).raise .rowRepaired d (packBits [(r.2.2, 0, 14), (r.2.1, 14, 6), (r.1, 20, 6)])
      else retirePage s1 d (pageOfRow r.2.1 r.2.2) 1) s
  holdUsed (s.modDie d (fun x => { x with copying := [] })) d

/-- A request that misses the slice while its row is being copied into a hold entry waits for the copy: it is served once that has ended
(R322; log 122). -/
def afterCopy (s : State) (l : Nat) : State :=
  if s.lines.any (fun c => c.line = l) then s
  else s.modDie (lineDie l) (fun x => { x with copying := x.copying.filter (fun h => holdRow s (lineDie l) h ≠ rowAt (64 * l)) })

/-! ## Scrub (R321) -/

/-- Lines of a stack. -/
def stackLines : Nat := stackBytes / 64

/-- SCRUB_STEP: the pass reads its next line, corrects what it finds and writes the line back. -/
def execScrubStep (d : Nat) (ecc : List EccEvent) (s : State) : Res :=
  done s (if 8 ≤ d || !s.fb (mcBase d + 0x10) 0 || !s.fb (mcBase d) 0 then s
    else
      let l := (s.die d).scrub
      let a := d * stackBytes + 64 * l
      let s := (ecc.filter (fun e => e.addr / 64 = a / 64 && e.space = 0)).foldl (fun s e => (lineEcc s 0 e).1) s
      let last := l + 1 = stackLines
      let s := s.modDie d (fun x => { x with scrub := if last then 0 else l + 1 })
      let s := s.setF (mcBase d) 2 1 (b2n !last)
      if last then s.addCtr (mcBase d + 0x40) 1 else s)

/-! ## Requests at a slice (R312, R314, R317, R320) -/

/-- ECC events met by a request at its line, once its row's copy has ended. -/
def requestEcc (s : State) (a : Nat) (ecc : List EccEvent) : State :=
  (ecc.filter (fun e => e.addr / 64 = a / 64)).foldl (fun s e => (lineEcc s 0 e).1) (afterCopy s (a / 64))

/-- A line the controller corrected for a request is written back to the slice (R319). -/
def requestFix (s : State) (a : Nat) (ecc : List EccEvent) : State :=
  if ecc.any (fun e => e.addr / 64 = a / 64 && e.space = 0 && e.bits = 1) then fixLine s (a / 64) else s

/-- SLICE_REQUEST: a read or write of at most 64 bytes in one line, under a hint. A poisoned line gives no data. An address outside HBM
belongs to no slice, and none receives the request (R310, R311). -/
def execSliceRequest (op : MemOp) (addr len hint : Nat) (data : List Byte) (ecc : List EccEvent) (s : State) : Res :=
  if hbmTop < addr + len || len = 0 || 64 < addr % 64 + len || 3 < hint then done s s
  else
    if !(lineDomains s (addr / 64)).all (fun p => domOn s p.1 p.2) then done s (needOn s (lineDomains s (addr / 64)) (fun s => s))
    else match op with
    | .read =>
      let t := requestFix (lineRead (requestEcc s addr ecc) (addr / 64) hint) addr ecc
      let bad := poisoned t addr len
      done s (t.emit (.memData bad (if bad then [] else s.bytes addr len)))
    | .write =>
      if data.length ≠ len then done s s
      else
        let t := requestEcc s addr ecc
        let u := hbmWrite t hint addr data
        done s (if poisoned u addr len then u.emit (.memData true []) else u)
    | .atomic _ => done s s

/-- SLICE_ATOMIC: one of Table 12.2 on a naturally aligned element, with the old value returned; a misaligned one fails. -/
def execSliceAtomic (code addr operand compare : Nat) (ecc : List EccEvent) (s : State) : Res :=
  let w := atWidth code
  if hbmTop < addr + w || 10 < code || addr % w ≠ 0 then done s s
  else if !(lineDomains s (addr / 64)).all (fun p => domOn s p.1 p.2) then done s (needOn s (lineDomains s (addr / 64)) (fun s => s))
  else
    let t := requestFix (requestEcc s addr ecc) addr ecc
    if poisoned t addr w then done s (t.emit (.memData true []))
    else
      let r := t.atomicAt hintNormal code addr operand compare
      done s (r.1.emit (.memData false (leBytes w r.2.1)))

end Sys2Proof.Machine
end

