-- ==== Sys2Proof/Machine/Cancel.lean ====
section
/-! DEFINITION. Cancelling operations and resetting a core (spec/13 R343, R345; spec/14 R364; spec/07 R214). -/

namespace Sys2Proof.Machine

/-- A TOD that was never issued completes with CANCELLED; it is in no list of operations. -/
def cancelTod (s : State) (sl q : Nat) : State :=
  let o := newOp s sl q (frontTod s sl q)
  let s := takeTod s sl q
  if cplFull s sl q then
    s.modCore sl (fun c => { c with ops := c.ops ++ [{ o with stage := OpStage.recordHeld, res := OpRes.ofStatus stCancelled }] })
  else writeRecord s sl o (Rec.plain stCancelled)

/-- Every TOD waiting in a queue completes with CANCELLED. -/
def cancelRing : Nat → State → Nat → Nat → State
  | 0, s, _, _ => s
  | n + 1, s, sl, q => if hdrW s sl q 0 = hdrW s sl q 1 then s else cancelRing n (cancelTod s sl q) sl q

/-- A CHANNEL_OPEN that waits is cancelled: its channel is CLOSED, and the queue is told (log 52). -/
def cancelOpen (s : State) (sl : Nat) (o : Op) : State :=
  let c := sendChan o.tod
  let s := finishWith s sl o stCancelled
  if chanState s sl c = 1 then enterClosed (s.setChan sl c Chan.reset) sl c false else s

/-- Cancel an operation by its stage of progress (R345). An operation that has started stops at the end of its current write unit; which
one that is stays open (log 22). -/
def cancelOp (s : State) (sl : Nat) (o : Op) : State :=
  match o.stage with
  | .recordHeld => s
  | .issued => finishWith s sl o stCancelled
  | .running =>
    if o.opc = 0x28 then cancelSend s sl o
    else if o.opc = 0x38 then acqCancel s sl o
    else if o.opc = 0x2A then cancelOpen s sl o
    else if o.opc = 0x40 then finishWith (s.modCore sl (fun c => { c with kernel := none })) sl o stCancelled
    else if o.opc ≤ 3 then complete s sl o { o.res with status := stCancelled, stats := none, tail := [] }
    else finishWith { s with kvWait := s.kvWait.filter (fun w => w.2 ≠ (sl, o.tag)) } sl o stCancelled
  | .finishing =>
    if o.opc = 0x38 then acqCancel s sl o
    else if o.opc ≤ 4 then complete s sl o { o.res with status := stCancelled, stats := none, tail := [] }
    else
      let (s, r) := cutUnits s o.res stCancelled
      complete (if o.opc = 0x12 || o.opc = 0x13 then unlockKv s o else s) sl o r

/-- Whether an operation holds the LOCK of an allocator whose header line is in die `d` (R190). -/
def lockHeldIn (s : State) (d : Nat) : Bool :=
  s.cores.any (fun c => c.2.ops.any (fun o => nth 0 o.aux 3 = 1 && o.stage = .finishing && (o.opc = 0x12 || o.opc = 0x13)
    && dieOfAddr (kvaOf o.tod) = d))

/-- Allocator steps of a core that can no longer deliver a completion end in their slice, and their completions are discarded (R190). -/
def orphanSteps (s : State) (sl : Nat) : State :=
  ((s.core sl).ops.filter (fun o => nth 0 o.aux 3 = 1 && (o.opc = 0x12 || o.opc = 0x13) && o.stage = .finishing)).foldl (fun s o =>
    (unlockKv s o).modCore sl (fun c => { c with ops := c.ops.filter (fun x => x.tag ≠ o.tag) })) s

/-- Cancel every operation in flight of a core that satisfies a test, oldest first. -/
def cancelOps (s : State) (sl : Nat) (p : Op → Bool) : State :=
  settle (((s.core sl).ops.filter p).foldl (fun s o => match opOf s sl o.tag with | some o => cancelOp s sl o | none => s) s) sl

/-- Cancel every operation of a client's contexts on a core (R345). -/
def cancelClient (s : State) (sl f : Nat) : State :=
  let s := cancelOps s sl (fun o => clientOf o.ctx = f)
  (upto 4).foldl (fun s q => if qEn s sl q && clientOf (qCtx s sl q) = f then cancelRing 2097152 s sl q else s) s

/-- Every accumulator slot EMPTY. -/
def emptyAcc (s : State) (sl : Nat) : State := s.modCore sl (fun c => { c with acc := [], tags := [] })

/-- Streams of a core go to zero. -/
def zeroStreams (s : State) (sl : Nat) : State := s.resetRange (rRngKey sl 0) (rRngKey sl 16)

/-- Scrub of a core (R343): scratchpad zero, slots EMPTY, streams and event counters zero. -/
def scrubCore (s : State) (sl : Nat) : State :=
  let lo := spadA sl
  let s : State := { s with
    mem := s.mem.filter (fun c => !(lo ≤ c.1 && c.1 < lo + 2 ^ 24))
    poisonW := s.poisonW.filter (fun w => !(lo / 8 ≤ w && w < (lo + 2 ^ 24) / 8)) }
  (zeroStreams (emptyAcc s sl) sl).resetRange (rEvent sl 0) (rEvent sl 16)

/-- Close every enabled receive queue of a core that satisfies a test, as R213 states. -/
def closeRqs (s : State) (sl : Nat) (p : Nat → Bool) : State :=
  (upto 16).foldl (fun s r => if rqEn s sl r && p r then closeRq (s.setF (rRq sl r 0) 0 1 0) sl r else s) s

/-- CORE_CTL RESET, and the block reset of a core slot: every operation is cancelled, and queues, channels, receive queues, slots and streams
return to their reset state, every stash record is discarded, and so are held lower halves of its registers (R11, R155, R214, R345, R364,
Table 7.4). -/
def resetCore (s : State) (sl : Nat) : State :=
  let s := resetSender s sl (fun _ => true)
  let s := ((s.core sl).ops.filter (fun o => o.opc = 0x28 && o.live)).foldl (fun s o => finishWith s sl o stCancelled) s
  let s := cancelOps s sl (fun _ => true)
  let s := (upto 4).foldl (fun s q => if qEn s sl q then cancelRing 2097152 s sl q else s) s
  let s := closeRqs s sl (fun _ => true)
  let b := slotBase sl
  let s := ((s.resetRange (b + 0x400) (b + 0x700)).resetRange (b + 0x900) (b + 0x1508)).resetRange (b + 0x1800) (b + 0x1C00)
  let s := (stashClear s sl).forget b (b + 0x10000)
  nanHaltedBit (s.modCore sl (fun c => { c with
    ops := [], rr := 3, acc := [], tags := [], kernel := none, bindCtx := [], rqs := c.rqs.map (fun p => (p.1, p.2.closed)), chans := [], stopIssue := false, drainQ := [] })) sl

end Sys2Proof.Machine
end

