-- ==== Sys2Proof/Machine/HostRing.lean ====
section
/-! DEFINITION. Host queues: doorbells, fetching of submission entries, the start of commands and their completion entries (spec/13
R331-R339). -/

namespace Sys2Proof.Machine

/-! ## Queue registers (Tables 13.9, 13.10) -/

def rQ (q o : Nat) : Nat := engineBase + 0x40 * q + o
def hqEn (s : State) (q : Nat) : Bool := s.fb (rQ q 0x10) 0
def hqSq (s : State) (q : Nat) : Nat := 2 ^ s.f (rQ q 0x10) 1 5
def hqCq (s : State) (q : Nat) : Nat := 2 ^ s.f (rQ q 0x10) 6 5
def hqFunc (s : State) (q : Nat) : Nat := s.f (rQ q 0x10) 16 7
def hqHead (s : State) (q : Nat) : Nat := s.f (rQ q 0x18) 0 32
def hqHalted (s : State) (q : Nat) : Bool := s.fb (rQ q 0x18) 32
def hqTail (s : State) (q : Nat) : Nat := s.f (rQ q 0x20) 0 32
def hqCqHead (s : State) (q : Nat) : Nat := s.f (rQ q 0x20) 32 32
def hqCqTail (s : State) (q : Nat) : Nat := s.f (rQ q 0x28) 0 32

def clientEn (s : State) (f : Nat) : Bool := s.fb (clientBase f) 0
def taskMode (s : State) (f : Nat) : Bool := s.fb (clientBase f) 1
def clientPrio (s : State) (f : Nat) : Nat := s.f (clientBase f) 2 2
def saveSlots (s : State) (f : Nat) : Nat := s.f (clientBase f) 8 8

/-- Queues of a client, in increasing number (R333). -/
def funcQueues (s : State) (f : Nat) : List Nat := (upto 4096).filter (fun q => hqFunc s q = f)

/-- The queue whose doorbell page a function sees at place `i` (R334). -/
def queueAt (s : State) (f i : Nat) : Option Nat :=
  if f = 0 then (if i < 4096 then some i else none)
  else if i < 16 && f ≤ 64 then (funcQueues s f)[i]? else none

/-- The number of a queue as its function numbers it (Table 13.4). -/
def sqId (s : State) (q : Nat) : Nat := if hqFunc s q = 0 then q else ((funcQueues s (hqFunc s q)).filter (fun x => x < q)).length

def State.modHost (s : State) (f : HostIf → HostIf) : State := { s with host := f s.host }

/-- The host reaches a VF only while VF Enable is set, which it sets in configuration space: an access of a VF shows that it is (R352;
log 15). -/
def vfSeen (s : State) (f : Nat) : State := if 1 ≤ f && f ≤ 63 then s.modHost (fun h => { h with vfEnable := true }) else s

/-! ## Fields of a submission entry (Table 13.2) -/

/-- Field [lsb + w - 1 : lsb] of the bytes from `b`. -/
def eF (e b lsb w : Nat) : Nat := bitsN e (8 * b + lsb) w
def eOpc (e : Nat) : Nat := eF e 0 0 8
def eFence (e : Nat) : Bool := bitN e 8
def eQuiet (e : Nat) : Bool := bitN e 9
def eCmdId (e : Nat) : Nat := eF e 2 0 16

/-! ## Completion entries (R338, Table 13.4) -/

def cqFull (s : State) (q : Nat) : Bool := subMod 32 (hqCqTail s q) (hqCqHead s q) = hqCq s q

/-- Messages: one once COAL_CNT entries are pending (R338). -/
def coalNote (s : State) (q : Nat) : State :=
  let n := look 0 s.host.coal q + 1
  if s.f (rQ q 0x10) 43 8 ≤ n then
    (s.modHost (fun h => { h with coal := put 0 h.coal q 0 })).sendMsix (hqFunc s q) (s.f (rQ q 0x10) 32 11)
  else s.modHost (fun h => { h with coal := put 0 h.coal q n })

/-- SEG_DONE: the segments that completed with OK. -/
def segDone (c : HCmd) : Nat := sumN ((c.segRes.filter (fun p => p.2 = 0)).map (fun p => 2 ^ p.1))

/-- The 32 bytes of a completion entry. -/
def cplEntry (s : State) (c : HCmd) : List Byte :=
  let t := hqCqTail s c.q
  leBytes 2 (eCmdId c.ent) ++ leBytes 2 (sqId s c.q) ++ leBytes 2 c.status ++ leBytes 1 (b2n (t / hqCq s c.q % 2 = 0)) ++ leBytes 1 c.segs
    ++ leBytes 8 (segDone c) ++ leBytes 8 c.prefix_ ++ leBytes 4 (hqHead s c.q) ++ leBytes 4 c.detail

/-- The completion entry of a command that is over is written, its client is charged, and the command is gone (R338, R349). -/
def writeCpl (s : State) (c : HCmd) : State :=
  let quiet := eQuiet c.ent && c.status = stOK
  let s :=
    if quiet then s
    else
      let t := hqCqTail s c.q
      let s := hostWrite s ((s.rd (rQ c.q 8)).toNat + 32 * (t % hqCq s c.q)) (cplEntry s c)
      coalNote (s.setF (rQ c.q 0x28) 0 32 (t + 1)) c.q
  let s := account s c.f (s.now - c.start) c.hbm c.link 0
  s.modHost (fun h => { h with cmds := h.cmds.filter (fun x => x.id ≠ c.id), runs := h.runs.filter (fun r => r.cmd ≠ c.id) })

/-- Commands of a queue that hold their entry. -/
def heldCmds (s : State) (q : Nat) : List HCmd := s.host.cmds.filter (fun c => c.q = q && c.stage = 3)

/-- Held entries are written while there is room, oldest first. -/
def releaseCpl : Nat → State → Nat → State
  | 0, s, _ => s
  | n + 1, s, q =>
    match heldCmds s q with
    | [] => s
    | c :: _ => if cqFull s q then s else releaseCpl n (writeCpl s c) q

/-! ## Fetching (R334-R336) -/

/-- HOST_DMA is raised for a host access that failed: kind 0 ring, 1 data, 2 completion (Table 13.11). -/
def raiseDma (s : State) (q kind a : Nat) : State := s.raise .hostDma 0 (packBits [(q, 0, 12), (kind, 12, 2), (a, 14, 50)])

/-- A queue halts for a cause (R334, Table 13.10). -/
def haltQueue (s : State) (q cause : Nat) : State := (s.setF (rQ q 0x18) 32 1 1).setF (rQ q 0x18) 33 2 cause

/-- Fetch entries up to SQ_TAIL, each whole; `fail` is the number of entries read before a host access fails (log 3). -/
def fetch : Nat → State → Nat → Option Nat → State
  | 0, s, _, _ => s
  | n + 1, s, q, fail =>
    if !hqEn s q || hqHalted s q || frozen s || hqHead s q = hqTail s q || !(heldCmds s q).isEmpty then s
    else
      let a := (s.rd (rQ q 0)).toNat + 64 * (hqHead s q % hqSq s q)
      match fail with
      | some 0 => haltQueue (raiseDma s q 0 a) q 2
      | _ =>
        let c : HCmd := { id := s.host.nextCmd, q := q, f := hqFunc s q, ent := s.num (hostA a) 64, stage := 0, start := s.now, status := 0
                          segs := 0, segRes := [], prefix_ := 0, detail := 0, hbm := 0, link := 0 }
        let s := s.modHost (fun h => { h with cmds := h.cmds ++ [c], nextCmd := h.nextCmd + 1 })
        fetch n (s.setF (rQ q 0x18) 0 32 (hqHead s q + 1)) q (fail.map (fun k => k - 1))

/-- R334: more entries than the ring holds halt the queue. -/
def sqOverrun (s : State) (q : Nat) : State :=
  if hqEn s q && !hqHalted s q && hqSq s q < subMod 32 (hqTail s q) (hqHead s q) then
    (haltQueue s q 1).raise .queueOverrun 0 (packBits [(q, 0, 12), (hqTail s q, 12, 32)])
  else s

/-- SQ_DOORBELL: the tail is recorded, the firmware woken, and the entries are read (R334, R335). -/
def execSqDoorbell (f i : Nat) (tail : Word32) (fail : Option Nat) (s : State) : Res :=
  done s (match queueAt s f i with
    | none => s
    | some q => fetch 65536 (sqOverrun (((vfSeen s f).setF (rQ q 0x20) 0 32 tail.toNat).emit (.wake q)) q) q fail)

/-- CQ_DOORBELL: completion slots are freed, held completions are released, and fetching goes on (R338). -/
def execCqDoorbell (f i : Nat) (head : Word32) (s : State) : Res :=
  done s (match queueAt s f i with
    | none => s
    | some q => fetch 65536 (releaseCpl 65536 ((vfSeen s f).setF (rQ q 0x20) 32 32 head.toNat) q) q none)

/-- QSTATUS.HALTED has been cleared by a write of 1: held entries are written and the queue goes on at SQ_HEAD (R334; log 58). -/
def hostResume (s : State) (q : Nat) : State := fetch 65536 (releaseCpl 65536 (sqOverrun (s.setF (rQ q 0x18) 33 2 0) q) q) q none

/-- QCFG.EN has been set: SQ_HEAD and CQ_TAIL come from the doorbell words (R354). -/
def qcfgHook (s : State) (q : Nat) (old : Word) : State :=
  if fld old 0 1 = 0 && hqEn s q then (s.setF (rQ q 0x18) 0 32 (hqTail s q)).setF (rQ q 0x28) 0 32 (hqCqHead s q) else s

/-- COAL_TIMEOUT: COAL_US has passed since the first pending entry (R338; log 3). -/
def execCoalTimeout (q : Nat) (s : State) : Res :=
  done s (if look 0 s.host.coal q = 0 || s.f (rQ q 0x10) 51 8 = 0 then s
    else (s.modHost (fun h => { h with coal := put 0 h.coal q 0 })).sendMsix (hqFunc s q) (s.f (rQ q 0x10) 32 11))

/-! ## Start of commands (R336, R337) -/

/-- Update a command. -/
def setCmd (s : State) (c : HCmd) : State := s.modHost (fun h => { h with cmds := h.cmds.map (fun x => if x.id = c.id then c else x) })

/-- A command is over with a status. -/
def overCmd (s : State) (c : HCmd) (st : Nat) : State := setCmd s { c with stage := 2, status := st }

/-- The kinds of command by opcode (Table 13.3), SHADOW by its COMMAND. -/
inductive CmdKind where
  | task | opqWrite | copy | coreCtl (action : Nat) | acct | shadow (code : Nat) | unknown
  deriving DecidableEq, Repr

def cmdKind (e : Nat) : CmdKind :=
  match eOpc e with
  | 0x01 => .task
  | 0x02 => .opqWrite
  | 0x03 => .copy
  | 0x04 => .coreCtl (eF e 10 0 8)
  | 0x05 => .acct
  | 0x10 => .shadow (eF e 8 0 8)
  | _ => .unknown

/-- Bits of an entry that are not reserved: FENCE, QUIET, CMD_ID, and the fields of the body. -/
def cmdMask (e : Nat) : Nat :=
  let common := bm 0 0 10 + bm 2 0 16
  let todBody := bm 8 0 64 + bm 16 0 32 + bm 24 0 48 + bm 32 0 16
  match cmdKind e with
  | .task => common + todBody
  | .opqWrite => common + todBody + bm 20 0 16 + bm 22 0 3
  | .copy => common + bm 8 0 64 + bm 16 0 48 + bm 24 0 64 + bm 32 0 8 + bm 40 0 48
  | .coreCtl _ => common + bm 8 0 16 + bm 10 0 8 + bm 11 0 2
  | .acct => common + bm 8 0 64 + bm 16 0 8
  | .shadow c => common + bm 8 0 8 + (if 1 ≤ c && c ≤ 3 then bm 16 0 16 else 0)
  | .unknown => 0

/-- Whether the TOD fields of a body are legal. -/
def todBodyOk (e : Nat) : Bool := eF e 8 0 64 % 64 = 0 && 1 ≤ eF e 16 0 32 && eF e 16 0 32 ≤ 2 ^ 20 && eF e 24 0 48 % 64 = 0

/-- Whether a command's opcode, reserved bits and fields are legal (R337). -/
def cmdOk (e : Nat) : Bool :=
  e &&& cmdMask e = e &&
  (match cmdKind e with
    | .task => todBodyOk e
    | .opqWrite => todBodyOk e && eF e 20 0 16 < 256
    | .copy => 64 ≤ eF e 24 0 64 && eF e 24 0 64 ≤ 2 ^ 36 && eF e 24 0 64 % 64 = 0 && eF e 32 0 8 ≤ 2
    | .coreCtl a => a ≤ 2 && eF e 8 0 16 < 256
    | .acct => eF e 8 0 64 % 64 = 0 && eF e 16 0 8 ≤ 64
    | .shadow c => 1 ≤ c && c ≤ 4
    | .unknown => false)

/-- Whether Table 13.3 permits a command to a client, and the client is enabled. -/
def cmdPermitted (s : State) (f e : Nat) : Bool :=
  clientEn s f && (match cmdKind e with
    | .task => taskMode s f
    | .shadow _ => f = 0
    | _ => true)

/-- Whether a command names a unit that is not built in: the Shadow engine, or a core (R3). -/
def unitMissing (s : State) (e : Nat) : Bool :=
  match cmdKind e with
  | .shadow _ => !upmBit s 47
  | .opqWrite => !coreBuilt s (eF e 20 0 16)
  | .coreCtl _ => !coreBuilt s (eF e 8 0 16)
  | _ => false

/-- Whether a legal command waits for the die of the core it names to be READY (R401). -/
def waitsDie (s : State) (e : Nat) : Bool :=
  cmdOk e && !unitMissing s e && (match cmdKind e with
    | .opqWrite => !dieReady s (eF e 20 0 16 / 32)
    | .coreCtl _ => !dieReady s (eF e 8 0 16 / 32)
    | _ => false)

/-- The command of a queue that starts next: the first that waits, unless a FENCE or a die that is not READY holds it back. A command whose
entry is held has not completed (R336, R338, R401; log 123). -/
def frontCmd (s : State) (q : Nat) : Option HCmd :=
  match s.host.cmds.find? (fun c => c.q = q && c.stage = 0) with
  | none => none
  | some c => if (eFence c.ent && s.host.cmds.any (fun x => x.q = q && x.id < c.id)) || waitsDie s c.ent then none else some c

/-- Queues with a command that can start. -/
def readyQueues (s : State) : List Nat := ((s.host.cmds.map (fun c => c.q)).eraseDups).filter (fun q => (frontCmd s q).isSome)

/-- Whether it is a queue's turn: highest client priority first, and round-robin after the queue served last among equals. -/
def queueTurn (s : State) (q : Nat) : Bool :=
  let p (x : Nat) : Nat := clientPrio s (hqFunc s x)
  let d (x : Nat) : Nat := (x + 4096 - (s.host.rrQ + 1) % 4096) % 4096
  (readyQueues s).contains q && (readyQueues s).all (fun x => x = q || p x < p q || (p x = p q && d q < d x))

/-- A command that has started. -/
def running (s : State) (c : HCmd) : HCmd := { c with start := s.now, stage := 1 }

/-- The state once a command of queue `q` has started, and the queue was served. -/
def begun (s : State) (q : Nat) (c : HCmd) : State := setCmd (s.modHost (fun h => { h with rrQ := q })) (running s c)

/-- A command of queue `q` starts when it is the queue's turn and it is of a kind; a command that names an
absent unit completes with UNIT_ABSENT, and one its client may not give with NOT_PERMITTED (R3, R336, R337). -/
def startCmd (s : State) (q : Nat) (mine : CmdKind → Bool) (act : State → HCmd → State) : State :=
  match frontCmd s q with
  | none => s
  | some c =>
    if !queueTurn s q || !cmdOk c.ent || !mine (cmdKind c.ent) then s
    else
      let t := begun s q c
      let d := running s c
      if unitMissing t c.ent then overCmd t d stUnitAbsent
      else if !cmdPermitted t c.f c.ent then overCmd t d stNotPermitted
      else act t d

/-- BAD_COMMAND (R337). -/
def execBadCommand (q : Nat) (s : State) : Res :=
  done s (match frontCmd s q with
    | none => s
    | some c =>
      if !queueTurn s q || cmdOk c.ent then s
      else overCmd (s.modHost (fun h => { h with rrQ := q })) { c with start := s.now } stBadCommand)

/-! ## BAR2 (R331) -/

/-- HBM address of an aperture offset: the base of its eighth, when the eighth is enabled. -/
def bar2Addr (s : State) (off : Nat) : Option Nat :=
  let r := engineBase + 0x50000 + 8 * (off / 2 ^ 33)
  if off < 2 ^ 36 && s.fb r 0 then some (s.f r 33 15 * 2 ^ 33 + off % 2 ^ 33) else none

/-- The part of an access that lies in eighth `i` of the aperture: its offset in the access, its length, and its HBM address. -/
def bar2Part (s : State) (off n i : Nat) : Nat × Nat × Option Nat :=
  let lo := max off (2 ^ 33 * i)
  (lo - off, min (off + n) (2 ^ 33 * (i + 1)) - lo, bar2Addr s lo)

/-- The parts of an access by the eighths it touches, and one past the aperture, which maps nothing. -/
def bar2Parts (s : State) (off n : Nat) : List (Nat × Nat × Option Nat) :=
  (((upto 8).map (bar2Part s off n)) ++ [(max off (2 ^ 36) - off, off + n - max off (2 ^ 36), none)]).filter (fun p => p.2.1 ≠ 0)

/-- Bytes that a read of a part returns. -/
def bar2Bytes (s : State) (p : Nat × Nat × Option Nat) : List Byte :=
  match p.2.2 with
  | none => (upto p.2.1).map (fun _ => 0#8)
  | some a => s.bytes a p.2.1

/-- BAR2_ACCESS: a host read or write reaches HBM through the owning slice; an offset that maps nothing reads zero and discards writes. -/
def execBar2Access (op : MemOp) (off len : Nat) (data : List Byte) (s : State) : Res :=
  done s (match op with
    | .read =>
      let ps := bar2Parts s off len
      let bad := ps.any (fun p => p.2.2.any (fun a => poisoned s a p.2.1))
      let t := ps.foldl (fun s p => match p.2.2 with | none => s | some a => hbmTouch s hintNormal a p.2.1) s
      t.emit (.memData bad (if bad then [] else ps.flatMap (bar2Bytes s)))
    | .write => (bar2Parts s off data.length).foldl (fun s p => match p.2.2 with
        | none => s
        | some a => hbmWrite s hintNormal a ((data.drop p.1).take p.2.1)) s
    | .atomic _ => s)

end Sys2Proof.Machine
end

