-- ==== Sys2Proof/Machine/Host.lean ====
section
/-! DEFINITION. Host commands, tasks and pre-emption, accounting and function-level reset (spec/13 R339-R352; spec/10 R275, R277, R280,
R281). -/

namespace Sys2Proof.Machine

/-! ## COPY (R340) -/

def cpHost (e : Nat) : Nat := eF e 8 0 64
def cpDev (e : Nat) : Nat := eF e 16 0 48
def cpLen (e : Nat) : Nat := eF e 24 0 64
def cpDir (e : Nat) : Nat := eF e 32 0 8
def cpDev2 (e : Nat) : Nat := eF e 40 0 48

/-- Least k with n ≤ 2^k. -/
def clog2 (n : Nat) : Nat := ((upto 64).find? (fun k => n ≤ 2 ^ k)).getD 64

/-- Bytes of a whole segment, and the number of segments. -/
def cpSeg (len : Nat) : Nat := 2 ^ max 20 (clog2 ((len + 63) / 64))
def cpSegs (len : Nat) : Nat := (len + cpSeg len - 1) / cpSeg len

/-- Start and length of segment `i`. -/
def cpRange (len i : Nat) : Nat × Nat := (i * cpSeg len, min (cpSeg len) (len - i * cpSeg len))

/-- Parts of a byte range by the die whose stack holds them (R310). -/
def byDie (a n : Nat) : List (Nat × Nat × Nat) :=
  (upto 8).filterMap (fun d =>
    let lo := max a (d * stackBytes)
    let hi := min (a + n) ((d + 1) * stackBytes)
    if lo < hi then some (d, lo, hi - lo) else none)

/-- Whether the windows grant a client an access to every byte of a range, each byte on its own die (R313, R340). -/
def dieWindows (s : State) (ctx bit a n : Nat) : Bool :=
  a + n ≤ hbmTop && (byDie a n).all (fun p => winCovers s p.1 ctx bit p.2.1 p.2.2)

/-- Status of a COPY's checks; overlapping ranges are looked at first (log 54). -/
def cpCheck (s : State) (f e : Nat) : Nat :=
  let n := cpLen e
  if cpDir e = 2 && overlap (cpDev e, cpDev e + n) (cpDev2 e, cpDev2 e + n) then stBadCommand
  else
    chk (match cpDir e with
      | 0 => dieWindows s f 2 (cpDev e) n
      | 1 => dieWindows s f 1 (cpDev e) n
      | _ => dieWindows s f 1 (cpDev e) n && dieWindows s f 2 (cpDev2 e) n) stMemProtect

/-- COPY: the device range is checked and the segments start. -/
def execCopy (q : Nat) (s : State) : Res :=
  done s (startCmd s q (fun k => k = .copy) (fun s c =>
    let st := cpCheck s c.f c.ent
    if st ≠ 0 then overCmd s c st else setCmd s { c with segs := cpSegs (cpLen c.ent) }))

/-- A copy's requests carry the hint of the window that grants them on their die (R313, R340; log 123). -/
def cpRead (s : State) (f a n : Nat) : State :=
  (unitsOf a n).foldl (fun s p => hbmTouch s (winHint s (dieOfAddr p.1) f 1 p.1) p.1 (p.2 - p.1)) s
def cpWrite (s : State) (f a : Nat) (bs : List Byte) : State :=
  (unitsOf a bs.length).foldl (fun s p =>
    hbmWrite s (winHint s (dieOfAddr p.1) f 2 p.1) p.1 ((bs.drop (p.1 - a)).take (p.2 - p.1))) s

/-- Move `n` bytes of client `f`'s copy from byte `o` on: HBM through the slices, host memory by DMA. -/
def cpMove (s : State) (f e o n : Nat) : State :=
  match cpDir e with
  | 0 => cpWrite s f (cpDev e + o) (s.bytes (hostA (cpHost e + o)) n)
  | 1 => hostWrite (cpRead s f (cpDev e + o) n) (cpHost e + o) (s.bytes (cpDev e + o) n)
  | _ => cpWrite (cpRead s f (cpDev e + o) n) f (cpDev2 e + o) (s.bytes (cpDev e + o) n)

/-- The destination bytes of a failed segment are free (log 17). -/
def cpSpoil (s : State) (f e o n : Nat) : State :=
  let (bs, s) := s.freeBytes n
  match cpDir e with
  | 0 => cpWrite s f (cpDev e + o) bs
  | 1 => hostWrite s (cpHost e + o) bs
  | _ => cpWrite s f (cpDev2 e + o) bs

/-- Move a segment of a copy, and its status: MEM_UNCORR where it reads poisoned or retired HBM, or writes into a retired page or part of a
poisoned line (R320, R325, R340; log 123). -/
def cpSegment (s : State) (f e o n : Nat) : State × Nat :=
  if cpDir e ≠ 0 && poisoned s (cpDev e + o) n then (cpSpoil (cpRead s f (cpDev e + o) n) f e o n, stMemUncorr)
  else
    let t := cpMove s f e o n
    if t.memBad then (cpSpoil t f e o n, stMemUncorr) else (t, stOK)

/-- COPY_SEGMENT_DONE: a segment ends with OK or with its own failure; `fail` when a host access of it failed (R339, R340). -/
def execCopySegmentDone (id seg : Nat) (fail : Bool) (s : State) : Res :=
  done s (match s.host.cmds.find? (fun c => c.id = id && c.stage = 1 && cmdKind c.ent = .copy) with
    | none => s
    | some c =>
      let e := c.ent
      let (o, n) := cpRange (cpLen e) seg
      let dir := cpDir e
      if c.segs ≤ seg || c.segRes.any (fun p => p.1 = seg) then s
      else
        let r := if fail && dir ≠ 2 then (cpSpoil (raiseDma s c.q 1 (cpHost e + o)) c.f e o n, stHostDmaError)
          else cpSegment s c.f e o n
        setCmd r.1 { c with
          segRes := c.segRes ++ [(seg, r.2)]
          hbm := c.hbm + (if dir = 2 then 2 * n else n)
          link := c.link + (if dir = 2 then 0 else n) })

/-- The outcome of a COPY: status, PREFIX and DETAIL (R340). -/
def cpResult (c : HCmd) : HCmd :=
  let stOf (i : Nat) : Nat := look 0 c.segRes i
  let bad := (upto c.segs).filter (fun i => stOf i ≠ 0)
  match bad with
  | [] => { c with stage := 2, status := 0, prefix_ := cpLen c.ent }
  | i :: _ =>
    if bad.length = c.segs then { c with stage := 2, status := stOf 0, detail := stOf 0 }
    else { c with stage := 2, status := stPartial, prefix_ := i * cpSeg (cpLen c.ent), detail := stOf i + 65536 * i }

/-! ## Ownership (R332, R341, R344, R345) -/

/-- Whether a context belongs to a client. -/
def ownsCtx (f ctx : Nat) : Bool := ctx < 0xFE && clientOf ctx = f

/-- The task that a logical core holds: being scrubbed for, running, saving or being restored. -/
def taskOn (s : State) (n : Nat) : Option HTask := s.host.tasks.find? (fun t => 2 ≤ t.stage && t.core = n)

/-- Whether a client owns the task or an op queue of a core. -/
def ownsCore (s : State) (f n : Nat) : Bool :=
  (taskOn s n).any (fun t => t.f = f) || (upto 4).any (fun q => ownsCtx f (qCtx s (slotOf s n) q))

/-- Whether an op queue of a core is bound to a dedicated context. -/
def dedicated (s : State) (n : Nat) : Bool := (taskOn s n).isNone && (upto 4).any (fun q => qEn s (slotOf s n) q)

/-- Allowed set of a client (R341). -/
def allowed (s : State) (f n : Nat) : Bool := s.fb (clientBase f + 0x10 + 8 * (n / 64)) (n % 64)

/-- Whether a core of the pool is free; a task places on ready cores alone (R341, R401). -/
def coreFree (s : State) (n : Nat) : Bool := coreReady s n && !dedicated s n && !offline s n && (taskOn s n).isNone

/-! ## Runs of TODs (R343, R344) -/

def tdAddr (e : Nat) : Nat := eF e 8 0 64
def tdCount (e : Nat) : Nat := eF e 16 0 32

/-- The ring engine starts to supply a command's TODs to a queue. -/
def startRun (s : State) (c : HCmd) (sl q : Nat) (win : Option Nat) : State :=
  let r : Run := { cmd := c.id, sl := sl, q := q, seqs := [], count := tdCount c.ent, src := tdAddr c.ent, fed := 0, win := win, res := [] }
  feedRun 4096 (s.modHost (fun h => { h with runs := h.runs ++ [r] })) sl q

def runOf (s : State) (id : Nat) : Option Run := s.host.runs.find? (fun r => r.cmd = id)

/-- The index of a run's TOD by its TOD_SEQ. -/
def todIdx (r : Run) (seq : Nat) : Nat := r.seqs.findIdx (fun x => x = seq)

/-- STATUS, DETAIL and PREFIX of a run: NAN_TRAP when it halted, else the first TOD, in TOD order, that did not complete with OK. -/
def runResult (r : Run) (c : HCmd) : HCmd :=
  let bad := r.res.filter (fun x => x.2.1 ≠ stOK)
  let first := match bad.find? (fun x => x.2.1 = stNanTrap) with
    | some x => some x
    | none => bad.foldl (fun b x => match b with
        | none => some x
        | some y => if todIdx r x.1 < todIdx r y.1 then some x else some y) none
  match first with
  | none => { c with stage := 2, status := stOK, prefix_ := r.res.length }
  | some x => { c with stage := 2, status := x.2.1, prefix_ := r.res.length, detail := x.2.1 + 65536 * (todIdx r x.1 % 256) }

/-- OPQ_WRITE: a queue of the client's context takes the TODs (R344); `fail` when they could not be read from host memory. DESC_ADDR and
DESC_COUNT have no effect here (log 55). -/
def execOpqWrite (q : Nat) (fail : Bool) (s : State) : Res :=
  done s (startCmd s q (fun k => k = .opqWrite) (fun s c =>
    let sl := slotOf s (eF c.ent 20 0 16)
    let k := eF c.ent 22 0 2
    if !ownsCtx c.f (qCtx s sl k) then overCmd s c stNotPermitted
    else if fail then overCmd (raiseDma s q 1 (tdAddr c.ent)) c stHostDmaError
    else startRun (setCmd s { c with link := c.link + 128 * tdCount c.ent }) c sl k none))

/-! ## Tasks (R341-R343) -/

/-- TASK: the task waits for a core, unless its client's set has none; `fail` when its TODs could not be read from host memory. -/
def execTask (q : Nat) (fail : Bool) (s : State) : Res :=
  done s (startCmd s q (fun k => k = .task) (fun s c =>
    if !(upto 256).any (fun n => allowed s c.f n && coreBuilt s n && !offline s n && !dedicated s n) then overCmd s c stNoCore
    else if fail then overCmd (raiseDma s q 1 (tdAddr c.ent)) c stHostDmaError
    else
      let t : HTask := { cmd := c.id, f := c.f, core := 0, stage := 0, saved := none }
      (setCmd s { c with link := c.link + 128 * tdCount c.ent }).modHost (fun h => { h with tasks := h.tasks ++ [t] })))

def setTask (s : State) (t : HTask) : State :=
  s.modHost (fun h => { h with tasks := h.tasks.map (fun x => if x.cmd = t.cmd then t else x) })

/-- Whether task `a` goes before task `b`: client priority, then pre-empted first (R342); arrival decides between equals. -/
def taskBefore (s : State) (a b : HTask) : Bool :=
  clientPrio s b.f < clientPrio s a.f
    || (clientPrio s a.f = clientPrio s b.f && a.saved.isSome && b.saved.isNone)

/-- The waiting task that a core goes to when it is free. -/
def bestTask (s : State) (n : Nat) : Option HTask :=
  (s.host.tasks.filter (fun t => t.stage = 0 && allowed s t.f n)).foldl (fun b t => match b with
    | none => some t
    | some x => if taskBefore s t x then some t else some x) none

/-- OPQ_CFG, windows and owners of a core that a task owns: queue 0, the whole scratchpad window, every slot and stream (R343; log 56). -/
def bindTask (s : State) (sl f : Nat) : State :=
  let g := rOpq sl 0 0
  let s := ((((s.setF g 8 8 f).setF g 16 16 0xFFFF).setF g 32 16 0xFFFF).setF g 48 6 0).setF g 54 6 63
  let s := (s.setF (rOpq sl 0 0x18) 0 8 0).setF (rOpq sl 0 0x18) 8 8 255
  let s := (upto 16).foldl (fun s k => s.wr (rOwner sl k) (BitVec.ofNat 64 (sumN ((upto 8).map (fun i => f * 256 ^ i))))) s
  s.setB g 0 true

/-- A task starts on its core: the descriptor table is its own, and its TODs follow with the core's tag window. -/
def runTask (s : State) (t : HTask) : State :=
  match s.host.cmds.find? (fun c => c.id = t.cmd) with
  | none => s
  | some c =>
    let sl := slotOf s t.core
    let d := rOpq sl 0 0x10
    let s := (s.setF d 0 48 (eF c.ent 24 0 48)).setF d 48 16 (eF c.ent 32 0 16)
    let s := bindTask s sl t.f
    let s := setTask s { t with stage := 3 }
    startRun s c sl 0 (some (s.f (rTagCfg sl) 0 8))

/-- A free core goes to a task: it is restored, waits for the scrub, or runs at once. -/
def giveCore (s : State) (t : HTask) (n : Nat) : State :=
  let t := { t with core := n }
  let foreign := (s.host.lastOf.find? (fun p => p.1 = n)).any (fun p => p.2 ≠ t.f)
  if t.saved.isSome then setTask s { t with stage := 5 }
  else if foreign then setTask s { t with stage := 2 }
  else runTask (setTask s t) t

/-- Save slots of a client that hold no state and are promised to no save. -/
def freeSave (s : State) (f : Nat) : Bool :=
  let used := (s.host.tasks.filter (fun t => t.f = f && (t.saved.isSome || t.stage = 4))).length
  used < saveSlots s f

/-- Lowest save slot of a client that holds no state. -/
def saveSlot (s : State) (f : Nat) : Nat :=
  ((upto 255).find? (fun k => !s.host.tasks.any (fun t => t.f = f && t.saved.any (fun x => x.slot = k)))).getD 255

/-- The victim of R346 for a client: the core whose client has the lowest priority, then the lowest core. -/
def victim (s : State) (f : Nat) : Option HTask :=
  let able := s.host.tasks.filter (fun t => t.stage = 3 && allowed s f t.core && clientPrio s t.f < clientPrio s f && freeSave s t.f)
  able.foldl (fun b t => match b with
    | none => some t
    | some x =>
      if clientPrio s t.f < clientPrio s x.f || (clientPrio s t.f = clientPrio s x.f && t.core < x.core) then some t else some x) none

/-- TASK_PLACE: a waiting task goes to the lowest free core of its set, when the core's turn is its; or a victim's op queue stops issuing
(R342, R346, R347). -/
def execTaskPlace (id : Nat) (s : State) : Res :=
  done s (match s.host.tasks.find? (fun t => t.cmd = id && t.stage = 0) with
    | none => s
    | some t =>
      if frozen s || heldSafe s then s
      else match (upto 256).find? (fun n => allowed s t.f n && coreFree s n) with
        | some n => if (bestTask s n).any (fun x => x.cmd = id) then giveCore s t n else s
        | none =>
          if !s.fb (engineBase + 0x50040) 0 then s
          else match victim s t.f with
            | none => s
            | some v =>
              let s := setTask (setTask s { v with stage := 4 }) { t with stage := 1, core := v.core }
              s.modCore (slotOf s v.core) (fun c => { c with stopIssue := true }))

/-! ## Saving and restoring (R347, R348) -/

def saveBase (s : State) (f k : Nat) : Nat := s.f (clientBase f + 8) 16 32 * 65536 + k * 0x1410000

/-- Registers of the state record, by offset from the core window: the op queue, streams, event counters and NAN_CTL. -/
def savedOffs : List Nat :=
  [0x400, 0x408, 0x410, 0x418, 0x420, 0x200] ++ (fromLen 0 64).map (fun i => 0x500 + 8 * i) ++ (fromLen 0 16).map (fun i => 0x700 + 8 * i)

/-- Poison follows bytes that move between a scratchpad and HBM. -/
def poisonSaved (s : State) (sl base : Nat) : State :=
  let lo := spadA sl / 8
  (s.poisonW.filter (fun w => lo ≤ w && w < lo + 2 ^ 21)).foldl (fun s w => poisonAt s (base + 8 * (w - lo))) s
def poisonBack (s : State) (sl base : Nat) : State :=
  (s.poisonL.filter (fun l => base / 64 ≤ l && l < base / 64 + 2 ^ 18)).foldl (fun s l =>
    (upto 8).foldl (fun s i => poisonAt s (spadA sl + 64 * (l - base / 64) + 8 * i)) s) s

/-- The state of a core is saved: the image of the scratchpad, and a record whose layout is not stated (log 57). The TODs that have not issued
are in the record, those past the first 512 in the ring engine. -/
def saveCore (s : State) (t : HTask) (k : Nat) : State :=
  let sl := slotOf s t.core
  let b := saveBase s t.f k
  let cons := hdrW s sl 0 1
  let waiting := subMod 32 (hdrW s sl 0 0) cons
  let sv : Saved :=
    { slot := k, acc := (s.core sl).acc, tags := (s.core sl).tags
      regs := savedOffs.map (fun o => (o, s.rd (slotBase sl + o)))
      seq := cons, cplProd := hdrW s sl 0 2, cplCons := hdrW s sl 0 3
      tods := (upto waiting).map (fun i => s.bytes (qRing s sl 0 + 128 * ((cons + i) % qSize s sl 0)) 128) }
  let (rec, s) := s.freeBytes 0x410000
  let s := hbmWrite s hintNormal b (s.bytes (spadA sl) (2 ^ 24))
  let s := poisonSaved (hbmWrite s hintNormal (b + 2 ^ 24) rec) sl b
  setTask s { t with stage := 0, saved := some sv }

/-- A core leaves a task: its op queue is disabled and empty (log 56). -/
def freeCore (s : State) (n f : Nat) : State :=
  let sl := slotOf s n
  let s := setHdrW s sl 0 1 (hdrW s sl 0 0)
  let s := ((s.setB (rOpq sl 0 0) 0 false).setF (rOpq sl 0 0x20) 0 4 0).setF (rOpq sl 0 0x20) 32 32 (hdrW s sl 0 0)
  let s := nanHaltedBit (s.modCore sl (fun c => { c with stopIssue := false })) sl
  s.modHost (fun h => { h with lastOf := putRaw h.lastOf n f })

/-- The tasks that a pre-empted core was promised wait again, and the core goes to the best one. -/
def passCore (s : State) (n : Nat) : State :=
  let s := s.modHost (fun h => { h with tasks := h.tasks.map (fun t => if t.stage = 1 && t.core = n then { t with stage := 0 } else t) })
  match bestTask s n with
  | some t => if coreFree s n && !frozen s then giveCore s t n else s
  | none => s

/-- PREEMPT_SAVE_DONE: with no operation in flight, the victim's state goes to a save slot and the core passes on (R347). -/
def execPreemptSaveDone (core : Nat) (s : State) : Res :=
  done s (match s.host.tasks.find? (fun t => t.stage = 4 && t.core = core) with
    | none => s
    | some t =>
      if !(s.core (slotOf s core)).ops.isEmpty then s
      else
        let k := saveSlot s t.f
        let new := (s.host.tasks.find? (fun x => x.stage = 1 && x.core = core)).map (fun x => x.f)
        let s := freeCore (saveCore s t k) core t.f
        let s := s.addCtr (clientBase t.f + 0x68) 1
        let s := s.raise .preempt 0 (packBits [(core, 0, 8), (t.f, 8, 7), (new.getD 0, 15, 7), (k, 22, 8)])
        passCore s core)

/-- CORE_SCRUB_DONE: the core is scrubbed and its task runs (R343). -/
def execCoreScrubDone (core : Nat) (s : State) : Res :=
  done s (match s.host.tasks.find? (fun t => t.stage = 2 && t.core = core) with
    | none => s
    | some t => runTask (scrubCore s (slotOf s core)) t)

/-- TASK_RESTORE_DONE: image and record are back, tags are of the new core's window, and the task goes on (R348). -/
def execTaskRestoreDone (core : Nat) (s : State) : Res :=
  done s (match s.host.tasks.find? (fun t => t.stage = 5 && t.core = core) with
    | none => s
    | some t =>
      match t.saved with
      | none => s
      | some v =>
        let sl := slotOf s core
        let b := saveBase s t.f v.slot
        let w := s.f (rTagCfg sl) 0 8
        let s := poisonBack (localWrite s (spadA sl) (s.bytes b (2 ^ 24))) sl b
        let s := v.regs.foldl (fun s p => s.wr (slotBase sl + p.1) p.2) s
        let s := s.modCore sl (fun c => { c with acc := v.acc, tags := v.tags })
        let s := setHdrW (setHdrW (setHdrW (setHdrW s sl 0 0 v.seq) sl 0 1 v.seq) sl 0 2 v.cplProd) sl 0 3 v.cplCons
        let s := bindTask s sl t.f
        let s := v.tods.foldl (fun s b => putTod s sl 0 (retag (leNat b) (some w))) s
        let s := s.modHost (fun h => { h with runs := h.runs.map (fun r => if r.cmd = t.cmd then { r with sl := sl, win := some w } else r) })
        feedRun 4096 (setTask s { t with stage := 3, saved := none }) sl 0)

/-! ## CORE_CTL, ACCT_SNAPSHOT and Shadow commands -/

/-- A CORE_CTL command of an action that its client may give (R345). -/
def coreCtl (s : State) (q action : Nat) (act : State → HCmd → Nat → State) : State :=
  startCmd s q (fun k => k = .coreCtl action) (fun s c =>
    let n := eF c.ent 8 0 16
    if !ownsCore s c.f n then overCmd s c stNotPermitted else act s c (slotOf s n))

/-- CORE_CTL RESUME. -/
def execCoreCtlResume (q : Nat) (s : State) : Res :=
  done s (coreCtl s q 0 (fun s c sl => overCmd (resumeQueue s sl (eF c.ent 11 0 2)) c stOK))

/-- CORE_CTL CANCEL; it completes when every cancelled operation has. -/
def execCoreCtlCancel (q : Nat) (s : State) : Res :=
  done s (coreCtl s q 1 (fun s c sl => cancelClient s sl c.f))

/-- Whether cancelled operations of a client still hold their records on a core (R116, R345). -/
def cancelHeld (s : State) (sl f : Nat) : Bool :=
  (s.core sl).ops.any (fun o => o.stage = .recordHeld && clientOf o.ctx = f && o.res.status = stCancelled)

/-- CORE_CTL RESET: it cancels, and when the cancel has completed it resets the core. -/
def execCoreCtlReset (q : Nat) (s : State) : Res :=
  done s (coreCtl s q 2 (fun s c sl =>
    let t := cancelClient s sl c.f
    if cancelHeld t sl c.f then t else overCmd (resetCore t sl) c stOK))

/-- The 64-byte accounting record (R350). -/
def acctRecord (s : State) (f : Nat) : List Byte :=
  leBytes 2 f ++ leBytes 6 0 ++ leBytes 8 s.now
    ++ ([0x40, 0x48, 0x50, 0x58, 0x60, 0x68] : List Nat).flatMap (fun o => leBytes 8 (s.rd (clientBase f + o)).toNat)

/-- ACCT_SNAPSHOT: `fail` when the record could not be written (R339, R350). -/
def execAcctSnapshot (q : Nat) (fail : Bool) (s : State) : Res :=
  done s (startCmd s q (fun k => k = .acct) (fun s c =>
    let a := eF c.ent 8 0 64
    let f := eF c.ent 16 0 8
    if c.f ≠ 0 && c.f ≠ f then overCmd s c stNotPermitted
    else if fail then overCmd (raiseDma s q 1 a) c stHostDmaError
    else overCmd (hostWrite s a (acctRecord s f)) { c with link := c.link + 64 } stOK))

/-- RESTORE: the slot is read from the holder it names, and the command is over when the last region is in, or at the first failure
(R277). -/
def execRestore (q : Nat) (s : State) : Res :=
  done s (startCmd s q (fun k => k = .shadow 1) (fun s c =>
    restoreBegin s c.id (eF c.ent 16 0 12) (eF c.ent 16 12 2) (eF c.ent 16 14 2)))

/-- LOCK, issued at the holder (R275). -/
def execLock (q : Nat) (s : State) : Res :=
  done s (startCmd s q (fun k => k = .shadow 2) (fun s c =>
    let (s, st) := lockSlot s (eF c.ent 16 0 12) (eF c.ent 16 12 2) (eF c.ent 16 14 2) true
    overCmd s c st))

/-- UNLOCK (R275). -/
def execUnlock (q : Nat) (s : State) : Res :=
  done s (startCmd s q (fun k => k = .shadow 3) (fun s c =>
    let (s, st) := lockSlot s (eF c.ent 16 0 12) (eF c.ent 16 12 2) (eF c.ent 16 14 2) false
    overCmd s c st))

/-- VERIFY_RELEASE: FINAL_EV held since a failed comparison is signalled (R280, R281). -/
def execVerifyRelease (q : Nat) (s : State) : Res :=
  done s (startCmd s q (fun k => k = .shadow 4) (fun s c =>
    if !s.shadow.heldEv then overCmd s c stBadField
    else overCmd (signalFinal (s.modShadow (fun h => { h with heldEv := false }))) c stOK))

/-! ## Completion (R338, R340, R343-R345) -/

/-- Whether the op queue of a run's core has halted on NAN_TRAP with nothing of it in flight. -/
def runHalted (s : State) (r : Run) : Bool :=
  qHalted s r.sl r.q && s.f (rOpq r.sl r.q 0x20) 1 3 = 2 && !(s.core r.sl).ops.any (fun o => o.q = r.q && o.live)

/-- A running command whose work is over, with its result; none while it works. -/
def cmdOver (s : State) (c : HCmd) : Option HCmd :=
  match cmdKind c.ent with
  | .copy => if c.segRes.length = c.segs then some (cpResult c) else none
  | .task =>
    (match runOf s c.id with
      | none => none
      | some r =>
        if s.host.tasks.any (fun t => t.cmd = c.id && (t.stage = 3 || t.stage = 4)) && (r.res.length = r.count || runHalted s r)
        then some (runResult r c) else none)
  | .opqWrite =>
    (match runOf s c.id with
      | none => none
      | some r =>
        if bitN (eF c.ent 22 0 8) 2 then (if r.res.length = r.count then some (runResult r c) else none)
        else if r.fed = r.count then some { c with stage := 2, status := stOK } else none)
  | .coreCtl _ => if cancelHeld s (slotOf s (eF c.ent 8 0 16)) c.f then none else some { c with stage := 2, status := stOK }
  | .shadow 1 => (restoreStatus s c.id).map (fun st => { c with stage := 2, status := st })
  | _ => none

/-- A task that is over leaves its core. -/
def endTask (s : State) (id : Nat) : State :=
  match s.host.tasks.find? (fun t => t.cmd = id) with
  | none => s
  | some t =>
    let s := s.modHost (fun h => { h with tasks := h.tasks.filter (fun x => x.cmd ≠ id), runs := h.runs.filter (fun r => r.cmd ≠ id) })
    passCore (freeCore s t.core t.f) t.core

/-- COMMAND_COMPLETE: the completion entry is written, or held while the ring is full; `fail` when its host access fails, which halts
the queue with the entry held (R338, R339; log 58). -/
def execCommandComplete (id : Nat) (fail : Bool) (s : State) : Res :=
  done s (match s.host.cmds.find? (fun c => c.id = id && (c.stage = 1 || c.stage = 2)) with
    | none => s
    | some c =>
      let waits := c.stage = 1
      match (if c.stage = 2 then some c else cmdOver s c) with
      | none => s
      | some c =>
        let s := if cmdKind c.ent = .task then endTask s c.id
          else if waits && cmdKind c.ent = .coreCtl 2 then resetCore s (slotOf s (eF c.ent 8 0 16)) else s
        let quiet := eQuiet c.ent && c.status = stOK
        if !quiet && cqFull s c.q then setCmd s { c with stage := 3 }
        else if !quiet && fail then
          setCmd (haltQueue (raiseDma s c.q 2 ((s.rd (rQ c.q 8)).toNat + 32 * (hqCqTail s c.q % hqCq s c.q))) c.q 2) { c with stage := 3 }
        else writeCpl s c)

/-! ## Energy (R349) -/

/-- DIE.ENERGY_CORE of a slot. -/
def rEnergyCore (sl : Nat) : Nat := dieBase (sl / 64) + 0x2400 + 8 * (if sl % 64 = 60 then 32 else 4 * (sl / 8 % 8) + sl % 8)

/-- ENERGY_APPORTION: the energy counted since the last time is divided among the operations in flight in proportion to the time each ran
in the interval (`shares`: tag and ns), rounded down (log 59). -/
def execEnergyApportion (sl : Nat) (shares : List (Nat × Nat)) (s : State) : Res :=
  let e := (s.rd (rEnergyCore sl)).toNat
  let de := subMod 64 e (look 0 s.host.njLast sl)
  let live := shares.filter (fun p => (s.core sl).ops.any (fun o => o.live && o.tag = p.1))
  let total := sumN (live.map (fun p => p.2))
  let s1 := s.modCore sl (fun c => { c with ops := c.ops.map (fun o =>
    if o.live && total ≠ 0 then { o with nj := o.nj + de * look 0 live o.tag / total } else o) })
  done s (s1.modHost (fun h => { h with njLast := put 0 h.njLast sl e }))

/-! ## Function-level reset (R351, R352) -/

/-- COPY segments of a client stop at a 4 KiB boundary, which one is free; nothing more reaches host memory (R351; log 60). -/
def stopCopies (s : State) (f : Nat) : State :=
  (s.host.cmds.filter (fun c => c.f = f && c.stage = 1 && cmdKind c.ent = .copy && cpDir c.ent ≠ 1)).foldl (fun s c =>
    ((upto c.segs).filter (fun i => !c.segRes.any (fun p => p.1 = i))).foldl (fun s i =>
      let (o, n) := cpRange (cpLen c.ent) i
      let (k, s) := s.freeWord
      cpMove s f c.ent o (min n (4096 * (k % ((n + 4095) / 4096 + 1))))) s) s

/-- Whether a core is held by a client: by its task, or by its enabled op queues with none of another client. -/
def heldBy (s : State) (f n : Nat) : Bool :=
  let sl := slotOf s n
  (taskOn s n).any (fun t => t.f = f) ||
    ((taskOn s n).isNone && (upto 4).any (fun q => qEn s sl q && ownsCtx f (qCtx s sl q))
      && (upto 4).all (fun q => !qEn s sl q || ownsCtx f (qCtx s sl q)))

/-- Close a client's receive queues and channels of a core (step 4). -/
def flrChannels (s : State) (f sl : Nat) : State :=
  let s := closeRqs s sl (fun r => ownsCtx f (s.f (rRq sl r 0) 8 8))
  let mine : List Nat := (upto 64).filter (fun c => ownsCtx f (chanCtx s sl c))
  let s := resetSender s sl (fun c => mine.contains c)
  mine.foldl (fun s c => (s.setB (rChan sl c 0) 0 false).setChan sl c Chan.reset) s

/-- Owners, stash, hold table, micro-batch queues and streams of a client's contexts on a core (step 7). -/
def flrOwned (s : State) (f sl : Nat) : State :=
  let queues : List Nat := (upto 4).filter (fun q => ownsCtx f (qCtx s sl q))
  let stashMine := ownsCtx f (s.f (slotBase sl + 0x800) 8 8)
  let s := (upto 128).foldl (fun s k => if ownsCtx f (accOwner s sl k) then s.setF (rOwner sl (k / 8)) (8 * (k % 8)) 8 0xFF else s) s
  let s := if stashMine then (stashClear (s.setB (slotBase sl + 0x800) 0 false) sl).setB (rHold sl) 0 false else s
  let s := (upto 2).foldl (fun s i => if queues.contains (s.f (rMbq sl i 0) 1 2) then s.resetRange (rMbq sl i 0) (rMbq sl i 0x18) else s) s
  queues.foldl (fun s q => (upto 16).foldl (fun s k =>
    if bitN (s.f (rOpq sl q 0) 16 16) k then s.resetRange (rRngKey sl k) (rRngKey sl (k + 1)) else s) s) s

/-- The reset of one function, all of its steps at once (log 60). -/
def flrOne (s : State) (f : Nat) : State :=
  let held : List Nat := (upto 256).filter (fun n => heldBy s f n)
  let s := stopCopies s f
  let s := (upto 256).foldl (fun s n => cancelClient s (slotOf s n) f) s
  let mine : List Nat := (s.host.cmds.filter (fun c => c.f = f)).map (fun c => c.id)
  let left : List Nat := (s.host.tasks.filter (fun t => t.f = f && 2 ≤ t.stage)).map (fun t => t.core)
  let s := s.modHost (fun h => { h with
    cmds := h.cmds.filter (fun c => c.f ≠ f), runs := h.runs.filter (fun r => !mine.contains r.cmd), tasks := h.tasks.filter (fun t => t.f ≠ f) })
  let s := (upto 256).foldl (fun s n => flrChannels s f (slotOf s n)) s
  let s := held.foldl (fun s n => scrubCore s (slotOf s n)) s
  let s := (upto 256).foldl (fun s n => flrOwned s f (slotOf s n)) s
  let s := left.foldl (fun s n => passCore (freeCore s n f) n) s
  let s := (funcQueues s f).foldl (fun s q =>
    let t := s.resetRange (rQ q 0) (rQ q 0x40)
    (t.setF (rQ q 0x10) 16 7 f).modHost (fun h => { h with coal := put 0 h.coal q 0 })) s
  let s := s.modHost (fun h => { h with msixOn := h.msixOn.filter (fun p => p.1 ≠ f), msixPend := h.msixPend.filter (fun p => p.1 ≠ f) })
  s.raise .flrDone 0 (packBits [(f, 0, 7), (held.length, 7, 9)])

/-- FLR of a function; that of PF0 clears VF Enable and resets each VF too (R352). -/
def flr (s : State) (f : Nat) : State :=
  if f = 0 then
    ((flrOne s 0).modHost (fun h => { h with vfEnable := false })) |> fun s => (fromLen 1 63).foldl flrOne s
  else flrOne s f

/-- FLR. -/
def execFlr (f : Nat) (s : State) : Res := done s (if 64 < f then s else flr s f)

/-- HOST_INTERFACE_RESET: a PCIe hot reset or DL_Down is an FLR of PF0 and of PF1 (R394). -/
def execHostInterfaceReset (s : State) : Res := done s (flr (flr s 0) 64)

end Sys2Proof.Machine
end

