-- ==== Sys2Proof/Machine/Cap.lean ====
section
/-! DEFINITION. The capability map, failed cores, and the P-level of a die (spec/16 R401, R402, R406; spec/01 R17; spec/15 R384-R386). -/

namespace Sys2Proof.Machine

/-! ## The Unit Presence Map (Table 0.1) -/

def diePresent (s : State) (d : Nat) : Bool := d < 8 && upmBit s d
def sparePresent (s : State) (d : Nat) : Bool := d < 8 && upmBit s (16 + d)
def portPresent (s : State) (p : Nat) : Bool := p < 18 && upmBit s (24 + p)
def sitePresent (s : State) (i : Nat) : Bool := i < 2 && upmBit s (42 + i)
def wideBuilt (s : State) : Bool := upmBit s 44

/-! ## The capability map (Table 16.5) -/

/-- CAP_PKG.STAGE (R406). -/
def capStage (s : State) : Nat :=
  let present : List Nat := (upto 8).filter (fun d => diePresent s d)
  if s.f 0x500 0 2 = 3 then 5
  else if !s.boot.ever then 0
  else if !s.boot.featSet then 1
  else if present.any (fun d => !(2 ≤ dieState s d && dieState s d ≤ 4)) then 2
  else if present.any (fun d => dieState s d = 2) || s.fb 0x600 3 then 3
  else 4

/-- A change of the map is complete: STAGE follows, SEQ increases, and PF0 is told when CAP_CFG.EN is 1. -/
def capNote (s : State) : State :=
  let s := s.setF 0x600 0 3 (capStage s)
  let s := s.setF 0x600 32 32 (s.f 0x600 32 32 + 1)
  if s.fb 0x6C0 0 then s.sendMsix 0 (s.f 0x6C0 16 11) else s

def setReady (s : State) (n : Nat) (b : Bool) : State := s.setB (0x680 + 8 * (n / 64)) (n % 64) b
def setOffline (s : State) (n : Nat) (b : Bool) : State := s.setB (0x6A0 + 8 * (n / 64)) (n % 64) b

/-- CORES_READY and CORES_OFFLINE of a die follow the maps. -/
def capCount (s : State) (d : Nat) : State :=
  let ns : List Nat := fromLen (32 * d) 32
  (s.setF (rCapDie d) 8 6 (ns.filter (fun n => coreReady s n)).length).setF (rCapDie d) 16 6 (ns.filter (fun n => offline s n)).length

/-- A logical core goes offline. -/
def takeOffline (s : State) (n : Nat) : State := capCount (setReady (setOffline s n true) n false) (n / 32)

/-! ## Failed cores (R17, R402, Table 14.4) -/

/-- Whether the die's spare can stand in for one more core. -/
def spareAvail (s : State) (d : Nat) : Bool := sparePresent s d && !spareActive s d && (s.die d).failed.isEmpty

/-- R17: the failed core is marked offline. -/
def coreOffline (s : State) (sl : Nat) : State :=
  match logicalOf s sl with
  | none => s
  | some n => if offline s n then s else capNote ((takeOffline s n).raise .coreOffline (sl / 64) n)

/-- A core fails: CORE_FAILED is raised, and it goes offline unless the die's spare can still be mapped in. -/
def coreFails (s : State) (sl : Nat) : State :=
  let d := sl / 64
  let free := spareAvail s d
  let s := s.raise .coreFailed d (packBits [(sl, 0, 9), (coreNum s sl, 9, 8)])
  let s := s.modDie d (fun x => { x with failed := insertNat x.failed sl })
  if free then s else coreOffline s sl

/-- CORE_FAILURE: a core fails with no spare available. -/
def execCoreFailure (sl : Nat) (s : State) : Res :=
  done s (if !isSlot sl || spareAvail s (sl / 64) then s else coreFails s sl)

/-- CORE_RESET_TIMEOUT: a block reset of the slot has not completed within 100 µs, so it issues nothing more (R364, Table 14.4). -/
def execCoreResetTimeout (sl : Nat) (s : State) : Res :=
  done s (if !isSlot sl || (s.core sl).resets.isEmpty then s
    else coreFails (s.modCore sl (fun c => { c with resetting := true })) sl)

/-! ## P-levels (R384-R386, R376) -/

def rPlevel (d : Nat) : Nat := dieBase d + 0x2000

/-- Effective level of a die: the slowest of its sources (R370, R374, R385). -/
def effLevel (s : State) (d : Nat) : Nat :=
  let src : List Nat := [s.f (rPlevel d) 0 3, s.f (powerBase + 8) 32 3, s.f (powerBase + 8) 35 3, s.f (rPlevel d) 16 3, s.f (rPlevel d) 19 3,
    if s.f 0x500 0 2 = 3 then 5 else 0, if s.boot.uv then 3 else 0]
  src.foldl max 0

/-- The P-level request made last and not answered. -/
def lastLevelReq (x : Die) : Option Rsi := (x.rsi.filter (fun r => r.dom = none)).getLast?

/-- A P-level request; it replaces one that waits and has not been sent (R376). -/
def askLevel (s : State) (d e : Nat) : State :=
  pumpRsi (s.modDie d (fun x =>
    if x.rsi.any (fun r => r.dom = none && !r.sent) then
      { x with rsi := x.rsi.map (fun r => if r.dom = none && !r.sent then { r with code := e } else r) }
    else { x with rsi := x.rsi ++ [⟨0, e, none, false⟩] })) d

/-- The next part of a die's way to its effective level: a slower level lowers the frequency first and then sends the request, a faster
one sends the request and raises the frequency after its acknowledgement (R385). -/
def levelStep (s : State) (d : Nat) : State :=
  let x := s.die d
  let e := effLevel s d
  if s.fb (rPlevel d) 12 || x.freqTo.isSome then s
  else if x.clk < e then ((s.modDie d (fun x => { x with freqTo := some e })).setB (rPlevel d) 11 true).emit (.clock d e)
  else if (match lastLevelReq x with | some r => r.code | none => x.rail0) ≠ e then askLevel (s.setB (rPlevel d) 11 true) d e
  else if (lastLevelReq x).isSome then s
  else if e < x.clk then ((s.modDie d (fun x => { x with freqTo := some e })).setB (rPlevel d) 11 true).emit (.clock d e)
  else s.setB (rPlevel d) 11 false

/-- Every die takes up a change of a level source of the package. -/
def levelAll (s : State) : State := (upto 8).foldl (fun s d => if dieReady s d then levelStep s d else s) s

/-- Service floor of a die (R385, R404). -/
def setFloor (s : State) (d v : Nat) : State := levelStep (s.setF (rPlevel d) 19 3 v) d

end Sys2Proof.Machine
end

