-- ==== Sys2Proof/Machine/Girth.lean ====
section
/-! DEFINITION. Girth links: flits, replay, lane failures, narrowing and isolation (spec/01 R13, R18-R30). -/

namespace Sys2Proof.Machine

/-! ## The flit (R18, Table 1.3) -/

/-- The header of a flit. -/
structure GHdr where
  seq : Nat
  cls : Nat
  len : Nat
  credRet : Nat
  credCls : Nat
  tag : Nat
  ackSeq : Nat
  sack : Nat
  ackValid : Bool
  deriving DecidableEq, Repr

/-- Bytes 0-7. -/
def gLow (h : GHdr) : Nat :=
  packBits [(h.seq, 0, 10), (h.cls, 10, 2), (h.len, 12, 3), (h.credRet, 16, 8), (h.credCls, 24, 2), (h.tag, 32, 14)]
/-- Bytes 120-123. -/
def gHigh (h : GHdr) : Nat := packBits [(h.ackSeq, 0, 10), (h.sack, 10, 16), (b2n h.ackValid, 26, 1)]

/-- The header that bytes 0-7 and 120-123 spell. -/
def gHdrOf (lo hi : Nat) : GHdr :=
  { seq := bitsN lo 0 10, cls := bitsN lo 10 2, len := bitsN lo 12 3, credRet := bitsN lo 16 8, credCls := bitsN lo 24 2
    tag := bitsN lo 32 14, ackSeq := bitsN hi 0 10, sack := bitsN hi 10 16, ackValid := bitN hi 26 }

/-- A flit of 128 bytes, its CRC over bytes 0-123. -/
def gBytes (h : GHdr) (payload : List Byte) : List Byte :=
  let body := leBytes 8 (gLow h) ++ padTo 112 (payload.take 112) ++ leBytes 4 (gHigh h)
  body ++ leBytes 4 (crc32c body)

def gCrcOk (fl : List Byte) : Bool := fl.length = 128 && crc32c (fl.take 124) = leNat (fl.drop 124)

/-! ## Transmission (R19-R22) -/

/-! ## Routes (R13, R27, R28) -/

/-- Where an end stands: its die, or 8 for the hub. -/
def gLoc (e : Nat) : Nat := if e % 4 = 3 then 8 else e / 4

/-- Whether traffic of an end has to take another route: all of a port that is down; of a degraded ring port stage traffic, and of a
degraded link to the hub memory and coherence traffic, in both directions (R27, R28; log 102). -/
def gShould (s : State) (e cls : Nat) (way : GDest) : Bool :=
  gDead s e || gDead s (farEnd e) || (s.fb (rGirth e 0) 1 && way.leg < 2 && (if gPort e = 2 then cls ≤ 1 else way.stage))

/-- Whether an end has released that traffic on the other route. -/
def gMoved (s : State) (e cls : Nat) (way : GDest) : Bool :=
  gShould s e cls way && (if gDead s e || gDead s (farEnd e) then (s.gend e).moved = 2 else 1 ≤ (s.gend e).moved)

/-- The end through which a flit leaves a place, and how far its way has come then. -/
def gRoute (s : State) (loc cls : Nat) (way : GDest) : Nat × GDest :=
  if loc = 8 then
    let e := 4 * way.dst + 3
    if gMoved s e cls { way with leg := 0 } then (4 * gStandIn s way.dst + 3, { way with leg := 2 }) else (e, { way with leg := 2 })
  else
    let toHub (t : GDest) : Nat × GDest :=
      let e := 4 * loc + 2
      if t.leg = 3 || !gMoved s e cls t then (e, t)
      else (if gStandIn s loc = (loc + 1) % 8 then 4 * loc else 4 * loc + 1, { t with leg := 3 })
    if way.leg = 1 || way.leg = 3 || way.dst = 8 then toHub way
    else
      let e := 4 * loc + ringPort loc way.dst way.resp
      if way.leg = 0 && gMoved s e cls way then toHub { way with leg := 1 } else (e, way)

/-- A flit joins the traffic of the end through which its way goes on. -/
def gOffer (s : State) (loc : Nat) (f : GFlit) : State :=
  let r := gRoute s loc f.cls f.way
  s.modGend r.1 (fun x => { x with txq := x.txq ++ [{ f with way := r.2 }] })

/-- Classes from the highest priority: interrupt, coherence, debug, memory (R19). -/
def gPrio : List Nat := [2, 1, 3, 0]

/-- The next flit of a class that may leave an end: traffic that is to take another route waits for it (R28). -/
def gNext (s : State) (e c : Nat) : Option GFlit := (s.gend e).txq.find? (fun f => f.cls = c && !gShould s e f.cls f.way)

/-- Whether a class can send its next flit: one waits, credit is held, and only debug flows before FEAT_EN is set (R38). -/
def gReady (s : State) (e c : Nat) : Bool :=
  (gNext s e c).isSome && 0 < nth 0 (s.gend e).cred c && (c = 3 || s.boot.featSet)

/-- The class served next: one that has waited 64 flit times, else by priority (R19). Of several that have waited so long the one of the
highest priority is served: the rule does not order them (DESIGN CHOICE, log 101). -/
def gPick (s : State) (e : Nat) : Option Nat :=
  match gPrio.find? (fun c => gReady s e c && 64 ≤ nth 0 (s.gend e).waited c) with
  | some c => some c
  | none => gPrio.find? (fun c => gReady s e c)

/-- The credits that a flit leaving an end returns: of the lowest class that is owed some, 255 at most (CRED_RET has eight bits). The manual
does not say which class's credits go first (DESIGN CHOICE, log 101). -/
def gReturn (x : GEnd) : Nat × Nat :=
  let c := ((upto 4).find? (fun c => 0 < nth 0 x.owed c)).getD 0
  (min 255 (nth 0 x.owed c), c)

/-- A flit leaves an end for the other one, with the acknowledgement written afresh and `n` credits of class `c` returned. -/
def gSend (s : State) (e seq : Nat) (f : GFlit) (n c : Nat) : State :=
  let x := s.gend e
  let h : GHdr :=
    { seq := seq, cls := f.cls, len := f.payload.length / 16, credRet := n, credCls := c, tag := f.tag
      ackSeq := (x.rxNext + 1023) % 1024
      sack := sumN ((upto 16).map (fun i => b2n (x.held.any (fun p => p.1 = (x.rxNext + 1 + i) % 1024)) * 2 ^ i)), ackValid := x.anyRx }
  let h := if x.anyRx then h else { h with ackSeq := 0, sack := 0 }
  s.modGend (farEnd e) (fun y => { y with wire := y.wire ++ [(gBytes h f.payload, f.way)] })

/-- Flits that may be offered at a place: a class, 1 to 7 units of 16 bytes, and another place to go to. -/
def gOfferOk (loc : Nat) (o : GirthOffer) : Bool :=
  o.cls < 4 && o.payload.length % 16 = 0 && 16 ≤ o.payload.length && o.payload.length ≤ 112 && o.dst ≤ 8 && o.dst ≠ loc

/-- Whether an end's oldest lane failure finds no spare: its group is being retired (R25, R26). -/
def gRetiring (s : State) (e : Nat) : Bool :=
  match (s.gend e).fails with
  | [] => false
  | (g, _) :: _ => 2 ≤ gSpares s e g

/-- Each class with a flit waiting has waited one flit time more, but for the one that was served. -/
def gAge (x : GEnd) (served : Option Nat) : GEnd :=
  { x with waited := (upto 4).map (fun c =>
      if served = some c || !x.txq.any (fun f => f.cls = c) then 0 else nth 0 x.waited c + 1) }

/-- GIRTH_TRANSMIT: the die or the hub offers flits, each of which joins the traffic of the port its way leads through; at the flit slot a
flit that is due is resent with the credit it carried, else the class picked sends its next one, kept in the replay buffer of 512. While
a group of the link is being retired the port holds its flits (R25), and a port in RETENTION wakes first (R380). -/
def execGirthTransmit (e : Nat) (offer : List GirthOffer) (s : State) : Res :=
  let s1 := (offer.filter (gOfferOk (gLoc e))).foldl (fun s o =>
    gOffer s (gLoc e) ⟨o.cls, o.tag % 2 ^ 14, o.payload, ⟨o.stage, o.dst, o.resp, 0⟩⟩) s
  let x := s1.gend e
  done s (if !(e < 32) then s
    else if !gUp s e || x.training || gRetiring s e || gRetiring s (farEnd e) then s1
    else if !domOn s (e / 4) (42 + gPort e) then (if x.txq.isEmpty && x.replay.isEmpty then s1 else wakeDom s1 (e / 4) (42 + gPort e))
    else match x.replay.find? (fun r => r.due && r.resends < 32) with
      | some r =>
        let s := gSend s1 e r.seq r.fl r.credRet r.credCls
        let s := s.modGend e (fun x => gAge { x with replay := x.replay.map (fun y =>
          if y.seq = r.seq then { y with due := false, resends := y.resends + 1 } else y) } none)
        s.addCtr (rGirth e 0x18) 1
      | none =>
        match (if x.replay.length < 512 then gPick s1 e else none) with
        | none => s1.modGend e (fun x => gAge x none)
        | some c =>
          match gNext s1 e c with
          | none => s1
          | some f =>
            let q := x.nextSeq
            let r := gReturn x
            (gSend s1 e q f r.1 r.2).modGend e (fun x => gAge { x with
              txq := x.txq.erase f, replay := x.replay ++ [⟨q, f, r.1, r.2, 0, false⟩], nextSeq := (q + 1) % 1024
              cred := setNth x.cred c (nth 0 x.cred c - 1), owed := setNth x.owed r.2 (nth 0 x.owed r.2 - r.1) } (some c)))

/-! ## Reception (R20-R22) -/

/-- Free what an acknowledgement covers, and mark for resending what it shows missing below its highest selective one. -/
def gAck (x : GEnd) (ackSeq sack : Nat) : GEnd :=
  let covered (r : GEntry) : Bool := subMod 10 ackSeq r.seq < 512
  let sel (r : GEntry) : Bool := subMod 10 r.seq (ackSeq + 2) < 16 && bitN sack (subMod 10 r.seq (ackSeq + 2))
  let rest := x.replay.filter (fun r => !covered r && !sel r)
  match ((upto 16).filter (fun i => bitN sack i)).getLast? with
  | none => { x with replay := rest }
  | some i => { x with replay := rest.map (fun r => if subMod 10 (ackSeq + 2 + i) r.seq < 512 then { r with due := true } else r) }

/-- A flit that has arrived is passed to the die or the hub it goes to, or goes on from here (R13). -/
def gArrive (s : State) (e : Nat) (f : GFlit) : State :=
  if f.way.dst = gLoc e then s.emit (.girth e f.cls f.tag f.payload) else gOffer s (gLoc e) f

/-- Pass flits on in SEQ order, freeing their buffers. -/
def gDeliver : Nat → State → Nat → State
  | 0, s, _ => s
  | n + 1, s, e =>
    let x := s.gend e
    match x.held.find? (fun p => p.1 = x.rxNext) with
    | none => s
    | some (q, f) =>
      let s := s.setGend e { x with
        held := x.held.filter (fun p => p.1 ≠ q), rxNext := (q + 1) % 1024, owed := setNth x.owed f.cls (nth 0 x.owed f.cls + 1) }
      gDeliver n (gArrive s e f) e

/-- GIRTH_FLIT_RECEIVE: the next flit on the wire reaches an end; `flip` is what line errors have changed in it. The credit of a
duplicate has been taken before (R22). A port in RETENTION wakes first (R380). -/
def execGirthFlitReceive (e flip : Nat) (s : State) : Res :=
  done s (match (s.gend e).wire with
    | [] => s
    | w :: rest => needOn s [(e / 4, 42 + gPort e)] (fun s =>
      let s := s.modGend e (fun x => { x with wire := rest })
      let fl := leBytes 128 (leNat w.1 ^^^ flip)
      if !gUp s e then s
      else if !gCrcOk fl then s.addCtr (rGirth e 0x20) 1
      else
        let h := gHdrOf (leNat (fl.take 8)) (leNat ((fl.drop 120).take 4))
        let x := s.gend e
        let x := if h.ackValid then gAck x h.ackSeq h.sack else x
        let new := subMod 10 h.seq x.rxNext < 512 && !x.held.any (fun p => p.1 = h.seq)
        let x := { x with anyRx := true }
        let x := if new then { x with
            cred := setNth x.cred h.credCls (nth 0 x.cred h.credCls + h.credRet)
            held := x.held ++ [(h.seq, ⟨h.cls, h.tag, (fl.drop 8).take (16 * h.len), w.2⟩)] } else x
        gDeliver 512 (s.setGend e x) e))

/-- GIRTH_ACK_TIMEOUT: GIRTH.ACK_TIMER has expired, and the unacknowledged flits are resent (R22; log 3). -/
def execGirthAckTimeout (e : Nat) (s : State) : Res :=
  done s (if e < 32 then s.modGend e (fun x => { x with replay := x.replay.map (fun r => { r with due := true }) }) else s)

/-! ## Events (R30, Table 1.5) -/

/-- A Girth event is raised in the fault set of its port, and one of port 2 in the hub's too; `i` is its row of Table 1.5. -/
def gRaise (s : State) (e : Nat) (src : FaultSrc) (i : Nat) (fields : List Nat) : State :=
  let s := s.raise src (4 * (e / 4) + gPort e) (Config.girthSynd i fields).toNat
  if gPort e = 2 then
    s.raise (.p2Event (e / 4)) 0 (packBits [(i, 0, 3), (gActive s e, 3, 5), (s.f (rGirth e 0) 16 16, 8, 16)])
  else s

/-- A margining run ends with STATE = 3 when its lane, at end `e`, is one that `hit` names by group and lane (R416). -/
def marginHit (s : State) (e : Nat) (hit : Nat → Nat → Bool) : State :=
  let d := s.f marginBase 0 3
  let p := s.f marginBase 3 2
  let g := s.f marginBase 5 4
  let l := s.f marginBase 9 7
  if s.f marginBase 25 2 = 1 && 4 * d + p = e && hit g l then
    (s.setF marginBase 25 2 3).raise .marginAbort 0 (packBits [(d, 0, 3), (p, 3, 2), (g, 5, 4), (l, 9, 7)])
  else s

/-- LINK_UP changes, with its LINK record; a margining run on a link that goes down ends. -/
def setLinkUp (s : State) (e : Nat) (b : Bool) : State :=
  if gUp s e = b then s
  else
    let s := if b then s else marginHit (marginHit s e (fun _ _ => true)) (farEnd e) (fun _ _ => true)
    glintLink (s.setB (rGirth e 0) 0 b) 3 (4 * (e / 4) + gPort e) (0x80 + b2n b) 0

/-- The link of an end retrains, with its replay buffers kept (R23). -/
def gRetrain (s : State) (e : Nat) : State :=
  let s := setLinkUp (setLinkUp s e false) (farEnd e) false
  (s.modGend e (fun x => { x with training := true })).modGend (farEnd e) (fun x => { x with training := true })

/-- GIRTH_REPLAY_LIMIT: a flit has been resent 32 times. -/
def execGirthReplayLimit (e : Nat) (s : State) : Res :=
  done s (match (s.gend e).replay.find? (fun r => 32 ≤ r.resends) with
    | none => s
    | some r => if gUp s e then gRetrain (gRaise s e .replayLimit 5 [gPort e, r.seq]) e else s)

/-- An end's part of the end of training: the unacknowledged flits are resent first (R23). Each flit's count of resends starts anew, which
the rule does not say (DESIGN CHOICE, log 101). -/
def gTrained (s : State) (e : Nat) : State :=
  let n := 16 - ((upto 16).filter (fun g => gRetired s e g)).length
  let s := setLinkUp ((s.setF (rGirth e 0) 8 5 n).setB (rGirth e 0) 1 (n < 12)) e true
  s.modGend e (fun x => { x with training := false, replay := x.replay.map (fun r => { r with due := true, resends := 0 }) })

/-- GIRTH_RETRAIN_DONE: training of a link ends. Ring ports train once FEAT_EN is set (Table 16.4). -/
def execGirthRetrainDone (e : Nat) (s : State) : Res :=
  let f := farEnd e
  let able (x : Nat) : Bool := 1 ≤ dieState s (x / 4) && (upto 16).any (fun g => !gRetired s x g)
  done s (if !(e < 32) || gUp s e || !able e || !able f || (gPort e ≠ 2 && !s.boot.featSet) then s else gTrained (gTrained s e) f)

/-! ## Lane failures (R24-R29) -/

/-- GIRTH_LANE_FAIL: a lane of an active group fails; failures of a port are handled one at a time (R26). -/
def execGirthLaneFail (e g lane : Nat) (s : State) : Res :=
  done s (if !(e < 32) || 16 ≤ g || 66 ≤ lane || !gUp s e || gRetired s e g then s
    else s.modGend e (fun x => if x.fails.contains (g, lane) then x else { x with fails := x.fails ++ [(g, lane)] }))

/-- LANE_SPARED: the oldest failure's traffic has moved to a spare of its group (R24). -/
def execLaneSpared (e : Nat) (s : State) : Res :=
  done s (match (s.gend e).fails with
    | [] => s
    | (g, lane) :: rest =>
      let used := gSpares s e g
      if 2 ≤ used then s
      else gRaise ((marginHit (s.modGend e (fun x => { x with fails := rest })) e (fun h l => h = g && l = lane)).setF (rGirth e 0) (32 + 2 * g) 2 (used + 1)) e .girthLaneSpared 0
        [gPort e, g, lane, used])

/-- Whether a die has a route left to the hub: its port 2, or that of a ring neighbour (R27, R28). -/
def hubRoute (s : State) (d : Nat) : Bool :=
  let a := (d + 1) % 8
  let b := (d + 7) % 8
  !gLost s (4 * d + 2) || (!gLost s (4 * d) && !gLost s (4 * a + 2)) || (!gLost s (4 * d + 1) && !gLost s (4 * b + 2))

/-- A die without a route to the hub is isolated: its cores are offline and its stack is unreachable (R28). Allocator steps of its cores end in
their slices (R190). -/
def isolate (s : State) (d e : Nat) : State :=
  let s := (allSlots.filter (fun sl => sl / 64 = d)).foldl orphanSteps s
  let s := (s.setF (rCapDie d) 0 3 4).setB (rCapDie d) 3 false
  let s := capNote ((fromLen (32 * d) 32).foldl takeOffline s)
  gRaise s e .dieIsolated 4 [d]

/-- Dies that a port's loss leaves without a route. Where the port belongs to another die, DIE_ISOLATED is reported as an event of the
isolated die's port 2: the rules name no port for it (DESIGN CHOICE, log 101). -/
def isolateCheck (s : State) (e : Nat) : State :=
  (upto 8).foldl (fun s d => if 1 ≤ dieState s d && dieState s d ≤ 3 && !hubRoute s d then
    isolate s d (if e / 4 = d then e else 4 * d + 2) else s) s

/-- GROUP_RETIRED: the oldest failure's group has no spare left, and the port goes on without it; below 12 groups it is degraded, and
with none it is down (R25, R27, R28). -/
def execGroupRetired (e : Nat) (s : State) : Res :=
  done s (match (s.gend e).fails with
    | [] => s
    | (g, _) :: _ =>
      if gSpares s e g < 2 then s
      else
        let n := gActive s e - 1
        let s := marginHit (s.modGend e (fun x => { x with fails := x.fails.filter (fun p => p.1 ≠ g) })) e (fun h _ => h = g)
        let s := (s.setB (rGirth e 0) (16 + g) true).setF (rGirth e 0) 8 5 n
        let s := gRaise s e .groupRetired 1 [gPort e, g, n]
        let s := if n = 11 then gRaise (s.setB (rGirth e 0) 1 true) e .portDegraded 2 [gPort e, n] else s
        if n = 0 then isolateCheck (gRaise (setLinkUp (setLinkUp s e false) (farEnd e) false) e .portDown 3 [gPort e]) e else s)

/-- What an end releases on the other route: the traffic that is to take it, in its order. -/
def gRelease (s : State) (e : Nat) (old : List GFlit) (kind : Nat) : State :=
  let s := s.setB (rGirth e 0) 2 true
  let s := s.modGend e (fun x => { x with moved := kind })
  let go := old ++ (s.gend e).txq.filter (fun f => gShould s e f.cls f.way)
  let s := s.modGend e (fun x => { x with txq := x.txq.filter (fun f => !gShould s e f.cls f.way) })
  go.foldl (fun s f => gOffer s (gLoc e) { f with way := { f.way with leg := if f.way.leg = 1 then 1 else 0 } }) s

/-- GIRTH_REROUTE_RELEASE: the old route of a degraded port has delivered what it accepted, and the traffic that moves is released on the
other route; of a port that is down, the flits that have not reached the far end are replayed on the new route first (R27, R28;
log 102). -/
def execGirthRerouteRelease (e : Nat) (s : State) : Res :=
  let x := s.gend e
  let y := s.gend (farEnd e)
  done s (if !(e < 32) || !s.fb (rGirth e 0) 1 then s
    else if gDead s e || gDead s (farEnd e) then
      let lost := x.replay.filter (fun r => subMod 10 r.seq y.rxNext < 512)
      gRelease (s.modGend e (fun x => { x with replay := [] })) e (lost.map (fun r => r.fl)) 2
    else if x.replay.isEmpty then gRelease s e [] 1 else s)

end Sys2Proof.Machine
end

