-- ==== Sys2Proof/Machine/Site.lean ====
section
/-! DEFINITION. Bridle and the third-party sites (spec/01 R31-R37). -/

namespace Sys2Proof.Machine

def State.site (s : State) (i : Nat) : Site := look Site.reset s.sites i
/-- Change a site's state, whose domain is ON for it (R380; log 61). -/
def State.setSite (s : State) (i : Nat) (x : Site) : State := let s := wakeNow s 8 (3 + i); { s with sites := putRaw s.sites i x }

def rSiteWin (i w o : Nat) : Nat := siteBase i + 0x100 + 0x20 * w + o

/-- Whether an enabled window of a site touches, or contains, a byte run (R33, R37). -/
def winSpan (s : State) (i w : Nat) : Nat × Nat := (s.f (rSiteWin i w 0) 12 36 * 4096, (s.f (rSiteWin i w 8) 12 36 + 1) * 4096)
def winOn (s : State) (i w : Nat) : Bool := s.fb (rSiteWin i w 0x10) 0 && (winSpan s i w).1 < (winSpan s i w).2
def winHolds (s : State) (i w a n : Nat) : Bool := winOn s i w && (winSpan s i w).1 ≤ a && a + n ≤ (winSpan s i w).2
def winTouches (s : State) (i w a n : Nat) : Bool := winOn s i w && overlap (winSpan s i w) (a, a + n)

/-- Attribute bit an access needs: READ 1, WRITE 2, ATOMIC 3. -/
def siteBit : MemOp → Nat
  | .read => 1
  | .write => 2
  | .atomic _ => 3

/-- Why a request is refused, coded as in the syndrome; none when a window grants it. -/
def siteRefusal (s : State) (i : Nat) (r : SiteReq) : Option Nat :=
  if (upto 8).any (fun w => winHolds s i w r.addr r.len && s.fb (rSiteWin i w 0x10) (siteBit r.op)) then none
  else if (upto 8).any (fun w => winHolds s i w r.addr r.len) then some 1
  else if 2 ≤ ((upto 8).filter (fun w => winTouches s i w r.addr r.len)).length then some 2
  else some 0

/-- VIOL_CNT and BRIDLE_VIOLATION (R34, Table 14.4). -/
def siteViolation (s : State) (i reason len addr : Nat) : State :=
  (s.addCtr (siteBase i + 8) 1).raise .bridleViolation i (packBits [(i, 0, 1), (reason, 1, 2), (len, 3, 12), (addr, 15, 48)])

/-- Bytes that a site may pass in a microsecond. -/
def siteCap (s : State) (i : Nat) : Nat := 8000 * s.f (siteBase i) 8 8

/-- Whether the bytes passed in the last microsecond leave room (R33). -/
def siteRoom (s : State) (i n : Nat) : Bool :=
  sumN ((lastUs s.now (fun p => p.1) (s.site i).recent).map (fun p => p.2)) + n ≤ siteCap s i

/-- Clients that can be reset or absent: a VF exists while VF Enable is 1 (R35, R352). -/
def vfGone (s : State) (f : Nat) : Bool := 1 ≤ f && f ≤ 63 && !s.host.vfEnable

/-- A doorbell write that is permitted: the owner's message is sent or held pending, and a write that raises none is counted (R35). -/
def ringSite (s : State) (i : Nat) : State :=
  let c := siteBase i
  let own := s.f c 27 7
  let vec := s.f c 16 11
  if vfGone s own || s.host.msixPend.contains (own, vec) then s.addCtr (c + 8) 1 else s.sendMsix own vec

/-- Whether a granted write covers the site's doorbell word, with window 0 enabled for it (R35). -/
def ringsSite (s : State) (i a n : Nat) : Bool :=
  winOn s i 0 && s.fb (rSiteWin i 0 0x10) 2 && a ≤ (winSpan s i 0).1 && (winSpan s i 0).1 < a + n

/-- A granted request acts at the slices; a misaligned atomic fails there (R317), and a write of the doorbell word also rings (R35; log
88). -/
def siteAct (s : State) (i : Nat) (r : SiteReq) : State :=
  let s := s.setSite i { s.site i with recent := (s.now, r.len) :: lastUs s.now (fun p => p.1) (s.site i).recent }
  match r.op with
  | .read =>
    let bad := poisoned s r.addr r.len
    (hbmTouch s hintNormal r.addr r.len).emit (.siteResp i bad (if bad then [] else s.bytes r.addr r.len))
  | .write =>
    let s := hbmWrite s hintNormal r.addr (r.data.take r.len)
    if ringsSite s i r.addr r.len then ringSite s i else s
  | .atomic code =>
    let w := atWidth code
    if r.addr % w ≠ 0 || poisoned s r.addr w then s.emit (.siteResp i true [])
    else
      let x := leNat (r.data.take w)
      let t := s.atomicAt hintNormal code r.addr (if 7 ≤ code && code ≤ 8 then leNat ((r.data.drop w).take w) else x) x
      t.1.emit (.siteResp i false (leBytes w t.2.1))

/-- Whether a request is one: it names some bytes, a write carries as many, and an atomic is one of Table 12.2. No rule bounds its length;
the syndrome keeps the low twelve bits of it (log 101). -/
def siteReqOk (r : SiteReq) : Bool :=
  0 < r.len &&
  (match r.op with
    | .read => true
    | .write => r.data.length = r.len
    | .atomic c => c ≤ 10 && r.len = atWidth c)

def siteUp (s : State) (i : Nat) : Bool := i < 2 && s.fb (siteBase i) 0 && s.fb (siteBase i) 1

/-- BRIDLE_REQUEST: refused, held over the rate cap behind what is held already, or granted (R33, R34). -/
def execBridleRequest (site : Nat) (r : SiteReq) (s : State) : Res :=
  done s (if !siteUp s site || !siteReqOk r then s
    else match siteRefusal s site r with
      | some reason =>
        let s := siteViolation s site reason r.len r.addr
        (match r.op with
          | .read => s.emit (.siteResp site true [])
          | _ => s)
      | none =>
        if (s.site site).held.isEmpty && siteRoom s site r.len then siteAct s site r
        else s.setSite site { s.site site with held := (s.site site).held ++ [r] })

/-- BRIDLE_RATE_RELEASE: the first held request is granted once the cap allows it. -/
def execBridleRateRelease (site : Nat) (s : State) : Res :=
  done s (match (s.site site).held with
    | [] => s
    | r :: rest => if siteUp s site && siteRoom s site r.len then siteAct (s.setSite site { s.site site with held := rest }) site r else s)

/-- SITE_DOORBELL: the doorbell word is written: the owner's message is sent or held pending, and a write that raises none is counted
(R35). A refused one reports length 1 at WIN_BASE of window 0, as the rules give a doorbell write no length (DESIGN CHOICE, log 88). -/
def execSiteDoorbell (site : Nat) (s : State) : Res :=
  done s (if !siteUp s site then s
    else if !winOn s site 0 then siteViolation s site 0 1 (winSpan s site 0).1
    else if !s.fb (rSiteWin site 0 0x10) 2 then siteViolation s site 1 1 (winSpan s site 0).1
    else ringSite s site)

/-- SITE_DOWN: complete writes are committed, answers are dropped, and EN is cleared (R36). An atomic held over the rate cap is dropped: the
rule names writes and reads alone (DESIGN CHOICE, log 101). -/
def siteDown (s : State) (i : Nat) : State :=
  let writes := (s.site i).held.filter (fun r => r.op ≠ .read)
  let s := writes.foldl (fun s r => match r.op with
    | .write => hbmWrite s hintNormal r.addr r.data
    | _ => s) s
  let w := s.f (siteBase i) 2 2
  let s := (s.setSite i Site.reset).setF (siteBase i) 0 4 0
  s.raise .siteDown i (packBits [(i, 0, 1), (w, 1, 2)])

/-- SITE_LINK_DROP. -/
def execSiteLinkDrop (site : Nat) (s : State) : Res := done s (if siteUp s site then siteDown s site else s)

/-- SITE_WIDTH_DEGRADE: 2 modules or 1 module stay active (R31). -/
def execSiteWidthDegrade (site w : Nat) (s : State) : Res :=
  done s (if siteUp s site && 1 ≤ w && w < s.f (siteBase site) 2 2 then s.setF (siteBase site) 2 2 w else s)

/-- SITE_LINK_TRAINED: LINK_UP and WIDTH take their values. -/
def execSiteLinkTrained (site w : Nat) (s : State) : Res :=
  done s (if site < 2 && sitePresent s site && s.fb (siteBase site) 0 && !s.fb (siteBase site) 1 && 1 ≤ w && w ≤ 3 then
      (s.setB (siteBase site) 1 true).setF (siteBase site) 2 2 w
    else s)

/-- MSIX_VECTOR_UNMASK: a message held pending for the vector is sent (R35, R330; log 15). -/
def execMsixVectorUnmask (f vec : Nat) (s : State) : Res :=
  let n := if f = 0 then 2048 else if f = 64 then 64 else 32
  done s (if 64 < f || n ≤ vec then s
    else
      let was := s.host.msixPend.contains (f, vec)
      let s := (vfSeen s f).modHost (fun h => { h with
        msixOn := if h.msixOn.contains (f, vec) then h.msixOn else h.msixOn ++ [(f, vec)]
        msixPend := h.msixPend.filter (fun p => p ≠ (f, vec)) })
      if was then s.emit (.msix f vec) else s)

end Sys2Proof.Machine
end

