-- ==== Sys2Proof/Machine/Fault.lean ====
section
/-! DEFINITION. Fault register sets, reactions and the Lanterns (spec/14 R356-R371). -/

namespace Sys2Proof.Machine

/-! ## The fault register set (Table 14.2) -/

def fltStatus (s : State) (cls inst : Nat) : Nat := s.f (fltBase cls inst) 0 32
def fltPending (s : State) (cls inst : Nat) : Nat := s.f (fltBase cls inst) 32 32
def fltValid (s : State) (cls inst : Nat) : Bool := s.fb (fltBase cls inst + 8) 24
/-- FLT_ACTION of source `i`: REACT, ERR_N, HOST. -/
def fltReact (s : State) (cls inst i : Nat) : Nat := s.f (fltBase cls inst + 0x30 + 8 * (i / 8)) (8 * (i % 8)) 3
def fltErr (s : State) (cls inst i : Nat) : Bool := s.fb (fltBase cls inst + 0x30 + 8 * (i / 8)) (8 * (i % 8) + 3)
def fltHost (s : State) (cls inst i : Nat) : Bool := s.fb (fltBase cls inst + 0x30 + 8 * (i / 8)) (8 * (i % 8) + 4)

/-! ## ERR_N (R366) -/

/-- A STATUS bit as an element of `errBits`. -/
def errKey (cls inst i : Nat) : Nat := (cls * 4096 + inst) * 32 + i

/-- Whether the pin is asserted. -/
def errOn (s : State) : Bool := !s.errBits.isEmpty || s.fb 0x500 7

/-- A change of what asserts the pin, with the pin following. -/
def errChange (s : State) (f : State → State) : State :=
  let t := f s
  if errOn t = errOn s then t else t.emit (.errN (errOn t))

/-- STATUS bits of a block whose ERR_N_u is 1 assert the pin; one asserted already is not released by a change of ERR_N_u. -/
def errRefresh (s : State) (cls inst : Nat) : State :=
  errChange s (fun s =>
    { s with errBits := ((upto 32).filter (fun i => bitN (fltStatus s cls inst) i && fltErr s cls inst i)).foldl (fun l i =>
        insertNat l (errKey cls inst i)) s.errBits })

/-- STATUS bits are cleared. -/
def errClear (s : State) (cls inst mask : Nat) : State :=
  errChange s (fun s => { s with errBits := s.errBits.filter (fun k => !((k / 32 = cls * 4096 + inst) && bitN mask (k % 32))) })

/-! ## Owners and non-maskable traps (R356, R363) -/

/-- Cluster control core, die control core or MC that owns a block's traps: cluster, 64 + die, or 72. -/
def ownerOf (s : State) (cls inst : Nat) : Nat :=
  match cls with
  | 0 => clusterOf s inst
  | 1 => inst
  | 2 => 64 + inst
  | 3 => 64 + inst / 4
  | 4 => 64 + inst
  | 5 => 64 + inst
  | _ => 72

/-- A hart whose registers have no stated reset value (log 13). -/
def NmiHart.reset : NmiHart := { nmivec := 0, mepc := 0, mcause := 0, mtval := 0, pc := 0, handling := none, held := [] }

def State.hart (s : State) (o : Nat) : NmiHart := look NmiHart.reset s.nmi o
def State.setHart (s : State) (o : Nat) (h : NmiHart) : State := { s with nmi := putRaw s.nmi o h }

/-- The trap is taken: mepc, mcause, mtval, and the hart starts at NMIVEC. -/
def takeNmi (s : State) (o cls inst : Nat) : State :=
  let h := s.hart o
  (s.setHart o { h with
    mepc := h.pc, mcause := 2 ^ 63 + 24, mtval := fltBase cls inst, pc := h.nmivec, handling := some (cls, inst) }).emit (.nmi o cls inst)

/-- The next held NMI: the earliest, and of those that arrived together the lowest block identifier. -/
def nextNmi (h : NmiHart) : Option (Nat × Nat × Nat) :=
  h.held.foldl (fun b x => match b with
    | none => some x
    | some y =>
      if x.2.2 < y.2.2 || (x.2.2 = y.2.2 && blockId x.1 x.2.1 < blockId y.1 y.2.1) then some x else some y) none

/-- An NMI reaches its owner, which takes it or holds it. -/
def sendNmi (s : State) (o cls inst : Nat) : State :=
  match (s.hart o).handling with
  | none => takeNmi s o cls inst
  | some _ => s.setHart o { s.hart o with held := (s.hart o).held ++ [(cls, inst, s.evNo)] }

/-- The handler acknowledges the block it took, and the next held NMI is taken. -/
def ackNmi (s : State) (o cls inst : Nat) : State :=
  if (s.hart o).handling ≠ some (cls, inst) then s
  else
    let s := s.setHart o { s.hart o with handling := none }
    match nextNmi (s.hart o) with
    | none => s
    | some x => takeNmi (s.setHart o { s.hart o with held := (s.hart o).held.filter (fun y => y ≠ x) }) o x.1 x.2.1

/-- Harts of an owner start again at their reset vectors; NMIVEC has no stated reset (log 13). -/
def restartHart (s : State) (o : Nat) : State := s.setHart o NmiHart.reset

/-! ## Block reset (R364) -/

/-- Harts of a cluster control core restart, and running kernels end with KERNEL_FAULT. -/
def restartCluster (s : State) (cl : Nat) : State :=
  let s := (clusterSlots s cl).foldl (fun s sl => match (s.core sl).kernel with
    | none => s
    | some k => match kernelOp s sl k.tag with
      | none => s
      | some o => resetHart (endKernel s sl o (OpRes.ofStatus stKernelFault)) sl) s
  let t := restartHart s cl
  { t with lr := t.lr.filter (fun p => p.1 / 8 ≠ cl) }

/-- JOB_CFG.EN is cleared and set (R261, R364). -/
def cinchRestart (s : State) : State := if cinchEn s then jobEnable s else s

/-- CFG.EN of Shadow is set: every held slot is FREE and LAST_BASE is cleared, with HBM unchanged (R283). An armed verification and a held
FINAL_EV stay (R277, R280). -/
def shadowEnable (s : State) : State :=
  ((s.modShadow (fun h => { Shadow.reset with verify := h.verify, heldEv := h.heldEv, rests := h.rests })).wr (rShadow 0x48) 0#64).setF
    (rShadow 0x38) 0 64 0

/-- Shadow's block reset. -/
def shadowRestart (s : State) : State := let t := shadowStalled s; if s.fb shadowBase 0 then shadowEnable t else t

/-- Running measurements end, and every trace ring is closed (R364, R408, R420; log 63). -/
def awlReset (s : State) : State :=
  let s := (upto 18).foldl (fun s p => if s.f (awlBase p) 5 2 = 1 then s.setF (awlBase p) 5 2 3 else s) s
  let s := if s.f memGenBase 8 2 = 1 then s.setF memGenBase 8 2 3 else s
  let s := if s.f marginBase 25 2 = 1 then s.setF marginBase 25 2 3 else s
  (upto 8).foldl (fun s r => s.setB (rRing r 8) 0 false) s

/-- The MC restarts: the boot ROM chooses an image again, unless a takeover restarts the one that runs (R398, R399). -/
def mcRestart (s : State) (again : Bool) : State :=
  let s := restartHart s 72
  { s with boot := { s.boot with checked := again, heard := false, bad := [] } }

/-- The Lanterns' block reset of the hub management complex (R364, R370). -/
def lanternReset (s : State) : State := mcRestart ((s.setF (fltBase 12 0) 32 32 0).forget mailboxBase 0x700000) true

/-- Three block resets within one second count as a failure of the core (Table 14.4). -/
def coreBlockReset (s : State) (sl : Nat) : State :=
  let s := resetCore s sl
  let times := ((s.core sl).resets ++ [s.now]).filter (fun t => s.now - t < 1000000000)
  let s := s.modCore sl (fun c => { c with resets := times })
  if times.length = 3 then coreFails s sl else s

/-- The registers of a block that R364 can reset alone (Table 0.6, Table 14.1). -/
def blockSpan (cls inst : Nat) : Nat × Nat :=
  match cls with
  | 0 => (slotBase inst, slotBase inst + 0x10000)
  | 1 => (clusterBase (inst / 8) (inst % 8), clusterBase (inst / 8) (inst % 8) + 0x10000)
  | 2 => (dieBase inst, dieBase inst + 0x10000)
  | 3 => (girthBase (inst / 4) (inst % 4), girthBase (inst / 4) (inst % 4) + 0x4000)
  | 7 => (wenBase inst, wenBase inst + 0x8000)
  | 8 => (cinchBase, shadowBase)
  | 9 => (shadowBase, siteBase 0)
  | 10 => (siteBase inst, siteBase inst + 0x10000)
  | 12 => (mailboxBase, 0x700000)
  | 13 => (0x700000, 0x800000)
  | _ => (0, 0)

/-- Block reset by class; the block's fault set keeps everything but PENDING, and held lower halves of its registers are discarded
(R11). -/
def blockReset (s : State) (cls inst : Nat) : State :=
  let s := s.setF (fltBase cls inst) 32 32 0
  let s := s.forget (blockSpan cls inst).1 (blockSpan cls inst).2
  match cls with
  | 0 => coreBlockReset s inst
  | 1 => restartCluster s inst
  | 2 => restartHart s (64 + inst)
  | 3 => gRetrain s inst
  | 7 => let t := linkDown s inst 9; if portEn t inst then startTraining t inst else t
  | 8 => cinchRestart s
  | 9 => shadowRestart s
  | 10 => siteDown s inst
  | 12 => mcRestart s false
  | 13 => awlReset s
  | _ => s

/-! ## Raising (R359-R362) -/

/-- CHIP_RESET: a package reset is requested through the Lantern reset path, for this block (R365). -/
def requestReset (s : State) (cause block : Nat) : State :=
  if s.boot.resetReq.isSome then s else { s with boot := { s.boot with resetReq := some (cause, block) } }

/-- The reaction of a source. DIE_ISOLATED traps the MC; a class-12 fault goes to the Lanterns, which take no trap (R362). -/
def react (s : State) (cls inst i r : Nat) : State :=
  match r with
  | 1 => s.emit (.irq cls inst)
  | 2 => if cls = 12 then s.emit (.irq cls inst) else sendNmi s (if cls = 3 && i = 4 then 72 else ownerOf s cls inst) cls inst
  | 3 => blockReset s cls inst
  | 4 => requestReset s 3 (blockId cls inst)
  | _ => s

/-- The PF0 message of R367. -/
def hostNote (s : State) (cls inst i : Nat) : State :=
  if fltHost s cls inst i && s.fb 0x300 0 then s.sendMsix 0 (s.f 0x300 16 11 + cls) else s

/-- The latch is filled, then the message and the reaction follow (R359, R361, R367). -/
def latchFault (s : State) (cls inst i synd : Nat) (replayed : Bool) : State :=
  let b := fltBase cls inst
  let r := fltReact s cls inst i
  let v := packBits [(i, 0, 5), (blockId cls inst, 8, 16), (1, 24, 1), (r, 25, 3), (b2n (fltErr s cls inst i), 28, 1), (b2n replayed, 29, 1)]
  let s := ((s.wr (b + 0x10) (BitVec.ofNat 64 s.now)).wr (b + 0x18) (BitVec.ofNat 64 synd)).wr (b + 8) (BitVec.ofNat 64 v)
  react (hostNote s cls inst i) cls inst i r

/-- A source is raised (R359, R360). -/
def raiseSource (s : State) (cls inst i synd : Nat) (coord : List Nat) : State :=
  let b := fltBase cls inst
  let s := s.setB b i true
  let s := if fltErr s cls inst i then errChange s (fun s => { s with errBits := insertNat s.errBits (errKey cls inst i) }) else s
  let s := if cls = 3 || cls = 7 then glintLink s cls inst i synd else s
  if !fltValid s cls inst then
    let s := if cls = 0 && i = 0 then
        ((s.setF (slotBase inst + 0x208) 0 64 (nth 0 coord 0 + 2 ^ 32 * nth 0 coord 1)).setF (slotBase inst + 0x210) 0 64
          (nth 0 coord 2 + 2 ^ 32 * nth 0 coord 3)).setF (slotBase inst + 0x218) 0 64 (nth 0 coord 4)
      else s
    latchFault s cls inst i synd false
  else
    let s := (s.setB (b + 0x20) 0 true).satF (b + 0x20) 16 16 1
    let r := fltReact s cls inst i
    if r = 1 || r = 2 then s.setB b (32 + i) true
    else if r = 3 || r = 4 then react s cls inst i r
    else s

/-- The next trigger of a block: of its oldest event, the lowest index. -/
def nextRaise (s : State) (cls inst : Nat) : Option Raise :=
  (s.raises.filter (fun r => r.cls = cls && r.inst = inst)).foldl (fun b x => match b with
    | none => some x
    | some y => if x.ev < y.ev || (x.ev = y.ev && x.idx < y.idx) then some x else some y) none

/-- Sources whose trigger no other command covers: ECC errors in MC memory and, met by a control core, in cluster memory (Table 14.4,
R142). -/
def outsideSource (cls idx : Nat) : Bool := (cls = 12 || cls = 1) && idx < 2

/-- FAULT_RAISE: the block's next trigger reaches its fault set, or one that arises outside the modelled commands. -/
def execFaultRaise (cls inst : Nat) (trigger : Option (Nat × Nat)) (s : State) : Res :=
  done s (match trigger with
    | some (i, synd) => if outsideSource cls i && (cls = 12 || inst < 64) then raiseSource s cls (if cls = 12 then 0 else inst) i (synd % 2 ^ 64) [] else s
    | none =>
      match nextRaise s cls inst with
      | none => s
      | some r => raiseSource { s with raises := s.raises.erase r } cls inst r.idx r.synd r.coord)

/-! ## Acknowledgement (R361, R366) -/

/-- The lowest bit set. -/
def lowBit (m : Nat) : Option Nat := (upto 32).find? (fun i => bitN m i)

/-- Whether an acknowledgement of the power block's latch is that of PSU_TIMEOUT: the source is latched, or it no longer awaits the latch
(R361, R373). -/
def psuAcked (s : State) : Bool :=
  s.f (fltBase 11 0 + 8) 0 5 = 0 || !(bitN (fltPending s 11 0) 0 || s.raises.any (fun r => r.cls = 11 && r.idx = 0))

/-- FLT_FIRST.VALID is acknowledged: the latch empties, and the lowest pending source is latched. -/
def ackFault (s : State) (cls inst : Nat) : State :=
  if !fltValid s cls inst then s
  else
    let b := fltBase cls inst
    let own := if cls = 3 && s.f (b + 8) 0 5 = 4 then 72 else ownerOf s cls inst
    let s := s.setB (b + 8) 24 false
    let s := if cls = 11 && psuAcked s then { s with boot := { s.boot with psuHold := false } } else s
    let s := ackNmi s own cls inst
    match lowBit (fltPending s cls inst) with
    | none => s
    | some i => latchFault (s.setB b (32 + i) false) cls inst i 0 true

/-- FLT_STATUS bits are cleared. -/
def clearStatus (s : State) (cls inst mask : Nat) : State :=
  let b := fltBase cls inst
  errClear (s.setF b 0 32 (s.f b 0 32 - (s.f b 0 32 &&& mask % 2 ^ 32))) cls inst mask

/-! ## The Lanterns (R368-R371, Table 14.8) -/

def lanternState (s : State) : Nat := s.f 0x500 0 2

/-- The Lantern that acts: the primary, unless its heartbeat is absent and the other's is not (R369). -/
def actingLantern (s : State) : Nat := if s.boot.gone.contains 0 && !s.boot.gone.contains 1 then 1 else 0

/-- The package is held safe: every matrix rail goes to P5, and the stage is SAFE (R370, R406). -/
def holdSafe (s : State) : State :=
  let s := s.setF 0x500 0 2 3
  capNote (levelAll ((upto 8).foldl (fun s d => s.setF (rPlevel d) 19 3 5) s))

/-- LANTERN_ACTION: Lantern, resets made, outcome. -/
def raiseAction (s : State) (outcome : Nat) : State :=
  s.raise .lanternAction 0 (packBits [(s.f 0x500 2 1, 0, 1), (s.f 0x500 3 2, 1, 2), (outcome, 3, 1)])

/-- MC_HEARTBEAT_STOP: the heartbeat has been unchanged for 2 ms; the acting Lantern takes over (R370). The watch starts with the first
heartbeat (R398). -/
def execMcHeartbeatStop (s : State) : Res :=
  done s (if lanternState s ≠ 0 || !s.boot.heard then s
    else
      let v := packBits [(1, 0, 2), (actingLantern s, 2, 1), (0, 3, 2), (s.f 0x500 5 1, 5, 1), (0, 6, 1), (1, 7, 1), (s.now / 65536, 16, 48)]
      let s := errChange s (fun s => s.wr 0x500 (BitVec.ofNat 64 v))
      let s := (tellPartners s).setB 0x500 6 true
      let s := s.setF 0x500 3 2 1
      lanternReset s)

/-- RELEASE in RECOVERED: the Lantern watches again, admission resumes, and ERR_N is let go (R371). -/
def lanternRelease (s : State) : State :=
  errChange s (fun s => (((s.setF 0x500 0 2 0).setF 0x500 3 2 0).setB 0x500 6 false).setB 0x500 7 false)

/-- LANTERN_PEER_HEARTBEAT: a Lantern's heartbeat is present (R369). -/
def execLanternPeerHeartbeat (l : Nat) (s : State) : Res :=
  done s (if 1 < l then s
    else
      let b := insertNat s.boot.beats l
      ({ s with boot := { s.boot with beats := b, gone := s.boot.gone.filter (fun x => x ≠ l) } } : State).setB 0x500 5 (b.length = 2))

/-- LANTERN_LOST: a Lantern's heartbeat has been absent for 500 µs (R369). -/
def execLanternLost (l : Nat) (s : State) : Res :=
  done s (if 1 < l || s.boot.gone.contains l then s
    else
      (({ s with boot := { s.boot with beats := s.boot.beats.filter (fun x => x ≠ l), gone := insertNat s.boot.gone l } } : State).setB
        0x500 5 false).raise .lanternLost 0 (packBits [(l, 0, 1)]))

end Sys2Proof.Machine
end

