-- ==== Sys2Proof/Machine/Power.lean ====
section
/-! DEFINITION. Supply, regulators, power domains, capping, energy and temperature (spec/15 R372-R390; spec/18 R427, R430, R432, R433). -/

namespace Sys2Proof.Machine

def rPwrStatus : Nat := powerBase + 8

/-! ## Supply (R373, R374, R430) -/

/-- PSU_TIMEOUT: a command has not been acknowledged within TIMEOUT_MS, and no further one is issued until the latch is acknowledged. -/
def execPsuTimeout (cmd status : Nat) (s : State) : Res :=
  done s (if s.boot.psuHold then s
    else ({ s with boot := { s.boot with psuHold := true } } : State).raise .psuTimeout 0 (packBits [(cmd, 0, 8), (status, 8, 16)]))

/-- PMB_ALERT: the MC reads STATUS_WORD, PMBus command 0x79; what it reads, `status`, has no other effect (log 64). -/
def execPmbAlert (status : Nat) (s : State) : Res :=
  done s (if s.boot.psuHold || 2 ^ 16 ≤ status then s else s.emit (.pmbus 0x79))

/-- INPUT_UV: the voltage has stayed below 36.0 V for 100 µs; every matrix rail is capped at P3. -/
def execInputUv (mv : Nat) (s : State) : Res :=
  done s (if 36000 ≤ mv || s.boot.uv then s
    else
      let s := s.setF rPwrStatus 0 16 mv
      levelAll (({ s with boot := { s.boot with uv := true } } : State).raise .inputUv 0 (packBits [(mv, 0, 16)])))

/-- INPUT_UV_CLEAR: the voltage has stayed at or above 36.5 V for 10 ms. -/
def execInputUvClear (mv : Nat) (s : State) : Res :=
  done s (if mv < 36500 || !s.boot.uv then s
    else
      let s := s.setF rPwrStatus 0 16 mv
      levelAll { s with boot := { s.boot with uv := false } })

/-- INPUT_OV: the voltage has stayed above 44.0 V for 100 µs. -/
def execInputOv (mv : Nat) (s : State) : Res :=
  done s (if mv ≤ 44000 then s else (s.setF rPwrStatus 0 16 mv).raise .inputOv 0 (packBits [(mv, 0, 16)]))

/-! ## Domains (R378-R383) -/

/-- Core slot of a domain of a die. -/
def slotOfPd (d n : Nat) : Nat := if n = 32 then spareSlot d else 64 * d + 8 * (n / 4) + n % 4

/-- Whether a core slot's domain is idle (Table 15.2). -/
def coreIdle (s : State) (sl : Nat) : Bool :=
  (s.core sl).ops.isEmpty && (s.core sl).kernel.isNone && (upto 4).all (fun q => !qEn s sl q || hdrW s sl q 0 = hdrW s sl q 1)

/-- What the state shows of a domain's idleness; the rest is the environment's (Table 15.2; log 3). -/
def domIdle (s : State) (d n : Nat) : Bool :=
  if d = 8 then
    (match n with
      | 0 => stepState s = 0
      | 1 => s.shadow.snaps.isEmpty && !s.shadow.staging && s.shadow.rests.all (fun j => j.st.isSome)
      | 2 => (upto 18).all (fun p => s.f (awlBase p) 5 2 ≠ 1) && s.f memGenBase 8 2 ≠ 1 && s.f marginBase 25 2 ≠ 1
          && (upto 8).all (fun r => !s.fb (rRing r 8) 0)
      | 3 => (s.site 0).held.isEmpty
      | 4 => (s.site 1).held.isEmpty
      | _ => n < 23 && portState s (n - 5) = 0)
  else if n ≤ 32 then coreIdle s (slotOfPd d n)
  else if n ≤ 40 then (clusterSlots s (8 * d + (n - 33))).all (fun sl => (s.core sl).ops.isEmpty && (s.core sl).kernel.isNone)
  else if n ≤ 41 then true
  else if n ≤ 44 then
    let e := 4 * d + (n - 42)
    [e, farEnd e].all (fun e => (s.gend e).txq.isEmpty && (s.gend e).replay.isEmpty && (s.gend e).wire.isEmpty)
  else n = 45

/-- Before a slice is switched off, dirty lines are written back and the directory's holders cleared (R327). -/
def sliceFlush (s : State) (d : Nat) : State :=
  let t := ((s.lines.filter (fun c => c.dirty && lineDie c.line = d)).map (fun c => c.line)).foldl writeBack s
  { t with lr := t.lr.filter (fun p => lineDie p.2 ≠ d) }

/-- DOMAIN_IDLE: a domain that has been idle for IDLE_US begins entry to TARGET (R379, R383). -/
def execDomainIdle (d n : Nat) (s : State) : Res :=
  let r := rPd d n
  let off := s.fb r 4
  done s (if 8 < d || (d = 8 && 22 < n) || 45 < n || !domOn s d n || !s.fb r 3 || s.fb r 5 || !domIdle s d n then s
    else if d = 8 then setPd s d n (if off then 3 else 2)
    else
      let s := if n = 41 && off then sliceFlush s d else s
      askGate (setPd (setFormer s d n 0) d n 1) d n (if off then gateOff else gateRetention))

/-- What OFF loses: the data memories of a core slot or of a cluster; a slice holds no line any more (Table 15.2). -/
def offLoss (s : State) (d n : Nat) : State :=
  let spoil (s : State) (a : Nat) : State :=
    let (bs, s) := s.freeBytes (2 ^ 24)
    { s with mem := memPutAll s.mem a bs, poisonW := s.poisonW.filter (fun w => !(a / 8 ≤ w && w < (a + 2 ^ 24) / 8)) }
  if n ≤ 32 then emptyAcc (spoil s (spadA (slotOfPd d n))) (slotOfPd d n)
  else if n ≤ 40 then
    let cl := 8 * d + (n - 33)
    let t := (clusterSlots s cl).foldl resetHart (restartHart (spoil s (cmemA cl)) cl)
    { t with lr := t.lr.filter (fun p => p.1 / 8 ≠ cl) }
  else if n = 41 then { s with lines := s.lines.filter (fun c => lineDie c.line ≠ d) }
  else s

/-- The last gate request of a domain is acknowledged: the state changes, and an access that waits starts the wake (R381, R383). -/
def gateDone (s : State) (d n code : Nat) : State :=
  if (s.die d).rsi.any (fun r => r.dom = some n) then s
  else if code = gateOn then (setPd s d n 0).satF (rPd d n) 32 32 1
  else
    let s := setPd s d n (if code = gateOff then 3 else 2)
    let s := if code = gateOff then offLoss s d n else s
    if (s.die d).wanted.contains n then wakeDom (s.modDie d (fun x => { x with wanted := x.wanted.filter (fun m => m ≠ n) })) d n else s

/-- The outstanding request of a rail, and the state without it. -/
def takeRsi (s : State) (d rail : Nat) : Option (Rsi × State) :=
  match (s.die d).rsi.find? (fun r => r.sent && r.rail = rail) with
  | none => none
  | some r => some (r, s.modDie d (fun x => { x with rsi := x.rsi.erase r }))

/-- RSI_ACK: the rail's outstanding request is acknowledged (R375, R385). -/
def execRsiAck (d rail : Nat) (s : State) : Res :=
  done s (match takeRsi s d rail with
    | none => s
    | some (r, s) =>
      match r.dom with
      | none => pumpRsi (levelStep (s.modDie d (fun x => { x with rail0 := r.code })) d) d
      | some n => pumpRsi (gateDone s d n r.code) d)

/-- A failed wake: the domain is in its former state, and its core, cluster or slice is marked offline, so that operations which need it
complete with CORE_OFFLINE; a failed entry leaves it ON (R377; log 65). -/
def gateFail (s : State) (d n code : Nat) : State :=
  let s := s.modDie d (fun x => { x with rsi := x.rsi.filter (fun r => r.dom ≠ some n), wanted := x.wanted.filter (fun m => m ≠ n) })
  let s := setPd s d n (look 0 (s.die d).former n)
  if code ≠ gateOn then s
  else if n ≤ 32 then coreOffline s (slotOfPd d n)
  else if n ≤ 40 then (clusterSlots s (8 * d + (n - 33))).foldl coreOffline s
  else if n = 41 then capNote ((s.modDie d (fun x => { x with noSlice := true })).setB (rCapDie d) 3 false)
  else s

/-- RSI_TIMEOUT: no acknowledgement within 100 µs, and the request has failed (R377). A failed P-level request leaves the frequency of the
slower level. -/
def execRsiTimeout (d rail : Nat) (s : State) : Res :=
  done s (match takeRsi s d rail with
    | none => s
    | some (r, s) =>
      let s := s.raise .rsiTimeout d (packBits [(rail, 0, 4), (r.code, 4, 4)])
      match r.dom with
      | none =>
        let s := s.modDie d (fun x => { x with rsi := x.rsi.filter (fun y => y.dom.isSome) })
        pumpRsi ((s.setB (rPlevel d) 12 true).setB (rPlevel d) 11 false) d
      | some n => pumpRsi (gateFail s d n r.code) d)

/-- FREQUENCY_CHANGE_DONE: the islands run at the new level, and the die goes on toward its effective level (R385, R386). -/
def execFrequencyChangeDone (d : Nat) (s : State) : Res :=
  done s (match (s.die d).freqTo with
    | none => s
    | some e =>
      let was := s.f (rPlevel d) 8 3
      let s := (s.modDie d (fun x => { x with clk := e, freqTo := none })).setF (rPlevel d) 8 3 e
      levelStep (if was = e then s else glintPower s 2 d 1 0 was e) d)

/-! ## Power cap and energy (R387, R388) -/

/-- POWER_CAP_CHECK: the input power averaged over the last millisecond is compared with the limit. -/
def execPowerCapCheck (watts : Nat) (s : State) : Res :=
  let lim := s.f powerBase 0 12
  let cap := s.f rPwrStatus 32 3
  let s1 := s.setF rPwrStatus 16 16 watts
  let low := watts * 100 < lim * 95
  let n := if low then s.boot.lowMs + 1 else 0
  let s2 : State := { s1 with boot := { s1.boot with lowMs := if n = 10 then 0 else n } }
  done s (if lim < watts then
      let t := if cap = 0 then s2.raise .powerCap 0 (packBits [(watts, 0, 16), (lim, 16, 12)]) else s2
      levelAll (t.setF rPwrStatus 32 3 (min 5 (cap + 1)))
    else if n = 10 then levelAll (s2.setF rPwrStatus 32 3 (cap - 1))
    else s2)

/-- ENERGY_UPDATE: what was sensed in the last 10 µs, for each core slot of the die, for the rest of the die, and for the package. -/
def execEnergyUpdate (d : Nat) (nj : List Nat) (other pkg : Nat) (s : State) : Res :=
  let part := (upto 33).foldl (fun s n => s.addCtr (dieBase d + 0x2400 + 8 * n) (nth 0 nj n)) s
  done s (if 8 ≤ d then s
    else (part.addCtr (dieBase d + 0x2510) (sumN (nj.take 33) + other)).addCtr (powerBase + 0x10) pkg)

/-! ## Temperature (R389, R390) -/

/-- A signed temperature in a byte. -/
def tempByte (t : Int) : Nat := (t % 256).toNat
def tempOf (b : Nat) : Int := if b < 128 then b else (b : Int) - 256

/-- The sensors of a die, or of the hub for `d` = 8, as last read. -/
def temps (s : State) (d : Nat) : List Int :=
  if d = 8 then s.boot.hubTemps else (upto 8).map (fun i => tempOf (s.f (dieBase d + 0x2008) (8 * i) 8))

/-- Place of a thermal cap: DIE.PLEVEL.THERM, or HUB_THERM. -/
def rTherm (d : Nat) : Nat × Nat := if d = 8 then (rPwrStatus, 35) else (rPlevel d, 16)
def thermCap (s : State) (d : Nat) : Nat := s.f (rTherm d).1 (rTherm d).2 3
def setTherm (s : State) (d v : Nat) : State :=
  let s := s.setF (rTherm d).1 (rTherm d).2 3 v
  if d = 8 then levelAll s else levelStep s d

/-- Die, sensor and temperature. -/
def thermSynd (d i : Nat) (t : Int) : Nat := packBits [(d, 0, 4), (i, 4, 3), (tempByte t, 7, 8)]

/-- THERMAL_SAMPLE: the sensors of a die and its base tile's as a ninth one, or the hub's for `d` = 8. A sensor that reaches 105 °C caps at
P5 and raises THERMAL_CRIT; one that reaches 112 °C asserts THERMTRIP_N and stops the clocks (log 66). -/
def execThermalSample (d : Nat) (readings : List Int) (s : State) : Res :=
  let n := if d = 8 then 4 else 8
  let new := readings.take n
  let old := temps s d
  let s1 : State :=
    if d = 8 then { s with boot := { s.boot with hubTemps := new } }
    else s.wr (dieBase d + 0x2008) (BitVec.ofNat 64 (sumN ((upto 8).map (fun i => tempByte (nth 0 new i) * 256 ^ i))))
  let crit := (upto n).filter (fun i => 105 ≤ nth 0 new i && nth 0 old i < 105)
  let s2 := if new.any (fun t => 105 ≤ t) then setTherm s1 d 5 else s1
  let s3 := crit.foldl (fun s i => s.raise .thermalCrit 0 (thermSynd d i (nth 0 new i))) s2
  done s (if 8 < d then s
    else if readings.any (fun t => 112 ≤ t) && !s.boot.tripped then ({ s3 with boot := { s3.boot with tripped := true } } : State).emit .thermtrip
    else s3)

/-- THERMAL_CAP_STEP: the cap rises one level while a sensor is hot, and falls one level once all have been below the hysteresis for
1 ms. -/
def execThermalCapStep (d : Nat) (up : Bool) (s : State) : Res :=
  let hot : Int := s.f (powerBase + 0x18) 0 8
  let hyst : Int := s.f (powerBase + 0x18) 8 4
  let cap := thermCap s d
  let ts := temps s d
  done s (if 8 < d then s
    else if up then
      (match (upto ts.length).find? (fun i => hot ≤ nth 0 ts i) with
        | none => s
        | some i =>
          let s := if cap = 0 then s.raise .thermalThrottle 0 (thermSynd d i (nth 0 ts i)) else s
          setTherm s d (min 5 (cap + 1)))
    else if ts.all (fun t => t < hot - hyst) then setTherm s d (cap - 1)
    else s)

/-! ## Rails and clocks (R393, R433) -/

/-- IVR_FAULT: a rail has been outside 5 % of its target for 10 µs without a pending request; `d` = 8 is the hub. -/
def execIvrFault (d rail mv : Nat) (s : State) : Res :=
  done s (if 8 < d || 8 ≤ rail || (d < 8 && (s.die d).rsi.any (fun r => r.rail = rail)) then s
    else s.raise .ivrFault 0 (packBits [(d, 0, 4), (rail, 4, 3), (mv, 7, 10)]))

/-- REFCLK_LOSS: every loop switches to the holdover oscillator. -/
def execRefclkLoss (s : State) : Res := done s { s with boot := { s.boot with holdover := true } }

/-- REFCLK_RESTORE: the reference has been present for 10 ms. -/
def execRefclkRestore (s : State) : Res := done s { s with boot := { s.boot with holdover := false } }

end Sys2Proof.Machine
end

