-- ==== Sys2Proof/Machine/Reset.lean ====
section
/-! DEFINITION. Resets, firmware images and bring-up (spec/16 R394-R406; spec/01 R15, R29, R38, R39; spec/12 R323, R325; spec/18 R428,
R431; the Lantern's part of spec/14 R368-R371). -/

namespace Sys2Proof.Machine

def rReset : Nat := 0x20
def rBoot : Nat := 0x30

/-! ## What a reset keeps (Table 16.1, R365, R396) -/

/-- The value a register has after a reset of its block: fault latches without PENDING, SPARE_MAP, BOOT[3:0], BOOT_WAIT, hold entries and
the retire table, and but for a package reset retired Girth groups and used spares (R29). -/
def keptWord (pkg : Bool) (o : Nat) (v : Word) : Word :=
  let blk := o / 256 * 256
  if (fltBlockAt blk).isSome && o < blk + 0x28 then (if o = blk then BitVec.ofNat 64 (fld v 0 32) else v)
  else if o = rBoot then BitVec.ofNat 64 (fld v 0 4)
  else if o = 0x508 then BitVec.ofNat 64 (fld v 8 8 * 256)
  else if 0x1000000 ≤ o && o < 0x5000000 then
    let w := (o - 0x1000000) % 0x800000
    if w = 0x20 || (0x42000 ≤ w && w < 0x42080) || (0x44000 ≤ w && w < 0x45000) then v
    else if !pkg && (w = 0x10000 || w = 0x14000 || w = 0x18000) then BitVec.ofNat 64 (fld v 16 48 * 2 ^ 16)
    else regReset o
  else regReset o

/-- Reset registers that satisfy a test. -/
def resetRegs (s : State) (pkg : Bool) (p : Nat → Bool) : State :=
  { s with
    regs := (s.regs.map (fun e => if p e.1 then (e.1, keptWord pkg e.1 e.2) else e)).filter (fun e => !(p e.1 && e.2 = regReset e.1))
    held := s.held.filter (fun e => !p e.1)
    latch := s.latch.filter (fun e => !p e.1) }

/-- Lines that were dirty in a slice give way to what HBM holds (R395). -/
def loseDirty (s : State) (p : Nat → Bool) : State :=
  let mem := (s.stale.filter (fun e => p e.1)).foldl (fun m e => memPutAll m (64 * e.1) e.2) s.mem
  { s with mem := mem, stale := s.stale.filter (fun e => !p e.1), lines := s.lines.filter (fun c => !p c.line) }

/-- Dirty lines that satisfy a test are written back (R395). -/
def writeBackAll (s : State) (p : Nat → Bool) : State :=
  ((s.lines.filter (fun c => c.dirty && p c.line)).map (fun c => c.line)).foldl writeBack s

/-- The spare takes the logical number of its target when ARM is 1, and its tag window, and the replaced slot is powered off (R15,
R103). -/
def mapSpare (s : State) (d : Nat) : State :=
  let on := s.fb (rSpareMap d) 0 && sparePresent s d
  let s := s.setB (rSpareMap d) 1 on
  if on then
    let t := s.f (rSpareMap d) 8 5
    let s := s.modDie d (fun x => { x with mapped := 8 * (t / 4) + t % 4 })
    ((s.setF (rPd d t) 0 3 3).setF (rTagCfg (spareSlot d)) 0 8 (32 * d + t)).raise .spareMapped d (packBits [(t, 0, 5), (32 * d + t, 5, 8)])
  else s

/-- MC.STATUS counts follow the hold entries and the retire table. -/
def recount (s : State) (d : Nat) : State := holdUsed (s.setF (mcBase d) 16 10 (retiredPages s d).length) d

/-- A die's part of a reset after which nothing of its work is left. -/
def dieBoot (s : State) (d : Nat) : State := recount (repairRows (mapSpare s d) d) d

/-! ## Die reset (R394, R397) -/

/-- Both ends of a Girth link lose their traffic; a port that faces the die reports PORT_DOWN (R397). -/
def dropLink (s : State) (e : Nat) (report : Bool) : State :=
  let f := farEnd e
  let was := gUp s f
  let s := setLinkUp (setLinkUp s e false) f false
  let s := (s.setGend e GEnd.reset).setGend f { GEnd.reset with moved := if gPort f = 2 then 0 else (s.gend f).moved }
  if report && was then gRaise s f .portDown 3 [gPort f] else s

/-- Whether a place lies in a scratchpad or cluster memory of a die. -/
def sramOf (d a : Nat) : Bool :=
  (2 ^ 56 + 64 * d * 2 ^ 24 ≤ a && a < 2 ^ 56 + 64 * (d + 1) * 2 ^ 24) || (2 ^ 57 + 8 * d * 2 ^ 24 ≤ a && a < 2 ^ 57 + 8 * (d + 1) * 2 ^ 24)

/-- A die reset takes effect (R394, R397): peers of its channels see them close, its memories but HBM are lost, and the spare is mapped
and held rows repaired. -/
def resetDie (s : State) (d : Nat) : State :=
  let slots : List Nat := allSlots.filter (fun sl => sl / 64 = d)
  let s := slots.foldl resetCore s
  let s := dropLink (dropLink (dropLink s (4 * d) true) (4 * d + 1) true) (4 * d + 2) false
  let s := loseDirty s (fun l => lineDie l = d)
  let s := (s.acqWait.filter (fun w => w.2.1 / 64 = d)).foldl (fun s w =>
    match opOf s w.2.1 w.2.2 with
    | none => leaveLine s w
    | some o => setMoved (acqWithdraw s w o) w.1) s
  let x := s.die d
  let s : State := { s with
    mem := s.mem.filter (fun c => !sramOf d c.1), poisonW := s.poisonW.filter (fun w => !sramOf d (8 * w))
    cores := s.cores.map (fun c => if c.1 / 64 = d then (c.1, { Core.reset with rqs := c.2.rqs.map (fun p => (p.1, p.2.closed)) }) else c)
    nmi := s.nmi.filter (fun h => !(h.1 / 8 = d && h.1 < 64) && h.1 ≠ 64 + d)
    lr := s.lr.filter (fun p => p.1 / 64 ≠ d)
    kvWait := s.kvWait.filter (fun w => w.2.1 / 64 ≠ d) }
  let s := s.setDie d { Die.reset with repaired := x.repaired, failed := x.failed }
  let s := resetRegs s false (fun o => dieBase d ≤ o && o < dieBase (d + 1))
  let s := (s.wr (rCapDie d) 0#64).setF (rCapDie d) 0 3 5
  let s := (fromLen (32 * d) 32).foldl (fun s n => setOffline (setReady s n false) n false) s
  let s := ((s.regs.filterMap (fun e => fltBlockAt e.1)).filter (fun b => dieBase d ≤ fltBase b.1 b.2 && fltBase b.1 b.2 < dieBase (d + 1))).foldl
    (fun s b => errRefresh s b.1 b.2) s
  isolateCheck (capNote (dieBoot s d)) (4 * d + 2)

/-- DIE_RESET: a requested die reset takes effect, once no allocator step is held in the die's slice (R190), and after the slice has written
back its dirty lines (R395). -/
def execDieReset (d : Nat) (s : State) : Res :=
  done s (if d < 8 && diePresent s d && s.fb rReset (16 + d) && dieState s d ≠ 5 && !lockHeldIn s d then
      resetDie (writeBackAll ((allSlots.filter (fun sl => sl / 64 = d)).foldl orphanSteps s) (fun l => lineDie l = d)) d
    else s)

/-- GLOBAL.RESET.DIE_d is written: the reset is requested. -/
def askDieReset (s : State) (d : Nat) : State := s.setB rReset (16 + d) true

/-! ## Package reset (R394, R395) -/

/-- A package reset takes effect: dirty lines that were not written back are lost, and what Table 16.1 keeps is kept. -/
def resetPackage (s : State) (cause blk : Nat) : State :=
  let s0 := resetRegs (loseDirty s (fun _ => true)) true (fun _ => true)
  let t : State := { State.reset with
    pending := s.pending, now := s.now, evNo := s.evNo, freeCtr := s.freeCtr, fuses := s.fuses, regs := s0.regs, outbox := s.outbox
    mem := s0.mem.filter (fun c => c.1 < hbmTop || hostA 0 ≤ c.1), poisonL := s.poisonL, errBits := s.errBits
    dies := s.dies.map (fun p => (p.1, { Die.reset with repaired := p.2.repaired }))
    boot := { Boot.reset with
      perst := s.boot.perst, images := s.boot.images, records := s.boot.records, beats := s.boot.beats, gone := s.boot.gone, tripped := s.boot.tripped
      holdover := s.boot.holdover, uv := s.boot.uv } }
  let t := ((t.setF rReset 24 4 cause).setF rReset 28 16 blk).setB 0x500 5 (s.boot.beats.length = 2)
  let t := (upto 8).foldl (fun t d => if diePresent t d then dieBoot t d else t) t
  let t := ((t.regs.filterMap (fun e => fltBlockAt e.1)).foldl (fun t b => errRefresh t b.1 b.2) t)
  if errOn t = errOn s then t else t.emit (.errN (errOn t))

/-- PACKAGE_RESET: a requested package reset takes effect; one that GLOBAL.RESET asked for after every slice has written back its dirty lines
(R395). -/
def execPackageReset (s : State) : Res :=
  done s (match s.boot.resetReq with
    | none => s
    | some (cause, blk) => resetPackage (if cause = 2 then writeBackAll s (fun _ => true) else s) cause blk)

/-- PERST_N_ASSERT: PERST_N has been low for 10 µs; a falling edge during a package reset asks for no other (R431). -/
def execPerstNAssert (s : State) : Res :=
  done s (if s.boot.perst || !s.boot.powered then s else requestReset { s with boot := { s.boot with perst := true } } 1 0)

/-- The PCIe link trains: at 2.5 GT/s until PCIE_FULL_OK is 1, else at the generation reached; x16 or x8 (R330, R403). -/
def pcieTrain (s : State) (gen width : Nat) : State :=
  let g := if s.fb 0x600 7 then min 6 (max 1 gen) else 1
  let s : State := { s with boot := { s.boot with width := if width < 16 then 8 else 16 } }
  capNote (s.setF 0x600 4 3 g)

/-- PERST_N_RELEASE: PCIe training starts at the rising edge. -/
def execPerstNRelease (gen width : Nat) (s : State) : Res :=
  done s (if s.boot.perst then pcieTrain { s with boot := { s.boot with perst := false } } gen width else s)

/-- PCIE_LINK_RETRAIN: a retraining that the Downstream Port starts. -/
def execPcieLinkRetrain (gen width : Nat) (s : State) : Res := done s (if s.boot.perst then s else pcieTrain s gen width)

/-- POWER_LOSS: the input has stayed below 33.0 V for 10 µs; all state is lost but fuses, flash with its retire tables, the rows that hPPR has
replaced for good, and what is outside the package (R323, R428). -/
def execPowerLoss (s : State) : Res :=
  let t : State := { State.reset with
    pending := s.pending, evNo := s.evNo, freeCtr := s.freeCtr, outbox := s.outbox
    dies := s.dies.map (fun p => (p.1, { Die.reset with repaired := p.2.repaired }))
    regs := s.regs.filter (fun e => 0x1000000 ≤ e.1 && 0x44000 ≤ (e.1 - 0x1000000) % 0x800000 && (e.1 - 0x1000000) % 0x800000 < 0x45000)
    mem := s.mem.filter (fun c => hostA 0 ≤ c.1)
    boot := { Boot.reset with images := s.boot.images, records := s.boot.records, powered := false } }
  done s (if errOn s then t.emit (.errN false) else t)

/-- POWER_ON: the input rises through 36 V, and bring-up starts in the order of Table 16.4. -/
def execPowerOn (s : State) : Res := done s (if s.boot.powered then s else { s with boot := { s.boot with powered := true } })

/-! ## Firmware images (R398, R399, Table 16.2) -/

def image (s : State) (i : Nat) : Image := nth ⟨false, false, 0⟩ s.boot.images i
def imageOk (s : State) (i : Nat) : Bool := (image s i).hashOk && (image s i).sigOk
/-- Why an image is not valid: 0 hash, 1 signature. -/
def imageWhy (s : State) (i : Nat) : Nat := if (image s i).hashOk then 1 else 0

/-- The ROM checks an image: its VALID bit and its version. -/
def checkImage (s : State) (i : Nat) : State := (s.setB rBoot (5 + i) (imageOk s i)).setF rBoot (16 + 16 * i) 16 (image s i).version

def addBad (s : State) (i why : Nat) : State := { s with boot := { s.boot with bad := s.boot.bad ++ [(i, why)] } }

/-- No heartbeat has followed: the Lantern resets the MC (R398). -/
def resetMc (s : State) : State := restartHart (s.setF (fltBase 12 0) 32 32 0) 72

/-- Neither image runs: BOOT_FAIL, and the Lantern holds the package safe. -/
def bootFail (s : State) : State :=
  let why (i : Nat) : Nat := look 0 s.boot.bad i
  holdSafe (s.raise .bootFail 0 (packBits [(why 0, 1, 2), (why 1, 3, 2)]))

/-- The chosen image does not run, for a reason of Table 16.3: the other one starts, unless it does not run either. -/
def fallBack (s : State) (i why : Nat) : State :=
  let o := 1 - i
  let s := (addBad s i why).raise .imageBad 0 (packBits [(i, 0, 1), (why, 1, 2)])
  if s.boot.bad.any (fun b => b.1 = o) then bootFail s
  else
    let s := checkImage s o
    if imageOk s o then ((s.setF rBoot 0 1 o).setB rBoot 4 true).raise .imageFallback 0 o
    else bootFail (addBad s o (imageWhy s o))

/-- The boot ROM starts the preferred image, or the other one once when TRY is 1. -/
def romStart (s : State) : State :=
  let c := if s.fb rBoot 2 then 1 - s.f rBoot 1 1 else s.f rBoot 1 1
  let s : State := { s.setB rBoot 2 false with boot := { s.boot with checked := true, bad := [] } }
  let s := checkImage s c
  if imageOk s c then (s.setF rBoot 0 1 c).setB rBoot 4 false else fallBack s c (imageWhy s c)

/-- MAILBOX_IMAGE_WRITE: an image written through the mailbox is accepted only into the image that is not running. -/
def execMailboxImageWrite (img : Nat) (hashOk sigOk : Bool) (version : Nat) (s : State) : Res :=
  done s (if 1 < img || img = s.f rBoot 0 1 then s
    else { s with boot := { s.boot with images := setNth s.boot.images img ⟨hashOk, sigOk, version % 65536⟩ } })

/-! ## Bring-up (R38, R39, R400, Table 16.4) -/

/-- Blocks with a fault set (Table 14.1). -/
def fltBlocks : List (Nat × Nat) :=
  allSlots.map (fun i => (0, i)) ++ (upto 64).map (fun i => (1, i)) ++ (upto 8).map (fun i => (2, i))
    ++ ((upto 32).filter (fun i => i % 4 ≠ 3)).map (fun i => (3, i)) ++ (upto 8).map (fun i => (4, i)) ++ (upto 8).map (fun i => (5, i))
    ++ [(6, 0)] ++ (upto 18).map (fun i => (7, i)) ++ [(8, 0), (9, 0), (10, 0), (10, 1), (11, 0), (12, 0), (13, 0), (14, 0)]

/-- The MC records every full latch in the flash record area (R365). -/
def recordLatches (s : State) : State :=
  let new := (fltBlocks.filter (fun b => fltValid s b.1 b.2)).map (fun b =>
    (blockId b.1 b.2, s.f (fltBase b.1 b.2 + 8) 0 64, s.f (fltBase b.1 b.2 + 0x10) 0 64, s.f (fltBase b.1 b.2 + 0x18) 0 64))
  { s with boot := { s.boot with records := s.boot.records ++ new } }

def dieMajor (s : State) (d : Nat) : Nat := fld (nth 0#64 s.fuses.dieId d) 8 8
def dieFeature (s : State) (d : Nat) : Nat := fld (nth 0#64 s.fuses.dieId d) 16 8

/-- FEAT_EN is the lowest feature level of the present dies and the hub, and majors are compared (R38, R39). -/
def setFeatures (s : State) : State :=
  let ds : List Nat := (upto 8).filter (fun d => diePresent s d)
  let lvl := (ds.map (fun d => dieFeature s d)).foldl min (fld s.fuses.hubId 16 8)
  let s := ds.foldl (fun s d => s.setF (dieBase d) 32 8 lvl) (s.setF 0x10 32 8 lvl)
  let s : State := { s with boot := { s.boot with featSet := true } }
  if ds.any (fun a => ds.any (fun b => dieMajor s a ≠ dieMajor s b)) then
    (s.setB 0x600 3 true).raise .mixedStepping 0 (sumN (ds.map (fun d => dieMajor s d * 256 ^ d)))
  else s

/-- The MC's part of bring-up, one stage at each heartbeat: latches recorded and dies powered; FEAT_EN set once every port 2 has trained;
hub engines initialized and the PCIe presets loaded (log 67). -/
def mcStage (s : State) : State :=
  let ds : List Nat := (upto 8).filter (fun d => diePresent s d)
  if !s.boot.ever then
    let s := recordLatches s
    let s : State := { s with boot := { s.boot with ever := true } }
    capNote (ds.foldl (fun s d => if dieState s d = 0 then s.setF (rCapDie d) 0 3 1 else s) s)
  else if !s.boot.featSet then
    (if ds.all (fun d => dieState s d = 5 || gUp s (4 * d + 2) || (upto 16).all (fun g => gRetired s (4 * d + 2) g)) then capNote (setFeatures s) else s)
  else if !s.fb 0x600 7 then
    let s := (((s.setB 0x600 8 (upmBit s 46)).setB 0x600 9 (upmBit s 47)).setB 0x600 10 (upmBit s 45)).setB 0x600 7 true
    capNote ((s.setB 0x600 11 (sitePresent s 0)).setB 0x600 12 (sitePresent s 1))
  else s

/-! ## The heartbeat (R368-R371, R398) -/

/-- The MC writes a changed heartbeat: it runs, a takeover ends as recovered, and bring-up goes on. -/
def heartbeat (s : State) (count : Nat) : State :=
  let changed := s.f 0x510 0 32 ≠ count % 2 ^ 32
  let s := s.setF 0x510 0 32 count
  if !changed then s
  else
    let s := if s.boot.checked then s else romStart s
    if lanternState s = 3 then s
    else
      let s : State := { s with boot := { s.boot with heard := true } }
      let s := if lanternState s = 1 then raiseAction (s.setF 0x500 0 2 2) 0 else s
      mcStage s

/-- LANTERN_HEARTBEAT: only the MC writes it; another agent's write is discarded and reported (R368). -/
def execLanternHeartbeat (a : Agent) (count : Word32) (s : State) : Res :=
  let t := unhold (dropLatch s 0x510) 0x510
  done s (if a = .mc then (if s.boot.powered then heartbeat t count.toNat else s)
    else clampReport t a 0x510 0 0 rsnDiscarded count.toNat (s.f 0x510 0 64))

/-- BOOT_WAIT_EXPIRE: no heartbeat has followed a reset of the MC within BOOT_WAIT. In a takeover the MC is reset again, up to three times,
and then the package is held safe; otherwise the other image starts once (R370, R371, R398). -/
def execBootWaitExpire (s : State) : Res :=
  done s (if s.boot.heard || !s.boot.powered || lanternState s = 3 then s
    else if lanternState s = 1 then
      (if s.f 0x500 3 2 < 3 then lanternReset (s.setF 0x500 3 2 (s.f 0x500 3 2 + 1))
        else raiseAction (holdSafe s) 1)
    else
      let s := if s.boot.checked then s else romStart s
      if lanternState s = 3 then s else fallBack (resetMc s) (s.f rBoot 0 1) 2)

/-! ## Dies (R402, R404, R405) -/

/-- The MC maps the spare in for the lowest failed slot and resets the die; answers none when the spare cannot be used (R402). -/
def armSpare (s : State) (d : Nat) (failed : List Nat) : Option State :=
  match failed with
  | [] => none
  | sl :: _ =>
    if !spareAvail s d || failed.contains (spareSlot d) || s.fb (rSpareMap d) 0 then none
    else
      let s := failed.foldl (fun s sl => s.raise .coreFailed d (packBits [(sl, 0, 9), (coreNum s sl, 9, 8)])) s
      let s := s.modDie d (fun x => { x with failed := [sl] })
      some (askDieReset ((s.setF (rSpareMap d) 8 5 (4 * (sl / 8 % 8) + sl % 4)).setB (rSpareMap d) 0 true) d)

/-- Slots of a die that a self-test failed, but for the one the spare replaces. -/
def testFailed (s : State) (d : Nat) (failed : List Nat) : List Nat :=
  ((upto 64).map (fun i => 64 * d + i)).filter (fun sl => isSlot sl && failed.contains sl && !(spareActive s d && spareTarget s d = sl))

/-- A die becomes READY in reduced service: its ready cores accept the work that waits (R404). -/
def readyDie (s : State) (d : Nat) (hbmOk : Bool) : State :=
  let s := ((s.setF (rCapDie d) 0 3 2).setB (rCapDie d) 3 (hbmOk && upmBit s (8 + d))).setB (rCapDie d) 7 (spareActive s d)
  let s := (s.setB rReset (16 + d) false).setF (dieBase d) 32 8 (s.f 0x10 32 8)
  let s := (fromLen (32 * d) 32).foldl (fun s n => if offline s n || !coreBuilt s n then s else setReady s n true) s
  capNote (capCount (setFloor (s.setB (mcBase d) 0 (hbmOk && upmBit s (8 + d))) d 4) d)

/-- DIE_READY: bring-up or a reset of a die ends; `failed` are slots whose SRAM self-test failed. -/
def execDieReady (d : Nat) (failed : List Nat) (hbmOk : Bool) (s : State) : Res :=
  done s (if !diePresent s d || !s.boot.featSet || !(dieState s d = 1 || dieState s d = 5) then s
    else
      let bad := testFailed s d failed
      match armSpare s d bad with
      | some t => t.setF (rCapDie d) 0 3 1
      | none => isolateCheck (readyDie (bad.foldl coreFails s) d hbmOk) (4 * d + 2))

/-- A core that passed: G16_EN, and WIDE_EN where it is built. -/
def enableCore (s : State) (sl : Nat) (on : Bool) : State :=
  s.setF (slotBase sl + 0x3A0) 0 4 (3 + (if on then 4 + 8 * b2n (wideBuilt s) else 0))

/-- MATRIX_SELFTEST_DONE: the die moves to FULL, unless steppings are mixed (R404, R405). -/
def execMatrixSelftestDone (d : Nat) (failed : List Nat) (s : State) : Res :=
  done s (if dieState s d ≠ 2 || s.fb (rCapDie d) 4 then s
    else
      let bad := testFailed s d failed
      match armSpare s d bad with
      | some t => t
      | none =>
        let s := (bad.foldl coreFails s).setB (rCapDie d) 4 true
        let mixed := s.fb 0x600 3
        let good : List Nat := allSlots.filter (fun sl => sl / 64 = d && !bad.contains sl)
        let s := good.foldl (fun s sl => enableCore s sl (!mixed)) s
        let s := bad.foldl (fun s sl => s.setF (slotBase sl + 0x3A0) 0 4 1) s
        if mixed then capNote s
        else
          let s := (setFloor s d 0).setF (rCapDie d) 0 3 3
          capNote ((s.setB (rCapDie d) 5 (!good.isEmpty)).setB (rCapDie d) 6 (wideBuilt s && !good.isEmpty)))

end Sys2Proof.Machine
end

