-- ==== Sys2Proof/Machine/Awl.lean ====
section
/-! DEFINITION. Awl measurements, margining and the package time base (spec/17 R407-R418; spec/18 R430). -/

namespace Sys2Proof.Machine

def State.awlp (s : State) (p : Nat) : AwlP := look AwlP.reset s.awl p
def State.setAwlp (s : State) (p : Nat) (x : AwlP) : State := let s := wakeNow s 8 2; { s with awl := putRaw s.awl p x }

/-- P_CTL.STATE: 0 idle, 1 running, 2 done, 3 aborted. -/
def awlState (s : State) (p : Nat) : Nat := s.f (awlBase p) 5 2
def setAwlState (s : State) (p x : Nat) : State := s.setF (awlBase p) 5 2 x

/-! ## Start and stop (R408, R421) -/

/-- START on a port given to Awl with a MODE: counters and histogram are cleared, and the measurement runs. -/
def awlBegin (s : State) (p : Nat) : State :=
  if !awlPort s p || awlMode s p = 0 then s
  else
    let b := awlBase p
    let s := s.resetRange (b + 0x40) (b + 0x2C8)
    let s := (s.setAwlp p AwlP.reset).modWport p (fun x => { x with injN := 0 })
    setAwlState s p 1

/-- A PRBS lane's bits checked and bits errored are counted (R409). -/
def prbsCount (s : State) (p lane bits errs : Nat) : State :=
  (s.addCtr (awlBase p + 0x200 + 8 * lane) errs).addCtr (awlBase p + 0x280 + 8 * lane) bits

/-- STOP; `prbs` says what the locked lanes have counted since they locked: lane, bits, errors (log 3). -/
def awlEnd (s : State) (p : Nat) (prbs : List (Nat × Nat × Nat)) : State :=
  if awlState s p ≠ 1 then s
  else
    let s := if awlIn s p 1 then
        (prbs.filter (fun l => (s.awlp p).locked.contains l.1)).foldl (fun s l => prbsCount s p l.1 l.2.1 l.2.2) s
      else s
    setAwlState (s.setAwlp p { s.awlp p with locked := [] }) p 2

/-- The port leaves its mode: a running measurement ends (R408; log 63). -/
def awlLeave (s : State) (p : Nat) : State := if awlState s p = 1 then setAwlState s p 3 else s

/-! ## PRBS (R409) -/

/-- PRBS_LOCK: a lane's checker has seen 64 consecutive correct bits. -/
def execPrbsLock (p lane : Nat) (s : State) : Res :=
  done s (if 18 ≤ p || 9 ≤ lane || !awlIn s p 1 || awlState s p ≠ 1 || (s.awlp p).locked.contains lane then s
    else s.setAwlp p { s.awlp p with locked := (s.awlp p).locked ++ [lane] })

/-- PRBS_UNLOCK: 8 errored bits within 64 bits; `bits` and `errs` are what the checker has counted since it locked. -/
def execPrbsUnlock (p lane bits errs : Nat) (s : State) : Res :=
  done s (if 18 ≤ p || !awlIn s p 1 || !(s.awlp p).locked.contains lane || errs < 8 || bits < errs then s
    else
      let s := prbsCount s p lane bits errs
      let s := s.setAwlp p { s.awlp p with locked := (s.awlp p).locked.filter (fun l => l ≠ lane) }
      s.raise .prbsUnlock 0 (packBits [(p, 0, 5), (lane, 5, 4)]))

/-! ## Traffic (R410) -/

/-- Whether the requests of the last microsecond leave room under RATE_PCT: a flit slot is 1.28 ns. -/
def genRoom (s : State) (p : Nat) : Bool :=
  let n := ((lastUs s.now (fun e => e.1) (s.wport p).recent).filter (fun e => e.2 ≠ 0)).length
  n * 128 ≤ s.f (awlBase p + 8) 32 7 * 1000

/-- AWL_GEN_ISSUE: the generator issues its next request on the port's own link; its TAG is not stated (log 17). -/
def execAwlGenIssue (p : Nat) (s : State) : Res :=
  let b := awlBase p
  let count := s.f (b + 8) 40 24
  done s (if !portUp s p || !awlIn s p 2 || awlState s p ≠ 1 || !genRoom s p then s
    else
      let (t, s) := s.freeWord
      let r : WReq :=
        { vc := s.f (b + 8) 0 3, src := ownPkg s, dst := s.f (b + 0x10) 48 12, tag := t % 2 ^ 14, reqId := s.wen.nextId
          op := s.f (b + 8) 8 8, flags := s.f (b + 8) 16 8, code := 0, arg := s.f (b + 0x10) 0 48
          data := patBytes s b (s.f (b + 0x20) 32 13) }
      let s := enqueue s p r.vc (flitsOf r)
      let s : State := { s with wen := { s.wen with
        nextId := (s.wen.nextId + 1) % 2 ^ 26, outs := s.wen.outs ++ [⟨p, some p, r, WOrigin.awl p, false, s.now⟩] } }
      let n := (s.awlp p).issued + 1
      let s := s.setAwlp p { s.awlp p with issued := n }
      if count ≠ 0 && n = count then setAwlState s p 2 else s)

/-! ## Injection (R414) -/

/-- AWL_INJECT: after PERIOD flits the next injection begins, once the window of the last one has ended; `arg` says which breach of a rule
a MALFORMED flit carries. -/
def execAwlInject (p arg : Nat) (s : State) : Res :=
  let r := awlBase p + 0x18
  let kind := s.f r 0 3
  let x := s.wport p
  done s (if 18 ≤ p || kind = 0 || 5 < kind || !(awlIn s p 2 || awlIn s p 3) || (kind = 5 && !awlIn s p 3) || !linkLive s p || x.inj ≠ 0
      || x.injN < s.f r 16 16 || s.f r 32 16 ≤ (s.rd (awlBase p + 0x70)).toNat then s
    else (s.setWport p { x with inj := kind, injArg := arg, injN := 0 }).addCtr (awlBase p + 0x70) 1)

/-- INJECTION_END: DURATION_US of an ACK_DROP or CREDIT_STARVE has passed. -/
def execInjectionEnd (p : Nat) (s : State) : Res :=
  done s (if p < 18 && ((s.wport p).inj = 2 || (s.wport p).inj = 4) then s.modWport p (fun x => { x with inj := 0 }) else s)

/-! ## The memory-path generator (R415) -/

def genLen (s : State) : Nat := s.f memGenBase 10 54
def genAddr (s : State) : Nat := s.f (memGenBase + 8) 0 48

/-- MEM_GEN.START: counters are cleared, and the run begins unless its range is not granted to PF1. -/
def memGenBegin (s : State) : State :=
  let s := (s.resetRange (memGenBase + 0x18) (memGenBase + 0x20)).resetRange (memGenBase + 0x40) (memGenBase + 0x200)
  let d := s.f memGenBase 1 3
  let k := s.f memGenBase 4 3
  let a := genAddr s
  let n := genLen s
  let ok := s.fb memGenBase 0 ||
    (k * stackBytes ≤ a && a + n ≤ (k + 1) * stackBytes && winCovers s d 0x40 1 a n && winCovers s d 0x40 2 a n)
  s.setF memGenBase 8 2 (if ok then 1 else 3)

/-- MEM_GEN_DONE: the passes end; the range holds PATTERN, and latencies and differing bytes are counted. -/
def execMemGenDone (lats : List Nat) (errors : Nat) (s : State) : Res :=
  done s (if s.f memGenBase 8 2 ≠ 1 then s
    else
      let n := genLen s
      let bs := patBytes s memGenBase n
      let s := if s.fb memGenBase 0 then hostWrite s (s.rd (memGenBase + 0x10)).toNat bs
        else hbmTouch (hbmWrite s hintNormal (genAddr s) bs) hintNormal (genAddr s) n
      let s := lats.foldl (fun s l => addLatency s memGenBase l) (s.addCtr (memGenBase + 0x18) errors)
      s.setF memGenBase 8 2 2)

/-! ## Margining (R416, R417) -/

/-- GIRTH_MARGIN.START: a run that names a die whose UNCORE rail is down ends at once. -/
def marginBegin (s : State) : State :=
  (s.wr (marginBase + 8) 0#64).setF marginBase 25 2 (if dieState s (s.f marginBase 0 3) = 0 then 3 else 1)

/-- MARGIN_RUN_END: DWELL_US passes, or the receiver sees its lane change. The changes that the model knows of have ended the run already
(marginHit). -/
def execMarginRunEnd (errors bits : Nat) (aborted : Bool) (s : State) : Res :=
  done s (if s.f marginBase 25 2 ≠ 1 then s
    else if aborted then marginHit s (4 * s.f marginBase 0 3 + s.f marginBase 3 2) (fun _ _ => true)
    else ((s.setF (marginBase + 8) 0 32 errors).setF (marginBase + 8) 32 32 bits).setF marginBase 25 2 2)

/-- PCIE_MARGIN_COMMAND: the receiver samples at an offset of at most 14 timing or 48 voltage steps, at 32 or 64 GT/s, and reports a
count. -/
def execPcieMarginCommand (lane kind offset errors : Nat) (s : State) : Res :=
  let top := if kind = 0 then 14 else 48
  done s (if 16 ≤ lane || 1 < kind || top < offset || s.f 0x600 4 3 < 5 then s else s.emit (.marginResp lane errors))

/-! ## The time base (R418) -/

def rTbCtl : Nat := glintBase + 8

/-- Offset of a time from the nearest multiple of 10⁹. -/
def ppsOffset (t : Nat) : Int :=
  let r := t % 1000000000
  if 1000000000 ≤ 2 * r then (r : Int) - 1000000000 else r

/-- PPS_EDGE: discipline by the edge, and the time base a write of TB_SET has asked for (log 68). -/
def execPpsEdge (s : State) : Res :=
  let off := ppsOffset s.now
  let n := if off.natAbs ≤ 50 then s.time.good + 1 else 0
  let s1 : State :=
    if s.fb rTbCtl 0 then
      { (s.setF rTbCtl 32 32 (off % 2 ^ 32).toNat).setB rTbCtl 1 (s.fb rTbCtl 1 || 3 ≤ n) with
        time := { s.time with good := n, adj := max (-200000) (min 200000 (-off)) } }
    else s
  done s (match s.time.tbSet with
    | none => s1
    | some k =>
      let t : State := { s1 with time := { s1.time with tbSet := none } }
      if k * 1000000000 < s.now then t else { t with now := k * 1000000000 })

/-- PPS_LOST: no edge for 1.5 s. -/
def execPpsLost (s : State) : Res :=
  done s (if !s.fb rTbCtl 0 then s
    else
      ({ s.setB rTbCtl 1 false with time := { s.time with good := 0 } } : State).raise .ppsLost 0 (s.f rTbCtl 32 32))

/-- TB_SET.SECONDS: taken at the next edge; a value lower than the time base is discarded and reported. -/
def tbSetWrite (s : State) (a : Agent) (k : Nat) : State :=
  if k * 1000000000 < s.now then clampReport s a (glintBase + 0x10) 0 0 rsnDiscarded k 0
  else { s with time := { s.time with tbSet := some k } }

/-- MCTP_MESSAGE: a message for the MC arrives over I3C. -/
def execMctpMessage (bytes : List Byte) (s : State) : Res := done s (s.emit (.mctp bytes))

end Sys2Proof.Machine
end

