-- ==== Sys2Proof/Machine/RegWrite.lean ====
section
/-! DEFINITION. Register accesses through BAR0: who reaches what, per-field checks, rules that look beyond one field, Clamp Reports, and
what a write sets going (spec/00 R1, R3, R5, R9-R12; spec/13 R331, R353, R354; and the write rules of every register table). -/

namespace Sys2Proof.Machine

/-! ## Reach (R331, R3, R401, R380) -/

/-- The queue block of the ring engine at an offset: queue, offset within its block. -/
def queueOf (off : Nat) : Option Nat := if engineBase ≤ off && off < engineBase + 0x40000 then some ((off - engineBase) / 0x40) else none

/-- The register that an agent's BAR0 offset names: PF0, firmware, the MC and JTAG reach the whole map, PF1 the global identity, the
mailbox, Awl and Glint, and a VF its own queues and its client block (Table 13.1; log 70). -/
def mapBar (s : State) (a : Agent) (off : Nat) : Option Nat :=
  match a with
  | .client f =>
    if f = 0 then some off
    else if f = 64 then (if off = 0x10 || off = 0x100 || (0x600000 ≤ off && off < 0x800000) then some off else none)
    else if f < 64 then
      (if off < 0x400 then (queueAt s f (off / 0x40)).map (fun q => rQ q (off % 0x40))
        else if off < 0x500 then some (clientBase f + (off - 0x400)) else none)
    else none
  | _ => some off

/-- Whether an agent reaches a register named by its place in the whole map: a VF reaches the registers of its own queues. -/
def reaches (s : State) (a : Agent) (off : Nat) : Bool :=
  match a with
  | .client f =>
    if f = 0 then true
    else if f = 64 then mapBar s a off = some off
    else match queueOf off with
      | none => false
      | some q => f < 64 && hqFunc s q = f && sqId s q < 16
  | _ => true

def isVf : Agent → Bool
  | .client f => f ≠ 0 && f ≠ 64
  | _ => false

/-- Whether a register's window belongs to an absent unit, or to a die whose UNCORE rail is down (R3, R401). -/
def regAbsent (s : State) (off : Nat) : Bool :=
  if 0x1000000 ≤ off then
    let d := (off - 0x1000000) / 0x800000
    let w := (off - 0x1000000) % 0x800000
    let c := (w - 0x100000) / 0x80000
    let k := (w - 0x100000) % 0x80000 / 0x10000
    !diePresent s d || dieState s d = 0
      || (0x100000 ≤ w && w < 0x500000
        && (if k = 0 then !coreBuilt s (32 * d + 4 * c) else if k = 5 then !sparePresent s d else !coreBuilt s (32 * d + 4 * c + (k - 1))))
  else if 0x200000 ≤ off && off < 0x290000 then !portPresent s ((off - 0x200000) / 0x8000)
  else if 0x300000 ≤ off && off < 0x380000 then !upmBit s 46
  else if 0x380000 ≤ off && off < 0x400000 then !upmBit s 47
  else if 0x400000 ≤ off && off < 0x420000 then !sitePresent s ((off - 0x400000) / 0x10000)
  else if 0x700000 ≤ off && off < 0x800000 then !upmBit s 45
  else false

/-- The power domain a register belongs to (Table 15.2, Table 15.5, Table 15.7). -/
def regDomain (off : Nat) : Option (Nat × Nat) :=
  if 0x1000000 ≤ off then
    let d := (off - 0x1000000) / 0x800000
    let w := (off - 0x1000000) % 0x800000
    if 0x10000 ≤ w && w < 0x1C000 then some (d, 42 + (w - 0x10000) / 0x4000)
    else if 0x60000 ≤ w && w < 0x80000 then some (d, 41)
    else if 0x100000 ≤ w && w < 0x500000 then
      let c := (w - 0x100000) / 0x80000
      let k := (w - 0x100000) % 0x80000 / 0x10000
      if k = 0 then some (d, 33 + c) else if k = 5 then some (d, 32) else some (d, 4 * c + (k - 1))
    else none
  else if 0x200000 ≤ off && off < 0x290000 then some (8, 5 + (off - 0x200000) / 0x8000)
  else if 0x300000 ≤ off && off < 0x380000 then some (8, 0)
  else if 0x380000 ≤ off && off < 0x400000 then some (8, 1)
  else if 0x400000 ≤ off && off < 0x420000 then some (8, 3 + (off - 0x400000) / 0x10000)
  else if 0x700000 ≤ off && off < 0x800000 then some (8, 2)
  else none

/-- An access to a register of a domain that is not ON wakes it: a hub domain is ON at once, an access to a domain of a die is held
(R380; log 61). -/
def regOn (s : State) (off : Nat) (act : State → State) : State :=
  match regDomain off with
  | none => act s
  | some (d, n) => if d = 8 then act (wakeDom s 8 n) else needOn s [(d, n)] act

/-- Whether a register can be accessed at all. -/
def regThere (s : State) (off : Nat) : Bool := (regFields off).isSome && !regAbsent s off

/-! ## Reading (R12) -/

/-- What a read of a register returns: UPM, DIE.ID and HUB_ID come from fuses, and GLINT.TIME is the time base. -/
def regVal (s : State) (off : Nat) : Word :=
  if !regThere s off then 0#64
  else if off = 0x100 then s.fuses.upm
  else if off = 0x10 then setFld s.fuses.hubId 32 8 (s.f 0x10 32 8)
  else if off = glintBase then BitVec.ofNat 64 s.now
  else if 0x1000000 ≤ off && (off - 0x1000000) % 0x800000 = 0 then
    setFld (nth 0#64 s.fuses.dieId ((off - 0x1000000) / 0x800000)) 32 8 (s.f off 32 8)
  else s.rd off

/-- RC fields of a register are cleared. -/
def rcClear (s : State) (off : Nat) : State :=
  ((regFields off).getD []).foldl (fun s f => if f.acc = .rc then s.setF off f.lsb f.w 0 else s) s

/-- A read of an agent: of what is not mapped or absent it returns zero (R3, R331). -/
def readAt (s : State) (a : Agent) (off : Nat) (act : State → Nat → State) : State :=
  match mapBar s a off with
  | none => s.emit (.busData 0#64)
  | some o => if regThere s o then regOn s o (fun s => act s o) else s.emit (.busData 0#64)

/-- LOWER_HALF_READ: returns the lower half, latches the upper half, and clears an RC register (R12). -/
def execLowerHalfRead (a : Agent) (off : Nat) (s : State) : Res :=
  done s (readAt s a off (fun s o =>
    let v := regVal s o
    let t := (rcClear s o).emit (.busData (BitVec.ofNat 64 (fld v 0 32)))
    { t with latch := putRaw t.latch o (fld v 32 32) }))

/-- UPPER_HALF_READ: returns the latched half and empties the latch, or the current bits when it is empty (R12). -/
def execUpperHalfRead (a : Agent) (off : Nat) (s : State) : Res :=
  done s (readAt s a off (fun s o =>
    if has s.latch o then (dropLatch s o).emit (.busData (BitVec.ofNat 64 (look 0 s.latch o)))
    else s.emit (.busData (BitVec.ofNat 64 (fld (regVal s o) 32 32)))))

/-- RC_READ: a 64-bit read returns one value, empties the latch, and clears an RC register (R12). -/
def execRcRead (a : Agent) (off : Nat) (s : State) : Res :=
  done s (readAt s a off (fun s o => (rcClear (dropLatch s o) o).emit (.busData (regVal s o))))

/-! ## Fields (R9, R10) -/

/-- A Clamp Report that a write owes: LSB, WIDTH, REASON, WRITTEN, APPLIED. -/
structure Rep where
  lsb : Nat
  width : Nat
  reason : Nat
  written : Nat
  applied : Nat
  deriving DecidableEq, Repr

/-- The RW fields of a write take their legal values; a nonzero reserved field is reported; other fields keep their values. -/
def applyFields (fs : List Field) (old v : Word) : Word × List Rep :=
  fs.foldl (fun (r : Word × List Rep) f =>
    let x := fld v f.lsb f.w
    match f.acc with
    | .rw =>
      let y := f.lg.apply x
      (setFld r.1 f.lsb f.w y, if x = y then r.2 else r.2 ++ [⟨f.lsb, f.w, rsnRange, x, y⟩])
    | .res => (r.1, if x = 0 then r.2 else r.2 ++ [⟨f.lsb, f.w, rsnReserved, x, 0⟩])
    | _ => r) (old, [])

/-! ## Writes that a rule discards whole -/

/-- Bits of a mask differ. -/
def differ (mask : Word) (a b : Word) : Bool := (a ^^^ b) &&& mask ≠ 0#64
/-- Every bit but [0]. -/
def notEn : Word := ~~~1#64

/-- Core slot and offset in its window. -/
def coreAt (off : Nat) : Option (Nat × Nat) :=
  if 0x1000000 ≤ off && off < 0x5000000 then
    let d := (off - 0x1000000) / 0x800000
    let w := (off - 0x1000000) % 0x800000
    if 0x100000 ≤ w && w < 0x500000 then
      let k := (w - 0x100000) % 0x80000 / 0x10000
      if k = 0 then none else some (64 * d + 8 * ((w - 0x100000) / 0x80000) + (k - 1), w % 0x10000)
    else none
  else none

/-- Writes to a core's registers that are discarded, with the REASON of Table 13.8 (R103, R160, R218, R222, R242, Table 4.15; log 71). -/
def coreDiscard (s : State) (sl o : Nat) (old new : Word) : Option Nat :=
  let b := slotBase sl
  let guard (en : Nat) (mask : Word) : Option Nat := if s.fb (b + en) 0 && differ mask old new then some rsnDiscarded else none
  if o = 0x8 then (if (upto 4).any (fun q => qEn s sl q) then some rsnDiscarded else none)
  else if 0x400 ≤ o && o < 0x500 then (if o % 0x40 = 0 then guard o notEn else none)
  else if o = 0x800 || o = 0x808 then guard 0x800 (if o = 0x800 then notEn else ~~~0#64)
  else if 0x900 ≤ o && o < 0x1100 then
    let c := (o - 0x900) / 0x20
    let busy := chanState s sl c ≠ 0
    if o % 0x20 = 0 then (if busy && differ notEn old new then some rsnDiscarded else none)
    else if o % 0x20 = 8 then (if busy && !bankB s sl && old ≠ new then some rsnDiscarded else none)
    else none
  else if 0x1800 ≤ o && o < 0x1A00 then
    (if chanState s sl ((o - 0x1800) / 8) ≠ 0 && bankB s sl && old ≠ new then some rsnDiscarded else none)
  else if 0x1100 ≤ o && o < 0x1500 then
    let base := o / 0x40 * 0x40
    if o = base then guard base notEn else if o = base + 8 then guard base (~~~0#64) else none
  else if 0x1600 ≤ o && o < 0x1640 then
    let base := o / 0x20 * 0x20
    let other := if base = 0x1600 then 0x1620 else 0x1600
    if o = base then
      (match guard base notEn with
        | some r => some r
        | none =>
          if fld new 0 1 = 1 && s.fb (b + other) 0 && s.f (b + other) 1 2 = fld new 1 2 then some rsnConflict else none)
    else if o = base + 8 then guard base (~~~0#64) else none
  else if o = 0x1640 then guard 0x1640 notEn
  else none

/-- Whether a client holds a task, or an op queue bound to its dedicated context. -/
def holdsWork (s : State) (f : Nat) : Bool :=
  s.host.tasks.any (fun t => t.f = f) || allSlots.any (fun sl =>
    (upto 4).any (fun q => qEn s sl q && ownsCtx f (qCtx s sl q)) && (match logicalOf s sl with
      | some n => dedicated s n
      | none => false))

/-- Writes outside the core windows that are discarded whole (R243, R261, R283, R306, R328, R333, R354, R368, R421). -/
def hubDiscard (s : State) (a : Agent) (off : Nat) (old new : Word) : Option Nat :=
  let guard (en : Nat) (mask : Word) : Option Nat := if s.fb en 0 && differ mask old new then some rsnDiscarded else none
  let whole (c : Bool) : Option Nat := if c then some rsnDiscarded else none
  if off = 0x510 then whole (a ≠ .mc)
  else if 0x1000000 ≤ off then
    let w := (off - 0x1000000) % 0x800000
    if 0x44000 ≤ w && w < 0x45000 then whole (a ≠ .mc || dieReady s ((off - 0x1000000) / 0x800000))
    else if 0x80000 ≤ w && w < 0x88000 then
      let base := off / 0x40 * 0x40
      if off = base + 0x18 then guard off notEn else if off < base + 0x18 then guard (base + 0x18) (~~~0#64) else none
    else none
  else if 0x200000 ≤ off && off < 0x290000 then
    let base := 0x200000 + (off - 0x200000) / 0x8000 * 0x8000
    let o := off - base
    if o = 0 then guard base 0xC4#64
    else if o = 0x18 || o = 0x20 || o = 0x28 || o = 0x30 || o = 0x38 then guard base (~~~0#64) else none
  else if cinchBase ≤ off && off ≤ cinchBase + 0x30 then guard cinchBase (if off = cinchBase then notEn else ~~~0#64)
  else if shadowBase ≤ off && off ≤ shadowBase + 0x20 then guard shadowBase (if off = shadowBase then notEn else ~~~0#64)
  else if 0x701000 ≤ off && off < 0x713000 then
    let o := (off - 0x701000) % 0x1000
    whole (8 ≤ o && o ≤ 0x20 && awlState s ((off - 0x701000) / 0x1000) = 1)
  else if off = memGenBase || off = memGenBase + 0x20 then whole (s.f memGenBase 8 2 = 1)
  else if off = marginBase then whole (s.f marginBase 25 2 = 1)
  else if 0x140000 ≤ off && off < 0x144100 && off % 0x100 = 0 then
    whole (differ 2#64 old new && holdsWork s ((off - 0x140000) / 0x100))
  else match queueOf off with
    | none => none
    | some q =>
      if off ≠ rQ q 0x10 then none
      else
        let f := fld new 16 7
        match guard off notEn with
        | some r => some r
        | none => whole (f ≠ 0 && f ≠ hqFunc s q && 16 ≤ (funcQueues s f).length)

/-- The reason a write is discarded whole, if it is. -/
def discards (s : State) (a : Agent) (off : Nat) (old new : Word) : Option Nat :=
  match coreAt off with
  | some (sl, o) => coreDiscard s sl o old new
  | none => hubDiscard s a off old new

/-! ## Rules over more than one field -/

/-- A field gets another value, which is reported. -/
def amend (v : Word) (lsb w reason y : Nat) : Word × List Rep :=
  let x := fld v lsb w
  if x = y then (v, []) else (setFld v lsb w y, [⟨lsb, w, reason, x, y⟩])

/-- Two amendments one after the other. -/
def andThen (r : Word × List Rep) (f : Word → Word × List Rep) : Word × List Rep := let t := f r.1; (t.1, r.2 ++ t.2)

/-- A field rounded down to a multiple. -/
def aligned (v : Word) (lsb w m : Nat) : Word × List Rep := amend v lsb w rsnAlign (fld v lsb w / m * m)

/-- The ring of a receive queue in its memory: offset and size (R195). -/
def rqSpan (s : State) (sl r : Nat) : Nat × Nat := (s.f (rRq sl r 8) 0 24, s.f (rRq sl r 8) 0 24 + 2 ^ s.f (rRq sl r 0) 16 5)

/-- An op queue's window in scratchpad or cluster memory, as a span. -/
def opqSpan (s : State) (sl q : Nat) (cmem : Bool) : Nat × Nat :=
  let w := rOpq sl q 0x18
  let l := if cmem then 16 else 0
  (65536 * s.f w l 8, if s.f w l 8 ≤ s.f w (l + 8) 8 then 65536 * (s.f w (l + 8) 8 + 1) else 65536 * s.f w l 8)

/-- Whether enabling receive queue `r` with configuration `new` is refused (R195). Its ring starts at a multiple of its size. -/
def rqClash (s : State) (sl r : Nat) (new : Word) : Bool :=
  let cm := fld new 2 1 = 1
  let lo := s.f (rRq sl r 8) 0 24 / 2 ^ fld new 16 5 * 2 ^ fld new 16 5
  let me := (lo, lo + 2 ^ fld new 16 5)
  let peers := if cm then clusterSlots s (clusterOf s sl) else [sl]
  peers.any (fun p =>
    (upto 4).any (fun q => overlap me (opqSpan s p q cm)) ||
    (upto 16).any (fun x => !(p = sl && x = r) && s.fb (rRq p x 0) 0 && s.fb (rRq p x 0) 2 = cm && overlap me (rqSpan s p x)))

/-- Valid bits of a word of accept entries that would give the queue more than 16 senders are refused (R196; log 110). -/
def acceptRule (s : State) (sl r n : Nat) (b : Bool) (new : Word) : Word × List Rep :=
  let here := b2n (s.fb (rAccept sl r n b) 31) + b2n (s.fb (rAccept sl r n b) 63)
  let room := 16 - (staticCount s sl r b - here + (s.rq sl r).dyn.length)
  let r0 := amend new 31 1 rsnRefused (min (fld new 31 1) room)
  andThen r0 (fun v => amend v 63 1 rsnRefused (min (fld v 63 1) (room - fld v 31 1)))

/-- Rules of a core's registers (R103, R133, R136, R160, R195, R222, R242, Table 4.15). -/
def coreRule (s : State) (sl o : Nat) (new : Word) : Word × List Rep :=
  let b := slotBase sl
  if o = 0x8 then
    if allSlots.any (fun x => x ≠ sl && (logicalOf s x).isSome && s.f (rTagCfg x) 0 8 = fld new 0 8) then
      amend new 0 8 rsnConflict (coreNum s sl)
    else (new, [])
  else if 0x400 ≤ o && o < 0x500 then
    let q := (o - 0x400) / 0x40
    let n := s.f (rOpq sl q 0) 1 4
    match o % 0x40 with
    | 0x00 =>
      let others (lsb : Nat) : Nat := ((upto 4).filter (fun x => x ≠ q && qEn s sl x)).foldl (fun m x => m ||| s.f (rOpq sl x 0) lsb 16) 0
      let lose (lsb : Nat) (v : Word) : Word × List Rep := amend v lsb 16 rsnConflict (fld v lsb 16 - (fld v lsb 16 &&& others lsb))
      let r := if fld new 0 1 = 1 then andThen (lose 16 new) (lose 32) else (new, [])
      andThen r (fun v => amend v 54 6 rsnRange (max (fld v 54 6) (fld v 48 6)))
    | 0x08 => andThen (aligned new 0 24 (128 * 2 ^ n)) (fun v => aligned v 24 24 (64 * 2 ^ n))
    | 0x10 => aligned new 0 48 64
    | _ => (new, [])
  else if o = 0x800 then amend new 16 24 rsnRange (min (fld new 16 24) (0x600000 - s.f (b + 0x808) 16 32))
  else if o = 0x808 then amend new 16 32 rsnRange (min (fld new 16 32) (0x600000 - s.f (b + 0x800) 16 24))
  else if 0x1100 ≤ o && o < 0x1500 then
    let r := (o - 0x1100) / 0x40
    match o % 0x40 with
    | 0x00 => if fld new 0 1 = 1 && !rqEn s sl r && rqClash s sl r new then amend new 0 1 rsnRefused 0 else (new, [])
    | 0x08 => aligned new 0 24 (rqSize s sl r)
    | _ => if 0x20 ≤ o % 0x40 then acceptRule s sl r ((o % 0x40 - 0x20) / 8) false new else (new, [])
  else if 0x1A00 ≤ o && o < 0x1C00 then acceptRule s sl ((o - 0x1A00) / 0x20) (o % 0x20 / 8) true new
  else if 0x1600 ≤ o && o < 0x1640 then
    match o % 0x20 with
    | 0x00 => amend new 4 3 rsnRange (if fld new 3 1 = 0 then 0 else max 1 (fld new 4 3))
    | 0x08 => aligned new 0 24 (32 * 2 ^ s.f (b + o - 8) 8 4)
    | _ => (new, [])
  else if o = 0x1640 then aligned new 8 16 (2 ^ (fld new 1 4 - 4))
  else (new, [])

/-- The last MSI-X vector of a client (R330). -/
def lastVec (f : Nat) : Nat := if f = 0 then 2047 else if f = 64 then 63 else 31

/-! ## Credits (R287) -/

/-- Register of VC v's credits on a port. -/
def rCredit (p v : Nat) : Nat := wenBase p + 0x30 + 8 * (v / 4)

/-- The port of a credit register. -/
def creditPort (off : Nat) : Nat := (off - 0x200000) / 0x8000

/-- Whether a register holds credits of a port. -/
def isCredit (off : Nat) : Bool :=
  0x200000 ≤ off && off < 0x290000 && (off = rCredit (creditPort off) 0 || off = rCredit (creditPort off) 4)

/-- VC0 has 16 flits at least. -/
def floorVc0 (off : Nat) (new : Word) : Word × List Rep :=
  if off = rCredit (creditPort off) 0 then amend new 0 12 rsnRange (max 16 (fld new 0 12)) else (new, [])

/-- Credits scaled to 4,096 flits in proportion, with VC0 at 16 at least (log 72). -/
def scaled (cs : List Nat) : List Nat :=
  let t := sumN cs
  let z := nth 0 cs 0
  if t ≤ 4096 then cs
  else if 16 ≤ z * 4096 / t then cs.map (fun c => c * 4096 / t)
  else 16 :: (cs.drop 1).map (fun c => c * 4080 / (t - z))

/-- The division of a port's buffer once `new` stands in one of its credit registers. -/
def divided (s : State) (off : Nat) (new : Word) : List Nat :=
  scaled ((upto 8).map (fun v =>
    let r := rCredit (creditPort off) v
    fld (if r = off then new else s.rd r) (16 * (v % 4)) 12))

/-- The written register's part of a division. -/
def creditRule (s : State) (off : Nat) (new : Word) : Word × List Rep :=
  andThen (floorVc0 off new) (fun n =>
    let ns := divided s off n
    (upto 8).foldl (fun r v =>
      if rCredit (creditPort off) v = off then andThen r (fun m => amend m (16 * (v % 4)) 12 rsnScaled (nth 0 ns v)) else r) (n, []))

/-- The other register's part, which the write of a register to `v` changes as well. -/
def creditHook (s : State) (a : Agent) (off : Nat) (v : Word) : State :=
  let ns := divided s off (floorVc0 off v).1
  (upto 8).foldl (fun s u =>
    let r := rCredit (creditPort off) u
    let x := s.f r (16 * (u % 4)) 12
    let y := nth 0 ns u
    if r = off || x = y then s else clampReport (s.setF r (16 * (u % 4)) 12 y) a r (16 * (u % 4)) 12 rsnScaled x y) s

/-- Rules of the other registers (R35, R243, R265, R287, R354, R382, R414, Table 17.4). -/
def hubRule (s : State) (off : Nat) (new : Word) : Word × List Rep :=
  if 0x1000000 ≤ off then
    let w := (off - 0x1000000) % 0x800000
    if 0x2100 + 8 * 42 ≤ w && w ≤ 0x2100 + 8 * 44 then amend new 4 1 rsnRange 0
    else if 0x80000 ≤ w && w < 0x88000 && off % 0x40 = 0x10 then
      amend new 6 42 rsnRange (min (fld new 6 42) (s.f (off - 8) 12 36 * 64))
    else (new, [])
  else if isCredit off then creditRule s off new
  else if off = shadowBase then
    if fld new 0 1 = 1 && !s.fb off 0 && grR s (fld new 8 8) < fld new 1 1 + 2 then amend new 0 1 rsnRefused 0 else (new, [])
  else if off = siteBase 0 || off = siteBase 1 then amend new 16 11 rsnRange (min (fld new 16 11) (lastVec (fld new 27 7)))
  else if 0x701000 ≤ off && off < 0x713000 && off % 0x1000 = 0x18 then
    let m := awlMode s ((off - 0x701000) / 0x1000)
    let k := fld new 0 3
    amend new 0 3 rsnRange (if (1 ≤ k && k ≤ 4 && (m = 2 || m = 3)) || (k = 5 && m = 3) then k else 0)
  else if off = memGenBase then
    let n := fld new 10 54
    amend new 10 54 rsnRange (if n % 64 ≤ 32 || 2 ^ 54 - 64 < n then n / 64 * 64 else n / 64 * 64 + 64)
  else match queueOf off with
    | none => (new, [])
    | some q =>
      if off = rQ q 0 then aligned new 0 64 (64 * hqSq s q)
      else if off = rQ q 8 then aligned new 0 64 (32 * hqCq s q)
      else (new, [])

def crossRule (s : State) (off : Nat) (new : Word) : Word × List Rep :=
  match coreAt off with
  | some (sl, o) => coreRule s sl o new
  | none => hubRule s off new

/-! ## What a write sets going -/

/-- CHAN_CFG: a static channel whose EN is written 1 opens, and EN written 0 closes (R197, R198, Table 7.4). -/
def chanHook (s : State) (sl c : Nat) : State :=
  if s.fb (rChan sl c 0) 0 then
    (if chanState s sl c = 0 && !chanDyn s sl c then (setChanState s sl c 2).setF (rChan sl c 0x10) 16 32 0 else s)
  else closeChan s sl c

/-- An offset in another register that a new size leaves unaligned is rounded down, and that is reported (R10, Table 7.10). -/
def refit (s : State) (a : Agent) (off lsb w m : Nat) : State :=
  let x := s.f off lsb w
  let y := x / m * m
  if x = y then s else clampReport (s.setF off lsb w y) a off lsb w rsnAlign x y

/-- RQ_CFG: EN set empties the ring, EN cleared closes the queue (R213, R218). -/
def rqHook (s : State) (sl r : Nat) (old : Word) : State :=
  let was := fld old 0 1 = 1
  if !was && rqEn s sl r then rqStatus ((s.setRq sl r (s.rq sl r).closed).wr (rRq sl r 0x10) 0#64) sl r
  else if was && !rqEn s sl r then closeRq s sl r
  else s

/-- HOLD_CFG.EN set: every entry is free (R232). -/
def holdHook (s : State) (sl : Nat) (old : Word) : State :=
  if fld old 0 1 = 0 && s.fb (rHold sl) 0 then
    holdShow (((upto (2 ^ s.f (rHold sl) 1 4)).foldl (fun s i => if holdState s sl i = 0 then s else setHoldState s sl i 0) s).setF
      (rHold sl) 32 13 0) sl
  else s

/-- A core's registers. -/
def coreHook (s : State) (a : Agent) (sl o : Nat) (old v : Word) : State :=
  if 0x400 ≤ o && o < 0x500 then
    let q := (o - 0x400) / 0x40
    if o % 0x40 = 0x20 && fld v 0 1 = 1 && qHalted s sl q then resumeQueue s sl q
    else if o % 0x40 = 0 && fld old 0 1 = 0 then
      let n := s.f (rOpq sl q 0) 1 4
      overrunCheck (refit (refit s a (rOpq sl q 8) 0 24 (128 * 2 ^ n)) a (rOpq sl q 8) 24 24 (64 * 2 ^ n)) sl q
    else s
  else if o = 0x800 then (if fld old 0 1 = s.f (slotBase sl + 0x800) 0 1 then s else stashClear s sl)
  else if 0x900 ≤ o && o < 0x1100 then (if o % 0x20 = 0 then chanHook s sl ((o - 0x900) / 0x20) else s)
  else if 0x1100 ≤ o && o < 0x1500 then
    let r := (o - 0x1100) / 0x40
    if o % 0x40 = 0 then rqHook (refit s a (rRq sl r 8) 0 24 (rqSize s sl r)) sl r old
    else if 0x20 ≤ o % 0x40 then rqStatus s sl r else s
  else if 0x1A00 ≤ o && o < 0x1C00 then rqStatus s sl ((o - 0x1A00) / 0x20)
  else if 0x1600 ≤ o && o < 0x1640 && o % 0x20 = 0 then refit s a (slotBase sl + o + 8) 0 24 (32 * 2 ^ s.f (slotBase sl + o) 8 4)
  else if o = 0x1640 then holdHook s sl old
  else s

/-- SET_SIZE at `off` stays within SET_STRIDE when that is written (R243). -/
def sizeFit (s : State) (a : Agent) (off : Nat) : State :=
  let x := s.f off 6 42
  let y := min x (s.f (off - 8) 12 36 * 64)
  if x = y then s else clampReport (s.setF off 6 42 y) a off 6 42 rsnRange x y

/-- SET_CFG of set `n` (R243). -/
def setHook (s : State) (n : Nat) (old : Word) : State :=
  let was := fld old 0 1 = 1
  if !was && setEn s n then setEnable s n else if was && !setEn s n then setDisable s n else s

/-- GLOBAL.RESET: PKG by PF0 alone; a write while the reset it asks for is in progress is discarded (R395, R397). -/
def resetHook (s : State) (a : Agent) (v : Word) : State :=
  let s := if fld v 0 1 = 0 || a ≠ .client 0 then s
    else if s.boot.resetReq.isSome then clampReport s a rReset 0 1 rsnDiscarded 1 0
    else requestReset s 2 0
  (upto 8).foldl (fun s d =>
    if fld v (8 + d) 1 = 0 || !diePresent s d then s
    else if s.fb rReset (16 + d) then clampReport s a rReset (8 + d) 1 rsnDiscarded 1 0
    else askDieReset s d) s

/-- LANTERN.CTL.RELEASE (R371). -/
def releaseHook (s : State) (a : Agent) (v : Word) : State :=
  if fld v 0 1 = 0 then s
  else if lanternState s = 2 then lanternRelease s
  else clampReport s a 0x508 0 1 rsnDiscarded 1 0

/-- A fault set's registers (Table 14.2). -/
def fltHook (s : State) (cls inst o : Nat) (v : Word) : State :=
  match o with
  | 0x00 => clearStatus s cls inst (fld v 0 32)
  | 0x08 => if fld v 24 1 = 1 then ackFault s cls inst else s
  | 0x20 => if fld v 0 1 = 1 then s.wr (fltBase cls inst + 0x20) 0#64 else s
  | _ => if 0x30 ≤ o then errRefresh s cls inst else s

/-- P_CTL: a change of MODE ends a measurement; STOP, then START (R408; log 63). -/
def awlHook (s : State) (p : Nat) (old v : Word) : State :=
  let s := if fld old 0 2 = awlMode s p then s else awlLeave s p
  let s := if fld v 3 1 = 1 then awlEnd s p [] else s
  if fld v 2 1 = 1 then awlBegin s p else s

/-- DIE.PLEVEL: FAILED is cleared by a 1, and the die takes up its level (R377, R385). -/
def plevelHook (s : State) (d : Nat) (v : Word) : State :=
  levelStep (if fld v 12 1 = 1 then s.setB (rPlevel d) 12 false else s) d

/-- The six accounting counters of a client are zeroed (Table 13.10). -/
def acctClear (s : State) (f : Nat) : State := (upto 6).foldl (fun s i => s.wr (clientBase f + 0x40 + 8 * i) 0#64) s

/-- SITE_CTL: EN cleared drops a link that is up (R36; log 73). -/
def siteHook (s : State) (i : Nat) (old : Word) : State :=
  if fld old 0 1 = 1 && !s.fb (siteBase i) 0 && s.fb (siteBase i) 1 then siteDown s i else s

/-- PORT_CTL (R290, R296, R407, R408). -/
def portHook (s : State) (p : Nat) (old v : Word) : State :=
  let s := if (fld old 1 1 = 1) ≠ awlPort s p then awlLeave s p else s
  let s := portCtlHook s p old
  if fld v 5 1 = 1 then failBack s p else s

/-- What a write of `v` sets going in the hub and outside the cores. -/
def hubHook (s : State) (a : Agent) (off : Nat) (old v : Word) : State :=
  if off = rReset then resetHook s a v
  else if off = rBoot then
    let s := if fld v 2 1 = 1 then s.setB rBoot 2 true else s
    if fld v 3 1 = 1 then s.setF rBoot 1 1 (s.f rBoot 0 1) else s
  else if off = 0x508 then releaseHook s a v
  else if off = 0x510 then heartbeat (s.wr 0x510 old) (fld v 0 32)
  else if 0x1000000 ≤ off then
    let d := (off - 0x1000000) / 0x800000
    let w := (off - 0x1000000) % 0x800000
    if w = 0x2000 then plevelHook s d v
    else if 0x44000 ≤ w && w < 0x45000 then recount s d
    else if 0x80000 ≤ w && w < 0x88000 && w % 0x40 = 8 then sizeFit s a (off + 8)
    else if 0x80000 ≤ w && w < 0x88000 && w % 0x40 = 0x18 then setHook s (512 * d + (w - 0x80000) / 0x40) old
    else s
  else if 0x200000 ≤ off && off < 0x290000 then
    let p := (off - 0x200000) / 0x8000
    let o := (off - 0x200000) % 0x8000
    if o = 0 then portHook s p old v else if isCredit off then creditHook s a off v else s
  else if off = cinchBase then (if fld old 0 1 = 0 && cinchEn s then jobEnable s else s)
  else if off = shadowBase then (if fld old 0 1 = 0 && s.fb shadowBase 0 then shadowEnable s else s)
  else if off = siteBase 0 then siteHook s 0 old
  else if off = siteBase 1 then siteHook s 1 old
  else if 0x701000 ≤ off && off < 0x713000 then
    (if off % 0x1000 = 0 then awlHook s ((off - 0x701000) / 0x1000) old v else s)
  else if off = memGenBase then (if fld v 7 1 = 1 then memGenBegin s else s)
  else if off = marginBase then (if fld v 24 1 = 1 then marginBegin s else s)
  else if off = glintBase + 0x10 then tbSetWrite s a (fld v 0 32)
  else if 0x140000 ≤ off && off < 0x144100 && off % 0x100 = 0 then
    (if fld v 4 1 = 1 then acctClear s ((off - 0x140000) / 0x100) else s)
  else match queueOf off with
    | none => s
    | some q =>
      if off = rQ q 0x10 then qcfgHook (refit (refit s a (rQ q 0) 0 64 (64 * hqSq s q)) a (rQ q 8) 0 64 (32 * hqCq s q)) q old
      else if off = rQ q 0x18 then (if fld v 32 1 = 1 && hqHalted s q then hostResume (s.setF off 32 1 0) q else s)
      else s

def writeHook (s : State) (a : Agent) (off : Nat) (old v : Word) : State :=
  match fltBlockAt (off / 256 * 256) with
  | some (cls, inst) => if off % 256 < 0x50 then fltHook s cls inst (off % 256) v else hubHook s a off old v
  | none =>
    match coreAt off with
    | some (sl, o) => coreHook s a sl o old v
    | none => hubHook s a off old v

/-! ## A write -/

def reportAll (s : State) (a : Agent) (off : Nat) (rs : List Rep) : State :=
  rs.foldl (fun s r => clampReport s a off r.lsb r.width r.reason r.written r.applied) s

/-- One report for a field: where two rules change it, WRITTEN is what was written and APPLIED what is in force (R10, Table 13.8). -/
def addRep (rs : List Rep) (r : Rep) : List Rep :=
  if rs.any (fun x => x.lsb = r.lsb && x.width = r.width) then
    rs.map (fun x => if x.lsb = r.lsb && x.width = r.width then { x with reason := r.reason, applied := r.applied } else x)
  else rs ++ [r]

def mergeReps (rs : List Rep) : List Rep := (rs.foldl addRep []).filter (fun r => r.written ≠ r.applied)

/-- A whole write of a register takes effect (R9-R11, R353). -/
def putReg (s : State) (a : Agent) (off : Nat) (v : Word) : State :=
  let fs := (regFields off).getD []
  let s := unhold (dropLatch s off) off
  let old := s.rd off
  let r1 := applyFields (withGaps 0 fs) old v
  let r1 := if isVf a && (queueOf off).isSome && off % 0x40 = 0x10 then (setFld r1.1 16 7 (fld old 16 7), r1.2.filter (fun r => r.lsb ≠ 16))
    else r1
  match discards s a off old r1.1 with
  | some why => clampReport s a off 0 0 why v.toNat old.toNat
  | none =>
    let r2 := andThen r1 (fun n => crossRule s off n)
    writeHook (reportAll (s.wr off r2.1) a off (mergeReps r2.2)) a off old v

/-- A write that reaches a register named by its place in the whole map (R3, R331, R380, R401). -/
def regWrite (s : State) (a : Agent) (off : Nat) (v : Word) : State :=
  if reaches s a off && regThere s off then regOn s off (fun s => putReg s a off v) else s

/-- The value of a write: whole, or its upper half with the held lower half, or with the current one (R11). -/
def writeVal (s : State) (off : Nat) : RegData → Word
  | .full v => v
  | .upper v => BitVec.ofNat 64 (v.toNat * 2 ^ 32 + (if has s.held off then look 0 s.held off else fld (regVal s off) 0 32))

/-- A VF's view of its client block is read only (Table 13.1). -/
def viewOnly (a : Agent) (off : Nat) : Bool := isVf a && 0x400 ≤ off

/-- REGISTER_WRITE: `off` is the offset in the agent's BAR0. -/
def execRegisterWrite (a : Agent) (off : Nat) (v : RegData) (s : State) : Res :=
  done s (match mapBar s a off with
    | none => s
    | some o => if regThere s o && !viewOnly a off then regOn s o (fun s => putReg s a o (writeVal s o v)) else s)

/-- LOWER_HALF_WRITE: held, with no effect on the register; as a write it empties the latch (R11, R12; log 74). -/
def execLowerHalfWrite (a : Agent) (off : Nat) (v : Word32) (s : State) : Res :=
  done s (match mapBar s a off with
    | none => s
    | some o =>
      if regThere s o && !viewOnly a off then
        regOn s o (fun s => let t := dropLatch s o; { t with held := putRaw t.held o v.toNat })
      else s)

/-! ## Registers with a row of their own -/

/-- The register's present RW fields with bits added: a write that changes nothing but them. -/
def withBits (s : State) (off bits : Nat) : Word :=
  let keep := ((regFields off).getD []).foldl (fun (v : Word) f => if f.acc = .rw then setFld v f.lsb f.w (s.f off f.lsb f.w) else v) 0#64
  keep ||| BitVec.ofNat 64 bits

/-- RESET_PKG_WRITE. -/
def execResetPkgWrite (a : Agent) (s : State) : Res := done s (regWrite s a rReset 1#64)

/-- DIE_RESET_WRITE. -/
def execDieResetWrite (a : Agent) (d : Nat) (s : State) : Res :=
  done s (if d < 8 then regWrite s a rReset (BitVec.ofNat 64 (2 ^ (8 + d))) else s)

/-- OPQ_RESUME: 1 is written to OPQ_STATUS.HALTED (R99). -/
def execOpqResume (a : Agent) (sl q : Nat) (s : State) : Res :=
  done s (if isSlot sl && q < 4 then regWrite s a (rOpq sl q 0x20) 1#64 else s)

/-- TAG_WINDOW_WRITE (R103). -/
def execTagWindowWrite (a : Agent) (sl : Nat) (v : Word) (s : State) : Res :=
  done s (if isSlot sl then regWrite s a (rTagCfg sl) v else s)

/-- STASH_ENABLE_WRITE: CORE.STASH_CFG is written (R155, R160). -/
def execStashEnableWrite (a : Agent) (sl : Nat) (v : Word) (s : State) : Res :=
  done s (if isSlot sl then regWrite s a (slotBase sl + 0x800) v else s)

/-- CHAN_CFG_WRITE (R197, R198, R218). -/
def execChanCfgWrite (a : Agent) (sl c : Nat) (v : Word) (s : State) : Res :=
  done s (if isSlot sl && c < 64 then regWrite s a (rChan sl c 0) v else s)

/-- RQ_CFG_WRITE (R195, R213, R218). -/
def execRqCfgWrite (a : Agent) (sl r : Nat) (v : Word) (s : State) : Res :=
  done s (if isSlot sl && r < 16 then regWrite s a (rRq sl r 0) v else s)

/-- SET_CFG_WRITE: SET_CFG of descriptor `i` of die `d` (R243). -/
def execSetCfgWrite (a : Agent) (d i : Nat) (v : Word) (s : State) : Res :=
  done s (if d < 8 && i < 512 then regWrite s a (tackBase d + 0x40 * i + 0x18) v else s)

/-- HOLD_CFG_WRITE (R232, R242). -/
def execHoldCfgWrite (a : Agent) (sl : Nat) (v : Word) (s : State) : Res :=
  done s (if isSlot sl then regWrite s a (rHold sl) v else s)

/-- CINCH_JOB_CFG_WRITE (R261). -/
def execCinchJobCfgWrite (a : Agent) (v : Word) (s : State) : Res := done s (regWrite s a cinchBase v)

/-- SHADOW_CFG_WRITE (R265, R283). -/
def execShadowCfgWrite (a : Agent) (v : Word) (s : State) : Res := done s (regWrite s a shadowBase v)

/-- PORT_CTL_WRITE (R290, R306). -/
def execPortCtlWrite (a : Agent) (p : Nat) (v : Word) (s : State) : Res :=
  done s (if p < 18 then regWrite s a (wenBase p) v else s)

/-- FAILBACK: 1 is written to PORT_CTL.FAILBACK (R296). -/
def execFailback (a : Agent) (p : Nat) (s : State) : Res :=
  done s (if p < 18 then regWrite s a (wenBase p) (withBits s (wenBase p) 0x20) else s)

/-- QUEUE_RESUME: 1 is written to QSTATUS.HALTED (R334). -/
def execQueueResume (a : Agent) (q : Nat) (s : State) : Res :=
  done s (if q < 4096 then regWrite s a (rQ q 0x18) (BitVec.ofNat 64 (2 ^ 32)) else s)

/-- QCFG_WRITE (R333, R354). -/
def execQcfgWrite (a : Agent) (q : Nat) (v : Word) (s : State) : Res :=
  done s (if q < 4096 then regWrite s a (rQ q 0x10) v else s)

/-- ACCT_CLR: 1 is written to CLIENT_CFG.ACCT_CLR. -/
def execAcctClr (a : Agent) (f : Nat) (s : State) : Res :=
  done s (if f ≤ 64 then regWrite s a (clientBase f) (withBits s (clientBase f) 0x10) else s)

/-- FAULT_ACK: 1 is written to FLT_FIRST.VALID (R361). -/
def execFaultAck (a : Agent) (cls inst : Nat) (s : State) : Res :=
  done s (if isBlock cls inst then regWrite s a (fltBase cls inst + 8) (BitVec.ofNat 64 (2 ^ 24)) else s)

/-- FLT_STATUS_CLEAR: bits of FLT_STATUS are written 1 (R366). -/
def execFltStatusClear (a : Agent) (cls inst : Nat) (mask : Word32) (s : State) : Res :=
  done s (if isBlock cls inst then regWrite s a (fltBase cls inst) (BitVec.ofNat 64 mask.toNat) else s)

/-- LANTERN_RELEASE: 1 is written to LANTERN.CTL.RELEASE (R371). -/
def execLanternRelease (a : Agent) (s : State) : Res := done s (regWrite s a 0x508 (withBits s 0x508 1))

/-- PLEVEL_REQUEST: DIE.PLEVEL is written (R377, R385). -/
def execPlevelRequest (a : Agent) (d : Nat) (v : Word) (s : State) : Res :=
  done s (if d < 8 then regWrite s a (rPlevel d) v else s)

/-- BOOT_TRY: 1 is written to GLOBAL.BOOT.TRY (R398, R399). -/
def execBootTry (a : Agent) (s : State) : Res := done s (regWrite s a rBoot 4#64)

/-- BOOT_CONFIRM: 1 is written to GLOBAL.BOOT.CONFIRM (R399). -/
def execBootConfirm (a : Agent) (s : State) : Res := done s (regWrite s a rBoot 8#64)

/-- AWL_START: 1 is written to P_CTL.START (R408). -/
def execAwlStart (a : Agent) (p : Nat) (s : State) : Res :=
  done s (if p < 18 then regWrite s a (awlBase p) (withBits s (awlBase p) 4) else s)

/-- AWL_STOP: 1 is written to P_CTL.STOP; `prbs` says what the locked lanes have counted since they locked (R408, R409; log 3). -/
def execAwlStop (a : Agent) (p : Nat) (prbs : List (Nat × Nat × Nat)) (s : State) : Res :=
  done s (if p < 18 && reaches s a (awlBase p) && regThere s (awlBase p) then
      awlEnd (unhold (dropLatch (wakeDom s 8 2) (awlBase p)) (awlBase p)) p prbs
    else s)

/-- MEM_GEN_START: MEM_GEN is written with START = 1 (R415, R421). -/
def execMemGenStart (a : Agent) (v : Word) (s : State) : Res := done s (regWrite s a memGenBase (v ||| 0x80#64))

/-- GIRTH_MARGIN_START: GIRTH_MARGIN is written with START = 1 (R416, R421). -/
def execGirthMarginStart (a : Agent) (v : Word) (s : State) : Res := done s (regWrite s a marginBase (v ||| 0x1000000#64))

/-- TB_SET: GLINT.TB_SET is written (R418). -/
def execTbSet (a : Agent) (seconds : Word32) (s : State) : Res :=
  done s (regWrite s a (glintBase + 0x10) (BitVec.ofNat 64 seconds.toNat))

end Sys2Proof.Machine
end

