-- ==== Sys2Proof/Machine/Dispatch.lean ====
section
/-! DEFINITION. The meaning of every command: one arm per row of spec/opcode_table.json. -/

namespace Sys2Proof.Machine

def exec (i : Instr) (s : State) : Host.Outcome State Fault Refusal :=
  match i with
  | .registerWrite a off v => Sys2Proof.Machine.execRegisterWrite a off v s
  | .lowerHalfWrite a off v => Sys2Proof.Machine.execLowerHalfWrite a off v s
  | .lowerHalfRead a off => Sys2Proof.Machine.execLowerHalfRead a off s
  | .upperHalfRead a off => Sys2Proof.Machine.execUpperHalfRead a off s
  | .rcRead a off => Sys2Proof.Machine.execRcRead a off s
  | .resetPkgWrite a => Sys2Proof.Machine.execResetPkgWrite a s
  | .dieResetWrite a d => Sys2Proof.Machine.execDieResetWrite a d s
  | .packageReset => Sys2Proof.Machine.execPackageReset s
  | .dieReset d => Sys2Proof.Machine.execDieReset d s
  | .girthTransmit e offer => Sys2Proof.Machine.execGirthTransmit e offer s
  | .girthFlitReceive e flip => Sys2Proof.Machine.execGirthFlitReceive e flip s
  | .girthAckTimeout e => Sys2Proof.Machine.execGirthAckTimeout e s
  | .girthReplayLimit e => Sys2Proof.Machine.execGirthReplayLimit e s
  | .girthRetrainDone e => Sys2Proof.Machine.execGirthRetrainDone e s
  | .girthLaneFail e g lane => Sys2Proof.Machine.execGirthLaneFail e g lane s
  | .laneSpared e => Sys2Proof.Machine.execLaneSpared e s
  | .groupRetired e => Sys2Proof.Machine.execGroupRetired e s
  | .girthRerouteRelease e => Sys2Proof.Machine.execGirthRerouteRelease e s
  | .bridleRequest site r => Sys2Proof.Machine.execBridleRequest site r s
  | .bridleRateRelease site => Sys2Proof.Machine.execBridleRateRelease site s
  | .siteDoorbell site => Sys2Proof.Machine.execSiteDoorbell site s
  | .siteLinkDrop site => Sys2Proof.Machine.execSiteLinkDrop site s
  | .siteWidthDegrade site w => Sys2Proof.Machine.execSiteWidthDegrade site w s
  | .coreFailure sl => Sys2Proof.Machine.execCoreFailure sl s
  | .coreResetTimeout sl => Sys2Proof.Machine.execCoreResetTimeout sl s
  | .opqProdAdvance sl q tods prod => Sys2Proof.Machine.execOpqProdAdvance sl q tods prod s
  | .opqResume a sl q => Sys2Proof.Machine.execOpqResume a sl q s
  | .tagWindowWrite a sl v => Sys2Proof.Machine.execTagWindowWrite a sl v s
  | .todBadOpcode sl q => Sys2Proof.Machine.execTodBadOpcode sl q s
  | .matmul sl q => Sys2Proof.Machine.execMatmul sl q s
  | .matmulAt sl q => Sys2Proof.Machine.execMatmulAt sl q s
  | .matmulBt sl q => Sys2Proof.Machine.execMatmulBt sl q s
  | .drain sl q => Sys2Proof.Machine.execDrain sl q s
  | .eltwise sl q => Sys2Proof.Machine.execEltwise sl q s
  | .reduce sl q => Sys2Proof.Machine.execReduce sl q s
  | .normFwd sl q => Sys2Proof.Machine.execNormFwd sl q s
  | .normBwd sl q => Sys2Proof.Machine.execNormBwd sl q s
  | .softmaxFwd sl q => Sys2Proof.Machine.execSoftmaxFwd sl q s
  | .softmaxBwd sl q => Sys2Proof.Machine.execSoftmaxBwd sl q s
  | .attnFwd sl q => Sys2Proof.Machine.execAttnFwd sl q s
  | .attnBwd sl q => Sys2Proof.Machine.execAttnBwd sl q s
  | .kvAppend sl q => Sys2Proof.Machine.execKvAppend sl q s
  | .admissionPass sl q => Sys2Proof.Machine.execAdmissionPass sl q s
  | .prefixLookup sl q => Sys2Proof.Machine.execPrefixLookup sl q s
  | .attach sl q => Sys2Proof.Machine.execAttach sl q s
  | .insert sl q => Sys2Proof.Machine.execInsert sl q s
  | .kvLockGrant sl tag cycles => Sys2Proof.Machine.execKvLockGrant sl tag cycles s
  | .gather sl q => Sys2Proof.Machine.execGather sl q s
  | .scatter sl q => Sys2Proof.Machine.execScatter sl q s
  | .segmentReduce sl q => Sys2Proof.Machine.execSegmentReduce sl q s
  | .sortKeys sl q => Sys2Proof.Machine.execSortKeys sl q s
  | .convert sl q => Sys2Proof.Machine.execConvert sl q s
  | .stats sl q => Sys2Proof.Machine.execStats sl q s
  | .send sl q => Sys2Proof.Machine.execSend sl q s
  | .recv sl q => Sys2Proof.Machine.execRecv sl q s
  | .channelOpen sl q => Sys2Proof.Machine.execChannelOpen sl q s
  | .channelClose sl q => Sys2Proof.Machine.execChannelClose sl q s
  | .channelCloseQueue sl q => Sys2Proof.Machine.execChannelCloseQueue sl q s
  | .phaseSwitch sl q => Sys2Proof.Machine.execPhaseSwitch sl q s
  | .optimStep sl q => Sys2Proof.Machine.execOptimStep sl q s
  | .rngFill sl q => Sys2Proof.Machine.execRngFill sl q s
  | .versionAcquireFwd sl q => Sys2Proof.Machine.execVersionAcquireFwd sl q s
  | .versionAcquireBwd sl q => Sys2Proof.Machine.execVersionAcquireBwd sl q s
  | .versionAcquireWrite sl q => Sys2Proof.Machine.execVersionAcquireWrite sl q s
  | .versionAcquireReplay sl q => Sys2Proof.Machine.execVersionAcquireReplay sl q s
  | .versionReleaseEnd sl q => Sys2Proof.Machine.execVersionReleaseEnd sl q s
  | .versionReleaseCommit sl q => Sys2Proof.Machine.execVersionReleaseCommit sl q s
  | .versionReleaseAbandon sl q => Sys2Proof.Machine.execVersionReleaseAbandon sl q s
  | .versionReleaseDrop sl q => Sys2Proof.Machine.execVersionReleaseDrop sl q s
  | .bucketPush sl q => Sys2Proof.Machine.execBucketPush sl q s
  | .stepBegin sl q => Sys2Proof.Machine.execStepBegin sl q s
  | .rewind sl q => Sys2Proof.Machine.execRewind sl q s
  | .fence sl q => Sys2Proof.Machine.execFence sl q s
  | .waitEvent sl q => Sys2Proof.Machine.execWaitEvent sl q s
  | .waitEventTimeout sl tag => Sys2Proof.Machine.execWaitEventTimeout sl tag s
  | .stashPut sl q => Sys2Proof.Machine.execStashPut sl q s
  | .stashGet sl q => Sys2Proof.Machine.execStashGet sl q s
  | .stashEnableWrite a sl v => Sys2Proof.Machine.execStashEnableWrite a sl v s
  | .vecCall sl q => Sys2Proof.Machine.execVecCall sl q s
  | .kernelEcall sl tag steps ecc => Sys2Proof.Machine.execKernelEcall sl tag steps ecc s
  | .kernelTrap sl tag steps ecc => Sys2Proof.Machine.execKernelTrap sl tag steps ecc s
  | .kernelTimeout sl tag steps ecc => Sys2Proof.Machine.execKernelTimeout sl tag steps ecc s
  | .controlCoreAmo cl hart op wide addr data => Sys2Proof.Machine.execControlCoreAmo cl hart op wide addr data s
  | .loadReserved cl hart wide addr => Sys2Proof.Machine.execLoadReserved cl hart wide addr s
  | .storeConditional cl hart wide addr data => Sys2Proof.Machine.execStoreConditional cl hart wide addr data s
  | .opStart sl tag cycles ecc => Sys2Proof.Machine.execOpStart sl tag cycles ecc s
  | .matrixTileDone sl tag ecc => Sys2Proof.Machine.execMatrixTileDone sl tag ecc s
  | .drainTileDone sl tag ecc => Sys2Proof.Machine.execDrainTileDone sl tag ecc s
  | .opComplete sl tag cycles ecc => Sys2Proof.Machine.execOpComplete sl tag cycles ecc s
  | .cplConsAdvance sl q cons => Sys2Proof.Machine.execCplConsAdvance sl q cons s
  | .chanCfgWrite a sl c v => Sys2Proof.Machine.execChanCfgWrite a sl c v s
  | .rqCfgWrite a sl r v => Sys2Proof.Machine.execRqCfgWrite a sl r v s
  | .openRequest k => Sys2Proof.Machine.execOpenRequest k s
  | .openGrant k => Sys2Proof.Machine.execOpenGrant k s
  | .channelOpenTimeout sl tag => Sys2Proof.Machine.execChannelOpenTimeout sl tag s
  | .grantReq k => Sys2Proof.Machine.execGrantReq k s
  | .grantIssue sl r => Sys2Proof.Machine.execGrantIssue sl r s
  | .grant k cycles => Sys2Proof.Machine.execGrant k cycles s
  | .msgData k => Sys2Proof.Machine.execMsgData k s
  | .deliverAck k => Sys2Proof.Machine.execDeliverAck k s
  | .grantTimeout sl c cycles => Sys2Proof.Machine.execGrantTimeout sl c cycles s
  | .nack k => Sys2Proof.Machine.execNack k s
  | .abort k => Sys2Proof.Machine.execAbort k s
  | .xferTimeout sl r => Sys2Proof.Machine.execXferTimeout sl r s
  | .closeNotice k => Sys2Proof.Machine.execCloseNotice k s
  | .senderLossReport sl r pkg core chan => Sys2Proof.Machine.execSenderLossReport sl r pkg core chan s
  | .setCfgWrite a d k v => Sys2Proof.Machine.execSetCfgWrite a d k v s
  | .holdCfgWrite a sl v => Sys2Proof.Machine.execHoldCfgWrite a sl v s
  | .cinchJobCfgWrite a v => Sys2Proof.Machine.execCinchJobCfgWrite a v s
  | .bucketLaunch b => Sys2Proof.Machine.execBucketLaunch b s
  | .cinchPart k bucket step att lo => Sys2Proof.Machine.execCinchPart k bucket step att lo s
  | .bucketComplete b => Sys2Proof.Machine.execBucketComplete b s
  | .stepDone k step att => Sys2Proof.Machine.execStepDone k step att s
  | .stepFinal k step att => Sys2Proof.Machine.execStepFinal k step att s
  | .stepAbort k step att stop => Sys2Proof.Machine.execStepAbort k step att stop s
  | .stepDeadline => Sys2Proof.Machine.execStepDeadline s
  | .doneTimeout => Sys2Proof.Machine.execDoneTimeout s
  | .shadowCfgWrite a v => Sys2Proof.Machine.execShadowCfgWrite a v s
  | .trickleStart => Sys2Proof.Machine.execTrickleStart s
  | .shadowData k copy base att off places => Sys2Proof.Machine.execShadowData k copy base att off places s
  | .shadowStagingDone => Sys2Proof.Machine.execShadowStagingDone s
  | .shadowTrailer k t => Sys2Proof.Machine.execShadowTrailer k t s
  | .snapAck k copy base => Sys2Proof.Machine.execSnapAck k copy base s
  | .shadowCtlRead k copy slot off len => Sys2Proof.Machine.execShadowCtlRead k copy slot off len s
  | .restore q => Sys2Proof.Machine.execRestore q s
  | .lock q => Sys2Proof.Machine.execLock q s
  | .unlock q => Sys2Proof.Machine.execUnlock q s
  | .verifyRelease q => Sys2Proof.Machine.execVerifyRelease q s
  | .portCtlWrite a p v => Sys2Proof.Machine.execPortCtlWrite a p v s
  | .failback a p => Sys2Proof.Machine.execFailback a p s
  | .trainingDone p lanes => Sys2Proof.Machine.execTrainingDone p lanes s
  | .trainTimeout p lanes => Sys2Proof.Machine.execTrainTimeout p lanes s
  | .trainRetry p => Sys2Proof.Machine.execTrainRetry p s
  | .downRetrain p => Sys2Proof.Machine.execDownRetrain p s
  | .hello p pkg port level credits idem authReq lanes => Sys2Proof.Machine.execHello p pkg port level credits idem authReq lanes s
  | .spdmGetVersion p resp => Sys2Proof.Machine.execSpdmGetVersion p resp s
  | .spdmGetCapabilities p resp => Sys2Proof.Machine.execSpdmGetCapabilities p resp s
  | .spdmNegotiateAlgorithms p resp => Sys2Proof.Machine.execSpdmNegotiateAlgorithms p resp s
  | .spdmGetDigests p resp => Sys2Proof.Machine.execSpdmGetDigests p resp s
  | .spdmGetCertificate p resp => Sys2Proof.Machine.execSpdmGetCertificate p resp s
  | .spdmChallenge p auth => Sys2Proof.Machine.execSpdmChallenge p auth s
  | .spdmGetMeasurements p resp => Sys2Proof.Machine.execSpdmGetMeasurements p resp s
  | .authTimeout p => Sys2Proof.Machine.execAuthTimeout p s
  | .wenlynTransmit p => Sys2Proof.Machine.execWenlynTransmit p s
  | .wenlynFlitReceive p flit spells => Sys2Proof.Machine.execWenlynFlitReceive p flit spells s
  | .wenlynAckTimeout p => Sys2Proof.Machine.execWenlynAckTimeout p s
  | .ackCoalesceTimeout p => Sys2Proof.Machine.execAckCoalesceTimeout p s
  | .keepaliveTimeout p => Sys2Proof.Machine.execKeepaliveTimeout p s
  | .wenlynReplayLimit p => Sys2Proof.Machine.execWenlynReplayLimit p s
  | .linkDead p => Sys2Proof.Machine.execLinkDead p s
  | .lossOfLock p lanes => Sys2Proof.Machine.execLossOfLock p lanes s
  | .wenlynLaneFail p lane => Sys2Proof.Machine.execWenlynLaneFail p lane s
  | .laneSwap p lane => Sys2Proof.Machine.execLaneSwap p lane s
  | .wenlynErrorLimit p => Sys2Proof.Machine.execWenlynErrorLimit p s
  | .creditStarved p vc => Sys2Proof.Machine.execCreditStarved p vc s
  | .partnerFault p pkg => Sys2Proof.Machine.execPartnerFault p pkg s
  | .peerClose p => Sys2Proof.Machine.execPeerClose p s
  | .read k => Sys2Proof.Machine.execRead k s
  | .write k => Sys2Proof.Machine.execWrite k s
  | .atomic k => Sys2Proof.Machine.execAtomic k s
  | .resp k spells => Sys2Proof.Machine.execResp k spells s
  | .remoteTimeout tag reqId => Sys2Proof.Machine.execRemoteTimeout tag reqId s
  | .idemExpire pkg reqId => Sys2Proof.Machine.execIdemExpire pkg reqId s
  | .sliceRequest op addr len hint data ecc => Sys2Proof.Machine.execSliceRequest op addr len hint data ecc s
  | .sliceAtomic code addr operand compare ecc => Sys2Proof.Machine.execSliceAtomic code addr operand compare ecc s
  | .rowCeLimit d pch slot row => Sys2Proof.Machine.execRowCeLimit d pch slot row s
  | .rowHoldCopyDone d h ecc => Sys2Proof.Machine.execRowHoldCopyDone d h ecc s
  | .scrubStep d ecc => Sys2Proof.Machine.execScrubStep d ecc s
  | .bar2Access op off len data => Sys2Proof.Machine.execBar2Access op off len data s
  | .sqDoorbell f k tail fail => Sys2Proof.Machine.execSqDoorbell f k tail fail s
  | .cqDoorbell f k head => Sys2Proof.Machine.execCqDoorbell f k head s
  | .badCommand q => Sys2Proof.Machine.execBadCommand q s
  | .task q fail => Sys2Proof.Machine.execTask q fail s
  | .opqWrite q fail => Sys2Proof.Machine.execOpqWrite q fail s
  | .copy q => Sys2Proof.Machine.execCopy q s
  | .copySegmentDone id seg fail => Sys2Proof.Machine.execCopySegmentDone id seg fail s
  | .coreCtlResume q => Sys2Proof.Machine.execCoreCtlResume q s
  | .coreCtlCancel q => Sys2Proof.Machine.execCoreCtlCancel q s
  | .coreCtlReset q => Sys2Proof.Machine.execCoreCtlReset q s
  | .acctSnapshot q fail => Sys2Proof.Machine.execAcctSnapshot q fail s
  | .taskPlace id => Sys2Proof.Machine.execTaskPlace id s
  | .preemptSaveDone core => Sys2Proof.Machine.execPreemptSaveDone core s
  | .coreScrubDone core => Sys2Proof.Machine.execCoreScrubDone core s
  | .taskRestoreDone core => Sys2Proof.Machine.execTaskRestoreDone core s
  | .commandComplete id fail => Sys2Proof.Machine.execCommandComplete id fail s
  | .coalTimeout q => Sys2Proof.Machine.execCoalTimeout q s
  | .queueResume a q => Sys2Proof.Machine.execQueueResume a q s
  | .qcfgWrite a q v => Sys2Proof.Machine.execQcfgWrite a q v s
  | .acctClr a f => Sys2Proof.Machine.execAcctClr a f s
  | .energyApportion sl shares => Sys2Proof.Machine.execEnergyApportion sl shares s
  | .flr f => Sys2Proof.Machine.execFlr f s
  | .hostInterfaceReset => Sys2Proof.Machine.execHostInterfaceReset s
  | .faultRaise cls inst trigger => Sys2Proof.Machine.execFaultRaise cls inst trigger s
  | .faultAck a cls inst => Sys2Proof.Machine.execFaultAck a cls inst s
  | .fltStatusClear a cls inst mask => Sys2Proof.Machine.execFltStatusClear a cls inst mask s
  | .lanternHeartbeat a count => Sys2Proof.Machine.execLanternHeartbeat a count s
  | .mcHeartbeatStop => Sys2Proof.Machine.execMcHeartbeatStop s
  | .bootWaitExpire => Sys2Proof.Machine.execBootWaitExpire s
  | .lanternPeerHeartbeat l => Sys2Proof.Machine.execLanternPeerHeartbeat l s
  | .lanternLost l => Sys2Proof.Machine.execLanternLost l s
  | .lanternRelease a => Sys2Proof.Machine.execLanternRelease a s
  | .psuTimeout cmd status => Sys2Proof.Machine.execPsuTimeout cmd status s
  | .pmbAlert status => Sys2Proof.Machine.execPmbAlert status s
  | .inputUv mv => Sys2Proof.Machine.execInputUv mv s
  | .inputUvClear mv => Sys2Proof.Machine.execInputUvClear mv s
  | .inputOv mv => Sys2Proof.Machine.execInputOv mv s
  | .rsiAck d rail => Sys2Proof.Machine.execRsiAck d rail s
  | .rsiTimeout d rail => Sys2Proof.Machine.execRsiTimeout d rail s
  | .domainIdle d n => Sys2Proof.Machine.execDomainIdle d n s
  | .plevelRequest a d v => Sys2Proof.Machine.execPlevelRequest a d v s
  | .frequencyChangeDone d => Sys2Proof.Machine.execFrequencyChangeDone d s
  | .powerCapCheck watts => Sys2Proof.Machine.execPowerCapCheck watts s
  | .energyUpdate d nj other pkg => Sys2Proof.Machine.execEnergyUpdate d nj other pkg s
  | .thermalSample d temps => Sys2Proof.Machine.execThermalSample d temps s
  | .thermalCapStep d up => Sys2Proof.Machine.execThermalCapStep d up s
  | .ivrFault d rail mv => Sys2Proof.Machine.execIvrFault d rail mv s
  | .refclkLoss => Sys2Proof.Machine.execRefclkLoss s
  | .refclkRestore => Sys2Proof.Machine.execRefclkRestore s
  | .powerOn => Sys2Proof.Machine.execPowerOn s
  | .powerLoss => Sys2Proof.Machine.execPowerLoss s
  | .perstNAssert => Sys2Proof.Machine.execPerstNAssert s
  | .perstNRelease gen width => Sys2Proof.Machine.execPerstNRelease gen width s
  | .bootTry a => Sys2Proof.Machine.execBootTry a s
  | .bootConfirm a => Sys2Proof.Machine.execBootConfirm a s
  | .mailboxImageWrite img hashOk sigOk version => Sys2Proof.Machine.execMailboxImageWrite img hashOk sigOk version s
  | .dieReady d failed hbmOk => Sys2Proof.Machine.execDieReady d failed hbmOk s
  | .matrixSelftestDone d failed => Sys2Proof.Machine.execMatrixSelftestDone d failed s
  | .awlStart a p => Sys2Proof.Machine.execAwlStart a p s
  | .awlStop a p prbs => Sys2Proof.Machine.execAwlStop a p prbs s
  | .awlGenIssue p => Sys2Proof.Machine.execAwlGenIssue p s
  | .awlInject p arg => Sys2Proof.Machine.execAwlInject p arg s
  | .injectionEnd p => Sys2Proof.Machine.execInjectionEnd p s
  | .prbsUnlock p lane bits errs => Sys2Proof.Machine.execPrbsUnlock p lane bits errs s
  | .memGenStart a v => Sys2Proof.Machine.execMemGenStart a v s
  | .girthMarginStart a v => Sys2Proof.Machine.execGirthMarginStart a v s
  | .marginRunEnd errors bits aborted => Sys2Proof.Machine.execMarginRunEnd errors bits aborted s
  | .pcieMarginCommand lane kind offset errors => Sys2Proof.Machine.execPcieMarginCommand lane kind offset errors s
  | .ppsEdge => Sys2Proof.Machine.execPpsEdge s
  | .ppsLost => Sys2Proof.Machine.execPpsLost s
  | .tbSet a seconds => Sys2Proof.Machine.execTbSet a seconds s
  | .mctpMessage bytes => Sys2Proof.Machine.execMctpMessage bytes s
  | .siteLinkTrained site w => Sys2Proof.Machine.execSiteLinkTrained site w s
  | .msixVectorUnmask f vec => Sys2Proof.Machine.execMsixVectorUnmask f vec s
  | .pcieLinkRetrain gen width => Sys2Proof.Machine.execPcieLinkRetrain gen width s
  | .prbsLock p lane => Sys2Proof.Machine.execPrbsLock p lane s
  | .memGenDone lats errors => Sys2Proof.Machine.execMemGenDone lats errors s

end Sys2Proof.Machine
end

