-- ==== Sys2Proof/Safety.lean ====
section
/-! DEFINITION. What counts as a safe run, and the frames in which the statements say what a command leaves alone. -/

namespace Sys2Proof.Machine

/-- Registers outside a list keep their values. -/
def SameRegs (but : List Nat) (s t : State) : Prop := ∀ r, r ∉ but → t.rd r = s.rd r

/-- Every byte of every memory reads as before. -/
def SameMem (s t : State) : Prop := ∀ a, t.byte a = s.byte a

/-- Every byte outside [a, a + n) reads as before. -/
def MemBut (a n : Nat) (s t : State) : Prop := ∀ x, x < a ∨ a + n ≤ x → t.byte x = s.byte x

/-- Core slots outside a list keep their operations, accumulators and queues. -/
def SameCores (but : List Nat) (s t : State) : Prop := ∀ k, k ∉ but → t.core k = s.core k

/-- The fuses read as R1 and Table 1.11 say, and no bad write of a finished command is left over: what holds of the package between
commands. -/
def Inv (s : State) : Prop :=
  s.fuses = State.reset.fuses ∧ s.memBad = false

/-- An agent other than a VF reaches a register: it is mapped and present, and its power domain is ON (R3, R331, R380, R401). -/
def Reached (s : State) (a : Agent) (off : Nat) : Prop :=
  isVf a = false ∧ reaches s a off = true ∧ regThere s off = true ∧ ∀ p, regDomain off = some p → pdState s p.1 p.2 = 0

/-- A command is safe in a state when it answers a next state. -/
def Safe (c : Instr) (s : State) : Prop := ∃ t, exec c s = .next t

/-! ## Rows that write a register -/

/-- The write of a register that takes effect: the fields take their legal values, the rules over more than one field follow, every change is
reported, and what the register sets going comes last (R9-R11, R353). -/
def written (s : State) (a : Agent) (off : Nat) (fs : List Field) (v : Word) : State :=
  let s0 := unhold (dropLatch s off) off
  let r := andThen (applyFields (withGaps 0 fs) (s.rd off) v) (fun n => crossRule s0 off n)
  writeHook (reportAll (s0.wr off r.1) a off (mergeReps r.2)) a off (s.rd off) v

/-- Command `c`, sent by an agent other than a VF, writes register `off` with a value: where the register is reached and no rule discards the
write whole, it takes effect; where a rule does, one Clamp Report is all that follows; where the register is not reached or not there, nothing
happens. -/
def WritesReg (c : Instr) (a : Agent) (off : Nat) (val : State → Word) : Prop :=
  (∀ (s : State) (fs : List Field), Reached s a off → regFields off = some fs →
    (discards (unhold (dropLatch s off) off) a off (s.rd off) (applyFields (withGaps 0 fs) (s.rd off) (val s)).1 = none →
      exec c s = .next (ended s (written s a off fs (val s)))) ∧
    (∀ why, discards (unhold (dropLatch s off) off) a off (s.rd off) (applyFields (withGaps 0 fs) (s.rd off) (val s)).1 = some why →
      exec c s = .next (ended s (clampReport (unhold (dropLatch s off) off) a off 0 0 why (val s).toNat (s.rd off).toNat)))) ∧
  ∀ s : State, isVf a = false → (reaches s a off && regThere s off) = false → exec c s = .next (ended s s)

/-! ## Requests to HBM -/

/-- The domains a request to an HBM line needs are ON (R380). -/
def LineOpen (s : State) (a : Nat) : Prop := ∀ p ∈ lineDomains s (a / 64), domOn s p.1 p.2 = true

/-! ## Rows that issue a TOD -/

/-- The operation a TOD makes once its descriptors are read: what issue gives it before its unit takes it. -/
def issuedOp (s : State) (sl q t : Nat) (fam : Family) (ds : List (Nat × Desc)) : Op :=
  let o := { newOp s sl q t with descs := ds }
  let u := fam.use (touchDescs (takeTod s sl q) sl q o.ctx t (fam.form t)) sl q t o
  { o with
    slots := u.slots, mode := u.mode, ins := localRanges u.ins, outs := localRanges u.outs
    streams := (if (fam.form t).rnd && tRnd t = 2 then [tStream t] else []) ++ (fam.form t).streams ++ u.streams }

/-- The state in which the operation has entered the queue of its unit: CONS has advanced, the descriptors are read, the operation stands
last among those of its core, and a hazard it meets is noted (R84, R100, R107, R113). -/
def issuedState (s : State) (sl q t : Nat) (fam : Family) (ds : List (Nat × Desc)) : State :=
  let o := issuedOp s sl q t fam ds
  noteHazards ((touchDescs (takeTod s sl q) sl q o.ctx t (fam.form t)).modCore sl (fun c => { c with ops := c.ops ++ [o] })) sl o

/-- Every check of issue passes (R100, R104, R106-R112, R83): the TOD's fields are legal, its descriptors `ds` are read, permitted and legal, the
family's own checks pass, every byte is permitted, outputs and inputs do not clash, no slice it needs has failed to wake, and the accumulator
slots are the context's own. -/
def Passes (s : State) (sl q t : Nat) (fam : Family) (ds : List (Nat × Desc)) : Prop :=
  let s1 := takeTod s sl q
  let o := { newOp s sl q t with descs := ds }
  let s2 := touchDescs s1 sl q o.ctx t (fam.form t)
  let u := fam.use s2 sl q t o
  todSt s1 sl q t (fam.form t) = 0 ∧ readDescs s1 sl q o.ctx t (fam.form t) = (0, 0, ds) ∧ u.st = 0 ∧ protBad s2 sl q o.ctx u = none ∧
    u.clash = false ∧ sliceGone s2 u = false ∧
    ∀ k ∈ u.slots, accOwner s2 sl k = o.ctx ∧ ∀ e ∈ (s2.core sl).ops, e.ctx = o.ctx ∨ e.live = false ∨ e.slots.contains k = false

/-- The state in which the descriptors of a TOD have been read, and what its operation touches. -/
def afterRead (s : State) (sl q t : Nat) (fam : Family) : State :=
  touchDescs (takeTod s sl q) sl q (newOp s sl q t).ctx t (fam.form t)
def useOf (s : State) (sl q t : Nat) (fam : Family) (ds : List (Nat × Desc)) : Use :=
  fam.use (afterRead s sl q t fam) sl q t { newOp s sl q t with descs := ds }

/-- How a TOD that fails a check of issue ends: it is taken, and completes with the status of the check and no other effect but the report
of a refused address or slot (R100, R104, R106-R112, R83). The checks come in this order (log 21). -/
def TodRefused (s : State) (sl q t : Nat) (fam : Family) (r : State) : Prop :=
  let o := newOp s sl q t
  let s1 := takeTod s sl q
  let s2 := afterRead s sl q t fam
  let rd := readDescs s1 sl q o.ctx t (fam.form t)
  let od := { o with descs := rd.2.2 }
  let u := useOf s sl q t fam rd.2.2
  (todSt s1 sl q t (fam.form t) ≠ 0 ∧ r = finishWith s1 sl o (todSt s1 sl q t (fam.form t))) ∨
  (todSt s1 sl q t (fam.form t) = 0 ∧
    ((rd.1 = stMemProtect ∧ r = finishWith (raiseProt s1 sl q o.tag rd.2.1) sl o stMemProtect) ∨
     (rd.1 ≠ stMemProtect ∧ rd.1 ≠ 0 ∧ r = finishWith s1 sl o rd.1) ∨
     (rd.1 = 0 ∧ u.st ≠ 0 ∧ r = finishWith s2 sl od u.st) ∨
     (rd.1 = 0 ∧ u.st = 0 ∧ ∃ a, protBad s2 sl q o.ctx u = some a ∧ r = finishWith (raiseProt s2 sl q o.tag a) sl od stMemProtect) ∨
     (rd.1 = 0 ∧ u.st = 0 ∧ protBad s2 sl q o.ctx u = none ∧ u.clash = true ∧ r = finishWith s2 sl od stBadField) ∨
     (rd.1 = 0 ∧ u.st = 0 ∧ protBad s2 sl q o.ctx u = none ∧ u.clash = false ∧ sliceGone s2 u = true ∧
       r = finishWith s2 sl od stCoreOffline) ∨
     (rd.1 = 0 ∧ u.st = 0 ∧ protBad s2 sl q o.ctx u = none ∧ u.clash = false ∧ sliceGone s2 u = false ∧
       ∃ k ∈ u.slots, accOwner s2 sl k ≠ o.ctx ∧ (∀ j ∈ u.slots, j = k ∨ (accOwner s2 sl j = o.ctx)) ∧
         (∀ j ∈ u.slots, ∀ e ∈ (s2.core sl).ops, e.ctx = o.ctx ∨ e.live = false ∨ e.slots.contains j = false) ∧
         r = finishWith (raiseAcc s2 sl o.tag o.ctx k (accOwner s2 sl k)) sl od stAccProtect)))

/-- The rule of a TOD command `c`, for the TODs `mine` of a family, where `after` follows (R84, R100, R101, R104, R113, R209):
a TOD that fails a check completes with its status and no other effect;
one that passes every check and is held back, or that waits for messages at an operand port, stays as an issued operation;
one that nothing holds back is assigned its messages and starts: its start is the family's, and where that gives a status it completes with it.
Where it is not the queue's turn, or its TOD is not of the family, nothing is issued. -/
def TodRow (c : Nat → Nat → Instr) (mine : Nat → Bool) (fam : Family) (after : State → Nat → State) : Prop :=
  (∀ (s : State) (sl q : Nat), (∀ t, todNow s sl q = some t → mine t = false) → exec (c sl q) s = .next (ended s (after s sl))) ∧
  ∀ (s : State) (sl q t : Nat), todNow s sl q = some t → mine t = true →
    (∀ r, TodRefused s sl q t fam r → exec (c sl q) s = .next (ended s (after r sl))) ∧
    ∀ ds, Passes s sl q t fam ds →
      let s3 := issuedState s sl q t fam ds
      let o := issuedOp s sl q t fam ds
      (startable (s3.core sl) o = false → exec (c sl q) s = .next (ended s (after s3 sl))) ∧
      (startable (s3.core sl) o = true →
        (assignPorts s3 sl o = .wait → exec (c sl q) s = .next (ended s (after s3 sl))) ∧
        (∀ u, assignPorts s3 sl o = .over u → exec (c sl q) s = .next (ended s (after u sl))) ∧
        (∀ u o2 t1 o1 st, assignPorts s3 sl o = .go u o2 → fam.start u sl { o2 with startTs := u.now } = (t1, o1, st) →
          exec (c sl q) s = .next (ended s (after
            (if st = 0 then glintOp (updOp t1 sl o1) sl o1 1 0 0 0 else finishWith t1 sl { o2 with startTs := u.now } st) sl))))

/-- The rule of a TOD command whose operation acts at its issue (R198, R212): a TOD that fails a check completes with its status, and one that
passes every check enters, starts, and acts. Where it is not the queue's turn, or its TOD is not of the family, nothing is issued. -/
def TodActsRow (c : Nat → Nat → Instr) (mine : Nat → Bool) (fam : Family) (act : State → Nat → Op → State) : Prop :=
  (∀ (s : State) (sl q : Nat), (∀ t, todNow s sl q = some t → mine t = false) → exec (c sl q) s = .next (ended s s)) ∧
  ∀ (s : State) (sl q t : Nat), todNow s sl q = some t → mine t = true →
    (∀ r, TodRefused s sl q t fam r → exec (c sl q) s = .next (ended s r)) ∧
    ∀ ds, Passes s sl q t fam ds →
      let o := { issuedOp s sl q t fam ds with stage := OpStage.running }
      exec (c sl q) s = .next (ended s (act (glintOp (updOp (issuedState s sl q t fam ds) sl o) sl o 1 0 0 0) sl o))

/-! ## Wenlyn ports -/

/-- A port that was UP is DOWN for a cause of Table 11.7. -/
def LinkLost (s t : State) (p cause : Nat) : Prop :=
  portState t p = 1 ∧ t.f (wenBase p + 8) 4 4 = cause ∧ t.wport p = WPort.reset ∧
    (∃ r ∈ t.raises, r.cls = 7 ∧ r.inst = p ∧ r.idx = (FaultSrc.linkDown).at.2 ∧ r.ev = s.evNo) ∧ SameCores [] s t

/-- A port answers an SPDM request with a message of this version and code that carries these stated bytes first, and notes it. -/
def SpdmAnswered (s t : State) (p ver code : Nat) (stated : List Byte) : Prop :=
  (∃ r, t.outbox = s.outbox ++ [.spdm p (leBytes 1 ver ++ leBytes 1 code ++ stated ++ r)]) ∧
    code ∈ (t.wport p).spdm ∧ SameRegs [] s t ∧ SameMem s t ∧ SameCores [] s t

/-- A port sends the SPDM 1.3 request `code` and waits for its answer. -/
def SpdmAsked (s t : State) (p code : Nat) : Prop :=
  (∃ r, t.outbox = s.outbox ++ [.spdm p (leBytes 1 0x13 ++ leBytes 1 code ++ r)]) ∧ (t.wport p).spdmReq = some code ∧
    SameRegs [] s t ∧ SameMem s t ∧ SameCores [] s t

/-- Every field of a Wenlyn header is within its width (Table 11.1). -/
def HdrFits (h : WHdr) : Prop :=
  h.seq < 2 ^ 12 ∧ h.vc < 2 ^ 3 ∧ h.ackSeq < 2 ^ 12 ∧ h.typ < 2 ^ 2 ∧ h.len8 < 2 ^ 5 ∧ h.credVc < 2 ^ 3 ∧ h.credRet < 2 ^ 12 ∧ h.ttl < 2 ^ 4 ∧
    h.resv < 2 ^ 6 ∧ h.src < 2 ^ 12 ∧ h.dst < 2 ^ 12 ∧ h.tag < 2 ^ 14 ∧ h.reqId < 2 ^ 26

/-- Every field of a Girth header is within its width (Table 1.3). -/
def GHdrFits (h : GHdr) : Prop :=
  h.seq < 2 ^ 10 ∧ h.cls < 2 ^ 2 ∧ h.len < 2 ^ 3 ∧ h.credRet < 2 ^ 8 ∧ h.credCls < 2 ^ 2 ∧ h.tag < 2 ^ 14 ∧ h.ackSeq < 2 ^ 10 ∧ h.sack < 2 ^ 16

/-! ## Register layouts -/

/-- The fields of a register lie in its 64 bits and do not overlap. -/
def FieldsApart (fs : List Field) : Prop :=
  (∀ f ∈ fs, f.lsb + f.w ≤ 64) ∧ fs.Pairwise (fun f g => f.lsb + f.w ≤ g.lsb)

/-- A legal value of an RW field fits it. -/
def LegalFits (f : Field) : Prop := ∀ x, x < 2 ^ f.w → f.lg.apply x < 2 ^ f.w

/-! ## Host commands -/

/-- It is the turn of queue `q`, whose front command `c` is legal, names no absent unit, and may be given by its client (R3, R336, R337). -/
def Starts (s : State) (q : Nat) (c : HCmd) : Prop :=
  frontCmd s q = some c ∧ queueTurn s q = true ∧ cmdOk c.ent = true ∧ unitMissing (begun s q c) c.ent = false ∧
    cmdPermitted (begun s q c) c.f c.ent = true

/-- The queue and the kind of the rows by which a host command starts (Table 13.3). -/
def hostRow : Instr → Option (Nat × CmdKind)
  | .copy q => some (q, .copy)
  | .opqWrite q _ => some (q, .opqWrite)
  | .task q _ => some (q, .task)
  | .coreCtlResume q => some (q, .coreCtl 0)
  | .coreCtlCancel q => some (q, .coreCtl 1)
  | .coreCtlReset q => some (q, .coreCtl 2)
  | .acctSnapshot q _ => some (q, .acct)
  | .restore q => some (q, .shadow 1)
  | .lock q => some (q, .shadow 2)
  | .unlock q => some (q, .shadow 3)
  | .verifyRelease q => some (q, .shadow 4)
  | _ => none

/-! ## Commands that act on the links and meters alone -/

/-- Commands of the links, pins, clocks and measurement units that move flits, count or report, and act on nothing else. -/
def linkOnly : Instr → Bool
  | .girthAckTimeout .. | .girthLaneFail .. | .laneSpared .. | .girthRerouteRelease .. | .siteWidthDegrade .. | .siteLinkTrained ..
  | .trainTimeout .. | .trainRetry .. | .wenlynTransmit .. | .wenlynAckTimeout .. | .ackCoalesceTimeout .. | .keepaliveTimeout ..
  | .spdmGetVersion _ none | .spdmGetCapabilities _ none | .spdmNegotiateAlgorithms _ none | .spdmGetDigests _ none
  | .spdmGetCertificate _ none | .spdmGetMeasurements .. | .psuTimeout .. | .pmbAlert .. | .inputOv .. | .ivrFault .. | .energyUpdate .. | .refclkLoss | .refclkRestore
  | .prbsLock .. | .prbsUnlock .. | .injectionEnd .. | .marginRunEnd .. | .pcieMarginCommand .. | .ppsEdge | .ppsLost | .mctpMessage .. => true
  | _ => false

end Sys2Proof.Machine
end

