-- ==== Sys2Proof/Certificates/Slice0/Obligations.lean ====
section
/-! DEFINITION. The statements about the block: each says what rows of the command table do, by the rules of spec/ its docstring names.
`ended s t` is `t` with the queue and fuses of `s`, the next event number, and no bad write left over. -/

section
open Sys2Proof Sys2Proof.Machine

/-- A step runs the command at the front of the queue. For every command c, queue rest and state s with c at the front of its queue, step s is exec c
on s with the rest as its queue; on an empty queue only the time base moves on, by one nanosecond corrected by the rate, exactly, with the
fraction kept (the queue and the tick are the form of the model, log 1, log 2 and log 68). -/
def Obligations.StepRunsFrontCommand : Prop :=
  (∀ (c : Instr) (rest : List Instr) (s : State), s.pending = c :: rest → step s = exec c { s with pending := rest }) ∧
  (∀ s : State, s.pending = [] → ∃ t, step s = .next t ∧ (s.time.frac < 1000000000 → s.time.adj = 0 → t = { s with now := s.now + 1 }) ∧
    (-1000000000 ≤ s.time.adj →
      1000000000 * (t.now : Int) + t.time.frac = 1000000000 * (s.now : Int) + s.time.frac + 1000000000 + s.time.adj) ∧
    t = { s with now := t.now, time := { s.time with frac := t.time.frac } })


/-- Every step keeps the fused identities and takes exactly one command. For every state s with Inv s (the fuses read as R1 and Table 1.11 say, and no
bad write of a finished command is left over), if step s answers next t then Inv t holds and the queue of t is the tail of that of s: no command
changes a fuse, none is added, dropped or reordered. -/
def Obligations.StepKeepsFusesAndQueue : Prop :=
  ∀ s t : State, Inv s → step s = .next t → Inv t ∧ t.pending = s.pending.tail


/-- The state after reset: the invariant, empty memories, registers at their reset values. Inv holds at State.reset; its memory is in canonical form;
nothing is queued, raised or sent; every register reads as its reset value, which is that of its fields; every accumulator slot is EMPTY and holds
nothing (R72); the tag window of each of the 256 cores is its logical number (R103). -/
def Obligations.ResetState : Prop :=
  Inv State.reset ∧ Memory.wf State.reset.mem = true ∧ State.reset.pending = [] ∧ State.reset.raises = [] ∧ State.reset.outbox = [] ∧
  State.reset.now = 0 ∧
  -- every register is at its reset value, and the identities read as the fuses say
  (∀ off, State.reset.rd off = regReset off) ∧ regVal State.reset 0x100 = 0x0048FFFFFFFFFFFF#64 ∧
  (∀ off fs, regFields off = some fs → regReset off = resetFields fs) ∧
  -- an empty slot holds zero, and a core has no operation in flight (R72)
  (∀ k, (State.reset.core k).ops = [] ∧ (State.reset.core k).acc = [] ∧ ∀ j, (State.reset.core k).tag j = SlotTag.empty) ∧
  -- R103: a core's window is its logical number
  (∀ sl ∈ allSlots, sl % 64 ≠ 60 → State.reset.f (rTagCfg sl) 0 8 = coreNum State.reset sl)


/-- GLOBAL.UPM reads 0x0048_FFFF_FFFF_FFFF, whole and in halves, whatever is written to it. In every state with Inv, a 64-bit read of BAR0 offset
0x100 returns 0x0048_FFFF_FFFF_FFFF and changes no register and no byte of memory; its halves read 0xFFFF_FFFF and 0x0048_FFFF; a write to it
changes at most the Clamp Report registers, and it reads the same afterwards. -/
def Obligations.IdentityReads : Prop :=
  (∀ s : State, Inv s → ∃ t, exec (.rcRead (.client 0) 0x100) s = .next t ∧ t.outbox = s.outbox ++ [.busData 0x0048FFFFFFFFFFFF#64] ∧
    SameRegs [] s t ∧ SameMem s t) ∧
  (∀ s : State, Inv s → ∃ t u, exec (.lowerHalfRead (.client 0) 0x100) s = .next t ∧ t.outbox = s.outbox ++ [.busData 0xFFFFFFFF#64] ∧
    exec (.upperHalfRead (.client 0) 0x100) t = .next u ∧ u.outbox = t.outbox ++ [.busData 0x0048FFFF#64]) ∧
  (∀ (s : State) (v : RegData), Inv s → ∃ t, exec (.registerWrite (.client 0) 0x100 v) s = .next t ∧ SameRegs [0x210, 0x218] s t ∧
    regVal t 0x100 = 0x0048FFFFFFFFFFFF#64)


/-- Whole and half writes, latched reads and read-clears of registers. R11, R12 and Table 0.7 on registers of the global window, from PF0: a whole
write stores its value and changes nothing else; a lower-half write changes no register, and the upper-half write after it stores both halves; a
lower-half read of CLAMP_LOST returns its lower half, clears it and latches the upper half, which the upper-half read returns; a 64-bit read
returns it whole and clears it. -/
def Obligations.RegisterHalvesAndReads : Prop :=
  -- a write and a read of a register that is reached, and of what is not mapped
  (∀ (a : Agent) (off : Nat) (v : RegData), WritesReg (.registerWrite a off v) a off (fun s => writeVal s off v)) ∧
  (∀ (s : State) (a : Agent) (off : Nat), Reached s a off →
    exec (.rcRead a off) s = .next (ended s ((rcClear (dropLatch s off) off).emit (.busData (regVal s off))))) ∧
  (∀ (s : State) (a : Agent) (off : Nat) (v : RegData), mapBar s a off = none →
    exec (.registerWrite a off v) s = .next (ended s s) ∧ exec (.rcRead a off) s = .next (ended s (s.emit (.busData 0#64)))) ∧
  -- a whole write of CLAMP_BASE
  (∀ (s : State) (v : Word), ∃ t, exec (.registerWrite (.client 0) 0x200 (.full v)) s = .next t ∧ t.rd 0x200 = v ∧
    SameRegs [0x200] s t ∧ SameMem s t ∧ t.outbox = s.outbox) ∧
  -- a lower-half write changes no register, and the next upper-half write stores both halves
  (∀ (s : State) (lo hi : Word32), ∃ t u, exec (.lowerHalfWrite (.client 0) 0x200 lo) s = .next t ∧
    SameRegs [] s t ∧ SameMem s t ∧
    exec (.registerWrite (.client 0) 0x200 (.upper hi)) t = .next u ∧
    (u.rd 0x200).toNat = hi.toNat * 2 ^ 32 + lo.toNat ∧ SameRegs [0x200] t u ∧ SameMem t u) ∧
  -- a lower-half read of CLAMP_LOST returns its lower half and clears it, and the next upper-half read returns the upper half it had
  (∀ (s : State), ∃ t u, exec (.lowerHalfRead (.client 0) 0x218) s = .next t ∧
    t.outbox = s.outbox ++ [.busData (BitVec.ofNat 64 (fld (s.rd 0x218) 0 32))] ∧ t.rd 0x218 = 0#64 ∧ SameRegs [0x218] s t ∧ SameMem s t ∧
    exec (.upperHalfRead (.client 0) 0x218) t = .next u ∧
    u.outbox = t.outbox ++ [.busData (BitVec.ofNat 64 (fld (s.rd 0x218) 32 32))] ∧ SameRegs [] t u ∧ SameMem t u) ∧
  -- a 64-bit read of CLAMP_LOST returns it and clears it
  (∀ (s : State), ∃ t, exec (.rcRead (.client 0) 0x218) s = .next t ∧ t.outbox = s.outbox ++ [.busData (s.rd 0x218)] ∧
    t.rd 0x218 = 0#64 ∧ SameRegs [0x218] s t ∧ SameMem s t)


/-- Each RW field of a write takes its nearest legal value; reserved fields stay, and each change is reported. R9 and R10 for every list of fields
that lie in 64 bits, do not overlap and have legal values that fit them: after a write each RW field reads as the legal value for what was
written, every other bit as before, and what is reported is each changed RW field and each reserved field written as nonzero, and nothing else. A
value in a legal range is applied as written, one outside it as the nearest. The fields of every core register lie in 64 bits and do not overlap. -/
def Obligations.FieldsTakeLegalValues : Prop :=
  (∀ (fs : List Field) (old v : Word), FieldsApart fs → (∀ f ∈ fs, LegalFits f) →
    let r := applyFields fs old v
    -- each RW field reads as the legal value for what was written, every other bit as before
    (∀ f ∈ fs, fld r.1 f.lsb f.w = if f.acc = .rw then f.lg.apply (fld v f.lsb f.w) else fld old f.lsb f.w) ∧
    (∀ i, i < 64 → (∀ f ∈ fs, f.acc = .rw → i < f.lsb ∨ f.lsb + f.w ≤ i) → fld r.1 i 1 = fld old i 1) ∧
    -- and what is reported is each changed RW field and each reserved field written as nonzero
    (∀ x, x ∈ r.2 ↔ ∃ f ∈ fs, x.lsb = f.lsb ∧ x.width = f.w ∧ x.written = fld v f.lsb f.w ∧
      ((f.acc = .rw ∧ f.lg.apply x.written ≠ x.written ∧ x.applied = f.lg.apply x.written ∧ x.reason = rsnRange) ∨
       (f.acc = .res ∧ x.written ≠ 0 ∧ x.applied = 0 ∧ x.reason = rsnReserved)))) ∧
  -- a value in the legal range is applied as written; one outside it as the nearest
  (∀ lo hi x : Nat, lo ≤ hi → lo ≤ (Legal.rng lo hi).apply x ∧ (Legal.rng lo hi).apply x ≤ hi ∧
    (lo ≤ x → x ≤ hi → (Legal.rng lo hi).apply x = x) ∧
    ∀ y, lo ≤ y → y ≤ hi → ((x : Int) - (Legal.rng lo hi).apply x).natAbs ≤ ((x : Int) - y).natAbs) ∧
  -- the layouts of the registers are such lists
  (∀ sl o fs, isSlot sl = true → o < 0x10000 → regFields (slotBase sl + o) = some fs → FieldsApart (withGaps 0 fs))


/-- The rows that write a core or die register write that register. OPQ_RESUME, TAG_WINDOW_WRITE, STASH_ENABLE_WRITE, CHAN_CFG_WRITE, RQ_CFG_WRITE,
HOLD_CFG_WRITE, SET_CFG_WRITE and PLEVEL_REQUEST, from every agent but a VF (which reaches none of these registers): where the register is reached
and no rule discards the write whole, its fields take their legal values, the rules over several fields follow, each change is reported, and what
the register sets going comes last; where a rule discards it, one Clamp Report is all that follows; where the register is not reached or absent,
nothing happens. -/
def Obligations.CoreRegisterRows : Prop :=
  (∀ (a : Agent) (sl q : Nat), isSlot sl = true → q < 4 → WritesReg (.opqResume a sl q) a (rOpq sl q 0x20) (fun _ => 1#64)) ∧
  (∀ (a : Agent) (sl : Nat) (v : Word), isSlot sl = true → WritesReg (.tagWindowWrite a sl v) a (rTagCfg sl) (fun _ => v)) ∧
  (∀ (a : Agent) (sl : Nat) (v : Word), isSlot sl = true → WritesReg (.stashEnableWrite a sl v) a (slotBase sl + 0x800) (fun _ => v)) ∧
  (∀ (a : Agent) (sl c : Nat) (v : Word), isSlot sl = true → c < 64 → WritesReg (.chanCfgWrite a sl c v) a (rChan sl c 0) (fun _ => v)) ∧
  (∀ (a : Agent) (sl r : Nat) (v : Word), isSlot sl = true → r < 16 → WritesReg (.rqCfgWrite a sl r v) a (rRq sl r 0) (fun _ => v)) ∧
  (∀ (a : Agent) (sl : Nat) (v : Word), isSlot sl = true → WritesReg (.holdCfgWrite a sl v) a (rHold sl) (fun _ => v)) ∧
  (∀ (a : Agent) (d i : Nat) (v : Word), d < 8 → i < 512 → WritesReg (.setCfgWrite a d i v) a (tackBase d + 0x40 * i + 0x18) (fun _ => v)) ∧
  (∀ (a : Agent) (d : Nat) (v : Word), d < 8 → WritesReg (.plevelRequest a d v) a (rPlevel d) (fun _ => v))


/-- The rows that write a register of the hub write that register. The same for the rows of Cinch, Shadow, the Wenlyn ports, the host queues, client
counters, Awl, margining and the time base; a VF writes QCFG and resumes in its own queues; AWL_STOP ends a running measurement of its port and
changes no memory and no core. -/
def Obligations.HubRegisterRows : Prop :=
  (∀ (a : Agent) (v : Word), WritesReg (.cinchJobCfgWrite a v) a cinchBase (fun _ => v)) ∧
  (∀ (a : Agent) (v : Word), WritesReg (.shadowCfgWrite a v) a shadowBase (fun _ => v)) ∧
  (∀ (a : Agent) (p : Nat) (v : Word), p < 18 → WritesReg (.portCtlWrite a p v) a (wenBase p) (fun _ => v)) ∧
  (∀ (a : Agent) (p : Nat), p < 18 → WritesReg (.failback a p) a (wenBase p) (fun s => withBits s (wenBase p) 0x20)) ∧
  (∀ (a : Agent) (q : Nat), q < 4096 → WritesReg (.queueResume a q) a (rQ q 0x18) (fun _ => BitVec.ofNat 64 (2 ^ 32))) ∧
  (∀ (a : Agent) (q : Nat) (v : Word), q < 4096 → WritesReg (.qcfgWrite a q v) a (rQ q 0x10) (fun _ => v)) ∧
  (∀ (a : Agent) (f : Nat), f ≤ 64 → WritesReg (.acctClr a f) a (clientBase f) (fun s => withBits s (clientBase f) 0x10)) ∧
  (∀ (a : Agent) (p : Nat), p < 18 → WritesReg (.awlStart a p) a (awlBase p) (fun s => withBits s (awlBase p) 4)) ∧
  (∀ (a : Agent) (v : Word), WritesReg (.memGenStart a v) a memGenBase (fun _ => v ||| 0x80#64)) ∧
  (∀ (a : Agent) (v : Word), WritesReg (.girthMarginStart a v) a marginBase (fun _ => v ||| 0x1000000#64)) ∧
  (∀ (a : Agent) (n : Word32), WritesReg (.tbSet a n) a (glintBase + 0x10) (fun _ => BitVec.ofNat 64 n.toNat)) ∧
  -- a VF writes the registers of its own queues
  (∀ (s : State) (f q : Nat) (v : Word), isVf (.client f) = true → q < 4096 → reaches s (.client f) (rQ q 0x10) = true →
    regThere s (rQ q 0x10) = true → regThere s (rQ q 0x18) = true →
    exec (.qcfgWrite (.client f) q v) s = .next (ended s (putReg s (.client f) (rQ q 0x10) v)) ∧
    exec (.queueResume (.client f) q) s = .next (ended s (putReg s (.client f) (rQ q 0x18) (BitVec.ofNat 64 (2 ^ 32))))) ∧
  (∀ (s : State) (a : Agent) (p : Nat) (prbs : List (Nat × Nat × Nat)), p < 18 → Reached s a (awlBase p) → pdState s 8 2 = 0 → awlState s p = 1 →
    ∃ t, exec (.awlStop a p prbs) s = .next t ∧ awlState t p = 2 ∧ SameMem s t ∧ SameCores [] s t)


/-- Tag windows, stash enable, counter clear and time set. R103: a window is written only while every queue of the core is disabled, and a window that
another core has is applied as the core's own number; a change of STASH_CFG.EN to 1 empties the stash; ACCT_CLR zeroes the six counters of a
client; a time not lower than the time base waits for the next edge, and a lower one is discarded (R418). -/
def Obligations.TagStashAndCounterWrites : Prop :=
  -- R103: the window takes the written value while no queue is enabled and no other core has it
  (∀ (s : State) (a : Agent) (sl : Nat) (v : Word), isSlot sl = true → Reached s a (rTagCfg sl) → (∀ q, q < 4 → qEn s sl q = false) →
    (∀ x ∈ allSlots, x ≠ sl → (logicalOf s x).isSome = true → s.f (rTagCfg x) 0 8 ≠ fld v 0 8) →
    ∃ t, exec (.tagWindowWrite a sl v) s = .next t ∧ t.f (rTagCfg sl) 0 8 = fld v 0 8 ∧ SameRegs [rTagCfg sl, 0x210, 0x218] s t ∧
      SameCores [] s t) ∧
  -- R103: where another core has it, the core's own number is applied
  (∀ (s : State) (a : Agent) (sl x : Nat) (v : Word), isSlot sl = true → Reached s a (rTagCfg sl) → (∀ q, q < 4 → qEn s sl q = false) →
    x ∈ allSlots → x ≠ sl → (logicalOf s x).isSome = true → s.f (rTagCfg x) 0 8 = fld v 0 8 →
    ∃ t, exec (.tagWindowWrite a sl v) s = .next t ∧ t.f (rTagCfg sl) 0 8 = coreNum s sl ∧
      SameRegs [rTagCfg sl, 0x210, 0x218] s t ∧ SameCores [] s t) ∧
  -- R103: with a queue enabled the write is discarded
  (∀ (s : State) (a : Agent) (sl q : Nat) (v : Word), isSlot sl = true → Reached s a (rTagCfg sl) → q < 4 → qEn s sl q = true →
    ∃ t, exec (.tagWindowWrite a sl v) s = .next t ∧ SameRegs [0x210, 0x218] s t ∧ SameCores [] s t) ∧
  -- a change of STASH_CFG.EN empties the stash
  (∀ (s : State) (a : Agent) (sl : Nat) (v : Word), isSlot sl = true → Reached s a (slotBase sl + 0x800) → s.fb (slotBase sl + 0x800) 0 = false →
    fld v 0 1 = 1 → ∃ t, exec (.stashEnableWrite a sl v) s = .next t ∧ t.fb (slotBase sl + 0x800) 0 = true ∧ (t.core sl).stash = [] ∧
      SameCores [sl] s t) ∧
  -- ACCT_CLR zeroes the six counters
  (∀ (s : State) (a : Agent) (f : Nat), f ≤ 64 → Reached s a (clientBase f) →
    ∃ t, exec (.acctClr a f) s = .next t ∧ (∀ i, i < 6 → t.rd (clientBase f + 0x40 + 8 * i) = 0#64) ∧ SameCores [] s t) ∧
  -- R418: a time that is not lower than the time base waits for the next edge; a lower one is discarded
  (∀ (s : State) (a : Agent) (n : Word32), Reached s a (glintBase + 0x10) → s.now ≤ n.toNat * 1000000000 →
    ∃ t, exec (.tbSet a n) s = .next t ∧ t.time.tbSet = some n.toNat ∧ t.now = s.now ∧ SameMem s t ∧ SameCores [] s t) ∧
  (∀ (s : State) (a : Agent) (n : Word32), Reached s a (glintBase + 0x10) → n.toNat * 1000000000 < s.now →
    ∃ t, exec (.tbSet a n) s = .next t ∧ t.time.tbSet = s.time.tbSet ∧ t.now = s.now ∧ SameCores [] s t)


/-- Girth flits: transmission, reception in order, dropped bad CRCs, the acknowledge timer and the replay limit. R18-R23: a flit offered to an end
with nothing to send, on a route through that end, leaves for the far end with the next SEQ, is kept in the replay buffer and uses one credit; a
flit that is due is resent with its SEQ and credit and is counted; the flit expected next is passed on at its destination, and joins the traffic
of the next port elsewhere (R13); one with a bad CRC is dropped and counted; the acknowledge timer marks every unacknowledged flit for resending;
a flit resent 32 times raises REPLAY_LIMIT and the link retrains. Wire layouts left open are Config values (log 40, 62). -/
def Obligations.GirthTraffic : Prop :=
  -- a flit offered at an end with nothing to send leaves for the far end, when its way leads through that end
  (∀ (s : State) (e : Nat) (o : GirthOffer) (way : GDest), e < 32 → gUp s e = true → (s.gend e).training = false →
    gRetiring s e = false → gRetiring s (farEnd e) = false → pdState s (e / 4) (42 + gPort e) = 0 →
    (s.gend e).replay = [] → (s.gend e).txq = [] → gOfferOk (gLoc e) o = true →
    gRoute s (gLoc e) o.cls ⟨o.stage, o.dst, o.resp, 0⟩ = (e, way) → gShould s e o.cls way = false →
    0 < nth 0 (s.gend e).cred o.cls → (o.cls = 3 ∨ s.boot.featSet = true) →
    ∃ t h, exec (.girthTransmit e [o]) s = .next t ∧
      (t.gend (farEnd e)).wire = (s.gend (farEnd e)).wire ++ [(gBytes h o.payload, way)] ∧ h.seq = (s.gend e).nextSeq ∧ h.cls = o.cls ∧
      h.tag = o.tag % 2 ^ 14 ∧ h.len = o.payload.length / 16 ∧
      (t.gend e).nextSeq = ((s.gend e).nextSeq + 1) % 1024 ∧ (t.gend e).txq = [] ∧
      (t.gend e).replay = [⟨(s.gend e).nextSeq, ⟨o.cls, o.tag % 2 ^ 14, o.payload, way⟩, h.credRet, h.credCls, 0, false⟩] ∧
      nth 0 (t.gend e).cred o.cls = nth 0 (s.gend e).cred o.cls - 1 ∧ (∀ i, i ≠ e → i ≠ farEnd e → t.gend i = s.gend i) ∧
      SameRegs [] s t ∧ SameMem s t ∧ SameCores [] s t) ∧
  -- a flit that is due is resent with its SEQ and the credit it carried, and counted
  (∀ (s : State) (e : Nat) (r : GEntry), e < 32 → gUp s e = true → (s.gend e).training = false → gRetiring s e = false →
    gRetiring s (farEnd e) = false → pdState s (e / 4) (42 + gPort e) = 0 →
    (s.gend e).replay.find? (fun r => r.due && r.resends < 32) = some r →
    ∃ t h, exec (.girthTransmit e []) s = .next t ∧
      (t.gend (farEnd e)).wire = (s.gend (farEnd e)).wire ++ [(gBytes h r.fl.payload, r.fl.way)] ∧
      h.seq = r.seq ∧ h.cls = r.fl.cls ∧ h.tag = r.fl.tag ∧ h.credRet = r.credRet ∧ h.credCls = r.credCls ∧
      (t.gend e).replay = (s.gend e).replay.map (fun y => if y.seq = r.seq then { y with due := false, resends := y.resends + 1 } else y) ∧
      (t.gend e).cred = (s.gend e).cred ∧ t.rd (rGirth e 0x18) = (s.addCtr (rGirth e 0x18) 1).rd (rGirth e 0x18) ∧
      SameRegs [rGirth e 0x18] s t ∧ SameMem s t ∧ SameCores [] s t) ∧
  -- the flit expected next is passed on where it goes to this place, and goes on from here where it does not
  (∀ (s : State) (e flip : Nat) (w : List Byte) (way : GDest) (rest : List (List Byte × GDest)), (s.gend e).wire = (w, way) :: rest → e < 32 →
    gUp s e = true → pdState s (e / 4) (42 + gPort e) = 0 → (s.gend e).held = [] →
    let fl := leBytes 128 (leNat w ^^^ flip)
    let h := gHdrOf (leNat (fl.take 8)) (leNat ((fl.drop 120).take 4))
    let data := (fl.drop 8).take (16 * h.len)
    let r := gRoute s (gLoc e) h.cls way
    gCrcOk fl = true → h.seq = (s.gend e).rxNext →
    ∃ t, exec (.girthFlitReceive e flip) s = .next t ∧
      (way.dst = gLoc e → t.outbox = s.outbox ++ [.girth e h.cls h.tag data] ∧ ∀ i, (t.gend i).txq = (s.gend i).txq) ∧
      (way.dst ≠ gLoc e → t.outbox = s.outbox ∧ (t.gend r.1).txq = (s.gend r.1).txq ++ [⟨h.cls, h.tag, data, r.2⟩]) ∧
      (t.gend e).rxNext = (h.seq + 1) % 1024 ∧ (t.gend e).wire = rest ∧ (t.gend e).held = [] ∧ SameRegs [] s t ∧ SameMem s t ∧
      SameCores [] s t) ∧
  -- a flit with a bad CRC is dropped and counted
  (∀ (s : State) (e flip : Nat) (w : List Byte × GDest) (rest : List (List Byte × GDest)), (s.gend e).wire = w :: rest → e < 32 →
    gUp s e = true → pdState s (e / 4) (42 + gPort e) = 0 → gCrcOk (leBytes 128 (leNat w.1 ^^^ flip)) = false →
    exec (.girthFlitReceive e flip) s =
      .next (ended s ((s.modGend e (fun x => { x with wire := rest })).addCtr (rGirth e 0x20) 1))) ∧
  (∀ (s : State) (e : Nat), e < 32 →
    exec (.girthAckTimeout e) s =
      .next (ended s (s.modGend e (fun x => { x with replay := x.replay.map (fun r => { r with due := true }) })))) ∧
  (∀ (s : State) (e : Nat) (r : GEntry), (s.gend e).replay.find? (fun r => 32 ≤ r.resends) = some r → gUp s e = true →
    exec (.girthReplayLimit e) s = .next (ended s (gRetrain (gRaise s e .replayLimit 5 [gPort e, r.seq]) e)))


/-- Girth lanes: training, a failed lane, its spare, a retired group, the reroute release. R24-R29: training done brings both ends up, with what is
unacknowledged resent first; a lane failure waits its turn; with a spare left in its group the lane moves to it, and no traffic is lost; with none
the group is retired and the port narrows by one, at 11 groups it is degraded, and with none it is down; a degraded port with an empty replay
buffer releases the traffic that moves, and a port that is down replays first what has not arrived. -/
def Obligations.GirthLinkRecovery : Prop :=
  (∀ (s : State) (e : Nat), e < 32 → gUp s e = false → (∀ x ∈ [e, farEnd e], 1 ≤ dieState s (x / 4) ∧ ∃ g, g < 16 ∧ gRetired s x g = false) →
    (gPort e = 2 ∨ s.boot.featSet = true) →
    exec (.girthRetrainDone e) s = .next (ended s (gTrained (gTrained s e) (farEnd e)))) ∧
  -- an end that has trained is up with the groups it has left, and resends what is unacknowledged first
  (∀ (s : State) (e : Nat), e < 32 → ((gTrained s e).gend e).training = false ∧ (∀ r ∈ ((gTrained s e).gend e).replay, r.due = true) ∧
    ((∀ r, r < 8 → ringTakes s r 1 none = false) → gUp (gTrained s e) e = true ∧
      gActive (gTrained s e) e = 16 - ((upto 16).filter (fun g => gRetired s e g)).length)) ∧
  (∀ (s : State) (e g lane : Nat), e < 32 → g < 16 → lane < 66 → gUp s e = true → gRetired s e g = false →
    exec (.girthLaneFail e g lane) s = .next (ended s (s.modGend e (fun x =>
      if x.fails.contains (g, lane) then x else { x with fails := x.fails ++ [(g, lane)] })))) ∧
  -- a spare left in the group takes the failed lane over
  (∀ (s : State) (e g lane : Nat) (rest : List (Nat × Nat)), e < 32 → g < 16 → (s.gend e).fails = (g, lane) :: rest → gSpares s e g < 2 →
    ∃ t, exec (.laneSpared e) s = .next t ∧ (t.gend e).fails = rest ∧ gSpares t e g = gSpares s e g + 1 ∧ (t.gend e).replay = (s.gend e).replay ∧
      (t.gend e).txq = (s.gend e).txq ∧ SameMem s t ∧ SameCores [] s t ∧
      ∃ r ∈ t.raises, r.cls = (FaultSrc.girthLaneSpared).at.1 ∧ r.inst = 4 * (e / 4) + gPort e ∧ r.idx = (FaultSrc.girthLaneSpared).at.2 ∧ r.ev = s.evNo) ∧
  -- with none left the group is retired, below 12 groups the port is degraded, and with none it is down
  (∀ (s : State) (e g lane n : Nat) (rest : List (Nat × Nat)), (s.gend e).fails = (g, lane) :: rest → 2 ≤ gSpares s e g →
    gActive s e = n + 1 →
    let u := marginHit (s.modGend e (fun x => { x with fails := x.fails.filter (fun p => p.1 ≠ g) })) e (fun h _ => h = g)
    let v := gRaise ((u.setB (rGirth e 0) (16 + g) true).setF (rGirth e 0) 8 5 n) e .groupRetired 1 [gPort e, g, n]
    (n ≠ 0 → n ≠ 11 → exec (.groupRetired e) s = .next (ended s v)) ∧
    (n = 11 → exec (.groupRetired e) s = .next (ended s (gRaise (v.setB (rGirth e 0) 1 true) e .portDegraded 2 [gPort e, n]))) ∧
    (n = 0 → exec (.groupRetired e) s = .next (ended s
      (isolateCheck (gRaise (setLinkUp (setLinkUp v e false) (farEnd e) false) e .portDown 3 [gPort e]) e)))) ∧
  -- a degraded port that has emptied its replay buffer releases the traffic that moves, one that is down replays what has not arrived first
  (∀ (s : State) (e : Nat), e < 32 → s.fb (rGirth e 0) 1 = true →
    (gDead s e = false → gDead s (farEnd e) = false → (s.gend e).replay = [] →
      exec (.girthRerouteRelease e) s = .next (ended s (gRelease s e [] 1))) ∧
    (gDead s e = true ∨ gDead s (farEnd e) = true →
      exec (.girthRerouteRelease e) s = .next (ended s (gRelease (s.modGend e (fun x => { x with replay := [] })) e
        (((s.gend e).replay.filter (fun r => subMod 10 r.seq (s.gend (farEnd e)).rxNext < 512)).map (fun r => r.fl)) 2)))) ∧
  (∀ (s : State) (e k : Nat) (old : List GFlit), (gRelease s e old k).fb (rGirth e 0) 2 = true ∧ ((gRelease s e old k).gend e).moved = k ∧
    SameRegs [rGirth e 0] s (gRelease s e old k) ∧ SameMem s (gRelease s e old k) ∧ SameCores [] s (gRelease s e old k))


/-- A Girth flit decodes to the header and payload it was built from, and one damaged bit is seen. For every header whose fields fit and every payload
of at most 112 bytes: the flit has 128 bytes, its CRC is right, its header and payload read back as given, the rest of the payload is zero, and
inverting any one of its 1,024 bits makes the CRC wrong (R18, Table 1.3; the CRC-32C parameters are log 20). -/
def Obligations.GirthFlitRoundTrip : Prop :=
  ∀ (h : GHdr) (payload : List Byte), GHdrFits h → payload.length ≤ 112 →
    let fl := gBytes h payload
    fl.length = 128 ∧ gCrcOk fl = true ∧ gHdrOf (leNat (fl.take 8)) (leNat ((fl.drop 120).take 4)) = h ∧
    (fl.drop 8).take payload.length = payload ∧ (∀ i, payload.length ≤ i → i < 112 → fl[8 + i]? = some 0#8) ∧
    -- one damaged bit of the flit is seen
    (∀ bit, bit < 1024 → gCrcOk (leBytes 128 (leNat fl ^^^ 2 ^ bit)) = false)


/-- A Wenlyn flit decodes to the header, payload and trailer it was built from. For every header whose fields fit, every payload of at most 232 bytes
and every trailer: the flit has 256 bytes, its CRC is right and an inverted CRC is wrong, and header, payload and trailer read back as given
(R285, Table 11.1; the CRC-32C parameters are log 20). -/
def Obligations.WenlynFlitRoundTrip : Prop :=
  ∀ (h : WHdr) (payload : List Byte) (trailer : Nat), HdrFits h → payload.length ≤ 232 → trailer < 2 ^ 32 →
    let fl := flitBytes h payload trailer false
    fl.length = 256 ∧ flitCrcOk fl = true ∧ flitCrcOk (flitBytes h payload trailer true) = false ∧
    hdrOf (leNat (fl.take 8)) (leNat ((fl.drop 8).take 8)) = h ∧ (fl.drop 16).take payload.length = payload ∧
    (∀ i, payload.length ≤ i → i < 232 → fl[16 + i]? = some 0#8) ∧ leNat (fl.drop 252) = trailer


/-- Package reset, die reset, power loss, power on and PERST_N. R394-R397, R428, R431, Table 16.1: a write of GLOBAL.RESET.PKG by PF0 asks for a
package reset with cause 2, is reported while one is in progress, and asks for nothing from another agent; the reset records its cause and block,
leaves cores, slices, links and host interface as after reset, clears every scratchpad and cluster memory, keeps flash, host memory and HBM that
no slice holds newer; GLOBAL.RESET.DIE_d asks for a die reset, which once no allocator lock is held there leaves the die RESETTING with its cores
as after reset (but for receive queues noted as closed) and its SRAM zero; power loss keeps flash, the retire tables and host memory and nothing
else of the hub and the memories; power on starts bring-up; PERST_N asks for a package reset unless one is asked for. -/
def Obligations.PackageResets : Prop :=
  -- GLOBAL.RESET.PKG: PF0 asks for a package reset; while one is in progress the write is reported; no other agent asks for one
  (∀ s : State, s.boot.resetReq = none →
    ∃ t, exec (.resetPkgWrite (.client 0)) s = .next t ∧ t.boot.resetReq = some (2, 0) ∧ SameRegs [] s t ∧ SameMem s t ∧ SameCores [] s t ∧
      t.raises = s.raises ∧ t.outbox = s.outbox) ∧
  (∀ (s : State) (r : Nat × Nat), s.boot.resetReq = some r →
    ∃ t, exec (.resetPkgWrite (.client 0)) s = .next t ∧ t.boot = s.boot ∧ SameRegs [0x210, 0x218] s t ∧ SameCores [] s t) ∧
  (∀ (s : State) (a : Agent), a ≠ .client 0 → Reached s a rReset →
    ∃ t, exec (.resetPkgWrite a) s = .next t ∧ t.boot = s.boot ∧ SameRegs [] s t ∧ SameMem s t ∧ SameCores [] s t) ∧
  -- a package reset
  (∀ (s : State) (cause blk : Nat), s.boot.resetReq = some (cause, blk) →
    ∃ t, exec .packageReset s = .next t ∧ t.boot.resetReq = none ∧ t.f rReset 24 4 = cause % 16 ∧ t.f rReset 28 16 = blk % 65536 ∧
      t.cores = [] ∧ t.lines = [] ∧ t.girth = State.reset.girth ∧ t.wen = Wen.reset ∧ t.host = HostIf.reset ∧
      t.boot.images = s.boot.images ∧ t.boot.records = s.boot.records ∧ (∀ a, hostA 0 ≤ a → t.byte a = s.byte a) ∧
      (∀ a, hbmTop ≤ a → a < hostA 0 → t.byte a = 0#8) ∧ (s.stale = [] → ∀ a, a < hbmTop → t.byte a = s.byte a)) ∧
  -- GLOBAL.RESET.DIE_d, and the die reset it asks for
  (∀ (s : State) (a : Agent) (d : Nat), d < 8 → diePresent s d = true → Reached s a rReset →
    ∃ t, exec (.dieResetWrite a d) s = .next t ∧ t.fb rReset (16 + d) = true ∧ SameRegs [rReset, 0x210, 0x218] s t ∧ SameCores [] s t ∧
      (s.fb rReset (16 + d) = false → SameMem s t ∧ t.rd 0x210 = s.rd 0x210 ∧ t.rd 0x218 = s.rd 0x218)) ∧
  (∀ (s : State) (d : Nat), d < 8 → diePresent s d = true → s.fb rReset (16 + d) = true → dieState s d ≠ 5 → lockHeldIn s d = false →
    ∃ t, exec (.dieReset d) s = .next t ∧ dieState t d = 5 ∧
      (∀ k, k / 64 = d → { t.core k with rqs := [] } = { Core.reset with rqs := [] }) ∧ ∀ a, sramOf d a = true → t.byte a = 0#8) ∧
  -- the input power
  (∀ s : State,
    ∃ t, exec .powerLoss s = .next t ∧ t.boot.powered = false ∧ t.boot.images = s.boot.images ∧ t.boot.records = s.boot.records ∧
      t.cores = [] ∧ (∀ a, a < hostA 0 → t.byte a = 0#8) ∧ (∀ a, hostA 0 ≤ a → t.byte a = s.byte a) ∧
      (∀ d i, d < 8 → i < 512 → t.rd (rRetire d i) = s.rd (rRetire d i)) ∧ ∀ off, off < 0x1000000 → t.rd off = regReset off) ∧
  (∀ s : State, s.boot.powered = false → exec .powerOn s = .next (ended s { s with boot := { s.boot with powered := true } })) ∧
  (∀ s : State, s.boot.perst = false → s.boot.powered = true →
    ∃ t, exec .perstNAssert s = .next t ∧ t.boot.perst = true ∧ (s.boot.resetReq = none → t.boot.resetReq = some (1, 0)) ∧
      (∀ r, s.boot.resetReq = some r → t.boot.resetReq = some r) ∧ SameRegs [] s t ∧ SameMem s t ∧ SameCores [] s t)


/-- PCIe training, boot trials and confirmations, and the image mailbox. R398, R399, R403: the link trains at the generation and width met, at 2.5
GT/s until PCIE_FULL_OK; BOOT_TRY and BOOT_CONFIRM write 4 and 8 to GLOBAL.BOOT, from PF0 TRY is set and CONFIRM makes the running image
preferred; an image is accepted into the image that is not running, and left alone by a write to the one that is. -/
def Obligations.FirmwareImagesAndPcie : Prop :=
  (∀ (s : State) (gen width : Nat), s.boot.perst = true →
    ∃ t, exec (.perstNRelease gen width) s = .next t ∧ t.boot.perst = false ∧ t.boot.width = (if width < 16 then 8 else 16) ∧
      t.f 0x600 4 3 = (if s.fb 0x600 7 then min 6 (max 1 gen) else 1) ∧ SameRegs [0x600] s t ∧ SameMem s t) ∧
  (∀ (s : State) (gen width : Nat), s.boot.perst = false →
    ∃ t, exec (.pcieLinkRetrain gen width) s = .next t ∧ t.boot.width = (if width < 16 then 8 else 16) ∧
      t.f 0x600 4 3 = (if s.fb 0x600 7 then min 6 (max 1 gen) else 1) ∧ SameRegs [0x600] s t ∧ SameMem s t) ∧
  (∀ a : Agent, WritesReg (.bootTry a) a rBoot (fun _ => 4#64) ∧ WritesReg (.bootConfirm a) a rBoot (fun _ => 8#64)) ∧
  (∀ s : State, ∃ t, exec (.bootTry (.client 0)) s = .next t ∧ t.fb rBoot 2 = true ∧ t.f rBoot 0 2 = s.f rBoot 0 2 ∧
    SameRegs [rBoot] s t ∧ SameMem s t) ∧
  (∀ s : State, ∃ t, exec (.bootConfirm (.client 0)) s = .next t ∧ t.f rBoot 1 1 = s.f rBoot 0 1 ∧ t.f rBoot 0 1 = s.f rBoot 0 1 ∧
    SameRegs [rBoot] s t ∧ SameMem s t) ∧
  (∀ (s : State) (img version : Nat) (h g : Bool), img < 2 → img = s.f rBoot 0 1 → exec (.mailboxImageWrite img h g version) s = .next (ended s s)) ∧
  (∀ (s : State) (img version : Nat) (h g : Bool), img < 2 → img ≠ s.f rBoot 0 1 →
    exec (.mailboxImageWrite img h g version) s =
      .next (ended s { s with boot := { s.boot with images := setNth s.boot.images img ⟨h, g, version % 65536⟩ } }))


/-- A die that passed its tests is REDUCED with its cores ready, and FULL after the matrix self-test; failed slots. Table 16.4, R402-R405: DIE_READY
with no failure takes a die in bring-up or reset to REDUCED, clears its reset bit and makes each built core ready that is not offline; with failed
slots the spare is armed for the lowest and the die reset again, or their cores fail and the others come up; MATRIX_SELFTEST_DONE with no failure
takes a REDUCED die to FULL with G16 in each core slot, and leaves it REDUCED without G16 where steppings are mixed; a failed slot arms the spare. -/
def Obligations.DiesComeUp : Prop :=
  -- a die comes up in reduced service, where every die in service has a route to the hub
  (∀ (s : State) (d : Nat) (hbmOk : Bool), diePresent s d = true → s.boot.featSet = true → (dieState s d = 1 ∨ dieState s d = 5) →
    (∀ x, x < 8 → 1 ≤ dieState (readyDie s d hbmOk) x → dieState (readyDie s d hbmOk) x ≤ 3 → hubRoute (readyDie s d hbmOk) x = true) →
    ∃ t, exec (.dieReady d [] hbmOk) s = .next t ∧ dieState t d = 2 ∧ t.fb rReset (16 + d) = false ∧
      (∀ n, n / 32 = d → coreBuilt s n = true → offline s n = false → coreReady t n = true)) ∧
  -- failed slots: the spare is armed and the die reset once more, or their cores fail and the others are ready
  (∀ (s : State) (d : Nat) (failed : List Nat) (hbmOk : Bool), diePresent s d = true → s.boot.featSet = true →
    (dieState s d = 1 ∨ dieState s d = 5) →
    (∀ t, armSpare s d (testFailed s d failed) = some t →
      exec (.dieReady d failed hbmOk) s = .next (ended s (t.setF (rCapDie d) 0 3 1)) ∧ t.fb rReset (16 + d) = true ∧ t.fb (rSpareMap d) 0 = true) ∧
    (armSpare s d (testFailed s d failed) = none →
      exec (.dieReady d failed hbmOk) s = .next (ended s (isolateCheck (readyDie ((testFailed s d failed).foldl coreFails s) d hbmOk) (4 * d + 2))))) ∧
  -- the matrix self-test: FULL with G16, or REDUCED where steppings are mixed; a failed slot arms the spare
  (∀ (s : State) (d : Nat), d < 8 → dieState s d = 2 → s.fb (rCapDie d) 4 = false → s.fb 0x600 3 = false →
    ∃ t, exec (.matrixSelftestDone d []) s = .next t ∧ dieState t d = 3 ∧ t.fb (rCapDie d) 4 = true ∧
      (∀ sl, isSlot sl = true → sl / 64 = d → t.fb (slotBase sl + 0x3A0) 2 = true)) ∧
  (∀ (s : State) (d : Nat), d < 8 → dieState s d = 2 → s.fb (rCapDie d) 4 = false → s.fb 0x600 3 = true →
    ∃ t, exec (.matrixSelftestDone d []) s = .next t ∧ dieState t d = 2 ∧ t.fb (rCapDie d) 4 = true ∧
      (∀ sl, isSlot sl = true → sl / 64 = d → t.fb (slotBase sl + 0x3A0) 2 = false)) ∧
  (∀ (s t : State) (d : Nat) (failed : List Nat), dieState s d = 2 → s.fb (rCapDie d) 4 = false →
    armSpare s d (testFailed s d failed) = some t → exec (.matrixSelftestDone d failed) s = .next (ended s t))


/-- The MC heartbeat, its loss and takeover, the Lanterns' own heartbeats, and the release. R368-R371, R398: a changed heartbeat of the MC is kept and
moves bring-up on (first the dies train, then FEAT_EN is set; the stages are folded into heartbeats, log 67), ends a takeover with LANTERN_ACTION,
and changes nothing when it is the old count; one of any other agent is discarded; its stop hands over to the acting Lantern, which counts an
attempt, asserts ERR_HOLD and stops new work; BOOT_WAIT ends in the other image, in another attempt, or after three in SAFE; Lantern heartbeats
set and clear BOTH_ALIVE, and a lost one raises LANTERN_LOST; a release in RECOVERED returns to watching. -/
def Obligations.LanternsAndHeartbeat : Prop :=
  -- the MC's heartbeat: bring-up moves on, and later a changed one is kept and one that follows a takeover ends it
  (∀ (s : State) (count : Word32), s.boot.powered = true → s.boot.checked = true → lanternState s = 0 → s.f 0x510 0 32 ≠ count.toNat →
    ∃ t, exec (.lanternHeartbeat .mc count) s = .next t ∧ t.f 0x510 0 32 = count.toNat ∧ t.boot.heard = true ∧ t.boot.ever = true ∧
      lanternState t = 0 ∧ SameMem s t ∧
      (s.boot.ever = false → ∀ d, d < 8 → diePresent s d = true → dieState s d = 0 → dieState t d = 1) ∧
      (s.boot.ever = true → s.boot.featSet = false → (∀ d, d < 8 → diePresent s d = true → gUp s (4 * d + 2) = true) → t.boot.featSet = true) ∧
      (s.boot.ever = true → s.boot.featSet = true → s.fb 0x600 7 = true → SameRegs [0x510] s t ∧ SameCores [] s t)) ∧
  (∀ (s : State) (count : Word32), s.boot.powered = true → s.boot.checked = true → lanternState s = 1 → s.f 0x510 0 32 ≠ count.toNat →
    ∃ t, exec (.lanternHeartbeat .mc count) s = .next t ∧ t.f 0x510 0 32 = count.toNat ∧ t.boot.heard = true ∧ lanternState t = 2 ∧
      ∃ r ∈ t.raises, r.cls = (FaultSrc.lanternAction).at.1 ∧ r.idx = (FaultSrc.lanternAction).at.2 ∧ r.ev = s.evNo) ∧
  (∀ (s : State) (count : Word32), s.boot.powered = true → s.f 0x510 0 32 = count.toNat →
    ∃ t, exec (.lanternHeartbeat .mc count) s = .next t ∧ t.boot = s.boot ∧ SameRegs [] s t ∧ SameMem s t ∧ SameCores [] s t) ∧
  (∀ (s : State) (a : Agent) (count : Word32), a ≠ .mc →
    ∃ t, exec (.lanternHeartbeat a count) s = .next t ∧ t.boot = s.boot ∧ SameRegs [0x210, 0x218] s t ∧ SameCores [] s t) ∧
  -- its stop, and the ends of BOOT_WAIT
  (∀ s : State, lanternState s = 0 → s.boot.heard = true →
    ∃ t, exec .mcHeartbeatStop s = .next t ∧ lanternState t = 1 ∧ t.f 0x500 2 1 = actingLantern s ∧ t.f 0x500 3 2 = 1 ∧ t.fb 0x500 6 = true ∧
      t.fb 0x500 7 = true ∧ t.boot.heard = false ∧ (t.hart 72).handling = none) ∧
  (∀ s : State, s.boot.heard = false → s.boot.powered = true → s.boot.checked = true → lanternState s = 0 →
    exec .bootWaitExpire s = .next (ended s (fallBack (resetMc s) (s.f rBoot 0 1) 2))) ∧
  (∀ s : State, s.boot.heard = false → s.boot.powered = true → lanternState s = 1 → s.f 0x500 3 2 < 3 →
    exec .bootWaitExpire s = .next (ended s (lanternReset (s.setF 0x500 3 2 (s.f 0x500 3 2 + 1))))) ∧
  (∀ s : State, s.boot.heard = false → s.boot.powered = true → lanternState s = 1 → s.f 0x500 3 2 = 3 →
    ∃ t, exec .bootWaitExpire s = .next t ∧ lanternState t = 3 ∧
      ∃ r ∈ t.raises, r.cls = (FaultSrc.lanternAction).at.1 ∧ r.idx = (FaultSrc.lanternAction).at.2 ∧ r.ev = s.evNo) ∧
  -- the Lanterns' own heartbeats
  (∀ (s : State) (l : Nat), l < 2 →
    ∃ t, exec (.lanternPeerHeartbeat l) s = .next t ∧ l ∈ t.boot.beats ∧ l ∉ t.boot.gone ∧
      (t.fb 0x500 5 = true ↔ (insertNat s.boot.beats l).length = 2) ∧ SameRegs [0x500] s t ∧ SameMem s t ∧ SameCores [] s t) ∧
  (∀ (s : State) (l : Nat), l < 2 → l ∉ s.boot.gone →
    ∃ t, exec (.lanternLost l) s = .next t ∧ l ∉ t.boot.beats ∧ l ∈ t.boot.gone ∧ t.fb 0x500 5 = false ∧
      (∃ r ∈ t.raises, r.cls = (FaultSrc.lanternLost).at.1 ∧ r.idx = (FaultSrc.lanternLost).at.2 ∧ r.synd = l ∧ r.ev = s.evNo) ∧
      SameRegs [0x500] s t ∧ SameMem s t ∧ SameCores [] s t) ∧
  -- the release
  (∀ s : State, lanternState s = 2 →
    ∃ t, exec (.lanternRelease (.client 0)) s = .next t ∧ lanternState t = 0 ∧ t.f 0x500 3 2 = 0 ∧ t.fb 0x500 6 = false ∧
      t.fb 0x500 7 = false ∧ SameCores [] s t) ∧
  (∀ a : Agent, WritesReg (.lanternRelease a) a 0x508 (fun s => withBits s 0x508 1))


/-- A raised source is latched first, or counted while another is latched; reactions; acknowledge and clear. R359-R363, R365: with VALID 0 a raised
source sets its status bit, latches source, block, reaction, time and syndrome, asserts ERR_N where its action says so, and its reaction follows
(INTERRUPT sends one interrupt, NMI traps a free owner at NMIVEC, CHIP_RESET asks for a package reset); with VALID 1 it sets its bit, counts as
lost and stays pending; an acknowledge with nothing pending clears VALID, and else latches the lowest pending source as replayed; status bits
clear where 1 is written. Sources of classes 3 and 7 are stated where no trace ring takes LINK records. -/
def Obligations.FaultLatches : Prop :=
  -- the next trigger of a block reaches its fault set with VALID 0: it is latched, and the reaction of the source follows
  (∀ (s : State) (cls inst : Nat) (r : Raise), isBlock cls inst = true → nextRaise s cls inst = some r → r.idx < 32 → fltValid s cls inst = false →
    (cls = 3 ∨ cls = 7 → ∀ g, g < 8 → ringTakes s g 1 none = false) →
    ∃ u, exec (.faultRaise cls inst none) s = .next (ended s (react u cls inst r.idx (fltReact s cls inst r.idx))) ∧
      u.fb (fltBase cls inst) r.idx = true ∧ fltValid u cls inst = true ∧ u.f (fltBase cls inst + 8) 0 5 = r.idx ∧
      u.f (fltBase cls inst + 8) 8 16 = blockId cls inst % 65536 ∧ u.f (fltBase cls inst + 8) 25 3 = fltReact s cls inst r.idx ∧
      u.fb (fltBase cls inst + 8) 29 = false ∧ u.rd (fltBase cls inst + 0x10) = BitVec.ofNat 64 s.now ∧
      u.rd (fltBase cls inst + 0x18) = BitVec.ofNat 64 r.synd ∧ u.raises = s.raises.erase r ∧
      (fltErr s cls inst r.idx = true → errKey cls inst r.idx ∈ u.errBits) ∧
      SameRegs ([fltBase cls inst, fltBase cls inst + 8, fltBase cls inst + 0x10, fltBase cls inst + 0x18]
        ++ (if cls = 0 then [slotBase inst + 0x208, slotBase inst + 0x210, slotBase inst + 0x218] else [])) s u ∧
      SameMem s u ∧ SameCores [] s u) ∧
  (∀ (s : State) (cls inst : Nat) (r : Raise), isBlock cls inst = true → nextRaise s cls inst = some r → r.idx < 32 → cls ≠ 3 → cls ≠ 7 →
    ¬ (cls = 0 ∧ r.idx = 0) → fltValid s cls inst = false → fltReact s cls inst r.idx ≤ 1 → fltErr s cls inst r.idx = false →
    fltHost s cls inst r.idx = false →
    ∃ t, exec (.faultRaise cls inst none) s = .next t ∧
      t.fb (fltBase cls inst) r.idx = true ∧ fltValid t cls inst = true ∧ t.f (fltBase cls inst + 8) 0 5 = r.idx ∧
      t.f (fltBase cls inst + 8) 8 16 = blockId cls inst % 65536 ∧
      t.rd (fltBase cls inst + 0x10) = BitVec.ofNat 64 s.now ∧ t.rd (fltBase cls inst + 0x18) = BitVec.ofNat 64 r.synd ∧
      t.raises = s.raises.erase r ∧
      t.outbox = s.outbox ++ (if fltReact s cls inst r.idx = 1 then [.irq cls inst] else []) ∧
      SameRegs [fltBase cls inst, fltBase cls inst + 8, fltBase cls inst + 0x10, fltBase cls inst + 0x18] s t ∧ SameMem s t) ∧
  -- the reactions NMI and CHIP_RESET
  (∀ (u : State) (cls inst i : Nat), cls ≠ 12 → cls ≠ 3 → (u.hart (ownerOf u cls inst)).handling = none →
    ((react u cls inst i 2).hart (ownerOf u cls inst)).handling = some (cls, inst) ∧
    ((react u cls inst i 2).hart (ownerOf u cls inst)).mtval = fltBase cls inst ∧
    ((react u cls inst i 2).hart (ownerOf u cls inst)).pc = (u.hart (ownerOf u cls inst)).nmivec) ∧
  (∀ (u : State) (cls inst i : Nat), u.boot.resetReq = none → (react u cls inst i 4).boot.resetReq = some (3, blockId cls inst)) ∧
  -- with VALID 1 it sets its bit, counts as lost and stays pending
  (∀ (s : State) (cls inst : Nat) (r : Raise), isBlock cls inst = true → nextRaise s cls inst = some r → r.idx < 32 → cls ≠ 3 → cls ≠ 7 →
    fltValid s cls inst = true → fltReact s cls inst r.idx ≤ 2 → fltErr s cls inst r.idx = false →
    ∃ t, exec (.faultRaise cls inst none) s = .next t ∧
      t.fb (fltBase cls inst) r.idx = true ∧ t.fb (fltBase cls inst + 0x20) 0 = true ∧
      t.f (fltBase cls inst + 0x20) 16 16 = min 65535 (s.f (fltBase cls inst + 0x20) 16 16 + 1) ∧
      (fltReact s cls inst r.idx ≠ 0 → t.fb (fltBase cls inst) (32 + r.idx) = true) ∧
      t.raises = s.raises.erase r ∧ t.outbox = s.outbox ∧
      SameRegs [fltBase cls inst, fltBase cls inst + 0x20] s t ∧ SameMem s t) ∧
  -- a trigger that no other command covers
  (∀ (s : State) (inst i synd : Nat), i < 2 → synd < 2 ^ 64 →
    exec (.faultRaise 12 inst (some (i, synd))) s = .next (ended s (raiseSource s 12 0 i synd [])) ∧
    (inst < 64 → exec (.faultRaise 1 inst (some (i, synd))) s = .next (ended s (raiseSource s 1 inst i synd [])))) ∧
  -- an acknowledgement empties the latch, and the lowest pending source is latched next
  (∀ (s : State) (cls inst : Nat), isBlock cls inst = true → Reached s (.client 0) (fltBase cls inst + 8) → fltValid s cls inst = true →
    fltPending s cls inst = 0 →
    ∃ t, exec (.faultAck (.client 0) cls inst) s = .next t ∧ fltValid t cls inst = false ∧ SameRegs [fltBase cls inst + 8] s t ∧
      SameMem s t ∧ SameCores [] s t) ∧
  (∀ (s : State) (cls inst i : Nat), isBlock cls inst = true → Reached s (.client 0) (fltBase cls inst + 8) → fltValid s cls inst = true →
    lowBit (fltPending s cls inst) = some i → fltReact s cls inst i ≤ 1 →
    ∃ t, exec (.faultAck (.client 0) cls inst) s = .next t ∧ fltValid t cls inst = true ∧ t.f (fltBase cls inst + 8) 0 5 = i ∧
      t.fb (fltBase cls inst + 8) 29 = true ∧ t.fb (fltBase cls inst) (32 + i) = false ∧ t.rd (fltBase cls inst + 0x18) = 0#64 ∧ SameMem s t ∧
      SameCores [] s t) ∧
  (∀ (a : Agent) (cls inst : Nat), isBlock cls inst = true →
    WritesReg (.faultAck a cls inst) a (fltBase cls inst + 8) (fun _ => BitVec.ofNat 64 (2 ^ 24))) ∧
  -- STATUS bits are cleared where 1 is written
  (∀ (a : Agent) (cls inst : Nat) (mask : Word32), isBlock cls inst = true →
    WritesReg (.fltStatusClear a cls inst mask) a (fltBase cls inst) (fun _ => BitVec.ofNat 64 mask.toNat)) ∧
  (∀ (s : State) (cls inst : Nat) (mask : Word32), isBlock cls inst = true → Reached s (.client 0) (fltBase cls inst) →
    ∃ t, exec (.fltStatusClear (.client 0) cls inst mask) s = .next t ∧
      (∀ i, i < 32 → t.fb (fltBase cls inst) i = (s.fb (fltBase cls inst) i && !bitN mask.toNat i)) ∧
      fltPending t cls inst = fltPending s cls inst ∧
      SameRegs [fltBase cls inst, 0x210, 0x218] s t ∧ SameCores [] s t)


/-- Supply and reference-clock events. R373, R374, R433: a PMBus command that is not acknowledged raises PSU_TIMEOUT and holds the supply as it is; an
alert reads the status word unless the supply is held; an input below 36.0 V is reported and caps every die until it is above 36.5 V; an input
above 44.0 V is reported; a missing reference clock puts the block in holdover until it is back. -/
def Obligations.SupplyEvents : Prop :=
  (∀ (s : State) (cmd status : Nat), s.boot.psuHold = false →
    exec (.psuTimeout cmd status) s = .next (ended s (({ s with boot := { s.boot with psuHold := true } } : State).raise .psuTimeout 0
      (packBits [(cmd, 0, 8), (status, 8, 16)])))) ∧
  (∀ (s : State) (status : Nat), s.boot.psuHold = true → exec (.pmbAlert status) s = .next (ended s s)) ∧
  (∀ (s : State) (status : Nat), s.boot.psuHold = false → status < 2 ^ 16 →
    exec (.pmbAlert status) s = .next (ended s (s.emit (.pmbus 0x79)))) ∧
  (∀ (s : State) (mv : Nat), mv < 36000 → s.boot.uv = false →
    exec (.inputUv mv) s = .next (ended s (levelAll (({ s.setF rPwrStatus 0 16 mv with boot := { s.boot with uv := true } } : State).raise
      .inputUv 0 (packBits [(mv, 0, 16)]))))) ∧
  (∀ (s : State) (mv : Nat), 36500 ≤ mv → s.boot.uv = true →
    exec (.inputUvClear mv) s = .next (ended s (levelAll { s.setF rPwrStatus 0 16 mv with boot := { s.boot with uv := false } }))) ∧
  (∀ (s : State) (mv : Nat), 44000 < mv →
    exec (.inputOv mv) s = .next (ended s ((s.setF rPwrStatus 0 16 mv).raise .inputOv 0 (packBits [(mv, 0, 16)])))) ∧
  (∀ s : State, exec .refclkLoss s = .next (ended s { s with boot := { s.boot with holdover := true } })) ∧
  (∀ s : State, exec .refclkRestore s = .next (ended s { s with boot := { s.boot with holdover := false } }))


/-- Regulator requests, power-domain idling and regulator faults. R375-R383, R393: an acknowledged or timed-out RSI request moves its rail or domain
on, or reports and fails it, and the next request is sent; an idle domain with AUTO enters TARGET, at once in the hub and by a gate request on a
die, a slice that goes off after its dirty lines are written back; a rail of a die or of the hub out of its window raises IVR_FAULT. -/
def Obligations.RegulatorsAndDomains : Prop :=
  (∀ (s u : State) (d rail : Nat) (r : Rsi), takeRsi s d rail = some (r, u) → r.dom = none →
    exec (.rsiAck d rail) s = .next (ended s (pumpRsi (levelStep (u.modDie d (fun x => { x with rail0 := r.code })) d) d))) ∧
  (∀ (s u : State) (d rail n : Nat) (r : Rsi), takeRsi s d rail = some (r, u) → r.dom = some n →
    exec (.rsiAck d rail) s = .next (ended s (pumpRsi (gateDone u d n r.code) d))) ∧
  (∀ (s u : State) (d rail n : Nat) (r : Rsi), takeRsi s d rail = some (r, u) → r.dom = some n →
    exec (.rsiTimeout d rail) s = .next (ended s
      (pumpRsi (gateFail (u.raise .rsiTimeout d (packBits [(rail, 0, 4), (r.code, 4, 4)])) d n r.code) d))) ∧
  (∀ (s u : State) (d rail : Nat) (r : Rsi), takeRsi s d rail = some (r, u) → r.dom = none →
    exec (.rsiTimeout d rail) s = .next (ended s
      (pumpRsi ((((u.raise .rsiTimeout d (packBits [(rail, 0, 4), (r.code, 4, 4)])).modDie d
        (fun x => { x with rsi := x.rsi.filter (fun y => y.dom.isSome) })).setB (rPlevel d) 12 true).setB (rPlevel d) 11 false) d))) ∧
  (∀ (s : State) (n : Nat), n ≤ 22 → domOn s 8 n = true → s.fb (rPd 8 n) 3 = true → s.fb (rPd 8 n) 5 = false → domIdle s 8 n = true →
    exec (.domainIdle 8 n) s = .next (ended s (setPd s 8 n (if s.fb (rPd 8 n) 4 then 3 else 2)))) ∧
  (∀ (s : State) (d n st : Nat), st < 5 → ((d < 8 ∧ n ≤ 45) ∨ (d = 8 ∧ n ≤ 22)) → (∀ r, r < 8 → ringTakes s r 2 none = false) → pdState (setPd s d n st) d n = st) ∧
  (∀ (s : State) (d n : Nat), d < 8 → n ≤ 45 → domOn s d n = true → s.fb (rPd d n) 3 = true → s.fb (rPd d n) 5 = false →
    domIdle s d n = true →
    exec (.domainIdle d n) s = .next (ended s
      (askGate (setPd (setFormer (if n = 41 ∧ s.fb (rPd d n) 4 = true then sliceFlush s d else s) d n 0) d n 1) d n
        (if s.fb (rPd d n) 4 then gateOff else gateRetention)))) ∧
  (∀ (s : State) (rail mv : Nat), rail < 8 →
    exec (.ivrFault 8 rail mv) s = .next (ended s (s.raise .ivrFault 0 (packBits [(8, 0, 4), (rail, 4, 3), (mv, 7, 10)])))) ∧
  (∀ (s : State) (d rail mv : Nat), d < 8 → rail < 8 → (∀ r ∈ (s.die d).rsi, r.rail ≠ rail) →
    exec (.ivrFault d rail mv) s = .next (ended s (s.raise .ivrFault 0 (packBits [(d, 0, 4), (rail, 4, 3), (mv, 7, 10)]))))


/-- P-levels, the package power cap, energy, temperatures and failing cores. R384-R390, R17: a frequency change takes effect; input power above the
limit steps the package cap down by one level, reported at the first, and 10 ms below 95 % of it steps it up; energies add to the counters of core
slots, die and package and change nothing else; sensor readings are kept, one at 105 °C caps at P5 and is reported, one at 112 °C trips; the
thermal cap steps up at the hot limit and down below it less the hysteresis; a failing core without a spare, and one whose reset timed out, is
reported and goes offline. Which readings come is stated by the command (log 3). -/
def Obligations.PowerLevelsAndEnergy : Prop :=
  -- a frequency change takes effect, and the die goes on toward its effective level
  (∀ (s : State) (d e : Nat), (s.die d).freqTo = some e →
    let u := (s.modDie d (fun x => { x with clk := e, freqTo := none })).setF (rPlevel d) 8 3 e
    exec (.frequencyChangeDone d) s = .next (ended s
      (levelStep (if s.f (rPlevel d) 8 3 = e then u else glintPower u 2 d 1 0 (s.f (rPlevel d) 8 3) e) d))) ∧
  -- the power cap steps down by one level above the limit, and up by one after 10 ms in a row below 95 % of it
  (∀ (s : State) (watts : Nat), s.f powerBase 0 12 < watts →
    let u : State := { s.setF rPwrStatus 16 16 watts with
      boot := { s.boot with lowMs := if watts * 100 < s.f powerBase 0 12 * 95 then (if s.boot.lowMs + 1 = 10 then 0 else s.boot.lowMs + 1) else 0 } }
    exec (.powerCapCheck watts) s = .next (ended s (levelAll
      ((if s.f rPwrStatus 32 3 = 0 then u.raise .powerCap 0 (packBits [(watts, 0, 16), (s.f powerBase 0 12, 16, 12)]) else u).setF rPwrStatus 32 3
        (min 5 (s.f rPwrStatus 32 3 + 1)))))) ∧
  (∀ (s : State) (watts : Nat), watts ≤ s.f powerBase 0 12 → watts * 100 < s.f powerBase 0 12 * 95 → s.boot.lowMs = 9 →
    exec (.powerCapCheck watts) s = .next (ended s (levelAll
      (({ s.setF rPwrStatus 16 16 watts with boot := { s.boot with lowMs := 0 } } : State).setF rPwrStatus 32 3 (s.f rPwrStatus 32 3 - 1))))) ∧
  (∀ (s : State) (watts : Nat), watts ≤ s.f powerBase 0 12 → (watts * 100 < s.f powerBase 0 12 * 95 → s.boot.lowMs ≠ 9) →
    exec (.powerCapCheck watts) s = .next (ended s { s.setF rPwrStatus 16 16 watts with
      boot := { s.boot with lowMs := if watts * 100 < s.f powerBase 0 12 * 95 then s.boot.lowMs + 1 else 0 } })) ∧
  -- energies add to the counters of the core slots, the die and the package, and nothing else changes
  (∀ (s : State) (d other pkg : Nat) (nj : List Nat), d < 8 →
    ∃ t, exec (.energyUpdate d nj other pkg) s = .next t ∧
      (∀ n, n < 33 → t.rd (dieBase d + 0x2400 + 8 * n) = s.rd (dieBase d + 0x2400 + 8 * n) + BitVec.ofNat 64 (nth 0 nj n)) ∧
      t.rd (dieBase d + 0x2510) = s.rd (dieBase d + 0x2510) + BitVec.ofNat 64 (sumN (nj.take 33) + other) ∧
      t.rd (powerBase + 0x10) = s.rd (powerBase + 0x10) + BitVec.ofNat 64 pkg ∧
      SameRegs ((upto 33).map (fun n => dieBase d + 0x2400 + 8 * n) ++ [dieBase d + 0x2510, powerBase + 0x10]) s t ∧ SameMem s t ∧ SameCores [] s t) ∧
  -- sensor readings are kept; one that reaches 105 °C caps at P5 and is reported, and one at 112 °C trips the package
  (∀ (s : State) (d : Nat) (readings : List Int), d < 8 → (∀ x ∈ readings, x < 105) →
    exec (.thermalSample d readings) s = .next (ended s
      (s.wr (dieBase d + 0x2008) (BitVec.ofNat 64 (sumN ((upto 8).map (fun i => tempByte (nth 0 (readings.take 8) i) * 256 ^ i))))))) ∧
  (∀ (s : State) (readings : List Int), (∀ x ∈ readings, x < 105) →
    exec (.thermalSample 8 readings) s = .next (ended s { s with boot := { s.boot with hubTemps := readings.take 4 } })) ∧
  (∀ (s : State) (d i : Nat) (readings : List Int), d ≤ 8 → i < (if d = 8 then 4 else 8) → i < readings.length → 105 ≤ nth 0 readings i →
    ∃ t, exec (.thermalSample d readings) s = .next t ∧ thermCap t d = 5 ∧
      (nth 0 (temps s d) i < 105 → ∃ r ∈ t.raises, r.cls = (FaultSrc.thermalCrit).at.1 ∧ r.idx = (FaultSrc.thermalCrit).at.2 ∧
        r.synd = thermSynd d i (nth 0 readings i) % 2 ^ 64 ∧ r.ev = s.evNo) ∧
      ((∃ x ∈ readings, 112 ≤ x) → t.boot.tripped = true ∧ (s.boot.tripped = false → t.outbox.getLast? = some .thermtrip))) ∧
  -- the thermal cap
  (∀ (s : State) (d i : Nat), d ≤ 8 →
    (upto (temps s d).length).find? (fun i => ((s.f (powerBase + 0x18) 0 8 : Nat) : Int) ≤ nth 0 (temps s d) i) = some i →
    exec (.thermalCapStep d true) s = .next (ended s (setTherm
      (if thermCap s d = 0 then s.raise .thermalThrottle 0 (thermSynd d i (nth 0 (temps s d) i)) else s) d (min 5 (thermCap s d + 1))))) ∧
  (∀ (s : State) (d : Nat), d ≤ 8 →
    (∀ x ∈ temps s d, x < ((s.f (powerBase + 0x18) 0 8 : Nat) : Int) - ((s.f (powerBase + 0x18) 8 4 : Nat) : Int)) →
    exec (.thermalCapStep d false) s = .next (ended s (setTherm s d (thermCap s d - 1)))) ∧
  (∀ (s : State) (d v : Nat), d ≤ 8 → v ≤ 5 → thermCap (setTherm s d v) d = v) ∧
  -- a core that fails with no spare left is reported and goes offline
  (∀ (s : State) (sl : Nat), isSlot sl = true → spareAvail s (sl / 64) = false →
    ∃ t, exec (.coreFailure sl) s = .next t ∧ sl ∈ (t.die (sl / 64)).failed ∧
      (∃ r ∈ t.raises, r.cls = (FaultSrc.coreFailed).at.1 ∧ r.inst = sl / 64 ∧ r.idx = (FaultSrc.coreFailed).at.2 ∧ r.ev = s.evNo) ∧
      (∀ n, n < 256 → logicalOf s sl = some n → offline t n = true ∧ (offline s n = false → coreReady t n = false)) ∧
      SameMem s t ∧ SameCores [] s t) ∧
  (∀ (s : State) (sl : Nat), isSlot sl = true → (s.core sl).resets ≠ [] →
    ∃ t, exec (.coreResetTimeout sl) s = .next t ∧ (t.core sl).resetting = true ∧ sl ∈ (t.die (sl / 64)).failed ∧
      (∃ r ∈ t.raises, r.cls = (FaultSrc.coreFailed).at.1 ∧ r.inst = sl / 64 ∧ r.idx = (FaultSrc.coreFailed).at.2 ∧ r.ev = s.evNo) ∧
      (spareAvail s (sl / 64) = false → ∀ n, n < 256 → logicalOf s sl = some n → offline t n = true) ∧ SameMem s t ∧ SameCores [sl] s t)


/-- Wenlyn flits: transmission, bad CRC, NULL and data flits received, timers. R285, R287, R288, R293, R294, R303: the flit that arbitration picks
leaves with its header, a new one with the next SEQ, entered in the replay buffer and charged one credit, a resent one with its SEQ and RETX, and
a NULL flit when only acknowledgements are owed; a bad CRC is dropped and counted; a good flit is counted and gives its acknowledgement and
credit, a DATA flit then goes to reassembly, and one of a bad type is counted as malformed; a duplicate is counted, and one ahead of the missing
flit is held; the acknowledge timer marks the oldest flit and the following 32; an owed acknowledgement and a keepalive go out in NULL flits. -/
def Obligations.WenlynFlits : Prop :=
  -- the flit that arbitration picks leaves: a new one, a resent one, or a NULL flit
  (∀ (s : State) (p v : Nat) (f : WFlit) (rest : List WFlit), linkLive s p = true → txPick s p = .fresh v →
    look [] (s.wport p).txq v = f :: rest → (s.wport p).inj = 0 →
    ∃ t h tr, exec (.wenlynTransmit p) s = .next t ∧ t.outbox = s.outbox ++ [.wenFlit p (flitBytes h f.payload tr false)] ∧
      h.seq = (s.wport p).nextSeq ∧ h.typ = 0 ∧ h.retx = false ∧ h.vc = f.vc ∧ h.som = f.som ∧ h.eom = f.eom ∧ h.len8 = f.len8 ∧ h.ttl = f.ttl ∧
      h.src = f.src ∧ h.dst = f.dst ∧ h.tag = f.tag ∧ h.reqId = f.reqId ∧
      look [] (t.wport p).txq v = rest ∧ (t.wport p).nextSeq = ((s.wport p).nextSeq + 1) % 4096 ∧
      (t.wport p).replay = (s.wport p).replay ++ [⟨(s.wport p).nextSeq, f, 0, false, none⟩] ∧
      nth 0 (t.wport p).cred v = nth 0 (s.wport p).cred v - 1 ∧ t.rd (wenBase p + 0x80) = s.rd (wenBase p + 0x80) + 1#64 ∧ SameMem s t ∧
      SameCores [] s t) ∧
  (∀ (s : State) (p : Nat) (e : WEntry), linkLive s p = true → txPick s p = .resend e → (s.wport p).inj = 0 →
    ∃ t h tr, exec (.wenlynTransmit p) s = .next t ∧ t.outbox = s.outbox ++ [.wenFlit p (flitBytes h e.fl.payload tr false)] ∧
      h.seq = e.seq ∧ h.typ = 0 ∧ h.retx = true ∧ h.vc = e.fl.vc ∧ h.dst = e.fl.dst ∧ h.tag = e.fl.tag ∧ h.reqId = e.fl.reqId ∧
      (t.wport p).replay = (s.wport p).replay.map (fun y => if y.seq = e.seq then { y with due := false, resends := y.resends + 1 } else y) ∧
      (t.wport p).cred = (s.wport p).cred ∧ t.rd (wenBase p + 0x90) = s.rd (wenBase p + 0x90) + 1#64 ∧ SameMem s t ∧ SameCores [] s t) ∧
  (∀ (s : State) (p : Nat), linkLive s p = true → txPick s p = .null → exec (.wenlynTransmit p) s = .next (ended s (sendFlit s p none))) ∧
  (∀ (s : State) (p : Nat), linkLive s p = true → txPick s p = .none → exec (.wenlynTransmit p) s = .next (ended s s)) ∧
  -- a flit with a bad CRC is dropped and counted
  (∀ (s : State) (p : Nat) (flit : List Byte) (sp : Option NetMsg), linkLive s p = true → flit.length = 256 → flitCrcOk flit = false →
    exec (.wenlynFlitReceive p flit sp) s =
      .next (ended s ((s.modWport p (fun x => { x with crcT := s.now :: x.crcT })).addCtr (wenBase p + 0x98) 1))) ∧
  -- a good one is counted and gives its acknowledgement and credit; a DATA flit then goes to reassembly
  (∀ (s : State) (p : Nat) (flit : List Byte) (sp : Option NetMsg), linkLive s p = true → flit.length = 256 → flitCrcOk flit = true →
    let lo := leNat (flit.take 8)
    let hi := leNat ((flit.drop 8).take 8)
    let h := hdrOf lo hi
    let u := s.addCtr (wenBase p + 0x88) 1
    let v := if h.ackValid then u.modWport p (fun x => applyAck x s.now (ackTimerNs s p) h.ackSeq (leNat (flit.drop 252))) else u
    let w := if h.credValid then v.modWport p (fun x => applyCred x h.credVc h.credRet) else v
    (h.typ = 1 → h.len8 = 0 → h.resv = 0 → exec (.wenlynFlitReceive p flit sp) s = .next (ended s w)) ∧
    (h.typ = 0 → exec (.wenlynFlitReceive p flit sp) s = .next (ended s (dataFlit w p h lo hi (headRule h) ((flit.drop 16).take 232) sp))) ∧
    (h.typ ≠ 0 → headRule h ≠ 0 → ∃ t, exec (.wenlynFlitReceive p flit sp) s = .next t ∧
      t.rd (wenBase p + 0xB0) = s.rd (wenBase p + 0xB0) + 1#64 ∧ (t.wport p).held = (s.wport p).held ∧ (t.wport p).rxNext = (s.wport p).rxNext ∧
      (∃ r ∈ t.raises, r.cls = 7 ∧ r.inst = p ∧ r.idx = (FaultSrc.malformed).at.2 ∧ r.ev = s.evNo) ∧ SameMem s t ∧ SameCores [] s t)) ∧
  (∀ (s : State) (p lo hi rule : Nat) (h : WHdr) (pl : List Byte) (sp : Option NetMsg),
    (2047 ≤ subMod 12 h.seq (s.wport p).rxNext ∨ (s.wport p).held.any (fun y => y.seq = h.seq) = true →
      dataFlit s p h lo hi rule pl sp = (s.setWport p { s.wport p with owe := true, anyRx := true }).addCtr (wenBase p + 0xA0) 1) ∧
    (1 ≤ subMod 12 h.seq (s.wport p).rxNext → subMod 12 h.seq (s.wport p).rxNext < 2047 → h.seq < 4096 → (s.wport p).rxNext < 4096 →
      (∀ y ∈ (s.wport p).held, y.seq ≠ h.seq ∧ y.seq ≠ (s.wport p).rxNext) →
      ((dataFlit s p h lo hi rule pl sp).wport p).held.map (fun y => y.seq) = (s.wport p).held.map (fun y => y.seq) ++ [h.seq] ∧
      ((dataFlit s p h lo hi rule pl sp).wport p).rxNext = (s.wport p).rxNext ∧ ((dataFlit s p h lo hi rule pl sp).wport p).owe = true)) ∧
  -- timers
  (∀ (s : State) (p : Nat) (e : WEntry) (rest : List WEntry), linkLive s p = true → (s.wport p).replay = e :: rest →
    exec (.wenlynAckTimeout p) s = .next (ended s (s.modWport p (fun x =>
      { x with replay := (e :: rest).map (fun y => if subMod 12 y.seq e.seq ≤ 32 then { y with due := true } else y) })))) ∧
  (∀ (s : State) (p : Nat), linkLive s p = true → (s.wport p).owe = true → (s.wport p).inj = 0 →
    ∃ t fl, exec (.ackCoalesceTimeout p) s = .next t ∧ t.outbox = s.outbox ++ [.wenFlit p fl] ∧ (t.wport p).owe = false ∧
      t.rd (wenBase p + 0x80) = s.rd (wenBase p + 0x80) + 1#64 ∧ SameRegs [wenBase p + 0x80] s t ∧ SameMem s t) ∧
  (∀ (s : State) (p : Nat), linkLive s p = true →
    ∃ t fl, exec (.keepaliveTimeout p) s = .next t ∧ t.outbox = s.outbox ++ [.wenFlit p fl] ∧
      t.rd (wenBase p + 0x80) = s.rd (wenBase p + 0x80) + 1#64 ∧ SameRegs [wenBase p + 0x80] s t ∧ SameMem s t)


/-- A Wenlyn port that was UP goes DOWN with the cause of Table 11.7; spared lanes and partner faults. R295-R297, R303-R305: the replay limit, a dead
link, the CRC and malformed limits, starved credit, a partner's close, two lanes out of lock and a lane without a spare each take the port down
with their cause; a port that goes down from UP keeps the cause, resets its transport, raises LINK_DOWN, tells the partner but after its own
close, and then fails over or ends its requests one by one; a port in another state is left alone; a lane failure with the spare free tells the
partner, the swap moves the lane, and one that promised the spare to another lane ends the link; a fault notice is reported, and stops the work
with that peer. -/
def Obligations.WenlynLinkLoss : Prop :=
  -- each cause of Table 11.7
  (∀ (s : State) (p : Nat), (∃ e ∈ (s.wport p).replay, portF s p 0x28 48 8 ≤ e.resends) →
    exec (.wenlynReplayLimit p) s = .next (ended s (linkDown s p 3))) ∧
  (∀ (s : State) (p : Nat), p < 18 → exec (.linkDead p) s = .next (ended s (linkDown s p 2)) ∧
    exec (.peerClose p) s = .next (ended s (linkDown s p 8))) ∧
  (∀ (s : State) (p : Nat),
    let n (l : List Nat) := (l.filter (fun t => s.now - t ≤ errWindowNs s p)).length
    (portF s p 0x28 0 16 < n (s.wport p).crcT → exec (.wenlynErrorLimit p) s = .next (ended s (linkDown s p 4))) ∧
    (n (s.wport p).crcT ≤ portF s p 0x28 0 16 → portF s p 0x28 16 16 < n (s.wport p).malT →
      exec (.wenlynErrorLimit p) s = .next (ended s (linkDown s p 5)))) ∧
  (∀ (s : State) (p vc : Nat), portUp s p = true → look [] (s.wport p).txq vc ≠ [] → nth 0 (s.wport p).cred vc = 0 →
    let u := s.raise .creditStarved p (packBits [(vc, 0, 3)])
    exec (.creditStarved p vc) s = .next (ended s (if s.fb (wenBase p) 4 then linkDown u p 7 else u))) ∧
  (∀ (s : State) (p a b : Nat), linkLive s p = true → a < 9 → b < 9 → a ≠ b → s.fb (wenBase p + 0x10) a = true →
    s.fb (wenBase p + 0x10) b = true →
    exec (.lossOfLock p [a, b]) s =
      .next (ended s (linkDown ((s.setB (wenBase p + 0x10) a false).setB (wenBase p + 0x10) b false) p 1))) ∧
  -- how a port goes down: its cause, its transport, LINK_DOWN, the close notice; then the failover, or the end of its requests
  (∀ (s : State) (p c : Nat), p < 18 → c < 16 → portState s p = 5 →
    ∃ u, LinkLost s u p c ∧ (c ≠ 8 → .vc0 p 2 [c] ∈ u.outbox) ∧
      linkDown s p c = if u.fb (wenBase p) 13 && portCarries u (portF u p 0 8 5) && !awlPort s p then failOver u p (portF u p 0 8 5)
        else (outsOn s p).foldl (fun v o => afterDown v p o) u) ∧
  (∀ (s : State) (p c : Nat), portState s p ≠ 5 → linkDown s p c = s) ∧
  -- lanes
  (∀ (s : State) (p lane : Nat), linkLive s p = true → lane < 8 → laneInUse s p lane = true → spareFree s p = true → (s.wport p).swap = none →
    exec (.wenlynLaneFail p lane) s = .next (ended s
      ((sendVc0 (s.setB (wenBase p + 0x10) (9 + lane) true) p 3 [lane]).modWport p (fun x => { x with swap := some lane }))) ∧
    (s.fb (wenBase p + 0x10) lane = true →
      exec (.lossOfLock p [lane]) s = .next (ended s (laneFails (s.setB (wenBase p + 0x10) lane false) p lane)))) ∧
  (∀ (s : State) (p lane : Nat), linkLive s p = true → lane < 9 → laneInUse s p lane = true → (s.wport p).swap ≠ some lane →
    (lane = 8 ∨ spareFree s p = false ∨ (s.wport p).swap ≠ none) →
    exec (.wenlynLaneFail p lane) s = .next (ended s (linkDown (s.setB (wenBase p + 0x10) (9 + lane) true) p 6))) ∧
  (∀ (s : State) (p lane : Nat), linkLive s p = true → lane < 8 → spareFree s p = true →
    let u := (((s.setF (wenBase p + 0x10) 18 3 lane).setF (wenBase p + 0x10) 21 1 1).modWport p (fun x => { x with swap := none })).raise
      .wenLaneSpared p (packBits [(lane, 0, 4), (lane, 4, 3)])
    exec (.laneSwap p lane) s = .next (ended s (if (s.wport p).swap.any (fun l => l ≠ lane) then linkDown u p 6 else u))) ∧
  -- a partner's fault notice
  (∀ (s : State) (p pkg : Nat), portUp s p = true → pkg ∉ peers s →
    exec (.partnerFault p pkg) s = .next (ended s (s.raise .partnerFault p (packBits [(pkg, 0, 12)])))) ∧
  (∀ (s : State) (p pkg : Nat), portUp s p = true → pkg ∈ peers s →
    exec (.partnerFault p pkg) s = .next (ended s (peerLost (s.raise .partnerFault p (packBits [(pkg, 0, 12)])))))


/-- Wenlyn training, its timeout and retry, retraining, and HELLO. R287, R290, R291, Table 11.11: training on at least 8 lanes takes the port to INIT
with 16 credits of VC0 and a HELLO queued that carries its values (training on 8 of 9 lanes is log 50, the first credit log 72), or to the pattern
in the PRBS mode of Awl; a timeout raises TRAIN_FAIL with the lanes that locked and pauses, and the retry ends the pause; a DOWN port trains again
from a reset transport; an acceptable HELLO takes it to AUTH, where this end asks first, or to UP, with the partner's identity and credit, and any
other back to training. -/
def Obligations.WenlynBringUp : Prop :=
  (∀ (s : State) (p lanes : Nat), p < 18 → portState s p = 2 → (s.wport p).paused = false → 8 ≤ lanesIn lanes → lanes < 512 →
    awlIn s p 1 = false →
    ∃ t, exec (.trainingDone p lanes) s = .next t ∧ portState t p = 3 ∧ t.f (wenBase p + 0x10) 0 9 = lanes ∧
      (t.wport p).cred = [16, 0, 0, 0, 0, 0, 0, 0] ∧ (look [] (t.wport p).txq 0).length = 1 ∧ .vc0 p 0 (helloVals t p) ∈ t.outbox) ∧
  (∀ (s : State) (p lanes : Nat), p < 18 → portState s p = 2 → (s.wport p).paused = false → 8 ≤ lanesIn lanes → lanes < 512 →
    awlIn s p 1 = true → ∃ t, exec (.trainingDone p lanes) s = .next t ∧ portState t p = 3 ∧ .prbs p ∈ t.outbox) ∧
  (∀ (s : State) (p lanes : Nat), p < 18 → portState s p = 2 → (s.wport p).paused = false → lanes < 512 →
    ∃ t, exec (.trainTimeout p lanes) s = .next t ∧ (t.wport p).paused = true ∧ t.f (wenBase p + 0x10) 0 9 = lanes ∧
      (∃ r ∈ t.raises, r.cls = 7 ∧ r.inst = p ∧ r.idx = (FaultSrc.trainFail).at.2 ∧ r.synd = lanes ∧ r.ev = s.evNo) ∧
      SameRegs [wenBase p + 0x10] s t ∧ SameMem s t ∧ SameCores [] s t) ∧
  (∀ (s : State) (p : Nat), p < 18 → portState s p = 2 →
    exec (.trainRetry p) s = .next (ended s (s.modWport p (fun x => { x with paused := false })))) ∧
  (∀ (s : State) (p : Nat), p < 18 → portState s p = 1 → pdState s 8 (5 + p) = 0 →
    ∃ t, exec (.downRetrain p) s = .next t ∧ portState t p = 2 ∧ t.wport p = WPort.reset ∧ t.rd (wenBase p + 0x10) = 0#64) ∧
  (∀ (s : State) (p pkg port level idem : Nat) (credits lanes : List Nat) (authReq : Bool), linkLive s p = true → portState s p = 3 →
    helloOk s pkg port level credits idem lanes = true →
    ∃ t, exec (.hello p pkg port level credits idem authReq lanes) s = .next t ∧
      portState t p = (if (s.fb (wenBase p) 2 && !awlIn s p 3) || authReq then 4 else 5) ∧
      t.f (wenBase p + 0x48) 0 12 = pkg ∧ t.f (wenBase p + 0x48) 12 5 = port ∧ t.f (wenBase p + 0x48) 17 8 = level ∧
      (t.wport p).peerIdem = idem ∧ ((s.fb (wenBase p) 2 && !awlIn s p 3) || authReq → (t.wport p).spdmReq = some 0x84) ∧
      nth 0 (t.wport p).cred 0 = nth 0 (s.wport p).cred 0 + nth 0 credits 0 - 16 ∧
      (∀ v, 1 ≤ v → v < 8 → nth 0 (t.wport p).cred v = nth 0 (s.wport p).cred v + nth 0 credits v)) ∧
  (∀ (s : State) (p pkg port level idem : Nat) (credits lanes : List Nat) (authReq : Bool), linkLive s p = true → portState s p = 3 →
    helloOk s pkg port level credits idem lanes = false →
    exec (.hello p pkg port level credits idem authReq lanes) s = .next (ended s (startTraining s p)))


/-- SPDM requests are answered and asked in turn, and a challenge decides between UP and AUTH_FAILED. R300: outside INIT each of the seven SPDM
requests gets an answer with its stated bytes (codes and layouts are PRESUMED, log 19, the rest a Config value), which changes no register, memory
or core; in AUTH this end asks each request after a good answer to the one before, and a wrong one ends in AUTH_FAIL; CHALLENGE_AUTH with the root
digest and a good signature takes the port UP and asks for the measurements, which are kept; any other, or the timeout, ends in AUTH_FAIL. -/
def Obligations.WenlynAuthentication : Prop :=
  -- the responder: each request is answered
  (∀ (s : State) (p : Nat), linkLive s p = true → portState s p ≠ 3 →
    (∃ t, exec (.spdmGetVersion p none) s = .next t ∧ SpdmAnswered s t p 0x10 0x04 [0#8, 0#8, 0#8, 1#8, 0x00#8, 0x13#8]) ∧
    (∃ t, exec (.spdmGetCapabilities p none) s = .next t ∧ SpdmAnswered s t p 0x13 0x61 (leBytes 2 0 ++ leBytes 4 0 ++ leBytes 4 0x16)) ∧
    (∃ t, exec (.spdmNegotiateAlgorithms p none) s = .next t ∧
      SpdmAnswered s t p 0x13 0x63 (leBytes 2 0 ++ leBytes 2 36 ++ leBytes 2 1 ++ leBytes 4 0x4 ++ leBytes 4 0x80 ++ leBytes 4 0x2)) ∧
    (∃ t, exec (.spdmGetDigests p none) s = .next t ∧ SpdmAnswered s t p 0x13 0x01 (leBytes 2 0x0100)) ∧
    (∃ t, exec (.spdmGetCertificate p none) s = .next t ∧ SpdmAnswered s t p 0x13 0x02 (leBytes 2 0)) ∧
    (∃ t, exec (.spdmChallenge p none) s = .next t ∧ SpdmAnswered s t p 0x13 0x03 (leBytes 2 0)) ∧
    (∃ t, exec (.spdmGetMeasurements p none) s = .next t ∧ SpdmAnswered s t p 0x13 0x60 (leBytes 2 0))) ∧
  -- the requester: each good answer is followed by the next request, and a bad one ends in AUTH_FAIL
  (∀ (s : State) (p : Nat) (m : List Byte), linkLive s p = true → portState s p = 4 →
    ((s.wport p).spdmReq = some 0x84 → msgNat m 1 1 = 0x04 → (∃ k, k < msgNat m 5 1 ∧ msgNat m (7 + 2 * k) 1 = 0x13) →
      ∃ t, exec (.spdmGetVersion p (some m)) s = .next t ∧ SpdmAsked s t p 0xE1) ∧
    ((s.wport p).spdmReq = some 0xE1 → msgNat m 1 1 = 0x61 → bitN (msgNat m 8 4) 1 = true → bitN (msgNat m 8 4) 2 = true →
      bitsN (msgNat m 8 4) 3 2 = 2 → ∃ t, exec (.spdmGetCapabilities p (some m)) s = .next t ∧ SpdmAsked s t p 0xE3) ∧
    ((s.wport p).spdmReq = some 0xE3 → msgNat m 1 1 = 0x63 → msgNat m 12 4 = 0x80 → msgNat m 16 4 = 0x2 →
      ∃ t, exec (.spdmNegotiateAlgorithms p (some m)) s = .next t ∧ SpdmAsked s t p 0x81) ∧
    ((s.wport p).spdmReq = some 0x81 → msgNat m 1 1 = 0x01 → bitN (msgNat m 3 1) 0 = true →
      ∃ t, exec (.spdmGetDigests p (some m)) s = .next t ∧ SpdmAsked s t p 0x82) ∧
    ((s.wport p).spdmReq = some 0x82 → msgNat m 1 1 = 0x02 →
      ∃ t, exec (.spdmGetCertificate p (some m)) s = .next t ∧ SpdmAsked s t p (if msgNat m 6 2 = 0 then 0x83 else 0x82)) ∧
    ((s.wport p).spdmReq = some 0x84 → msgNat m 1 1 ≠ 0x04 → ∃ t, exec (.spdmGetVersion p (some m)) s = .next t ∧ portState t p = 6) ∧
    ((s.wport p).spdmReq = some 0xE1 → msgNat m 1 1 ≠ 0x61 → ∃ t, exec (.spdmGetCapabilities p (some m)) s = .next t ∧ portState t p = 6) ∧
    ((s.wport p).spdmReq = some 0xE3 → msgNat m 1 1 ≠ 0x63 →
      ∃ t, exec (.spdmNegotiateAlgorithms p (some m)) s = .next t ∧ portState t p = 6) ∧
    ((s.wport p).spdmReq = some 0x81 → msgNat m 1 1 ≠ 0x01 → ∃ t, exec (.spdmGetDigests p (some m)) s = .next t ∧ portState t p = 6) ∧
    ((s.wport p).spdmReq = some 0x82 → msgNat m 1 1 ≠ 0x02 → ∃ t, exec (.spdmGetCertificate p (some m)) s = .next t ∧ portState t p = 6)) ∧
  -- CHALLENGE_AUTH decides
  (∀ (s : State) (p : Nat), linkLive s p = true → portState s p = 4 → (s.wport p).spdmReq = some 0x83 →
    ∃ t, exec (.spdmChallenge p (some (spdmRoot s, true))) s = .next t ∧ portState t p = 5 ∧ (t.wport p).spdmReq = some 0xE0) ∧
  (∀ (s : State) (p root : Nat) (sig : Bool), linkLive s p = true → portState s p = 4 → (s.wport p).spdmReq = some 0x83 →
    (root ≠ spdmRoot s ∨ sig = false) → ∃ t, exec (.spdmChallenge p (some (root, sig))) s = .next t ∧ portState t p = 6) ∧
  (∀ (s : State) (p : Nat) (m : List Byte), linkLive s p = true → (s.wport p).spdmReq = some 0xE0 → msgNat m 1 1 = 0x60 →
    ∃ t, exec (.spdmGetMeasurements p (some m)) s = .next t ∧ look [] t.wen.meas p = m ∧ (t.wport p).spdmReq = none ∧ SameRegs [] s t ∧
      SameMem s t ∧ SameCores [] s t) ∧
  (∀ (s : State) (p : Nat), p < 18 → portState s p = 4 → ∃ t, exec (.authTimeout p) s = .next t ∧ portState t p = 6)


/-- READ, WRITE, ATOMIC and RESP requests at the hub, timeouts and idempotency entries. R297-R301, R307: a permitted READ returns the bytes, or
POISONED; a permitted WRITE stores them and says whether it was poisoned; a permitted aligned ATOMIC, CAS included, does its operation and returns
the old value; a request no window permits is answered DENIED, one of a wrong length or alignment MALFORMED, one of another code UNSUPPORTED; a
response that matches nothing is counted and reported, one that matches ends its request with the effect of its origin, DENIED with its status; a
request without a response fails with REMOTE_TIMEOUT; an expired entry of the idempotency table is dropped. Windows are R301, and log 40 and 77
apply. -/
def Obligations.WenlynHubRequests : Prop :=
  (∀ (s u : State) (i p : Nat) (r : WReq), inTake s i 1 = some (p, r, u) → remoteWin u r.src 1 (r.arg % 2 ^ 48) (readLen r) = true →
    (poisoned u (r.arg % 2 ^ 48) (readLen r) = false → exec (.read i) s = .next (ended s
      (answerOn (hbmTouch u hintNormal (r.arg % 2 ^ 48) (readLen r)) p r rcOk 0 (u.bytes (r.arg % 2 ^ 48) (readLen r))))) ∧
    (poisoned u (r.arg % 2 ^ 48) (readLen r) = true → exec (.read i) s = .next (ended s
      (answerOn (hbmTouch u hintNormal (r.arg % 2 ^ 48) (readLen r)) p r rcPoisoned 0 [])))) ∧
  (∀ (s u : State) (i p : Nat) (r : WReq), inTake s i 2 = some (p, r, u) →
    (0 < r.data.length → r.data.length ≤ 4096 → remoteWin u r.src 2 (r.arg % 2 ^ 48) r.data.length = true →
      exec (.write i) s = .next (ended s (answerOn (hbmWrite u hintNormal (r.arg % 2 ^ 48) r.data) p r
        (if (hbmWrite u hintNormal (r.arg % 2 ^ 48) r.data).memBad then rcPoisoned else rcOk) 0 []))) ∧
    (0 < r.data.length → r.data.length ≤ 4096 → remoteWin u r.src 2 (r.arg % 2 ^ 48) r.data.length = false →
      exec (.write i) s = .next (ended s (answerOn (admitDrop u p r) p r rcDenied 0 []))) ∧
    ((r.data.length = 0 ∨ 4096 < r.data.length) → exec (.write i) s = .next (ended s (answerOn u p r rcMalformed 0 [])))) ∧
  (∀ (s u : State) (i p : Nat) (r : WReq), inTake s i 3 = some (p, r, u) →
    let a := r.arg % 2 ^ 48
    let code := r.flags % 16
    let w := atWidth code
    let need := if code = 8 then 16 else if code = 7 then 8 else 4
    let x := if 7 ≤ code then leNat ((r.data.drop w).take w) else leNat (r.data.take w)
    let cmp := if 7 ≤ code then leNat (r.data.take w) else 0
    (code ≤ 8 → r.data.length = need → a % w = 0 → remoteWin u r.src 3 a w = true → poisoned u a w = false →
      exec (.atomic i) s = .next (ended s (answerOn (u.atomicAt hintNormal code a x cmp).1 p r rcOk 0 (leBytes w (u.num a w))))) ∧
    (code ≤ 8 → r.data.length = need → a % w = 0 → remoteWin u r.src 3 a w = true → poisoned u a w = true →
      exec (.atomic i) s = .next (ended s (answerOn u p r rcPoisoned 0 []))) ∧
    (code ≤ 8 → r.data.length = need → a % w = 0 → remoteWin u r.src 3 a w = false →
      exec (.atomic i) s = .next (ended s (answerOn (admitDrop u p r) p r rcDenied 0 []))) ∧
    (code ≤ 8 → (r.data.length ≠ need ∨ a % w ≠ 0) → exec (.atomic i) s = .next (ended s (answerOn u p r rcMalformed 0 []))) ∧
    (8 < code → exec (.atomic i) s = .next (ended s (answerOn u p r rcUnsupported 0 [])))) ∧
  (∀ (s u : State) (i p : Nat) (r : WReq), inTake s i 1 = some (p, r, u) → remoteWin u r.src 1 (r.arg % 2 ^ 48) (readLen r) = false →
    exec (.read i) s = .next (ended s (answerOn (admitDrop u p r) p r rcDenied 0 []))) ∧
  (∀ (s u : State) (i p : Nat) (r : WReq) (sp : Option NetMsg), inTake s i 0x80 = some (p, r, u) →
    u.wen.outs.find? (fun o => o.req.tag = r.tag && o.req.reqId = r.reqId) = none →
    exec (.resp i sp) s = .next (ended s (awlCheck (u.addCtr (wenBase p + 0xA8) 1) p 10 0
      (packBits [(r.src, 0, 12), (ownPkg s, 12, 12), (r.tag, 24, 14), (r.reqId, 38, 26)])))) ∧
  (∀ (s u : State) (i p : Nat) (r : WReq) (sp : Option NetMsg) (o : WOut), inTake s i 0x80 = some (p, r, u) →
    u.wen.outs.find? (fun o => o.req.tag = r.tag && o.req.reqId = r.reqId) = some o →
    let v : State := { u with wen := { u.wen with outs := u.wen.outs.filter (fun y => y ≠ o) } }
    (o.org = .cinch → r.code = 0 → exec (.resp i sp) s = .next (ended s v)) ∧
    (∀ m, o.org = .chan m → r.code ≠ 0 → r.code ≠ rcDenied → exec (.resp i sp) s = .next (ended s (unreachReply v m))) ∧
    (∀ m, o.org = .chan m → r.code = rcDenied →
      exec (.resp i sp) s = .next (ended s (unreachReply (v.emit (.remoteEnd o.req.dst o.req.tag stRemoteDenied)) m))) ∧
    (∀ base copy n, o.org = .shadow base copy n → r.code = 0 → exec (.resp i sp) s = .next (ended s v)) ∧
    (∀ cmd, o.org = .restore cmd → r.code ≠ rcDenied → exec (.resp i sp) s = .next (ended s (restoreGot v cmd r.code r.data)))) ∧
  (∀ (s : State) (tag reqId : Nat) (o : WOut),
    s.wen.outs.find? (fun o => o.req.tag = tag && o.req.reqId = reqId && o.sent) = some o →
    exec (.remoteTimeout tag reqId) s = .next (ended s (failOut s o stRemoteTimeout))) ∧
  (∀ (s : State) (pkg reqId : Nat), (∀ p, p < 18 → (s.wport p).stuck = []) →
    exec (.idemExpire pkg reqId) s = .next (ended s
      { s with wen := { s.wen with idem := s.wen.idem.filter (fun e => !(e.1 = pkg && e.2.1 = reqId)) } }))


/-- Slice reads, writes and atomics on HBM. R312, R314, R317, R319, R320, Table 12.2. A read within one line of HBM returns its bytes, or no data
where the line is poisoned, and changes no byte, no poison and no core; one that meets a corrected error at the line also reports ECC_CORR, one
that meets an uncorrectable error reports ECC_UNCORR, poisons the line and returns no data. A write stores its bytes and no other, leaves no
reservation on the line and no poison where it covers the whole line; one of a part of a poisoned line leaves it poisoned and says so; one into a
retired page is discarded. An aligned atomic stores the result of Table 12.2 and returns the old value, or changes nothing where the line is
poisoned; INT32 ADD wraps, MAX and MIN compare as signed, CAS stores on equality. A request whose domains are not all ON returns nothing yet and
leaves none of them OFF or in retention (R380; that it is served when it is delivered again is log 61). A request of no bytes, across a line or
with a hint above 3, and a misaligned atomic, change nothing (log 18). -/
def Obligations.SliceRequests : Prop :=
  -- a read: the bytes, or nothing from a poisoned line
  (∀ (s : State) (a n hint : Nat) (data : List Byte), a + n ≤ hbmTop → 0 < n → a % 64 + n ≤ 64 → hint ≤ 3 → LineOpen s a →
    ∃ t, exec (.sliceRequest .read a n hint data []) s = .next t ∧
      t.outbox = s.outbox ++ [.memData (poisoned s a n) (if poisoned s a n then [] else s.bytes a n)] ∧
      SameMem s t ∧ SameCores [] s t ∧ t.raises = s.raises ∧ t.poisonL = s.poisonL) ∧
  -- a read that meets an ECC error at its line
  (∀ (s : State) (a n hint : Nat) (data : List Byte) (e : EccEvent), a + n ≤ hbmTop → 0 < n → a % 64 + n ≤ 64 → hint ≤ 3 → LineOpen s a →
    e.addr / 64 = a / 64 → e.space = 0 → e.bits = 1 → poisoned s a n = false →
    ∃ t, exec (.sliceRequest .read a n hint data [e]) s = .next t ∧ t.outbox = s.outbox ++ [.memData false (s.bytes a n)] ∧
      t.raises = (s.raise .eccCorr (dieOfAddr a) (packBits [((dramPlace e.addr).page, 0, 20), ((dramPlace e.addr).pch, 20, 6)])).raises ∧
      t.poisonL = s.poisonL ∧ SameMem s t ∧ SameCores [] s t) ∧
  (∀ (s : State) (a n hint : Nat) (data : List Byte) (e : EccEvent), a + n ≤ hbmTop → 0 < n → a % 64 + n ≤ 64 → hint ≤ 3 → LineOpen s a →
    e.addr / 64 = a / 64 → e.space = 0 → e.bits = 2 →
    ∃ t, exec (.sliceRequest .read a n hint data [e]) s = .next t ∧ t.outbox = s.outbox ++ [.memData true []] ∧
      t.raises = (s.raise .eccUncorr (dieOfAddr a)
        (packBits [((dramPlace e.addr).page, 0, 20), ((dramPlace e.addr).pch, 20, 6), (0, 26, 14)])).raises ∧
      t.poisonL.contains (a / 64) = true ∧ SameMem s t ∧ SameCores [] s t) ∧
  -- a write: its bytes and no other; one of a whole line clears poison, a part of a line leaves it, a retired page takes none
  (∀ (s : State) (a hint : Nat) (data : List Byte), a + data.length ≤ hbmTop → 0 < data.length → a % 64 + data.length ≤ 64 → hint ≤ 3 →
    LineOpen s a → isRetired s (64 * (a / 64)) = false → (s.poisonL.contains (a / 64) = false ∨ data.length = 64) →
    ∃ t, exec (.sliceRequest .write a data.length hint data []) s = .next t ∧ t.bytes a data.length = data ∧ MemBut a data.length s t ∧
      t.poisonL.contains (a / 64) = false ∧ t.outbox = s.outbox ∧ SameCores [] s t ∧ (∀ p ∈ t.lr, p.2 ≠ a / 64)) ∧
  (∀ (s : State) (a hint : Nat) (data : List Byte), a + data.length ≤ hbmTop → 0 < data.length → data.length < 64 →
    a % 64 + data.length ≤ 64 → hint ≤ 3 → LineOpen s a → isRetired s (64 * (a / 64)) = false → s.poisonL.contains (a / 64) = true →
    ∃ t, exec (.sliceRequest .write a data.length hint data []) s = .next t ∧ t.poisonL = s.poisonL ∧ MemBut a data.length s t ∧
      t.outbox = s.outbox ++ [.memData true []] ∧ SameCores [] s t) ∧
  (∀ (s : State) (a hint : Nat) (data : List Byte), a + data.length ≤ hbmTop → 0 < data.length → a % 64 + data.length ≤ 64 → hint ≤ 3 →
    LineOpen s a → isRetired s (64 * (a / 64)) = true →
    ∃ t, exec (.sliceRequest .write a data.length hint data []) s = .next t ∧ SameMem s t ∧
      t.outbox = s.outbox ++ [.memData true []] ∧ SameCores [] s t) ∧
  -- an atomic
  (∀ (s : State) (code a x cmp : Nat), a + atWidth code ≤ hbmTop → code ≤ 10 → a % atWidth code = 0 → LineOpen s a →
    poisoned s a (atWidth code) = false →
    ∃ t, exec (.sliceAtomic code a x cmp []) s = .next t ∧
      t.bytes a (atWidth code) = leBytes (atWidth code) (atomicApply code (s.num a (atWidth code)) x cmp).1 ∧
      MemBut a (atWidth code) s t ∧ t.outbox = s.outbox ++ [.memData false (leBytes (atWidth code) (s.num a (atWidth code)))] ∧
      SameCores [] s t) ∧
  (∀ (s : State) (code a x cmp : Nat), a + atWidth code ≤ hbmTop → code ≤ 10 → a % atWidth code = 0 → LineOpen s a →
    poisoned s a (atWidth code) = true →
    ∃ t, exec (.sliceAtomic code a x cmp []) s = .next t ∧ t.outbox = s.outbox ++ [.memData true []] ∧ SameMem s t ∧ SameRegs [] s t ∧
      SameCores [] s t) ∧
  (∀ old x cmp : Nat, old < 2 ^ 32 → x < 2 ^ 32 →
    (atomicApply 2 old x cmp).1 = (old + x) % 2 ^ 32 ∧
    toSigned 32 (atomicApply 5 old x cmp).1 = max (toSigned 32 old) (toSigned 32 x) ∧
    toSigned 32 (atomicApply 6 old x cmp).1 = min (toSigned 32 old) (toSigned 32 x) ∧
    (atomicApply 7 old x old).1 = x ∧ (old ≠ cmp → (atomicApply 7 old x cmp).1 = old)) ∧
  -- a request whose domains are not all ON wakes them and is not served yet; a line that is no line of a request has no effect
  (∀ (s : State) (op : MemOp) (a n hint : Nat) (data : List Byte) (ecc : List EccEvent), a + n ≤ hbmTop → 0 < n → a % 64 + n ≤ 64 → hint ≤ 3 →
    ¬ LineOpen s a →
    ∃ t, exec (.sliceRequest op a n hint data ecc) s = .next t ∧ SameCores [] s t ∧
      (∀ b bs, Signal.memData b bs ∈ t.outbox → Signal.memData b bs ∈ s.outbox) ∧
      ∀ p ∈ lineDomains s (a / 64), pdState t p.1 p.2 ≠ 2 ∧ pdState t p.1 p.2 ≠ 3) ∧
  (∀ (s : State) (op : MemOp) (a n hint : Nat) (data : List Byte) (ecc : List EccEvent), n = 0 ∨ 64 < a % 64 + n ∨ 3 < hint →
    exec (.sliceRequest op a n hint data ecc) s = .next (ended s s)) ∧
  (∀ (s : State) (code a x cmp : Nat) (ecc : List EccEvent), 10 < code ∨ a % atWidth code ≠ 0 →
    exec (.sliceAtomic code a x cmp ecc) s = .next (ended s s))


/-- AMO, LR and SC of the control cores. R318, R313, R320. An AMO on an aligned address that a window grants stores the operation's result, breaks the
reservations of other harts on the line and returns the old value; LR returns the bytes, or no data from a poisoned line, and takes a reservation
of the line in place of the hart's earlier one; SC with the reservation stores, answers 0 and leaves no reservation of the line or the hart; SC
without it stores nothing, answers 1 and changes no register. On a poisoned line an AMO and an SC with the reservation store nothing and answer
poison. An access that no window grants changes no byte, register or reservation and answers nothing; a misaligned one changes nothing (the trap
it takes is its program's, log 25). -/
def Obligations.ControlCoreAtomics : Prop :=
  (∀ (s : State) (cl hart a x : Nat) (op : AmoOp) (wide : Bool), a % (if wide then 8 else 4) = 0 →
    hartGrant s cl hart 3 a (if wide then 8 else 4) = true → poisoned s a (if wide then 8 else 4) = false →
    ∃ t, exec (.controlCoreAmo cl hart op wide a x) s = .next t ∧
      t.bytes a (if wide then 8 else 4) = leBytes (if wide then 8 else 4)
        (amoVal op (8 * (if wide then 8 else 4)) (s.num a (if wide then 8 else 4)) x) ∧
      MemBut a (if wide then 8 else 4) s t ∧ (∀ p ∈ t.lr, p.2 = a / 64 → p.1 = hartId cl hart) ∧
      t.outbox = s.outbox ++ [.memData false (leBytes (if wide then 8 else 4) (s.num a (if wide then 8 else 4)))] ∧ SameCores [] s t) ∧
  (∀ (s : State) (cl hart a : Nat) (wide : Bool), a % (if wide then 8 else 4) = 0 →
    hartGrant s cl hart 1 a (if wide then 8 else 4) = true →
    ∃ t, exec (.loadReserved cl hart wide a) s = .next t ∧
      t.outbox = s.outbox ++ [.memData (poisoned s a (if wide then 8 else 4))
        (if poisoned s a (if wide then 8 else 4) then [] else s.bytes a (if wide then 8 else 4))] ∧
      (hartId cl hart, a / 64) ∈ t.lr ∧ (∀ l, (hartId cl hart, l) ∈ t.lr → l = a / 64) ∧ SameMem s t ∧ SameCores [] s t) ∧
  (∀ (s : State) (cl hart a x : Nat) (wide : Bool), a % (if wide then 8 else 4) = 0 →
    hartGrant s cl hart 2 a (if wide then 8 else 4) = true → poisoned s a (if wide then 8 else 4) = false → (hartId cl hart, a / 64) ∈ s.lr →
    ∃ t, exec (.storeConditional cl hart wide a x) s = .next t ∧
      t.bytes a (if wide then 8 else 4) = leBytes (if wide then 8 else 4) x ∧ MemBut a (if wide then 8 else 4) s t ∧
      t.outbox = s.outbox ++ [.memData false (leBytes (if wide then 8 else 4) 0)] ∧ (∀ p ∈ t.lr, p.1 ≠ hartId cl hart ∧ p.2 ≠ a / 64) ∧
      SameCores [] s t) ∧
  (∀ (s : State) (cl hart a x : Nat) (wide : Bool), a % (if wide then 8 else 4) = 0 →
    hartGrant s cl hart 2 a (if wide then 8 else 4) = true → (hartId cl hart, a / 64) ∉ s.lr →
    ∃ t, exec (.storeConditional cl hart wide a x) s = .next t ∧ SameMem s t ∧ SameRegs [] s t ∧
      t.outbox = s.outbox ++ [.memData false (leBytes (if wide then 8 else 4) 1)] ∧ (∀ p ∈ t.lr, p.1 ≠ hartId cl hart) ∧ SameCores [] s t) ∧
  -- a poisoned line takes neither an AMO nor a store of an SC
  (∀ (s : State) (cl hart a x : Nat) (op : AmoOp) (wide : Bool), a % (if wide then 8 else 4) = 0 →
    poisoned s a (if wide then 8 else 4) = true →
    (hartGrant s cl hart 3 a (if wide then 8 else 4) = true →
      exec (.controlCoreAmo cl hart op wide a x) s = .next (ended s (s.emit (.memData true [])))) ∧
    (hartGrant s cl hart 2 a (if wide then 8 else 4) = true → (hartId cl hart, a / 64) ∈ s.lr →
      exec (.storeConditional cl hart wide a x) s = .next (ended s (s.emit (.memData true []))))) ∧
  -- a hart that no window permits, and a misaligned address
  (∀ (s : State) (cl hart a x : Nat) (op : AmoOp) (wide : Bool), a % (if wide then 8 else 4) = 0 →
    (hartGrant s cl hart 3 a (if wide then 8 else 4) = false →
      ∃ t, exec (.controlCoreAmo cl hart op wide a x) s = .next t ∧ SameMem s t ∧ SameRegs [] s t ∧ t.outbox = s.outbox ∧ t.lr = s.lr) ∧
    (hartGrant s cl hart 1 a (if wide then 8 else 4) = false →
      ∃ t, exec (.loadReserved cl hart wide a) s = .next t ∧ SameMem s t ∧ SameRegs [] s t ∧ t.outbox = s.outbox ∧ t.lr = s.lr) ∧
    (hartGrant s cl hart 2 a (if wide then 8 else 4) = false →
      ∃ t, exec (.storeConditional cl hart wide a x) s = .next t ∧ SameMem s t ∧ SameRegs [] s t ∧ t.outbox = s.outbox ∧ t.lr = s.lr)) ∧
  (∀ (s : State) (cl hart a x : Nat) (op : AmoOp) (wide : Bool), a % (if wide then 8 else 4) ≠ 0 →
    exec (.controlCoreAmo cl hart op wide a x) s = .next (ended s s) ∧ exec (.loadReserved cl hart wide a) s = .next (ended s s) ∧
    exec (.storeConditional cl hart wide a x) s = .next (ended s s))


/-- Bytes past the end of HBM belong to no slice and no window. R310, R313: SLICE_REQUEST and SLICE_ATOMIC on bytes past the end of HBM change
nothing; an aligned AMO, LR or SC there, which no window holds, reports MEM_PROTECT for the kernel operation of its hart and changes nothing else;
from a hart that runs no kernel, or misaligned, it changes nothing (the model's linear addresses are log 6). -/
def Obligations.AddressesPastHbm : Prop :=
  (∀ (s : State) (op : MemOp) (a n hint : Nat) (data : List Byte) (ecc : List EccEvent), hbmTop < a + n →
    exec (.sliceRequest op a n hint data ecc) s = .next (ended s s)) ∧
  (∀ (s : State) (code a x cmp : Nat) (ecc : List EccEvent), hbmTop < a + atWidth code →
    exec (.sliceAtomic code a x cmp ecc) s = .next (ended s s)) ∧
  (∀ (s : State) (cl hart a x : Nat) (op : AmoOp) (wide : Bool), hbmTop < a + (if wide then 8 else 4) →
    a % (if wide then 8 else 4) = 0 → hart < 4 →
    ∀ (k : Kernel) (o : Op), (s.core (hartSlot s cl hart)).kernel = some k → opOf s (hartSlot s cl hart) k.tag = some o →
    exec (.controlCoreAmo cl hart op wide a x) s = .next (ended s (raiseProt s (hartSlot s cl hart) o.q k.tag a)) ∧
    exec (.loadReserved cl hart wide a) s = .next (ended s (raiseProt s (hartSlot s cl hart) o.q k.tag a)) ∧
    exec (.storeConditional cl hart wide a x) s = .next (ended s (raiseProt s (hartSlot s cl hart) o.q k.tag a))) ∧
  (∀ (s : State) (cl hart a x : Nat) (op : AmoOp) (wide : Bool), hbmTop < a + (if wide then 8 else 4) →
    (hart = 4 ∨ (s.core (hartSlot s cl hart)).kernel = none ∨ a % (if wide then 8 else 4) ≠ 0) →
    exec (.controlCoreAmo cl hart op wide a x) s = .next (ended s s) ∧
    exec (.loadReserved cl hart wide a) s = .next (ended s s) ∧
    exec (.storeConditional cl hart wide a x) s = .next (ended s s))


/-- Failing rows move to hold entries or their page is retired; the scrubber steps and wraps. R321-R325. A failing row that is not held and whose page
is not retired takes the first free hold entry, raises ROW_FAIL with HELD set and is copied; with all sixteen in use, or when it was replaced
already and its bank has no resource left, its page takes the first free entry of the retirement table; with AUTO_REPAIR 0 it is reported only. A
row that is not failing, is held or lies in a retired page is left alone. The end of a copy poisons the lines it could not read; a scrub step goes
one line on while patrol is enabled, at the end of the stack starts again and counts a pass, and does nothing while scrubbing is off. -/
def Obligations.FailingRowsAndScrub : Prop :=
  -- a failing row goes to the first free hold entry
  (∀ (s : State) (d pch slot row h : Nat), d < 8 → pch < 64 → slot < 48 → row < 16384 → rowFails s d (pch, slot, row) = true →
    (∀ x, x < 16 → holdValid s d x = true → holdRow s d x ≠ (pch, slot, row)) → pageOfRow slot row ∉ retiredPages s d →
    ((pch, slot, row) ∉ (s.die d).repaired ∨ resourcesLeft s d pch slot ≠ 0) → s.fb (mcBase d + 8) 32 = true →
    (upto 16).find? (fun x => !holdValid s d x) = some h →
    ∃ t, exec (.rowCeLimit d pch slot row) s = .next t ∧ holdValid t d h = true ∧ holdRow t d h = (pch, slot, row) ∧
      (t.die d).copying = (s.die d).copying ++ [h] ∧
      t.raises = (s.raise .rowFail d (packBits [(row, 0, 14), (slot, 14, 6), (pch, 20, 6), (1, 26, 1)])).raises ∧
      SameRegs [rHoldEnt d h, mcBase d] s t ∧ SameMem s t ∧ SameCores [] s t) ∧
  -- with no entry free, or replaced already in a bank that has no resource left, its page is retired
  (∀ (s : State) (d pch slot row i : Nat), d < 8 → pch < 64 → slot < 48 → row < 16384 → rowFails s d (pch, slot, row) = true →
    (∀ x, x < 16 → holdValid s d x = true → holdRow s d x ≠ (pch, slot, row)) → pageOfRow slot row ∉ retiredPages s d →
    ((∀ x, x < 16 → holdValid s d x = true) ∨ ((pch, slot, row) ∈ (s.die d).repaired ∧ resourcesLeft s d pch slot = 0)) →
    (upto 512).find? (fun x => !s.fb (rRetire d x) 20) = some i →
    ∃ t, exec (.rowCeLimit d pch slot row) s = .next t ∧ s.fb (rRetire d i) 20 = false ∧ t.fb (rRetire d i) 20 = true ∧
      t.f (rRetire d i) 0 20 = pageOfRow slot row ∧ SameRegs [rRetire d i, mcBase d] s t ∧ SameMem s t ∧ SameCores [] s t) ∧
  -- with a free entry but AUTO_REPAIR 0 it is reported only
  (∀ (s : State) (d pch slot row h : Nat), d < 8 → pch < 64 → slot < 48 → row < 16384 → rowFails s d (pch, slot, row) = true →
    (∀ x, x < 16 → holdValid s d x = true → holdRow s d x ≠ (pch, slot, row)) → pageOfRow slot row ∉ retiredPages s d →
    (pch, slot, row) ∉ (s.die d).repaired → s.fb (mcBase d + 8) 32 = false → (upto 16).find? (fun x => !holdValid s d x) = some h →
    ∃ t, exec (.rowCeLimit d pch slot row) s = .next t ∧
      t.raises = (s.raise .rowFail d (packBits [(row, 0, 14), (slot, 14, 6), (pch, 20, 6), (0, 26, 1)])).raises ∧
      SameRegs [] s t ∧ SameMem s t ∧ SameCores [] s t) ∧
  -- a row that is not failing, held already or in a retired page is left alone
  (∀ (s : State) (d pch slot row : Nat),
    rowFails s d (pch, slot, row) = false ∨ (∃ x, x < 16 ∧ holdValid s d x = true ∧ holdRow s d x = (pch, slot, row)) ∨
      pageOfRow slot row ∈ retiredPages s d →
    exec (.rowCeLimit d pch slot row) s = .next (ended s s)) ∧
  -- the copy ends; a line it could not read is poisoned
  (∀ (s : State) (d h : Nat) (ecc : List EccEvent), (s.die d).copying.contains h = true →
    ∃ t, exec (.rowHoldCopyDone d h ecc) s = .next t ∧ (t.die d).copying = (s.die d).copying.filter (fun y => y ≠ h) ∧
      (∀ e ∈ ecc, e.space = 0 → 2 ≤ e.bits → e.addr < hbmTop → dieOfAddr e.addr = d → rowAt e.addr = holdRow s d h →
        t.poisonL.contains (e.addr / 64) = true) ∧
      SameRegs [] s t ∧ SameMem s t ∧ SameCores [] s t) ∧
  (∀ (s : State) (d h : Nat) (ecc : List EccEvent), (s.die d).copying.contains h = false →
    exec (.rowHoldCopyDone d h ecc) s = .next (ended s s)) ∧
  -- the scrubber
  (∀ (s : State) (d : Nat), d < 8 → s.fb (mcBase d + 0x10) 0 = true → s.fb (mcBase d) 0 = true → (s.die d).scrub + 1 < stackLines →
    ∃ t, exec (.scrubStep d []) s = .next t ∧ (t.die d).scrub = (s.die d).scrub + 1 ∧ t.fb (mcBase d) 2 = true ∧ SameRegs [mcBase d] s t ∧
      SameMem s t ∧ SameCores [] s t) ∧
  (∀ (s : State) (d : Nat), d < 8 → s.fb (mcBase d + 0x10) 0 = true → s.fb (mcBase d) 0 = true → (s.die d).scrub + 1 = stackLines →
    ∃ t, exec (.scrubStep d []) s = .next t ∧ (t.die d).scrub = 0 ∧ t.fb (mcBase d) 2 = false ∧
      t.rd (mcBase d + 0x40) = s.rd (mcBase d + 0x40) + 1#64 ∧ SameRegs [mcBase d, mcBase d + 0x40] s t ∧ SameMem s t ∧ SameCores [] s t) ∧
  (∀ (s : State) (d : Nat) (ecc : List EccEvent), s.fb (mcBase d + 0x10) 0 = false ∨ s.fb (mcBase d) 0 = false →
    exec (.scrubStep d ecc) s = .next (ended s s))


/-- Requests from a site: granted, held over the rate cap, or refused and reported. R33, R34, R35, R317, R320. A granted write within the cap stores
its bytes and no other, and one of the doorbell word also sends the owner's message; a granted read returns the bytes, or an error from a poisoned
line; a granted atomic stores the result of Table 12.2 and returns the old value, and fails where it is misaligned or the line poisoned. A granted
request over the cap, or behind one that is held, is held, in order; the first held one goes ahead once the cap allows it. A refused request adds
one to VIOL_CNT and reports BRIDLE_VIOLATION with site, reason, length and address: a read gets an error completion without data, a write or
atomic is discarded, and no byte of memory, no other register, no core and nothing held changes. The reason is permission where a window holds all
the bytes, straddle where two windows are touched, and else no window. A site that is not up sends nothing (log 88). -/
def Obligations.BridleRequests : Prop :=
  -- R33: a granted write within the cap, on HBM that answers, stores its bytes and nothing else; one of the doorbell word rings
  (∀ (s : State) (i : Nat) (r : SiteReq), siteUp s i = true → siteReqOk r = true → siteRefusal s i r = none → (s.site i).held = [] →
    siteRoom s i r.len = true → r.op = .write → poisoned s r.addr r.len = false →
    ∃ t, exec (.bridleRequest i r) s = .next t ∧ t.bytes r.addr r.len = r.data ∧ MemBut r.addr r.len s t ∧ SameCores [] s t ∧
      (t.site i).recent.head? = some (s.now, r.len) ∧ (ringsSite s i r.addr r.len = false → t.outbox = s.outbox ∧ t.raises = s.raises) ∧
      (ringsSite s i r.addr r.len = true → vfGone s (s.f (siteBase i) 27 7) = false →
        (s.f (siteBase i) 27 7, s.f (siteBase i) 16 11) ∈ s.host.msixOn →
        (s.f (siteBase i) 27 7, s.f (siteBase i) 16 11) ∉ s.host.msixPend →
        t.outbox = s.outbox ++ [.msix (s.f (siteBase i) 27 7) (s.f (siteBase i) 16 11)])) ∧
  -- a granted read returns the bytes, or an error from a poisoned line
  (∀ (s : State) (i : Nat) (r : SiteReq), siteUp s i = true → siteReqOk r = true → siteRefusal s i r = none → (s.site i).held = [] →
    siteRoom s i r.len = true → r.op = .read →
    ∃ t, exec (.bridleRequest i r) s = .next t ∧ SameMem s t ∧ SameCores [] s t ∧
      t.outbox = s.outbox ++ [.siteResp i (poisoned s r.addr r.len) (if poisoned s r.addr r.len then [] else s.bytes r.addr r.len)]) ∧
  -- a granted atomic stores the result of Table 12.2 and returns the old value; one that is misaligned or on a poisoned line fails
  (∀ (s : State) (i code : Nat) (r : SiteReq), siteUp s i = true → siteReqOk r = true → siteRefusal s i r = none → (s.site i).held = [] →
    siteRoom s i r.len = true → r.op = .atomic code → r.addr % atWidth code = 0 → poisoned s r.addr (atWidth code) = false →
    ∃ t, exec (.bridleRequest i r) s = .next t ∧ MemBut r.addr (atWidth code) s t ∧ SameCores [] s t ∧
      t.outbox = s.outbox ++ [.siteResp i false (leBytes (atWidth code) (s.num r.addr (atWidth code)))] ∧
      (code < 7 ∨ 8 < code → t.bytes r.addr (atWidth code) =
        leBytes (atWidth code) (atomicApply code (s.num r.addr (atWidth code)) (leNat (r.data.take (atWidth code)))
          (leNat (r.data.take (atWidth code)))).1) ∧
      (7 ≤ code → code ≤ 8 → t.bytes r.addr (atWidth code) =
        leBytes (atWidth code) (atomicApply code (s.num r.addr (atWidth code))
          (leNat ((r.data.drop (atWidth code)).take (atWidth code))) (leNat (r.data.take (atWidth code)))).1)) ∧
  (∀ (s : State) (i code : Nat) (r : SiteReq), siteUp s i = true → siteReqOk r = true → siteRefusal s i r = none → (s.site i).held = [] →
    siteRoom s i r.len = true → r.op = .atomic code → (r.addr % atWidth code ≠ 0 ∨ poisoned s r.addr (atWidth code) = true) →
    ∃ t, exec (.bridleRequest i r) s = .next t ∧ t.outbox = s.outbox ++ [.siteResp i true []] ∧ SameMem s t ∧ SameCores [] s t) ∧
  -- R33: over the cap, or behind one that is held, the request is held
  (∀ (s : State) (i : Nat) (r : SiteReq), siteUp s i = true → siteReqOk r = true → siteRefusal s i r = none →
    (siteRoom s i r.len = false ∨ (s.site i).held ≠ []) →
    ∃ t, exec (.bridleRequest i r) s = .next t ∧ (t.site i).held = (s.site i).held ++ [r] ∧ t.outbox = s.outbox ∧ t.raises = s.raises ∧
      SameMem s t ∧ SameCores [] s t) ∧
  -- R34: a refused request is counted and reported, and nothing is written
  (∀ (s : State) (i reason : Nat) (r : SiteReq), siteUp s i = true → siteReqOk r = true → siteRefusal s i r = some reason →
    ∃ t, exec (.bridleRequest i r) s = .next t ∧ t.rd (siteBase i + 8) = s.rd (siteBase i + 8) + 1#64 ∧
      t.outbox = s.outbox ++ (match r.op with | .read => [.siteResp i true []] | _ => []) ∧
      t.raises = (s.raise .bridleViolation i (packBits [(i, 0, 1), (reason, 1, 2), (r.len, 3, 12), (r.addr, 15, 48)])).raises ∧
      t.sites = s.sites ∧ SameRegs [siteBase i + 8] s t ∧ SameMem s t ∧ SameCores [] s t) ∧
  -- the reason: 0 no window, 1 permission, 2 straddle
  (∀ (s : State) (i : Nat) (r : SiteReq),
    (siteRefusal s i r = none ↔ ∃ w, w < 8 ∧ winHolds s i w r.addr r.len = true ∧ s.fb (rSiteWin i w 0x10) (siteBit r.op) = true) ∧
    (siteRefusal s i r = some 1 ↔ (∃ w, w < 8 ∧ winHolds s i w r.addr r.len = true) ∧
      ∀ w, w < 8 → winHolds s i w r.addr r.len = true → s.fb (rSiteWin i w 0x10) (siteBit r.op) = false) ∧
    (siteRefusal s i r = some 2 ↔ (∀ w, w < 8 → winHolds s i w r.addr r.len = false) ∧
      ∃ v w, v < w ∧ w < 8 ∧ winTouches s i v r.addr r.len = true ∧ winTouches s i w r.addr r.len = true) ∧
    (siteRefusal s i r = none ∨ siteRefusal s i r = some 0 ∨ siteRefusal s i r = some 1 ∨ siteRefusal s i r = some 2)) ∧
  -- the first held request goes ahead once the cap allows it, and waits until then
  (∀ (s : State) (i : Nat) (r : SiteReq) (rest : List SiteReq), siteUp s i = true → (s.site i).held = r :: rest →
    (siteRoom s i r.len = true →
      exec (.bridleRateRelease i) s = .next (ended s (siteAct (s.setSite i { s.site i with held := rest }) i r))) ∧
    (siteRoom s i r.len = false → exec (.bridleRateRelease i) s = .next (ended s s))) ∧
  -- a site whose link is down sends nothing, and a request that is none has no effect
  (∀ (s : State) (i : Nat) (r : SiteReq), siteUp s i = false ∨ siteReqOk r = false → exec (.bridleRequest i r) s = .next (ended s s)) ∧
  (∀ (s : State) (i : Nat), siteUp s i = false ∨ (s.site i).held = [] → exec (.bridleRateRelease i) s = .next (ended s s))


/-- Site links come up, narrow and drop; site doorbells, unmasked vectors and PCIe margining. R31, R34-R36, R330, R417. Training sets LINK_UP and
WIDTH, a degrade lowers WIDTH, and what fits neither changes nothing; a drop clears EN and LINK_UP, writes the bytes of the complete writes that
are held and no other, reports SITE_DOWN and answers nothing. A doorbell write sends the owner's MSI-X message or keeps it while the vector is
masked; where the owner is gone or its message is pending already it only adds one to VIOL_CNT; where window 0 is off or gives no WRITE it is
refused under R34 (length and address: log 88). An unmasked vector sends what was pending; a margin command within the offsets at Gen 5 or above
reports its count, another does nothing. -/
def Obligations.SiteLinksAndDoorbells : Prop :=
  -- training, degrade and drop of a site's link
  (∀ (s : State) (i w : Nat), i < 2 → sitePresent s i = true → s.fb (siteBase i) 0 = true → s.fb (siteBase i) 1 = false → 1 ≤ w → w ≤ 3 →
    ∃ t, exec (.siteLinkTrained i w) s = .next t ∧ t.fb (siteBase i) 1 = true ∧ t.f (siteBase i) 2 2 = w ∧ SameRegs [siteBase i] s t ∧
      SameMem s t ∧ SameCores [] s t) ∧
  (∀ (s : State) (i w : Nat), s.fb (siteBase i) 0 = false ∨ s.fb (siteBase i) 1 = true ∨ sitePresent s i = false ∨ w = 0 ∨ 3 < w →
    exec (.siteLinkTrained i w) s = .next (ended s s)) ∧
  (∀ (s : State) (i w : Nat), siteUp s i = true → 1 ≤ w → w < s.f (siteBase i) 2 2 →
    ∃ t, exec (.siteWidthDegrade i w) s = .next t ∧ t.f (siteBase i) 2 2 = w ∧ t.fb (siteBase i) 1 = true ∧ SameRegs [siteBase i] s t ∧
      SameMem s t ∧ SameCores [] s t) ∧
  (∀ (s : State) (i w : Nat), siteUp s i = false ∨ w = 0 ∨ s.f (siteBase i) 2 2 ≤ w → exec (.siteWidthDegrade i w) s = .next (ended s s)) ∧
  -- a drop commits the complete writes and drops the rest
  (∀ (s : State) (i : Nat), siteUp s i = true →
    ∃ t, exec (.siteLinkDrop i) s = .next t ∧ t.fb (siteBase i) 0 = false ∧ t.fb (siteBase i) 1 = false ∧ t.site i = Site.reset ∧
      t.raises = (s.raise .siteDown i (packBits [(i, 0, 1), (s.f (siteBase i) 2 2, 1, 2)])).raises ∧ SameCores [] s t ∧ t.outbox = s.outbox ∧
      (∀ x, (∀ r ∈ (s.site i).held, r.op = .write → x < r.addr ∨ r.addr + r.data.length ≤ x) → t.byte x = s.byte x) ∧
      (∀ r, (s.site i).held = [r] → r.op = .write → poisoned s r.addr r.data.length = false → r.addr + r.data.length ≤ hbmTop →
        t.bytes r.addr r.data.length = r.data)) ∧
  (∀ (s : State) (i : Nat), siteUp s i = false → exec (.siteLinkDrop i) s = .next (ended s s)) ∧
  -- the doorbell word: the owner's message is sent, or kept while the vector is masked; one that raises none is counted
  (∀ (s : State) (i : Nat), siteUp s i = true → winOn s i 0 = true → s.fb (rSiteWin i 0 0x10) 2 = true →
    vfGone s (s.f (siteBase i) 27 7) = false → (s.f (siteBase i) 27 7, s.f (siteBase i) 16 11) ∉ s.host.msixPend →
    ∃ t, exec (.siteDoorbell i) s = .next t ∧ SameRegs [] s t ∧ SameMem s t ∧ SameCores [] s t ∧
      ((s.f (siteBase i) 27 7, s.f (siteBase i) 16 11) ∈ s.host.msixOn →
        t.outbox = s.outbox ++ [.msix (s.f (siteBase i) 27 7) (s.f (siteBase i) 16 11)] ∧ t.host = s.host) ∧
      ((s.f (siteBase i) 27 7, s.f (siteBase i) 16 11) ∉ s.host.msixOn → t.outbox = s.outbox ∧
        t.host.msixPend = s.host.msixPend ++ [(s.f (siteBase i) 27 7, s.f (siteBase i) 16 11)])) ∧
  (∀ (s : State) (i : Nat), siteUp s i = true → winOn s i 0 = true → s.fb (rSiteWin i 0 0x10) 2 = true →
    (vfGone s (s.f (siteBase i) 27 7) = true ∨ (s.f (siteBase i) 27 7, s.f (siteBase i) 16 11) ∈ s.host.msixPend) →
    ∃ t, exec (.siteDoorbell i) s = .next t ∧ t.rd (siteBase i + 8) = s.rd (siteBase i + 8) + 1#64 ∧ SameRegs [siteBase i + 8] s t ∧
      t.outbox = s.outbox ∧ t.host = s.host ∧ SameMem s t ∧ SameCores [] s t) ∧
  (∀ (s : State) (i : Nat), siteUp s i = true → winOn s i 0 = false ∨ s.fb (rSiteWin i 0 0x10) 2 = false →
    ∃ t, exec (.siteDoorbell i) s = .next t ∧ t.rd (siteBase i + 8) = s.rd (siteBase i + 8) + 1#64 ∧ SameRegs [siteBase i + 8] s t ∧
      t.outbox = s.outbox ∧ t.host = s.host ∧ SameMem s t ∧ SameCores [] s t ∧
      t.raises = (s.raise .bridleViolation i
        (packBits [(i, 0, 1), (if winOn s i 0 then 1 else 0, 1, 2), (1, 3, 12), ((winSpan s i 0).1, 15, 48)])).raises) ∧
  (∀ (s : State) (i : Nat), siteUp s i = false → exec (.siteDoorbell i) s = .next (ended s s)) ∧
  -- vectors and margining of the PCIe link
  (∀ (s : State) (f v : Nat), f ≤ 64 → v ≤ lastVec f →
    ∃ t, exec (.msixVectorUnmask f v) s = .next t ∧ (f, v) ∈ t.host.msixOn ∧ (f, v) ∉ t.host.msixPend ∧
      t.outbox = s.outbox ++ (if (f, v) ∈ s.host.msixPend then [.msix f v] else []) ∧ SameRegs [] s t ∧ SameMem s t ∧ SameCores [] s t) ∧
  (∀ (s : State) (f v : Nat), 64 < f ∨ lastVec f < v → exec (.msixVectorUnmask f v) s = .next (ended s s)) ∧
  (∀ (s : State) (lane kind off errors : Nat), lane < 16 → kind ≤ 1 → off ≤ (if kind = 0 then 14 else 48) → 5 ≤ s.f 0x600 4 3 →
    exec (.pcieMarginCommand lane kind off errors) s = .next (ended s (s.emit (.marginResp lane errors)))) ∧
  (∀ (s : State) (lane kind off errors : Nat), 16 ≤ lane ∨ 1 < kind ∨ (if kind = 0 then 14 else 48) < off ∨ s.f 0x600 4 3 < 5 →
    exec (.pcieMarginCommand lane kind off errors) s = .next (ended s s))


/-- The BAR2 aperture reads and writes HBM where it is mapped, and nothing elsewhere. R331, R320, Table 13.1. An offset maps to its place in the
eighth's HBM range while the eighth is enabled. Through a mapped eighth a read returns the bytes, or poison, and a write stores its bytes and no
other; where nothing is mapped a read returns zeros and a write changes nothing. An access across eighths is read part by part, poisoned as a
whole where a part is, and a write changes no byte outside its mapped parts. -/
def Obligations.ApertureAccess : Prop :=
  -- within one eighth of the aperture
  (∀ (s : State) (off n a : Nat) (data : List Byte), bar2Addr s off = some a → off % 2 ^ 33 + n ≤ 2 ^ 33 → 0 < n →
    ∃ t, exec (.bar2Access .read off n data) s = .next t ∧ SameMem s t ∧ SameCores [] s t ∧
      t.outbox = s.outbox ++ [.memData (poisoned s a n) (if poisoned s a n then [] else s.bytes a n)]) ∧
  (∀ (s : State) (off n : Nat) (data : List Byte), bar2Addr s off = none → off % 2 ^ 33 + n ≤ 2 ^ 33 →
    ∃ t, exec (.bar2Access .read off n data) s = .next t ∧ t.outbox = s.outbox ++ [.memData false (List.replicate n 0#8)] ∧ SameRegs [] s t ∧
      SameMem s t ∧ SameCores [] s t) ∧
  (∀ (s : State) (off a : Nat) (data : List Byte), bar2Addr s off = some a → off % 2 ^ 33 + data.length ≤ 2 ^ 33 →
    a + data.length ≤ hbmTop → poisoned s a data.length = false →
    ∃ t, exec (.bar2Access .write off data.length data) s = .next t ∧ t.bytes a data.length = data ∧ MemBut a data.length s t ∧
      t.outbox = s.outbox ∧ SameCores [] s t) ∧
  (∀ (s : State) (off n : Nat) (data : List Byte), bar2Addr s off = none → off % 2 ^ 33 + data.length ≤ 2 ^ 33 →
    ∃ t, exec (.bar2Access .write off n data) s = .next t ∧ SameRegs [] s t ∧ SameMem s t ∧ t.outbox = s.outbox ∧ SameCores [] s t) ∧
  -- across eighths: each part goes its own way
  (∀ (s : State) (off n : Nat) (data : List Byte),
    (∀ p ∈ bar2Parts s off n, ∀ a, p.2.2 = some a → poisoned s a p.2.1 = false) →
    ∃ t, exec (.bar2Access .read off n data) s = .next t ∧ SameMem s t ∧ SameCores [] s t ∧
      t.outbox = s.outbox ++ [.memData false ((bar2Parts s off n).flatMap (bar2Bytes s))]) ∧
  (∀ (s : State) (off n : Nat) (data : List Byte),
    (∃ p ∈ bar2Parts s off n, ∃ a, p.2.2 = some a ∧ poisoned s a p.2.1 = true) →
    ∃ t, exec (.bar2Access .read off n data) s = .next t ∧ SameMem s t ∧ SameCores [] s t ∧ t.outbox = s.outbox ++ [.memData true []]) ∧
  (∀ (s : State) (off n : Nat) (data : List Byte),
    ∃ t, exec (.bar2Access .write off n data) s = .next t ∧ t.outbox = s.outbox ∧ SameCores [] s t ∧
      ∀ x, (∀ p ∈ bar2Parts s off data.length, ∀ a, p.2.2 = some a → x < a ∨ a + p.2.1 ≤ x) → t.byte x = s.byte x) ∧
  -- the place of an offset
  (∀ (s : State) (off : Nat), bar2Addr s off =
    if off < 2 ^ 36 ∧ s.fb (engineBase + 0x50000 + 8 * (off / 2 ^ 33)) 0 = true
    then some (s.f (engineBase + 0x50000 + 8 * (off / 2 ^ 33)) 33 15 * 2 ^ 33 + off % 2 ^ 33) else none)


/-- The TODs of the matrix engine, the drain and the vector unit. R84, R100-R113, R209. For each of MATMUL, MATMUL_AT, MATMUL_BT, DRAIN, ELTWISE,
REDUCE, NORM_FWD, NORM_BWD, SOFTMAX_FWD, SOFTMAX_BWD, CONVERT, STATS, OPTIM_STEP, RNG_FILL and VEC_CALL: a TOD that fails a check of issue
completes with the status of the check and no other effect but the report of a refused address or slot; one that passes enters its queue; one that
is held back, or waits for messages at an operand port, stays there, one whose messages hold too much completes; one that nothing holds back
starts, and a start that fails completes with its status. Where it is not the queue's turn, or its TOD is of another opcode, nothing is issued
(the order of the checks is log 21). -/
def Obligations.MatrixAndVectorTods : Prop :=
  TodRow .matmul (isOpc 0x01) famMatrix (fun s _ => s) ∧ TodRow .matmulAt (isOpc 0x02) famMatrix (fun s _ => s) ∧
  TodRow .matmulBt (isOpc 0x03) famMatrix (fun s _ => s) ∧ TodRow .drain (isOpc 0x04) famDrain (fun s _ => s) ∧
  TodRow .eltwise (isOpc 0x08) famEltwise (fun s _ => s) ∧ TodRow .reduce (isOpc 0x09) famReduce (fun s _ => s) ∧
  TodRow .normFwd (isOpc 0x0A) famNormFwd (fun s _ => s) ∧ TodRow .normBwd (isOpc 0x0B) famNormBwd (fun s _ => s) ∧
  TodRow .softmaxFwd (isOpc 0x0C) famSoftFwd (fun s _ => s) ∧ TodRow .softmaxBwd (isOpc 0x0D) famSoftBwd (fun s _ => s) ∧
  TodRow .convert (isOpc 0x20) famConvert (fun s _ => s) ∧ TodRow .stats (isOpc 0x21) famStats (fun s _ => s) ∧
  TodRow .optimStep (isOpc 0x30) famOptim (fun s _ => s) ∧ TodRow .rngFill (isOpc 0x31) famRngFill (fun s _ => s) ∧
  TodRow .vecCall (isOpc 0x40) famVec (fun s _ => s)


/-- The TODs of attention, the key-value cache, the data mover and the stash. The same, with every branch, for ATTN_FWD, ATTN_BWD, KV_APPEND with its
admission pass, PREFIX_LOOKUP with attach and insert, GATHER, SCATTER, SEGMENT_REDUCE, SORT_KEYS, STASH_PUT and STASH_GET (R84, R100-R113, R209;
the order of the checks is log 21). -/
def Obligations.AttentionAndMoverTods : Prop :=
  TodRow .attnFwd (isOpc 0x10) famAttnFwd (fun s _ => s) ∧ TodRow .attnBwd (isOpc 0x11) famAttnBwd (fun s _ => s) ∧
  TodRow .kvAppend (fun t => isOpc 0x12 t && kvFunc t ≠ 1) famKv (fun s _ => s) ∧
  TodRow .admissionPass (fun t => isOpc 0x12 t && kvFunc t = 1) famKv (fun s _ => s) ∧
  TodRow .prefixLookup (fun t => isOpc 0x13 t && kvFunc t ≠ 1 && kvFunc t ≠ 2) famPrefix (fun s _ => s) ∧
  TodRow .attach (fun t => isOpc 0x13 t && kvFunc t = 1) famPrefix (fun s _ => s) ∧
  TodRow .insert (fun t => isOpc 0x13 t && kvFunc t = 2) famPrefix (fun s _ => s) ∧
  TodRow .gather (isOpc 0x18) famGather (fun s _ => s) ∧ TodRow .scatter (isOpc 0x19) famScatter (fun s _ => s) ∧
  TodRow .segmentReduce (isOpc 0x1A) famSegment (fun s _ => s) ∧ TodRow .sortKeys (isOpc 0x1B) famSort (fun s _ => s) ∧
  TodRow .stashPut (isOpc 0x3E) famStashPut (fun s _ => s) ∧ TodRow .stashGet (isOpc 0x3F) famStashGet (fun s _ => s)


/-- The TODs of weight versions, buckets, phases, fences and events. The same, with every branch, for the four acquires and four releases of weight
versions, BUCKET_PUSH, STEP_BEGIN, REWIND, PHASE_SWITCH, FENCE and WAIT_EVENT (R84, R100-R113, R209; the order of the checks is log 21). -/
def Obligations.VersionBucketAndControlTods : Prop :=
  TodRow .versionAcquireFwd (isAcquire 0) famAcquire (fun s _ => s) ∧ TodRow .versionAcquireBwd (isAcquire 1) famAcquire (fun s _ => s) ∧
  TodRow .versionAcquireWrite (isAcquire 2) famAcquire (fun s _ => s) ∧ TodRow .versionAcquireReplay (isAcquire 3) famAcquire (fun s _ => s) ∧
  TodRow .versionReleaseEnd (isRelease 0) famRelease (fun s _ => s) ∧ TodRow .versionReleaseCommit (isRelease 1) famRelease (fun s _ => s) ∧
  TodRow .versionReleaseAbandon (isRelease 2) famRelease (fun s _ => s) ∧ TodRow .versionReleaseDrop (isRelease 3) famRelease (fun s _ => s) ∧
  TodRow .bucketPush (fun t => isOpc 0x3A t && (bpFunc t = 0 || bpFunc t = 3)) famPush (fun s _ => s) ∧
  TodRow .stepBegin (fun t => isOpc 0x3A t && bpFunc t = 1) famPush (fun s _ => s) ∧
  TodRow .rewind (fun t => isOpc 0x3A t && bpFunc t = 2) famPush (fun s _ => s) ∧
  TodRow .phaseSwitch (isOpc 0x2C) famPhase (fun s _ => s) ∧ TodRow .fence (isOpc 0x3C) famFence (fun s _ => s) ∧
  TodRow .waitEvent (isOpc 0x3D) famWait (fun s _ => s)


/-- The TODs of stage channels. The same, with every branch, for SEND and RECV, after which channels and micro-batch queues settle; CHANNEL_OPEN and
CHANNEL_CLOSE act as they are issued: OPEN sends its request from the channel, CLOSE completes at once on a closed channel and otherwise closes
it, and the queue side disables and closes its receive queue; one that fails a check completes with its status, and where it is not the queue's
turn nothing is issued (R198, R212; the order of the checks is log 21). -/
def Obligations.ChannelTods : Prop :=
  TodRow .send (isOpc 0x28) famSend settle ∧ TodRow .recv (isOpc 0x29) famRecv settle ∧
  TodActsRow .channelOpen (isOpc 0x2A) famOpen (fun s sl o =>
    let u := (setChanState s sl (sendChan o.tod) 1).setChan sl (sendChan o.tod) Chan.reset
    fromChan u sl (sendChan o.tod) o.tag (chanDestOf u sl (sendChan o.tod)) (.openReq (chanCtx u sl (sendChan o.tod)) o.tag)) ∧
  TodActsRow .channelClose (fun t => tOpcode t = 0x2B && !closeSide t) famClose (fun s sl o =>
    if chanState s sl (sendChan o.tod) = 0 then finishWith s sl o stOK else closeChan s sl (sendChan o.tod)) ∧
  TodActsRow .channelCloseQueue (fun t => tOpcode t = 0x2B && closeSide t) famCloseQ (fun s sl o =>
    finishWith (closeRq (s.setF (rRq sl (tF o.tod 16 0 4) 0) 0 1 0) sl (tF o.tod 16 0 4)) sl o stOK)


/-- Producer and consumer counts of an op queue, overruns and unknown opcodes. R98, R99, R106, R116, R380. PROD takes the written value and the
producer's entry enters the ring at its place; an enabled queue that is not halted accepts as much as its ring holds, and more halts it as OVERRUN
with OPQ_OVERRUN raised; an enabled queue's core that is OFF or in retention begins to wake. An opcode outside Table 4.6 completes with BAD_FIELD,
and where no such TOD is next TOD_BAD_OPCODE does nothing. CPL_CONS takes the written value; with no record held nothing else happens, and else
held records are written until none is left or the ring is full. Memory changes only in the entry and the header word. -/
def Obligations.ProducersAndRings : Prop :=
  -- R98, R99: PROD takes the written value, and no more entries than the ring holds are accepted
  (∀ (s : State) (sl q : Nat) (v : Word32), domOn s (pdCluster (clusterOf s sl)).1 (pdCluster (clusterOf s sl)).2 = true → qEn s sl q = false →
    ∃ t, exec (.opqProdAdvance sl q [] v) s = .next t ∧ hdrW t sl q 0 = v.toNat ∧ MemBut (qHdr s sl q) 4 s t ∧ SameRegs [] s t ∧
      SameCores [] s t ∧ t.raises = s.raises) ∧
  (∀ (s : State) (sl q : Nat) (v : Word32), domOn s (pdCluster (clusterOf s sl)).1 (pdCluster (clusterOf s sl)).2 = true → qEn s sl q = true →
    pdState s (sl / 64) (pdSlot sl) = 0 → qHalted s sl q = true ∨ subMod 32 v.toNat (hdrW s sl q 1) ≤ qSize s sl q →
    ∃ t, exec (.opqProdAdvance sl q [] v) s = .next t ∧ hdrW t sl q 0 = v.toNat ∧ MemBut (qHdr s sl q) 4 s t ∧ SameRegs [] s t ∧
      SameCores [] s t ∧ t.raises = s.raises) ∧
  (∀ (s : State) (sl q : Nat) (v : Word32), isSlot sl = true → q < 4 →
    domOn s (pdCluster (clusterOf s sl)).1 (pdCluster (clusterOf s sl)).2 = true → qEn s sl q = true →
    pdState s (sl / 64) (pdSlot sl) = 0 → qHalted s sl q = false → qSize s sl q < subMod 32 v.toNat (hdrW s sl q 1) →
    ∃ t, exec (.opqProdAdvance sl q [] v) s = .next t ∧ hdrW t sl q 0 = v.toNat ∧ qHalted t sl q = true ∧ t.f (rOpq sl q 0x20) 1 3 = 1 ∧
      t.raises = (s.raise .opqOverrun sl (packBits [(q, 0, 2), (v.toNat, 2, 32)])).raises ∧ SameRegs [rOpq sl q 0x20] s t ∧
      MemBut (qHdr s sl q) 4 s t ∧ SameCores [] s t) ∧
  -- the producer's entry enters the ring at PROD
  (∀ (s : State) (sl q : Nat) (e : List Byte) (v : Word32), domOn s (pdCluster (clusterOf s sl)).1 (pdCluster (clusterOf s sl)).2 = true →
    qEn s sl q = false → e.length = 128 →
    (qHdr s sl q + 4 ≤ qRing s sl q ∨ qRing s sl q + 128 * qSize s sl q ≤ qHdr s sl q) →
    ∃ t, exec (.opqProdAdvance sl q [e] v) s = .next t ∧ hdrW t sl q 0 = v.toNat ∧
      t.bytes (qRing s sl q + 128 * (hdrW s sl q 0 % qSize s sl q)) 128 = e ∧ SameRegs [] s t ∧ SameCores [] s t ∧
      ∀ x, (x < qHdr s sl q ∨ qHdr s sl q + 4 ≤ x) → (x < qRing s sl q + 128 * (hdrW s sl q 0 % qSize s sl q) ∨
        qRing s sl q + 128 * (hdrW s sl q 0 % qSize s sl q) + 128 ≤ x) → t.byte x = s.byte x) ∧
  -- an enabled queue's core that is OFF or in retention begins to wake
  (∀ (s : State) (sl q : Nat) (v : Word32), isSlot sl = true → domOn s (pdCluster (clusterOf s sl)).1 (pdCluster (clusterOf s sl)).2 = true →
    qEn s sl q = true → (pdState s (sl / 64) (pdSlot sl) = 2 ∨ pdState s (sl / 64) (pdSlot sl) = 3) →
    ∃ t, exec (.opqProdAdvance sl q [] v) s = .next t ∧ pdState t (sl / 64) (pdSlot sl) = 4) ∧
  -- R106: an opcode outside Table 4.6
  (∀ (s : State) (sl q t : Nat), todNow s sl q = some t → opcodeOk (tOpcode t) = false →
    exec (.todBadOpcode sl q) s = .next (ended s (finishWith (takeTod s sl q) sl (newOp s sl q t) stBadField))) ∧
  (∀ (s : State) (sl q : Nat), (∀ t, todNow s sl q = some t → opcodeOk (tOpcode t) = true) → exec (.todBadOpcode sl q) s = .next (ended s s)) ∧
  -- R116: CPL_CONS takes the written value; with no record held nothing else happens, and else records are written until none is held or
  -- the ring is full
  (∀ (s : State) (sl q : Nat) (v : Word32), pdState s (localDomain (qHdr s sl q + 12)).1 (localDomain (qHdr s sl q + 12)).2 = 0 →
    (∀ o ∈ (s.core sl).ops, o.q = q → o.stage ≠ .recordHeld) →
    ∃ t, exec (.cplConsAdvance sl q v) s = .next t ∧ hdrW t sl q 3 = v.toNat ∧ MemBut (qHdr s sl q + 12) 4 s t ∧ SameRegs [] s t ∧
      SameCores [] s t) ∧
  (∀ (s : State) (sl q : Nat) (v : Word32), ((s.core sl).ops.filter (fun o => o.q = q && o.stage = .recordHeld)).length ≤ 64 →
    ∃ t, exec (.cplConsAdvance sl q v) s = .next t ∧
      (cplFull t sl q = true ∨ ∀ o ∈ (t.core sl).ops, o.q = q → o.stage ≠ .recordHeld))


/-- A waiting operation starts, and the first waiter takes a free LOCK. R84, R101, R113, R114, R189, R209. An issued operation that nothing holds back
starts and the cycles it waited are charged to it (the command states them, log 3); where its start gives a status, or its messages hold too much,
it completes; where its reads meet an uncorrectable word it ends with MEM_UNCORR at a point that is open (log 22). One that is held back or waits
for messages goes on waiting, and a command for one that is not issued does nothing. The waiter that asked first takes the LOCK of the key-value
allocator once it is free, and its request goes on or completes with its status; any other waits. -/
def Obligations.OperationsStart : Prop :=
  -- R101: an issued operation that nothing holds back starts, and the cycles it waited are charged; a start that fails completes it
  (∀ (s u t1 : State) (sl tag cycles : Nat) (o o2 o1 : Op) (fam : Family), opOf s sl tag = some o → familyOf o.opc = some fam →
    o.stage = .issued → startable (s.core sl) o = true → assignPorts s sl o = .go u o2 →
    fam.start u sl { o2 with startTs := u.now } = (t1, o1, 0) → o1.stage ≠ .issued → o1.tag = tag →
    exec (.opStart sl tag cycles []) s =
      .next (ended s (settle (chargeWait (glintOp (updOp t1 sl o1) sl o1 1 0 0 0) sl o cycles) sl))) ∧
  (∀ (s u t1 : State) (sl tag cycles st : Nat) (o o2 o1 : Op) (fam : Family), opOf s sl tag = some o → familyOf o.opc = some fam →
    o.stage = .issued → startable (s.core sl) o = true → assignPorts s sl o = .go u o2 → o2.tag = tag →
    fam.start u sl { o2 with startTs := u.now } = (t1, o1, st) → st ≠ 0 →
    exec (.opStart sl tag cycles []) s =
      .next (ended s (settle (chargeWait (finishWith t1 sl { o2 with startTs := u.now } st) sl o cycles) sl))) ∧
  -- one whose reads meet an uncorrectable word
  (∀ (s u t1 t2 : State) (sl tag cycles : Nat) (o o2 o1 : Op) (ecc : List EccEvent) (fam : Family), opOf s sl tag = some o →
    familyOf o.opc = some fam → o.stage = .issued → startable (s.core sl) o = true → assignPorts s sl o = .go u o2 →
    fam.start u sl { o2 with startTs := u.now } = (t1, o1, 0) → o1.stage ≠ .issued → o1.tag = tag →
    eccEvents (glintOp (updOp t1 sl o1) sl o1 1 0 0 0) sl o ecc = (t2, true) →
    exec (.opStart sl tag cycles ecc) s = .next (ended s (settle (chargeWait (cutStarted t2 sl tag) sl o cycles) sl))) ∧
  -- R84, R101, R209: one that is held back, or waits for messages, goes on waiting; messages too long complete it
  (∀ (s : State) (sl tag cycles : Nat) (o : Op) (ecc : List EccEvent), opOf s sl tag = some o → o.stage = .issued →
    (startable (s.core sl) o = false ∨ assignPorts s sl o = .wait) → exec (.opStart sl tag cycles ecc) s = .next (ended s s)) ∧
  (∀ (s u : State) (sl tag cycles : Nat) (o : Op) (fam : Family), opOf s sl tag = some o → familyOf o.opc = some fam →
    o.stage = .issued → startable (s.core sl) o = true → assignPorts s sl o = .over u → stillIssued u sl tag = false →
    exec (.opStart sl tag cycles []) s = .next (ended s (settle (chargeWait u sl o cycles) sl))) ∧
  (∀ (s : State) (sl tag cycles : Nat) (ecc : List EccEvent), (∀ o, opOf s sl tag = some o → o.stage ≠ .issued) →
    exec (.opStart sl tag cycles ecc) s = .next (ended s s)) ∧
  -- R189: the waiting operation that asked first takes a free LOCK
  (∀ (s s3 : State) (sl tag cycles : Nat) (o o2 : Op), opOf s sl tag = some o → nth 0 o.aux 3 = 2 →
    s.kvWait.find? (fun w => w.1 = kvaOf o.tod) = some (kvaOf o.tod, sl, tag) → kvF s (kvaOf o.tod) 16 4 = 0 →
    kvGo (({ s with kvWait := s.kvWait.filter (fun w => w ≠ (kvaOf o.tod, sl, tag)) } : State).addCtr (slotBase sl + 0x788) cycles) sl
      ({ o with stage := OpStage.issued }.lock 0) = (s3, o2, 0) →
    exec (.kvLockGrant sl tag cycles) s = .next (ended s (updOp s3 sl o2))) ∧
  (∀ (s s3 : State) (sl tag cycles st : Nat) (o o2 : Op), opOf s sl tag = some o → nth 0 o.aux 3 = 2 →
    s.kvWait.find? (fun w => w.1 = kvaOf o.tod) = some (kvaOf o.tod, sl, tag) → kvF s (kvaOf o.tod) 16 4 = 0 → st ≠ 0 →
    kvGo (({ s with kvWait := s.kvWait.filter (fun w => w ≠ (kvaOf o.tod, sl, tag)) } : State).addCtr (slotBase sl + 0x788) cycles) sl
      ({ o with stage := OpStage.issued }.lock 0) = (s3, o2, st) →
    exec (.kvLockGrant sl tag cycles) s = .next (ended s (finishWith s3 sl ({ o with stage := OpStage.issued }.lock 0) st))) ∧
  (∀ (s : State) (sl tag cycles : Nat), (∀ o, opOf s sl tag = some o → nth 0 o.aux 3 ≠ 2 ∨
      s.kvWait.find? (fun w => w.1 = kvaOf o.tod) ≠ some (kvaOf o.tod, sl, tag) ∨ kvF s (kvaOf o.tod) 16 4 ≠ 0) →
    exec (.kvLockGrant sl tag cycles) s = .next (ended s s))


/-- Tiles of matrix operations and drains, and the ends of vector kernels. R61, R62, R66, R72-R78, R85-R95, R114, R139-R141. A tile of a matrix
operation stores its elements over the ones outside its region and its mode tag in its slot and counts on; a drained one joins the drain's line; a
NaN raises NAN_TRAP once, and without CONTINUE ends the operation, halts its queue and cancels what has issued; a poisoned operand word ends it
with MEM_UNCORR, an uncorrectable accumulator word with ACC_UNCORR, the slot poisoned and later tiles undefined. The drain serves the first tile
of its line: its outputs are written, the slot is cleared where CLEAR asks, winners, counts and statistics go on; a poisoned side input ends it
with MEM_UNCORR. A kernel runs on, or ends with OK and STAGE converted into OUT, with its own error code, with KERNEL_FAULT by a trap, with
MEM_UNCORR, or by its limit with its hart reset. A command that names none of these does nothing (how many instructions a kernel runs at a time is
the command's, log 3). -/
def Obligations.TilesAndKernels : Prop :=
  -- R66, R73-R78, R93, R94: one tile of a matrix operation; a drained one joins the drain's line
  (∀ (s : State) (sl tag : Nat) (o : Op) (els : List (Nat × AccEl)) (ls wr : Bool), opOf s sl tag = some o → o.stage = .running →
    1 ≤ o.opc → o.opc ≤ 3 → o.tile < tileCount o.tod →
    anyPoison s sl (tileRuns (dscD o.descs 0) (o.opc ≠ 2) (tileRowsOf o.tod o.tile) ++ tileRuns (dscD o.descs 1) (o.opc = 3) (tileColsOf o.tod o.tile)) = false →
    tileResult ⟨(opView s sl o).1, sl⟩ (opView s sl o).2 o
      (if mAccum o.tod && (s.core sl).tag (tileSlot o.tod o.mode o.tile) = .mode o.mode then (s.core sl).tile (tileSlot o.tod o.mode o.tile) else [])
      o.tile = (els, ls, wr) →
    exec (.matrixTileDone sl tag []) s = .next (ended s (settle (tileTrap
      ((outsideEls s sl o.tod o.tile o.mode).1.modCore sl (fun c =>
        let d := (c.setTile (tileSlot o.tod o.mode o.tile) o.mode.slots (mergeEls (outsideEls s sl o.tod o.tile o.mode).2 els)).setTags
          (tileSlot o.tod o.mode o.tile) o.mode.slots (.mode o.mode)
        if mDrain o.tod then { d with drainQ := d.drainQ ++ [tag] } else d)) sl
      { o with
        tile := o.tile + 1
        stage := if o.tile + 1 = tileCount o.tod then OpStage.finishing else OpStage.running
        res := { o.res with flags := flOr o.res.flags ((if ls then flLongsum else 0) + (if wr then flIntWrap else 0)) } }
      (if mDrain o.tod then none else tileNan o.tod o.tile o.mode els)) sl))) ∧
  -- R61, R62: what a NaN of a tile does
  (∀ (s : State) (sl : Nat) (o : Op) (x : NanAt), tileTrap s sl o none = updOp s sl o ∧
    (nth 0 o.aux 0 ≠ 0 → tileTrap s sl o (some x) = updOp s sl o) ∧
    (nth 0 o.aux 0 = 0 → nanContinue s sl = true →
      tileTrap s sl o (some x) = updOp (raiseNan s sl o x) sl { o with aux := setNth o.aux 0 1 }) ∧
    (nth 0 o.aux 0 = 0 → nanContinue s sl = false → tileTrap s sl o (some x) = cancelIssued (nanHalt (updOp (raiseNan s sl o x) sl
      { o with aux := setNth o.aux 0 1, stage := OpStage.finishing
               res := { o.res with status := stNanTrap, stats := none, tail := [] } }) sl o.q) sl o.q)) ∧
  -- R114: an operand word that is poisoned ends it
  (∀ (s : State) (sl tag : Nat) (o : Op), opOf s sl tag = some o → o.stage = .running → 1 ≤ o.opc → o.opc ≤ 3 → o.tile < tileCount o.tod →
    anyPoison s sl (tileRuns (dscD o.descs 0) (o.opc ≠ 2) (tileRowsOf o.tod o.tile) ++ tileRuns (dscD o.descs 1) (o.opc = 3) (tileColsOf o.tod o.tile)) = true →
    exec (.matrixTileDone sl tag []) s = .next (ended s (settle (updOp s sl
      { o with stage := OpStage.finishing, res := { o.res with status := stMemUncorr, stats := none, tail := [] } }) sl))) ∧
  -- R95: an uncorrectable word of the tile it adds to ends it, with the tile poisoned and the later ones undefined
  (∀ (s t : State) (sl tag slot w : Nat) (o : Op) (ecc : List EccEvent), opOf s sl tag = some o → o.stage = .running →
    1 ≤ o.opc → o.opc ≤ 3 → o.tile < tileCount o.tod → mAccum o.tod = true → (s.core sl).tag (tileSlot o.tod o.mode o.tile) = .mode o.mode →
    accEcc s sl (tileSlot o.tod o.mode o.tile) o.mode.slots ecc = (t, some (slot, w)) →
    exec (.matrixTileDone sl tag ecc) s = .next (ended s (settle (updOp (freeTiles
      ((t.modCore sl (fun c => c.setTags (tileSlot o.tod o.mode o.tile) o.mode.slots .poison)).raise .accEccUncorr sl
        (packBits [(tag, 0, 14), (slot, 14, 7), (w, 21, 12)])) sl
      { o with stage := OpStage.finishing, res := { o.res with status := stAccUncorr, stats := none, tail := [] } } (o.tile + 1)) sl
      { o with stage := OpStage.finishing, res := { o.res with status := stAccUncorr, stats := none, tail := [] } }) sl))) ∧
  (∀ (s : State) (sl tag : Nat) (ecc : List EccEvent), (∀ o, opOf s sl tag = some o → o.stage ≠ .running ∨ o.opc = 0 ∨ 3 < o.opc ∨
      tileCount o.tod ≤ o.tile) → exec (.matrixTileDone sl tag ecc) s = .next (ended s s)) ∧
  -- R85-R94: one tile of a drain, the first of the line
  (∀ (s : State) (sl tag : Nat) (o : Op) (u : WUnit) (rows : List (Nat × List (Nat × FV))), opOf s sl tag = some o → drainReady o = true →
    drainFront s sl = some tag → anyPoison s sl (auxRuns o o.drained) = false →
    drainTile ⟨(opView s sl o).1, sl⟩ o (opView s sl o).2 ((s.core sl).tile (tileSlot o.tod o.mode o.drained)) o.drained = (u, rows) →
    (unitWrites s sl o.ctx u.writes).memBad = false →
    exec (.drainTileDone sl tag []) s = .next (ended s (settle (tileTrap
      ((unitWrites s sl o.ctx u.writes).modCore sl (fun c =>
        let d := { c with drainQ := c.drainQ.erase tag }
        if mClear o.tod then
          (d.setTile (tileSlot o.tod o.mode o.drained) o.mode.slots []).setTags (tileSlot o.tod o.mode o.drained) o.mode.slots .empty
        else d)) sl
      { o with
        drained := o.drained + 1, wins := newWins o o.drained rows, hbm := o.hbm + hbmBytes u.writes
        res := { o.res with
          units := [⟨[], [], (resCnt o.res).add u.cnt, none⟩], stats := addStats o (rows.flatMap (fun r => r.2.map (·.2)))
          tail := if o.drained + 1 = tileCount o.tod then winWrites o (newWins o o.drained rows) else [] } }
      u.trap) sl))) ∧
  (∀ (s : State) (sl tag : Nat) (o : Op), opOf s sl tag = some o → drainReady o = true → drainFront s sl = some tag →
    anyPoison s sl (auxRuns o o.drained) = true →
    exec (.drainTileDone sl tag []) s = .next (ended s (settle (updOp s sl
      { o with stage := OpStage.finishing, res := { o.res with status := stMemUncorr, stats := none, tail := [] } }) sl))) ∧
  (∀ (s : State) (sl tag : Nat) (ecc : List EccEvent), drainFront s sl ≠ some tag → exec (.drainTileDone sl tag ecc) s = .next (ended s s)) ∧
  -- R139: the kernel runs on; or it ends by ecall with 0, with another code, by another trap, by an uncorrectable word or by its limit
  (∀ (s t : State) (sl tag steps : Nat) (o : Op) (ecc : List EccEvent), kernelOp s sl tag = some o → kernelStep s sl steps o ecc = (t, none) →
    exec (.kernelEcall sl tag steps ecc) s = .next (ended s t) ∧ exec (.kernelTrap sl tag steps ecc) s = .next (ended s t) ∧
    exec (.kernelTimeout sl tag steps ecc) s = .next (ended s (resetHart (endKernel t sl o (OpRes.ofStatus stKernelTimeout)) sl))) ∧
  (∀ (s t : State) (sl tag steps : Nat) (o : Op) (ecc : List EccEvent), kernelOp s sl tag = some o →
    kernelStep s sl steps o ecc = (t, some (.cause 8)) →
    (((t.core sl).hart.xr 10).toNat ≠ 0 → exec (.kernelEcall sl tag steps ecc) s = .next (ended s (endKernel t sl o
      { OpRes.ofStatus stKernelError with detail := ((t.core sl).hart.xr 10).toNat % 2 ^ 32 }))) ∧
    (((t.core sl).hart.xr 10).toNat = 0 → tDesc o.tod 1 = 0xFFFF →
      exec (.kernelEcall sl tag steps ecc) s = .next (ended s (endKernel t sl o (OpRes.ofStatus 0)))) ∧
    (((t.core sl).hart.xr 10).toNat = 0 → tDesc o.tod 1 ≠ 0xFFFF →
      anyPoison (touchReads t sl o.ctx ((dscD o.descs 0).readRuns ++ (dscD o.descs 1).coarseRun)) sl
        ((dscD o.descs 0).readRuns ++ (dscD o.descs 1).coarseRun) = false →
      exec (.kernelEcall sl tag steps ecc) s = .next (ended s (endKernel
        (touchReads t sl o.ctx ((dscD o.descs 0).readRuns ++ (dscD o.descs 1).coarseRun)) sl
        { o with hbm := o.hbm + hbmLen ((dscD o.descs 0).readRuns ++ (dscD o.descs 1).coarseRun) }
        { OpRes.ofStatus 0 with units := stageUnits ⟨t, sl⟩ o }))) ∧
    exec (.kernelTrap sl tag steps ecc) s = .next (ended s s) ∧ exec (.kernelTimeout sl tag steps ecc) s = .next (ended s s)) ∧
  (∀ (s t : State) (sl tag steps n : Nat) (o : Op) (ecc : List EccEvent), kernelOp s sl tag = some o → n ≠ 8 →
    kernelStep s sl steps o ecc = (t, some (.cause n)) →
    exec (.kernelTrap sl tag steps ecc) s = .next (ended s (endKernel
      (t.raise .kernelFault sl (packBits [(tag, 0, 14), (hartOf s sl, 14, 3), (n, 17, 15)])) sl o
      { OpRes.ofStatus stKernelFault with detail := n })) ∧
    exec (.kernelEcall sl tag steps ecc) s = .next (ended s s) ∧ exec (.kernelTimeout sl tag steps ecc) s = .next (ended s s)) ∧
  (∀ (s t : State) (sl tag steps : Nat) (o : Op) (ecc : List EccEvent), kernelOp s sl tag = some o →
    kernelStep s sl steps o ecc = (t, some .uncorr) →
    exec (.kernelEcall sl tag steps ecc) s = .next (ended s (endKernel t sl o (OpRes.ofStatus stMemUncorr))) ∧
    exec (.kernelTrap sl tag steps ecc) s = .next (ended s (endKernel t sl o (OpRes.ofStatus stMemUncorr))) ∧
    exec (.kernelTimeout sl tag steps ecc) s = .next (ended s (endKernel t sl o (OpRes.ofStatus stMemUncorr)))) ∧
  (∀ (s : State) (sl tag steps : Nat) (ecc : List EccEvent), kernelOp s sl tag = none →
    exec (.kernelEcall sl tag steps ecc) s = .next (ended s s) ∧ exec (.kernelTrap sl tag steps ecc) s = .next (ended s s) ∧
    exec (.kernelTimeout sl tag steps ecc) s = .next (ended s s))


/-- Operations, fences and event waits complete. R114-R116, R135, R136, R158, R189, R230, R235, R246. A finished operation writes its result and its
record; KV_APPEND and PREFIX_LOOKUP give up LOCK, an acquire becomes visible, and a STASH_GET releases its record with it; one whose last reads
meet an uncorrectable word ends with MEM_UNCORR at a point that is open (log 22). A FENCE completes once every earlier operation of its queue has,
WAIT_EVENT with the counter in DETAIL once it has reached TARGET, and otherwise at its timeout with WAIT_TIMEOUT raised, PHASE_SWITCH once no
earlier operation uses a channel, and a BUCKET_PUSH that waited once it can act; until then nothing but the core's channel ports moves. A command
for an operation that has not begun, or whose record waits, does nothing. -/
def Obligations.OperationsComplete : Prop :=
  -- R115, R116: the result becomes visible, then the record is written, and the operation is gone; by opcode, what ends with it
  (∀ (s : State) (sl tag cycles : Nat) (o : Op), opOf s sl tag = some o → o.stage = .finishing → 5 ≤ o.opc →
    (o.opc ≠ 0x12 → o.opc ≠ 0x13 → o.opc ≠ 0x38 → o.opc ≠ 0x3F →
      exec (.opComplete sl tag cycles []) s = .next (ended s (settle (complete s sl o o.res) sl))) ∧
    (o.opc = 0x12 ∨ o.opc = 0x13 →
      exec (.opComplete sl tag cycles []) s = .next (ended s (settle (complete (unlockKv s o) sl o o.res) sl))) ∧
    (o.opc = 0x38 → exec (.opComplete sl tag cycles []) s = .next (ended s (settle (acqComplete (acqCharge s o cycles) sl o) sl))) ∧
    (o.opc = 0x3F → exec (.opComplete sl tag cycles []) s = .next (ended s (settle (stashGetDone (complete s sl o o.res) sl o) sl)))) ∧
  -- R114, R320: a read at the end meets an uncorrectable word
  (∀ (s t u : State) (sl tag cycles : Nat) (o : Op) (r : OpRes) (ecc : List EccEvent), opOf s sl tag = some o → o.stage = .finishing →
    5 ≤ o.opc → o.opc ≠ 0x10 → o.opc ≠ 0x11 → o.opc ≠ 0x12 → o.opc ≠ 0x13 → o.opc ≠ 0x38 → o.opc ≠ 0x3F → o.res.status = 0 →
    eccEvents s sl o (ecc.filter (fun e => e.space ≠ 3)) = (t, true) → cutUnits t o.res stMemUncorr = (u, r) →
    exec (.opComplete sl tag cycles ecc) s = .next (ended s (settle (complete u sl { o with res := r } r) sl))) ∧
  -- a matrix operation or a DRAIN with every tile done
  (∀ (s : State) (sl tag cycles : Nat) (o : Op) (ecc : List EccEvent), opOf s sl tag = some o → 1 ≤ o.opc → o.opc ≤ 4 → matDone o = true →
    exec (.opComplete sl tag cycles ecc) s = .next (ended s (settle (complete s sl o o.res) sl))) ∧
  -- R135: FENCE completes once every earlier operation of its queue has
  (∀ (s : State) (sl tag cycles : Nat) (o : Op) (ecc : List EccEvent), opOf s sl tag = some o → o.stage = .running → o.opc = 0x3C →
    (fenceDone (s.core sl) o = true → exec (.opComplete sl tag cycles ecc) s = .next (ended s (settle (finishWith s sl o stOK) sl))) ∧
    (fenceDone (s.core sl) o = false → exec (.opComplete sl tag cycles ecc) s = .next (ended s (settle s sl)))) ∧
  -- R136: WAIT_EVENT completes once its counter has reached TARGET, with the value in DETAIL, or at its timeout
  (∀ (s : State) (sl tag cycles : Nat) (o : Op) (ecc : List EccEvent), opOf s sl tag = some o → o.stage = .running → o.opc = 0x3D →
    (waitReached s sl o = true → exec (.opComplete sl tag cycles ecc) s =
      .next (ended s (settle (finish s sl o ⟨stOK, eventVal s sl (weEv o.tod), 0, Counters.zeros⟩) sl)) ∧
      exec (.waitEventTimeout sl tag) s = .next (ended s s)) ∧
    (waitReached s sl o = false → exec (.opComplete sl tag cycles ecc) s = .next (ended s (settle s sl))) ∧
    (waitReached s sl o = false → weTimeout o.tod ≠ 0 → exec (.waitEventTimeout sl tag) s = .next (ended s
      (finish (s.raise .waitTimeout sl (packBits [(tag, 0, 14), (weEv o.tod, 14, 4)])) sl o
        ⟨stWaitTimeout, eventVal s sl (weEv o.tod), 0, Counters.zeros⟩))) ∧
    (weTimeout o.tod = 0 → exec (.waitEventTimeout sl tag) s = .next (ended s s))) ∧
  -- R235: PHASE_SWITCH switches once no earlier operation uses a channel
  (∀ (s : State) (sl tag cycles : Nat) (o : Op) (ecc : List EccEvent), opOf s sl tag = some o → o.stage = .running → o.opc = 0x2C →
    (phaseReady (s.core sl) o = true → exec (.opComplete sl tag cycles ecc) s = .next (ended s (settle (phaseFlip s sl o) sl))) ∧
    (phaseReady (s.core sl) o = false → exec (.opComplete sl tag cycles ecc) s = .next (ended s (settle s sl)))) ∧
  -- R246, R256: a BUCKET_PUSH that waited tries again
  (∀ (s : State) (sl tag cycles : Nat) (o : Op) (ecc : List EccEvent), opOf s sl tag = some o → o.stage = .running → o.opc = 0x3A →
    (∀ t st, tryFunc s sl o = .fin t st → exec (.opComplete sl tag cycles ecc) s = .next (ended s (settle (finishWith t sl o st) sl))) ∧
    (tryFunc s sl o = .wait → exec (.opComplete sl tag cycles ecc) s = .next (ended s (settle s sl)))) ∧
  -- one that has not begun, or whose record waits for its ring
  (∀ (s : State) (sl tag cycles : Nat) (ecc : List EccEvent), (∀ o, opOf s sl tag = some o → o.stage = .issued ∨ o.stage = .recordHeld) →
    exec (.opComplete sl tag cycles ecc) s = .next (ended s s)) ∧
  (∀ (s : State) (sl tag : Nat), (∀ o, opOf s sl tag = some o → o.stage ≠ .running ∨ o.opc ≠ 0x3D) →
    exec (.waitEventTimeout sl tag) s = .next (ended s s))


/-- The completion record stands in the ring, CPL_PROD has advanced, and the tag is free. R115 for an operation other than the key-value, acquire,
stash-get and matrix ones that completes OK with no counts and no message: its 64-byte record is in the next place of the completion ring, with
the phase bit of the pass, tag, opcode, sequence number, USER and both time stamps; CPL_PROD is one more; no operation of the core has the tag. No
operation of the core uses a channel, tracing is off, and ring and header do not overlap. -/
def Obligations.CompletionRecord : Prop :=
  ∀ (s : State) (sl tag cycles : Nat) (o : Op), opOf s sl tag = some o → o.stage = .finishing → 8 ≤ o.opc →
    o.opc ≠ 0x12 → o.opc ≠ 0x13 → o.opc ≠ 0x38 → o.opc ≠ 0x3F → o.res = OpRes.ofStatus 0 → o.msgs = [] → s.memBad = false →
    tQuiet o.tod = false → cplFull s sl o.q = false → (∀ x ∈ (s.core sl).ops, x.opc ≠ 0x28 ∧ x.opc ≠ 0x29 ∧ x.opc ≠ 0x2B) →
    (qHdr s sl o.q + 12 ≤ qCpl s sl o.q ∨ qCpl s sl o.q + 64 * qSize s sl o.q ≤ qHdr s sl o.q + 8) →
    (∀ r, r < 8 → s.fb (rRing r 8) 0 = false) →
    ∃ t, exec (.opComplete sl tag cycles []) s = .next t ∧
      t.bytes (qCpl s sl o.q + 64 * (hdrW s sl o.q 2 % qSize s sl o.q)) 64 =
        cplRecord o.tag o.opc (hdrW s sl o.q 2 / qSize s sl o.q % 2 = 0) 0 0 o.seq (tUser o.tod) Counters.zeros o.startTs s.now 0 ∧
      hdrW t sl o.q 2 = (hdrW s sl o.q 2 + 1) % 2 ^ 32 ∧ opOf t sl o.tag = none


/-- Messages at a receive queue: opens, grants, data, aborts and departures. R196-R198, R203, R205, R206, R212-R214, R236, R289. An open is granted
and its sender registered, or refused with its code: 5 without a route, 3 by a disabled queue, 2 by one that takes no dynamic senders or from
another context, 4 by one with sixteen senders, the last two with RQ_REJECT. A request joins the queue, alone is served at once, or is refused
with 5, 1 (the queue is disabled, or has closed since the sender was registered) or 2 with RQ_REJECT; the one in front is granted at TAIL, past a
SKIP where the ring's end is too near, and waits while there is no room, the queue is disabled or its source not valid. Data enters the ring with
the SKIP header before it, completes its message and is acknowledged; data of no such message is discarded, and only a sender of another package
is answered; an abort or a timeout aborts the message; a closing or lost sender and its waiting requests are forgotten. A command that finds no
message of its kind, or nothing to time out, does nothing. -/
def Obligations.MessagesAtReceiveQueues : Prop :=
  -- R196, R198: OPEN is granted, or refused with its code
  (∀ (s u : State) (i ctx tag : Nat) (m : NetMsg), netTake s i = some (m, u) → m.up = true → m.body = .openReq ctx tag →
    let sl := slotOf s m.rq.2.1
    let r := m.rq.2.2
    (noRoute u m.ch m.rq.2.1 = true → exec (.openRequest i) s = .next (ended s (u.post { m with up := false, body := .openNack tag 5 }))) ∧
    (noRoute u m.ch m.rq.2.1 = false → rqEn u sl r = false →
      exec (.openRequest i) s = .next (ended s (rqNack u sl r m.ch (.openNack tag 3)))) ∧
    (noRoute u m.ch m.rq.2.1 = false → rqEn u sl r = true →
      (u.fb (rRq sl r 0) 1 = false ∨ (m.ch.1 = ownPkg u ∧ ctx ≠ u.f (rRq sl r 0) 8 8)) →
      exec (.openRequest i) s = .next (ended s (raiseReject (rqNack u sl r m.ch (.openNack tag 2)) sl r m.ch 2))) ∧
    (noRoute u m.ch m.rq.2.1 = false → rqEn u sl r = true → u.fb (rRq sl r 0) 1 = true →
      (m.ch.1 ≠ ownPkg u ∨ ctx = u.f (rRq sl r 0) 8 8) →
      (16 ≤ rqSenders u sl r → m.ch ∉ (u.rq sl r).dyn →
        exec (.openRequest i) s = .next (ended s (raiseReject (rqNack u sl r m.ch (.openNack tag 4)) sl r m.ch 4))) ∧
      (rqSenders u sl r < 16 ∨ m.ch ∈ (u.rq sl r).dyn →
        exec (.openRequest i) s = .next (ended s ((rqStatus (u.setRq sl r { u.rq sl r with
          dyn := if m.ch ∈ (u.rq sl r).dyn then (u.rq sl r).dyn else (u.rq sl r).dyn ++ [m.ch]
          gone := (u.rq sl r).gone.filter (fun d => d ≠ m.ch) }) sl r).post { m with up := false, body := .openGrant tag }))))) ∧
  -- R197, R203, R213, R236: a request joins the queue, or is refused with its code
  (∀ (s u : State) (i seq len : Nat) (m : NetMsg), netTake s i = some (m, u) → m.up = true → m.body = .grantReq seq len →
    let sl := slotOf s m.rq.2.1
    let r := m.rq.2.2
    let v := rqStatus (u.setRq sl r { u.rq sl r with reqs := (u.rq sl r).reqs ++ [⟨m.ch.1, m.ch.2.1, m.ch.2.2, seq, len⟩] }) sl r
    (noRoute u m.ch m.rq.2.1 = true → exec (.grantReq i) s = .next (ended s (u.post { m with up := false, body := .nack seq 5 }))) ∧
    (noRoute u m.ch m.rq.2.1 = false → rqEn u sl r = false →
      exec (.grantReq i) s = .next (ended s (rqNack u sl r m.ch (.nack seq 1)))) ∧
    (noRoute u m.ch m.rq.2.1 = false → rqEn u sl r = true → rqTakes u sl r m.ch = false → acceptedIn u sl r (!bankB u sl) m.ch = false →
      (m.ch ∈ (u.rq sl r).gone → exec (.grantReq i) s = .next (ended s (rqNack u sl r m.ch (.nack seq 1)))) ∧
      (m.ch ∉ (u.rq sl r).gone → exec (.grantReq i) s = .next (ended s (raiseReject (rqNack u sl r m.ch (.nack seq 2)) sl r m.ch 2)))) ∧
    (noRoute u m.ch m.rq.2.1 = false → rqEn u sl r = true → (rqTakes u sl r m.ch = true ∨ acceptedIn u sl r (!bankB u sl) m.ch = true) →
      exec (.grantReq i) s = .next (ended s (if (u.rq sl r).reqs.isEmpty then serveRq v sl r else v)))) ∧
  -- R203: a request with room is granted at TAIL, past a SKIP where the ring's end is too near, and TAIL passes it
  (∀ (s : State) (sl r : Nat) (q : RxReq) (rest : List RxReq), (s.rq sl r).reqs = q :: rest → rqEn s sl r = true → rqTakes s sl r (rxEnd q) = true →
    q.len ≤ rqSize s sl r - rqTail s sl r % rqSize s sl r → q.len ≤ rqSize s sl r - subMod 32 (rqTail s sl r) (rqHead s sl r) →
    ∃ t, exec (.grantIssue sl r) s = .next t ∧ (t.rq sl r).reqs = rest ∧ rqTail t sl r = (rqTail s sl r + q.len) % 2 ^ 32 ∧
      (t.rq sl r).msgs = (s.rq sl r).msgs ++ [⟨rqTail s sl r, rqTail s sl r % rqSize s sl r, q.len, q.pkg, q.core, q.chan, q.seq, 0, false, false,
        none, false⟩] ∧
      (q.pkg = ownPkg s → t.net = s.net ++ [⟨false, rxEnd q, rqEnd s sl r, 0, 0,
        .grant q.seq (rqTail s sl r) (rqTail s sl r % rqSize s sl r) 0⟩]) ∧ SameMem s t) ∧
  (∀ (s : State) (sl r : Nat) (q : RxReq) (rest : List RxReq), (s.rq sl r).reqs = q :: rest → rqEn s sl r = true → rqTakes s sl r (rxEnd q) = true →
    let gap := rqSize s sl r - rqTail s sl r % rqSize s sl r
    gap < q.len → gap + q.len ≤ rqSize s sl r - subMod 32 (rqTail s sl r) (rqHead s sl r) →
    ∃ t, exec (.grantIssue sl r) s = .next t ∧ (t.rq sl r).reqs = rest ∧ rqTail t sl r = (rqTail s sl r + (gap + q.len)) % 2 ^ 32 ∧
      (q.pkg = ownPkg s → t.net = s.net ++ [⟨false, rxEnd q, rqEnd s sl r, 0, 0,
        .grant q.seq ((rqTail s sl r + gap) % 2 ^ 32) (rqTail s sl r % rqSize s sl r) gap⟩]) ∧ SameMem s t) ∧
  -- R203, R236: it waits while the ring has no room, the queue is disabled or its source not valid
  (∀ (s : State) (sl r : Nat), (∀ q rest, (s.rq sl r).reqs = q :: rest →
      rqSize s sl r - subMod 32 (rqTail s sl r) (rqHead s sl r) < (if rqSize s sl r - rqTail s sl r % rqSize s sl r < q.len
        then rqSize s sl r - rqTail s sl r % rqSize s sl r + q.len else q.len) ∨ rqEn s sl r = false ∨ rqTakes s sl r (rxEnd q) = false) →
    exec (.grantIssue sl r) s = .next (ended s s)) ∧
  -- R203, R205, R206: the message, and a SKIP header before it, stand in the ring; it becomes complete, and is acknowledged
  (∀ (s u : State) (i seq start so sk : Nat) (bs : List Byte) (m : NetMsg) (y : RxMsg), netTake s i = some (m, u) → m.up = true →
    m.body = .data seq start so sk bs →
    let sl := slotOf s m.rq.2.1
    let r := m.rq.2.2
    let w := if 0 < sk then localWrite u (ringPlace u sl r + so) (leBytes 4 1 ++ leBytes 4 sk ++ padTo 56 []) else u
    rqEn u sl r = true → (u.rq sl r).msgs.find? (fun y => isIncomplete m seq y && y.start = start) = some y →
    exec (.msgData i) s = .next (ended s (settle ((updateVisible ((localWrite w (ringPlace u sl r + y.off) bs).setRq sl r { u.rq sl r with
      msgs := (u.rq sl r).msgs.map (fun z => if z.start = start then { z with complete := true } else z) }) sl r).post
        { m with up := false, body := .ack seq }) sl))) ∧
  -- R206, R213, R289: data of no such message is discarded; a sender of another package is answered
  (∀ (s u : State) (i seq start so sk : Nat) (bs : List Byte) (m : NetMsg), netTake s i = some (m, u) → m.up = true →
    m.body = .data seq start so sk bs →
    let sl := slotOf s m.rq.2.1
    let r := m.rq.2.2
    let known := (u.rq sl r).msgs.any (fun y => y.complete && y.kind ≠ 1 && msgEnd y = m.ch && y.seq = seq)
    (rqEn u sl r = false ∨ (u.rq sl r).msgs.find? (fun y => isIncomplete m seq y && y.start = start) = none) →
    (m.ch.1 = ownPkg u → exec (.msgData i) s = .next (ended s u)) ∧
    (m.ch.1 ≠ ownPkg u → known = true → exec (.msgData i) s = .next (ended s (u.post { m with up := false, body := .ack seq }))) ∧
    (m.ch.1 ≠ ownPkg u → known = false → exec (.msgData i) s = .next (ended s (rqNack u sl r m.ch (.nack seq 1))))) ∧
  -- R214: an aborted message, and one that stays incomplete for too long
  (∀ (s u : State) (i seq : Nat) (m : NetMsg) (y : RxMsg), netTake s i = some (m, u) → m.up = true → m.body = .abort seq →
    (u.rq (slotOf s m.rq.2.1) m.rq.2.2).msgs.find? (isIncomplete m seq) = some y →
    exec (.abort i) s = .next (ended s (abortMsg u (slotOf s m.rq.2.1) m.rq.2.2 y false))) ∧
  (∀ (s u : State) (i seq : Nat) (m : NetMsg), netTake s i = some (m, u) → m.up = true → m.body = .abort seq →
    (u.rq (slotOf s m.rq.2.1) m.rq.2.2).msgs.find? (isIncomplete m seq) = none → exec (.abort i) s = .next (ended s u)) ∧
  (∀ (s : State) (sl r : Nat) (y : RxMsg), rqEn s sl r = true → (s.rq sl r).msgs.find? (fun m => !m.complete) = some y →
    exec (.xferTimeout sl r) s = .next (ended s (abortMsg s sl r y true))) ∧
  (∀ (s : State) (sl r : Nat), rqEn s sl r = false ∨ (s.rq sl r).msgs.find? (fun m => !m.complete) = none →
    exec (.xferTimeout sl r) s = .next (ended s s)) ∧
  -- R212, R214: a sender leaves
  (∀ (s u : State) (i : Nat) (m : NetMsg), netTake s i = some (m, u) → m.up = true → m.body = .close →
    ∃ t, exec (.closeNotice i) s = .next t ∧ m.ch ∉ (t.rq (slotOf s m.rq.2.1) m.rq.2.2).dyn ∧
      (∀ q ∈ (t.rq (slotOf s m.rq.2.1) m.rq.2.2).reqs, rxEnd q ≠ m.ch) ∧
      (t.rq (slotOf s m.rq.2.1) m.rq.2.2).msgs = (u.rq (slotOf s m.rq.2.1) m.rq.2.2).msgs ∧ t.net = u.net ∧ SameMem s t ∧
      SameCores [slotOf s m.rq.2.1] s t) ∧
  (∀ (s : State) (sl r pkg core chan : Nat),
    ∃ t, exec (.senderLossReport sl r pkg core chan) s = .next t ∧ (pkg, core, chan) ∉ (t.rq sl r).dyn ∧
      (∀ q ∈ (t.rq sl r).reqs, rxEnd q ≠ (pkg, core, chan)) ∧ (t.rq sl r).msgs = (s.rq sl r).msgs ∧ t.net = s.net ∧ SameMem s t ∧
      SameCores [sl] s t) ∧
  -- a command that finds no message of its kind to deliver does nothing
  (∀ (s : State) (i : Nat), netTake s i = none → exec (.openRequest i) s = .next (ended s s) ∧ exec (.grantReq i) s = .next (ended s s) ∧
    exec (.msgData i) s = .next (ended s s) ∧ exec (.abort i) s = .next (ended s s) ∧ exec (.closeNotice i) s = .next (ended s s))


/-- Messages at a channel: open granted, grants, acknowledgements, refusals and timeouts. R198, R203, R204, R206, R210, R212-R214, Table 7.4. An open
grant opens the channel with SEQ 0 and completes its TOD, and a close that waited acts; a grant sends the message's data, or an abort where its
SEND has ended; an acknowledgement completes the SEND; a refusal or a timeout ends an open, or faults the channel with the status and code of its
SEND: a channel that is OPEN becomes FAULTED with CAUSE recorded and the source raised, one that is neither OPEN nor CLOSING is left alone. A
message that nothing waits for, and a command that finds no message of its kind, does nothing. -/
def Obligations.MessagesAtChannels : Prop :=
  -- R198, R212: the open is granted, and a close that waited acts; or its timeout ends it
  (∀ (s u : State) (i tag : Nat) (m : NetMsg) (o : Op), netTake s i = some (m, u) → m.up = false → m.body = .openGrant tag →
    let sl := slotOf s m.ch.2.1
    let c := m.ch.2.2
    let v := finishWith (((setChanState u sl c 2).setF (rChan sl c 0x10) 16 32 0).setChan sl c Chan.reset) sl o stOK
    openOp u sl c tag = some o →
    exec (.openGrant i) s = .next (ended s (if (u.chan sl c).closeWanted then closeChan v sl c else v))) ∧
  (∀ (s u : State) (i tag : Nat) (m : NetMsg), netTake s i = some (m, u) → m.up = false → m.body = .openGrant tag →
    openOp u (slotOf s m.ch.2.1) m.ch.2.2 tag = none → exec (.openGrant i) s = .next (ended s u)) ∧
  (∀ (s : State) (sl tag : Nat) (o o' : Op), opOf s sl tag = some o' → openOp s sl (sendChan o'.tod) tag = some o →
    exec (.channelOpenTimeout sl tag) s = .next (ended s
      (openFails s sl (sendChan o'.tod) o stChanTimeout 0 .chanTimeout (chanTimeoutSynd tag (sendChan o'.tod))))) ∧
  (∀ (s : State) (sl tag : Nat), (∀ o, opOf s sl tag = some o → openOp s sl (sendChan o.tod) tag = none) →
    exec (.channelOpenTimeout sl tag) s = .next (ended s s)) ∧
  -- R203, R204, R214: a grant sends the message's data, or an ABORT where its SEND has ended
  (∀ (s u : State) (i cycles seq start so sk : Nat) (m : NetMsg) (o : Op), netTake s i = some (m, u) → m.up = false →
    m.body = .grant seq start so sk →
    let sl := slotOf s m.ch.2.1
    let c := m.ch.2.2
    sendOf u sl c seq = some o →
    let v := u.addCtr (slotBase sl + 0x1508) cycles
    exec (.grant i cycles) s = .next (ended s (fromChan (updOp v sl { o with
      aux := setNth o.aux 4 2, link := o.link + (if m.rq.1 = ownPkg v then 0 else o.sendBytes.length) }) sl c o.tag m.rq
        (.data seq start so sk (withSeq o.sendBytes seq))))) ∧
  (∀ (s u : State) (i cycles seq start so sk : Nat) (m : NetMsg), netTake s i = some (m, u) → m.up = false →
    m.body = .grant seq start so sk → sendOf u (slotOf s m.ch.2.1) m.ch.2.2 seq = none →
    exec (.grant i cycles) s = .next (ended s (u.post { m with up := true, body := .abort seq }))) ∧
  (∀ (s u : State) (i seq : Nat) (m : NetMsg) (o : Op), netTake s i = some (m, u) → m.up = false → m.body = .ack seq →
    let sl := slotOf s m.ch.2.1
    let c := m.ch.2.2
    sendOf u sl c seq = some o →
    exec (.deliverAck i) s = .next (ended s (pumpSends 64 (checkClosed (finishWith u sl o stOK) sl c) sl))) ∧
  (∀ (s u : State) (i seq : Nat) (m : NetMsg), netTake s i = some (m, u) → m.up = false → m.body = .ack seq →
    sendOf u (slotOf s m.ch.2.1) m.ch.2.2 seq = none → exec (.deliverAck i) s = .next (ended s u)) ∧
  -- R204, R213: a timeout and a refusal fault the channel
  (∀ (s : State) (sl c cycles : Nat) (o : Op), (liveSends s sl c).find? (fun o => o.sendPhase = 1) = some o → s.f (rChan sl c 0) 32 32 ≠ 0 →
    exec (.grantTimeout sl c cycles) s = .next (ended s (faultChan (s.addCtr (slotBase sl + 0x1508) cycles) sl c 0x10 (some o.tag) stChanTimeout 0
      .chanTimeout (chanTimeoutSynd o.tag c)))) ∧
  (∀ (s : State) (sl c cycles : Nat), (liveSends s sl c).find? (fun o => o.sendPhase = 1) = none ∨ s.f (rChan sl c 0) 32 32 = 0 →
    exec (.grantTimeout sl c cycles) s = .next (ended s s)) ∧
  (∀ (s u : State) (i tag code : Nat) (m : NetMsg) (o : Op), netTake s i = some (m, u) → m.up = false → m.body = .openNack tag code →
    openOp u (slotOf s m.ch.2.1) m.ch.2.2 tag = some o →
    exec (.nack i) s = .next (ended s (openFails u (slotOf s m.ch.2.1) m.ch.2.2 o stChanRefused code .chanRefused (refusedSynd tag m.ch.2.2 code)))) ∧
  (∀ (s u : State) (i tag code : Nat) (m : NetMsg), netTake s i = some (m, u) → m.up = false → m.body = .openNack tag code →
    openOp u (slotOf s m.ch.2.1) m.ch.2.2 tag = none → exec (.nack i) s = .next (ended s u)) ∧
  (∀ (s u : State) (i seq code : Nat) (m : NetMsg), netTake s i = some (m, u) → m.up = false → m.body = .nack seq code →
    let sl := slotOf s m.ch.2.1
    let c := m.ch.2.2
    let tag := (sendOf u sl c seq).map (·.tag)
    exec (.nack i) s = .next (ended s (if code = 1 then
        faultChan u sl c 1 tag stPeerGone 0 .peerGone (goneSynd (tag.getD 0) c m.rq)
      else faultChan u sl c code tag stChanRefused code .chanRefused (refusedSynd (tag.getD 0) c code)))) ∧
  -- Table 7.4: what a fault does to a channel
  (∀ (s : State) (sl c cause st det synd : Nat) (tag : Option Nat) (src : FaultSrc), chanState s sl c ≠ 2 → chanState s sl c ≠ 3 →
    faultChan s sl c cause tag st det src synd = s) ∧
  (∀ (s : State) (sl c cause st det synd : Nat) (tag : Option Nat) (src : FaultSrc), isSlot sl = true → c < 64 → cause < 256 →
    chanState s sl c = 2 → liveSends s sl c = [] →
    chanState (faultChan s sl c cause tag st det src synd) sl c = 4 ∧ chanCause (faultChan s sl c cause tag st det src synd) sl c = cause ∧
    (faultChan s sl c cause tag st det src synd).raises = (s.raise src sl synd).raises) ∧
  -- a command that finds no message of its kind to deliver does nothing
  (∀ (s : State) (i cycles : Nat), netTake s i = none → exec (.openGrant i) s = .next (ended s s) ∧
    exec (.grant i cycles) s = .next (ended s s) ∧ exec (.deliverAck i) s = .next (ended s s) ∧ exec (.nack i) s = .next (ended s s))


/-- Buckets are launched, their parts taken, kept or dropped, and completed. R247-R251, R254, R257, with every branch: a launchable bucket becomes
ACTIVE with its contribution as it stands and its SENT digest (over its own segment in an ALL_GATHER, else over the whole contribution); alone in
its group it stays so, else its first part goes to the next rank and the parts that came early follow, and a rank out of reach ends the attempt; a
bucket that may not launch changes nothing. A part of an ACTIVE bucket of this step is taken, any other part that is not late goes to STAGE and is
kept as early, a late one is discarded with its flits counted, one for Cinch disabled or a bucket that does not exist is answered only. With its
whole result written in an OPEN step a bucket becomes COMPLETE: in a REDUCE_SCATTER of several ranks the bytes beside this rank's segment are
freed, NaN elements of the result (none in an ALL_GATHER) are counted in its entry and raised as GRAD_NAN, both digests are kept and its core's
event adds; otherwise the command does nothing. With the last bucket COMPLETE STEP_DONE goes to every peer, or where one is out of reach the
attempt ends; before, nothing more happens. -/
def Obligations.BucketReduction : Prop :=
  (∀ (s : State) (b : Nat), canLaunch s b = true →
    let t := shadowLaunch s b (launchSent s b)
    let early := t.cinch.early.filter (fun e => e.b = b && e.step = stepNo t && e.att = stepAtt t)
    let t := (setBkState t b 2).modCinch (fun c => { c with
      ready := c.ready.filter (fun y => y ≠ b), act := c.act ++ [⟨b, s.bytes (bkAddr s b) (bkLen s b), launchSent s b, [], []⟩]
      launched := true, early := c.early.filter (fun e => !early.contains e) })
    -- alone in its group, a bucket is reduced as it stands
    (grR s (bkGroup s b) = 1 → exec (.bucketLaunch b) s = .next (ended s t)) ∧
    -- else this rank's first part goes to the next rank, and the parts that came early follow; a rank out of reach ends the attempt
    (∀ u, grR s (bkGroup s b) ≠ 1 → sendSegment t b (firstSeg s b) (launchSeg s b (firstSeg s b)) = (u, false) →
      exec (.bucketLaunch b) s = .next (ended s (peerLost u))) ∧
    (∀ u v ok, grR s (bkGroup s b) ≠ 1 → sendSegment t b (firstSeg s b) (launchSeg s b (firstSeg s b)) = (u, true) →
      takeEarly u b early = (v, ok) → exec (.bucketLaunch b) s = .next (ended s (if ok then v else peerLost v)))) ∧
  -- R249, R257: an ALL_GATHER sends its own segment, another operation that of the rank before it; the SENT digest is over what it contributes
  (∀ (s : State) (b : Nat), bkOp s b = 2 →
    firstSeg s b = grMy s (bkGroup s b) ∧ launchSent s b = crc64 (launchSeg s b (grMy s (bkGroup s b)))) ∧
  (∀ (s : State) (b : Nat), bkOp s b ≠ 2 →
    firstSeg s b = (grMy s (bkGroup s b) + grR s (bkGroup s b) - 1) % grR s (bkGroup s b) ∧
      launchSent s b = crc64 (s.bytes (bkAddr s b) (bkLen s b))) ∧
  (∀ (s : State) (b j : Nat), launchSeg s b j =
    ((s.bytes (bkAddr s b) (bkLen s b)).drop (cinchSeg s b j).1).take ((cinchSeg s b j).2 - (cinchSeg s b j).1)) ∧
  (∀ (s : State) (b : Nat), canLaunch s b = false → exec (.bucketLaunch b) s = .next (ended s s)) ∧
  -- R249, R254: a part of an ACTIVE bucket of the step is taken; one that comes before the launch waits in STAGE; a late one is discarded, and
  -- its flits counted
  (∀ (s u : State) (i p bucket step att lo : Nat) (r : WReq), inTake s i 0x20 = some (p, r, u) →
    let w := answerOn u p r 0 0 []
    let c := catchUp w step att false
    (cinchEn w = false ∨ bktCount w ≤ bucket → exec (.cinchPart i bucket step att lo) s = .next (ended s w)) ∧
    (cinchEn w = true → bucket < bktCount w →
      (stale c step att = true → exec (.cinchPart i bucket step att lo) s = .next (ended s (c.addCtr (rCinch 0x208) (flitsOf r).length))) ∧
      (stale c step att = false →
        (∀ x v ok, step = stepNo c → att = stepAtt c → cAct c bucket = some x → takePart c x lo r.data = (v, ok) →
          exec (.cinchPart i bucket step att lo) s = .next (ended s (if ok then v else peerLost v))) ∧
        ((step = stepNo c → att = stepAtt c → cAct c bucket = none) →
          exec (.cinchPart i bucket step att lo) s = .next (ended s ((hbmWrite c 0 (bkStage c bucket + 4 * lo) r.data).modCinch (fun y => { y with
            early := y.early ++ [⟨bucket, step, att, lo, r.data.length / 4⟩] }))))))) ∧
  (∀ (s : State) (i bucket step att lo : Nat), inTake s i 0x20 = none → exec (.cinchPart i bucket step att lo) s = .next (ended s s)) ∧
  -- R250, R251, R257: a bucket with its whole result written becomes COMPLETE; the rest of it is freed, NaNs are counted and raised, the digests
  -- kept, and the core's counter adds
  (∀ (s : State) (b : Nat) (x : CBucket), cAct s b = some x → sumN (x.fin.map (·.2)) = expected s b → stepState s = 1 →
    exec (.bucketComplete b) s = .next (ended s (stepDoneHere (bucketDone s b x)))) ∧
  (∀ (s : State) (b : Nat) (x : CBucket),
    let n := if bkOp s b = 2 then 0 else min 0xFFFFFFFF (nanCount (resultBytes s b))
    let t := writeBkt (freeRest s b) b 3 (bkAtt s b) (bkPushed s b) n (bkStep s b)
    let t := if n = 0 then t else t.raise .gradNan 0 (packBits [(b, 0, 10), (bkStep s b, 10, 44)])
    bucketDone s b x = addEventOf (t.modCinch (fun c => { c with
      act := c.act.filter (fun a => a.b ≠ b), digs := c.digs ++ [(b, x.sent, crc64 (resultBytes s b))] })) (bkCore s b) (bkEv s b)) ∧
  (∀ (s : State) (b : Nat), bkOp s b = 1 → grR s (bkGroup s b) ≠ 1 →
    let my := cinchSeg s b (grMy s (bkGroup s b))
    my ≠ (0, bkLen s b) →
    freeRest s b = freeRegion (freeRegion s (bkAddr s b) my.1) (bkAddr s b + my.2) (bkLen s b - my.2) ∧
    resultBytes s b = (freeRest s b).bytes (bkAddr s b + my.1) (my.2 - my.1)) ∧
  (∀ (s : State) (b : Nat), bkOp s b ≠ 1 ∨ grR s (bkGroup s b) = 1 →
    freeRest s b = s ∧ resultBytes s b = s.bytes (bkAddr s b) (bkLen s b)) ∧
  -- R254: with the last bucket STEP_DONE goes to the peers, or an abort where one is out of reach
  (∀ s : State, (allComplete s = false → stepDoneHere s = s) ∧
    (allComplete s = true → (peers s).all (fun p => (pickPort s none p).isSome) = true →
      stepDoneHere s = tryFinal (setStepState (notify s 0 [stepNo s, stepAtt s]) 2)) ∧
    (allComplete s = true → (peers s).all (fun p => (pickPort s none p).isSome) = false → stepDoneHere s = peerLost s)) ∧
  (∀ (s : State) (b : Nat), (∀ x, cAct s b = some x → sumN (x.fin.map (·.2)) ≠ expected s b ∨ stepState s ≠ 1) →
    exec (.bucketComplete b) s = .next (ended s s))


/-- Step notices, the step deadline and the done timeout. R252-R256, with every branch: a done notice not of a past attempt is kept and the step tried
for FINAL, one of a past attempt is dropped; a final notice of the current attempt in OPEN or DONE_SENT makes the step FINAL and an abort notice
aborts it, others change nothing more; before that, a notice of a later attempt of this step aborts the attempts below it, and any other leaves
the state; with Cinch disabled a notice is answered only, and without one in the intake nothing happens. A step OPEN with buckets launched that
are not all COMPLETE aborts at its deadline; DONE_SENT stalls at its timeout; in every other state the two timers do nothing. -/
def Obligations.StepNotices : Prop :=
  -- R254: a done notice is kept, and the last one makes the step FINAL; a notice of a past attempt is discarded
  (∀ (s u : State) (i p step att : Nat) (r : WReq), inTake s i 0x21 = some (p, r, u) →
    let w := answerOn u p r 0 0 []
    let c := catchUp w step att false
    (cinchEn w = false → exec (.stepDone i step att) s = .next (ended s w)) ∧
    (cinchEn w = true → stale c step att = true → exec (.stepDone i step att) s = .next (ended s c)) ∧
    (cinchEn w = true → stale c step att = false →
      exec (.stepDone i step att) s = .next (ended s (tryFinal (c.modCinch (fun y => { y with dones := y.dones ++ [(r.src, step, att)] })))))) ∧
  -- R254, R255: a final notice makes the open step FINAL, an abort notice aborts it
  (∀ (s u : State) (i p step att : Nat) (r : WReq), inTake s i 0x21 = some (p, r, u) →
    let w := answerOn u p r 0 0 []
    let c := catchUp w step att false
    (cinchEn w = false → exec (.stepFinal i step att) s = .next (ended s w)) ∧
    (cinchEn w = true → step = stepNo c → att = stepAtt c → (stepState c = 1 ∨ stepState c = 2) →
      exec (.stepFinal i step att) s = .next (ended s (becomeFinal c))) ∧
    (cinchEn w = true → (step ≠ stepNo c ∨ att ≠ stepAtt c ∨ (stepState c ≠ 1 ∧ stepState c ≠ 2)) →
      exec (.stepFinal i step att) s = .next (ended s c))) ∧
  (∀ (s u : State) (i p step att : Nat) (stop : Bool) (r : WReq), inTake s i 0x21 = some (p, r, u) →
    let w := answerOn u p r 0 0 []
    let c := catchUp w step att stop
    (cinchEn w = false → exec (.stepAbort i step att stop) s = .next (ended s w)) ∧
    (cinchEn w = true → step = stepNo c → att = stepAtt c → (stepState c = 1 ∨ stepState c = 2) →
      exec (.stepAbort i step att stop) s = .next (ended s (abortStep c cRemote stop))) ∧
    (cinchEn w = true → (step ≠ stepNo c ∨ att ≠ stepAtt c ∨ (stepState c ≠ 1 ∧ stepState c ≠ 2)) →
      exec (.stepAbort i step att stop) s = .next (ended s c))) ∧
  -- R255: a notice of a later attempt aborts the attempts before it first
  (∀ (s : State) (step att : Nat) (stop : Bool), (step ≠ stepNo s ∨ att ≤ stepAtt s ∨ (stepState s ≠ 1 ∧ stepState s ≠ 2)) →
    catchUp s step att stop = s) ∧
  (∀ (s : State) (att : Nat) (stop : Bool), stepAtt s < att → (stepState s = 1 ∨ stepState s = 2) →
    catchUp s (stepNo s) att stop = catchUpN 255 (abortStep s cRemote stop) (stepNo s) att stop) ∧
  -- R254: the deadlines
  (∀ s : State, cinchEn s = true → stepState s = 1 → s.cinch.launched = true → allComplete s = false →
    exec .stepDeadline s = .next (ended s (abortStep s cDeadline false))) ∧
  (∀ s : State, cinchEn s = false ∨ stepState s ≠ 1 ∨ s.cinch.launched = false ∨ allComplete s = true →
    exec .stepDeadline s = .next (ended s s)) ∧
  (∀ s : State, cinchEn s = true → stepState s = 2 → exec .doneTimeout s = .next (ended s (stall s cDoneTimeout))) ∧
  (∀ s : State, cinchEn s = false ∨ stepState s ≠ 2 → exec .doneTimeout s = .next (ended s s)) ∧
  (∀ (s : State) (i step att : Nat) (stop : Bool), inTake s i 0x21 = none → exec (.stepDone i step att) s = .next (ended s s) ∧
    exec (.stepFinal i step att) s = .next (ended s s) ∧ exec (.stepAbort i step att stop) s = .next (ended s s))


/-- The source and the holder of a snapshot. R265-R277, with every branch. The trickle starts when Shadow is on, the step OPEN, the step before FINAL
and CORES cores have begun: the snapshot opens if due, its TRICKLE regions go to each holder with their CRCs taken, once; otherwise nothing. What
goes to one or two holders: a holder out of reach is raised as HOLDER_LOST and the snapshot fails. The end of the staging copy ends staging and
sends the staged records and the trailer of each snapshot without an acknowledgement to its holders. The holder of a copy writes the data into its
slot (whole lines straight to HBM with the STREAM hint), opens it for a request without data, and answers DENIED when it does not hold the copy or
the bytes lie past the slot, BUSY when it has no slot, POISONED when a write fails. With a trailer whose regions all check out, directory, header
rest and header first line are written in that order, the slot is COMPLETE and SNAP_ACK goes back; a region that does not check out raises
HOLD_CRC and frees the slot, a source that gives up frees it, no slot answers BUSY. Each acknowledgement is kept, the last one removes the
snapshot, sets LAST_BASE and counts; a read of a slot is served, answered POISONED, or DENIED. A command that finds no request of its kind does
nothing. -/
def Obligations.SnapshotSourceAndHolder : Prop :=
  -- R266, R268: once step s - 1 is FINAL and every core has begun step s the snapshot of base s opens if it is due, and its TRICKLE regions go to
  -- each holder, their CRCs taken as they are sent
  (∀ (s : State), (shadowEn s = false ∨ stepState s ≠ 1 ∨ s.cinch.lastFinal.map (fun p => p.1 + 1) ≠ some (stepNo s) ∨
      ((s.cinch.begins.filter (fun p => p.1 = stepNo s)).map (·.2)).eraseDups.length < shCores s) →
    exec .trickleStart s = .next (ended s s)) ∧
  (∀ (s : State) (step att : Nat), shadowEn s = true → stepState s = 1 → s.cinch.lastFinal = some (step, att) → step + 1 = stepNo s →
    shCores s ≤ ((s.cinch.begins.filter (fun p => p.1 = stepNo s)).map (·.2)).eraseDups.length →
    let u := openSnap s (stepNo s) att
    (snapOf u (stepNo s) = none → exec .trickleStart s = .next (ended s u)) ∧
    (∀ x, snapOf u (stepNo s) = some x → x.started = true → exec .trickleStart s = .next (ended s u)) ∧
    (∀ x, snapOf u (stepNo s) = some x → x.started = false →
      let v := u.modShadow (fun h => { h with snaps := h.snaps.map (fun y =>
        if y.base = stepNo s then { y with started := true, sums := trickleSums u y } else y) })
      exec .trickleStart s = .next (ended s (toHolders v (stepNo s) (fun t j => trickleTo t x j))))) ∧
  -- R271: what goes to every holder; one out of reach fails the snapshot and is raised
  (∀ (s t : State) (base : Nat) (send : State → Nat → State × Bool), copies s = 1 → send s 1 = (t, true) → toHolders s base send = t) ∧
  (∀ (s t : State) (base : Nat) (send : State → Nat → State × Bool), copies s = 1 → send s 1 = (t, false) →
    toHolders s base send = holderLost t base 1) ∧
  (∀ (s t u : State) (base : Nat) (a b : Bool) (send : State → Nat → State × Bool), copies s = 2 → send s 1 = (t, a) → send t 2 = (u, b) →
    toHolders s base send = if b = false then holderLost u base 2 else if a = false then holderLost u base 1 else u) ∧
  (∀ (s : State) (base copy : Nat) (x : Snap), snapOf s base = some x →
    holderLost s base copy = failSnap (s.raise .holderLost 0 (packBits [(holderOf s copy, 0, 12), (copy, 12, 2)])) base) ∧
  -- R269: the end of the staging copy lets STEP_BEGIN proceed, and records and trailer of each staged snapshot go to its holders
  (∀ s : State, s.shadow.staging = false → exec .shadowStagingDone s = .next (ended s s)) ∧
  (∀ s : State, s.shadow.staging = true →
    exec .shadowStagingDone s = .next (ended s (s.shadow.snaps.foldl stagedOut (s.modShadow (fun h => { h with staging := false }))))) ∧
  (∀ (s : State) (x : Snap), (x.staged = none → stagedOut s x = s) ∧ (x.acks ≠ [] → stagedOut s x = s) ∧
    (∀ bs t, x.staged = some (bs, t) → x.acks = [] → stagedOut s x = toHolders s x.base (fun u j => stagedTo u x.base bs t j))) ∧
  -- R265-R267, R274: the holder of the copy writes the data into the slot; a request without data opens it
  (∀ (s u : State) (i p copy base att off : Nat) (places : List (Nat × Nat)) (r : WReq), inTake s i 0x28 = some (p, r, u) →
    (holdsFor u r.src copy = false → exec (.shadowData i copy base att off places) s = .next (ended s (answerOn u p r rcDenied 0 []))) ∧
    (holdsFor u r.src copy = true → takeSlot u r.src copy base att = none →
      exec (.shadowData i copy base att off places) s = .next (ended s (answerOn u p r rcBusy 0 []))) ∧
    (∀ v h, holdsFor u r.src copy = true → takeSlot u r.src copy base att = some (v, h) →
      (∀ w k, r.data = [] → gatherPassed v { h with places := places } = (w, k) →
        exec (.shadowData i copy base att off places) s = .next (ended s (answerOn (setSlot w k) p r 0 0 []))) ∧
      (r.data ≠ [] → shSlotSize v < off + r.data.length →
        exec (.shadowData i copy base att off places) s = .next (ended s (answerOn v p r rcDenied 0 []))) ∧
      (∀ w k, r.data ≠ [] → off + r.data.length ≤ shSlotSize v → slotWrite v h off r.data = (w, k) →
        exec (.shadowData i copy base att off places) s =
          .next (ended s (answerOn (setSlot w k) p r (if w.memBad then rcPoisoned else 0) 0 []))))) ∧
  (∀ (s : State) (h : HSlot) (off : Nat) (bs : List Byte), off % 64 = 0 → bs.length % 64 = 0 →
    slotWrite s h off bs = (hbmWrite s hintStream (hslotAddr s h + off) bs, h)) ∧
  -- R270, R274: with every CRC right directory and header are written, the header's first line last, and SNAP_ACK goes back; R271: a CRC that
  -- differs is raised, a source that gives up frees the slot
  (∀ (s u : State) (i p : Nat) (r : WReq) (t : SnapTrailer), inTake s i 0x29 = some (p, r, u) →
    (fillingSlot u r.src t.copy t.base = none → exec (.shadowTrailer i t) s = .next (ended s (answerOn u p r rcBusy 0 []))) ∧
    (∀ h, fillingSlot u r.src t.copy t.base = some h → t.fail = true →
      exec (.shadowTrailer i t) s = .next (ended s (answerOn (freeSlot u h) p r 0 0 []))) ∧
    (∀ h k q, fillingSlot u r.src t.copy t.base = some h → t.fail = false → findIdx1 (fun q => regionBadAt u h t q) t.regions = some (k, q) →
      exec (.shadowTrailer i t) s = .next (ended s (answerOn
        (freeSlot (u.raise .holdCrc 0 (packBits [(t.base, 0, 48), (r.src, 48, 12), (k, 60, 4)])) h) p r rcPoisoned 0 []))) ∧
    (∀ h, fillingSlot u r.src t.copy t.base = some h → t.fail = false → (∀ q ∈ t.regions, regionBadAt u h t q = false) →
      let dir := t.regions.flatMap dirEntry
      let s1 := hbmWrite u hintStream (hslotAddr u h + 0x100) (dir ++ leBytes (3840 - dir.length) 0)
      let s2 := hbmWrite s1 hintStream (hslotAddr u h + 64) (leBytes 192 0)
      let s3 := hbmWrite s2 hintStream (hslotAddr u h)
        (headerLine t r.src s2.now (crc64 (s2.bytes (hslotAddr u h + 0x100) (0x26000 - 0x100))) false)
      exec (.shadowTrailer i t) s =
        .next (ended s (sendCtl (answerOn (setSlotSt s3 h.v 2) p r 0 0 []) r.src 1 [t.copy, t.base] .snapAck).1))) ∧
  -- R270: each acknowledgement is kept, and that of the last copy completes the snapshot
  (∀ (s u : State) (i p copy base : Nat) (r : WReq), inTake s i 0x29 = some (p, r, u) →
    let w := answerOn u p r 0 0 []
    (snapOf w base = none → exec (.snapAck i copy base) s = .next (ended s w)) ∧
    (∀ x, snapOf w base = some x →
      let acks := if x.acks.contains copy then x.acks else x.acks ++ [copy]
      (acks.length < copies w → exec (.snapAck i copy base) s = .next (ended s (w.modShadow (fun h => { h with snaps := h.snaps.map (fun y =>
        if y.base = base then { y with acks := acks } else y) })))) ∧
      (copies w ≤ acks.length → exec (.snapAck i copy base) s = .next (ended s (shadowStatus
        (((w.modShadow (fun h => { h with snaps := h.snaps.filter (fun y => y.base ≠ base) })).setF (rShadow 0x38) 16 48 base).addCtr
          (rShadow 0x80) 1)))))) ∧
  -- R277: the holder serves bytes of a slot, whose line is retired or poisoned or not
  (∀ (s u : State) (i p copy slot off len : Nat) (r : WReq), inTake s i 0x29 = some (p, r, u) →
    (holdsFor u r.src copy = false ∨ slotCount u ≤ slot ∨ shSlotSize u < off + len →
      exec (.shadowCtlRead i copy slot off len) s = .next (ended s (answerOn u p r rcDenied 0 []))) ∧
    (holdsFor u r.src copy = true → slot < slotCount u → off + len ≤ shSlotSize u →
      let a := slotAddr u copy slot + off
      let w := hbmTouch u hintNormal a len
      exec (.shadowCtlRead i copy slot off len) s =
        .next (ended s (if poisoned u a len then answerOn w p r rcPoisoned 0 [] else answerOn w p r 0 0 (u.bytes a len))))) ∧
  -- a command that finds no request of its kind does nothing
  (∀ (s : State) (i copy base att off slot len : Nat) (places : List (Nat × Nat)) (t : SnapTrailer),
    (inTake s i 0x28 = none → exec (.shadowData i copy base att off places) s = .next (ended s s)) ∧
    (inTake s i 0x29 = none → exec (.shadowTrailer i t) s = .next (ended s s) ∧ exec (.snapAck i copy base) s = .next (ended s s) ∧
      exec (.shadowCtlRead i copy slot off len) s = .next (ended s s)))


/-- Host commands start in their queue's turn. R3, R336, R337, R339-R341, R344, R345, R350, with every branch, for the rows COPY, OPQ_WRITE, TASK,
CORE_CTL (three), ACCT_SNAPSHOT and the four Shadow commands: a row starts the front command of its queue in that queue's turn when it is legal
and of the row's kind, and otherwise does nothing; an absent unit ends it with UNIT_ABSENT, a client that may not give it with NOT_PERMITTED. A
COPY is divided into segments or ends with the status of its check; OPQ_WRITE on a queue of another client ends with NOT_PERMITTED, with its TODs
unread with HOST_DMA_ERROR, else starts its run; TASK with no core in its client's set ends with NO_CORE, unread with HOST_DMA_ERROR, else waits
for a core; CORE_CTL on a core that is not the client's ends with NOT_PERMITTED, else resumes the queue, cancels, or resets the core once nothing
cancelled holds its record; ACCT_SNAPSHOT of another function ends with NOT_PERMITTED, with the record unwritten with HOST_DMA_ERROR, else writes
it. BAD_COMMAND ends a front entry that is not legal, in its queue's turn, and does nothing otherwise. -/
def Obligations.HostCommandsStart : Prop :=
  -- R336, R337: a row starts the front command of its queue in the queue's turn, when it is legal and of the row's kind; else it does nothing
  (∀ (s : State) (i : Instr) (q : Nat) (k : CmdKind), hostRow i = some (q, k) →
    (∀ c, frontCmd s q = some c → queueTurn s q = true → cmdOk c.ent = true → cmdKind c.ent ≠ k) → exec i s = .next (ended s s)) ∧
  -- R3: the unit it names is absent; R337: its client may not give it
  (∀ (s : State) (i : Instr) (q : Nat) (k : CmdKind) (c : HCmd), hostRow i = some (q, k) → frontCmd s q = some c → queueTurn s q = true →
    cmdOk c.ent = true → cmdKind c.ent = k →
    (unitMissing (begun s q c) c.ent = true → exec i s = .next (ended s (overCmd (begun s q c) (running s c) stUnitAbsent))) ∧
    (unitMissing (begun s q c) c.ent = false → cmdPermitted (begun s q c) c.f c.ent = false →
      exec i s = .next (ended s (overCmd (begun s q c) (running s c) stNotPermitted)))) ∧
  -- R340
  (∀ (s : State) (q : Nat) (c : HCmd), Starts s q c → cmdKind c.ent = .copy →
    (cpCheck (begun s q c) c.f c.ent = 0 →
      exec (.copy q) s = .next (ended s (setCmd (begun s q c) { running s c with segs := cpSegs (cpLen c.ent) }))) ∧
    (cpCheck (begun s q c) c.f c.ent ≠ 0 →
      exec (.copy q) s = .next (ended s (overCmd (begun s q c) (running s c) (cpCheck (begun s q c) c.f c.ent))))) ∧
  -- R339, R344
  (∀ (s : State) (q : Nat) (fail : Bool) (c : HCmd), Starts s q c → cmdKind c.ent = .opqWrite →
    let sl := slotOf (begun s q c) (eF c.ent 20 0 16)
    (ownsCtx c.f (qCtx (begun s q c) sl (eF c.ent 22 0 2)) = false →
      exec (.opqWrite q fail) s = .next (ended s (overCmd (begun s q c) (running s c) stNotPermitted))) ∧
    (ownsCtx c.f (qCtx (begun s q c) sl (eF c.ent 22 0 2)) = true → fail = true →
      exec (.opqWrite q fail) s = .next (ended s (overCmd (raiseDma (begun s q c) q 1 (tdAddr c.ent)) (running s c) stHostDmaError))) ∧
    (ownsCtx c.f (qCtx (begun s q c) sl (eF c.ent 22 0 2)) = true → fail = false →
      exec (.opqWrite q fail) s = .next (ended s (startRun (setCmd (begun s q c) { running s c with link := c.link + 128 * tdCount c.ent })
        (running s c) sl (eF c.ent 22 0 2) none)))) ∧
  -- R339, R341
  (∀ (s : State) (q : Nat) (fail : Bool) (c : HCmd), Starts s q c → cmdKind c.ent = .task →
    let u := begun s q c
    let any := (upto 256).any (fun n => allowed u c.f n && coreBuilt u n && !offline u n && !dedicated u n)
    (any = false → exec (.task q fail) s = .next (ended s (overCmd u (running s c) stNoCore))) ∧
    (any = true → fail = true →
      exec (.task q fail) s = .next (ended s (overCmd (raiseDma u q 1 (tdAddr c.ent)) (running s c) stHostDmaError))) ∧
    (any = true → fail = false →
      exec (.task q fail) s = .next (ended s ((setCmd u { running s c with link := c.link + 128 * tdCount c.ent }).modHost (fun h => { h with
        tasks := h.tasks ++ [{ cmd := c.id, f := c.f, core := 0, stage := 0, saved := none }] }))))) ∧
  -- R345
  (∀ (s : State) (q a : Nat) (i : Instr) (c : HCmd), Starts s q c → cmdKind c.ent = .coreCtl a → hostRow i = some (q, .coreCtl a) →
    ownsCore (begun s q c) c.f (eF c.ent 8 0 16) = false →
    exec i s = .next (ended s (overCmd (begun s q c) (running s c) stNotPermitted))) ∧
  (∀ (s : State) (q : Nat) (c : HCmd), Starts s q c → ownsCore (begun s q c) c.f (eF c.ent 8 0 16) = true →
    let sl := slotOf (begun s q c) (eF c.ent 8 0 16)
    let t := cancelClient (begun s q c) sl c.f
    (cmdKind c.ent = .coreCtl 0 →
      exec (.coreCtlResume q) s = .next (ended s (overCmd (resumeQueue (begun s q c) sl (eF c.ent 11 0 2)) (running s c) stOK))) ∧
    (cmdKind c.ent = .coreCtl 1 → exec (.coreCtlCancel q) s = .next (ended s t)) ∧
    (cmdKind c.ent = .coreCtl 2 →
      exec (.coreCtlReset q) s = .next (ended s (if cancelHeld t sl c.f then t else overCmd (resetCore t sl) (running s c) stOK)))) ∧
  -- R339, R350
  (∀ (s : State) (q : Nat) (fail : Bool) (c : HCmd), Starts s q c → cmdKind c.ent = .acct →
    let a := eF c.ent 8 0 64
    let f := eF c.ent 16 0 8
    (c.f ≠ 0 → c.f ≠ f → exec (.acctSnapshot q fail) s = .next (ended s (overCmd (begun s q c) (running s c) stNotPermitted))) ∧
    (c.f = 0 ∨ c.f = f → fail = true →
      exec (.acctSnapshot q fail) s = .next (ended s (overCmd (raiseDma (begun s q c) q 1 a) (running s c) stHostDmaError))) ∧
    (c.f = 0 ∨ c.f = f → fail = false →
      exec (.acctSnapshot q fail) s = .next (ended s (overCmd (hostWrite (begun s q c) a (acctRecord (begun s q c) f))
        { running s c with link := c.link + 64 } stOK)))) ∧
  -- R337: an entry that is not legal
  (∀ (s : State) (q : Nat) (c : HCmd), frontCmd s q = some c → queueTurn s q = true → cmdOk c.ent = false →
    exec (.badCommand q) s = .next (ended s (overCmd (s.modHost (fun h => { h with rrQ := q })) { c with start := s.now } stBadCommand))) ∧
  (∀ (s : State) (q : Nat), (∀ c, frontCmd s q = some c → queueTurn s q = true → cmdOk c.ent = true) →
    exec (.badCommand q) s = .next (ended s s))


/-- RESTORE, LOCK, UNLOCK and VERIFY_RELEASE. R275, R277, R280: a restore that starts is kept with its slot and the region table; it is over with
SHADOW_BUSY while Cinch or an op queue is enabled, else the first 4,096 bytes are asked of the holder, with UNREACHABLE when it has no way. LOCK
and UNLOCK complete with the status of the lock: a COMPLETE slot held for that source and copy becomes LOCKED, a LOCKED one COMPLETE, bit 2 of the
header's flags follows (bits 1:0 stay) and no other byte of memory changes; any other slot gives NO_SLOT and changes nothing. VERIFY_RELEASE
signals the held FINAL event and ends with OK, or with BAD_FIELD when none is held. -/
def Obligations.ShadowCommands : Prop :=
  -- R277: a restore begins: with Cinch enabled or an op queue on it is refused, else the slot's first bytes are read
  (∀ (s : State) (q : Nat) (c : HCmd), Starts s q c → cmdKind c.ent = .shadow 1 →
    exec (.restore q) s = .next (ended s (restoreBegin (begun s q c) c.id (eF c.ent 16 0 12) (eF c.ent 16 12 2) (eF c.ent 16 14 2)))) ∧
  (∀ (s : State) (cmd holder copy slot : Nat),
    let j : Restore := { cmd := cmd, holder := holder, copy := copy, slot := slot, head := [], regions := regionTable s, region := 0, taken := 0
                         crc := 0, st := none }
    let t := s.modShadow (fun h => { h with rests := h.rests.filter (fun x => x.cmd ≠ cmd) ++ [j] })
    (cinchEn t = true ∨ anyQueueOn t = true → restoreBegin s cmd holder copy slot = restoreOver t j stShadowBusy) ∧
    (cinchEn t = false → anyQueueOn t = false →
      ∀ u ok, sendCtl (setRestore t j) holder 2 [copy, slot, 0, 4096] (.restore cmd) = (u, ok) →
        restoreBegin s cmd holder copy slot = if ok then u else restoreOver u j stShadowUnreachable)) ∧
  -- R275
  (∀ (s : State) (q : Nat) (c : HCmd), Starts s q c → cmdKind c.ent = .shadow 2 →
    let r := lockSlot (begun s q c) (eF c.ent 16 0 12) (eF c.ent 16 12 2) (eF c.ent 16 14 2) true
    exec (.lock q) s = .next (ended s (overCmd r.1 (running s c) r.2))) ∧
  (∀ (s : State) (q : Nat) (c : HCmd), Starts s q c → cmdKind c.ent = .shadow 3 →
    let r := lockSlot (begun s q c) (eF c.ent 16 0 12) (eF c.ent 16 12 2) (eF c.ent 16 14 2) false
    exec (.unlock q) s = .next (ended s (overCmd r.1 (running s c) r.2))) ∧
  -- R280
  (∀ (s : State) (q : Nat) (c : HCmd), Starts s q c → cmdKind c.ent = .shadow 4 → s.shadow.heldEv = true →
    exec (.verifyRelease q) s =
      .next (ended s (overCmd (signalFinal ((begun s q c).modShadow (fun h => { h with heldEv := false }))) (running s c) stOK))) ∧
  (∀ (s : State) (q : Nat) (c : HCmd), Starts s q c → cmdKind c.ent = .shadow 4 → s.shadow.heldEv = false →
    exec (.verifyRelease q) s = .next (ended s (overCmd (begun s q c) (running s c) stBadField))) ∧
  -- R275: a COMPLETE slot is locked and a LOCKED one unlocked: bit 2 of the header's flags and the slot's state; no other byte changes
  (∀ (s : State) (src copy slot : Nat) (lock : Bool), 1 ≤ copy → copy ≤ 2 → slot < slotCount s → slotSt s (slotV copy slot) = (if lock then 2 else 3) →
    (∃ h ∈ s.shadow.slots, h.v = slotV copy slot ∧ h.src = src ∧ h.copy = copy) → poisoned s (slotAddr s copy slot) 64 = false →
    slotAddr s copy slot % 64 = 0 → slotAddr s copy slot + 64 ≤ hbmTop →
    ∃ t, lockSlot s src copy slot lock = (t, 0) ∧ slotSt t (slotV copy slot) = (if lock then 3 else 2) ∧ MemBut (slotAddr s copy slot + 18) 1 s t ∧
      t.num (slotAddr s copy slot + 18) 1 = s.num (slotAddr s copy slot + 18) 1 % 4 + 4 * b2n lock) ∧
  (∀ (s : State) (src copy slot : Nat) (lock : Bool),
    (copy = 0 ∨ 2 < copy ∨ slotCount s ≤ slot ∨ slotSt s (slotV copy slot) ≠ (if lock then 2 else 3) ∨
      (∀ h ∈ s.shadow.slots, h.v = slotV copy slot → h.src = src → h.copy ≠ copy)) → lockSlot s src copy slot lock = (s, stShadowNoSlot))


/-- Doorbells, fetched entries, overruns, completion entries and their messages. R334-R339, with every branch: a doorbell page that names no queue
does nothing; SQ_DOORBELL records the tail, wakes firmware and fetches, CQ_DOORBELL records the head, writes held entries and fetches; one entry
beyond the head becomes a waiting command with its 64 bytes; a ring read that fails raises HOST_DMA and halts the queue with cause 2; a tail past
the ring halts it with cause 1 and raises QUEUE_OVERRUN; CQ_HEAD takes the written value. A command that is over, by itself or by its work, ends
its task or resets its core where its kind says so; its entry is written, or held while the ring is full, or held with the queue halted and
HOST_DMA raised when the access fails; QUIET with OK writes none; one that is not over or not there changes nothing. A written entry stands at
CQ_TAIL in host memory, CQ_TAIL moves on by one and the command is gone. Pending entries bring one message when the timer ends, otherwise nothing. -/
def Obligations.HostQueuesAndCompletions : Prop :=
  -- R334, R335: a doorbell at a page that is no queue does nothing; else it is recorded, firmware woken, and entries are fetched
  (∀ (s : State) (f i : Nat) (v : Word32) (fail : Option Nat), queueAt s f i = none →
    exec (.sqDoorbell f i v fail) s = .next (ended s s) ∧ exec (.cqDoorbell f i v) s = .next (ended s s)) ∧
  (∀ (s : State) (f i q : Nat) (v : Word32) (fail : Option Nat), queueAt s f i = some q →
    exec (.sqDoorbell f i v fail) s =
      .next (ended s (fetch 65536 (sqOverrun (((vfSeen s f).setF (rQ q 0x20) 0 32 v.toNat).emit (.wake q)) q) q fail)) ∧
    exec (.cqDoorbell f i v) s = .next (ended s (fetch 65536 (releaseCpl 65536 ((vfSeen s f).setF (rQ q 0x20) 32 32 v.toNat) q) q none))) ∧
  (∀ (s : State) (q : Nat) (v : Word32), q < 4096 → hqEn s q = true → hqHalted s q = false → v.toNat = (hqHead s q + 1) % 2 ^ 32 → 1 ≤ hqSq s q →
    frozen s = false → heldCmds s q = [] →
    ∃ t, exec (.sqDoorbell 0 q v none) s = .next t ∧ hqTail t q = v.toNat ∧ hqHead t q = v.toNat ∧
      t.host.cmds = s.host.cmds ++ [{ id := s.host.nextCmd, q := q, f := hqFunc s q
                                      ent := s.num (hostA ((s.rd (rQ q 0)).toNat + 64 * (hqHead s q % hqSq s q))) 64, stage := 0, start := s.now
                                      status := 0, segs := 0, segRes := [], prefix_ := 0, detail := 0, hbm := 0, link := 0 }] ∧
      SameRegs [rQ q 0x20, rQ q 0x18] s t ∧ SameMem s t ∧ SameCores [] s t) ∧
  -- R335: a ring read that fails halts the queue with cause 2 and raises HOST_DMA
  (∀ (s : State) (n q : Nat), hqEn s q = true → hqHalted s q = false → frozen s = false → hqHead s q ≠ hqTail s q → heldCmds s q = [] →
    fetch (n + 1) s q (some 0) = haltQueue (raiseDma s q 0 ((s.rd (rQ q 0)).toNat + 64 * (hqHead s q % hqSq s q))) q 2) ∧
  -- R334: a tail past the ring halts the queue
  (∀ (s : State) (q : Nat) (v : Word32), q < 4096 → hqEn s q = true → hqHalted s q = false → hqSq s q < subMod 32 v.toNat (hqHead s q) →
    ∃ t, exec (.sqDoorbell 0 q v none) s = .next t ∧ hqHalted t q = true ∧ t.f (rQ q 0x18) 33 2 = 1 ∧ t.host = s.host ∧
      t.raises = (s.raise .queueOverrun 0 (packBits [(q, 0, 12), (v.toNat, 12, 32)])).raises ∧ SameRegs [rQ q 0x20, rQ q 0x18] s t ∧
      SameMem s t ∧ SameCores [] s t) ∧
  -- R338: completion slots are freed
  (∀ (s : State) (q : Nat) (v : Word32), q < 4096 → heldCmds s q = [] → (hqEn s q = false ∨ hqHead s q = hqTail s q) →
    ∃ t, exec (.cqDoorbell 0 q v) s = .next t ∧ hqCqHead t q = v.toNat ∧ SameRegs [rQ q 0x20] s t ∧ SameMem s t ∧ SameCores [] s t ∧ t.host = s.host) ∧
  -- R338, R339: a command that is over (`d`: itself, or what its work gives) has its entry written, held while the ring is full, or held with the
  -- queue halted where the host access fails; QUIET with OK writes none
  (∀ (s : State) (id : Nat) (fail : Bool),
    (s.host.cmds.find? (fun c => c.id = id && (c.stage = 1 || c.stage = 2)) = none → exec (.commandComplete id fail) s = .next (ended s s)) ∧
    (∀ c, s.host.cmds.find? (fun c => c.id = id && (c.stage = 1 || c.stage = 2)) = some c → c.stage ≠ 2 → cmdOver s c = none →
      exec (.commandComplete id fail) s = .next (ended s s)) ∧
    (∀ c d, s.host.cmds.find? (fun c => c.id = id && (c.stage = 1 || c.stage = 2)) = some c →
      (c.stage = 2 ∧ d = c ∨ c.stage ≠ 2 ∧ cmdOver s c = some d) →
      let u := if cmdKind d.ent = .task then endTask s d.id
        else if c.stage = 1 ∧ cmdKind d.ent = .coreCtl 2 then resetCore s (slotOf s (eF d.ent 8 0 16)) else s
      (eQuiet d.ent = true → d.status = stOK → exec (.commandComplete id fail) s = .next (ended s (writeCpl u d))) ∧
      ((eQuiet d.ent = false ∨ d.status ≠ stOK) → cqFull u d.q = true →
        exec (.commandComplete id fail) s = .next (ended s (setCmd u { d with stage := 3 }))) ∧
      ((eQuiet d.ent = false ∨ d.status ≠ stOK) → cqFull u d.q = false → fail = true →
        exec (.commandComplete id fail) s = .next (ended s (setCmd
          (haltQueue (raiseDma u d.q 2 ((u.rd (rQ d.q 8)).toNat + 32 * (hqCqTail u d.q % hqCq u d.q))) d.q 2) { d with stage := 3 }))) ∧
      ((eQuiet d.ent = false ∨ d.status ≠ stOK) → cqFull u d.q = false → fail = false →
        exec (.commandComplete id fail) s = .next (ended s (writeCpl u d))))) ∧
  -- R338: the written entry stands at CQ_TAIL, which moves on, and the command is gone
  (∀ (s : State) (c : HCmd), c.q < 4096 → c.f ≤ 64 → (eQuiet c.ent = false ∨ c.status ≠ stOK) →
    (writeCpl s c).bytes (hostA ((s.rd (rQ c.q 8)).toNat + 32 * (hqCqTail s c.q % hqCq s c.q))) 32 = cplEntry s c ∧
    hqCqTail (writeCpl s c) c.q = (hqCqTail s c.q + 1) % 2 ^ 32 ∧ ∀ x ∈ (writeCpl s c).host.cmds, x.id ≠ c.id) ∧
  -- R338: pending entries bring one message
  (∀ (s : State) (q : Nat), look 0 s.host.coal q ≠ 0 → s.f (rQ q 0x10) 51 8 ≠ 0 →
    exec (.coalTimeout q) s = .next (ended s ((s.modHost (fun h => { h with coal := put 0 h.coal q 0 })).sendMsix (hqFunc s q) (s.f (rQ q 0x10) 32 11)))) ∧
  (∀ (s : State) (q : Nat), look 0 s.host.coal q = 0 ∨ s.f (rQ q 0x10) 51 8 = 0 → exec (.coalTimeout q) s = .next (ended s s))


/-- Copies, task placement, pre-emption, scrubbing, restoring and energy shares. R339-R349, with every branch: a segment of a running copy not yet
done ends with OK, with MEM_UNCORR where it reads poison or writes into a retired or poisoned place, or with HOST_DMA_ERROR where a host access
failed (raised; a device to device copy has none), its destination then free; the copy's bytes are charged; another segment does nothing. A copy
ends with OK and its length, with the first segment's status when all failed, or with PARTIAL, PREFIX and DETAIL of the first that failed. A
waiting task takes the lowest free core of its set when it is the best for it; with none free and pre-emption on, a victim's core stops issuing
and is promised to the task; otherwise, frozen, or held safe, nothing happens. A victim with nothing in flight is saved to the lowest free slot,
counted and raised as PREEMPT, and its core passes on; with operations in flight it waits. A scrubbed core runs its task; a restored one has its
accumulators and tags again, its task runs and the save slot is free. A command for no task in its stage does nothing. Energy since the last time
is divided among the operations in flight in proportion to their times (rounding down: log 59). -/
def Obligations.TasksAndCopies : Prop :=
  -- R339, R340: a segment that is not there to be done
  (∀ (s : State) (id seg : Nat) (fail : Bool),
    (∀ c, s.host.cmds.find? (fun c => c.id = id && c.stage = 1 && cmdKind c.ent = .copy) = some c →
      c.segs ≤ seg ∨ ∃ p ∈ c.segRes, p.1 = seg) → exec (.copySegmentDone id seg fail) s = .next (ended s s)) ∧
  -- a segment ends with OK, with MEM_UNCORR, or with HOST_DMA_ERROR where a host access of it failed
  (∀ (s : State) (id seg : Nat) (fail : Bool) (c : HCmd), s.host.cmds.find? (fun c => c.id = id && c.stage = 1 && cmdKind c.ent = .copy) = some c →
    seg < c.segs → (∀ p ∈ c.segRes, p.1 ≠ seg) →
    let e := c.ent
    let o := (cpRange (cpLen e) seg).1
    let n := (cpRange (cpLen e) seg).2
    let outcome (st : Nat) : HCmd := { c with
      segRes := c.segRes ++ [(seg, st)], hbm := c.hbm + (if cpDir e = 2 then 2 * n else n), link := c.link + (if cpDir e = 2 then 0 else n) }
    (fail = true → cpDir e ≠ 2 → exec (.copySegmentDone id seg fail) s =
      .next (ended s (setCmd (cpSpoil (raiseDma s c.q 1 (cpHost e + o)) c.f e o n) (outcome stHostDmaError)))) ∧
    (fail = false ∨ cpDir e = 2 → cpDir e ≠ 0 → poisoned s (cpDev e + o) n = true → exec (.copySegmentDone id seg fail) s =
      .next (ended s (setCmd (cpSpoil (cpRead s c.f (cpDev e + o) n) c.f e o n) (outcome stMemUncorr)))) ∧
    (fail = false ∨ cpDir e = 2 → cpDir e = 0 ∨ poisoned s (cpDev e + o) n = false →
      exec (.copySegmentDone id seg fail) s = .next (ended s (if (cpMove s c.f e o n).memBad
        then setCmd (cpSpoil (cpMove s c.f e o n) c.f e o n) (outcome stMemUncorr) else setCmd (cpMove s c.f e o n) (outcome stOK))))) ∧
  -- R340: what a copy ends with
  (∀ c : HCmd, (∀ i ∈ upto c.segs, look 0 c.segRes i = 0) → cpResult c = { c with stage := 2, status := 0, prefix_ := cpLen c.ent }) ∧
  (∀ (c : HCmd) (i : Nat) (rest : List Nat), (upto c.segs).filter (fun i => look 0 c.segRes i ≠ 0) = i :: rest →
    cpResult c = if rest.length + 1 = c.segs then { c with stage := 2, status := look 0 c.segRes 0, detail := look 0 c.segRes 0 }
      else { c with stage := 2, status := stPartial, prefix_ := i * cpSeg (cpLen c.ent), detail := look 0 c.segRes i + 65536 * i }) ∧
  -- R342: a waiting task goes to the lowest free core of its set, in its turn
  (∀ (s : State) (id n : Nat) (t : HTask), s.host.tasks.find? (fun t => t.cmd = id && t.stage = 0) = some t → frozen s = false →
    heldSafe s = false → (upto 256).find? (fun n => allowed s t.f n && coreFree s n) = some n →
    (∀ x, bestTask s n = some x → x.cmd = id → exec (.taskPlace id) s = .next (ended s (giveCore s t n))) ∧
    ((∀ x, bestTask s n = some x → x.cmd ≠ id) → exec (.taskPlace id) s = .next (ended s s))) ∧
  -- R346: with none free a victim's queue stops issuing
  (∀ (s : State) (id : Nat) (t : HTask), s.host.tasks.find? (fun t => t.cmd = id && t.stage = 0) = some t → frozen s = false →
    heldSafe s = false → (upto 256).find? (fun n => allowed s t.f n && coreFree s n) = none →
    (s.fb (engineBase + 0x50040) 0 = false ∨ victim s t.f = none → exec (.taskPlace id) s = .next (ended s s)) ∧
    (∀ v, s.fb (engineBase + 0x50040) 0 = true → victim s t.f = some v →
      let u := setTask (setTask s { v with stage := 4 }) { t with stage := 1, core := v.core }
      exec (.taskPlace id) s = .next (ended s (u.modCore (slotOf u v.core) (fun c => { c with stopIssue := true }))))) ∧
  (∀ (s : State) (id : Nat), s.host.tasks.find? (fun t => t.cmd = id && t.stage = 0) = none ∨ frozen s = true ∨ heldSafe s = true →
    exec (.taskPlace id) s = .next (ended s s)) ∧
  -- R347: with nothing in flight the victim's state is saved and its core passes on
  (∀ (s : State) (core : Nat) (t : HTask), s.host.tasks.find? (fun t => t.stage = 4 && t.core = core) = some t →
    ((s.core (slotOf s core)).ops ≠ [] → exec (.preemptSaveDone core) s = .next (ended s s)) ∧
    ((s.core (slotOf s core)).ops = [] →
      let k := saveSlot s t.f
      let new := (s.host.tasks.find? (fun x => x.stage = 1 && x.core = core)).map (fun x => x.f)
      exec (.preemptSaveDone core) s = .next (ended s (passCore (((freeCore (saveCore s t k) core t.f).addCtr (clientBase t.f + 0x68) 1).raise
        .preempt 0 (packBits [(core, 0, 8), (t.f, 8, 7), (new.getD 0, 15, 7), (k, 22, 8)])) core)))) ∧
  -- R343: the scrubbed core runs its task
  (∀ (s : State) (core : Nat) (t : HTask), s.host.tasks.find? (fun t => t.stage = 2 && t.core = core) = some t →
    exec (.coreScrubDone core) s = .next (ended s (runTask (scrubCore s (slotOf s core)) t))) ∧
  -- R348: the restored task runs, and its save slot is free again
  (∀ (s : State) (core : Nat) (t : HTask) (v : Saved), s.host.tasks.find? (fun t => t.stage = 5 && t.core = core) = some t → t.saved = some v →
    ∃ u, exec (.taskRestoreDone core) s = .next u ∧ (∀ x ∈ u.host.tasks, x.cmd = t.cmd → x.stage = 3 ∧ x.saved = none) ∧
      (u.core (slotOf s core)).acc = v.acc ∧ (u.core (slotOf s core)).tags = v.tags) ∧
  -- no task in the stage that a command ends
  (∀ (s : State) (core : Nat), (s.host.tasks.find? (fun t => t.stage = 4 && t.core = core) = none → exec (.preemptSaveDone core) s = .next (ended s s)) ∧
    (s.host.tasks.find? (fun t => t.stage = 2 && t.core = core) = none → exec (.coreScrubDone core) s = .next (ended s s)) ∧
    ((∀ t, s.host.tasks.find? (fun t => t.stage = 5 && t.core = core) = some t → t.saved = none) →
      exec (.taskRestoreDone core) s = .next (ended s s))) ∧
  -- R349: energy is divided in proportion to the time each operation in flight ran
  (∀ (s : State) (sl : Nat) (shares : List (Nat × Nat)),
    let e := (s.rd (rEnergyCore sl)).toNat
    let live := shares.filter (fun p => (s.core sl).ops.any (fun o => o.live && o.tag = p.1))
    let total := sumN (live.map (fun p => p.2))
    ∃ t, exec (.energyApportion sl shares) s = .next t ∧
      (t.core sl).ops = (s.core sl).ops.map (fun o => if o.live && total ≠ 0 then { o with
        nj := o.nj + subMod 64 e (look 0 s.host.njLast sl) * look 0 live o.tag / total } else o) ∧
      look 0 t.host.njLast sl = e ∧ SameRegs [] s t ∧ SameMem s t ∧ SameCores [sl] s t)


/-- FLR of a function, of PF0, and the host interface reset. R351, R352, R394: an FLR of functions 1 to 64 resets that function alone, that of
function 0 (PF0) clears VF Enable and resets every VF, a host interface reset resets every function, and an FLR of a function that does not exist
does nothing. After the reset of a function none of its commands, tasks, pending messages or enabled vectors is left (the order within: log 60). -/
def Obligations.FunctionResets : Prop :=
  (∀ (s : State) (f : Nat), 1 ≤ f → f ≤ 64 → exec (.flr f) s = .next (ended s (flrOne s f))) ∧
  (∀ (s : State) (f : Nat), 64 < f → exec (.flr f) s = .next (ended s s)) ∧
  (∀ s : State, exec (.flr 0) s = .next (ended s ((fromLen 1 63).foldl flrOne ((flrOne s 0).modHost (fun h => { h with vfEnable := false }))))) ∧
  (∀ s : State, exec .hostInterfaceReset s =
    .next (ended s (flrOne ((fromLen 1 63).foldl flrOne ((flrOne s 0).modHost (fun h => { h with vfEnable := false }))) 64))) ∧
  -- R351: nothing of the function's commands, tasks and messages is left
  (∀ (s : State) (f : Nat), f ≤ 64 → (∀ c ∈ (flrOne s f).host.cmds, c.f ≠ f) ∧ (∀ t ∈ (flrOne s f).host.tasks, t.f ≠ f) ∧
    (∀ p ∈ (flrOne s f).host.msixPend, p.1 ≠ f) ∧ (∀ p ∈ (flrOne s f).host.msixOn, p.1 ≠ f))


/-- Pattern checkers, the PPS discipline and management messages. R409, R418, with every branch: a lane's checker locks once in a running PRBS
measurement and otherwise nothing happens; a locked one with at least 8 errors unlocks with its errors and bits counted and PRBS_UNLOCK raised,
otherwise nothing happens. At an edge a time base under discipline keeps the offset, adjusts its rate by its negative within 200 ppm, counts good
edges in a row (offset within 50 ns) and is LOCKED from the third on; the offset is that from the nearest second; a time that TB_SET asked for is
taken when the time base has not passed it and forgotten when it has; without either nothing happens. A lost PPS unlocks, forgets the good edges
and raises PPS_LOST under discipline, and does nothing without. A management message is passed on. What each leaves unchanged is named clause by
clause. -/
def Obligations.PatternCheckersAndTime : Prop :=
  (∀ (s : State) (p lane : Nat), p < 18 → lane < 9 → awlIn s p 1 = true → awlState s p = 1 → lane ∉ (s.awlp p).locked →
    ∃ t, exec (.prbsLock p lane) s = .next t ∧ (t.awlp p).locked = (s.awlp p).locked ++ [lane] ∧ SameMem s t ∧ SameCores [] s t ∧
      t.outbox = s.outbox ∧ t.raises = s.raises) ∧
  (∀ (s : State) (p lane : Nat), 18 ≤ p ∨ 9 ≤ lane ∨ awlIn s p 1 = false ∨ awlState s p ≠ 1 ∨ lane ∈ (s.awlp p).locked →
    exec (.prbsLock p lane) s = .next (ended s s)) ∧
  (∀ (s : State) (p lane bits errs : Nat), p < 18 → lane < 9 → awlIn s p 1 = true → lane ∈ (s.awlp p).locked → 8 ≤ errs → errs ≤ bits →
    ∃ t, exec (.prbsUnlock p lane bits errs) s = .next t ∧ lane ∉ (t.awlp p).locked ∧
      t.rd (awlBase p + 0x200 + 8 * lane) = s.rd (awlBase p + 0x200 + 8 * lane) + BitVec.ofNat 64 errs ∧
      t.rd (awlBase p + 0x280 + 8 * lane) = s.rd (awlBase p + 0x280 + 8 * lane) + BitVec.ofNat 64 bits ∧
      t.raises = (s.raise .prbsUnlock 0 (packBits [(p, 0, 5), (lane, 5, 4)])).raises ∧ SameMem s t ∧ SameCores [] s t) ∧
  (∀ (s : State) (p lane bits errs : Nat), 18 ≤ p ∨ awlIn s p 1 = false ∨ lane ∉ (s.awlp p).locked ∨ errs < 8 ∨ bits < errs →
    exec (.prbsUnlock p lane bits errs) s = .next (ended s s)) ∧
  -- R418: an edge disciplines the time base when that is enabled (its offset is kept and the rate follows it), LOCKED after three good edges in a
  -- row, and the time base takes the seconds that TB_SET asked for unless it has passed them
  (∀ (s : State), s.fb rTbCtl 0 = false → s.time.tbSet = none → exec .ppsEdge s = .next (ended s s)) ∧
  (∀ (s : State) (k : Nat), s.time.tbSet = some k → s.now ≤ k * 1000000000 →
    ∃ t, exec .ppsEdge s = .next t ∧ t.now = k * 1000000000 ∧ t.time.tbSet = none ∧ SameRegs [rTbCtl] s t ∧ SameMem s t ∧ SameCores [] s t) ∧
  (∀ (s : State) (k : Nat), s.time.tbSet = some k → k * 1000000000 < s.now →
    ∃ t, exec .ppsEdge s = .next t ∧ t.now = s.now ∧ t.time.tbSet = none ∧ SameRegs [rTbCtl] s t ∧ SameMem s t ∧ SameCores [] s t) ∧
  (∀ (s : State), s.fb rTbCtl 0 = true →
    let off := ppsOffset s.now
    ∃ t, exec .ppsEdge s = .next t ∧ t.time.good = (if off.natAbs ≤ 50 then s.time.good + 1 else 0) ∧
      t.time.adj = max (-200000) (min 200000 (-off)) ∧ t.f rTbCtl 32 32 = (off % 2 ^ 32).toNat ∧
      t.fb rTbCtl 1 = (s.fb rTbCtl 1 || 3 ≤ t.time.good) ∧ (s.time.tbSet = none → t.now = s.now) ∧ SameRegs [rTbCtl] s t ∧ SameMem s t ∧ SameCores [] s t) ∧
  (∀ t : Nat, -500000000 ≤ ppsOffset t ∧ ppsOffset t < 500000000 ∧ ∃ k : Int, (t : Int) = 1000000000 * k + ppsOffset t) ∧
  (∀ (s : State), s.fb rTbCtl 0 = true →
    ∃ t, exec .ppsLost s = .next t ∧ t.fb rTbCtl 1 = false ∧ t.time.good = 0 ∧
      t.raises = (s.raise .ppsLost 0 (s.f rTbCtl 32 32)).raises ∧ SameRegs [rTbCtl] s t ∧ SameMem s t ∧ SameCores [] s t) ∧
  (∀ (s : State), s.fb rTbCtl 0 = false → exec .ppsLost s = .next (ended s s)) ∧
  (∀ (s : State) (bs : List Byte), exec (.mctpMessage bs) s = .next (ended s (s.emit (.mctp bs))))


/-- Margin runs and the memory-path generator end with their counts. R415, R416, with every branch: a running margin run ends with its errors and bits
and STATE 2, or aborted with STATE 3 and MARGIN_ABORT raised; MEM_GEN in a run writes its pattern to host memory or to its HBM range (which it
reads back), counts errors and latencies and has STATE 2; when nothing runs the two commands do nothing. -/
def Obligations.GeneratorsAndMargins : Prop :=
  -- R416: a margining run ends with its counts, or with STATE = 3 and MARGIN_ABORT where its lane changed
  (∀ (s : State) (errors bits : Nat), s.f marginBase 25 2 = 1 → errors < 2 ^ 32 → bits < 2 ^ 32 →
    ∃ t, exec (.marginRunEnd errors bits false) s = .next t ∧ t.f marginBase 25 2 = 2 ∧ t.f (marginBase + 8) 0 32 = errors ∧
      t.f (marginBase + 8) 32 32 = bits ∧ SameRegs [marginBase, marginBase + 8] s t ∧ SameMem s t ∧ SameCores [] s t ∧ t.raises = s.raises) ∧
  (∀ (s : State) (errors bits : Nat), s.f marginBase 25 2 = 1 →
    ∃ t, exec (.marginRunEnd errors bits true) s = .next t ∧ t.f marginBase 25 2 = 3 ∧ SameRegs [marginBase] s t ∧ SameMem s t ∧
      SameCores [] s t ∧ t.raises = (s.raise .marginAbort 0 (packBits [(s.f marginBase 0 3, 0, 3), (s.f marginBase 3 2, 3, 2),
        (s.f marginBase 5 4, 5, 4), (s.f marginBase 9 7, 9, 7)])).raises) ∧
  (∀ (s : State) (errors bits : Nat) (ab : Bool), s.f marginBase 25 2 ≠ 1 → exec (.marginRunEnd errors bits ab) s = .next (ended s s)) ∧
  -- R415: the memory-path generator ends: the range holds its pattern, differing bytes and latencies are counted, and STATE is 2
  (∀ (s : State) (lats : List Nat) (errors : Nat), s.f memGenBase 8 2 = 1 → s.fb memGenBase 0 = true →
    exec (.memGenDone lats errors) s = .next (ended s ((lats.foldl (fun s l => addLatency s memGenBase l)
      ((hostWrite s (s.rd (memGenBase + 0x10)).toNat (patBytes s memGenBase (genLen s))).addCtr (memGenBase + 0x18) errors)).setF memGenBase 8 2 2))) ∧
  (∀ (s : State) (lats : List Nat) (errors : Nat), s.f memGenBase 8 2 = 1 → s.fb memGenBase 0 = false →
    exec (.memGenDone lats errors) s = .next (ended s ((lats.foldl (fun s l => addLatency s memGenBase l)
      ((hbmTouch (hbmWrite s hintNormal (genAddr s) (patBytes s memGenBase (genLen s))) hintNormal (genAddr s) (genLen s)).addCtr
        (memGenBase + 0x18) errors)).setF memGenBase 8 2 2))) ∧
  (∀ (s : State) (lats : List Nat) (errors : Nat), s.f memGenBase 8 2 ≠ 1 → exec (.memGenDone lats errors) s = .next (ended s s))


/-- The traffic generator of a link, and fault injection. R410, R414, with every branch: the generator of a running measurement with room issues its
next request with its VC, destination, operation, address and pattern and ends after COUNT (its TAG is free, log 17), and otherwise nothing
happens; an injection of kind 1 to 5 on a live port given to it is due after PERIOD flits until INJ_COUNT and is counted, and otherwise nothing
happens; one that lasts (ACK_DROP, CREDIT_STARVE) ends, on its port alone, and where none lasts the command does nothing. -/
def Obligations.LinkGeneratorAndInjection : Prop :=
  (∀ (s : State) (p : Nat), portUp s p = true → awlIn s p 2 = true → awlState s p = 1 → genRoom s p = true →
    let b := awlBase p
    let t := s.freeWord.1
    let s1 := s.freeWord.2
    let r : WReq := { vc := s1.f (b + 8) 0 3, src := ownPkg s1, dst := s1.f (b + 0x10) 48 12, tag := t % 2 ^ 14, reqId := s1.wen.nextId, op := s1.f (b + 8) 8 8, flags := s1.f (b + 8) 16 8, code := 0, arg := s1.f (b + 0x10) 0 48, data := patBytes s1 b (s1.f (b + 0x20) 32 13) }
    let s2 := enqueue s1 p r.vc (flitsOf r)
    let s3 : State := { s2 with wen := { s2.wen with nextId := (s2.wen.nextId + 1) % 2 ^ 26, outs := s2.wen.outs ++ [⟨p, some p, r, WOrigin.awl p, false, s2.now⟩] } }
    let n := (s3.awlp p).issued + 1
    let s4 := s3.setAwlp p { s3.awlp p with issued := n }
    exec (.awlGenIssue p) s = .next (ended s (if s.f (b + 8) 40 24 ≠ 0 && n = s.f (b + 8) 40 24 then setAwlState s4 p 2 else s4))) ∧
  (∀ (s : State) (p : Nat), portUp s p = false ∨ awlIn s p 2 = false ∨ awlState s p ≠ 1 ∨ genRoom s p = false →
    exec (.awlGenIssue p) s = .next (ended s s)) ∧
  -- R414: after PERIOD flits the next injection begins, up to COUNT
  (∀ (s : State) (p arg kind : Nat), p < 18 → s.f (awlBase p + 0x18) 0 3 = kind → 1 ≤ kind → kind ≤ 5 →
    (awlIn s p 3 = true ∨ (awlIn s p 2 = true ∧ kind ≤ 4)) → linkLive s p = true → (s.wport p).inj = 0 →
    s.f (awlBase p + 0x18) 16 16 ≤ (s.wport p).injN → (s.rd (awlBase p + 0x70)).toNat < s.f (awlBase p + 0x18) 32 16 →
    ∃ t, exec (.awlInject p arg) s = .next t ∧ (t.wport p).inj = kind ∧ (t.wport p).injArg = arg ∧ (t.wport p).injN = 0 ∧
      t.rd (awlBase p + 0x70) = s.rd (awlBase p + 0x70) + 1#64 ∧ SameMem s t ∧ SameCores [] s t) ∧
  (∀ (s : State) (p arg : Nat), 18 ≤ p ∨ s.f (awlBase p + 0x18) 0 3 = 0 ∨ 5 < s.f (awlBase p + 0x18) 0 3 ∨
      (awlIn s p 2 = false ∧ awlIn s p 3 = false) ∨ (s.f (awlBase p + 0x18) 0 3 = 5 ∧ awlIn s p 3 = false) ∨ linkLive s p = false ∨
      (s.wport p).inj ≠ 0 ∨ (s.wport p).injN < s.f (awlBase p + 0x18) 16 16 ∨
      s.f (awlBase p + 0x18) 32 16 ≤ (s.rd (awlBase p + 0x70)).toNat → exec (.awlInject p arg) s = .next (ended s s)) ∧
  (∀ (s : State) (p : Nat), p < 18 → ((s.wport p).inj = 2 ∨ (s.wport p).inj = 4) →
    ∃ t, exec (.injectionEnd p) s = .next t ∧ (t.wport p).inj = 0 ∧ (∀ x, x ≠ p → t.wport x = s.wport x) ∧ SameMem s t ∧ SameCores [] s t) ∧
  (∀ (s : State) (p : Nat), 18 ≤ p ∨ ((s.wport p).inj ≠ 2 ∧ (s.wport p).inj ≠ 4) → exec (.injectionEnd p) s = .next (ended s s))


/-- An INT32 tile element is the exact sum modulo 2^32, and INT_WRAP says that a chunk left the range. For every start value and every list of
products, the element of INT32 mode is their exact sum modulo 2^32; its wrap flag is set exactly when the exact running value lies outside -2^31
to 2^31 - 1 after some chunk of 256 products; a tile with such an element sets INT_WRAP in the operation's flags. -/
def Obligations.IntegerTileSum : Prop :=
  (∀ (x0 : AccEl) (fp : Bool) (ab : List (FV × FV)), x0.code < 2 ^ 32 →
    let s0 := toSigned 32 x0.code
    let part (k : Nat) : Int := s0 + ((ab.take (256 * k)).map (fun p => fvInt p.1 * fvInt p.2)).sum
    let r := newElement .int32 fp x0 ab
    (r.1.code : Int) = (s0 + (ab.map (fun p => fvInt p.1 * fvInt p.2)).sum) % 2 ^ 32 ∧
    (r.2.2 = true ↔ ∃ k, part k < -(2 ^ 31) ∨ 2 ^ 31 ≤ part k) ∧ r.2.1 = false) ∧
  -- a tile with such an element sets INT_WRAP, bit 1 of the operation's flags
  (∀ (s : State) (sl tag : Nat) (o : Op) (els : List (Nat × AccEl)) (ls : Bool), opOf s sl tag = some o → o.stage = .running →
    1 ≤ o.opc → o.opc ≤ 3 → o.tile < tileCount o.tod → o.mode = .int32 →
    anyPoison s sl (tileRuns (dscD o.descs 0) (o.opc ≠ 2) (tileRowsOf o.tod o.tile) ++ tileRuns (dscD o.descs 1) (o.opc = 3) (tileColsOf o.tod o.tile)) = false →
    tileResult ⟨(opView s sl o).1, sl⟩ (opView s sl o).2 o
      (if mAccum o.tod && (s.core sl).tag (tileSlot o.tod o.mode o.tile) = .mode o.mode then (s.core sl).tile (tileSlot o.tod o.mode o.tile) else [])
      o.tile = (els, ls, true) →
    (mDrain o.tod = true ∨ tileNan o.tod o.tile o.mode els = none) →
    ∃ u o2, exec (.matrixTileDone sl tag []) s = .next (ended s (updOp u sl o2)) ∧ bitN o2.res.flags 1 = true ∧ o2.tile = o.tile + 1)


/-- Codes of the scalar formats stand for their values, and rounding is to nearest, toward zero, or stochastic. R42: every code of FP16, BF16 and FP32
that is no NaN is the code of the value it decodes to, and BF16 is the upper half of FP32. R52, R54: rounding a magnitude to p bits gives k units
of a power of two no finer than the format allows; RNE is within half a unit with ties to even, RTZ is the floor, and stochastic rounding goes up
exactly when the scaled remainder exceeds the random bits. -/
def Obligations.CodesAndRounding : Prop :=
  -- R42: a code that is no NaN is the code of the value it decodes to
  (∀ c, c < 2 ^ 16 → (dec16 c).isNan = false → enc16 (dec16 c) = c) ∧
  (∀ c, c < 2 ^ 16 → (decBf16 c).isNan = false → encBf16 (decBf16 c) = c) ∧
  (∀ c, c < 2 ^ 32 → (dec32 c).isNan = false → enc32 (dec32 c) = c) ∧
  -- BF16 is the upper half of FP32
  (∀ c, c < 2 ^ 16 → (decBf16 c).toEx.eq (dec32 (c * 2 ^ 16)).toEx = true ∧ (decBf16 c).isNan = (dec32 (c * 2 ^ 16)).isNan ∧
    (decBf16 c).isInf = (dec32 (c * 2 ^ 16)).isInf) ∧
  -- R52, R54: a magnitude n/d rounded to p bits is k units of 2^q, where N/D is the magnitude in those units
  (∀ (p : Nat) (emin : Int) (mode : Rnd) (r n d k : Nat) (q : Int), 0 < p → 0 < n → 0 < d → roundMag p emin mode r n d = (k, q) →
    let N := n * pow2D q
    let D := d * pow2N q
    emin ≤ q ∧ N < 2 ^ p * D ∧ (q = emin ∨ 2 ^ (p - 1) * D ≤ N) ∧
    (mode = .rne → 2 * k * D ≤ 2 * N + D ∧ 2 * N ≤ 2 * k * D + D ∧ (2 * N = 2 * k * D + D ∨ 2 * k * D = 2 * N + D → k % 2 = 0)) ∧
    (mode = .rtz → k * D ≤ N ∧ N < (k + 1) * D) ∧
    (mode = .stoch → k = N / D + (if r < N % D * 65536 / D then 1 else 0)))


/-- Output conversions flush below the smallest subnormal, saturate at the largest value, and never write a negative zero. R55-R57 for every format of
Table 2.2 and for INT8: a nonzero quotient below the smallest subnormal gives +0 and one underflow count; one beyond the largest finite value
gives that value with its sign and one saturate count; no finite quotient gives an infinity, a NaN, a negative zero or a trap. -/
def Obligations.ConversionLimits : Prop :=
  (∀ (f : Nat) (mode : Rnd) (r : Nat) (neg : Bool) (n d : Nat), f ≤ 11 → 0 < d →
    let F := ffmt f
    let o := roundFloat F mode r neg n d
    -- below the smallest subnormal: +0, counted
    (0 < n → n * pow2D F.minExp < d * pow2N F.minExp → o = ⟨0, 1, 0, false⟩) ∧
    -- beyond the largest finite value: that value with the sign, counted
    (F.maxFin.1 * pow2N F.maxFin.2 * d < n * pow2D F.maxFin.2 →
      o.und = 0 ∧ o.sat = 1 ∧ o.trap = false ∧ ∃ m e, F.dec o.code = .fin neg m e ∧ m * pow2N e * pow2D F.maxFin.2 = F.maxFin.1 * pow2N F.maxFin.2 * pow2D e) ∧
    -- never an infinity, a NaN or a negative zero
    (F.dec o.code).isInf = false ∧ (F.dec o.code).isNan = false ∧ o.code ≠ 2 ^ (F.e + F.m) ∧ o.trap = false) ∧
  (∀ (mode : Rnd) (r : Nat) (neg : Bool) (n d : Nat), 0 < d →
    let o := roundInt8 mode r neg n d
    (o.code = 0 → 0 < n → o.und = 1) ∧ ((if neg then 128 else 127) * d < n → o = ⟨if neg then 0x80 else 0x7F, 0, 1, false⟩) ∧
    o.code < 256 ∧ (n ≠ 0 → o.code ≠ 0 → (0x80 ≤ o.code ↔ neg = true)) ∧ o.trap = false)


/-- Commands of links, pins and meters leave memory, cores, host, Cinch and Shadow alone. For each of 33 commands (Girth timers, lanes and rerouting,
Wenlyn transmission, timers and training, a partner's SPDM requests and the answer to GET_MEASUREMENTS, supply and clock events, energy, checkers,
injection, margining and the time base): whenever it answers a next state, every byte of memory, every core, the host interface, Cinch, Shadow,
the messages in flight, the clock, regulator and repair state of the eight dies, the sites, the slices and the reservations are as before. (An
answer to one of the other five SPDM requests is not among them: when the partner fails authentication a LINK record may be written to a trace
ring.) -/
def Obligations.LinkCommandsLeaveTheRest : Prop :=
  ∀ (c : Instr) (s t : State), linkOnly c = true → exec c s = .next t →
    SameMem s t ∧ SameCores [] s t ∧ t.host = s.host ∧ t.cinch = s.cinch ∧ t.shadow = s.shadow ∧ t.net = s.net ∧
    (∀ d, d < 8 → t.die d = s.die d) ∧ t.sites = s.sites ∧ t.lines = s.lines ∧ t.lr = s.lr


/-- A kernel runs its instructions on its hart. R137-R139, R110. VEC_CALL sets pc to ENTRY, a0 to a4 to the arguments, a5 to the tag, every vector
register to zero and the rounding mode to nearest even. A run is its instructions in order, and one that stops without a trap goes on from there.
ADD, JAL and LD set their register and pc and no other; vadd.vv on 32-bit elements adds the elements of the body and leaves the others and every
other register; ecall, ebreak and a privileged instruction trap with their causes; a fetch that no window grants raises MEM_PROTECT and traps.
What the instructions do is that of the RISC-V standards the manual names (PRESUMED, log 119). -/
def Obligations.KernelHarts : Prop :=
  -- R138, R139: the start
  (∀ (s : State) (sl : Nat) (k : Kernel) (entry a0 a1 a2 a3 a4 : Nat), entry < 2 ^ 48 → a0 < 2 ^ 64 → a1 < 2 ^ 64 → a2 < 2 ^ 64 → a3 < 2 ^ 64 →
    a4 < 2 ^ 64 → k.tag < 2 ^ 14 →
    ((startKernel s sl k entry [a0, a1, a2, a3, a4]).core sl).kernel = some k ∧
    ∃ h, ((startKernel s sl k entry [a0, a1, a2, a3, a4]).core sl).hart = h ∧ h.pc.toNat = entry ∧ h.xr 0 = 0#64 ∧
      (h.xr 10).toNat = a0 ∧ (h.xr 11).toNat = a1 ∧ (h.xr 12).toNat = a2 ∧ (h.xr 13).toNat = a3 ∧ (h.xr 14).toNat = a4 ∧
      (h.xr 15).toNat = k.tag ∧ h.v = List.replicate 32 0#16384 ∧ h.frm = 0 ∧ h.fflags = 0) ∧
  -- a run is its instructions in order, and one that stops without a trap goes on from there
  (∀ (c : KCtx) (m n : Nat) (s : State) (h : Hart), hartRun c (m + n) s h =
    match hartRun c m s h with | (t, g, none) => hartRun c n t g | r => r) ∧
  -- integer arithmetic, a jump and a load
  (∀ (c : KCtx) (s : State) (h : Hart) (w len : Nat), bitsN w 0 7 = 0x33 → rF3 w = 0 → rF7 w = 0 → rRd w ≠ 0 → h.x.length = 32 →
    ∃ g, execRv c s h w len = .next s g ∧ g.xr (rRd w) = h.xr (rRs1 w) + h.xr (rRs2 w) ∧ g.pc = h.pc + BitVec.ofNat 64 len ∧
      (∀ r, r ≠ rRd w → g.xr r = h.xr r) ∧ g.v = h.v ∧ g.f = h.f) ∧
  (∀ (c : KCtx) (s : State) (h : Hart) (w len : Nat), bitsN w 0 7 = 0x6F → rRd w ≠ 0 → h.x.length = 32 →
    ∃ g, execRv c s h w len = .next s g ∧ g.xr (rRd w) = h.pc + BitVec.ofNat 64 len ∧ g.pc = h.pc + immJ w ∧
      (∀ r, r ≠ rRd w → g.xr r = h.xr r) ∧ g.v = h.v ∧ g.f = h.f) ∧
  (∀ (c : KCtx) (s t : State) (h : Hart) (w len v : Nat), bitsN w 0 7 = 0x03 → rF3 w = 3 → rRd w ≠ 0 → h.x.length = 32 →
    c.load s true (h.xr (rRs1 w) + immI w).toNat 8 = .ok t v →
    ∃ g, execRv c s h w len = .next t g ∧ g.xr (rRd w) = BitVec.ofNat 64 v ∧ g.pc = h.pc + BitVec.ofNat 64 len ∧
      (∀ r, r ≠ rRd w → g.xr r = h.xr r) ∧ g.v = h.v ∧ g.f = h.f) ∧
  -- R137: vadd.vv on 32-bit elements of one register, unmasked
  (∀ (c : KCtx) (s : State) (h : Hart) (w len : Nat), bitsN w 0 7 = 0x57 → rF3 w = 0 → rF7 w = 1 → h.v.length = 32 →
    h.vtype = 0x10#64 → h.vstart = 0 → h.vl ≤ 512 →
    ∃ g, execRv c s h w len = .next s g ∧ g.pc = h.pc + BitVec.ofNat 64 len ∧ g.x = h.x ∧
      (∀ i, i < h.vl → g.el ⟨rRd w, 32, 0⟩ i = (h.el ⟨rRs2 w, 32, 0⟩ i + h.el ⟨rRs1 w, 32, 0⟩ i) % 2 ^ 32) ∧
      (∀ i, h.vl ≤ i → i < 512 → g.el ⟨rRd w, 32, 0⟩ i = h.el ⟨rRd w, 32, 0⟩ i) ∧
      ∀ r, r ≠ rRd w → nth 0#16384 g.v r = nth 0#16384 h.v r) ∧
  -- R139: ecall, ebreak and a privileged instruction
  (∀ (c : KCtx) (s : State) (h : Hart) (len : Nat), execRv c s h 0x00000073 len = .trap s h (.cause 8) ∧
    execRv c s h 0x00100073 len = .trap s h (.cause 3) ∧ execRv c s h 0x30200073 len = .trap s h (.cause 2)) ∧
  -- R110: a fetch that no window of the queue grants
  (∀ (c : KCtx) (s : State) (h : Hart), runOk s c.sl c.q c.ctx 1 h.pc.toNat 2 = false →
    hartStep c s h = .trap (raiseProt s c.sl c.q c.tag h.pc.toNat) h (.cause 1))


end
end

