-- ==== Sys2Proof/Laws/Maps.lean ====
section
/-! SUPPORT. Laws of the finite maps and of register fields: a read after a write. -/

namespace Sys2Proof.Machine

variable {α : Type}

@[simp] theorem look_nil (d : α) (a : Nat) : look d [] a = d := rfl

/-- The first entry decides, else the rest. -/
theorem look_cons (d : α) (k : Nat) (v : α) (t : List (Nat × α)) (a : Nat) :
    look d ((k, v) :: t) a = if k = a then v else look d t a := by
  by_cases h : k = a <;> simp [look, h]

/-- Reading a raw store. -/
@[simp] theorem look_putRaw (d : α) (m : List (Nat × α)) (a b : Nat) (v : α) :
    look d (putRaw m a v) b = if b = a then v else look d m b := by
  induction m with
  | nil => simp only [putRaw, look_cons, look_nil, eq_comm]
  | cons h t ih => grind [putRaw, look_cons]

/-- Dropping a key. -/
theorem look_drop (d : α) (m : List (Nat × α)) (a b : Nat) :
    look d (m.filter (fun p => p.1 ≠ a)) b = if b = a then d else look d m b := by
  induction m with
  | nil => simp
  | cons h t ih =>
    rw [List.filter_cons]
    grind [look_cons]

/-- Reading a canonical store. -/
@[simp] theorem look_put [DecidableEq α] (d : α) (m : List (Nat × α)) (a b : Nat) (v : α) :
    look d (put d m a v) b = if b = a then v else look d m b := by
  unfold put
  split_ifs with h1 h2 h2
  · rw [look_drop, if_pos h2, h1]
  · rw [look_drop, if_neg h2]
  · rw [look_putRaw, if_pos h2]
  · rw [look_putRaw, if_neg h2]

/-- Reading another key, whatever the defaults. -/
theorem look_put_other [DecidableEq α] (d e : α) (m : List (Nat × α)) (a b : Nat) (v : α) (h : b ≠ a) :
    look d (put e m a v) b = look d m b := by
  unfold put
  split_ifs
  · rw [look_drop, if_neg h]
  · rw [look_putRaw, if_neg h]

/-! ## Fields -/

theorem toNat_setFld (v : Word) (lsb w x : Nat) (h : lsb + w ≤ 64) :
    (setFld v lsb w x).toNat = v.toNat % 2 ^ lsb + (x % 2 ^ w) * 2 ^ lsb + v.toNat / 2 ^ (lsb + w) * 2 ^ (lsb + w) := by
  have hv : v.toNat < 2 ^ 64 := v.isLt
  have h1 : v.toNat % 2 ^ lsb < 2 ^ lsb := Nat.mod_lt _ (by positivity)
  have h2 : x % 2 ^ w < 2 ^ w := Nat.mod_lt _ (by positivity)
  have hp : 2 ^ (lsb + w) = 2 ^ w * 2 ^ lsb := by rw [Nat.pow_add, Nat.mul_comm]
  have h3 : x % 2 ^ w * 2 ^ lsb + 2 ^ lsb ≤ 2 ^ (lsb + w) := by
    rw [hp]; nlinarith [Nat.two_pow_pos lsb]
  have h4 : 2 ^ 64 = 2 ^ (64 - (lsb + w)) * 2 ^ (lsb + w) := by rw [← Nat.pow_add]; congr 1; omega
  have h5 : v.toNat / 2 ^ (lsb + w) < 2 ^ (64 - (lsb + w)) := by
    rw [Nat.div_lt_iff_lt_mul (by positivity), ← h4]; exact hv
  have h6 : v.toNat / 2 ^ (lsb + w) * 2 ^ (lsb + w) + 2 ^ (lsb + w) ≤ 2 ^ 64 := by
    rw [h4]; nlinarith [Nat.two_pow_pos (lsb + w)]
  unfold setFld
  rw [BitVec.toNat_ofNat, Nat.mod_eq_of_lt]
  omega

/-- A field reads back what was stored in it. -/
@[simp] theorem fld_setFld_same (v : Word) (lsb w x : Nat) (h : lsb + w ≤ 64) : fld (setFld v lsb w x) lsb w = x % 2 ^ w := by
  have h1 : v.toNat % 2 ^ lsb < 2 ^ lsb := Nat.mod_lt _ (by positivity)
  have h2 : x % 2 ^ w < 2 ^ w := Nat.mod_lt _ (by positivity)
  have hp : 2 ^ (lsb + w) = 2 ^ w * 2 ^ lsb := by rw [Nat.pow_add, Nat.mul_comm]
  unfold fld bitsN
  rw [toNat_setFld v lsb w x h, hp, show v.toNat % 2 ^ lsb + x % 2 ^ w * 2 ^ lsb + v.toNat / (2 ^ w * 2 ^ lsb) * (2 ^ w * 2 ^ lsb)
    = v.toNat % 2 ^ lsb + 2 ^ lsb * (x % 2 ^ w + 2 ^ w * (v.toNat / (2 ^ w * 2 ^ lsb))) by ring,
    Nat.add_mul_div_left _ _ (by positivity), Nat.div_eq_of_lt h1, Nat.zero_add, Nat.add_mul_mod_self_left, Nat.mod_mod]

/-- A field below the one stored. -/
theorem fld_setFld_low (v : Word) (lsb w x l' w' : Nat) (h : lsb + w ≤ 64) (hl : l' + w' ≤ lsb) :
    fld (setFld v lsb w x) l' w' = fld v l' w' := by
  have key (n c : Nat) (hn : n = v.toNat % 2 ^ lsb + 2 ^ lsb * c) : n / 2 ^ l' % 2 ^ w' = v.toNat / 2 ^ l' % 2 ^ w' := by
    have e : 2 ^ lsb = 2 ^ (l' + w') * 2 ^ (lsb - (l' + w')) := by rw [← Nat.pow_add]; congr 1; omega
    have r (m : Nat) : m / 2 ^ l' % 2 ^ w' = m % 2 ^ (l' + w') / 2 ^ l' := by
      rw [Nat.pow_add, Nat.mod_mul_right_div_self]
    rw [r, r v.toNat, hn, e, Nat.mul_assoc, Nat.add_mul_mod_self_left, Nat.mod_mul_right_mod]
  unfold fld bitsN
  rw [toNat_setFld v lsb w x h]
  apply key _ (x % 2 ^ w + 2 ^ w * (v.toNat / 2 ^ (lsb + w)))
  rw [Nat.pow_add]; ring

/-- A field above the one stored. -/
theorem fld_setFld_high (v : Word) (lsb w x l' w' : Nat) (h : lsb + w ≤ 64) (hl : lsb + w ≤ l') :
    fld (setFld v lsb w x) l' w' = fld v l' w' := by
  have h1 : v.toNat % 2 ^ lsb < 2 ^ lsb := Nat.mod_lt _ (by positivity)
  have h2 : x % 2 ^ w < 2 ^ w := Nat.mod_lt _ (by positivity)
  have hp : 2 ^ (lsb + w) = 2 ^ w * 2 ^ lsb := by rw [Nat.pow_add, Nat.mul_comm]
  have h3 : v.toNat % 2 ^ lsb + x % 2 ^ w * 2 ^ lsb < 2 ^ (lsb + w) := by
    rw [hp]; nlinarith [Nat.two_pow_pos lsb]
  have e : 2 ^ l' = 2 ^ (lsb + w) * 2 ^ (l' - (lsb + w)) := by rw [← Nat.pow_add]; congr 1; omega
  unfold fld bitsN
  rw [toNat_setFld v lsb w x h, e, ← Nat.div_div_eq_div_mul, ← Nat.div_div_eq_div_mul]
  congr 2
  rw [Nat.mul_comm (v.toNat / _), Nat.add_mul_div_left _ _ (by positivity), Nat.div_eq_of_lt h3, Nat.zero_add]

/-- A field apart from the one stored. -/
@[simp] theorem fld_setFld_apart (v : Word) (lsb w x l' w' : Nat) (h : lsb + w ≤ 64) (hl : l' + w' ≤ lsb ∨ lsb + w ≤ l') :
    fld (setFld v lsb w x) l' w' = fld v l' w' := by
  rcases hl with hl | hl
  · exact fld_setFld_low v lsb w x l' w' h hl
  · exact fld_setFld_high v lsb w x l' w' h hl

@[simp] theorem b2n_mod (b : Bool) : b2n b % 2 = b2n b := by cases b <;> rfl
@[simp] theorem b2n_eq_one (b : Bool) : (b2n b = 1) = (b = true) := by cases b <;> simp [b2n]

end Sys2Proof.Machine
end

