-- ==== Sys2Proof/Laws/State.lean ====
section
/-! SUPPORT. What each update of the state leaves alone, one lemma per field, and reads after writes of registers, cores and dies. -/

namespace Sys2Proof.Machine

variable (s : State)

/-! ### `State.wr` -/

@[simp] theorem State.wr_pending (o : Nat) (v : Word) : State.pending (State.wr s o v) = State.pending s := by rfl
@[simp] theorem State.wr_now (o : Nat) (v : Word) : State.now (State.wr s o v) = State.now s := by rfl
@[simp] theorem State.wr_evNo (o : Nat) (v : Word) : State.evNo (State.wr s o v) = State.evNo s := by rfl
@[simp] theorem State.wr_memBad (o : Nat) (v : Word) : State.memBad (State.wr s o v) = State.memBad s := by rfl
@[simp] theorem State.wr_freeCtr (o : Nat) (v : Word) : State.freeCtr (State.wr s o v) = State.freeCtr s := by rfl
@[simp] theorem State.wr_fuses (o : Nat) (v : Word) : State.fuses (State.wr s o v) = State.fuses s := by rfl
@[simp] theorem State.wr_held (o : Nat) (v : Word) : State.held (State.wr s o v) = State.held s := by rfl
@[simp] theorem State.wr_latch (o : Nat) (v : Word) : State.latch (State.wr s o v) = State.latch s := by rfl
@[simp] theorem State.wr_mem (o : Nat) (v : Word) : State.mem (State.wr s o v) = State.mem s := by rfl
@[simp] theorem State.wr_lines (o : Nat) (v : Word) : State.lines (State.wr s o v) = State.lines s := by rfl
@[simp] theorem State.wr_stale (o : Nat) (v : Word) : State.stale (State.wr s o v) = State.stale s := by rfl
@[simp] theorem State.wr_poisonL (o : Nat) (v : Word) : State.poisonL (State.wr s o v) = State.poisonL s := by rfl
@[simp] theorem State.wr_poisonW (o : Nat) (v : Word) : State.poisonW (State.wr s o v) = State.poisonW s := by rfl
@[simp] theorem State.wr_raises (o : Nat) (v : Word) : State.raises (State.wr s o v) = State.raises s := by rfl
@[simp] theorem State.wr_errBits (o : Nat) (v : Word) : State.errBits (State.wr s o v) = State.errBits s := by rfl
@[simp] theorem State.wr_nmi (o : Nat) (v : Word) : State.nmi (State.wr s o v) = State.nmi s := by rfl
@[simp] theorem State.wr_outbox (o : Nat) (v : Word) : State.outbox (State.wr s o v) = State.outbox s := by rfl
@[simp] theorem State.wr_cores (o : Nat) (v : Word) : State.cores (State.wr s o v) = State.cores s := by rfl
@[simp] theorem State.wr_dies (o : Nat) (v : Word) : State.dies (State.wr s o v) = State.dies s := by rfl
@[simp] theorem State.wr_net (o : Nat) (v : Word) : State.net (State.wr s o v) = State.net s := by rfl
@[simp] theorem State.wr_wen (o : Nat) (v : Word) : State.wen (State.wr s o v) = State.wen s := by rfl
@[simp] theorem State.wr_cinch (o : Nat) (v : Word) : State.cinch (State.wr s o v) = State.cinch s := by rfl
@[simp] theorem State.wr_shadow (o : Nat) (v : Word) : State.shadow (State.wr s o v) = State.shadow s := by rfl
@[simp] theorem State.wr_lr (o : Nat) (v : Word) : State.lr (State.wr s o v) = State.lr s := by rfl
@[simp] theorem State.wr_kvWait (o : Nat) (v : Word) : State.kvWait (State.wr s o v) = State.kvWait s := by rfl
@[simp] theorem State.wr_acqWait (o : Nat) (v : Word) : State.acqWait (State.wr s o v) = State.acqWait s := by rfl
@[simp] theorem State.wr_host (o : Nat) (v : Word) : State.host (State.wr s o v) = State.host s := by rfl
@[simp] theorem State.wr_girth (o : Nat) (v : Word) : State.girth (State.wr s o v) = State.girth s := by rfl
@[simp] theorem State.wr_sites (o : Nat) (v : Word) : State.sites (State.wr s o v) = State.sites s := by rfl
@[simp] theorem State.wr_awl (o : Nat) (v : Word) : State.awl (State.wr s o v) = State.awl s := by rfl
@[simp] theorem State.wr_time (o : Nat) (v : Word) : State.time (State.wr s o v) = State.time s := by rfl
@[simp] theorem State.wr_boot (o : Nat) (v : Word) : State.boot (State.wr s o v) = State.boot s := by rfl
@[simp] theorem State.wr_core (o : Nat) (v : Word) (p : Nat) : (s.wr o v).core p = s.core p := by rfl
@[simp] theorem State.wr_die (o : Nat) (v : Word) (p : Nat) : (s.wr o v).die p = s.die p := by rfl
@[simp] theorem State.wr_byte (o : Nat) (v : Word) (p : Nat) : (s.wr o v).byte p = s.byte p := by rfl
@[simp] theorem State.wr_bytes (o : Nat) (v : Word) (p m : Nat) : (s.wr o v).bytes p m = s.bytes p m := by rfl
@[simp] theorem State.wr_num (o : Nat) (v : Word) (p m : Nat) : (s.wr o v).num p m = s.num p m := by rfl

/-! ### `State.setF` -/

@[simp] theorem State.setF_pending (o l w x : Nat) : State.pending (State.setF s o l w x) = State.pending s := by rfl
@[simp] theorem State.setF_now (o l w x : Nat) : State.now (State.setF s o l w x) = State.now s := by rfl
@[simp] theorem State.setF_evNo (o l w x : Nat) : State.evNo (State.setF s o l w x) = State.evNo s := by rfl
@[simp] theorem State.setF_memBad (o l w x : Nat) : State.memBad (State.setF s o l w x) = State.memBad s := by rfl
@[simp] theorem State.setF_freeCtr (o l w x : Nat) : State.freeCtr (State.setF s o l w x) = State.freeCtr s := by rfl
@[simp] theorem State.setF_fuses (o l w x : Nat) : State.fuses (State.setF s o l w x) = State.fuses s := by rfl
@[simp] theorem State.setF_held (o l w x : Nat) : State.held (State.setF s o l w x) = State.held s := by rfl
@[simp] theorem State.setF_latch (o l w x : Nat) : State.latch (State.setF s o l w x) = State.latch s := by rfl
@[simp] theorem State.setF_mem (o l w x : Nat) : State.mem (State.setF s o l w x) = State.mem s := by rfl
@[simp] theorem State.setF_lines (o l w x : Nat) : State.lines (State.setF s o l w x) = State.lines s := by rfl
@[simp] theorem State.setF_stale (o l w x : Nat) : State.stale (State.setF s o l w x) = State.stale s := by rfl
@[simp] theorem State.setF_poisonL (o l w x : Nat) : State.poisonL (State.setF s o l w x) = State.poisonL s := by rfl
@[simp] theorem State.setF_poisonW (o l w x : Nat) : State.poisonW (State.setF s o l w x) = State.poisonW s := by rfl
@[simp] theorem State.setF_raises (o l w x : Nat) : State.raises (State.setF s o l w x) = State.raises s := by rfl
@[simp] theorem State.setF_errBits (o l w x : Nat) : State.errBits (State.setF s o l w x) = State.errBits s := by rfl
@[simp] theorem State.setF_nmi (o l w x : Nat) : State.nmi (State.setF s o l w x) = State.nmi s := by rfl
@[simp] theorem State.setF_outbox (o l w x : Nat) : State.outbox (State.setF s o l w x) = State.outbox s := by rfl
@[simp] theorem State.setF_cores (o l w x : Nat) : State.cores (State.setF s o l w x) = State.cores s := by rfl
@[simp] theorem State.setF_dies (o l w x : Nat) : State.dies (State.setF s o l w x) = State.dies s := by rfl
@[simp] theorem State.setF_net (o l w x : Nat) : State.net (State.setF s o l w x) = State.net s := by rfl
@[simp] theorem State.setF_wen (o l w x : Nat) : State.wen (State.setF s o l w x) = State.wen s := by rfl
@[simp] theorem State.setF_cinch (o l w x : Nat) : State.cinch (State.setF s o l w x) = State.cinch s := by rfl
@[simp] theorem State.setF_shadow (o l w x : Nat) : State.shadow (State.setF s o l w x) = State.shadow s := by rfl
@[simp] theorem State.setF_lr (o l w x : Nat) : State.lr (State.setF s o l w x) = State.lr s := by rfl
@[simp] theorem State.setF_kvWait (o l w x : Nat) : State.kvWait (State.setF s o l w x) = State.kvWait s := by rfl
@[simp] theorem State.setF_acqWait (o l w x : Nat) : State.acqWait (State.setF s o l w x) = State.acqWait s := by rfl
@[simp] theorem State.setF_host (o l w x : Nat) : State.host (State.setF s o l w x) = State.host s := by rfl
@[simp] theorem State.setF_girth (o l w x : Nat) : State.girth (State.setF s o l w x) = State.girth s := by rfl
@[simp] theorem State.setF_sites (o l w x : Nat) : State.sites (State.setF s o l w x) = State.sites s := by rfl
@[simp] theorem State.setF_awl (o l w x : Nat) : State.awl (State.setF s o l w x) = State.awl s := by rfl
@[simp] theorem State.setF_time (o l w x : Nat) : State.time (State.setF s o l w x) = State.time s := by rfl
@[simp] theorem State.setF_boot (o l w x : Nat) : State.boot (State.setF s o l w x) = State.boot s := by rfl
@[simp] theorem State.setF_core (o l w x : Nat) (p : Nat) : (s.setF o l w x).core p = s.core p := by rfl
@[simp] theorem State.setF_die (o l w x : Nat) (p : Nat) : (s.setF o l w x).die p = s.die p := by rfl
@[simp] theorem State.setF_byte (o l w x : Nat) (p : Nat) : (s.setF o l w x).byte p = s.byte p := by rfl
@[simp] theorem State.setF_bytes (o l w x : Nat) (p m : Nat) : (s.setF o l w x).bytes p m = s.bytes p m := by rfl
@[simp] theorem State.setF_num (o l w x : Nat) (p m : Nat) : (s.setF o l w x).num p m = s.num p m := by rfl

/-! ### `State.setB` -/

@[simp] theorem State.setB_pending (o l : Nat) (b : Bool) : State.pending (State.setB s o l b) = State.pending s := by rfl
@[simp] theorem State.setB_now (o l : Nat) (b : Bool) : State.now (State.setB s o l b) = State.now s := by rfl
@[simp] theorem State.setB_evNo (o l : Nat) (b : Bool) : State.evNo (State.setB s o l b) = State.evNo s := by rfl
@[simp] theorem State.setB_memBad (o l : Nat) (b : Bool) : State.memBad (State.setB s o l b) = State.memBad s := by rfl
@[simp] theorem State.setB_freeCtr (o l : Nat) (b : Bool) : State.freeCtr (State.setB s o l b) = State.freeCtr s := by rfl
@[simp] theorem State.setB_fuses (o l : Nat) (b : Bool) : State.fuses (State.setB s o l b) = State.fuses s := by rfl
@[simp] theorem State.setB_held (o l : Nat) (b : Bool) : State.held (State.setB s o l b) = State.held s := by rfl
@[simp] theorem State.setB_latch (o l : Nat) (b : Bool) : State.latch (State.setB s o l b) = State.latch s := by rfl
@[simp] theorem State.setB_mem (o l : Nat) (b : Bool) : State.mem (State.setB s o l b) = State.mem s := by rfl
@[simp] theorem State.setB_lines (o l : Nat) (b : Bool) : State.lines (State.setB s o l b) = State.lines s := by rfl
@[simp] theorem State.setB_stale (o l : Nat) (b : Bool) : State.stale (State.setB s o l b) = State.stale s := by rfl
@[simp] theorem State.setB_poisonL (o l : Nat) (b : Bool) : State.poisonL (State.setB s o l b) = State.poisonL s := by rfl
@[simp] theorem State.setB_poisonW (o l : Nat) (b : Bool) : State.poisonW (State.setB s o l b) = State.poisonW s := by rfl
@[simp] theorem State.setB_raises (o l : Nat) (b : Bool) : State.raises (State.setB s o l b) = State.raises s := by rfl
@[simp] theorem State.setB_errBits (o l : Nat) (b : Bool) : State.errBits (State.setB s o l b) = State.errBits s := by rfl
@[simp] theorem State.setB_nmi (o l : Nat) (b : Bool) : State.nmi (State.setB s o l b) = State.nmi s := by rfl
@[simp] theorem State.setB_outbox (o l : Nat) (b : Bool) : State.outbox (State.setB s o l b) = State.outbox s := by rfl
@[simp] theorem State.setB_cores (o l : Nat) (b : Bool) : State.cores (State.setB s o l b) = State.cores s := by rfl
@[simp] theorem State.setB_dies (o l : Nat) (b : Bool) : State.dies (State.setB s o l b) = State.dies s := by rfl
@[simp] theorem State.setB_net (o l : Nat) (b : Bool) : State.net (State.setB s o l b) = State.net s := by rfl
@[simp] theorem State.setB_wen (o l : Nat) (b : Bool) : State.wen (State.setB s o l b) = State.wen s := by rfl
@[simp] theorem State.setB_cinch (o l : Nat) (b : Bool) : State.cinch (State.setB s o l b) = State.cinch s := by rfl
@[simp] theorem State.setB_shadow (o l : Nat) (b : Bool) : State.shadow (State.setB s o l b) = State.shadow s := by rfl
@[simp] theorem State.setB_lr (o l : Nat) (b : Bool) : State.lr (State.setB s o l b) = State.lr s := by rfl
@[simp] theorem State.setB_kvWait (o l : Nat) (b : Bool) : State.kvWait (State.setB s o l b) = State.kvWait s := by rfl
@[simp] theorem State.setB_acqWait (o l : Nat) (b : Bool) : State.acqWait (State.setB s o l b) = State.acqWait s := by rfl
@[simp] theorem State.setB_host (o l : Nat) (b : Bool) : State.host (State.setB s o l b) = State.host s := by rfl
@[simp] theorem State.setB_girth (o l : Nat) (b : Bool) : State.girth (State.setB s o l b) = State.girth s := by rfl
@[simp] theorem State.setB_sites (o l : Nat) (b : Bool) : State.sites (State.setB s o l b) = State.sites s := by rfl
@[simp] theorem State.setB_awl (o l : Nat) (b : Bool) : State.awl (State.setB s o l b) = State.awl s := by rfl
@[simp] theorem State.setB_time (o l : Nat) (b : Bool) : State.time (State.setB s o l b) = State.time s := by rfl
@[simp] theorem State.setB_boot (o l : Nat) (b : Bool) : State.boot (State.setB s o l b) = State.boot s := by rfl
@[simp] theorem State.setB_core (o l : Nat) (b : Bool) (p : Nat) : (s.setB o l b).core p = s.core p := by rfl
@[simp] theorem State.setB_die (o l : Nat) (b : Bool) (p : Nat) : (s.setB o l b).die p = s.die p := by rfl
@[simp] theorem State.setB_byte (o l : Nat) (b : Bool) (p : Nat) : (s.setB o l b).byte p = s.byte p := by rfl
@[simp] theorem State.setB_bytes (o l : Nat) (b : Bool) (p m : Nat) : (s.setB o l b).bytes p m = s.bytes p m := by rfl
@[simp] theorem State.setB_num (o l : Nat) (b : Bool) (p m : Nat) : (s.setB o l b).num p m = s.num p m := by rfl

/-! ### `State.addCtr` -/

@[simp] theorem State.addCtr_pending (o n : Nat) : State.pending (State.addCtr s o n) = State.pending s := by rfl
@[simp] theorem State.addCtr_now (o n : Nat) : State.now (State.addCtr s o n) = State.now s := by rfl
@[simp] theorem State.addCtr_evNo (o n : Nat) : State.evNo (State.addCtr s o n) = State.evNo s := by rfl
@[simp] theorem State.addCtr_memBad (o n : Nat) : State.memBad (State.addCtr s o n) = State.memBad s := by rfl
@[simp] theorem State.addCtr_freeCtr (o n : Nat) : State.freeCtr (State.addCtr s o n) = State.freeCtr s := by rfl
@[simp] theorem State.addCtr_fuses (o n : Nat) : State.fuses (State.addCtr s o n) = State.fuses s := by rfl
@[simp] theorem State.addCtr_held (o n : Nat) : State.held (State.addCtr s o n) = State.held s := by rfl
@[simp] theorem State.addCtr_latch (o n : Nat) : State.latch (State.addCtr s o n) = State.latch s := by rfl
@[simp] theorem State.addCtr_mem (o n : Nat) : State.mem (State.addCtr s o n) = State.mem s := by rfl
@[simp] theorem State.addCtr_lines (o n : Nat) : State.lines (State.addCtr s o n) = State.lines s := by rfl
@[simp] theorem State.addCtr_stale (o n : Nat) : State.stale (State.addCtr s o n) = State.stale s := by rfl
@[simp] theorem State.addCtr_poisonL (o n : Nat) : State.poisonL (State.addCtr s o n) = State.poisonL s := by rfl
@[simp] theorem State.addCtr_poisonW (o n : Nat) : State.poisonW (State.addCtr s o n) = State.poisonW s := by rfl
@[simp] theorem State.addCtr_raises (o n : Nat) : State.raises (State.addCtr s o n) = State.raises s := by rfl
@[simp] theorem State.addCtr_errBits (o n : Nat) : State.errBits (State.addCtr s o n) = State.errBits s := by rfl
@[simp] theorem State.addCtr_nmi (o n : Nat) : State.nmi (State.addCtr s o n) = State.nmi s := by rfl
@[simp] theorem State.addCtr_outbox (o n : Nat) : State.outbox (State.addCtr s o n) = State.outbox s := by rfl
@[simp] theorem State.addCtr_cores (o n : Nat) : State.cores (State.addCtr s o n) = State.cores s := by rfl
@[simp] theorem State.addCtr_dies (o n : Nat) : State.dies (State.addCtr s o n) = State.dies s := by rfl
@[simp] theorem State.addCtr_net (o n : Nat) : State.net (State.addCtr s o n) = State.net s := by rfl
@[simp] theorem State.addCtr_wen (o n : Nat) : State.wen (State.addCtr s o n) = State.wen s := by rfl
@[simp] theorem State.addCtr_cinch (o n : Nat) : State.cinch (State.addCtr s o n) = State.cinch s := by rfl
@[simp] theorem State.addCtr_shadow (o n : Nat) : State.shadow (State.addCtr s o n) = State.shadow s := by rfl
@[simp] theorem State.addCtr_lr (o n : Nat) : State.lr (State.addCtr s o n) = State.lr s := by rfl
@[simp] theorem State.addCtr_kvWait (o n : Nat) : State.kvWait (State.addCtr s o n) = State.kvWait s := by rfl
@[simp] theorem State.addCtr_acqWait (o n : Nat) : State.acqWait (State.addCtr s o n) = State.acqWait s := by rfl
@[simp] theorem State.addCtr_host (o n : Nat) : State.host (State.addCtr s o n) = State.host s := by rfl
@[simp] theorem State.addCtr_girth (o n : Nat) : State.girth (State.addCtr s o n) = State.girth s := by rfl
@[simp] theorem State.addCtr_sites (o n : Nat) : State.sites (State.addCtr s o n) = State.sites s := by rfl
@[simp] theorem State.addCtr_awl (o n : Nat) : State.awl (State.addCtr s o n) = State.awl s := by rfl
@[simp] theorem State.addCtr_time (o n : Nat) : State.time (State.addCtr s o n) = State.time s := by rfl
@[simp] theorem State.addCtr_boot (o n : Nat) : State.boot (State.addCtr s o n) = State.boot s := by rfl
@[simp] theorem State.addCtr_core (o n : Nat) (p : Nat) : (s.addCtr o n).core p = s.core p := by rfl
@[simp] theorem State.addCtr_die (o n : Nat) (p : Nat) : (s.addCtr o n).die p = s.die p := by rfl
@[simp] theorem State.addCtr_byte (o n : Nat) (p : Nat) : (s.addCtr o n).byte p = s.byte p := by rfl
@[simp] theorem State.addCtr_bytes (o n : Nat) (p m : Nat) : (s.addCtr o n).bytes p m = s.bytes p m := by rfl
@[simp] theorem State.addCtr_num (o n : Nat) (p m : Nat) : (s.addCtr o n).num p m = s.num p m := by rfl

/-! ### `State.satF` -/

@[simp] theorem State.satF_pending (o l w n : Nat) : State.pending (State.satF s o l w n) = State.pending s := by rfl
@[simp] theorem State.satF_now (o l w n : Nat) : State.now (State.satF s o l w n) = State.now s := by rfl
@[simp] theorem State.satF_evNo (o l w n : Nat) : State.evNo (State.satF s o l w n) = State.evNo s := by rfl
@[simp] theorem State.satF_memBad (o l w n : Nat) : State.memBad (State.satF s o l w n) = State.memBad s := by rfl
@[simp] theorem State.satF_freeCtr (o l w n : Nat) : State.freeCtr (State.satF s o l w n) = State.freeCtr s := by rfl
@[simp] theorem State.satF_fuses (o l w n : Nat) : State.fuses (State.satF s o l w n) = State.fuses s := by rfl
@[simp] theorem State.satF_held (o l w n : Nat) : State.held (State.satF s o l w n) = State.held s := by rfl
@[simp] theorem State.satF_latch (o l w n : Nat) : State.latch (State.satF s o l w n) = State.latch s := by rfl
@[simp] theorem State.satF_mem (o l w n : Nat) : State.mem (State.satF s o l w n) = State.mem s := by rfl
@[simp] theorem State.satF_lines (o l w n : Nat) : State.lines (State.satF s o l w n) = State.lines s := by rfl
@[simp] theorem State.satF_stale (o l w n : Nat) : State.stale (State.satF s o l w n) = State.stale s := by rfl
@[simp] theorem State.satF_poisonL (o l w n : Nat) : State.poisonL (State.satF s o l w n) = State.poisonL s := by rfl
@[simp] theorem State.satF_poisonW (o l w n : Nat) : State.poisonW (State.satF s o l w n) = State.poisonW s := by rfl
@[simp] theorem State.satF_raises (o l w n : Nat) : State.raises (State.satF s o l w n) = State.raises s := by rfl
@[simp] theorem State.satF_errBits (o l w n : Nat) : State.errBits (State.satF s o l w n) = State.errBits s := by rfl
@[simp] theorem State.satF_nmi (o l w n : Nat) : State.nmi (State.satF s o l w n) = State.nmi s := by rfl
@[simp] theorem State.satF_outbox (o l w n : Nat) : State.outbox (State.satF s o l w n) = State.outbox s := by rfl
@[simp] theorem State.satF_cores (o l w n : Nat) : State.cores (State.satF s o l w n) = State.cores s := by rfl
@[simp] theorem State.satF_dies (o l w n : Nat) : State.dies (State.satF s o l w n) = State.dies s := by rfl
@[simp] theorem State.satF_net (o l w n : Nat) : State.net (State.satF s o l w n) = State.net s := by rfl
@[simp] theorem State.satF_wen (o l w n : Nat) : State.wen (State.satF s o l w n) = State.wen s := by rfl
@[simp] theorem State.satF_cinch (o l w n : Nat) : State.cinch (State.satF s o l w n) = State.cinch s := by rfl
@[simp] theorem State.satF_shadow (o l w n : Nat) : State.shadow (State.satF s o l w n) = State.shadow s := by rfl
@[simp] theorem State.satF_lr (o l w n : Nat) : State.lr (State.satF s o l w n) = State.lr s := by rfl
@[simp] theorem State.satF_kvWait (o l w n : Nat) : State.kvWait (State.satF s o l w n) = State.kvWait s := by rfl
@[simp] theorem State.satF_acqWait (o l w n : Nat) : State.acqWait (State.satF s o l w n) = State.acqWait s := by rfl
@[simp] theorem State.satF_host (o l w n : Nat) : State.host (State.satF s o l w n) = State.host s := by rfl
@[simp] theorem State.satF_girth (o l w n : Nat) : State.girth (State.satF s o l w n) = State.girth s := by rfl
@[simp] theorem State.satF_sites (o l w n : Nat) : State.sites (State.satF s o l w n) = State.sites s := by rfl
@[simp] theorem State.satF_awl (o l w n : Nat) : State.awl (State.satF s o l w n) = State.awl s := by rfl
@[simp] theorem State.satF_time (o l w n : Nat) : State.time (State.satF s o l w n) = State.time s := by rfl
@[simp] theorem State.satF_boot (o l w n : Nat) : State.boot (State.satF s o l w n) = State.boot s := by rfl
@[simp] theorem State.satF_core (o l w n : Nat) (p : Nat) : (s.satF o l w n).core p = s.core p := by rfl
@[simp] theorem State.satF_die (o l w n : Nat) (p : Nat) : (s.satF o l w n).die p = s.die p := by rfl
@[simp] theorem State.satF_byte (o l w n : Nat) (p : Nat) : (s.satF o l w n).byte p = s.byte p := by rfl
@[simp] theorem State.satF_bytes (o l w n : Nat) (p m : Nat) : (s.satF o l w n).bytes p m = s.bytes p m := by rfl
@[simp] theorem State.satF_num (o l w n : Nat) (p m : Nat) : (s.satF o l w n).num p m = s.num p m := by rfl

/-! ### `State.resetRange` -/

@[simp] theorem State.resetRange_pending (lo hi : Nat) : State.pending (State.resetRange s lo hi) = State.pending s := by rfl
@[simp] theorem State.resetRange_now (lo hi : Nat) : State.now (State.resetRange s lo hi) = State.now s := by rfl
@[simp] theorem State.resetRange_evNo (lo hi : Nat) : State.evNo (State.resetRange s lo hi) = State.evNo s := by rfl
@[simp] theorem State.resetRange_memBad (lo hi : Nat) : State.memBad (State.resetRange s lo hi) = State.memBad s := by rfl
@[simp] theorem State.resetRange_freeCtr (lo hi : Nat) : State.freeCtr (State.resetRange s lo hi) = State.freeCtr s := by rfl
@[simp] theorem State.resetRange_fuses (lo hi : Nat) : State.fuses (State.resetRange s lo hi) = State.fuses s := by rfl
@[simp] theorem State.resetRange_mem (lo hi : Nat) : State.mem (State.resetRange s lo hi) = State.mem s := by rfl
@[simp] theorem State.resetRange_lines (lo hi : Nat) : State.lines (State.resetRange s lo hi) = State.lines s := by rfl
@[simp] theorem State.resetRange_stale (lo hi : Nat) : State.stale (State.resetRange s lo hi) = State.stale s := by rfl
@[simp] theorem State.resetRange_poisonL (lo hi : Nat) : State.poisonL (State.resetRange s lo hi) = State.poisonL s := by rfl
@[simp] theorem State.resetRange_poisonW (lo hi : Nat) : State.poisonW (State.resetRange s lo hi) = State.poisonW s := by rfl
@[simp] theorem State.resetRange_raises (lo hi : Nat) : State.raises (State.resetRange s lo hi) = State.raises s := by rfl
@[simp] theorem State.resetRange_errBits (lo hi : Nat) : State.errBits (State.resetRange s lo hi) = State.errBits s := by rfl
@[simp] theorem State.resetRange_nmi (lo hi : Nat) : State.nmi (State.resetRange s lo hi) = State.nmi s := by rfl
@[simp] theorem State.resetRange_outbox (lo hi : Nat) : State.outbox (State.resetRange s lo hi) = State.outbox s := by rfl
@[simp] theorem State.resetRange_cores (lo hi : Nat) : State.cores (State.resetRange s lo hi) = State.cores s := by rfl
@[simp] theorem State.resetRange_dies (lo hi : Nat) : State.dies (State.resetRange s lo hi) = State.dies s := by rfl
@[simp] theorem State.resetRange_net (lo hi : Nat) : State.net (State.resetRange s lo hi) = State.net s := by rfl
@[simp] theorem State.resetRange_wen (lo hi : Nat) : State.wen (State.resetRange s lo hi) = State.wen s := by rfl
@[simp] theorem State.resetRange_cinch (lo hi : Nat) : State.cinch (State.resetRange s lo hi) = State.cinch s := by rfl
@[simp] theorem State.resetRange_shadow (lo hi : Nat) : State.shadow (State.resetRange s lo hi) = State.shadow s := by rfl
@[simp] theorem State.resetRange_lr (lo hi : Nat) : State.lr (State.resetRange s lo hi) = State.lr s := by rfl
@[simp] theorem State.resetRange_kvWait (lo hi : Nat) : State.kvWait (State.resetRange s lo hi) = State.kvWait s := by rfl
@[simp] theorem State.resetRange_acqWait (lo hi : Nat) : State.acqWait (State.resetRange s lo hi) = State.acqWait s := by rfl
@[simp] theorem State.resetRange_host (lo hi : Nat) : State.host (State.resetRange s lo hi) = State.host s := by rfl
@[simp] theorem State.resetRange_girth (lo hi : Nat) : State.girth (State.resetRange s lo hi) = State.girth s := by rfl
@[simp] theorem State.resetRange_sites (lo hi : Nat) : State.sites (State.resetRange s lo hi) = State.sites s := by rfl
@[simp] theorem State.resetRange_awl (lo hi : Nat) : State.awl (State.resetRange s lo hi) = State.awl s := by rfl
@[simp] theorem State.resetRange_time (lo hi : Nat) : State.time (State.resetRange s lo hi) = State.time s := by rfl
@[simp] theorem State.resetRange_boot (lo hi : Nat) : State.boot (State.resetRange s lo hi) = State.boot s := by rfl
@[simp] theorem State.resetRange_core (lo hi : Nat) (p : Nat) : (s.resetRange lo hi).core p = s.core p := by rfl
@[simp] theorem State.resetRange_die (lo hi : Nat) (p : Nat) : (s.resetRange lo hi).die p = s.die p := by rfl
@[simp] theorem State.resetRange_byte (lo hi : Nat) (p : Nat) : (s.resetRange lo hi).byte p = s.byte p := by rfl
@[simp] theorem State.resetRange_bytes (lo hi : Nat) (p m : Nat) : (s.resetRange lo hi).bytes p m = s.bytes p m := by rfl
@[simp] theorem State.resetRange_num (lo hi : Nat) (p m : Nat) : (s.resetRange lo hi).num p m = s.num p m := by rfl

/-! ### `State.emit` -/

@[simp] theorem State.emit_pending (g : Signal) : State.pending (State.emit s g) = State.pending s := by rfl
@[simp] theorem State.emit_now (g : Signal) : State.now (State.emit s g) = State.now s := by rfl
@[simp] theorem State.emit_evNo (g : Signal) : State.evNo (State.emit s g) = State.evNo s := by rfl
@[simp] theorem State.emit_memBad (g : Signal) : State.memBad (State.emit s g) = State.memBad s := by rfl
@[simp] theorem State.emit_freeCtr (g : Signal) : State.freeCtr (State.emit s g) = State.freeCtr s := by rfl
@[simp] theorem State.emit_fuses (g : Signal) : State.fuses (State.emit s g) = State.fuses s := by rfl
@[simp] theorem State.emit_regs (g : Signal) : State.regs (State.emit s g) = State.regs s := by rfl
@[simp] theorem State.emit_held (g : Signal) : State.held (State.emit s g) = State.held s := by rfl
@[simp] theorem State.emit_latch (g : Signal) : State.latch (State.emit s g) = State.latch s := by rfl
@[simp] theorem State.emit_mem (g : Signal) : State.mem (State.emit s g) = State.mem s := by rfl
@[simp] theorem State.emit_lines (g : Signal) : State.lines (State.emit s g) = State.lines s := by rfl
@[simp] theorem State.emit_stale (g : Signal) : State.stale (State.emit s g) = State.stale s := by rfl
@[simp] theorem State.emit_poisonL (g : Signal) : State.poisonL (State.emit s g) = State.poisonL s := by rfl
@[simp] theorem State.emit_poisonW (g : Signal) : State.poisonW (State.emit s g) = State.poisonW s := by rfl
@[simp] theorem State.emit_raises (g : Signal) : State.raises (State.emit s g) = State.raises s := by rfl
@[simp] theorem State.emit_errBits (g : Signal) : State.errBits (State.emit s g) = State.errBits s := by rfl
@[simp] theorem State.emit_nmi (g : Signal) : State.nmi (State.emit s g) = State.nmi s := by rfl
@[simp] theorem State.emit_cores (g : Signal) : State.cores (State.emit s g) = State.cores s := by rfl
@[simp] theorem State.emit_dies (g : Signal) : State.dies (State.emit s g) = State.dies s := by rfl
@[simp] theorem State.emit_net (g : Signal) : State.net (State.emit s g) = State.net s := by rfl
@[simp] theorem State.emit_wen (g : Signal) : State.wen (State.emit s g) = State.wen s := by rfl
@[simp] theorem State.emit_cinch (g : Signal) : State.cinch (State.emit s g) = State.cinch s := by rfl
@[simp] theorem State.emit_shadow (g : Signal) : State.shadow (State.emit s g) = State.shadow s := by rfl
@[simp] theorem State.emit_lr (g : Signal) : State.lr (State.emit s g) = State.lr s := by rfl
@[simp] theorem State.emit_kvWait (g : Signal) : State.kvWait (State.emit s g) = State.kvWait s := by rfl
@[simp] theorem State.emit_acqWait (g : Signal) : State.acqWait (State.emit s g) = State.acqWait s := by rfl
@[simp] theorem State.emit_host (g : Signal) : State.host (State.emit s g) = State.host s := by rfl
@[simp] theorem State.emit_girth (g : Signal) : State.girth (State.emit s g) = State.girth s := by rfl
@[simp] theorem State.emit_sites (g : Signal) : State.sites (State.emit s g) = State.sites s := by rfl
@[simp] theorem State.emit_awl (g : Signal) : State.awl (State.emit s g) = State.awl s := by rfl
@[simp] theorem State.emit_time (g : Signal) : State.time (State.emit s g) = State.time s := by rfl
@[simp] theorem State.emit_boot (g : Signal) : State.boot (State.emit s g) = State.boot s := by rfl
@[simp] theorem State.emit_rd (g : Signal) (p : Nat) : (s.emit g).rd p = s.rd p := by rfl
@[simp] theorem State.emit_f (g : Signal) (p l w : Nat) : (s.emit g).f p l w = s.f p l w := by rfl
@[simp] theorem State.emit_fb (g : Signal) (p l : Nat) : (s.emit g).fb p l = s.fb p l := by rfl
@[simp] theorem State.emit_core (g : Signal) (p : Nat) : (s.emit g).core p = s.core p := by rfl
@[simp] theorem State.emit_die (g : Signal) (p : Nat) : (s.emit g).die p = s.die p := by rfl
@[simp] theorem State.emit_byte (g : Signal) (p : Nat) : (s.emit g).byte p = s.byte p := by rfl
@[simp] theorem State.emit_bytes (g : Signal) (p m : Nat) : (s.emit g).bytes p m = s.bytes p m := by rfl
@[simp] theorem State.emit_num (g : Signal) (p m : Nat) : (s.emit g).num p m = s.num p m := by rfl

/-! ### `State.raise` -/

@[simp] theorem State.raise_pending (c : FaultSrc) (i y : Nat) : State.pending (State.raise s c i y) = State.pending s := by rfl
@[simp] theorem State.raise_now (c : FaultSrc) (i y : Nat) : State.now (State.raise s c i y) = State.now s := by rfl
@[simp] theorem State.raise_evNo (c : FaultSrc) (i y : Nat) : State.evNo (State.raise s c i y) = State.evNo s := by rfl
@[simp] theorem State.raise_memBad (c : FaultSrc) (i y : Nat) : State.memBad (State.raise s c i y) = State.memBad s := by rfl
@[simp] theorem State.raise_freeCtr (c : FaultSrc) (i y : Nat) : State.freeCtr (State.raise s c i y) = State.freeCtr s := by rfl
@[simp] theorem State.raise_fuses (c : FaultSrc) (i y : Nat) : State.fuses (State.raise s c i y) = State.fuses s := by rfl
@[simp] theorem State.raise_regs (c : FaultSrc) (i y : Nat) : State.regs (State.raise s c i y) = State.regs s := by rfl
@[simp] theorem State.raise_held (c : FaultSrc) (i y : Nat) : State.held (State.raise s c i y) = State.held s := by rfl
@[simp] theorem State.raise_latch (c : FaultSrc) (i y : Nat) : State.latch (State.raise s c i y) = State.latch s := by rfl
@[simp] theorem State.raise_mem (c : FaultSrc) (i y : Nat) : State.mem (State.raise s c i y) = State.mem s := by rfl
@[simp] theorem State.raise_lines (c : FaultSrc) (i y : Nat) : State.lines (State.raise s c i y) = State.lines s := by rfl
@[simp] theorem State.raise_stale (c : FaultSrc) (i y : Nat) : State.stale (State.raise s c i y) = State.stale s := by rfl
@[simp] theorem State.raise_poisonL (c : FaultSrc) (i y : Nat) : State.poisonL (State.raise s c i y) = State.poisonL s := by rfl
@[simp] theorem State.raise_poisonW (c : FaultSrc) (i y : Nat) : State.poisonW (State.raise s c i y) = State.poisonW s := by rfl
@[simp] theorem State.raise_errBits (c : FaultSrc) (i y : Nat) : State.errBits (State.raise s c i y) = State.errBits s := by rfl
@[simp] theorem State.raise_nmi (c : FaultSrc) (i y : Nat) : State.nmi (State.raise s c i y) = State.nmi s := by rfl
@[simp] theorem State.raise_outbox (c : FaultSrc) (i y : Nat) : State.outbox (State.raise s c i y) = State.outbox s := by rfl
@[simp] theorem State.raise_cores (c : FaultSrc) (i y : Nat) : State.cores (State.raise s c i y) = State.cores s := by rfl
@[simp] theorem State.raise_dies (c : FaultSrc) (i y : Nat) : State.dies (State.raise s c i y) = State.dies s := by rfl
@[simp] theorem State.raise_net (c : FaultSrc) (i y : Nat) : State.net (State.raise s c i y) = State.net s := by rfl
@[simp] theorem State.raise_wen (c : FaultSrc) (i y : Nat) : State.wen (State.raise s c i y) = State.wen s := by rfl
@[simp] theorem State.raise_cinch (c : FaultSrc) (i y : Nat) : State.cinch (State.raise s c i y) = State.cinch s := by rfl
@[simp] theorem State.raise_shadow (c : FaultSrc) (i y : Nat) : State.shadow (State.raise s c i y) = State.shadow s := by rfl
@[simp] theorem State.raise_lr (c : FaultSrc) (i y : Nat) : State.lr (State.raise s c i y) = State.lr s := by rfl
@[simp] theorem State.raise_kvWait (c : FaultSrc) (i y : Nat) : State.kvWait (State.raise s c i y) = State.kvWait s := by rfl
@[simp] theorem State.raise_acqWait (c : FaultSrc) (i y : Nat) : State.acqWait (State.raise s c i y) = State.acqWait s := by rfl
@[simp] theorem State.raise_host (c : FaultSrc) (i y : Nat) : State.host (State.raise s c i y) = State.host s := by rfl
@[simp] theorem State.raise_girth (c : FaultSrc) (i y : Nat) : State.girth (State.raise s c i y) = State.girth s := by rfl
@[simp] theorem State.raise_sites (c : FaultSrc) (i y : Nat) : State.sites (State.raise s c i y) = State.sites s := by rfl
@[simp] theorem State.raise_awl (c : FaultSrc) (i y : Nat) : State.awl (State.raise s c i y) = State.awl s := by rfl
@[simp] theorem State.raise_time (c : FaultSrc) (i y : Nat) : State.time (State.raise s c i y) = State.time s := by rfl
@[simp] theorem State.raise_boot (c : FaultSrc) (i y : Nat) : State.boot (State.raise s c i y) = State.boot s := by rfl
@[simp] theorem State.raise_rd (c : FaultSrc) (i y : Nat) (p : Nat) : (s.raise c i y).rd p = s.rd p := by rfl
@[simp] theorem State.raise_f (c : FaultSrc) (i y : Nat) (p l w : Nat) : (s.raise c i y).f p l w = s.f p l w := by rfl
@[simp] theorem State.raise_fb (c : FaultSrc) (i y : Nat) (p l : Nat) : (s.raise c i y).fb p l = s.fb p l := by rfl
@[simp] theorem State.raise_core (c : FaultSrc) (i y : Nat) (p : Nat) : (s.raise c i y).core p = s.core p := by rfl
@[simp] theorem State.raise_die (c : FaultSrc) (i y : Nat) (p : Nat) : (s.raise c i y).die p = s.die p := by rfl
@[simp] theorem State.raise_byte (c : FaultSrc) (i y : Nat) (p : Nat) : (s.raise c i y).byte p = s.byte p := by rfl
@[simp] theorem State.raise_bytes (c : FaultSrc) (i y : Nat) (p m : Nat) : (s.raise c i y).bytes p m = s.bytes p m := by rfl
@[simp] theorem State.raise_num (c : FaultSrc) (i y : Nat) (p m : Nat) : (s.raise c i y).num p m = s.num p m := by rfl

/-! ### `State.setCore` -/

@[simp] theorem State.setCore_pending (k : Nat) (c : Core) : State.pending (State.setCore s k c) = State.pending s := by rfl
@[simp] theorem State.setCore_now (k : Nat) (c : Core) : State.now (State.setCore s k c) = State.now s := by rfl
@[simp] theorem State.setCore_evNo (k : Nat) (c : Core) : State.evNo (State.setCore s k c) = State.evNo s := by rfl
@[simp] theorem State.setCore_memBad (k : Nat) (c : Core) : State.memBad (State.setCore s k c) = State.memBad s := by rfl
@[simp] theorem State.setCore_freeCtr (k : Nat) (c : Core) : State.freeCtr (State.setCore s k c) = State.freeCtr s := by rfl
@[simp] theorem State.setCore_fuses (k : Nat) (c : Core) : State.fuses (State.setCore s k c) = State.fuses s := by rfl
@[simp] theorem State.setCore_regs (k : Nat) (c : Core) : State.regs (State.setCore s k c) = State.regs s := by rfl
@[simp] theorem State.setCore_held (k : Nat) (c : Core) : State.held (State.setCore s k c) = State.held s := by rfl
@[simp] theorem State.setCore_latch (k : Nat) (c : Core) : State.latch (State.setCore s k c) = State.latch s := by rfl
@[simp] theorem State.setCore_mem (k : Nat) (c : Core) : State.mem (State.setCore s k c) = State.mem s := by rfl
@[simp] theorem State.setCore_lines (k : Nat) (c : Core) : State.lines (State.setCore s k c) = State.lines s := by rfl
@[simp] theorem State.setCore_stale (k : Nat) (c : Core) : State.stale (State.setCore s k c) = State.stale s := by rfl
@[simp] theorem State.setCore_poisonL (k : Nat) (c : Core) : State.poisonL (State.setCore s k c) = State.poisonL s := by rfl
@[simp] theorem State.setCore_poisonW (k : Nat) (c : Core) : State.poisonW (State.setCore s k c) = State.poisonW s := by rfl
@[simp] theorem State.setCore_raises (k : Nat) (c : Core) : State.raises (State.setCore s k c) = State.raises s := by rfl
@[simp] theorem State.setCore_errBits (k : Nat) (c : Core) : State.errBits (State.setCore s k c) = State.errBits s := by rfl
@[simp] theorem State.setCore_nmi (k : Nat) (c : Core) : State.nmi (State.setCore s k c) = State.nmi s := by rfl
@[simp] theorem State.setCore_outbox (k : Nat) (c : Core) : State.outbox (State.setCore s k c) = State.outbox s := by rfl
@[simp] theorem State.setCore_dies (k : Nat) (c : Core) : State.dies (State.setCore s k c) = State.dies s := by rfl
@[simp] theorem State.setCore_net (k : Nat) (c : Core) : State.net (State.setCore s k c) = State.net s := by rfl
@[simp] theorem State.setCore_wen (k : Nat) (c : Core) : State.wen (State.setCore s k c) = State.wen s := by rfl
@[simp] theorem State.setCore_cinch (k : Nat) (c : Core) : State.cinch (State.setCore s k c) = State.cinch s := by rfl
@[simp] theorem State.setCore_shadow (k : Nat) (c : Core) : State.shadow (State.setCore s k c) = State.shadow s := by rfl
@[simp] theorem State.setCore_lr (k : Nat) (c : Core) : State.lr (State.setCore s k c) = State.lr s := by rfl
@[simp] theorem State.setCore_kvWait (k : Nat) (c : Core) : State.kvWait (State.setCore s k c) = State.kvWait s := by rfl
@[simp] theorem State.setCore_acqWait (k : Nat) (c : Core) : State.acqWait (State.setCore s k c) = State.acqWait s := by rfl
@[simp] theorem State.setCore_host (k : Nat) (c : Core) : State.host (State.setCore s k c) = State.host s := by rfl
@[simp] theorem State.setCore_girth (k : Nat) (c : Core) : State.girth (State.setCore s k c) = State.girth s := by rfl
@[simp] theorem State.setCore_sites (k : Nat) (c : Core) : State.sites (State.setCore s k c) = State.sites s := by rfl
@[simp] theorem State.setCore_awl (k : Nat) (c : Core) : State.awl (State.setCore s k c) = State.awl s := by rfl
@[simp] theorem State.setCore_time (k : Nat) (c : Core) : State.time (State.setCore s k c) = State.time s := by rfl
@[simp] theorem State.setCore_boot (k : Nat) (c : Core) : State.boot (State.setCore s k c) = State.boot s := by rfl
@[simp] theorem State.setCore_rd (k : Nat) (c : Core) (p : Nat) : (s.setCore k c).rd p = s.rd p := by rfl
@[simp] theorem State.setCore_f (k : Nat) (c : Core) (p l w : Nat) : (s.setCore k c).f p l w = s.f p l w := by rfl
@[simp] theorem State.setCore_fb (k : Nat) (c : Core) (p l : Nat) : (s.setCore k c).fb p l = s.fb p l := by rfl
@[simp] theorem State.setCore_die (k : Nat) (c : Core) (p : Nat) : (s.setCore k c).die p = s.die p := by rfl
@[simp] theorem State.setCore_byte (k : Nat) (c : Core) (p : Nat) : (s.setCore k c).byte p = s.byte p := by rfl
@[simp] theorem State.setCore_bytes (k : Nat) (c : Core) (p m : Nat) : (s.setCore k c).bytes p m = s.bytes p m := by rfl
@[simp] theorem State.setCore_num (k : Nat) (c : Core) (p m : Nat) : (s.setCore k c).num p m = s.num p m := by rfl

/-! ### `State.modCore` -/

@[simp] theorem State.modCore_pending (k : Nat) (f : Core → Core) : State.pending (State.modCore s k f) = State.pending s := by rfl
@[simp] theorem State.modCore_now (k : Nat) (f : Core → Core) : State.now (State.modCore s k f) = State.now s := by rfl
@[simp] theorem State.modCore_evNo (k : Nat) (f : Core → Core) : State.evNo (State.modCore s k f) = State.evNo s := by rfl
@[simp] theorem State.modCore_memBad (k : Nat) (f : Core → Core) : State.memBad (State.modCore s k f) = State.memBad s := by rfl
@[simp] theorem State.modCore_freeCtr (k : Nat) (f : Core → Core) : State.freeCtr (State.modCore s k f) = State.freeCtr s := by rfl
@[simp] theorem State.modCore_fuses (k : Nat) (f : Core → Core) : State.fuses (State.modCore s k f) = State.fuses s := by rfl
@[simp] theorem State.modCore_regs (k : Nat) (f : Core → Core) : State.regs (State.modCore s k f) = State.regs s := by rfl
@[simp] theorem State.modCore_held (k : Nat) (f : Core → Core) : State.held (State.modCore s k f) = State.held s := by rfl
@[simp] theorem State.modCore_latch (k : Nat) (f : Core → Core) : State.latch (State.modCore s k f) = State.latch s := by rfl
@[simp] theorem State.modCore_mem (k : Nat) (f : Core → Core) : State.mem (State.modCore s k f) = State.mem s := by rfl
@[simp] theorem State.modCore_lines (k : Nat) (f : Core → Core) : State.lines (State.modCore s k f) = State.lines s := by rfl
@[simp] theorem State.modCore_stale (k : Nat) (f : Core → Core) : State.stale (State.modCore s k f) = State.stale s := by rfl
@[simp] theorem State.modCore_poisonL (k : Nat) (f : Core → Core) : State.poisonL (State.modCore s k f) = State.poisonL s := by rfl
@[simp] theorem State.modCore_poisonW (k : Nat) (f : Core → Core) : State.poisonW (State.modCore s k f) = State.poisonW s := by rfl
@[simp] theorem State.modCore_raises (k : Nat) (f : Core → Core) : State.raises (State.modCore s k f) = State.raises s := by rfl
@[simp] theorem State.modCore_errBits (k : Nat) (f : Core → Core) : State.errBits (State.modCore s k f) = State.errBits s := by rfl
@[simp] theorem State.modCore_nmi (k : Nat) (f : Core → Core) : State.nmi (State.modCore s k f) = State.nmi s := by rfl
@[simp] theorem State.modCore_outbox (k : Nat) (f : Core → Core) : State.outbox (State.modCore s k f) = State.outbox s := by rfl
@[simp] theorem State.modCore_dies (k : Nat) (f : Core → Core) : State.dies (State.modCore s k f) = State.dies s := by rfl
@[simp] theorem State.modCore_net (k : Nat) (f : Core → Core) : State.net (State.modCore s k f) = State.net s := by rfl
@[simp] theorem State.modCore_wen (k : Nat) (f : Core → Core) : State.wen (State.modCore s k f) = State.wen s := by rfl
@[simp] theorem State.modCore_cinch (k : Nat) (f : Core → Core) : State.cinch (State.modCore s k f) = State.cinch s := by rfl
@[simp] theorem State.modCore_shadow (k : Nat) (f : Core → Core) : State.shadow (State.modCore s k f) = State.shadow s := by rfl
@[simp] theorem State.modCore_lr (k : Nat) (f : Core → Core) : State.lr (State.modCore s k f) = State.lr s := by rfl
@[simp] theorem State.modCore_kvWait (k : Nat) (f : Core → Core) : State.kvWait (State.modCore s k f) = State.kvWait s := by rfl
@[simp] theorem State.modCore_acqWait (k : Nat) (f : Core → Core) : State.acqWait (State.modCore s k f) = State.acqWait s := by rfl
@[simp] theorem State.modCore_host (k : Nat) (f : Core → Core) : State.host (State.modCore s k f) = State.host s := by rfl
@[simp] theorem State.modCore_girth (k : Nat) (f : Core → Core) : State.girth (State.modCore s k f) = State.girth s := by rfl
@[simp] theorem State.modCore_sites (k : Nat) (f : Core → Core) : State.sites (State.modCore s k f) = State.sites s := by rfl
@[simp] theorem State.modCore_awl (k : Nat) (f : Core → Core) : State.awl (State.modCore s k f) = State.awl s := by rfl
@[simp] theorem State.modCore_time (k : Nat) (f : Core → Core) : State.time (State.modCore s k f) = State.time s := by rfl
@[simp] theorem State.modCore_boot (k : Nat) (f : Core → Core) : State.boot (State.modCore s k f) = State.boot s := by rfl
@[simp] theorem State.modCore_rd (k : Nat) (f : Core → Core) (p : Nat) : (s.modCore k f).rd p = s.rd p := by rfl
@[simp] theorem State.modCore_f (k : Nat) (f : Core → Core) (p l w : Nat) : (s.modCore k f).f p l w = s.f p l w := by rfl
@[simp] theorem State.modCore_fb (k : Nat) (f : Core → Core) (p l : Nat) : (s.modCore k f).fb p l = s.fb p l := by rfl
@[simp] theorem State.modCore_die (k : Nat) (f : Core → Core) (p : Nat) : (s.modCore k f).die p = s.die p := by rfl
@[simp] theorem State.modCore_byte (k : Nat) (f : Core → Core) (p : Nat) : (s.modCore k f).byte p = s.byte p := by rfl
@[simp] theorem State.modCore_bytes (k : Nat) (f : Core → Core) (p m : Nat) : (s.modCore k f).bytes p m = s.bytes p m := by rfl
@[simp] theorem State.modCore_num (k : Nat) (f : Core → Core) (p m : Nat) : (s.modCore k f).num p m = s.num p m := by rfl

/-! ### `State.setDie` -/

@[simp] theorem State.setDie_pending (d : Nat) (x : Die) : State.pending (State.setDie s d x) = State.pending s := by rfl
@[simp] theorem State.setDie_now (d : Nat) (x : Die) : State.now (State.setDie s d x) = State.now s := by rfl
@[simp] theorem State.setDie_evNo (d : Nat) (x : Die) : State.evNo (State.setDie s d x) = State.evNo s := by rfl
@[simp] theorem State.setDie_memBad (d : Nat) (x : Die) : State.memBad (State.setDie s d x) = State.memBad s := by rfl
@[simp] theorem State.setDie_freeCtr (d : Nat) (x : Die) : State.freeCtr (State.setDie s d x) = State.freeCtr s := by rfl
@[simp] theorem State.setDie_fuses (d : Nat) (x : Die) : State.fuses (State.setDie s d x) = State.fuses s := by rfl
@[simp] theorem State.setDie_regs (d : Nat) (x : Die) : State.regs (State.setDie s d x) = State.regs s := by rfl
@[simp] theorem State.setDie_held (d : Nat) (x : Die) : State.held (State.setDie s d x) = State.held s := by rfl
@[simp] theorem State.setDie_latch (d : Nat) (x : Die) : State.latch (State.setDie s d x) = State.latch s := by rfl
@[simp] theorem State.setDie_mem (d : Nat) (x : Die) : State.mem (State.setDie s d x) = State.mem s := by rfl
@[simp] theorem State.setDie_lines (d : Nat) (x : Die) : State.lines (State.setDie s d x) = State.lines s := by rfl
@[simp] theorem State.setDie_stale (d : Nat) (x : Die) : State.stale (State.setDie s d x) = State.stale s := by rfl
@[simp] theorem State.setDie_poisonL (d : Nat) (x : Die) : State.poisonL (State.setDie s d x) = State.poisonL s := by rfl
@[simp] theorem State.setDie_poisonW (d : Nat) (x : Die) : State.poisonW (State.setDie s d x) = State.poisonW s := by rfl
@[simp] theorem State.setDie_raises (d : Nat) (x : Die) : State.raises (State.setDie s d x) = State.raises s := by rfl
@[simp] theorem State.setDie_errBits (d : Nat) (x : Die) : State.errBits (State.setDie s d x) = State.errBits s := by rfl
@[simp] theorem State.setDie_nmi (d : Nat) (x : Die) : State.nmi (State.setDie s d x) = State.nmi s := by rfl
@[simp] theorem State.setDie_outbox (d : Nat) (x : Die) : State.outbox (State.setDie s d x) = State.outbox s := by rfl
@[simp] theorem State.setDie_cores (d : Nat) (x : Die) : State.cores (State.setDie s d x) = State.cores s := by rfl
@[simp] theorem State.setDie_net (d : Nat) (x : Die) : State.net (State.setDie s d x) = State.net s := by rfl
@[simp] theorem State.setDie_wen (d : Nat) (x : Die) : State.wen (State.setDie s d x) = State.wen s := by rfl
@[simp] theorem State.setDie_cinch (d : Nat) (x : Die) : State.cinch (State.setDie s d x) = State.cinch s := by rfl
@[simp] theorem State.setDie_shadow (d : Nat) (x : Die) : State.shadow (State.setDie s d x) = State.shadow s := by rfl
@[simp] theorem State.setDie_lr (d : Nat) (x : Die) : State.lr (State.setDie s d x) = State.lr s := by rfl
@[simp] theorem State.setDie_kvWait (d : Nat) (x : Die) : State.kvWait (State.setDie s d x) = State.kvWait s := by rfl
@[simp] theorem State.setDie_acqWait (d : Nat) (x : Die) : State.acqWait (State.setDie s d x) = State.acqWait s := by rfl
@[simp] theorem State.setDie_host (d : Nat) (x : Die) : State.host (State.setDie s d x) = State.host s := by rfl
@[simp] theorem State.setDie_girth (d : Nat) (x : Die) : State.girth (State.setDie s d x) = State.girth s := by rfl
@[simp] theorem State.setDie_sites (d : Nat) (x : Die) : State.sites (State.setDie s d x) = State.sites s := by rfl
@[simp] theorem State.setDie_awl (d : Nat) (x : Die) : State.awl (State.setDie s d x) = State.awl s := by rfl
@[simp] theorem State.setDie_time (d : Nat) (x : Die) : State.time (State.setDie s d x) = State.time s := by rfl
@[simp] theorem State.setDie_boot (d : Nat) (x : Die) : State.boot (State.setDie s d x) = State.boot s := by rfl
@[simp] theorem State.setDie_rd (d : Nat) (x : Die) (p : Nat) : (s.setDie d x).rd p = s.rd p := by rfl
@[simp] theorem State.setDie_f (d : Nat) (x : Die) (p l w : Nat) : (s.setDie d x).f p l w = s.f p l w := by rfl
@[simp] theorem State.setDie_fb (d : Nat) (x : Die) (p l : Nat) : (s.setDie d x).fb p l = s.fb p l := by rfl
@[simp] theorem State.setDie_core (d : Nat) (x : Die) (p : Nat) : (s.setDie d x).core p = s.core p := by rfl
@[simp] theorem State.setDie_byte (d : Nat) (x : Die) (p : Nat) : (s.setDie d x).byte p = s.byte p := by rfl
@[simp] theorem State.setDie_bytes (d : Nat) (x : Die) (p m : Nat) : (s.setDie d x).bytes p m = s.bytes p m := by rfl
@[simp] theorem State.setDie_num (d : Nat) (x : Die) (p m : Nat) : (s.setDie d x).num p m = s.num p m := by rfl

/-! ### `State.modDie` -/

@[simp] theorem State.modDie_pending (d : Nat) (f : Die → Die) : State.pending (State.modDie s d f) = State.pending s := by rfl
@[simp] theorem State.modDie_now (d : Nat) (f : Die → Die) : State.now (State.modDie s d f) = State.now s := by rfl
@[simp] theorem State.modDie_evNo (d : Nat) (f : Die → Die) : State.evNo (State.modDie s d f) = State.evNo s := by rfl
@[simp] theorem State.modDie_memBad (d : Nat) (f : Die → Die) : State.memBad (State.modDie s d f) = State.memBad s := by rfl
@[simp] theorem State.modDie_freeCtr (d : Nat) (f : Die → Die) : State.freeCtr (State.modDie s d f) = State.freeCtr s := by rfl
@[simp] theorem State.modDie_fuses (d : Nat) (f : Die → Die) : State.fuses (State.modDie s d f) = State.fuses s := by rfl
@[simp] theorem State.modDie_regs (d : Nat) (f : Die → Die) : State.regs (State.modDie s d f) = State.regs s := by rfl
@[simp] theorem State.modDie_held (d : Nat) (f : Die → Die) : State.held (State.modDie s d f) = State.held s := by rfl
@[simp] theorem State.modDie_latch (d : Nat) (f : Die → Die) : State.latch (State.modDie s d f) = State.latch s := by rfl
@[simp] theorem State.modDie_mem (d : Nat) (f : Die → Die) : State.mem (State.modDie s d f) = State.mem s := by rfl
@[simp] theorem State.modDie_lines (d : Nat) (f : Die → Die) : State.lines (State.modDie s d f) = State.lines s := by rfl
@[simp] theorem State.modDie_stale (d : Nat) (f : Die → Die) : State.stale (State.modDie s d f) = State.stale s := by rfl
@[simp] theorem State.modDie_poisonL (d : Nat) (f : Die → Die) : State.poisonL (State.modDie s d f) = State.poisonL s := by rfl
@[simp] theorem State.modDie_poisonW (d : Nat) (f : Die → Die) : State.poisonW (State.modDie s d f) = State.poisonW s := by rfl
@[simp] theorem State.modDie_raises (d : Nat) (f : Die → Die) : State.raises (State.modDie s d f) = State.raises s := by rfl
@[simp] theorem State.modDie_errBits (d : Nat) (f : Die → Die) : State.errBits (State.modDie s d f) = State.errBits s := by rfl
@[simp] theorem State.modDie_nmi (d : Nat) (f : Die → Die) : State.nmi (State.modDie s d f) = State.nmi s := by rfl
@[simp] theorem State.modDie_outbox (d : Nat) (f : Die → Die) : State.outbox (State.modDie s d f) = State.outbox s := by rfl
@[simp] theorem State.modDie_cores (d : Nat) (f : Die → Die) : State.cores (State.modDie s d f) = State.cores s := by rfl
@[simp] theorem State.modDie_net (d : Nat) (f : Die → Die) : State.net (State.modDie s d f) = State.net s := by rfl
@[simp] theorem State.modDie_wen (d : Nat) (f : Die → Die) : State.wen (State.modDie s d f) = State.wen s := by rfl
@[simp] theorem State.modDie_cinch (d : Nat) (f : Die → Die) : State.cinch (State.modDie s d f) = State.cinch s := by rfl
@[simp] theorem State.modDie_shadow (d : Nat) (f : Die → Die) : State.shadow (State.modDie s d f) = State.shadow s := by rfl
@[simp] theorem State.modDie_lr (d : Nat) (f : Die → Die) : State.lr (State.modDie s d f) = State.lr s := by rfl
@[simp] theorem State.modDie_kvWait (d : Nat) (f : Die → Die) : State.kvWait (State.modDie s d f) = State.kvWait s := by rfl
@[simp] theorem State.modDie_acqWait (d : Nat) (f : Die → Die) : State.acqWait (State.modDie s d f) = State.acqWait s := by rfl
@[simp] theorem State.modDie_host (d : Nat) (f : Die → Die) : State.host (State.modDie s d f) = State.host s := by rfl
@[simp] theorem State.modDie_girth (d : Nat) (f : Die → Die) : State.girth (State.modDie s d f) = State.girth s := by rfl
@[simp] theorem State.modDie_sites (d : Nat) (f : Die → Die) : State.sites (State.modDie s d f) = State.sites s := by rfl
@[simp] theorem State.modDie_awl (d : Nat) (f : Die → Die) : State.awl (State.modDie s d f) = State.awl s := by rfl
@[simp] theorem State.modDie_time (d : Nat) (f : Die → Die) : State.time (State.modDie s d f) = State.time s := by rfl
@[simp] theorem State.modDie_boot (d : Nat) (f : Die → Die) : State.boot (State.modDie s d f) = State.boot s := by rfl
@[simp] theorem State.modDie_rd (d : Nat) (f : Die → Die) (p : Nat) : (s.modDie d f).rd p = s.rd p := by rfl
@[simp] theorem State.modDie_f (d : Nat) (f : Die → Die) (p l w : Nat) : (s.modDie d f).f p l w = s.f p l w := by rfl
@[simp] theorem State.modDie_fb (d : Nat) (f : Die → Die) (p l : Nat) : (s.modDie d f).fb p l = s.fb p l := by rfl
@[simp] theorem State.modDie_core (d : Nat) (f : Die → Die) (p : Nat) : (s.modDie d f).core p = s.core p := by rfl
@[simp] theorem State.modDie_byte (d : Nat) (f : Die → Die) (p : Nat) : (s.modDie d f).byte p = s.byte p := by rfl
@[simp] theorem State.modDie_bytes (d : Nat) (f : Die → Die) (p m : Nat) : (s.modDie d f).bytes p m = s.bytes p m := by rfl
@[simp] theorem State.modDie_num (d : Nat) (f : Die → Die) (p m : Nat) : (s.modDie d f).num p m = s.num p m := by rfl

/-! ### `State.setRq` -/

@[simp] theorem State.setRq_pending (k r : Nat) (x : RxQ) : State.pending (State.setRq s k r x) = State.pending s := by rfl
@[simp] theorem State.setRq_now (k r : Nat) (x : RxQ) : State.now (State.setRq s k r x) = State.now s := by rfl
@[simp] theorem State.setRq_evNo (k r : Nat) (x : RxQ) : State.evNo (State.setRq s k r x) = State.evNo s := by rfl
@[simp] theorem State.setRq_memBad (k r : Nat) (x : RxQ) : State.memBad (State.setRq s k r x) = State.memBad s := by rfl
@[simp] theorem State.setRq_freeCtr (k r : Nat) (x : RxQ) : State.freeCtr (State.setRq s k r x) = State.freeCtr s := by rfl
@[simp] theorem State.setRq_fuses (k r : Nat) (x : RxQ) : State.fuses (State.setRq s k r x) = State.fuses s := by rfl
@[simp] theorem State.setRq_regs (k r : Nat) (x : RxQ) : State.regs (State.setRq s k r x) = State.regs s := by rfl
@[simp] theorem State.setRq_held (k r : Nat) (x : RxQ) : State.held (State.setRq s k r x) = State.held s := by rfl
@[simp] theorem State.setRq_latch (k r : Nat) (x : RxQ) : State.latch (State.setRq s k r x) = State.latch s := by rfl
@[simp] theorem State.setRq_mem (k r : Nat) (x : RxQ) : State.mem (State.setRq s k r x) = State.mem s := by rfl
@[simp] theorem State.setRq_lines (k r : Nat) (x : RxQ) : State.lines (State.setRq s k r x) = State.lines s := by rfl
@[simp] theorem State.setRq_stale (k r : Nat) (x : RxQ) : State.stale (State.setRq s k r x) = State.stale s := by rfl
@[simp] theorem State.setRq_poisonL (k r : Nat) (x : RxQ) : State.poisonL (State.setRq s k r x) = State.poisonL s := by rfl
@[simp] theorem State.setRq_poisonW (k r : Nat) (x : RxQ) : State.poisonW (State.setRq s k r x) = State.poisonW s := by rfl
@[simp] theorem State.setRq_raises (k r : Nat) (x : RxQ) : State.raises (State.setRq s k r x) = State.raises s := by rfl
@[simp] theorem State.setRq_errBits (k r : Nat) (x : RxQ) : State.errBits (State.setRq s k r x) = State.errBits s := by rfl
@[simp] theorem State.setRq_nmi (k r : Nat) (x : RxQ) : State.nmi (State.setRq s k r x) = State.nmi s := by rfl
@[simp] theorem State.setRq_outbox (k r : Nat) (x : RxQ) : State.outbox (State.setRq s k r x) = State.outbox s := by rfl
@[simp] theorem State.setRq_dies (k r : Nat) (x : RxQ) : State.dies (State.setRq s k r x) = State.dies s := by rfl
@[simp] theorem State.setRq_net (k r : Nat) (x : RxQ) : State.net (State.setRq s k r x) = State.net s := by rfl
@[simp] theorem State.setRq_wen (k r : Nat) (x : RxQ) : State.wen (State.setRq s k r x) = State.wen s := by rfl
@[simp] theorem State.setRq_cinch (k r : Nat) (x : RxQ) : State.cinch (State.setRq s k r x) = State.cinch s := by rfl
@[simp] theorem State.setRq_shadow (k r : Nat) (x : RxQ) : State.shadow (State.setRq s k r x) = State.shadow s := by rfl
@[simp] theorem State.setRq_lr (k r : Nat) (x : RxQ) : State.lr (State.setRq s k r x) = State.lr s := by rfl
@[simp] theorem State.setRq_kvWait (k r : Nat) (x : RxQ) : State.kvWait (State.setRq s k r x) = State.kvWait s := by rfl
@[simp] theorem State.setRq_acqWait (k r : Nat) (x : RxQ) : State.acqWait (State.setRq s k r x) = State.acqWait s := by rfl
@[simp] theorem State.setRq_host (k r : Nat) (x : RxQ) : State.host (State.setRq s k r x) = State.host s := by rfl
@[simp] theorem State.setRq_girth (k r : Nat) (x : RxQ) : State.girth (State.setRq s k r x) = State.girth s := by rfl
@[simp] theorem State.setRq_sites (k r : Nat) (x : RxQ) : State.sites (State.setRq s k r x) = State.sites s := by rfl
@[simp] theorem State.setRq_awl (k r : Nat) (x : RxQ) : State.awl (State.setRq s k r x) = State.awl s := by rfl
@[simp] theorem State.setRq_time (k r : Nat) (x : RxQ) : State.time (State.setRq s k r x) = State.time s := by rfl
@[simp] theorem State.setRq_boot (k r : Nat) (x : RxQ) : State.boot (State.setRq s k r x) = State.boot s := by rfl
@[simp] theorem State.setRq_rd (k r : Nat) (x : RxQ) (p : Nat) : (s.setRq k r x).rd p = s.rd p := by rfl
@[simp] theorem State.setRq_f (k r : Nat) (x : RxQ) (p l w : Nat) : (s.setRq k r x).f p l w = s.f p l w := by rfl
@[simp] theorem State.setRq_fb (k r : Nat) (x : RxQ) (p l : Nat) : (s.setRq k r x).fb p l = s.fb p l := by rfl
@[simp] theorem State.setRq_die (k r : Nat) (x : RxQ) (p : Nat) : (s.setRq k r x).die p = s.die p := by rfl
@[simp] theorem State.setRq_byte (k r : Nat) (x : RxQ) (p : Nat) : (s.setRq k r x).byte p = s.byte p := by rfl
@[simp] theorem State.setRq_bytes (k r : Nat) (x : RxQ) (p m : Nat) : (s.setRq k r x).bytes p m = s.bytes p m := by rfl
@[simp] theorem State.setRq_num (k r : Nat) (x : RxQ) (p m : Nat) : (s.setRq k r x).num p m = s.num p m := by rfl

/-! ### `State.setChan` -/

@[simp] theorem State.setChan_pending (k c : Nat) (x : Chan) : State.pending (State.setChan s k c x) = State.pending s := by rfl
@[simp] theorem State.setChan_now (k c : Nat) (x : Chan) : State.now (State.setChan s k c x) = State.now s := by rfl
@[simp] theorem State.setChan_evNo (k c : Nat) (x : Chan) : State.evNo (State.setChan s k c x) = State.evNo s := by rfl
@[simp] theorem State.setChan_memBad (k c : Nat) (x : Chan) : State.memBad (State.setChan s k c x) = State.memBad s := by rfl
@[simp] theorem State.setChan_freeCtr (k c : Nat) (x : Chan) : State.freeCtr (State.setChan s k c x) = State.freeCtr s := by rfl
@[simp] theorem State.setChan_fuses (k c : Nat) (x : Chan) : State.fuses (State.setChan s k c x) = State.fuses s := by rfl
@[simp] theorem State.setChan_regs (k c : Nat) (x : Chan) : State.regs (State.setChan s k c x) = State.regs s := by rfl
@[simp] theorem State.setChan_held (k c : Nat) (x : Chan) : State.held (State.setChan s k c x) = State.held s := by rfl
@[simp] theorem State.setChan_latch (k c : Nat) (x : Chan) : State.latch (State.setChan s k c x) = State.latch s := by rfl
@[simp] theorem State.setChan_mem (k c : Nat) (x : Chan) : State.mem (State.setChan s k c x) = State.mem s := by rfl
@[simp] theorem State.setChan_lines (k c : Nat) (x : Chan) : State.lines (State.setChan s k c x) = State.lines s := by rfl
@[simp] theorem State.setChan_stale (k c : Nat) (x : Chan) : State.stale (State.setChan s k c x) = State.stale s := by rfl
@[simp] theorem State.setChan_poisonL (k c : Nat) (x : Chan) : State.poisonL (State.setChan s k c x) = State.poisonL s := by rfl
@[simp] theorem State.setChan_poisonW (k c : Nat) (x : Chan) : State.poisonW (State.setChan s k c x) = State.poisonW s := by rfl
@[simp] theorem State.setChan_raises (k c : Nat) (x : Chan) : State.raises (State.setChan s k c x) = State.raises s := by rfl
@[simp] theorem State.setChan_errBits (k c : Nat) (x : Chan) : State.errBits (State.setChan s k c x) = State.errBits s := by rfl
@[simp] theorem State.setChan_nmi (k c : Nat) (x : Chan) : State.nmi (State.setChan s k c x) = State.nmi s := by rfl
@[simp] theorem State.setChan_outbox (k c : Nat) (x : Chan) : State.outbox (State.setChan s k c x) = State.outbox s := by rfl
@[simp] theorem State.setChan_dies (k c : Nat) (x : Chan) : State.dies (State.setChan s k c x) = State.dies s := by rfl
@[simp] theorem State.setChan_net (k c : Nat) (x : Chan) : State.net (State.setChan s k c x) = State.net s := by rfl
@[simp] theorem State.setChan_wen (k c : Nat) (x : Chan) : State.wen (State.setChan s k c x) = State.wen s := by rfl
@[simp] theorem State.setChan_cinch (k c : Nat) (x : Chan) : State.cinch (State.setChan s k c x) = State.cinch s := by rfl
@[simp] theorem State.setChan_shadow (k c : Nat) (x : Chan) : State.shadow (State.setChan s k c x) = State.shadow s := by rfl
@[simp] theorem State.setChan_lr (k c : Nat) (x : Chan) : State.lr (State.setChan s k c x) = State.lr s := by rfl
@[simp] theorem State.setChan_kvWait (k c : Nat) (x : Chan) : State.kvWait (State.setChan s k c x) = State.kvWait s := by rfl
@[simp] theorem State.setChan_acqWait (k c : Nat) (x : Chan) : State.acqWait (State.setChan s k c x) = State.acqWait s := by rfl
@[simp] theorem State.setChan_host (k c : Nat) (x : Chan) : State.host (State.setChan s k c x) = State.host s := by rfl
@[simp] theorem State.setChan_girth (k c : Nat) (x : Chan) : State.girth (State.setChan s k c x) = State.girth s := by rfl
@[simp] theorem State.setChan_sites (k c : Nat) (x : Chan) : State.sites (State.setChan s k c x) = State.sites s := by rfl
@[simp] theorem State.setChan_awl (k c : Nat) (x : Chan) : State.awl (State.setChan s k c x) = State.awl s := by rfl
@[simp] theorem State.setChan_time (k c : Nat) (x : Chan) : State.time (State.setChan s k c x) = State.time s := by rfl
@[simp] theorem State.setChan_boot (k c : Nat) (x : Chan) : State.boot (State.setChan s k c x) = State.boot s := by rfl
@[simp] theorem State.setChan_rd (k c : Nat) (x : Chan) (p : Nat) : (s.setChan k c x).rd p = s.rd p := by rfl
@[simp] theorem State.setChan_f (k c : Nat) (x : Chan) (p l w : Nat) : (s.setChan k c x).f p l w = s.f p l w := by rfl
@[simp] theorem State.setChan_fb (k c : Nat) (x : Chan) (p l : Nat) : (s.setChan k c x).fb p l = s.fb p l := by rfl
@[simp] theorem State.setChan_die (k c : Nat) (x : Chan) (p : Nat) : (s.setChan k c x).die p = s.die p := by rfl
@[simp] theorem State.setChan_byte (k c : Nat) (x : Chan) (p : Nat) : (s.setChan k c x).byte p = s.byte p := by rfl
@[simp] theorem State.setChan_bytes (k c : Nat) (x : Chan) (p m : Nat) : (s.setChan k c x).bytes p m = s.bytes p m := by rfl
@[simp] theorem State.setChan_num (k c : Nat) (x : Chan) (p m : Nat) : (s.setChan k c x).num p m = s.num p m := by rfl

/-! ### `State.modHost` -/

@[simp] theorem State.modHost_pending (f : HostIf → HostIf) : State.pending (State.modHost s f) = State.pending s := by rfl
@[simp] theorem State.modHost_now (f : HostIf → HostIf) : State.now (State.modHost s f) = State.now s := by rfl
@[simp] theorem State.modHost_evNo (f : HostIf → HostIf) : State.evNo (State.modHost s f) = State.evNo s := by rfl
@[simp] theorem State.modHost_memBad (f : HostIf → HostIf) : State.memBad (State.modHost s f) = State.memBad s := by rfl
@[simp] theorem State.modHost_freeCtr (f : HostIf → HostIf) : State.freeCtr (State.modHost s f) = State.freeCtr s := by rfl
@[simp] theorem State.modHost_fuses (f : HostIf → HostIf) : State.fuses (State.modHost s f) = State.fuses s := by rfl
@[simp] theorem State.modHost_regs (f : HostIf → HostIf) : State.regs (State.modHost s f) = State.regs s := by rfl
@[simp] theorem State.modHost_held (f : HostIf → HostIf) : State.held (State.modHost s f) = State.held s := by rfl
@[simp] theorem State.modHost_latch (f : HostIf → HostIf) : State.latch (State.modHost s f) = State.latch s := by rfl
@[simp] theorem State.modHost_mem (f : HostIf → HostIf) : State.mem (State.modHost s f) = State.mem s := by rfl
@[simp] theorem State.modHost_lines (f : HostIf → HostIf) : State.lines (State.modHost s f) = State.lines s := by rfl
@[simp] theorem State.modHost_stale (f : HostIf → HostIf) : State.stale (State.modHost s f) = State.stale s := by rfl
@[simp] theorem State.modHost_poisonL (f : HostIf → HostIf) : State.poisonL (State.modHost s f) = State.poisonL s := by rfl
@[simp] theorem State.modHost_poisonW (f : HostIf → HostIf) : State.poisonW (State.modHost s f) = State.poisonW s := by rfl
@[simp] theorem State.modHost_raises (f : HostIf → HostIf) : State.raises (State.modHost s f) = State.raises s := by rfl
@[simp] theorem State.modHost_errBits (f : HostIf → HostIf) : State.errBits (State.modHost s f) = State.errBits s := by rfl
@[simp] theorem State.modHost_nmi (f : HostIf → HostIf) : State.nmi (State.modHost s f) = State.nmi s := by rfl
@[simp] theorem State.modHost_outbox (f : HostIf → HostIf) : State.outbox (State.modHost s f) = State.outbox s := by rfl
@[simp] theorem State.modHost_cores (f : HostIf → HostIf) : State.cores (State.modHost s f) = State.cores s := by rfl
@[simp] theorem State.modHost_dies (f : HostIf → HostIf) : State.dies (State.modHost s f) = State.dies s := by rfl
@[simp] theorem State.modHost_net (f : HostIf → HostIf) : State.net (State.modHost s f) = State.net s := by rfl
@[simp] theorem State.modHost_wen (f : HostIf → HostIf) : State.wen (State.modHost s f) = State.wen s := by rfl
@[simp] theorem State.modHost_cinch (f : HostIf → HostIf) : State.cinch (State.modHost s f) = State.cinch s := by rfl
@[simp] theorem State.modHost_shadow (f : HostIf → HostIf) : State.shadow (State.modHost s f) = State.shadow s := by rfl
@[simp] theorem State.modHost_lr (f : HostIf → HostIf) : State.lr (State.modHost s f) = State.lr s := by rfl
@[simp] theorem State.modHost_kvWait (f : HostIf → HostIf) : State.kvWait (State.modHost s f) = State.kvWait s := by rfl
@[simp] theorem State.modHost_acqWait (f : HostIf → HostIf) : State.acqWait (State.modHost s f) = State.acqWait s := by rfl
@[simp] theorem State.modHost_girth (f : HostIf → HostIf) : State.girth (State.modHost s f) = State.girth s := by rfl
@[simp] theorem State.modHost_sites (f : HostIf → HostIf) : State.sites (State.modHost s f) = State.sites s := by rfl
@[simp] theorem State.modHost_awl (f : HostIf → HostIf) : State.awl (State.modHost s f) = State.awl s := by rfl
@[simp] theorem State.modHost_time (f : HostIf → HostIf) : State.time (State.modHost s f) = State.time s := by rfl
@[simp] theorem State.modHost_boot (f : HostIf → HostIf) : State.boot (State.modHost s f) = State.boot s := by rfl
@[simp] theorem State.modHost_rd (f : HostIf → HostIf) (p : Nat) : (s.modHost f).rd p = s.rd p := by rfl
@[simp] theorem State.modHost_f (f : HostIf → HostIf) (p l w : Nat) : (s.modHost f).f p l w = s.f p l w := by rfl
@[simp] theorem State.modHost_fb (f : HostIf → HostIf) (p l : Nat) : (s.modHost f).fb p l = s.fb p l := by rfl
@[simp] theorem State.modHost_core (f : HostIf → HostIf) (p : Nat) : (s.modHost f).core p = s.core p := by rfl
@[simp] theorem State.modHost_die (f : HostIf → HostIf) (p : Nat) : (s.modHost f).die p = s.die p := by rfl
@[simp] theorem State.modHost_byte (f : HostIf → HostIf) (p : Nat) : (s.modHost f).byte p = s.byte p := by rfl
@[simp] theorem State.modHost_bytes (f : HostIf → HostIf) (p m : Nat) : (s.modHost f).bytes p m = s.bytes p m := by rfl
@[simp] theorem State.modHost_num (f : HostIf → HostIf) (p m : Nat) : (s.modHost f).num p m = s.num p m := by rfl

/-! ### `State.setHart` -/

@[simp] theorem State.setHart_pending (o : Nat) (h : NmiHart) : State.pending (State.setHart s o h) = State.pending s := by rfl
@[simp] theorem State.setHart_now (o : Nat) (h : NmiHart) : State.now (State.setHart s o h) = State.now s := by rfl
@[simp] theorem State.setHart_evNo (o : Nat) (h : NmiHart) : State.evNo (State.setHart s o h) = State.evNo s := by rfl
@[simp] theorem State.setHart_memBad (o : Nat) (h : NmiHart) : State.memBad (State.setHart s o h) = State.memBad s := by rfl
@[simp] theorem State.setHart_freeCtr (o : Nat) (h : NmiHart) : State.freeCtr (State.setHart s o h) = State.freeCtr s := by rfl
@[simp] theorem State.setHart_fuses (o : Nat) (h : NmiHart) : State.fuses (State.setHart s o h) = State.fuses s := by rfl
@[simp] theorem State.setHart_regs (o : Nat) (h : NmiHart) : State.regs (State.setHart s o h) = State.regs s := by rfl
@[simp] theorem State.setHart_held (o : Nat) (h : NmiHart) : State.held (State.setHart s o h) = State.held s := by rfl
@[simp] theorem State.setHart_latch (o : Nat) (h : NmiHart) : State.latch (State.setHart s o h) = State.latch s := by rfl
@[simp] theorem State.setHart_mem (o : Nat) (h : NmiHart) : State.mem (State.setHart s o h) = State.mem s := by rfl
@[simp] theorem State.setHart_lines (o : Nat) (h : NmiHart) : State.lines (State.setHart s o h) = State.lines s := by rfl
@[simp] theorem State.setHart_stale (o : Nat) (h : NmiHart) : State.stale (State.setHart s o h) = State.stale s := by rfl
@[simp] theorem State.setHart_poisonL (o : Nat) (h : NmiHart) : State.poisonL (State.setHart s o h) = State.poisonL s := by rfl
@[simp] theorem State.setHart_poisonW (o : Nat) (h : NmiHart) : State.poisonW (State.setHart s o h) = State.poisonW s := by rfl
@[simp] theorem State.setHart_raises (o : Nat) (h : NmiHart) : State.raises (State.setHart s o h) = State.raises s := by rfl
@[simp] theorem State.setHart_errBits (o : Nat) (h : NmiHart) : State.errBits (State.setHart s o h) = State.errBits s := by rfl
@[simp] theorem State.setHart_outbox (o : Nat) (h : NmiHart) : State.outbox (State.setHart s o h) = State.outbox s := by rfl
@[simp] theorem State.setHart_cores (o : Nat) (h : NmiHart) : State.cores (State.setHart s o h) = State.cores s := by rfl
@[simp] theorem State.setHart_dies (o : Nat) (h : NmiHart) : State.dies (State.setHart s o h) = State.dies s := by rfl
@[simp] theorem State.setHart_net (o : Nat) (h : NmiHart) : State.net (State.setHart s o h) = State.net s := by rfl
@[simp] theorem State.setHart_wen (o : Nat) (h : NmiHart) : State.wen (State.setHart s o h) = State.wen s := by rfl
@[simp] theorem State.setHart_cinch (o : Nat) (h : NmiHart) : State.cinch (State.setHart s o h) = State.cinch s := by rfl
@[simp] theorem State.setHart_shadow (o : Nat) (h : NmiHart) : State.shadow (State.setHart s o h) = State.shadow s := by rfl
@[simp] theorem State.setHart_lr (o : Nat) (h : NmiHart) : State.lr (State.setHart s o h) = State.lr s := by rfl
@[simp] theorem State.setHart_kvWait (o : Nat) (h : NmiHart) : State.kvWait (State.setHart s o h) = State.kvWait s := by rfl
@[simp] theorem State.setHart_acqWait (o : Nat) (h : NmiHart) : State.acqWait (State.setHart s o h) = State.acqWait s := by rfl
@[simp] theorem State.setHart_host (o : Nat) (h : NmiHart) : State.host (State.setHart s o h) = State.host s := by rfl
@[simp] theorem State.setHart_girth (o : Nat) (h : NmiHart) : State.girth (State.setHart s o h) = State.girth s := by rfl
@[simp] theorem State.setHart_sites (o : Nat) (h : NmiHart) : State.sites (State.setHart s o h) = State.sites s := by rfl
@[simp] theorem State.setHart_awl (o : Nat) (h : NmiHart) : State.awl (State.setHart s o h) = State.awl s := by rfl
@[simp] theorem State.setHart_time (o : Nat) (h : NmiHart) : State.time (State.setHart s o h) = State.time s := by rfl
@[simp] theorem State.setHart_boot (o : Nat) (h : NmiHart) : State.boot (State.setHart s o h) = State.boot s := by rfl
@[simp] theorem State.setHart_rd (o : Nat) (h : NmiHart) (p : Nat) : (s.setHart o h).rd p = s.rd p := by rfl
@[simp] theorem State.setHart_f (o : Nat) (h : NmiHart) (p l w : Nat) : (s.setHart o h).f p l w = s.f p l w := by rfl
@[simp] theorem State.setHart_fb (o : Nat) (h : NmiHart) (p l : Nat) : (s.setHart o h).fb p l = s.fb p l := by rfl
@[simp] theorem State.setHart_core (o : Nat) (h : NmiHart) (p : Nat) : (s.setHart o h).core p = s.core p := by rfl
@[simp] theorem State.setHart_die (o : Nat) (h : NmiHart) (p : Nat) : (s.setHart o h).die p = s.die p := by rfl
@[simp] theorem State.setHart_byte (o : Nat) (h : NmiHart) (p : Nat) : (s.setHart o h).byte p = s.byte p := by rfl
@[simp] theorem State.setHart_bytes (o : Nat) (h : NmiHart) (p m : Nat) : (s.setHart o h).bytes p m = s.bytes p m := by rfl
@[simp] theorem State.setHart_num (o : Nat) (h : NmiHart) (p m : Nat) : (s.setHart o h).num p m = s.num p m := by rfl

/-! ### `State.setGend` -/

@[simp] theorem State.setGend_pending (e : Nat) (x : GEnd) : State.pending (State.setGend s e x) = State.pending s := by rfl
@[simp] theorem State.setGend_now (e : Nat) (x : GEnd) : State.now (State.setGend s e x) = State.now s := by rfl
@[simp] theorem State.setGend_evNo (e : Nat) (x : GEnd) : State.evNo (State.setGend s e x) = State.evNo s := by rfl
@[simp] theorem State.setGend_memBad (e : Nat) (x : GEnd) : State.memBad (State.setGend s e x) = State.memBad s := by rfl
@[simp] theorem State.setGend_freeCtr (e : Nat) (x : GEnd) : State.freeCtr (State.setGend s e x) = State.freeCtr s := by rfl
@[simp] theorem State.setGend_fuses (e : Nat) (x : GEnd) : State.fuses (State.setGend s e x) = State.fuses s := by rfl
@[simp] theorem State.setGend_regs (e : Nat) (x : GEnd) : State.regs (State.setGend s e x) = State.regs s := by rfl
@[simp] theorem State.setGend_held (e : Nat) (x : GEnd) : State.held (State.setGend s e x) = State.held s := by rfl
@[simp] theorem State.setGend_latch (e : Nat) (x : GEnd) : State.latch (State.setGend s e x) = State.latch s := by rfl
@[simp] theorem State.setGend_mem (e : Nat) (x : GEnd) : State.mem (State.setGend s e x) = State.mem s := by rfl
@[simp] theorem State.setGend_lines (e : Nat) (x : GEnd) : State.lines (State.setGend s e x) = State.lines s := by rfl
@[simp] theorem State.setGend_stale (e : Nat) (x : GEnd) : State.stale (State.setGend s e x) = State.stale s := by rfl
@[simp] theorem State.setGend_poisonL (e : Nat) (x : GEnd) : State.poisonL (State.setGend s e x) = State.poisonL s := by rfl
@[simp] theorem State.setGend_poisonW (e : Nat) (x : GEnd) : State.poisonW (State.setGend s e x) = State.poisonW s := by rfl
@[simp] theorem State.setGend_raises (e : Nat) (x : GEnd) : State.raises (State.setGend s e x) = State.raises s := by rfl
@[simp] theorem State.setGend_errBits (e : Nat) (x : GEnd) : State.errBits (State.setGend s e x) = State.errBits s := by rfl
@[simp] theorem State.setGend_nmi (e : Nat) (x : GEnd) : State.nmi (State.setGend s e x) = State.nmi s := by rfl
@[simp] theorem State.setGend_outbox (e : Nat) (x : GEnd) : State.outbox (State.setGend s e x) = State.outbox s := by rfl
@[simp] theorem State.setGend_cores (e : Nat) (x : GEnd) : State.cores (State.setGend s e x) = State.cores s := by rfl
@[simp] theorem State.setGend_dies (e : Nat) (x : GEnd) : State.dies (State.setGend s e x) = State.dies s := by rfl
@[simp] theorem State.setGend_net (e : Nat) (x : GEnd) : State.net (State.setGend s e x) = State.net s := by rfl
@[simp] theorem State.setGend_wen (e : Nat) (x : GEnd) : State.wen (State.setGend s e x) = State.wen s := by rfl
@[simp] theorem State.setGend_cinch (e : Nat) (x : GEnd) : State.cinch (State.setGend s e x) = State.cinch s := by rfl
@[simp] theorem State.setGend_shadow (e : Nat) (x : GEnd) : State.shadow (State.setGend s e x) = State.shadow s := by rfl
@[simp] theorem State.setGend_lr (e : Nat) (x : GEnd) : State.lr (State.setGend s e x) = State.lr s := by rfl
@[simp] theorem State.setGend_kvWait (e : Nat) (x : GEnd) : State.kvWait (State.setGend s e x) = State.kvWait s := by rfl
@[simp] theorem State.setGend_acqWait (e : Nat) (x : GEnd) : State.acqWait (State.setGend s e x) = State.acqWait s := by rfl
@[simp] theorem State.setGend_host (e : Nat) (x : GEnd) : State.host (State.setGend s e x) = State.host s := by rfl
@[simp] theorem State.setGend_sites (e : Nat) (x : GEnd) : State.sites (State.setGend s e x) = State.sites s := by rfl
@[simp] theorem State.setGend_awl (e : Nat) (x : GEnd) : State.awl (State.setGend s e x) = State.awl s := by rfl
@[simp] theorem State.setGend_time (e : Nat) (x : GEnd) : State.time (State.setGend s e x) = State.time s := by rfl
@[simp] theorem State.setGend_boot (e : Nat) (x : GEnd) : State.boot (State.setGend s e x) = State.boot s := by rfl
@[simp] theorem State.setGend_rd (e : Nat) (x : GEnd) (p : Nat) : (s.setGend e x).rd p = s.rd p := by rfl
@[simp] theorem State.setGend_f (e : Nat) (x : GEnd) (p l w : Nat) : (s.setGend e x).f p l w = s.f p l w := by rfl
@[simp] theorem State.setGend_fb (e : Nat) (x : GEnd) (p l : Nat) : (s.setGend e x).fb p l = s.fb p l := by rfl
@[simp] theorem State.setGend_core (e : Nat) (x : GEnd) (p : Nat) : (s.setGend e x).core p = s.core p := by rfl
@[simp] theorem State.setGend_die (e : Nat) (x : GEnd) (p : Nat) : (s.setGend e x).die p = s.die p := by rfl
@[simp] theorem State.setGend_byte (e : Nat) (x : GEnd) (p : Nat) : (s.setGend e x).byte p = s.byte p := by rfl
@[simp] theorem State.setGend_bytes (e : Nat) (x : GEnd) (p m : Nat) : (s.setGend e x).bytes p m = s.bytes p m := by rfl
@[simp] theorem State.setGend_num (e : Nat) (x : GEnd) (p m : Nat) : (s.setGend e x).num p m = s.num p m := by rfl

/-! ### `State.modGend` -/

@[simp] theorem State.modGend_pending (e : Nat) (f : GEnd → GEnd) : State.pending (State.modGend s e f) = State.pending s := by rfl
@[simp] theorem State.modGend_now (e : Nat) (f : GEnd → GEnd) : State.now (State.modGend s e f) = State.now s := by rfl
@[simp] theorem State.modGend_evNo (e : Nat) (f : GEnd → GEnd) : State.evNo (State.modGend s e f) = State.evNo s := by rfl
@[simp] theorem State.modGend_memBad (e : Nat) (f : GEnd → GEnd) : State.memBad (State.modGend s e f) = State.memBad s := by rfl
@[simp] theorem State.modGend_freeCtr (e : Nat) (f : GEnd → GEnd) : State.freeCtr (State.modGend s e f) = State.freeCtr s := by rfl
@[simp] theorem State.modGend_fuses (e : Nat) (f : GEnd → GEnd) : State.fuses (State.modGend s e f) = State.fuses s := by rfl
@[simp] theorem State.modGend_regs (e : Nat) (f : GEnd → GEnd) : State.regs (State.modGend s e f) = State.regs s := by rfl
@[simp] theorem State.modGend_held (e : Nat) (f : GEnd → GEnd) : State.held (State.modGend s e f) = State.held s := by rfl
@[simp] theorem State.modGend_latch (e : Nat) (f : GEnd → GEnd) : State.latch (State.modGend s e f) = State.latch s := by rfl
@[simp] theorem State.modGend_mem (e : Nat) (f : GEnd → GEnd) : State.mem (State.modGend s e f) = State.mem s := by rfl
@[simp] theorem State.modGend_lines (e : Nat) (f : GEnd → GEnd) : State.lines (State.modGend s e f) = State.lines s := by rfl
@[simp] theorem State.modGend_stale (e : Nat) (f : GEnd → GEnd) : State.stale (State.modGend s e f) = State.stale s := by rfl
@[simp] theorem State.modGend_poisonL (e : Nat) (f : GEnd → GEnd) : State.poisonL (State.modGend s e f) = State.poisonL s := by rfl
@[simp] theorem State.modGend_poisonW (e : Nat) (f : GEnd → GEnd) : State.poisonW (State.modGend s e f) = State.poisonW s := by rfl
@[simp] theorem State.modGend_raises (e : Nat) (f : GEnd → GEnd) : State.raises (State.modGend s e f) = State.raises s := by rfl
@[simp] theorem State.modGend_errBits (e : Nat) (f : GEnd → GEnd) : State.errBits (State.modGend s e f) = State.errBits s := by rfl
@[simp] theorem State.modGend_nmi (e : Nat) (f : GEnd → GEnd) : State.nmi (State.modGend s e f) = State.nmi s := by rfl
@[simp] theorem State.modGend_outbox (e : Nat) (f : GEnd → GEnd) : State.outbox (State.modGend s e f) = State.outbox s := by rfl
@[simp] theorem State.modGend_cores (e : Nat) (f : GEnd → GEnd) : State.cores (State.modGend s e f) = State.cores s := by rfl
@[simp] theorem State.modGend_dies (e : Nat) (f : GEnd → GEnd) : State.dies (State.modGend s e f) = State.dies s := by rfl
@[simp] theorem State.modGend_net (e : Nat) (f : GEnd → GEnd) : State.net (State.modGend s e f) = State.net s := by rfl
@[simp] theorem State.modGend_wen (e : Nat) (f : GEnd → GEnd) : State.wen (State.modGend s e f) = State.wen s := by rfl
@[simp] theorem State.modGend_cinch (e : Nat) (f : GEnd → GEnd) : State.cinch (State.modGend s e f) = State.cinch s := by rfl
@[simp] theorem State.modGend_shadow (e : Nat) (f : GEnd → GEnd) : State.shadow (State.modGend s e f) = State.shadow s := by rfl
@[simp] theorem State.modGend_lr (e : Nat) (f : GEnd → GEnd) : State.lr (State.modGend s e f) = State.lr s := by rfl
@[simp] theorem State.modGend_kvWait (e : Nat) (f : GEnd → GEnd) : State.kvWait (State.modGend s e f) = State.kvWait s := by rfl
@[simp] theorem State.modGend_acqWait (e : Nat) (f : GEnd → GEnd) : State.acqWait (State.modGend s e f) = State.acqWait s := by rfl
@[simp] theorem State.modGend_host (e : Nat) (f : GEnd → GEnd) : State.host (State.modGend s e f) = State.host s := by rfl
@[simp] theorem State.modGend_sites (e : Nat) (f : GEnd → GEnd) : State.sites (State.modGend s e f) = State.sites s := by rfl
@[simp] theorem State.modGend_awl (e : Nat) (f : GEnd → GEnd) : State.awl (State.modGend s e f) = State.awl s := by rfl
@[simp] theorem State.modGend_time (e : Nat) (f : GEnd → GEnd) : State.time (State.modGend s e f) = State.time s := by rfl
@[simp] theorem State.modGend_boot (e : Nat) (f : GEnd → GEnd) : State.boot (State.modGend s e f) = State.boot s := by rfl
@[simp] theorem State.modGend_rd (e : Nat) (f : GEnd → GEnd) (p : Nat) : (s.modGend e f).rd p = s.rd p := by rfl
@[simp] theorem State.modGend_f (e : Nat) (f : GEnd → GEnd) (p l w : Nat) : (s.modGend e f).f p l w = s.f p l w := by rfl
@[simp] theorem State.modGend_fb (e : Nat) (f : GEnd → GEnd) (p l : Nat) : (s.modGend e f).fb p l = s.fb p l := by rfl
@[simp] theorem State.modGend_core (e : Nat) (f : GEnd → GEnd) (p : Nat) : (s.modGend e f).core p = s.core p := by rfl
@[simp] theorem State.modGend_die (e : Nat) (f : GEnd → GEnd) (p : Nat) : (s.modGend e f).die p = s.die p := by rfl
@[simp] theorem State.modGend_byte (e : Nat) (f : GEnd → GEnd) (p : Nat) : (s.modGend e f).byte p = s.byte p := by rfl
@[simp] theorem State.modGend_bytes (e : Nat) (f : GEnd → GEnd) (p m : Nat) : (s.modGend e f).bytes p m = s.bytes p m := by rfl
@[simp] theorem State.modGend_num (e : Nat) (f : GEnd → GEnd) (p m : Nat) : (s.modGend e f).num p m = s.num p m := by rfl

/-! ### `State.setWport` -/

@[simp] theorem State.setWport_pending (q : Nat) (x : WPort) : State.pending (State.setWport s q x) = State.pending s := by rfl
@[simp] theorem State.setWport_now (q : Nat) (x : WPort) : State.now (State.setWport s q x) = State.now s := by rfl
@[simp] theorem State.setWport_evNo (q : Nat) (x : WPort) : State.evNo (State.setWport s q x) = State.evNo s := by rfl
@[simp] theorem State.setWport_memBad (q : Nat) (x : WPort) : State.memBad (State.setWport s q x) = State.memBad s := by rfl
@[simp] theorem State.setWport_freeCtr (q : Nat) (x : WPort) : State.freeCtr (State.setWport s q x) = State.freeCtr s := by rfl
@[simp] theorem State.setWport_fuses (q : Nat) (x : WPort) : State.fuses (State.setWport s q x) = State.fuses s := by rfl
@[simp] theorem State.setWport_regs (q : Nat) (x : WPort) : State.regs (State.setWport s q x) = State.regs s := by rfl
@[simp] theorem State.setWport_held (q : Nat) (x : WPort) : State.held (State.setWport s q x) = State.held s := by rfl
@[simp] theorem State.setWport_latch (q : Nat) (x : WPort) : State.latch (State.setWport s q x) = State.latch s := by rfl
@[simp] theorem State.setWport_mem (q : Nat) (x : WPort) : State.mem (State.setWport s q x) = State.mem s := by rfl
@[simp] theorem State.setWport_lines (q : Nat) (x : WPort) : State.lines (State.setWport s q x) = State.lines s := by rfl
@[simp] theorem State.setWport_stale (q : Nat) (x : WPort) : State.stale (State.setWport s q x) = State.stale s := by rfl
@[simp] theorem State.setWport_poisonL (q : Nat) (x : WPort) : State.poisonL (State.setWport s q x) = State.poisonL s := by rfl
@[simp] theorem State.setWport_poisonW (q : Nat) (x : WPort) : State.poisonW (State.setWport s q x) = State.poisonW s := by rfl
@[simp] theorem State.setWport_raises (q : Nat) (x : WPort) : State.raises (State.setWport s q x) = State.raises s := by rfl
@[simp] theorem State.setWport_errBits (q : Nat) (x : WPort) : State.errBits (State.setWport s q x) = State.errBits s := by rfl
@[simp] theorem State.setWport_nmi (q : Nat) (x : WPort) : State.nmi (State.setWport s q x) = State.nmi s := by rfl
@[simp] theorem State.setWport_outbox (q : Nat) (x : WPort) : State.outbox (State.setWport s q x) = State.outbox s := by rfl
@[simp] theorem State.setWport_cores (q : Nat) (x : WPort) : State.cores (State.setWport s q x) = State.cores s := by rfl
@[simp] theorem State.setWport_dies (q : Nat) (x : WPort) : State.dies (State.setWport s q x) = State.dies s := by rfl
@[simp] theorem State.setWport_net (q : Nat) (x : WPort) : State.net (State.setWport s q x) = State.net s := by rfl
@[simp] theorem State.setWport_cinch (q : Nat) (x : WPort) : State.cinch (State.setWport s q x) = State.cinch s := by rfl
@[simp] theorem State.setWport_shadow (q : Nat) (x : WPort) : State.shadow (State.setWport s q x) = State.shadow s := by rfl
@[simp] theorem State.setWport_lr (q : Nat) (x : WPort) : State.lr (State.setWport s q x) = State.lr s := by rfl
@[simp] theorem State.setWport_kvWait (q : Nat) (x : WPort) : State.kvWait (State.setWport s q x) = State.kvWait s := by rfl
@[simp] theorem State.setWport_acqWait (q : Nat) (x : WPort) : State.acqWait (State.setWport s q x) = State.acqWait s := by rfl
@[simp] theorem State.setWport_host (q : Nat) (x : WPort) : State.host (State.setWport s q x) = State.host s := by rfl
@[simp] theorem State.setWport_girth (q : Nat) (x : WPort) : State.girth (State.setWport s q x) = State.girth s := by rfl
@[simp] theorem State.setWport_sites (q : Nat) (x : WPort) : State.sites (State.setWport s q x) = State.sites s := by rfl
@[simp] theorem State.setWport_awl (q : Nat) (x : WPort) : State.awl (State.setWport s q x) = State.awl s := by rfl
@[simp] theorem State.setWport_time (q : Nat) (x : WPort) : State.time (State.setWport s q x) = State.time s := by rfl
@[simp] theorem State.setWport_boot (q : Nat) (x : WPort) : State.boot (State.setWport s q x) = State.boot s := by rfl
@[simp] theorem State.setWport_rd (q : Nat) (x : WPort) (p : Nat) : (s.setWport q x).rd p = s.rd p := by rfl
@[simp] theorem State.setWport_f (q : Nat) (x : WPort) (p l w : Nat) : (s.setWport q x).f p l w = s.f p l w := by rfl
@[simp] theorem State.setWport_fb (q : Nat) (x : WPort) (p l : Nat) : (s.setWport q x).fb p l = s.fb p l := by rfl
@[simp] theorem State.setWport_core (q : Nat) (x : WPort) (p : Nat) : (s.setWport q x).core p = s.core p := by rfl
@[simp] theorem State.setWport_die (q : Nat) (x : WPort) (p : Nat) : (s.setWport q x).die p = s.die p := by rfl
@[simp] theorem State.setWport_byte (q : Nat) (x : WPort) (p : Nat) : (s.setWport q x).byte p = s.byte p := by rfl
@[simp] theorem State.setWport_bytes (q : Nat) (x : WPort) (p m : Nat) : (s.setWport q x).bytes p m = s.bytes p m := by rfl
@[simp] theorem State.setWport_num (q : Nat) (x : WPort) (p m : Nat) : (s.setWport q x).num p m = s.num p m := by rfl

/-! ### `State.modWport` -/

@[simp] theorem State.modWport_pending (q : Nat) (f : WPort → WPort) : State.pending (State.modWport s q f) = State.pending s := by rfl
@[simp] theorem State.modWport_now (q : Nat) (f : WPort → WPort) : State.now (State.modWport s q f) = State.now s := by rfl
@[simp] theorem State.modWport_evNo (q : Nat) (f : WPort → WPort) : State.evNo (State.modWport s q f) = State.evNo s := by rfl
@[simp] theorem State.modWport_memBad (q : Nat) (f : WPort → WPort) : State.memBad (State.modWport s q f) = State.memBad s := by rfl
@[simp] theorem State.modWport_freeCtr (q : Nat) (f : WPort → WPort) : State.freeCtr (State.modWport s q f) = State.freeCtr s := by rfl
@[simp] theorem State.modWport_fuses (q : Nat) (f : WPort → WPort) : State.fuses (State.modWport s q f) = State.fuses s := by rfl
@[simp] theorem State.modWport_regs (q : Nat) (f : WPort → WPort) : State.regs (State.modWport s q f) = State.regs s := by rfl
@[simp] theorem State.modWport_held (q : Nat) (f : WPort → WPort) : State.held (State.modWport s q f) = State.held s := by rfl
@[simp] theorem State.modWport_latch (q : Nat) (f : WPort → WPort) : State.latch (State.modWport s q f) = State.latch s := by rfl
@[simp] theorem State.modWport_mem (q : Nat) (f : WPort → WPort) : State.mem (State.modWport s q f) = State.mem s := by rfl
@[simp] theorem State.modWport_lines (q : Nat) (f : WPort → WPort) : State.lines (State.modWport s q f) = State.lines s := by rfl
@[simp] theorem State.modWport_stale (q : Nat) (f : WPort → WPort) : State.stale (State.modWport s q f) = State.stale s := by rfl
@[simp] theorem State.modWport_poisonL (q : Nat) (f : WPort → WPort) : State.poisonL (State.modWport s q f) = State.poisonL s := by rfl
@[simp] theorem State.modWport_poisonW (q : Nat) (f : WPort → WPort) : State.poisonW (State.modWport s q f) = State.poisonW s := by rfl
@[simp] theorem State.modWport_raises (q : Nat) (f : WPort → WPort) : State.raises (State.modWport s q f) = State.raises s := by rfl
@[simp] theorem State.modWport_errBits (q : Nat) (f : WPort → WPort) : State.errBits (State.modWport s q f) = State.errBits s := by rfl
@[simp] theorem State.modWport_nmi (q : Nat) (f : WPort → WPort) : State.nmi (State.modWport s q f) = State.nmi s := by rfl
@[simp] theorem State.modWport_outbox (q : Nat) (f : WPort → WPort) : State.outbox (State.modWport s q f) = State.outbox s := by rfl
@[simp] theorem State.modWport_cores (q : Nat) (f : WPort → WPort) : State.cores (State.modWport s q f) = State.cores s := by rfl
@[simp] theorem State.modWport_dies (q : Nat) (f : WPort → WPort) : State.dies (State.modWport s q f) = State.dies s := by rfl
@[simp] theorem State.modWport_net (q : Nat) (f : WPort → WPort) : State.net (State.modWport s q f) = State.net s := by rfl
@[simp] theorem State.modWport_cinch (q : Nat) (f : WPort → WPort) : State.cinch (State.modWport s q f) = State.cinch s := by rfl
@[simp] theorem State.modWport_shadow (q : Nat) (f : WPort → WPort) : State.shadow (State.modWport s q f) = State.shadow s := by rfl
@[simp] theorem State.modWport_lr (q : Nat) (f : WPort → WPort) : State.lr (State.modWport s q f) = State.lr s := by rfl
@[simp] theorem State.modWport_kvWait (q : Nat) (f : WPort → WPort) : State.kvWait (State.modWport s q f) = State.kvWait s := by rfl
@[simp] theorem State.modWport_acqWait (q : Nat) (f : WPort → WPort) : State.acqWait (State.modWport s q f) = State.acqWait s := by rfl
@[simp] theorem State.modWport_host (q : Nat) (f : WPort → WPort) : State.host (State.modWport s q f) = State.host s := by rfl
@[simp] theorem State.modWport_girth (q : Nat) (f : WPort → WPort) : State.girth (State.modWport s q f) = State.girth s := by rfl
@[simp] theorem State.modWport_sites (q : Nat) (f : WPort → WPort) : State.sites (State.modWport s q f) = State.sites s := by rfl
@[simp] theorem State.modWport_awl (q : Nat) (f : WPort → WPort) : State.awl (State.modWport s q f) = State.awl s := by rfl
@[simp] theorem State.modWport_time (q : Nat) (f : WPort → WPort) : State.time (State.modWport s q f) = State.time s := by rfl
@[simp] theorem State.modWport_boot (q : Nat) (f : WPort → WPort) : State.boot (State.modWport s q f) = State.boot s := by rfl
@[simp] theorem State.modWport_rd (q : Nat) (f : WPort → WPort) (p : Nat) : (s.modWport q f).rd p = s.rd p := by rfl
@[simp] theorem State.modWport_f (q : Nat) (f : WPort → WPort) (p l w : Nat) : (s.modWport q f).f p l w = s.f p l w := by rfl
@[simp] theorem State.modWport_fb (q : Nat) (f : WPort → WPort) (p l : Nat) : (s.modWport q f).fb p l = s.fb p l := by rfl
@[simp] theorem State.modWport_core (q : Nat) (f : WPort → WPort) (p : Nat) : (s.modWport q f).core p = s.core p := by rfl
@[simp] theorem State.modWport_die (q : Nat) (f : WPort → WPort) (p : Nat) : (s.modWport q f).die p = s.die p := by rfl
@[simp] theorem State.modWport_byte (q : Nat) (f : WPort → WPort) (p : Nat) : (s.modWport q f).byte p = s.byte p := by rfl
@[simp] theorem State.modWport_bytes (q : Nat) (f : WPort → WPort) (p m : Nat) : (s.modWport q f).bytes p m = s.bytes p m := by rfl
@[simp] theorem State.modWport_num (q : Nat) (f : WPort → WPort) (p m : Nat) : (s.modWport q f).num p m = s.num p m := by rfl

/-! ### A domain that wakes (R380) -/


/-- Reads of memory depend on memory alone. -/
theorem byte_mem {t : State} (h : t.mem = s.mem) (k : Nat) : t.byte k = s.byte k := by unfold State.byte; rw [h]
theorem bytes_mem {t : State} (h : t.mem = s.mem) (k m : Nat) : t.bytes k m = s.bytes k m := by
  unfold State.bytes; rw [show t.byte = s.byte from funext (byte_mem s h)]
theorem num_mem {t : State} (h : t.mem = s.mem) (k m : Nat) : t.num k m = s.num k m := by unfold State.num; rw [bytes_mem s h]

@[simp] theorem wakeNow_pending (d n : Nat) : State.pending (wakeNow s d n) = State.pending s := by unfold wakeNow; split <;> simp
@[simp] theorem wakeNow_now (d n : Nat) : State.now (wakeNow s d n) = State.now s := by unfold wakeNow; split <;> simp
@[simp] theorem wakeNow_evNo (d n : Nat) : State.evNo (wakeNow s d n) = State.evNo s := by unfold wakeNow; split <;> simp
@[simp] theorem wakeNow_memBad (d n : Nat) : State.memBad (wakeNow s d n) = State.memBad s := by unfold wakeNow; split <;> simp
@[simp] theorem wakeNow_freeCtr (d n : Nat) : State.freeCtr (wakeNow s d n) = State.freeCtr s := by unfold wakeNow; split <;> simp
@[simp] theorem wakeNow_fuses (d n : Nat) : State.fuses (wakeNow s d n) = State.fuses s := by unfold wakeNow; split <;> simp
@[simp] theorem wakeNow_held (d n : Nat) : State.held (wakeNow s d n) = State.held s := by unfold wakeNow; split <;> simp
@[simp] theorem wakeNow_latch (d n : Nat) : State.latch (wakeNow s d n) = State.latch s := by unfold wakeNow; split <;> simp
@[simp] theorem wakeNow_mem (d n : Nat) : State.mem (wakeNow s d n) = State.mem s := by unfold wakeNow; split <;> simp
@[simp] theorem wakeNow_lines (d n : Nat) : State.lines (wakeNow s d n) = State.lines s := by unfold wakeNow; split <;> simp
@[simp] theorem wakeNow_stale (d n : Nat) : State.stale (wakeNow s d n) = State.stale s := by unfold wakeNow; split <;> simp
@[simp] theorem wakeNow_poisonL (d n : Nat) : State.poisonL (wakeNow s d n) = State.poisonL s := by unfold wakeNow; split <;> simp
@[simp] theorem wakeNow_poisonW (d n : Nat) : State.poisonW (wakeNow s d n) = State.poisonW s := by unfold wakeNow; split <;> simp
@[simp] theorem wakeNow_raises (d n : Nat) : State.raises (wakeNow s d n) = State.raises s := by unfold wakeNow; split <;> simp
@[simp] theorem wakeNow_errBits (d n : Nat) : State.errBits (wakeNow s d n) = State.errBits s := by unfold wakeNow; split <;> simp
@[simp] theorem wakeNow_nmi (d n : Nat) : State.nmi (wakeNow s d n) = State.nmi s := by unfold wakeNow; split <;> simp
@[simp] theorem wakeNow_outbox (d n : Nat) : State.outbox (wakeNow s d n) = State.outbox s := by unfold wakeNow; split <;> simp
@[simp] theorem wakeNow_cores (d n : Nat) : State.cores (wakeNow s d n) = State.cores s := by unfold wakeNow; split <;> simp
@[simp] theorem wakeNow_net (d n : Nat) : State.net (wakeNow s d n) = State.net s := by unfold wakeNow; split <;> simp
@[simp] theorem wakeNow_wen (d n : Nat) : State.wen (wakeNow s d n) = State.wen s := by unfold wakeNow; split <;> simp
@[simp] theorem wakeNow_cinch (d n : Nat) : State.cinch (wakeNow s d n) = State.cinch s := by unfold wakeNow; split <;> simp
@[simp] theorem wakeNow_shadow (d n : Nat) : State.shadow (wakeNow s d n) = State.shadow s := by unfold wakeNow; split <;> simp
@[simp] theorem wakeNow_lr (d n : Nat) : State.lr (wakeNow s d n) = State.lr s := by unfold wakeNow; split <;> simp
@[simp] theorem wakeNow_kvWait (d n : Nat) : State.kvWait (wakeNow s d n) = State.kvWait s := by unfold wakeNow; split <;> simp
@[simp] theorem wakeNow_acqWait (d n : Nat) : State.acqWait (wakeNow s d n) = State.acqWait s := by unfold wakeNow; split <;> simp
@[simp] theorem wakeNow_host (d n : Nat) : State.host (wakeNow s d n) = State.host s := by unfold wakeNow; split <;> simp
@[simp] theorem wakeNow_girth (d n : Nat) : State.girth (wakeNow s d n) = State.girth s := by unfold wakeNow; split <;> simp
@[simp] theorem wakeNow_sites (d n : Nat) : State.sites (wakeNow s d n) = State.sites s := by unfold wakeNow; split <;> simp
@[simp] theorem wakeNow_awl (d n : Nat) : State.awl (wakeNow s d n) = State.awl s := by unfold wakeNow; split <;> simp
@[simp] theorem wakeNow_time (d n : Nat) : State.time (wakeNow s d n) = State.time s := by unfold wakeNow; split <;> simp
@[simp] theorem wakeNow_boot (d n : Nat) : State.boot (wakeNow s d n) = State.boot s := by unfold wakeNow; split <;> simp
@[simp] theorem wakeNow_core (d n : Nat) (p : Nat) : (wakeNow s d n).core p = s.core p := by simp [State.core]
@[simp] theorem wakeNow_byte (d n : Nat) (p : Nat) : (wakeNow s d n).byte p = s.byte p := byte_mem _ (by simp) _
@[simp] theorem wakeNow_bytes (d n : Nat) (p m : Nat) : (wakeNow s d n).bytes p m = s.bytes p m := bytes_mem _ (by simp) _ _
@[simp] theorem wakeNow_num (d n : Nat) (p m : Nat) : (wakeNow s d n).num p m = s.num p m := num_mem _ (by simp) _ _
@[simp] theorem State.modCinch_pending (f : Cinch → Cinch) : State.pending (State.modCinch s f) = State.pending s := by simp [State.modCinch]
@[simp] theorem State.modCinch_now (f : Cinch → Cinch) : State.now (State.modCinch s f) = State.now s := by simp [State.modCinch]
@[simp] theorem State.modCinch_evNo (f : Cinch → Cinch) : State.evNo (State.modCinch s f) = State.evNo s := by simp [State.modCinch]
@[simp] theorem State.modCinch_memBad (f : Cinch → Cinch) : State.memBad (State.modCinch s f) = State.memBad s := by simp [State.modCinch]
@[simp] theorem State.modCinch_freeCtr (f : Cinch → Cinch) : State.freeCtr (State.modCinch s f) = State.freeCtr s := by simp [State.modCinch]
@[simp] theorem State.modCinch_fuses (f : Cinch → Cinch) : State.fuses (State.modCinch s f) = State.fuses s := by simp [State.modCinch]
@[simp] theorem State.modCinch_held (f : Cinch → Cinch) : State.held (State.modCinch s f) = State.held s := by simp [State.modCinch]
@[simp] theorem State.modCinch_latch (f : Cinch → Cinch) : State.latch (State.modCinch s f) = State.latch s := by simp [State.modCinch]
@[simp] theorem State.modCinch_mem (f : Cinch → Cinch) : State.mem (State.modCinch s f) = State.mem s := by simp [State.modCinch]
@[simp] theorem State.modCinch_lines (f : Cinch → Cinch) : State.lines (State.modCinch s f) = State.lines s := by simp [State.modCinch]
@[simp] theorem State.modCinch_stale (f : Cinch → Cinch) : State.stale (State.modCinch s f) = State.stale s := by simp [State.modCinch]
@[simp] theorem State.modCinch_poisonL (f : Cinch → Cinch) : State.poisonL (State.modCinch s f) = State.poisonL s := by simp [State.modCinch]
@[simp] theorem State.modCinch_poisonW (f : Cinch → Cinch) : State.poisonW (State.modCinch s f) = State.poisonW s := by simp [State.modCinch]
@[simp] theorem State.modCinch_raises (f : Cinch → Cinch) : State.raises (State.modCinch s f) = State.raises s := by simp [State.modCinch]
@[simp] theorem State.modCinch_errBits (f : Cinch → Cinch) : State.errBits (State.modCinch s f) = State.errBits s := by simp [State.modCinch]
@[simp] theorem State.modCinch_nmi (f : Cinch → Cinch) : State.nmi (State.modCinch s f) = State.nmi s := by simp [State.modCinch]
@[simp] theorem State.modCinch_outbox (f : Cinch → Cinch) : State.outbox (State.modCinch s f) = State.outbox s := by simp [State.modCinch]
@[simp] theorem State.modCinch_cores (f : Cinch → Cinch) : State.cores (State.modCinch s f) = State.cores s := by simp [State.modCinch]
@[simp] theorem State.modCinch_net (f : Cinch → Cinch) : State.net (State.modCinch s f) = State.net s := by simp [State.modCinch]
@[simp] theorem State.modCinch_wen (f : Cinch → Cinch) : State.wen (State.modCinch s f) = State.wen s := by simp [State.modCinch]
@[simp] theorem State.modCinch_shadow (f : Cinch → Cinch) : State.shadow (State.modCinch s f) = State.shadow s := by simp [State.modCinch]
@[simp] theorem State.modCinch_lr (f : Cinch → Cinch) : State.lr (State.modCinch s f) = State.lr s := by simp [State.modCinch]
@[simp] theorem State.modCinch_kvWait (f : Cinch → Cinch) : State.kvWait (State.modCinch s f) = State.kvWait s := by simp [State.modCinch]
@[simp] theorem State.modCinch_acqWait (f : Cinch → Cinch) : State.acqWait (State.modCinch s f) = State.acqWait s := by simp [State.modCinch]
@[simp] theorem State.modCinch_host (f : Cinch → Cinch) : State.host (State.modCinch s f) = State.host s := by simp [State.modCinch]
@[simp] theorem State.modCinch_girth (f : Cinch → Cinch) : State.girth (State.modCinch s f) = State.girth s := by simp [State.modCinch]
@[simp] theorem State.modCinch_sites (f : Cinch → Cinch) : State.sites (State.modCinch s f) = State.sites s := by simp [State.modCinch]
@[simp] theorem State.modCinch_awl (f : Cinch → Cinch) : State.awl (State.modCinch s f) = State.awl s := by simp [State.modCinch]
@[simp] theorem State.modCinch_time (f : Cinch → Cinch) : State.time (State.modCinch s f) = State.time s := by simp [State.modCinch]
@[simp] theorem State.modCinch_boot (f : Cinch → Cinch) : State.boot (State.modCinch s f) = State.boot s := by simp [State.modCinch]
@[simp] theorem State.modCinch_core (f : Cinch → Cinch) (k : Nat) : (s.modCinch f).core k = s.core k := by simp [State.modCinch, State.core]
@[simp] theorem State.modCinch_byte (f : Cinch → Cinch) (k : Nat) : (s.modCinch f).byte k = s.byte k := byte_mem _ (by simp) _
@[simp] theorem State.modCinch_bytes (f : Cinch → Cinch) (k m : Nat) : (s.modCinch f).bytes k m = s.bytes k m := bytes_mem _ (by simp) _ _
@[simp] theorem State.modCinch_num (f : Cinch → Cinch) (k m : Nat) : (s.modCinch f).num k m = s.num k m := num_mem _ (by simp) _ _
@[simp] theorem State.modShadow_pending (f : Shadow → Shadow) : State.pending (State.modShadow s f) = State.pending s := by simp [State.modShadow]
@[simp] theorem State.modShadow_now (f : Shadow → Shadow) : State.now (State.modShadow s f) = State.now s := by simp [State.modShadow]
@[simp] theorem State.modShadow_evNo (f : Shadow → Shadow) : State.evNo (State.modShadow s f) = State.evNo s := by simp [State.modShadow]
@[simp] theorem State.modShadow_memBad (f : Shadow → Shadow) : State.memBad (State.modShadow s f) = State.memBad s := by simp [State.modShadow]
@[simp] theorem State.modShadow_freeCtr (f : Shadow → Shadow) : State.freeCtr (State.modShadow s f) = State.freeCtr s := by simp [State.modShadow]
@[simp] theorem State.modShadow_fuses (f : Shadow → Shadow) : State.fuses (State.modShadow s f) = State.fuses s := by simp [State.modShadow]
@[simp] theorem State.modShadow_held (f : Shadow → Shadow) : State.held (State.modShadow s f) = State.held s := by simp [State.modShadow]
@[simp] theorem State.modShadow_latch (f : Shadow → Shadow) : State.latch (State.modShadow s f) = State.latch s := by simp [State.modShadow]
@[simp] theorem State.modShadow_mem (f : Shadow → Shadow) : State.mem (State.modShadow s f) = State.mem s := by simp [State.modShadow]
@[simp] theorem State.modShadow_lines (f : Shadow → Shadow) : State.lines (State.modShadow s f) = State.lines s := by simp [State.modShadow]
@[simp] theorem State.modShadow_stale (f : Shadow → Shadow) : State.stale (State.modShadow s f) = State.stale s := by simp [State.modShadow]
@[simp] theorem State.modShadow_poisonL (f : Shadow → Shadow) : State.poisonL (State.modShadow s f) = State.poisonL s := by simp [State.modShadow]
@[simp] theorem State.modShadow_poisonW (f : Shadow → Shadow) : State.poisonW (State.modShadow s f) = State.poisonW s := by simp [State.modShadow]
@[simp] theorem State.modShadow_raises (f : Shadow → Shadow) : State.raises (State.modShadow s f) = State.raises s := by simp [State.modShadow]
@[simp] theorem State.modShadow_errBits (f : Shadow → Shadow) : State.errBits (State.modShadow s f) = State.errBits s := by simp [State.modShadow]
@[simp] theorem State.modShadow_nmi (f : Shadow → Shadow) : State.nmi (State.modShadow s f) = State.nmi s := by simp [State.modShadow]
@[simp] theorem State.modShadow_outbox (f : Shadow → Shadow) : State.outbox (State.modShadow s f) = State.outbox s := by simp [State.modShadow]
@[simp] theorem State.modShadow_cores (f : Shadow → Shadow) : State.cores (State.modShadow s f) = State.cores s := by simp [State.modShadow]
@[simp] theorem State.modShadow_net (f : Shadow → Shadow) : State.net (State.modShadow s f) = State.net s := by simp [State.modShadow]
@[simp] theorem State.modShadow_wen (f : Shadow → Shadow) : State.wen (State.modShadow s f) = State.wen s := by simp [State.modShadow]
@[simp] theorem State.modShadow_cinch (f : Shadow → Shadow) : State.cinch (State.modShadow s f) = State.cinch s := by simp [State.modShadow]
@[simp] theorem State.modShadow_lr (f : Shadow → Shadow) : State.lr (State.modShadow s f) = State.lr s := by simp [State.modShadow]
@[simp] theorem State.modShadow_kvWait (f : Shadow → Shadow) : State.kvWait (State.modShadow s f) = State.kvWait s := by simp [State.modShadow]
@[simp] theorem State.modShadow_acqWait (f : Shadow → Shadow) : State.acqWait (State.modShadow s f) = State.acqWait s := by simp [State.modShadow]
@[simp] theorem State.modShadow_host (f : Shadow → Shadow) : State.host (State.modShadow s f) = State.host s := by simp [State.modShadow]
@[simp] theorem State.modShadow_girth (f : Shadow → Shadow) : State.girth (State.modShadow s f) = State.girth s := by simp [State.modShadow]
@[simp] theorem State.modShadow_sites (f : Shadow → Shadow) : State.sites (State.modShadow s f) = State.sites s := by simp [State.modShadow]
@[simp] theorem State.modShadow_awl (f : Shadow → Shadow) : State.awl (State.modShadow s f) = State.awl s := by simp [State.modShadow]
@[simp] theorem State.modShadow_time (f : Shadow → Shadow) : State.time (State.modShadow s f) = State.time s := by simp [State.modShadow]
@[simp] theorem State.modShadow_boot (f : Shadow → Shadow) : State.boot (State.modShadow s f) = State.boot s := by simp [State.modShadow]
@[simp] theorem State.modShadow_core (f : Shadow → Shadow) (k : Nat) : (s.modShadow f).core k = s.core k := by simp [State.modShadow, State.core]
@[simp] theorem State.modShadow_byte (f : Shadow → Shadow) (k : Nat) : (s.modShadow f).byte k = s.byte k := byte_mem _ (by simp) _
@[simp] theorem State.modShadow_bytes (f : Shadow → Shadow) (k m : Nat) : (s.modShadow f).bytes k m = s.bytes k m := bytes_mem _ (by simp) _ _
@[simp] theorem State.modShadow_num (f : Shadow → Shadow) (k m : Nat) : (s.modShadow f).num k m = s.num k m := num_mem _ (by simp) _ _
@[simp] theorem State.setSite_pending (i : Nat) (x : Site) : State.pending (State.setSite s i x) = State.pending s := by simp [State.setSite]
@[simp] theorem State.setSite_now (i : Nat) (x : Site) : State.now (State.setSite s i x) = State.now s := by simp [State.setSite]
@[simp] theorem State.setSite_evNo (i : Nat) (x : Site) : State.evNo (State.setSite s i x) = State.evNo s := by simp [State.setSite]
@[simp] theorem State.setSite_memBad (i : Nat) (x : Site) : State.memBad (State.setSite s i x) = State.memBad s := by simp [State.setSite]
@[simp] theorem State.setSite_freeCtr (i : Nat) (x : Site) : State.freeCtr (State.setSite s i x) = State.freeCtr s := by simp [State.setSite]
@[simp] theorem State.setSite_fuses (i : Nat) (x : Site) : State.fuses (State.setSite s i x) = State.fuses s := by simp [State.setSite]
@[simp] theorem State.setSite_held (i : Nat) (x : Site) : State.held (State.setSite s i x) = State.held s := by simp [State.setSite]
@[simp] theorem State.setSite_latch (i : Nat) (x : Site) : State.latch (State.setSite s i x) = State.latch s := by simp [State.setSite]
@[simp] theorem State.setSite_mem (i : Nat) (x : Site) : State.mem (State.setSite s i x) = State.mem s := by simp [State.setSite]
@[simp] theorem State.setSite_lines (i : Nat) (x : Site) : State.lines (State.setSite s i x) = State.lines s := by simp [State.setSite]
@[simp] theorem State.setSite_stale (i : Nat) (x : Site) : State.stale (State.setSite s i x) = State.stale s := by simp [State.setSite]
@[simp] theorem State.setSite_poisonL (i : Nat) (x : Site) : State.poisonL (State.setSite s i x) = State.poisonL s := by simp [State.setSite]
@[simp] theorem State.setSite_poisonW (i : Nat) (x : Site) : State.poisonW (State.setSite s i x) = State.poisonW s := by simp [State.setSite]
@[simp] theorem State.setSite_raises (i : Nat) (x : Site) : State.raises (State.setSite s i x) = State.raises s := by simp [State.setSite]
@[simp] theorem State.setSite_errBits (i : Nat) (x : Site) : State.errBits (State.setSite s i x) = State.errBits s := by simp [State.setSite]
@[simp] theorem State.setSite_nmi (i : Nat) (x : Site) : State.nmi (State.setSite s i x) = State.nmi s := by simp [State.setSite]
@[simp] theorem State.setSite_outbox (i : Nat) (x : Site) : State.outbox (State.setSite s i x) = State.outbox s := by simp [State.setSite]
@[simp] theorem State.setSite_cores (i : Nat) (x : Site) : State.cores (State.setSite s i x) = State.cores s := by simp [State.setSite]
@[simp] theorem State.setSite_net (i : Nat) (x : Site) : State.net (State.setSite s i x) = State.net s := by simp [State.setSite]
@[simp] theorem State.setSite_wen (i : Nat) (x : Site) : State.wen (State.setSite s i x) = State.wen s := by simp [State.setSite]
@[simp] theorem State.setSite_cinch (i : Nat) (x : Site) : State.cinch (State.setSite s i x) = State.cinch s := by simp [State.setSite]
@[simp] theorem State.setSite_shadow (i : Nat) (x : Site) : State.shadow (State.setSite s i x) = State.shadow s := by simp [State.setSite]
@[simp] theorem State.setSite_lr (i : Nat) (x : Site) : State.lr (State.setSite s i x) = State.lr s := by simp [State.setSite]
@[simp] theorem State.setSite_kvWait (i : Nat) (x : Site) : State.kvWait (State.setSite s i x) = State.kvWait s := by simp [State.setSite]
@[simp] theorem State.setSite_acqWait (i : Nat) (x : Site) : State.acqWait (State.setSite s i x) = State.acqWait s := by simp [State.setSite]
@[simp] theorem State.setSite_host (i : Nat) (x : Site) : State.host (State.setSite s i x) = State.host s := by simp [State.setSite]
@[simp] theorem State.setSite_girth (i : Nat) (x : Site) : State.girth (State.setSite s i x) = State.girth s := by simp [State.setSite]
@[simp] theorem State.setSite_awl (i : Nat) (x : Site) : State.awl (State.setSite s i x) = State.awl s := by simp [State.setSite]
@[simp] theorem State.setSite_time (i : Nat) (x : Site) : State.time (State.setSite s i x) = State.time s := by simp [State.setSite]
@[simp] theorem State.setSite_boot (i : Nat) (x : Site) : State.boot (State.setSite s i x) = State.boot s := by simp [State.setSite]
@[simp] theorem State.setSite_core (i : Nat) (x : Site) (k : Nat) : (s.setSite i x).core k = s.core k := by simp [State.setSite, State.core]
@[simp] theorem State.setSite_byte (i : Nat) (x : Site) (k : Nat) : (s.setSite i x).byte k = s.byte k := byte_mem _ (by simp) _
@[simp] theorem State.setSite_bytes (i : Nat) (x : Site) (k m : Nat) : (s.setSite i x).bytes k m = s.bytes k m := bytes_mem _ (by simp) _ _
@[simp] theorem State.setSite_num (i : Nat) (x : Site) (k m : Nat) : (s.setSite i x).num k m = s.num k m := num_mem _ (by simp) _ _
@[simp] theorem State.setAwlp_pending (p : Nat) (x : AwlP) : State.pending (State.setAwlp s p x) = State.pending s := by simp [State.setAwlp]
@[simp] theorem State.setAwlp_now (p : Nat) (x : AwlP) : State.now (State.setAwlp s p x) = State.now s := by simp [State.setAwlp]
@[simp] theorem State.setAwlp_evNo (p : Nat) (x : AwlP) : State.evNo (State.setAwlp s p x) = State.evNo s := by simp [State.setAwlp]
@[simp] theorem State.setAwlp_memBad (p : Nat) (x : AwlP) : State.memBad (State.setAwlp s p x) = State.memBad s := by simp [State.setAwlp]
@[simp] theorem State.setAwlp_freeCtr (p : Nat) (x : AwlP) : State.freeCtr (State.setAwlp s p x) = State.freeCtr s := by simp [State.setAwlp]
@[simp] theorem State.setAwlp_fuses (p : Nat) (x : AwlP) : State.fuses (State.setAwlp s p x) = State.fuses s := by simp [State.setAwlp]
@[simp] theorem State.setAwlp_held (p : Nat) (x : AwlP) : State.held (State.setAwlp s p x) = State.held s := by simp [State.setAwlp]
@[simp] theorem State.setAwlp_latch (p : Nat) (x : AwlP) : State.latch (State.setAwlp s p x) = State.latch s := by simp [State.setAwlp]
@[simp] theorem State.setAwlp_mem (p : Nat) (x : AwlP) : State.mem (State.setAwlp s p x) = State.mem s := by simp [State.setAwlp]
@[simp] theorem State.setAwlp_lines (p : Nat) (x : AwlP) : State.lines (State.setAwlp s p x) = State.lines s := by simp [State.setAwlp]
@[simp] theorem State.setAwlp_stale (p : Nat) (x : AwlP) : State.stale (State.setAwlp s p x) = State.stale s := by simp [State.setAwlp]
@[simp] theorem State.setAwlp_poisonL (p : Nat) (x : AwlP) : State.poisonL (State.setAwlp s p x) = State.poisonL s := by simp [State.setAwlp]
@[simp] theorem State.setAwlp_poisonW (p : Nat) (x : AwlP) : State.poisonW (State.setAwlp s p x) = State.poisonW s := by simp [State.setAwlp]
@[simp] theorem State.setAwlp_raises (p : Nat) (x : AwlP) : State.raises (State.setAwlp s p x) = State.raises s := by simp [State.setAwlp]
@[simp] theorem State.setAwlp_errBits (p : Nat) (x : AwlP) : State.errBits (State.setAwlp s p x) = State.errBits s := by simp [State.setAwlp]
@[simp] theorem State.setAwlp_nmi (p : Nat) (x : AwlP) : State.nmi (State.setAwlp s p x) = State.nmi s := by simp [State.setAwlp]
@[simp] theorem State.setAwlp_outbox (p : Nat) (x : AwlP) : State.outbox (State.setAwlp s p x) = State.outbox s := by simp [State.setAwlp]
@[simp] theorem State.setAwlp_cores (p : Nat) (x : AwlP) : State.cores (State.setAwlp s p x) = State.cores s := by simp [State.setAwlp]
@[simp] theorem State.setAwlp_net (p : Nat) (x : AwlP) : State.net (State.setAwlp s p x) = State.net s := by simp [State.setAwlp]
@[simp] theorem State.setAwlp_wen (p : Nat) (x : AwlP) : State.wen (State.setAwlp s p x) = State.wen s := by simp [State.setAwlp]
@[simp] theorem State.setAwlp_cinch (p : Nat) (x : AwlP) : State.cinch (State.setAwlp s p x) = State.cinch s := by simp [State.setAwlp]
@[simp] theorem State.setAwlp_shadow (p : Nat) (x : AwlP) : State.shadow (State.setAwlp s p x) = State.shadow s := by simp [State.setAwlp]
@[simp] theorem State.setAwlp_lr (p : Nat) (x : AwlP) : State.lr (State.setAwlp s p x) = State.lr s := by simp [State.setAwlp]
@[simp] theorem State.setAwlp_kvWait (p : Nat) (x : AwlP) : State.kvWait (State.setAwlp s p x) = State.kvWait s := by simp [State.setAwlp]
@[simp] theorem State.setAwlp_acqWait (p : Nat) (x : AwlP) : State.acqWait (State.setAwlp s p x) = State.acqWait s := by simp [State.setAwlp]
@[simp] theorem State.setAwlp_host (p : Nat) (x : AwlP) : State.host (State.setAwlp s p x) = State.host s := by simp [State.setAwlp]
@[simp] theorem State.setAwlp_girth (p : Nat) (x : AwlP) : State.girth (State.setAwlp s p x) = State.girth s := by simp [State.setAwlp]
@[simp] theorem State.setAwlp_sites (p : Nat) (x : AwlP) : State.sites (State.setAwlp s p x) = State.sites s := by simp [State.setAwlp]
@[simp] theorem State.setAwlp_time (p : Nat) (x : AwlP) : State.time (State.setAwlp s p x) = State.time s := by simp [State.setAwlp]
@[simp] theorem State.setAwlp_boot (p : Nat) (x : AwlP) : State.boot (State.setAwlp s p x) = State.boot s := by simp [State.setAwlp]
@[simp] theorem State.setAwlp_core (p : Nat) (x : AwlP) (k : Nat) : (s.setAwlp p x).core k = s.core k := by simp [State.setAwlp, State.core]
@[simp] theorem State.setAwlp_byte (p : Nat) (x : AwlP) (k : Nat) : (s.setAwlp p x).byte k = s.byte k := byte_mem _ (by simp) _
@[simp] theorem State.setAwlp_bytes (p : Nat) (x : AwlP) (k m : Nat) : (s.setAwlp p x).bytes k m = s.bytes k m := bytes_mem _ (by simp) _ _
@[simp] theorem State.setAwlp_num (p : Nat) (x : AwlP) (k m : Nat) : (s.setAwlp p x).num k m = s.num k m := num_mem _ (by simp) _ _

/-! ### Reads after writes -/

@[simp] theorem State.emit_outbox (g : Signal) : (s.emit g).outbox = s.outbox ++ [g] := by rfl
@[simp] theorem State.raise_raises (c : FaultSrc) (i y : Nat) :
    (s.raise c i y).raises = s.raises ++ [⟨c.at.1, i, c.at.2, y % 2 ^ 64, s.evNo, []⟩] := by rfl
@[simp] theorem State.modHost_host (f : HostIf → HostIf) : (s.modHost f).host = f s.host := by rfl
@[simp] theorem State.modCinch_cinch (f : Cinch → Cinch) : (s.modCinch f).cinch = f s.cinch := by simp [State.modCinch]
@[simp] theorem State.modShadow_shadow (f : Shadow → Shadow) : (s.modShadow f).shadow = f s.shadow := by simp [State.modShadow]

/-- A register reads back what was stored. -/
theorem State.rd_wr (o p : Nat) (v : Word) : (s.wr o v).rd p = if p = o then v else s.rd p := by
  unfold State.rd State.wr
  by_cases h : p = o
  · subst h; simp
  · rw [look_put_other _ _ _ _ _ _ h, if_neg h]
@[simp] theorem State.rd_wr_same (o : Nat) (v : Word) : (s.wr o v).rd o = v := by simp [State.rd_wr]
@[simp] theorem State.rd_wr_other (o p : Nat) (v : Word) (h : p ≠ o) : (s.wr o v).rd p = s.rd p := by simp [State.rd_wr, h]
@[simp] theorem State.rd_setF_other (o l w x p : Nat) (h : p ≠ o) : (s.setF o l w x).rd p = s.rd p := by simp [State.setF, h]
theorem State.rd_setF_same (o l w x : Nat) : (s.setF o l w x).rd o = setFld (s.rd o) l w x := by simp [State.setF]
@[simp] theorem State.rd_setB_other (o l p : Nat) (b : Bool) (h : p ≠ o) : (s.setB o l b).rd p = s.rd p := by simp [State.setB, h]
@[simp] theorem State.rd_addCtr_other (o n p : Nat) (h : p ≠ o) : (s.addCtr o n).rd p = s.rd p := by simp [State.addCtr, h]
@[simp] theorem State.rd_addCtr_same (o n : Nat) : (s.addCtr o n).rd o = s.rd o + BitVec.ofNat 64 n := by simp [State.addCtr]
@[simp] theorem State.rd_satF_other (o l w n p : Nat) (h : p ≠ o) : (s.satF o l w n).rd p = s.rd p := by simp [State.satF, h]

/-- A field of another register. -/
@[simp] theorem State.f_wr_other (o p l w : Nat) (v : Word) (h : p ≠ o) : (s.wr o v).f p l w = s.f p l w := by simp [State.f, h]
@[simp] theorem State.f_setF_other (o l w x p l' w' : Nat) (h : p ≠ o) : (s.setF o l w x).f p l' w' = s.f p l' w' := by
  simp [State.f, h]
@[simp] theorem State.f_setB_other (o l p l' w' : Nat) (b : Bool) (h : p ≠ o) : (s.setB o l b).f p l' w' = s.f p l' w' := by
  simp [State.f, h]
@[simp] theorem State.f_addCtr_other (o n p l w : Nat) (h : p ≠ o) : (s.addCtr o n).f p l w = s.f p l w := by simp [State.f, h]
@[simp] theorem State.f_satF_other (o l w n p l' w' : Nat) (h : p ≠ o) : (s.satF o l w n).f p l' w' = s.f p l' w' := by
  simp [State.f, h]
@[simp] theorem State.f_wr_same (o l w : Nat) (v : Word) : (s.wr o v).f o l w = fld v l w := by simp [State.f]
/-- The field stored. -/
@[simp] theorem State.f_setF_same (o l w x : Nat) (h : l + w ≤ 64) : (s.setF o l w x).f o l w = x % 2 ^ w := by
  simp [State.f, State.setF, h]
/-- Another field of the same register. -/
@[simp] theorem State.f_setF_apart (o l w x l' w' : Nat) (h : l + w ≤ 64) (hl : l' + w' ≤ l ∨ l + w ≤ l') :
    (s.setF o l w x).f o l' w' = s.f o l' w' := by
  simp [State.f, State.setF, h, hl]
@[simp] theorem State.f_setB_same (o l : Nat) (b : Bool) (h : l < 64) : (s.setB o l b).f o l 1 = b2n b := by
  have : l + 1 ≤ 64 := h
  simp [State.setB, this]
@[simp] theorem State.f_setB_apart (o l l' w' : Nat) (b : Bool) (h : l < 64) (hl : l' + w' ≤ l ∨ l < l') :
    (s.setB o l b).f o l' w' = s.f o l' w' := by
  have h1 : l + 1 ≤ 64 := h
  have h2 : l' + w' ≤ l ∨ l + 1 ≤ l' := hl
  simp only [State.setB, State.f_setF_apart _ _ _ _ _ _ _ h1 h2]

@[simp] theorem State.fb_wr_other (o p l : Nat) (v : Word) (h : p ≠ o) : (s.wr o v).fb p l = s.fb p l := by simp [State.fb, h]
@[simp] theorem State.fb_setF_other (o l w x p l' : Nat) (h : p ≠ o) : (s.setF o l w x).fb p l' = s.fb p l' := by simp [State.fb, h]
@[simp] theorem State.fb_setF_apart (o l w x l' : Nat) (h : l + w ≤ 64) (hl : l' + 1 ≤ l ∨ l + w ≤ l') :
    (s.setF o l w x).fb o l' = s.fb o l' := by
  simp only [State.fb, State.f_setF_apart _ _ _ _ _ _ _ h hl]
@[simp] theorem State.fb_setB_other (o l p l' : Nat) (b : Bool) (h : p ≠ o) : (s.setB o l b).fb p l' = s.fb p l' := by
  simp [State.fb, h]
@[simp] theorem State.fb_setB_same (o l : Nat) (b : Bool) (h : l < 64) : (s.setB o l b).fb o l = b := by
  simp [State.fb, h]
@[simp] theorem State.fb_setB_apart (o l l' : Nat) (b : Bool) (h : l < 64) (hl : l' < l ∨ l < l') :
    (s.setB o l b).fb o l' = s.fb o l' := by
  have : l' + 1 ≤ l ∨ l < l' := by omega
  simp only [State.fb, State.f_setB_apart _ _ _ _ _ _ h this]
@[simp] theorem State.fb_addCtr_other (o n p l : Nat) (h : p ≠ o) : (s.addCtr o n).fb p l = s.fb p l := by simp [State.fb, h]
@[simp] theorem State.fb_satF_other (o l w n p l' : Nat) (h : p ≠ o) : (s.satF o l w n).fb p l' = s.fb p l' := by simp [State.fb, h]

@[simp] theorem State.core_setCore (k j : Nat) (c : Core) : (s.setCore k c).core j = if j = k then c else s.core j := by
  simp [State.core, State.setCore]
@[simp] theorem State.core_modCore (k j : Nat) (f : Core → Core) : (s.modCore k f).core j = if j = k then f (s.core k) else s.core j := by
  simp [State.modCore]
@[simp] theorem State.die_setDie (k j : Nat) (x : Die) : (s.setDie k x).die j = if j = k then x else s.die j := by
  simp [State.die, State.setDie]
@[simp] theorem State.die_modDie (k j : Nat) (f : Die → Die) : (s.modDie k f).die j = if j = k then f (s.die k) else s.die j := by
  simp [State.modDie]

/-! ### The answer of a command -/

@[simp] theorem done_eq (t : State) : done s t = .next (ended s t) := by rfl
@[simp] theorem ended_pending (t : State) : (ended s t).pending = s.pending := by rfl
@[simp] theorem ended_fuses (t : State) : (ended s t).fuses = s.fuses := by rfl
@[simp] theorem ended_evNo (t : State) : (ended s t).evNo = s.evNo + 1 := by rfl
@[simp] theorem ended_memBad (t : State) : (ended s t).memBad = false := by rfl
@[simp] theorem ended_now (t : State) : State.now (ended s t) = State.now t := by rfl
@[simp] theorem ended_freeCtr (t : State) : State.freeCtr (ended s t) = State.freeCtr t := by rfl
@[simp] theorem ended_regs (t : State) : State.regs (ended s t) = State.regs t := by rfl
@[simp] theorem ended_held (t : State) : State.held (ended s t) = State.held t := by rfl
@[simp] theorem ended_latch (t : State) : State.latch (ended s t) = State.latch t := by rfl
@[simp] theorem ended_mem (t : State) : State.mem (ended s t) = State.mem t := by rfl
@[simp] theorem ended_lines (t : State) : State.lines (ended s t) = State.lines t := by rfl
@[simp] theorem ended_stale (t : State) : State.stale (ended s t) = State.stale t := by rfl
@[simp] theorem ended_poisonL (t : State) : State.poisonL (ended s t) = State.poisonL t := by rfl
@[simp] theorem ended_poisonW (t : State) : State.poisonW (ended s t) = State.poisonW t := by rfl
@[simp] theorem ended_raises (t : State) : State.raises (ended s t) = State.raises t := by rfl
@[simp] theorem ended_errBits (t : State) : State.errBits (ended s t) = State.errBits t := by rfl
@[simp] theorem ended_nmi (t : State) : State.nmi (ended s t) = State.nmi t := by rfl
@[simp] theorem ended_outbox (t : State) : State.outbox (ended s t) = State.outbox t := by rfl
@[simp] theorem ended_cores (t : State) : State.cores (ended s t) = State.cores t := by rfl
@[simp] theorem ended_dies (t : State) : State.dies (ended s t) = State.dies t := by rfl
@[simp] theorem ended_net (t : State) : State.net (ended s t) = State.net t := by rfl
@[simp] theorem ended_wen (t : State) : State.wen (ended s t) = State.wen t := by rfl
@[simp] theorem ended_cinch (t : State) : State.cinch (ended s t) = State.cinch t := by rfl
@[simp] theorem ended_shadow (t : State) : State.shadow (ended s t) = State.shadow t := by rfl
@[simp] theorem ended_lr (t : State) : State.lr (ended s t) = State.lr t := by rfl
@[simp] theorem ended_kvWait (t : State) : State.kvWait (ended s t) = State.kvWait t := by rfl
@[simp] theorem ended_acqWait (t : State) : State.acqWait (ended s t) = State.acqWait t := by rfl
@[simp] theorem ended_host (t : State) : State.host (ended s t) = State.host t := by rfl
@[simp] theorem ended_girth (t : State) : State.girth (ended s t) = State.girth t := by rfl
@[simp] theorem ended_sites (t : State) : State.sites (ended s t) = State.sites t := by rfl
@[simp] theorem ended_awl (t : State) : State.awl (ended s t) = State.awl t := by rfl
@[simp] theorem ended_time (t : State) : State.time (ended s t) = State.time t := by rfl
@[simp] theorem ended_boot (t : State) : State.boot (ended s t) = State.boot t := by rfl
@[simp] theorem ended_rd (t : State) (p : Nat) : (ended s t).rd p = t.rd p := by rfl
@[simp] theorem ended_f (t : State) (p l w : Nat) : (ended s t).f p l w = t.f p l w := by rfl
@[simp] theorem ended_fb (t : State) (p l : Nat) : (ended s t).fb p l = t.fb p l := by rfl
@[simp] theorem ended_core (t : State) (p : Nat) : (ended s t).core p = t.core p := by rfl
@[simp] theorem ended_die (t : State) (p : Nat) : (ended s t).die p = t.die p := by rfl
@[simp] theorem ended_byte (t : State) (p : Nat) : (ended s t).byte p = t.byte p := by rfl
@[simp] theorem ended_bytes (t : State) (p m : Nat) : (ended s t).bytes p m = t.bytes p m := by rfl
@[simp] theorem ended_num (t : State) (p m : Nat) : (ended s t).num p m = t.num p m := by rfl

end Sys2Proof.Machine
end

