-- ==== Sys2Proof/Laws/Memory.lean ====
section
/-! SUPPORT. Laws of memory: its canonical form is kept, reads after writes, and what the cache slices leave alone. -/

namespace Sys2Proof.Machine

/-! ### The canonical form -/

theorem memory_wf_nil : Memory.wf [] = true := rfl

/-- Reset memory is in canonical form. -/
theorem memory_wf_reset : Memory.wf State.reset.mem = true := rfl

/-- The keys of a list are all above a bound. -/
def Memory.above (a : Nat) (m : List Host.Cell) : Prop := ∀ p ∈ m, a < p.1

theorem memory_wf_cons (a : Nat) (b : Byte) (m : List Host.Cell) :
    Memory.wf ((a, b) :: m) = true ↔ b ≠ 0#8 ∧ Memory.above a m ∧ Memory.wf m = true := by
  induction m generalizing a b with
  | nil => simp [Memory.wf, Memory.above]
  | cons h t ih =>
    obtain ⟨k, w⟩ := h
    simp only [Memory.wf, Bool.and_eq_true, decide_eq_true_eq]
    constructor
    · rintro ⟨⟨hb, hk⟩, hw⟩
      refine ⟨hb, ?_, hw⟩
      intro p hp
      rcases List.mem_cons.mp hp with rfl | hp
      · exact hk
      · exact Nat.lt_trans hk (((ih k w).mp hw).2.1 p hp)
    · rintro ⟨hb, ha, hw⟩
      exact ⟨⟨hb, ha (k, w) (List.mem_cons_self ..)⟩, hw⟩

/-- Dropping cells keeps the form. -/
theorem memory_wf_filter (q : Host.Cell → Bool) (m : List Host.Cell) (h : Memory.wf m = true) : Memory.wf (m.filter q) = true := by
  induction m with
  | nil => rfl
  | cons c t ih =>
    obtain ⟨k, w⟩ := c
    obtain ⟨hw, ha, ht⟩ := (memory_wf_cons k w t).mp h
    by_cases hq : q (k, w) = true
    · rw [List.filter_cons_of_pos hq, memory_wf_cons]
      exact ⟨hw, fun p hp => ha p (List.mem_filter.mp hp).1, ih ht⟩
    · rw [List.filter_cons_of_neg hq]
      exact ih ht

theorem mem_putRaw {m : List Host.Cell} {a : Nat} {b : Byte} {p : Host.Cell} (h : p ∈ putRaw m a b) : p = (a, b) ∨ p ∈ m := by
  induction m with
  | nil => simpa [putRaw] using h
  | cons c t ih =>
    obtain ⟨k, w⟩ := c
    unfold putRaw at h
    split_ifs at h
    · simpa using h
    · rcases List.mem_cons.mp h with h | h
      · exact .inl h
      · exact .inr (List.mem_cons_of_mem _ h)
    · rcases List.mem_cons.mp h with h | h
      · exact .inr (h ▸ List.mem_cons_self ..)
      · rcases ih h with h | h
        · exact .inl h
        · exact .inr (List.mem_cons_of_mem _ h)

theorem memory_wf_putRaw (m : List Host.Cell) (a : Nat) (b : Byte) (hb : b ≠ 0#8) (h : Memory.wf m = true) :
    Memory.wf (putRaw m a b) = true := by
  induction m with
  | nil => simp [putRaw, Memory.wf, hb]
  | cons c t ih =>
    obtain ⟨k, w⟩ := c
    obtain ⟨hw, ha, ht⟩ := (memory_wf_cons k w t).mp h
    unfold putRaw
    split_ifs with h1 h2
    · rw [memory_wf_cons]
      refine ⟨hb, fun p hp => ?_, h⟩
      rcases List.mem_cons.mp hp with rfl | hp
      · exact h1
      · exact Nat.lt_trans h1 (ha p hp)
    · subst h2
      rw [memory_wf_cons]
      exact ⟨hb, ha, ht⟩
    · rw [memory_wf_cons]
      refine ⟨hw, fun p hp => ?_, ih ht⟩
      rcases mem_putRaw hp with rfl | hp
      · show k < a
        omega
      · exact ha p hp

/-- A write of a byte keeps the form. -/
theorem memory_wf_memPut (m : List Host.Cell) (a : Nat) (b : Byte) (h : Memory.wf m = true) : Memory.wf (memPut m a b) = true := by
  unfold memPut put
  split_ifs with hb
  · exact memory_wf_filter _ m h
  · exact memory_wf_putRaw m a b hb h

/-- A write of a run of bytes keeps the form. -/
theorem memory_wf_memPutAll (bs : List Byte) (m : List Host.Cell) (a : Nat) (h : Memory.wf m = true) :
    Memory.wf (memPutAll m a bs) = true := by
  induction bs generalizing m a with
  | nil => exact h
  | cons b t ih => exact ih _ _ (memory_wf_memPut m a b h)

/-! ### Reads after writes -/

theorem look_memPut (m : List Host.Cell) (a x : Nat) (b : Byte) : look 0#8 (memPut m a b) x = if x = a then b else look 0#8 m x :=
  look_put ..

/-- A byte outside the run keeps its value. -/
theorem look_memPutAll_out (bs : List Byte) (m : List Host.Cell) (a x : Nat) (h : x < a ∨ a + bs.length ≤ x) :
    look 0#8 (memPutAll m a bs) x = look 0#8 m x := by
  induction bs generalizing m a with
  | nil => rfl
  | cons b t ih =>
    simp only [List.length_cons] at h
    show look 0#8 (memPutAll (memPut m a b) (a + 1) t) x = _
    rw [ih _ _ (by omega), look_memPut, if_neg (by omega)]

/-- A byte of the run reads as written. -/
theorem look_memPutAll_in (bs : List Byte) (m : List Host.Cell) (a i : Nat) (h : i < bs.length) :
    look 0#8 (memPutAll m a bs) (a + i) = bs[i] := by
  induction bs generalizing m a i with
  | nil => simp at h
  | cons b t ih =>
    show look 0#8 (memPutAll (memPut m a b) (a + 1) t) (a + i) = _
    rcases i with _ | i
    · rw [look_memPutAll_out _ _ _ _ (by omega), look_memPut]
      simp
    · have := ih (memPut m a b) (a + 1) i (by simpa using h)
      rw [show a + (i + 1) = a + 1 + i by omega, this]
      simp

theorem fromLen_length (a n : Nat) : (fromLen a n).length = n := by
  induction n generalizing a with
  | zero => rfl
  | succ n ih => simp [fromLen, ih]

theorem fromLen_get (a n i : Nat) (h : i < (fromLen a n).length) : (fromLen a n)[i] = a + i := by
  induction n generalizing a i with
  | zero => simp [fromLen] at h
  | succ n ih =>
    rcases i with _ | i
    · simp [fromLen]
    · simp only [fromLen, List.getElem_cons_succ]
      rw [ih]
      omega

@[simp] theorem State.bytes_length (s : State) (a n : Nat) : (s.bytes a n).length = n := by simp [State.bytes, fromLen_length]

theorem State.bytes_get (s : State) (a n i : Nat) (h : i < (s.bytes a n).length) : (s.bytes a n)[i] = s.byte (a + i) := by
  simp [State.bytes, fromLen_get]

/-- A run reads as written. -/
theorem bytes_memPutAll (s : State) (a : Nat) (bs : List Byte) (m : List Host.Cell) :
    ({ s with mem := memPutAll m a bs } : State).bytes a bs.length = bs := by
  apply List.ext_getElem
  · simp
  · intro i h1 h2
    rw [State.bytes_get]
    exact look_memPutAll_in bs m a i h2

/-- The bytes of a number have its value. -/
theorem leNat_leBytes (n v : Nat) : leNat (leBytes n v) = v % 2 ^ (8 * n) := by
  induction n generalizing v with
  | zero => simp [leBytes, leNat, Nat.mod_one]
  | succ n ih =>
    rw [leBytes, leNat, ih, BitVec.toNat_ofNat]
    rw [show 8 * (n + 1) = 8 + 8 * n by ring, Nat.pow_add, Nat.mod_mul]

@[simp] theorem leBytes_length (n v : Nat) : (leBytes n v).length = n := by
  induction n generalizing v with
  | zero => rfl
  | succ n ih => simp [leBytes, ih]

/-! ### Writes to scratchpad, cluster memory and host memory -/

@[simp] theorem localWrite_regs_wake (s : State) (a : Nat) (bs : List Byte) :
    (localWrite s a bs).regs = (wakeNow s (localDomain a).1 (localDomain a).2).regs := by rfl

/-- A local write changes nothing outside its run. -/
theorem localWrite_byte_out (s : State) (a : Nat) (bs : List Byte) (x : Nat) (h : x < a ∨ a + bs.length ≤ x) :
    (localWrite s a bs).byte x = s.byte x := by
  show look 0#8 (memPutAll (wakeNow s _ _).mem a bs) x = _
  rw [wakeNow_mem]
  exact look_memPutAll_out bs s.mem a x h

/-- A local write reads back. -/
theorem localWrite_bytes (s : State) (a : Nat) (bs : List Byte) : (localWrite s a bs).bytes a bs.length = bs := by
  apply List.ext_getElem
  · simp
  · intro i h1 h2
    rw [State.bytes_get]
    exact look_memPutAll_in bs _ a i h2

/-- A number written locally reads back. -/
theorem localWrite_num (s : State) (a n v : Nat) : (localWrite s a (leBytes n v)).num a n = v % 2 ^ (8 * n) := by
  have h := localWrite_bytes s a (leBytes n v)
  rw [leBytes_length] at h
  unfold State.num
  rw [h, leNat_leBytes]

@[simp] theorem localWrite_core (s : State) (a : Nat) (bs : List Byte) (k : Nat) : (localWrite s a bs).core k = s.core k :=
  wakeNow_core ..
@[simp] theorem localWrite_outbox (s : State) (a : Nat) (bs : List Byte) : (localWrite s a bs).outbox = s.outbox := wakeNow_outbox ..
@[simp] theorem localWrite_raises (s : State) (a : Nat) (bs : List Byte) : (localWrite s a bs).raises = s.raises := wakeNow_raises ..
@[simp] theorem localWrite_host (s : State) (a : Nat) (bs : List Byte) : (localWrite s a bs).host = s.host := wakeNow_host ..
@[simp] theorem localWrite_now (s : State) (a : Nat) (bs : List Byte) : (localWrite s a bs).now = s.now := wakeNow_now ..
@[simp] theorem localWrite_fuses (s : State) (a : Nat) (bs : List Byte) : (localWrite s a bs).fuses = s.fuses := wakeNow_fuses ..

/-- A local write keeps the canonical form of memory. -/
theorem localWrite_wf (s : State) (a : Nat) (bs : List Byte) (h : Memory.wf s.mem = true) : Memory.wf (localWrite s a bs).mem = true := by
  show Memory.wf (memPutAll (wakeNow s _ _).mem a bs) = true
  rw [wakeNow_mem]
  exact memory_wf_memPutAll bs s.mem a h

@[simp] theorem hostWrite_rd (s : State) (a : Nat) (bs : List Byte) (o : Nat) : (hostWrite s a bs).rd o = s.rd o := by rfl
@[simp] theorem hostWrite_core (s : State) (a : Nat) (bs : List Byte) (k : Nat) : (hostWrite s a bs).core k = s.core k := by rfl
@[simp] theorem hostWrite_outbox (s : State) (a : Nat) (bs : List Byte) : (hostWrite s a bs).outbox = s.outbox := by rfl

theorem hostWrite_byte_out (s : State) (a : Nat) (bs : List Byte) (x : Nat) (h : x < hostA a ∨ hostA a + bs.length ≤ x) :
    (hostWrite s a bs).byte x = s.byte x := look_memPutAll_out bs s.mem (hostA a) x h

theorem hostWrite_bytes (s : State) (a : Nat) (bs : List Byte) : (hostWrite s a bs).bytes (hostA a) bs.length = bs :=
  bytes_memPutAll s (hostA a) bs s.mem

theorem hostWrite_wf (s : State) (a : Nat) (bs : List Byte) (h : Memory.wf s.mem = true) : Memory.wf (hostWrite s a bs).mem = true :=
  memory_wf_memPutAll bs s.mem (hostA a) h

end Sys2Proof.Machine
end

