-- ==== Sys2Proof/Laws/Slices.lean ====
section
/-! SUPPORT. The cache slices hold what memory holds: a slice's operations change lines, counters and domains and nothing else, and
every write of memory keeps its canonical form. -/

namespace Sys2Proof.Machine

/-- Nothing but the slices' lines, registers and dies' requests differs. -/
structure SliceOnly (s t : State) : Prop where
  pending : t.pending = s.pending
  now : t.now = s.now
  evNo : t.evNo = s.evNo
  memBad : t.memBad = s.memBad
  freeCtr : t.freeCtr = s.freeCtr
  fuses : t.fuses = s.fuses
  held : t.held = s.held
  latch : t.latch = s.latch
  mem : t.mem = s.mem
  poisonL : t.poisonL = s.poisonL
  poisonW : t.poisonW = s.poisonW
  raises : t.raises = s.raises
  errBits : t.errBits = s.errBits
  nmi : t.nmi = s.nmi
  outbox : t.outbox = s.outbox
  cores : t.cores = s.cores
  net : t.net = s.net
  wen : t.wen = s.wen
  cinch : t.cinch = s.cinch
  shadow : t.shadow = s.shadow
  lr : t.lr = s.lr
  kvWait : t.kvWait = s.kvWait
  host : t.host = s.host
  girth : t.girth = s.girth
  sites : t.sites = s.sites
  awl : t.awl = s.awl
  time : t.time = s.time
  boot : t.boot = s.boot

theorem SliceOnly.refl (s : State) : SliceOnly s s := by constructor <;> rfl

theorem SliceOnly.trans {s t u : State} (h : SliceOnly s t) (k : SliceOnly t u) : SliceOnly s u := by
  constructor
  · exact k.pending.trans h.pending
  · exact k.now.trans h.now
  · exact k.evNo.trans h.evNo
  · exact k.memBad.trans h.memBad
  · exact k.freeCtr.trans h.freeCtr
  · exact k.fuses.trans h.fuses
  · exact k.held.trans h.held
  · exact k.latch.trans h.latch
  · exact k.mem.trans h.mem
  · exact k.poisonL.trans h.poisonL
  · exact k.poisonW.trans h.poisonW
  · exact k.raises.trans h.raises
  · exact k.errBits.trans h.errBits
  · exact k.nmi.trans h.nmi
  · exact k.outbox.trans h.outbox
  · exact k.cores.trans h.cores
  · exact k.net.trans h.net
  · exact k.wen.trans h.wen
  · exact k.cinch.trans h.cinch
  · exact k.shadow.trans h.shadow
  · exact k.lr.trans h.lr
  · exact k.kvWait.trans h.kvWait
  · exact k.host.trans h.host
  · exact k.girth.trans h.girth
  · exact k.sites.trans h.sites
  · exact k.awl.trans h.awl
  · exact k.time.trans h.time
  · exact k.boot.trans h.boot

theorem sliceOnly_wr (s : State) (o : Nat) (v : Word) : SliceOnly s (s.wr o v) := by constructor <;> rfl
theorem sliceOnly_addCtr (s : State) (o n : Nat) : SliceOnly s (s.addCtr o n) := sliceOnly_wr ..
theorem sliceOnly_lines (s : State) (l : List CLine) : SliceOnly s { s with lines := l } := by constructor <;> rfl
theorem sliceOnly_stale (s : State) (l : List (Nat × List Byte)) : SliceOnly s { s with stale := l } := by constructor <;> rfl
theorem sliceOnly_modDie (s : State) (d : Nat) (f : Die → Die) : SliceOnly s (s.modDie d f) := by constructor <;> rfl

theorem sliceOnly_wakeNow (s : State) (d n : Nat) : SliceOnly s (wakeNow s d n) := by
  unfold wakeNow
  split
  · exact .refl s
  · exact ((sliceOnly_wr ..).trans (sliceOnly_wr ..)).trans (sliceOnly_modDie ..)

theorem sliceOnly_writeBack (s : State) (l : Nat) : SliceOnly s (writeBack s l) := by
  constructor <;> simp [writeBack]

theorem sliceOnly_dropLine (s : State) (l : Nat) : SliceOnly s (dropLine s l) := by
  unfold dropLine
  split
  · exact (sliceOnly_writeBack ..).trans (sliceOnly_lines ..)
  · exact sliceOnly_lines ..

theorem sliceOnly_makeRoom (s : State) (l : Nat) : SliceOnly s (makeRoom s l) := by
  unfold makeRoom
  repeat' (first | exact .refl s | exact sliceOnly_dropLine .. | dsimp only | split)

theorem sliceOnly_demote (s : State) (l : Nat) : SliceOnly s (demote s l) := by
  unfold demote
  repeat' (first | exact .refl s | (constructor <;> simp; done) | dsimp only | split)

theorem sliceOnly_allocLine (s : State) (l : Nat) (k : Bool) : SliceOnly s (allocLine s l k) := by
  unfold allocLine
  dsimp only
  split
  · exact ((sliceOnly_makeRoom ..).trans (sliceOnly_lines ..)).trans (sliceOnly_demote ..)
  · exact (sliceOnly_makeRoom ..).trans (sliceOnly_lines ..)

theorem sliceOnly_moveLine (s : State) (l : Nat) (b : Bool) : SliceOnly s (moveLine s l b) := by
  unfold moveLine
  split
  · exact .refl s
  · exact sliceOnly_lines ..

theorem sliceOnly_markDirty (s : State) (l : Nat) : SliceOnly s (markDirty s l) := by
  unfold markDirty
  split
  · exact .refl s
  · constructor <;> rfl

theorem sliceOnly_setKeep (s : State) (l : Nat) (k : Bool) : SliceOnly s (setKeep s l k) := sliceOnly_lines ..

theorem sliceOnly_ite (c : Prop) [Decidable c] {s t u : State} (h : SliceOnly s t) (k : SliceOnly s u) :
    SliceOnly s (if c then t else u) := by
  split
  · exact h
  · exact k

/-- A read of a line (R314). -/
theorem sliceOnly_lineRead (s : State) (l h : Nat) : SliceOnly s (lineRead s l h) := by
  unfold lineRead
  dsimp only
  generalize h1 : wakeNow s (lineDie l) 41 = s1
  have k1 : SliceOnly s s1 := h1 ▸ sliceOnly_wakeNow ..
  generalize h2 : (if s1.lines.any (fun c => c.line = l) then s1 else wakeNow s1 (lineDie l) 45) = s2
  have k2 : SliceOnly s s2 := k1.trans (h2 ▸ sliceOnly_ite _ (.refl _) (sliceOnly_wakeNow ..))
  generalize h3 : (if (s2.poisonL.contains l || isRetired s2 (64 * l)) = true then s2.addCtr (mcBase (lineDie l) + 0x38) 1 else s2) = s3
  have k3 : SliceOnly s s3 := k2.trans (h3 ▸ sliceOnly_ite _ (sliceOnly_addCtr ..) (.refl _))
  refine k3.trans ?_
  split_ifs
  · exact (sliceOnly_addCtr ..).trans (sliceOnly_dropLine ..)
  · exact (sliceOnly_addCtr ..).trans (sliceOnly_moveLine ..)
  · exact (sliceOnly_addCtr ..).trans (sliceOnly_allocLine ..)
  · exact (sliceOnly_addCtr ..).trans (sliceOnly_allocLine ..)
  · exact sliceOnly_addCtr ..

/-- The slice's part of a write of a line (R314). -/
theorem sliceOnly_lineWrite (s : State) (l h : Nat) (w : Bool) : SliceOnly s (lineWrite s l h w) := by
  unfold lineWrite
  dsimp only
  generalize h1 : wakeNow s (lineDie l) 41 = s1
  have k1 : SliceOnly s s1 := h1 ▸ sliceOnly_wakeNow ..
  generalize h2 : (if s1.lines.any (fun c => c.line = l) then s1 else wakeNow s1 (lineDie l) 45) = s2
  have k2 : SliceOnly s s2 := k1.trans (h2 ▸ sliceOnly_ite _ (.refl _) (sliceOnly_wakeNow ..))
  generalize hs3 : s2.addCtr _ 1 = s3
  have k3 : SliceOnly s s3 := k2.trans (hs3 ▸ sliceOnly_addCtr ..)
  refine k3.trans ?_
  apply sliceOnly_ite
  · constructor <;> rfl
  · refine SliceOnly.trans ?_ (sliceOnly_markDirty ..)
    generalize h4 : (if s1.lines.any (fun c => c.line = l) then setKeep (moveLine s3 l true) l (h = 2) else allocLine s3 l (h = 2)) = s4
    have k4 : SliceOnly s3 s4 :=
      h4 ▸ sliceOnly_ite _ ((sliceOnly_moveLine ..).trans (sliceOnly_setKeep ..)) (sliceOnly_allocLine ..)
    exact k4.trans (sliceOnly_ite _ (sliceOnly_demote ..) (.refl _))

/-- Reading HBM through the slices. -/
theorem sliceOnly_hbmTouch (s : State) (h a n : Nat) : SliceOnly s (hbmTouch s h a n) := by
  unfold hbmTouch
  generalize linesOf a n = ls
  induction ls generalizing s with
  | nil => exact .refl s
  | cons l t ih => exact (sliceOnly_lineRead s l h).trans (ih _)

/-! ### Writes of HBM -/

theorem hbmWriteLine_wf (s : State) (h a : Nat) (bs : List Byte) (l : Nat) (w : Memory.wf s.mem = true) :
    Memory.wf (hbmWriteLine s h a bs l).mem = true := by
  unfold hbmWriteLine
  dsimp only
  split
  · exact w
  · split <;>
    · apply memory_wf_memPutAll
      show Memory.wf (lineWrite s l h _).mem = true
      rw [(sliceOnly_lineWrite ..).mem]
      exact w

/-- A write of HBM keeps the canonical form. -/
theorem hbmWrite_wf (s : State) (h a : Nat) (bs : List Byte) (w : Memory.wf s.mem = true) : Memory.wf (hbmWrite s h a bs).mem = true := by
  unfold hbmWrite
  generalize linesOf a bs.length = ls
  induction ls generalizing s with
  | nil => exact w
  | cons l t ih => exact ih _ (hbmWriteLine_wf s h a bs l w)

/-- A write of any memory of the package keeps the canonical form. -/
theorem memWrite_wf (s : State) (h a : Nat) (bs : List Byte) (w : Memory.wf s.mem = true) : Memory.wf (memWrite s h a bs).mem = true := by
  unfold memWrite
  split_ifs
  · exact w
  · exact hbmWrite_wf s h a bs w
  · exact localWrite_wf s a bs w

/-- A write of HBM changes no byte outside its run. -/
theorem hbmWriteLine_byte_out (s : State) (h a : Nat) (bs : List Byte) (l x : Nat) (hx : x < a ∨ a + bs.length ≤ x) :
    (hbmWriteLine s h a bs l).byte x = s.byte x := by
  unfold hbmWriteLine State.byte
  dsimp only
  split
  · rfl
  · split <;>
    · simp only
      rw [look_memPutAll_out, (sliceOnly_lineWrite ..).mem]
      simp only [List.length_take, List.length_drop]
      omega

theorem hbmWrite_byte_out (s : State) (h a : Nat) (bs : List Byte) (x : Nat) (hx : x < a ∨ a + bs.length ≤ x) :
    (hbmWrite s h a bs).byte x = s.byte x := by
  unfold hbmWrite
  generalize linesOf a bs.length = ls
  induction ls generalizing s with
  | nil => rfl
  | cons l t ih => exact (ih _).trans (hbmWriteLine_byte_out s h a bs l x hx)

/-- A write of any memory of the package changes no byte outside its run. -/
theorem memWrite_byte_out (s : State) (h a : Nat) (bs : List Byte) (x : Nat) (hx : x < a ∨ a + bs.length ≤ x) :
    (memWrite s h a bs).byte x = s.byte x := by
  unfold memWrite
  split_ifs
  · rfl
  · exact hbmWrite_byte_out s h a bs x hx
  · exact localWrite_byte_out s a bs x hx

end Sys2Proof.Machine
end

