-- ==== Sys2Proof/Laws/Regs.lean ====
section
/-! SUPPORT. Laws of register accesses: places of registers, Clamp Reports, and what a write leaves alone. -/

namespace Sys2Proof.Machine

/-! ### Domains that are ON -/

theorem wakeDom_on (s : State) (d n : Nat) (h : pdState s d n = 0) : wakeDom s d n = s := by
  unfold wakeDom
  simp [h]

theorem wakeNow_on (s : State) (d n : Nat) (h : pdState s d n = 0) : wakeNow s d n = s := by
  unfold wakeNow
  rw [if_pos h]

theorem needOn_on (s : State) (ns : List (Nat × Nat)) (act : State → State) (h : ∀ p ∈ ns, pdState s p.1 p.2 = 0) :
    needOn s ns act = act s := by
  unfold needOn
  rw [if_pos]
  simpa [domOn] using h

/-- An access to a register whose domain is ON goes ahead. -/
theorem regOn_on (s : State) (off : Nat) (act : State → State) (h : ∀ p, regDomain off = some p → pdState s p.1 p.2 = 0) : regOn s off act = act s := by
  unfold regOn
  split
  · rfl
  · rename_i d n e
    have hp := h (d, n) e
    split
    · rename_i e8
      subst e8
      rw [wakeDom_on s 8 n hp]
    · exact needOn_on s _ act (by simpa using hp)

/-! ### MSI-X messages -/

theorem sendMsix_cases (s : State) (f v : Nat) :
    s.sendMsix f v = s ∨ s.sendMsix f v = s.emit (.msix f v) ∨
      s.sendMsix f v = { s with host := { s.host with msixPend := s.host.msixPend ++ [(f, v)] } } := by
  unfold State.sendMsix
  split_ifs <;> simp

@[simp] theorem sendMsix_regs (s : State) (f v : Nat) : (s.sendMsix f v).regs = s.regs := by
  unfold State.sendMsix; split_ifs <;> rfl
@[simp] theorem sendMsix_mem (s : State) (f v : Nat) : (s.sendMsix f v).mem = s.mem := by
  unfold State.sendMsix; split_ifs <;> rfl
@[simp] theorem sendMsix_cores (s : State) (f v : Nat) : (s.sendMsix f v).cores = s.cores := by
  unfold State.sendMsix; split_ifs <;> rfl
@[simp] theorem sendMsix_dies (s : State) (f v : Nat) : (s.sendMsix f v).dies = s.dies := by
  unfold State.sendMsix; split_ifs <;> rfl
@[simp] theorem sendMsix_boot (s : State) (f v : Nat) : (s.sendMsix f v).boot = s.boot := by
  unfold State.sendMsix; split_ifs <;> rfl
@[simp] theorem sendMsix_raises (s : State) (f v : Nat) : (s.sendMsix f v).raises = s.raises := by
  unfold State.sendMsix; split_ifs <;> rfl
@[simp] theorem sendMsix_rd (s : State) (f v p : Nat) : (s.sendMsix f v).rd p = s.rd p := by
  unfold State.rd; rw [sendMsix_regs]
@[simp] theorem sendMsix_f (s : State) (f v p l w : Nat) : (s.sendMsix f v).f p l w = s.f p l w := by
  unfold State.f; rw [sendMsix_rd]
@[simp] theorem sendMsix_fb (s : State) (f v p l : Nat) : (s.sendMsix f v).fb p l = s.fb p l := by
  unfold State.fb; rw [sendMsix_f]
@[simp] theorem sendMsix_core (s : State) (f v k : Nat) : (s.sendMsix f v).core k = s.core k := by
  unfold State.core; rw [sendMsix_cores]
@[simp] theorem sendMsix_die (s : State) (f v k : Nat) : (s.sendMsix f v).die k = s.die k := by
  unfold State.die; rw [sendMsix_dies]

/-! ### Clamp Reports (R353) -/

/-- A Clamp Report changes CLAMP_IDX and CLAMP_LOST and no other register. -/
@[simp] theorem clampReport_rd (s : State) (a : Agent) (off lsb w r x y p : Nat) (h : p ≠ 0x210) (k : p ≠ 0x218) :
    (clampReport s a off lsb w r x y).rd p = s.rd p := by
  unfold clampReport
  dsimp only
  split_ifs <;> simp [h, k]

@[simp] theorem clampReport_f (s : State) (a : Agent) (off lsb w r x y p l n : Nat) (h : p ≠ 0x210) (k : p ≠ 0x218) :
    (clampReport s a off lsb w r x y).f p l n = s.f p l n := by
  unfold State.f; rw [clampReport_rd _ _ _ _ _ _ _ _ _ h k]
@[simp] theorem clampReport_fb (s : State) (a : Agent) (off lsb w r x y p l : Nat) (h : p ≠ 0x210) (k : p ≠ 0x218) :
    (clampReport s a off lsb w r x y).fb p l = s.fb p l := by
  unfold State.fb; rw [clampReport_f _ _ _ _ _ _ _ _ _ _ _ h k]

@[simp] theorem clampReport_cores (s : State) (a : Agent) (off lsb w r x y : Nat) :
    (clampReport s a off lsb w r x y).cores = s.cores := by
  unfold clampReport
  dsimp only
  split_ifs <;> simp [hostWrite]
@[simp] theorem clampReport_core (s : State) (a : Agent) (off lsb w r x y k : Nat) :
    (clampReport s a off lsb w r x y).core k = s.core k := by
  unfold State.core; rw [clampReport_cores]
@[simp] theorem clampReport_dies (s : State) (a : Agent) (off lsb w r x y : Nat) :
    (clampReport s a off lsb w r x y).dies = s.dies := by
  unfold clampReport
  dsimp only
  split_ifs <;> simp [hostWrite]
@[simp] theorem clampReport_boot (s : State) (a : Agent) (off lsb w r x y : Nat) :
    (clampReport s a off lsb w r x y).boot = s.boot := by
  unfold clampReport
  dsimp only
  split_ifs <;> simp [hostWrite]

/-- A Clamp Report writes host memory alone. -/
theorem clampReport_byte (s : State) (a : Agent) (off lsb w r x y p : Nat) (h : p < 2 ^ 65) :
    (clampReport s a off lsb w r x y).byte p = s.byte p := by
  have e (t : State) (ht : t.mem = (hostWrite s ((s.rd 0x200).toNat + 32 * (s.f 0x210 0 32 % 2 ^ s.f 0x208 1 5))
      (clampEntry off lsb w r (agentCode a) x y s.now)).mem) : t.byte p = s.byte p := by
    rw [byte_mem _ ht]
    apply hostWrite_byte_out
    left
    unfold hostA
    omega
  unfold clampReport
  dsimp only
  split_ifs
  · simp
  · simp
  · exact e _ (by simp)

@[simp] theorem reportAll_rd (s : State) (a : Agent) (off p : Nat) (rs : List Rep) (h : p ≠ 0x210) (k : p ≠ 0x218) :
    (reportAll s a off rs).rd p = s.rd p := by
  unfold reportAll
  induction rs generalizing s with
  | nil => rfl
  | cons r t ih => exact (ih _).trans (clampReport_rd _ _ _ _ _ _ _ _ _ h k)
@[simp] theorem reportAll_f (s : State) (a : Agent) (off p l w : Nat) (rs : List Rep) (h : p ≠ 0x210) (k : p ≠ 0x218) :
    (reportAll s a off rs).f p l w = s.f p l w := by
  unfold State.f; rw [reportAll_rd _ _ _ _ _ h k]
@[simp] theorem reportAll_fb (s : State) (a : Agent) (off p l : Nat) (rs : List Rep) (h : p ≠ 0x210) (k : p ≠ 0x218) :
    (reportAll s a off rs).fb p l = s.fb p l := by
  unfold State.fb; rw [reportAll_f _ _ _ _ _ _ _ h k]
@[simp] theorem reportAll_cores (s : State) (a : Agent) (off : Nat) (rs : List Rep) : (reportAll s a off rs).cores = s.cores := by
  unfold reportAll
  induction rs generalizing s with
  | nil => rfl
  | cons r t ih => exact (ih _).trans (clampReport_cores ..)
@[simp] theorem reportAll_core (s : State) (a : Agent) (off k : Nat) (rs : List Rep) : (reportAll s a off rs).core k = s.core k := by
  unfold State.core; rw [reportAll_cores]
@[simp] theorem reportAll_dies (s : State) (a : Agent) (off : Nat) (rs : List Rep) : (reportAll s a off rs).dies = s.dies := by
  unfold reportAll
  induction rs generalizing s with
  | nil => rfl
  | cons r t ih => exact (ih _).trans (clampReport_dies ..)
@[simp] theorem reportAll_boot (s : State) (a : Agent) (off : Nat) (rs : List Rep) : (reportAll s a off rs).boot = s.boot := by
  unfold reportAll
  induction rs generalizing s with
  | nil => rfl
  | cons r t ih => exact (ih _).trans (clampReport_boot ..)
theorem reportAll_byte (s : State) (a : Agent) (off p : Nat) (rs : List Rep) (h : p < 2 ^ 65) :
    (reportAll s a off rs).byte p = s.byte p := by
  unfold reportAll
  induction rs generalizing s with
  | nil => rfl
  | cons r t ih => exact (ih _).trans (clampReport_byte _ _ _ _ _ _ _ _ _ h)

@[simp] theorem dropLatch_rd (s : State) (off p : Nat) : (dropLatch s off).rd p = s.rd p := by rfl
@[simp] theorem unhold_rd (s : State) (off p : Nat) : (unhold s off).rd p = s.rd p := by rfl
@[simp] theorem dropLatch_f (s : State) (off p l w : Nat) : (dropLatch s off).f p l w = s.f p l w := by rfl
@[simp] theorem unhold_f (s : State) (off p l w : Nat) : (unhold s off).f p l w = s.f p l w := by rfl
@[simp] theorem dropLatch_fb (s : State) (off p l : Nat) : (dropLatch s off).fb p l = s.fb p l := by rfl
@[simp] theorem unhold_fb (s : State) (off p l : Nat) : (unhold s off).fb p l = s.fb p l := by rfl
@[simp] theorem dropLatch_core (s : State) (off k : Nat) : (dropLatch s off).core k = s.core k := by rfl
@[simp] theorem unhold_core (s : State) (off k : Nat) : (unhold s off).core k = s.core k := by rfl
@[simp] theorem dropLatch_boot (s : State) (off : Nat) : (dropLatch s off).boot = s.boot := by rfl
@[simp] theorem unhold_boot (s : State) (off : Nat) : (unhold s off).boot = s.boot := by rfl
@[simp] theorem dropLatch_host (s : State) (off : Nat) : (dropLatch s off).host = s.host := by rfl
@[simp] theorem unhold_host (s : State) (off : Nat) : (unhold s off).host = s.host := by rfl
@[simp] theorem dropLatch_byte (s : State) (off k : Nat) : (dropLatch s off).byte k = s.byte k := by rfl
@[simp] theorem unhold_byte (s : State) (off k : Nat) : (unhold s off).byte k = s.byte k := by rfl

/-! ### Writes -/

/-- A write that reaches its register and that no rule discards whole: the fields take their legal values, the rules over more than one
field follow, what was changed is reported, and the register's own effect comes last (R9-R11, R353). -/
theorem regWrite_eq {s : State} {a : Agent} {off : Nat} (v : Word) {fs : List Field} (h : Reached s a off) (hf : regFields off = some fs)
    (hd : discards (unhold (dropLatch s off) off) a off (s.rd off) (applyFields (withGaps 0 fs) (s.rd off) v).1 = none) :
    regWrite s a off v =
      let s0 := unhold (dropLatch s off) off
      let r := andThen (applyFields (withGaps 0 fs) (s.rd off) v) (fun n => crossRule s0 off n)
      writeHook (reportAll (s0.wr off r.1) a off (mergeReps r.2)) a off (s.rd off) v := by
  obtain ⟨h1, h2, h3, h4⟩ := h
  unfold regWrite
  rw [h2, h3, Bool.and_self, if_pos rfl, regOn_on s off _ h4]
  unfold putReg
  simp only [hf, h1, Option.getD_some, Bool.false_and, Bool.false_eq_true, if_false, unhold_rd, dropLatch_rd, hd]

/-! ### Places of registers -/

theorem isSlot_lt {sl : Nat} (h : isSlot sl = true) : sl < 512 ∧ (sl % 8 < 4 ∨ sl % 64 = 60) := by
  simpa [isSlot] using h

/-- The window of a core slot. -/
theorem slotBase_eq (sl : Nat) : slotBase sl = 0x1110000 + sl / 64 * 0x800000 + sl / 8 % 8 * 0x80000 + sl % 8 * 0x10000 := by
  unfold slotBase clusterBase dieBase
  omega

/-- A register in the window of a core slot is that slot's. -/
theorem coreAt_slot {sl o : Nat} (h : isSlot sl = true) (ho : o < 0x10000) : coreAt (slotBase sl + o) = some (sl, o) := by
  obtain ⟨h1, h2⟩ := isSlot_lt h
  rw [slotBase_eq]
  unfold coreAt
  rw [if_pos (by simp only [Bool.and_eq_true, decide_eq_true_eq]; omega)]
  dsimp only
  rw [if_pos (by simp only [Bool.and_eq_true, decide_eq_true_eq]; omega), if_neg (by omega)]
  simp only [Option.some.injEq, Prod.mk.injEq]
  constructor <;> omega

/-- The fields of a register of a core slot. -/
theorem regFields_slot {sl o : Nat} (h : isSlot sl = true) (ho : o < 0x10000) (h8 : o % 8 = 0) :
    regFields (slotBase sl + o) =
      coreFields (if sl % 8 = 4 then 32 * (sl / 64) + 31 else 32 * (sl / 64) + 4 * (sl / 8 % 8) + sl % 8) o := by
  obtain ⟨h1, h2⟩ := isSlot_lt h
  generalize hb : slotBase sl + o = x
  rw [slotBase_eq] at hb
  have e1 : (x - 0x1000000) / 0x800000 = sl / 64 := by omega
  generalize hw : (x - 0x1000000) % 0x800000 = w
  have e2 : w = 0x110000 + sl / 8 % 8 * 0x80000 + sl % 8 * 0x10000 + o := by omega
  unfold regFields
  rw [if_neg (by omega), if_neg (by omega), if_neg (by omega), if_neg (by omega), if_neg (by omega), if_neg (by omega),
    if_neg (by omega), if_neg (by omega), if_neg (by omega), if_neg (by omega), if_neg (by omega), if_neg (by omega),
    if_pos (by simp only [Bool.and_eq_true, decide_eq_true_eq]; omega), e1, hw]
  unfold dieFields
  have b (p y : Nat) (hy : y ≤ 0x110000) : (decide (p ≤ w) && decide (w < y)) = false := by
    simp only [Bool.and_eq_false_iff, decide_eq_false_iff_not]; omega
  rw [if_neg (by omega), if_neg (by omega)]
  simp only [b 0x100 0x150 (by omega), b 0x2100 0x2270 (by omega), b 0x2400 0x2508 (by omega), b 0x10000 0x1C000 (by omega),
    b 0x40000 0x60000 (by omega), b 0x60000 0x80000 (by omega), b 0x80000 0x100000 (by omega), Bool.false_eq_true, if_false]
  rw [if_neg (by omega), if_neg (by omega), if_neg (by omega), if_pos (by simp only [Bool.and_eq_true, decide_eq_true_eq]; omega)]
  have e3 : (w - 0x100000) / 0x80000 = sl / 8 % 8 := by
    clear b e1 hb hw
    omega
  generalize hr : (w - 0x100000) % 0x80000 = r
  have e4 : r = 0x10000 + sl % 8 * 0x10000 + o := by omega
  have e5 : r / 0x10000 = 1 + sl % 8 := by omega
  have e6 : r % 0x10000 = o := by omega
  have e7 : 64 * (sl / 64) + 8 * (sl / 8 % 8) + (1 + sl % 8 - 1) = sl := by omega
  rw [e3, if_neg (by omega), e5, e6, e7, if_pos (by simp only [Bool.and_eq_true, decide_eq_true_eq]; exact ⟨by omega, h⟩)]

end Sys2Proof.Machine
end

