-- ==== Sys2Proof/Laws/Tod.lean ====
section
/-! SUPPORT. Laws of issue: what taking a TOD and reading its descriptors leave alone, and what a TOD that passes every check becomes. -/

namespace Sys2Proof.Machine

/-- Only the queue served last changes in a core when a TOD is put into a ring. -/
@[simp] theorem setHdrW_core (s : State) (sl q i v k : Nat) : (setHdrW s sl q i v).core k = s.core k := localWrite_core ..

@[simp] theorem putTod_core (s : State) (sl q t k : Nat) : (putTod s sl q t).core k = s.core k := by
  unfold putTod
  dsimp only
  rw [setHdrW_core, localWrite_core]

theorem feedRun_core (n : Nat) (s : State) (sl q k : Nat) : (feedRun n s sl q).core k = s.core k := by
  induction n generalizing s with
  | zero => rfl
  | succ n ih =>
    unfold feedRun
    split
    · rfl
    · split
      · rfl
      · dsimp only
        rw [ih]
        exact putTod_core ..

/-- Taking a TOD makes its queue the one served last, and changes no other part of a core. -/
theorem takeTod_core (s : State) (sl q k : Nat) : (takeTod s sl q).core k = if k = sl then { s.core sl with rr := q } else s.core k := by
  unfold takeTod
  rw [feedRun_core]
  simp

theorem takeTod_ops (s : State) (sl q k : Nat) : ((takeTod s sl q).core k).ops = (s.core k).ops := by
  rw [takeTod_core]
  split_ifs with h
  · rw [h]
  · rfl

theorem touchDescs_core (s : State) (sl q ctx t : Nat) (f : Form) (k : Nat) : (touchDescs s sl q ctx t f).core k = s.core k := by
  unfold touchDescs
  generalize usedSlots t f = l
  induction l generalizing s with
  | nil => rfl
  | cons i l ih =>
    rw [List.foldl_cons, ih]
    dsimp only
    split
    · unfold State.core; rw [(sliceOnly_hbmTouch ..).cores]
    · rfl

/-- A TOD that passes every check of issue becomes the operation `issuedOp`, in the state `issuedState`. -/
theorem issueTod_passes {s : State} {sl q t : Nat} {fam : Family} {ds : List (Nat × Desc)} (h : Passes s sl q t fam ds) :
    issueTod s sl q t fam = (issuedState s sl q t fam ds, some (issuedOp s sl q t fam ds)) := by
  obtain ⟨h1, h2, h3, h4, h5, h8, h6⟩ := h
  dsimp only at h2 h3 h4 h5 h6 h8
  generalize hs2 : touchDescs (takeTod s sl q) sl q (newOp s sl q t).ctx t (fam.form t) = s2 at *
  have h7 : List.find? (fun k => decide (accOwner s2 sl k ≠ (newOp s sl q t).ctx) || (s2.core sl).ops.any (fun e =>
      decide (e.ctx ≠ (newOp s sl q t).ctx) && e.live && e.slots.contains k))
      (fam.use s2 sl q t { newOp s sl q t with descs := ds }).slots = none := by
    rw [List.find?_eq_none]
    intro k hk
    obtain ⟨a, b⟩ := h6 k hk
    rw [Bool.or_eq_true, not_or, decide_eq_true_eq, ne_eq, not_not, Bool.not_eq_true, List.any_eq_false]
    refine ⟨a, fun e he => ?_⟩
    rw [Bool.and_eq_true, Bool.and_eq_true, decide_eq_true_eq]
    rintro ⟨⟨c1, c2⟩, c3⟩
    rcases b e he with b | b | b
    · exact c1 b
    · rw [b] at c2; cases c2
    · rw [b] at c3; cases c3
  unfold issueTod
  dsimp only
  rw [if_neg (not_not.mpr h1), h2]
  dsimp only
  rw [if_neg (by decide), if_neg (by decide), hs2, if_neg (not_not.mpr h3), h4]
  dsimp only
  rw [if_neg (by rw [h5]; decide), if_neg (by rw [h8]; decide), h7]
  subst hs2
  rfl

/-- The tag of a TOD that can issue is free. -/
theorem todNow_free {s : State} {sl q t : Nat} (h : todNow s sl q = some t) : ∀ o ∈ (s.core sl).ops, o.tag ≠ tTag t := by
  unfold todNow at h
  split at h
  · rename_i hn
    have e := Option.some.inj h
    have := List.find?_some hn
    unfold canIssue at this
    rw [e] at this
    simp only [Bool.and_eq_true, Bool.not_eq_true', List.any_eq_false, decide_eq_true_eq] at this
    exact fun o ho => this.1.1.2 o ho
  · cases h

theorem takeWhile_free {os : List Op} {x : Op} {k : Nat} (h : ∀ e ∈ os, e.tag ≠ k) (hx : x.tag = k) :
    (os ++ [x]).takeWhile (fun e => decide (e.tag ≠ k)) = os := by
  rw [List.takeWhile_append_of_pos (by simpa using h)]
  simp [hx]

/-- Whether the last operation may start does not depend on the hazards noted at it. -/
theorem startable_last {c d : Core} {os : List Op} {o x y : Op} (hc : c.ops = os ++ [x]) (hd : d.ops = os ++ [y]) (hx : x.tag = o.tag)
    (hy : y.tag = o.tag) (h : ∀ e ∈ os, e.tag ≠ o.tag) : startable c o = startable d o := by
  have h1 := takeWhile_free h hx
  have h2 := takeWhile_free h hy
  unfold startable accHaz memHaz streamHeld unitHeld recvPending portBefore
  rw [hc, hd, h1, h2]
  simp [List.any_append, hx, hy]

/-- The operation that issue leaves stands last in its core, with the hazards it met noted; where it may start, it met none. -/
theorem issuedState_last {s : State} {sl q t : Nat} (fam : Family) (ds : List (Nat × Desc)) (h : todNow s sl q = some t) :
    ∃ a m, ((issuedState s sl q t fam ds).core sl).ops = (s.core sl).ops ++ [{ issuedOp s sl q t fam ds with hazAcc := a, hazMem := m }] ∧
      (startable ((issuedState s sl q t fam ds).core sl) (issuedOp s sl q t fam ds) = true → a = false ∧ m = false) := by
  have hf := todNow_free h
  have ht : (issuedOp s sl q t fam ds).tag = tTag t := rfl
  have e0 : (issuedOp s sl q t fam ds).hazAcc = false ∧ (issuedOp s sl q t fam ds).hazMem = false := ⟨rfl, rfl⟩
  unfold issuedState
  dsimp only
  generalize hb : touchDescs (takeTod s sl q) sl q (issuedOp s sl q t fam ds).ctx t (fam.form t) = b
  have ho : (b.core sl).ops = (s.core sl).ops := by rw [← hb, touchDescs_core, takeTod_ops]
  generalize issuedOp s sl q t fam ds = o at *
  rw [← ht] at hf
  have hops : ((b.modCore sl (fun c => { c with ops := c.ops ++ [o] })).core sl).ops = (s.core sl).ops ++ [o] := by
    rw [State.core_modCore, if_pos rfl, ho]
  generalize b.modCore sl (fun c => { c with ops := c.ops ++ [o] }) = u at *
  unfold noteHazards
  dsimp only
  rw [e0.1, e0.2]
  simp only [Bool.not_false, Bool.true_and]
  by_cases ha : accHaz (u.core sl) o = true ∨ memHaz (u.core sl) o = true
  · rw [if_pos (by simpa using ha)]
    have hfin : ((State.modCore (if memHaz (u.core sl) o = true then (if accHaz (u.core sl) o = true then u.addCtr (slotBase sl + 0x380) 1 else u).addCtr
          (slotBase sl + 0x780) 1 else if accHaz (u.core sl) o = true then u.addCtr (slotBase sl + 0x380) 1 else u) sl (fun c => { c with
        ops := c.ops.map (fun x => if x.tag = o.tag then { x with hazAcc := x.hazAcc || accHaz (u.core sl) o, hazMem := x.hazMem || memHaz (u.core sl) o } else x) })).core sl).ops =
        (s.core sl).ops ++ [{ o with hazAcc := accHaz (u.core sl) o, hazMem := memHaz (u.core sl) o }] := by
      rw [State.core_modCore, if_pos rfl]
      have : ∀ v : State, v.core sl = u.core sl → (v.core sl).ops = (s.core sl).ops ++ [o] := fun v e => by rw [e, hops]
      dsimp only
      rw [this]
      · rw [List.map_append]
        congr 1
        · conv_rhs => rw [← List.map_id (s.core sl).ops]
          apply List.map_congr_left
          intro x hx
          simp [hf x hx]
        · simp [e0.1, e0.2]
      · split_ifs <;> simp
    refine ⟨_, _, hfin, fun hs => ?_⟩
    exfalso
    have hc : startable (u.core sl) o = false := by
      unfold startable
      rcases ha with ha | ha <;> simp [ha]
    rw [← startable_last hops hfin rfl rfl hf, hc] at hs
    cases hs
  · rw [if_neg (by simpa using ha)]
    have h0 : accHaz (u.core sl) o = false ∧ memHaz (u.core sl) o = false := by simpa using ha
    have e : ({ o with hazAcc := false, hazMem := false } : Op) = o := by
      obtain ⟨e1, e2⟩ := e0
      cases o
      cases e1
      cases e2
      rfl
    refine ⟨false, false, ?_, fun _ => ⟨rfl, rfl⟩⟩
    rw [e, if_neg (by rw [h0.2]; decide), if_neg (by rw [h0.1]; decide), hops]

/-- A TOD that fails a check of issue completes, and no operation enters. -/
theorem issueTod_refused {s r : State} {sl q t : Nat} {fam : Family} (h : TodRefused s sl q t fam r) : issueTod s sl q t fam = (r, none) := by
  unfold TodRefused at h
  dsimp only at h
  unfold issueTod
  dsimp only
  rcases h with ⟨h1, rfl⟩ | ⟨h1, h⟩
  · rw [if_pos h1]
  · rw [if_neg (not_not.mpr h1)]
    unfold useOf afterRead at h
    generalize hrd : readDescs (takeTod s sl q) sl q (newOp s sl q t).ctx t (fam.form t) = rd at *
    obtain ⟨dst, da, ds⟩ := rd
    dsimp only at h ⊢
    generalize hs2 : touchDescs (takeTod s sl q) sl q (newOp s sl q t).ctx t (fam.form t) = s2 at *
    rcases h with ⟨a, rfl⟩ | ⟨a, b, rfl⟩ | ⟨a, b, rfl⟩ | ⟨a, b, x, c, rfl⟩ | ⟨a, b, c, d, rfl⟩ | ⟨a, b, c, d, i, rfl⟩ |
      ⟨a, b, c, d, i, k, hk, e, f, g, rfl⟩
    · rw [if_pos a, a]
    · rw [if_neg a, if_pos b]
    · rw [a, if_neg (by decide), if_neg (by decide), if_pos b]
    · rw [a, if_neg (by decide), if_neg (by decide), if_neg (not_not.mpr b), c]
    · rw [a, if_neg (by decide), if_neg (by decide), if_neg (not_not.mpr b), c]
      dsimp only
      rw [if_pos d]
    · rw [a, if_neg (by decide), if_neg (by decide), if_neg (not_not.mpr b), c]
      dsimp only
      rw [if_neg (by rw [d]; decide), if_pos i]
    · rw [a, if_neg (by decide), if_neg (by decide), if_neg (not_not.mpr b), c]
      dsimp only
      rw [if_neg (by rw [d]; decide), if_neg (by rw [i]; decide)]
      have : List.find? (fun k => decide (accOwner s2 sl k ≠ (newOp s sl q t).ctx) || (s2.core sl).ops.any (fun e =>
          decide (e.ctx ≠ (newOp s sl q t).ctx) && e.live && e.slots.contains k))
          (fam.use s2 sl q t { newOp s sl q t with descs := ds }).slots = some k := by
        generalize (fam.use s2 sl q t { newOp s sl q t with descs := ds }).slots = l at *
        clear a b c d i hrd hs2 h1
        induction l with
        | nil => cases hk
        | cons j l ih =>
          rw [List.find?_cons]
          by_cases hj : accOwner s2 sl j ≠ (newOp s sl q t).ctx
          · have : j = k := (f j (.head _)).resolve_right hj
            subst this
            simp [hj]
          · have hjk : j ≠ k := fun x => hj (x ▸ e)
            have hno : ((s2.core sl).ops.any (fun e => decide (e.ctx ≠ (newOp s sl q t).ctx) && e.live && e.slots.contains j)) = false := by
              rw [List.any_eq_false]
              intro x hx
              rw [Bool.and_eq_true, Bool.and_eq_true, decide_eq_true_eq]
              rintro ⟨⟨c1, c2⟩, c3⟩
              rcases g j (.head _) x hx with y | y | y
              · exact c1 y
              · rw [y] at c2; cases c2
              · rw [y] at c3; cases c3
            rw [hno, decide_eq_false hj]
            simp only [Bool.or_self]
            exact ih ((List.mem_cons.mp hk).resolve_left (Ne.symm hjk)) (fun i hi => f i (.tail _ hi)) (fun i hi => g i (.tail _ hi))
      rw [this]

/-- What an issued operation does at once: it waits, completes, or starts. -/
theorem tryStart_issued {s : State} {sl q t : Nat} {fam : Family} {ds : List (Nat × Desc)} (h : todNow s sl q = some t) :
    let s3 := issuedState s sl q t fam ds
    let o := issuedOp s sl q t fam ds
    let r := tryStart s3 sl ((opOf s3 sl o.tag).getD o) fam
    (startable (s3.core sl) o = false → r = s3) ∧
    (startable (s3.core sl) o = true →
      (assignPorts s3 sl o = .wait → r = s3) ∧ (∀ u, assignPorts s3 sl o = .over u → r = u) ∧
      (∀ u o2 t1 o1 st, assignPorts s3 sl o = .go u o2 → fam.start u sl { o2 with startTs := u.now } = (t1, o1, st) →
        r = if st = 0 then glintOp (updOp t1 sl o1) sl o1 1 0 0 0 else finishWith t1 sl { o2 with startTs := u.now } st)) := by
  obtain ⟨a, m, hops, hz⟩ := issuedState_last fam ds h
  have hf := todNow_free h
  have ht : (issuedOp s sl q t fam ds).tag = tTag t := rfl
  have e0 : (issuedOp s sl q t fam ds).hazAcc = false ∧ (issuedOp s sl q t fam ds).hazMem = false := ⟨rfl, rfl⟩
  dsimp only
  generalize issuedOp s sl q t fam ds = o at *
  generalize issuedState s sl q t fam ds = u at *
  rw [← ht] at hf
  have hop : opOf u sl o.tag = some { o with hazAcc := a, hazMem := m } := by
    unfold opOf
    rw [hops, List.find?_append, List.find?_eq_none.mpr (by simpa using hf)]
    simp
  rw [hop, Option.getD_some]
  refine ⟨fun hs => ?_, fun hs => ?_⟩
  · unfold tryStart
    rw [if_pos]
    have : startable (u.core sl) { o with hazAcc := a, hazMem := m } = startable (u.core sl) o := rfl
    rw [this, hs]
    rfl
  · obtain ⟨rfl, rfl⟩ := hz hs
    have e : ({ o with hazAcc := false, hazMem := false } : Op) = o := by
      obtain ⟨e1, e2⟩ := e0
      cases o
      cases e1
      cases e2
      rfl
    rw [e]
    unfold tryStart
    rw [if_neg (by rw [hs]; decide)]
    refine ⟨fun hp => by rw [hp], fun v hp => by rw [hp], fun v o2 t1 o1 st hp hst => ?_⟩
    rw [hp]
    cases fam with
    | mk form use start =>
      dsimp only at hst ⊢
      rw [hst]
      dsimp only
      split_ifs <;> simp_all

/-- The rule of every row that issues a TOD through the shared issue. -/
theorem todRow_of {c : Nat → Nat → Instr} {mine : Nat → Bool} {fam : Family} {after : State → Nat → State}
    (h : ∀ s sl q, exec (c sl q) s = .next (ended s (after (runTod s sl q mine fam) sl))) : TodRow c mine fam after := by
  refine ⟨fun s sl q h0 => ?_, ?_⟩
  · rw [h]; unfold runTod
    cases hq : todNow s sl q with
    | none => rfl
    | some t => simp [h0 t hq]
  intro s sl q t h1 h2
  have run : runTod s sl q mine fam = match issueTod s sl q t fam with
      | (s', none) => s'
      | (s', some o) => tryStart s' sl ((opOf s' sl o.tag).getD o) fam := by
    unfold runTod
    rw [h1]
    simp [h2] <;> rfl
  refine ⟨fun r hr => ?_, fun ds h3 => ?_⟩
  · rw [h, run, issueTod_refused hr]
  · have k := tryStart_issued (fam := fam) (ds := ds) h1
    dsimp only at k ⊢
    rw [h, run, issueTod_passes h3]
    dsimp only
    refine ⟨fun hs => by rw [k.1 hs], fun hs => ⟨fun hp => by rw [(k.2 hs).1 hp], fun u hp => by rw [(k.2 hs).2.1 u hp], fun u o2 t1 o1 st hp hst => ?_⟩⟩
    rw [(k.2 hs).2.2 u o2 t1 o1 st hp hst]

/-- The rule of every row that issues a TOD and acts at once. -/
theorem todActsRow_of {c : Nat → Nat → Instr} {mine : Nat → Bool} {fam : Family} {act : State → Nat → Op → State}
    (h : ∀ s sl q, exec (c sl q) s = .next (ended s (issueNow s sl q mine fam (fun s o => act s sl o)))) : TodActsRow c mine fam act := by
  refine ⟨fun s sl q h0 => ?_, ?_⟩
  · rw [h]; unfold issueNow
    cases hq : todNow s sl q with
    | none => rfl
    | some t => simp [h0 t hq]
  intro s sl q t h1 h2
  refine ⟨fun r hr => ?_, fun ds h3 => ?_⟩
  · rw [h]; unfold issueNow; rw [h1]; simp [h2, issueTod_refused hr]
  · rw [h]; unfold issueNow; rw [h1]; simp [h2, issueTod_passes h3]

end Sys2Proof.Machine
end

