-- ==== Sys2Proof/WellFormed.lean ====
section
/-! DEFINITION. Which commands name things the package has: slots, queues, ports, dies, blocks and clients in their ranges (spec/00
Table 0.6; spec/01 R14; spec/04 R97, R102; spec/13 R332, R333; spec/14 Table 14.1). -/

namespace Sys2Proof

open Sys2Proof.Machine (isSlot isBlock)

/-- A client is a function 0-64 (R332). -/
def Agent.ok : Agent → Bool
  | .client f => f ≤ 64
  | _ => true

/-- An ECC event names one of the six memory spaces. -/
def EccEvent.ok (e : EccEvent) : Bool := e.space < 6

/-- Whether a command's operands are in range. -/
def Instr.wellFormed : Instr → Bool
  | .registerWrite a off _ => a.ok && off % 8 = 0 && off < 0x8000000
  | .lowerHalfWrite a off _ => a.ok && off % 8 = 0 && off < 0x8000000
  | .lowerHalfRead a off => a.ok && off % 8 = 0 && off < 0x8000000
  | .upperHalfRead a off => a.ok && off % 8 = 0 && off < 0x8000000
  | .rcRead a off => a.ok && off % 8 = 0 && off < 0x8000000
  | .resetPkgWrite a => a.ok
  | .dieResetWrite a d => a.ok && d < 8
  | .packageReset => true
  | .dieReset d => d < 8
  | .girthTransmit e _ => e < 32
  | .girthFlitReceive e _ => e < 32
  | .girthAckTimeout e => e < 32
  | .girthReplayLimit e => e < 32
  | .girthRetrainDone e => e < 32
  | .girthLaneFail e g lane => e < 32 && g < 16 && lane < 66
  | .laneSpared e => e < 32
  | .groupRetired e => e < 32
  | .girthRerouteRelease e => e < 32
  | .bridleRequest site _ => site < 2
  | .bridleRateRelease site => site < 2
  | .siteDoorbell site => site < 2
  | .siteLinkDrop site => site < 2
  | .siteWidthDegrade site w => site < 2 && 1 ≤ w && w ≤ 3
  | .coreFailure sl => isSlot sl
  | .coreResetTimeout sl => isSlot sl
  | .opqProdAdvance sl q _ _ => isSlot sl && q < 4
  | .opqResume a sl q => a.ok && isSlot sl && q < 4
  | .tagWindowWrite a sl _ => a.ok && isSlot sl
  | .todBadOpcode sl q => isSlot sl && q < 4
  | .matmul sl q => isSlot sl && q < 4
  | .matmulAt sl q => isSlot sl && q < 4
  | .matmulBt sl q => isSlot sl && q < 4
  | .drain sl q => isSlot sl && q < 4
  | .eltwise sl q => isSlot sl && q < 4
  | .reduce sl q => isSlot sl && q < 4
  | .normFwd sl q => isSlot sl && q < 4
  | .normBwd sl q => isSlot sl && q < 4
  | .softmaxFwd sl q => isSlot sl && q < 4
  | .softmaxBwd sl q => isSlot sl && q < 4
  | .attnFwd sl q => isSlot sl && q < 4
  | .attnBwd sl q => isSlot sl && q < 4
  | .kvAppend sl q => isSlot sl && q < 4
  | .admissionPass sl q => isSlot sl && q < 4
  | .prefixLookup sl q => isSlot sl && q < 4
  | .attach sl q => isSlot sl && q < 4
  | .insert sl q => isSlot sl && q < 4
  | .kvLockGrant sl tag _ => isSlot sl && tag < 16384
  | .gather sl q => isSlot sl && q < 4
  | .scatter sl q => isSlot sl && q < 4
  | .segmentReduce sl q => isSlot sl && q < 4
  | .sortKeys sl q => isSlot sl && q < 4
  | .convert sl q => isSlot sl && q < 4
  | .stats sl q => isSlot sl && q < 4
  | .send sl q => isSlot sl && q < 4
  | .recv sl q => isSlot sl && q < 4
  | .channelOpen sl q => isSlot sl && q < 4
  | .channelClose sl q => isSlot sl && q < 4
  | .channelCloseQueue sl q => isSlot sl && q < 4
  | .phaseSwitch sl q => isSlot sl && q < 4
  | .optimStep sl q => isSlot sl && q < 4
  | .rngFill sl q => isSlot sl && q < 4
  | .versionAcquireFwd sl q => isSlot sl && q < 4
  | .versionAcquireBwd sl q => isSlot sl && q < 4
  | .versionAcquireWrite sl q => isSlot sl && q < 4
  | .versionAcquireReplay sl q => isSlot sl && q < 4
  | .versionReleaseEnd sl q => isSlot sl && q < 4
  | .versionReleaseCommit sl q => isSlot sl && q < 4
  | .versionReleaseAbandon sl q => isSlot sl && q < 4
  | .versionReleaseDrop sl q => isSlot sl && q < 4
  | .bucketPush sl q => isSlot sl && q < 4
  | .stepBegin sl q => isSlot sl && q < 4
  | .rewind sl q => isSlot sl && q < 4
  | .fence sl q => isSlot sl && q < 4
  | .waitEvent sl q => isSlot sl && q < 4
  | .waitEventTimeout sl tag => isSlot sl && tag < 16384
  | .stashPut sl q => isSlot sl && q < 4
  | .stashGet sl q => isSlot sl && q < 4
  | .stashEnableWrite a sl _ => a.ok && isSlot sl
  | .vecCall sl q => isSlot sl && q < 4
  | .kernelEcall sl tag _ ecc => isSlot sl && tag < 16384 && ecc.all (fun x => x.ok)
  | .kernelTrap sl tag _ ecc => isSlot sl && tag < 16384 && ecc.all (fun x => x.ok)
  | .kernelTimeout sl tag _ ecc => isSlot sl && tag < 16384 && ecc.all (fun x => x.ok)
  | .controlCoreAmo cl hart _ _ _ _ => cl < 64 && hart < 5
  | .loadReserved cl hart _ _ => cl < 64 && hart < 5
  | .storeConditional cl hart _ _ _ => cl < 64 && hart < 5
  | .opStart sl tag _ ecc => isSlot sl && tag < 16384 && ecc.all (fun x => x.ok)
  | .matrixTileDone sl tag ecc => isSlot sl && tag < 16384 && ecc.all (fun x => x.ok)
  | .drainTileDone sl tag ecc => isSlot sl && tag < 16384 && ecc.all (fun x => x.ok)
  | .opComplete sl tag _ ecc => isSlot sl && tag < 16384 && ecc.all (fun x => x.ok)
  | .cplConsAdvance sl q _ => isSlot sl && q < 4
  | .chanCfgWrite a sl c _ => a.ok && isSlot sl && c < 64
  | .rqCfgWrite a sl r _ => a.ok && isSlot sl && r < 16
  | .openRequest _ => true
  | .openGrant _ => true
  | .channelOpenTimeout sl tag => isSlot sl && tag < 16384
  | .grantReq _ => true
  | .grantIssue sl r => isSlot sl && r < 16
  | .grant _ _ => true
  | .msgData _ => true
  | .deliverAck _ => true
  | .grantTimeout sl c _ => isSlot sl && c < 64
  | .nack _ => true
  | .abort _ => true
  | .xferTimeout sl r => isSlot sl && r < 16
  | .closeNotice _ => true
  | .senderLossReport sl r pkg core chan => isSlot sl && r < 16 && pkg < 4096 && core < 256 && chan < 64
  | .setCfgWrite a d i _ => a.ok && d < 8 && i < 512
  | .holdCfgWrite a sl _ => a.ok && isSlot sl
  | .cinchJobCfgWrite a _ => a.ok
  | .bucketLaunch b => b < 1024
  | .cinchPart _ _ _ _ _ => true
  | .bucketComplete b => b < 1024
  | .stepDone _ _ _ => true
  | .stepFinal _ _ _ => true
  | .stepAbort _ _ _ _ => true
  | .stepDeadline => true
  | .doneTimeout => true
  | .shadowCfgWrite a _ => a.ok
  | .trickleStart => true
  | .shadowData _ _ _ _ _ _ => true
  | .shadowStagingDone => true
  | .shadowTrailer _ _ => true
  | .snapAck _ _ _ => true
  | .shadowCtlRead _ _ _ _ _ => true
  | .restore q => q < 4096
  | .lock q => q < 4096
  | .unlock q => q < 4096
  | .verifyRelease q => q < 4096
  | .portCtlWrite a p _ => a.ok && p < 18
  | .failback a p => a.ok && p < 18
  | .trainingDone p _ => p < 18
  | .trainTimeout p _ => p < 18
  | .trainRetry p => p < 18
  | .downRetrain p => p < 18
  | .hello p pkg _ _ _ _ _ _ => p < 18 && pkg < 4096
  | .spdmGetVersion p _ => p < 18
  | .spdmGetCapabilities p _ => p < 18
  | .spdmNegotiateAlgorithms p _ => p < 18
  | .spdmGetDigests p _ => p < 18
  | .spdmGetCertificate p _ => p < 18
  | .spdmChallenge p _ => p < 18
  | .spdmGetMeasurements p _ => p < 18
  | .authTimeout p => p < 18
  | .wenlynTransmit p => p < 18
  | .wenlynFlitReceive p _ _ => p < 18
  | .wenlynAckTimeout p => p < 18
  | .ackCoalesceTimeout p => p < 18
  | .keepaliveTimeout p => p < 18
  | .wenlynReplayLimit p => p < 18
  | .linkDead p => p < 18
  | .lossOfLock p _ => p < 18
  | .wenlynLaneFail p lane => p < 18 && lane < 9
  | .laneSwap p lane => p < 18 && lane < 9
  | .wenlynErrorLimit p => p < 18
  | .creditStarved p vc => p < 18 && vc < 8
  | .partnerFault p pkg => p < 18 && pkg < 4096
  | .peerClose p => p < 18
  | .read _ => true
  | .write _ => true
  | .atomic _ => true
  | .resp _ _ => true
  | .remoteTimeout tag reqId => tag < 16384 && reqId < 2 ^ 26
  | .idemExpire pkg reqId => pkg < 4096 && reqId < 2 ^ 26
  | .sliceRequest _ _ _ hint _ ecc => hint < 4 && ecc.all (fun x => x.ok)
  | .sliceAtomic _ _ _ _ ecc => ecc.all (fun x => x.ok)
  | .rowCeLimit d pch slot _ => d < 8 && pch < 64 && slot < 48
  | .rowHoldCopyDone d h ecc => d < 8 && h < 16 && ecc.all (fun x => x.ok)
  | .scrubStep d ecc => d < 8 && ecc.all (fun x => x.ok)
  | .bar2Access _ _ _ _ => true
  | .sqDoorbell f _ _ _ => f ≤ 64
  | .cqDoorbell f _ _ => f ≤ 64
  | .badCommand q => q < 4096
  | .task q _ => q < 4096
  | .opqWrite q _ => q < 4096
  | .copy q => q < 4096
  | .copySegmentDone _ seg _ => seg < 64
  | .coreCtlResume q => q < 4096
  | .coreCtlCancel q => q < 4096
  | .coreCtlReset q => q < 4096
  | .acctSnapshot q _ => q < 4096
  | .taskPlace _ => true
  | .preemptSaveDone core => core < 256
  | .coreScrubDone core => core < 256
  | .taskRestoreDone core => core < 256
  | .commandComplete _ _ => true
  | .coalTimeout q => q < 4096
  | .queueResume a q => a.ok && q < 4096
  | .qcfgWrite a q _ => a.ok && q < 4096
  | .acctClr a f => a.ok && f ≤ 64
  | .energyApportion sl _ => isSlot sl
  | .flr f => f ≤ 64
  | .hostInterfaceReset => true
  | .faultRaise cls inst _ => isBlock cls inst
  | .faultAck a cls inst => a.ok && isBlock cls inst
  | .fltStatusClear a cls inst _ => a.ok && isBlock cls inst
  | .lanternHeartbeat a _ => a.ok
  | .mcHeartbeatStop => true
  | .bootWaitExpire => true
  | .lanternPeerHeartbeat l => l < 2
  | .lanternLost l => l < 2
  | .lanternRelease a => a.ok
  | .psuTimeout _ _ => true
  | .pmbAlert _ => true
  | .inputUv _ => true
  | .inputUvClear _ => true
  | .inputOv _ => true
  | .rsiAck d _ => d < 8
  | .rsiTimeout d _ => d < 8
  | .domainIdle d n => d < 9 && (if d = 8 then n < 23 else n < 46)
  | .plevelRequest a d _ => a.ok && d < 8
  | .frequencyChangeDone d => d < 8
  | .powerCapCheck _ => true
  | .energyUpdate d _ _ _ => d < 8
  | .thermalSample d _ => d < 9
  | .thermalCapStep d _ => d < 9
  | .ivrFault d _ _ => d < 8
  | .refclkLoss => true
  | .refclkRestore => true
  | .powerOn => true
  | .powerLoss => true
  | .perstNAssert => true
  | .perstNRelease gen width => 1 ≤ gen && gen ≤ 6 && 1 ≤ width && width ≤ 16
  | .bootTry a => a.ok
  | .bootConfirm a => a.ok
  | .mailboxImageWrite img _ _ _ => img < 2
  | .dieReady d _ _ => d < 8
  | .matrixSelftestDone d _ => d < 8
  | .awlStart a p => a.ok && p < 18
  | .awlStop a p _ => a.ok && p < 18
  | .awlGenIssue p => p < 18
  | .awlInject p _ => p < 18
  | .injectionEnd p => p < 18
  | .prbsUnlock p lane _ _ => p < 18 && lane < 9
  | .memGenStart a _ => a.ok
  | .girthMarginStart a _ => a.ok
  | .marginRunEnd _ _ _ => true
  | .pcieMarginCommand lane _ _ _ => lane < 16
  | .ppsEdge => true
  | .ppsLost => true
  | .tbSet a _ => a.ok
  | .mctpMessage _ => true
  | .siteLinkTrained site w => site < 2 && 1 ≤ w && w ≤ 3
  | .msixVectorUnmask f vec => f ≤ 64 && vec < 2048
  | .pcieLinkRetrain gen width => 1 ≤ gen && gen ≤ 6 && 1 ≤ width && width ≤ 16
  | .prbsLock p lane => p < 18 && lane < 9
  | .memGenDone _ _ => true

end Sys2Proof
end

