-- ==== Sys2Proof/Tests/Slice0.lean ====
section
/-! SUPPORT. Tests: for each statement, states and operands that meet its hypotheses; an ill-formed command for each check of WellFormed; single
steps on small states with results from the rules of spec/. -/

namespace Sys2Proof.Tests
open Sys2Proof Sys2Proof.Machine
set_option Elab.async false

/-- Registers written one after another. -/
def regs (l : List (Nat × Nat)) (s : State) : State := l.foldl (fun s p => s.wr p.1 (BitVec.ofNat 64 p.2)) s
/-- Bytes of a number written at a place of memory. -/
def poke (a n v : Nat) (s : State) : State := { s with mem := memPutAll s.mem a (leBytes n v) }
/-- Dies 0 and 1 are FULL, with the first core of each ready, and features are on, HBM is trained. -/
def up : State :=
  let s := regs [(rCapDie 0, 0x1B), (rCapDie 1, 0x1B)] State.reset
  { s with boot := { s.boot with perst := false, checked := true, ever := true, heard := true, featSet := true } }

/-! ## An ill-formed command for each check of WellFormed, and a well-formed one for each row with a check -/

theorem test_wf_refuses_1 : ([
    .registerWrite (.client 65) 0 (.full 0#64), .registerWrite (.client 0) 4 (.full 0#64), .registerWrite (.client 0) 134217728 (.full 0#64),
    .lowerHalfWrite (.client 65) 0 0#32, .lowerHalfWrite (.client 0) 4 0#32, .lowerHalfWrite (.client 0) 134217728 0#32, .lowerHalfRead (.client 65) 0,
    .lowerHalfRead (.client 0) 4, .lowerHalfRead (.client 0) 134217728, .upperHalfRead (.client 65) 0, .upperHalfRead (.client 0) 4,
    .upperHalfRead (.client 0) 134217728, .rcRead (.client 65) 0, .rcRead (.client 0) 4, .rcRead (.client 0) 134217728, .resetPkgWrite (.client 65),
    .dieResetWrite (.client 65) 0, .dieResetWrite (.client 0) 8, .dieReset 8, .girthTransmit 32 [], .girthFlitReceive 32 0, .girthAckTimeout 32,
    .girthReplayLimit 32, .girthRetrainDone 32, .girthLaneFail 32 0 0, .girthLaneFail 0 16 0, .girthLaneFail 0 0 66, .laneSpared 32, .groupRetired 32,
    .girthRerouteRelease 32, .bridleRequest 2 ⟨.read, 0, 1, []⟩, .bridleRateRelease 2, .siteDoorbell 2, .siteLinkDrop 2, .siteWidthDegrade 2 1,
    .siteWidthDegrade 0 0, .siteWidthDegrade 0 4, .coreFailure 4, .coreResetTimeout 4, .opqProdAdvance 4 0 [] 0#32, .opqProdAdvance 0 4 [] 0#32,
    .opqResume (.client 65) 0 0, .opqResume (.client 0) 4 0, .opqResume (.client 0) 0 4, .tagWindowWrite (.client 65) 0 0#64,
    .tagWindowWrite (.client 0) 4 0#64, .todBadOpcode 4 0, .todBadOpcode 0 4, .matmul 4 0, .matmul 0 4, .matmulAt 4 0, .matmulAt 0 4, .matmulBt 4 0,
    .matmulBt 0 4, .drain 4 0, .drain 0 4, .eltwise 4 0, .eltwise 0 4, .reduce 4 0, .reduce 0 4] : List Instr).all (fun c => c.wellFormed = false) = true := by decide +kernel

theorem test_wf_refuses_2 : ([
    .normFwd 4 0, .normFwd 0 4, .normBwd 4 0, .normBwd 0 4, .softmaxFwd 4 0, .softmaxFwd 0 4, .softmaxBwd 4 0, .softmaxBwd 0 4, .attnFwd 4 0,
    .attnFwd 0 4, .attnBwd 4 0, .attnBwd 0 4, .kvAppend 4 0, .kvAppend 0 4, .admissionPass 4 0, .admissionPass 0 4, .prefixLookup 4 0,
    .prefixLookup 0 4, .attach 4 0, .attach 0 4, .insert 4 0, .insert 0 4, .kvLockGrant 4 0 0, .kvLockGrant 0 16384 0, .gather 4 0, .gather 0 4,
    .scatter 4 0, .scatter 0 4, .segmentReduce 4 0, .segmentReduce 0 4, .sortKeys 4 0, .sortKeys 0 4, .convert 4 0, .convert 0 4, .stats 4 0,
    .stats 0 4, .send 4 0, .send 0 4, .recv 4 0, .recv 0 4, .channelOpen 4 0, .channelOpen 0 4, .channelClose 4 0, .channelClose 0 4,
    .channelCloseQueue 4 0, .channelCloseQueue 0 4, .phaseSwitch 4 0, .phaseSwitch 0 4, .optimStep 4 0, .optimStep 0 4, .rngFill 4 0, .rngFill 0 4,
    .versionAcquireFwd 4 0, .versionAcquireFwd 0 4, .versionAcquireBwd 4 0, .versionAcquireBwd 0 4, .versionAcquireWrite 4 0, .versionAcquireWrite 0 4,
    .versionAcquireReplay 4 0, .versionAcquireReplay 0 4] : List Instr).all (fun c => c.wellFormed = false) = true := by decide +kernel

theorem test_wf_refuses_3 : ([
    .versionReleaseEnd 4 0, .versionReleaseEnd 0 4, .versionReleaseCommit 4 0, .versionReleaseCommit 0 4, .versionReleaseAbandon 4 0,
    .versionReleaseAbandon 0 4, .versionReleaseDrop 4 0, .versionReleaseDrop 0 4, .bucketPush 4 0, .bucketPush 0 4, .stepBegin 4 0, .stepBegin 0 4,
    .rewind 4 0, .rewind 0 4, .fence 4 0, .fence 0 4, .waitEvent 4 0, .waitEvent 0 4, .waitEventTimeout 4 0, .waitEventTimeout 0 16384, .stashPut 4 0,
    .stashPut 0 4, .stashGet 4 0, .stashGet 0 4, .stashEnableWrite (.client 65) 0 0#64, .stashEnableWrite (.client 0) 4 0#64, .vecCall 4 0,
    .vecCall 0 4, .kernelEcall 4 0 0 [], .kernelEcall 0 16384 0 [], .kernelEcall 0 0 0 [⟨6, 0, 0⟩], .kernelTrap 4 0 0 [], .kernelTrap 0 16384 0 [],
    .kernelTrap 0 0 0 [⟨6, 0, 0⟩], .kernelTimeout 4 0 0 [], .kernelTimeout 0 16384 0 [], .kernelTimeout 0 0 0 [⟨6, 0, 0⟩],
    .controlCoreAmo 64 0 .add false 0 0, .controlCoreAmo 0 5 .add false 0 0, .loadReserved 64 0 false 0, .loadReserved 0 5 false 0,
    .storeConditional 64 0 false 0 0, .storeConditional 0 5 false 0 0, .opStart 4 0 0 [], .opStart 0 16384 0 [], .opStart 0 0 0 [⟨6, 0, 0⟩],
    .matrixTileDone 4 0 [], .matrixTileDone 0 16384 [], .matrixTileDone 0 0 [⟨6, 0, 0⟩], .drainTileDone 4 0 [], .drainTileDone 0 16384 [],
    .drainTileDone 0 0 [⟨6, 0, 0⟩], .opComplete 4 0 0 [], .opComplete 0 16384 0 [], .opComplete 0 0 0 [⟨6, 0, 0⟩], .cplConsAdvance 4 0 0#32,
    .cplConsAdvance 0 4 0#32, .chanCfgWrite (.client 65) 0 0 0#64, .chanCfgWrite (.client 0) 4 0 0#64, .chanCfgWrite (.client 0) 0 64 0#64] : List Instr).all (fun c => c.wellFormed = false) = true := by decide +kernel

theorem test_wf_refuses_4 : ([
    .rqCfgWrite (.client 65) 0 0 0#64, .rqCfgWrite (.client 0) 4 0 0#64, .rqCfgWrite (.client 0) 0 16 0#64, .channelOpenTimeout 4 0,
    .channelOpenTimeout 0 16384, .grantIssue 4 0, .grantIssue 0 16, .grantTimeout 4 0 0, .grantTimeout 0 64 0, .xferTimeout 4 0, .xferTimeout 0 16,
    .senderLossReport 4 0 0 0 0, .senderLossReport 0 16 0 0 0, .senderLossReport 0 0 4096 0 0, .senderLossReport 0 0 0 256 0,
    .senderLossReport 0 0 0 0 64, .setCfgWrite (.client 65) 0 0 0#64, .setCfgWrite (.client 0) 8 0 0#64, .setCfgWrite (.client 0) 0 512 0#64,
    .holdCfgWrite (.client 65) 0 0#64, .holdCfgWrite (.client 0) 4 0#64, .cinchJobCfgWrite (.client 65) 0#64, .bucketLaunch 1024, .bucketComplete 1024,
    .shadowCfgWrite (.client 65) 0#64, .restore 4096, .lock 4096, .unlock 4096, .verifyRelease 4096, .portCtlWrite (.client 65) 0 0#64,
    .portCtlWrite (.client 0) 18 0#64, .failback (.client 65) 0, .failback (.client 0) 18, .trainingDone 18 0, .trainTimeout 18 0, .trainRetry 18,
    .downRetrain 18, .hello 18 0 0 0 [] 0 false [], .hello 0 4096 0 0 [] 0 false [], .spdmGetVersion 18 none, .spdmGetCapabilities 18 none,
    .spdmNegotiateAlgorithms 18 none, .spdmGetDigests 18 none, .spdmGetCertificate 18 none, .spdmChallenge 18 none, .spdmGetMeasurements 18 none,
    .authTimeout 18, .wenlynTransmit 18, .wenlynFlitReceive 18 [] none, .wenlynAckTimeout 18, .ackCoalesceTimeout 18, .keepaliveTimeout 18,
    .wenlynReplayLimit 18, .linkDead 18, .lossOfLock 18 [], .wenlynLaneFail 18 0, .wenlynLaneFail 0 9, .laneSwap 18 0, .laneSwap 0 9,
    .wenlynErrorLimit 18] : List Instr).all (fun c => c.wellFormed = false) = true := by decide +kernel

theorem test_wf_refuses_5 : ([
    .creditStarved 18 0, .creditStarved 0 8, .partnerFault 18 0, .partnerFault 0 4096, .peerClose 18, .remoteTimeout 16384 0, .remoteTimeout 0 67108864,
    .idemExpire 4096 0, .idemExpire 0 67108864, .sliceRequest .read 0 0 4 [] [], .sliceRequest .read 0 0 0 [] [⟨6, 0, 0⟩],
    .sliceAtomic 0 0 0 0 [⟨6, 0, 0⟩], .rowCeLimit 8 0 0 0, .rowCeLimit 0 64 0 0, .rowCeLimit 0 0 48 0, .rowHoldCopyDone 8 0 [],
    .rowHoldCopyDone 0 16 [], .rowHoldCopyDone 0 0 [⟨6, 0, 0⟩], .scrubStep 8 [], .scrubStep 0 [⟨6, 0, 0⟩], .sqDoorbell 65 0 0#32 none,
    .cqDoorbell 65 0 0#32, .badCommand 4096, .task 4096 false, .opqWrite 4096 false, .copy 4096, .copySegmentDone 0 64 false, .coreCtlResume 4096,
    .coreCtlCancel 4096, .coreCtlReset 4096, .acctSnapshot 4096 false, .preemptSaveDone 256, .coreScrubDone 256, .taskRestoreDone 256,
    .coalTimeout 4096, .queueResume (.client 65) 0, .queueResume (.client 0) 4096, .qcfgWrite (.client 65) 0 0#64, .qcfgWrite (.client 0) 4096 0#64,
    .acctClr (.client 65) 0, .acctClr (.client 0) 65, .energyApportion 4 [], .flr 65, .faultRaise 99 0 none, .faultAck (.client 65) 0 0,
    .faultAck (.client 0) 99 0, .fltStatusClear (.client 65) 0 0 0#32, .fltStatusClear (.client 0) 99 0 0#32, .lanternHeartbeat (.client 65) 0#32,
    .lanternPeerHeartbeat 2, .lanternLost 2, .lanternRelease (.client 65), .rsiAck 8 0, .rsiTimeout 8 0, .domainIdle 9 0, .domainIdle 8 23,
    .domainIdle 0 46, .plevelRequest (.client 65) 0 0#64, .plevelRequest (.client 0) 8 0#64, .frequencyChangeDone 8] : List Instr).all (fun c => c.wellFormed = false) = true := by decide +kernel

theorem test_wf_refuses_6 : ([
    .energyUpdate 8 [] 0 0, .thermalSample 9 [], .thermalCapStep 9 false, .ivrFault 8 0 0, .perstNRelease 0 1, .perstNRelease 7 1, .perstNRelease 1 0,
    .perstNRelease 1 17, .bootTry (.client 65), .bootConfirm (.client 65), .mailboxImageWrite 2 false false 0, .dieReady 8 [] false,
    .matrixSelftestDone 8 [], .awlStart (.client 65) 0, .awlStart (.client 0) 18, .awlStop (.client 65) 0 [], .awlStop (.client 0) 18 [],
    .awlGenIssue 18, .awlInject 18 0, .injectionEnd 18, .prbsUnlock 18 0 0 0, .prbsUnlock 0 9 0 0, .memGenStart (.client 65) 0#64,
    .girthMarginStart (.client 65) 0#64, .pcieMarginCommand 16 0 0 0, .tbSet (.client 65) 0#32, .siteLinkTrained 2 1, .siteLinkTrained 0 0,
    .siteLinkTrained 0 4, .msixVectorUnmask 65 0, .msixVectorUnmask 0 2048, .pcieLinkRetrain 0 1, .pcieLinkRetrain 7 1, .pcieLinkRetrain 1 0,
    .pcieLinkRetrain 1 17, .prbsLock 18 0, .prbsLock 0 9] : List Instr).all (fun c => c.wellFormed = false) = true := by decide +kernel

theorem test_wf_takes_1 : ([
    .registerWrite (.client 0) 0 (.full 0#64), .lowerHalfWrite (.client 0) 0 0#32, .lowerHalfRead (.client 0) 0, .upperHalfRead (.client 0) 0,
    .rcRead (.client 0) 0, .resetPkgWrite (.client 0), .dieResetWrite (.client 0) 0, .dieReset 0, .girthTransmit 0 [], .girthFlitReceive 0 0,
    .girthAckTimeout 0, .girthReplayLimit 0, .girthRetrainDone 0, .girthLaneFail 0 0 0, .laneSpared 0, .groupRetired 0, .girthRerouteRelease 0,
    .bridleRequest 0 ⟨.read, 0, 1, []⟩, .bridleRateRelease 0, .siteDoorbell 0, .siteLinkDrop 0, .siteWidthDegrade 0 1, .coreFailure 0,
    .coreResetTimeout 0, .opqProdAdvance 0 0 [] 0#32, .opqResume (.client 0) 0 0, .tagWindowWrite (.client 0) 0 0#64, .todBadOpcode 0 0, .matmul 0 0,
    .matmulAt 0 0, .matmulBt 0 0, .drain 0 0, .eltwise 0 0, .reduce 0 0, .normFwd 0 0, .normBwd 0 0, .softmaxFwd 0 0, .softmaxBwd 0 0, .attnFwd 0 0,
    .attnBwd 0 0, .kvAppend 0 0, .admissionPass 0 0, .prefixLookup 0 0, .attach 0 0, .insert 0 0, .kvLockGrant 0 0 0, .gather 0 0, .scatter 0 0,
    .segmentReduce 0 0, .sortKeys 0 0, .convert 0 0, .stats 0 0, .send 0 0, .recv 0 0, .channelOpen 0 0, .channelClose 0 0, .channelCloseQueue 0 0,
    .phaseSwitch 0 0, .optimStep 0 0, .rngFill 0 0] : List Instr).all (fun c => c.wellFormed = true) = true := by decide +kernel

theorem test_wf_takes_2 : ([
    .versionAcquireFwd 0 0, .versionAcquireBwd 0 0, .versionAcquireWrite 0 0, .versionAcquireReplay 0 0, .versionReleaseEnd 0 0,
    .versionReleaseCommit 0 0, .versionReleaseAbandon 0 0, .versionReleaseDrop 0 0, .bucketPush 0 0, .stepBegin 0 0, .rewind 0 0, .fence 0 0,
    .waitEvent 0 0, .waitEventTimeout 0 0, .stashPut 0 0, .stashGet 0 0, .stashEnableWrite (.client 0) 0 0#64, .vecCall 0 0, .kernelEcall 0 0 0 [],
    .kernelTrap 0 0 0 [], .kernelTimeout 0 0 0 [], .controlCoreAmo 0 0 .add false 0 0, .loadReserved 0 0 false 0, .storeConditional 0 0 false 0 0,
    .opStart 0 0 0 [], .matrixTileDone 0 0 [], .drainTileDone 0 0 [], .opComplete 0 0 0 [], .cplConsAdvance 0 0 0#32,
    .chanCfgWrite (.client 0) 0 0 0#64, .rqCfgWrite (.client 0) 0 0 0#64, .channelOpenTimeout 0 0, .grantIssue 0 0, .grantTimeout 0 0 0,
    .xferTimeout 0 0, .senderLossReport 0 0 0 0 0, .setCfgWrite (.client 0) 0 0 0#64, .holdCfgWrite (.client 0) 0 0#64,
    .cinchJobCfgWrite (.client 0) 0#64, .bucketLaunch 0, .bucketComplete 0, .shadowCfgWrite (.client 0) 0#64, .restore 0, .lock 0, .unlock 0,
    .verifyRelease 0, .portCtlWrite (.client 0) 0 0#64, .failback (.client 0) 0, .trainingDone 0 0, .trainTimeout 0 0, .trainRetry 0, .downRetrain 0,
    .hello 0 0 0 0 [] 0 false [], .spdmGetVersion 0 none, .spdmGetCapabilities 0 none, .spdmNegotiateAlgorithms 0 none, .spdmGetDigests 0 none,
    .spdmGetCertificate 0 none, .spdmChallenge 0 none, .spdmGetMeasurements 0 none] : List Instr).all (fun c => c.wellFormed = true) = true := by decide +kernel

theorem test_wf_takes_3 : ([
    .authTimeout 0, .wenlynTransmit 0, .wenlynFlitReceive 0 [] none, .wenlynAckTimeout 0, .ackCoalesceTimeout 0, .keepaliveTimeout 0,
    .wenlynReplayLimit 0, .linkDead 0, .lossOfLock 0 [], .wenlynLaneFail 0 0, .laneSwap 0 0, .wenlynErrorLimit 0, .creditStarved 0 0, .partnerFault 0 0,
    .peerClose 0, .remoteTimeout 0 0, .idemExpire 0 0, .sliceRequest .read 0 0 0 [] [], .sliceAtomic 0 0 0 0 [], .rowCeLimit 0 0 0 0,
    .rowHoldCopyDone 0 0 [], .scrubStep 0 [], .sqDoorbell 0 0 0#32 none, .cqDoorbell 0 0 0#32, .badCommand 0, .task 0 false, .opqWrite 0 false, .copy 0,
    .copySegmentDone 0 0 false, .coreCtlResume 0, .coreCtlCancel 0, .coreCtlReset 0, .acctSnapshot 0 false, .preemptSaveDone 0, .coreScrubDone 0,
    .taskRestoreDone 0, .coalTimeout 0, .queueResume (.client 0) 0, .qcfgWrite (.client 0) 0 0#64, .acctClr (.client 0) 0, .energyApportion 0 [],
    .flr 0, .faultRaise 0 0 none, .faultAck (.client 0) 0 0, .fltStatusClear (.client 0) 0 0 0#32, .lanternHeartbeat (.client 0) 0#32,
    .lanternPeerHeartbeat 0, .lanternLost 0, .lanternRelease (.client 0), .rsiAck 0 0, .rsiTimeout 0 0, .domainIdle 0 0,
    .plevelRequest (.client 0) 0 0#64, .frequencyChangeDone 0, .energyUpdate 0 [] 0 0, .thermalSample 0 [], .thermalCapStep 0 false, .ivrFault 0 0 0,
    .perstNRelease 1 1, .bootTry (.client 0)] : List Instr).all (fun c => c.wellFormed = true) = true := by decide +kernel

theorem test_wf_takes_4 : ([
    .bootConfirm (.client 0), .mailboxImageWrite 0 false false 0, .dieReady 0 [] false, .matrixSelftestDone 0 [], .awlStart (.client 0) 0,
    .awlStop (.client 0) 0 [], .awlGenIssue 0, .awlInject 0 0, .injectionEnd 0, .prbsUnlock 0 0 0 0, .memGenStart (.client 0) 0#64,
    .girthMarginStart (.client 0) 0#64, .pcieMarginCommand 0 0 0 0, .tbSet (.client 0) 0#32, .siteLinkTrained 0 1, .msixVectorUnmask 0 0,
    .pcieLinkRetrain 1 1, .prbsLock 0 0] : List Instr).all (fun c => c.wellFormed = true) = true := by decide +kernel


/-! ## TODs -/

/-- Value `v` at bit `lsb` of the word at byte `b`. -/
def fb (b lsb v : Nat) : Nat := v * 2 ^ (8 * b + lsb)
/-- A dense tensor of format `f` in page `k` of the scratchpad. -/
def tens (k f : Nat) (n : List Nat) : Nat :=
  0xFF0000000000 + 0x1000 * k + fb 6 0 f + fb 7 0 n.length + sumN ((n.zipIdx).map (fun p => fb 16 (32 * p.2) p.1)) +
    sumN ((upto (n.length - 1)).map (fun i => fb 40 (48 * i) (4 * ((n.take (i + 1)).foldl (· * ·) 1))))
/-- A TOD with tag 0: the slots of `ds` name the entries of the descriptor table in order, the rest of the first eight none. -/
def todOf (opc body : Nat) (ds : List Nat) : Nat :=
  opc + body + sumN ((upto 8).map (fun i => if ds.contains i then 0 else fb 72 (16 * i) 0xFFFF)) +
    sumN (ds.zipIdx.map (fun p => fb 72 (16 * p.1) p.2))
/-- The first core of die 0 is ready to issue a TOD of queue 0: context 0, every tag, stream and event, all windows. -/
def ready (t : Nat) (ds : List Nat) : State :=
  let s := regs [(rOpq 0 0 0, 1 + 2 * 4 + 2 ^ 16 * 0xFFFF + 2 ^ 32 * 0xFFFF + 2 ^ 54 * 63), (rOpq 0 0 8, 2 ^ 24 * 0x1000 + 2 ^ 48 * 0x20),
    (rOpq 0 0 16, 0xFF0000000000 + 2 ^ 48 * 16), (rOpq 0 0 24, 0xFF00FF00), (rOwner 0 0, 0), (rOwner 0 1, 0), (mcBase 0 + 0x1008, 2 ^ 16 * 0xFF), (mcBase 0 + 0x1010, 0xF)] up
  let s := ds.zipIdx.foldl (fun s p => poke (spadA 0 + 64 * p.2) 64 p.1 s) s
  poke (cmemA 0 + 0x2000) 4 1 (poke (cmemA 0) 128 t s)

/-- Every check of issue passes. -/
def passesB (s : State) (t : Nat) (fam : Family) : Bool :=
  let s1 := takeTod s 0 0
  let rd := readDescs s1 0 0 (newOp s 0 0 t).ctx t (fam.form t)
  let s2 := afterRead s 0 0 t fam
  let u := useOf s 0 0 t fam rd.2.2
  todSt s1 0 0 t (fam.form t) = 0 && rd.1 = 0 && rd.2.1 = 0 && u.st = 0 && protBad s2 0 0 (newOp s 0 0 t).ctx u = none && !u.clash && !sliceGone s2 u &&
    u.slots.all (fun k => accOwner s2 0 k = (newOp s 0 0 t).ctx && (s2.core 0).ops.all (fun e =>
      e.ctx = (newOp s 0 0 t).ctx || !e.live || !e.slots.contains k))
def descsOf (s : State) (t : Nat) (fam : Family) : List (Nat × Desc) :=
  (readDescs (takeTod s 0 0) 0 0 (newOp s 0 0 t).ctx t (fam.form t)).2.2
/-- It passes, nothing holds it back, its messages are assigned and its start succeeds. -/
def goesB (s : State) (t : Nat) (fam : Family) : Bool :=
  let s3 := issuedState s 0 0 t fam (descsOf s t fam)
  let o := issuedOp s 0 0 t fam (descsOf s t fam)
  passesB s t fam && startable (s3.core 0) o && (match assignPorts s3 0 o with
    | .go u o2 => (fam.start u 0 { o2 with startTs := u.now }).2.2 = 0
    | _ => false)
def frontB (s : State) (t : Nat) (mine : Nat → Bool) : Bool := todNow s 0 0 = some t && mine t
/-- A TOD that passes issue and starts: the hypotheses of the last clause of `TodRow`. -/
def Goes (s : State) (t : Nat) (mine : Nat → Bool) (fam : Family) : Prop :=
  todNow s 0 0 = some t ∧ mine t = true ∧ ∃ ds u o2, Passes s 0 0 t fam ds ∧
    startable ((issuedState s 0 0 t fam ds).core 0) (issuedOp s 0 0 t fam ds) = true ∧
    assignPorts (issuedState s 0 0 t fam ds) 0 (issuedOp s 0 0 t fam ds) = .go u o2 ∧ (fam.start u 0 { o2 with startTs := u.now }).2.2 = 0

theorem passes_of {s : State} {t : Nat} {fam : Family} (h : passesB s t fam = true) : Passes s 0 0 t fam (descsOf s t fam) := by
  simp only [passesB, Bool.and_eq_true, decide_eq_true_eq, Bool.not_eq_true', List.all_eq_true, Bool.or_eq_true] at h
  obtain ⟨⟨⟨⟨⟨⟨⟨h1, h2⟩, h3⟩, h4⟩, h5⟩, h6⟩, h8⟩, h7⟩ := h
  refine ⟨h1, ?_, h4, h5, h6, h8, fun k hk => ⟨(h7 k hk).1, fun e he => ?_⟩⟩
  · exact Prod.ext h2 (Prod.ext h3 rfl)
  · rcases (h7 k hk).2 e he with (h | h) | h
    · exact .inl h
    · exact .inr (.inl h)
    · exact .inr (.inr h)

theorem goes_of {s : State} {t : Nat} {mine : Nat → Bool} {fam : Family} (h : (frontB s t mine && goesB s t fam) = true) : Goes s t mine fam := by
  simp only [frontB, goesB, Bool.and_eq_true, decide_eq_true_eq] at h
  obtain ⟨⟨h1, h2⟩, ⟨h3, h4⟩, h5⟩ := h
  split at h5
  · rename_i u o2 hu
    exact ⟨h1, h2, _, u, o2, passes_of h3, h4, hu, by simpa using h5⟩
  · cases h5


/-- An allocator header at 0x1000 with one active sequence of one page, which holds frame 0. -/
def kvS (s : State) : State :=
  poke 0x2000 1 1 (poke 0x2008 4 64 (poke (0x2000 + 24) 6 0x3000 (poke 0x4000 4 1
    (poke 0x1000 512 (fb 20 0 1 + fb 32 0 0x4000 + fb 40 0 0x2000 + fb 256 0 0x8000 + fb 264 0 1 + fb 265 0 1 + fb 266 0 1 + fb 268 0 2) s))))
/-- Micro-batch queue 0 bound to op queue 0 with one entry; a hold table with one hold of version 1 of set 0; set 0 enabled. -/
def mbS (s : State) : State :=
  poke (cmemA 0 + 0x4000) 4 1 (poke (cmemA 0 + 0x6000) 8 1 (regs [(rStash 0 0, 1), (rHold 0, 1 + 2 * 3 + 2 ^ 8 * 0x60), (rMbq 0 0 0, 1), (rMbq 0 0 8, 0x5000 + 2 ^ 24 * 0x40),
    (rSet 0 0x18, 1), (rSet 0 0x20, 1 + 2 ^ 48)] s))
/-- Cinch enabled, with one bucket whose entry of one part stands at 0x200000. -/
def ciS (s : State) : State := regs [(rCinch 0, 1), (rCinch 0x18, 1), (rCinch 0x10, 0x200000)] (poke 0x20000E 2 1 s)


/-- A TOD with descriptors, given by slot, and the state in which it is next. -/
def todD (opc body : Nat) (ds : List (Nat × Nat)) : Nat := todOf opc body (ds.map Prod.fst)
def readyD (opc body : Nat) (ds : List (Nat × Nat)) : State := ready (todD opc body ds) (ds.map Prod.snd)

theorem wit_goes_matrix :
    -- matmul, matmulAt, matmulBt, drain
    Goes (readyD 1 (fb 16 24 1 + fb 16 34 1 + fb 24 0 1) [(0, tens 1 0 [1,1]), (1, tens 2 0 [1,1])])
    (todD 1 (fb 16 24 1 + fb 16 34 1 + fb 24 0 1) [(0, tens 1 0 [1,1]), (1, tens 2 0 [1,1])]) (isOpc 0x01) famMatrix ∧
    Goes (readyD 2 (fb 16 24 1 + fb 16 34 1 + fb 24 0 1) [(0, tens 1 0 [1,1]), (1, tens 2 0 [1,1])])
    (todD 2 (fb 16 24 1 + fb 16 34 1 + fb 24 0 1) [(0, tens 1 0 [1,1]), (1, tens 2 0 [1,1])]) (isOpc 0x02) famMatrix ∧
    Goes (readyD 3 (fb 16 24 1 + fb 16 34 1 + fb 24 0 1) [(0, tens 1 0 [1,1]), (1, tens 2 0 [1,1])])
    (todD 3 (fb 16 24 1 + fb 16 34 1 + fb 24 0 1) [(0, tens 1 0 [1,1]), (1, tens 2 0 [1,1])]) (isOpc 0x03) famMatrix ∧
    Goes ((fun s => s.modCore 0 (fun c => c.setTags 0 2 (.mode .acc32))) (readyD 4 (fb 16 5 1 + fb 16 24 1 + fb 16 34 1 + fb 24 32 0x3F800000) [(2, tens 1 0 [1,1])]))
    (todD 4 (fb 16 5 1 + fb 16 24 1 + fb 16 34 1 + fb 24 32 0x3F800000) [(2, tens 1 0 [1,1])]) (isOpc 0x04) famDrain :=
  ⟨goes_of (by decide +kernel), goes_of (by decide +kernel), goes_of (by decide +kernel), goes_of (by decide +kernel)⟩
theorem wit_goes_vector :
    -- eltwise, reduce, normFwd, normBwd, softmaxFwd, softmaxBwd
    Goes (readyD 8 (0) [(0, tens 1 0 [1]), (3, tens 2 0 [1])])
    (todD 8 (0) [(0, tens 1 0 [1]), (3, tens 2 0 [1])]) (isOpc 0x08) famEltwise ∧
    Goes (readyD 9 (0) [(0, tens 1 0 [2]), (1, tens 2 0 [1])])
    (todD 9 (0) [(0, tens 1 0 [2]), (1, tens 2 0 [1])]) (isOpc 0x09) famReduce ∧
    Goes (readyD 10 (fb 16 32 0x3F800000) [(0, tens 1 0 [2]), (1, tens 2 0 [2]), (3, tens 3 0 [2])])
    (todD 10 (fb 16 32 0x3F800000) [(0, tens 1 0 [2]), (1, tens 2 0 [2]), (3, tens 3 0 [2])]) (isOpc 0x0A) famNormFwd ∧
    Goes (readyD 11 (0) [(0, tens 1 0 [2]), (1, tens 2 0 [2]), (2, tens 3 0 [2]), (3, tens 4 0 [2]), (4, tens 5 0 [2]), (5, tens 6 0 [2])])
    (todD 11 (0) [(0, tens 1 0 [2]), (1, tens 2 0 [2]), (2, tens 3 0 [2]), (3, tens 4 0 [2]), (4, tens 5 0 [2]), (5, tens 6 0 [2])]) (isOpc 0x0B) famNormBwd ∧
    Goes (readyD 12 (fb 16 32 0x3F800000) [(0, tens 1 0 [2]), (2, tens 2 0 [2])])
    (todD 12 (fb 16 32 0x3F800000) [(0, tens 1 0 [2]), (2, tens 2 0 [2])]) (isOpc 0x0C) famSoftFwd ∧
    Goes (readyD 13 (fb 16 32 0x3F800000) [(0, tens 1 0 [2]), (1, tens 2 0 [2]), (4, tens 3 0 [2])])
    (todD 13 (fb 16 32 0x3F800000) [(0, tens 1 0 [2]), (1, tens 2 0 [2]), (4, tens 3 0 [2])]) (isOpc 0x0D) famSoftBwd :=
  ⟨goes_of (by decide +kernel), goes_of (by decide +kernel), goes_of (by decide +kernel), goes_of (by decide +kernel), goes_of (by decide +kernel), goes_of (by decide +kernel)⟩
theorem wit_goes_conversion :
    -- convert, stats, optimStep, rngFill, vecCall
    Goes (readyD 0x20 (0) [(0, tens 1 0 [1]), (1, tens 2 2 [1])])
    (todD 0x20 (0) [(0, tens 1 0 [1]), (1, tens 2 2 [1])]) (isOpc 0x20) famConvert ∧
    Goes (readyD 0x21 (fb 48 0 64) [(0, tens 1 0 [1])])
    (todD 0x21 (fb 48 0 64) [(0, tens 1 0 [1])]) (isOpc 0x21) famStats ∧
    Goes (readyD 0x30 (fb 16 0 1 + fb 16 32 0x3F800000) [(0, tens 1 0 [1]), (1, tens 2 0 [1]), (2, tens 3 0 [1])])
    (todD 0x30 (fb 16 0 1 + fb 16 32 0x3F800000) [(0, tens 1 0 [1]), (1, tens 2 0 [1]), (2, tens 3 0 [1])]) (isOpc 0x30) famOptim ∧
    Goes (readyD 0x31 (0) [(0, tens 1 0 [1])])
    (todD 0x31 (0) [(0, tens 1 0 [1])]) (isOpc 0x31) famRngFill ∧
    Goes (ready (todOf 0x40 (0) []) [])
    (todOf 0x40 (0) []) (isOpc 0x40) famVec :=
  ⟨goes_of (by decide +kernel), goes_of (by decide +kernel), goes_of (by decide +kernel), goes_of (by decide +kernel), goes_of (by decide +kernel)⟩
theorem wit_goes_attention :
    -- attnFwd, attnBwd
    Goes (readyD 0x10 (fb 16 32 0x3F800000) [(0, tens 1 2 [16,1]), (1, tens 2 2 [16,1]), (2, tens 3 2 [16,1]), (3, tens 4 13 [3,1]), (5, tens 5 0 [16,1])])
    (todD 0x10 (fb 16 32 0x3F800000) [(0, tens 1 2 [16,1]), (1, tens 2 2 [16,1]), (2, tens 3 2 [16,1]), (3, tens 4 13 [3,1]), (5, tens 5 0 [16,1])]) (isOpc 0x10) famAttnFwd ∧
    Goes (readyD 0x11 (fb 16 32 0x3F800000) [(0, tens 1 2 [16,1]), (1, tens 2 2 [16,1]), (2, tens 3 2 [16,1]), (3, tens 4 0 [16,1]), (4, tens 5 2 [16,1]), (5, tens 6 13 [3,1]), (7, tens 7 0 [2,1]), (8, tens 8 0 [16,1]), (9, tens 9 0 [16,1]), (10, tens 10 0 [16,1])])
    (todD 0x11 (fb 16 32 0x3F800000) [(0, tens 1 2 [16,1]), (1, tens 2 2 [16,1]), (2, tens 3 2 [16,1]), (3, tens 4 0 [16,1]), (4, tens 5 2 [16,1]), (5, tens 6 13 [3,1]), (7, tens 7 0 [2,1]), (8, tens 8 0 [16,1]), (9, tens 9 0 [16,1]), (10, tens 10 0 [16,1])]) (isOpc 0x11) famAttnBwd :=
  ⟨goes_of (by decide +kernel), goes_of (by decide +kernel)⟩
theorem wit_goes_mover :
    -- gather, scatter, segmentReduce, sortKeys
    Goes (readyD 0x18 (0) [(0, tens 1 0 [2,2]), (1, tens 2 13 [1]), (2, tens 3 0 [2,1])])
    (todD 0x18 (0) [(0, tens 1 0 [2,2]), (1, tens 2 13 [1]), (2, tens 3 0 [2,1])]) (isOpc 0x18) famGather ∧
    Goes (readyD 0x19 (0) [(0, tens 1 0 [2,1]), (1, tens 2 13 [1]), (2, tens 3 0 [2,2])])
    (todD 0x19 (0) [(0, tens 1 0 [2,1]), (1, tens 2 13 [1]), (2, tens 3 0 [2,2])]) (isOpc 0x19) famScatter ∧
    Goes (readyD 0x1A (0) [(0, tens 1 0 [1,1]), (1, tens 2 13 [2]), (2, tens 3 0 [1,1])])
    (todD 0x1A (0) [(0, tens 1 0 [1,1]), (1, tens 2 13 [2]), (2, tens 3 0 [1,1])]) (isOpc 0x1A) famSegment ∧
    Goes (readyD 0x1B (0) [(0, tens 1 13 [1]), (2, tens 2 13 [1]), (4, tens 3 13 [2])])
    (todD 0x1B (0) [(0, tens 1 13 [1]), (2, tens 2 13 [1]), (4, tens 3 13 [2])]) (isOpc 0x1B) famSort :=
  ⟨goes_of (by decide +kernel), goes_of (by decide +kernel), goes_of (by decide +kernel), goes_of (by decide +kernel)⟩
theorem wit_goes_stash :
    -- stashPut, stashGet
    Goes ((regs [(rStash 0 0, 1 + 2 ^ 16), (rStash 0 8, 2 ^ 16)]) (readyD 0x3E (0) [(0, tens 1 0 [1])]))
    (todD 0x3E (0) [(0, tens 1 0 [1])]) (isOpc 0x3E) famStashPut ∧
    Goes ((fun s => poke 65536 64 (fb 10 0 1 + fb 16 0 1 + fb 20 0 1 + fb 24 0 1 + fb 28 0 1 + fb 32 0 1) (regs [(rStash 0 0, 1 + 2 ^ 16), (rStash 0 8, 2 ^ 16)] (s.modCore 0 (fun c => { c with stash := [⟨false, 0, 0, 0, 0, 2, 0, false, false⟩] })))) (readyD 0x3F (0) [(0, tens 1 0 [1])]))
    (todD 0x3F (0) [(0, tens 1 0 [1])]) (isOpc 0x3F) famStashGet :=
  ⟨goes_of (by decide +kernel), goes_of (by decide +kernel)⟩
theorem wit_goes_cache :
    -- kvAppend, admissionPass, prefixLookup, attach, insert
    Goes (kvS (readyD 0x12 (fb 32 0 0x1000) [(0, tens 1 0 [2,1]), (1, tens 2 0 [2,1])]))
    (todD 0x12 (fb 32 0 0x1000) [(0, tens 1 0 [2,1]), (1, tens 2 0 [2,1])]) (fun t => isOpc 0x12 t && kvFunc t ≠ 1) famKv ∧
    Goes (ready (todOf 0x12 (fb 16 0 1 + fb 32 0 0x1000) []) [])
    (todOf 0x12 (fb 16 0 1 + fb 32 0 0x1000) []) (fun t => isOpc 0x12 t && kvFunc t = 1) famKv ∧
    Goes (kvS (readyD 0x13 (fb 32 0 0x1000) [(0, tens 1 13 [1]), (1, tens 2 13 [4])]))
    (todD 0x13 (fb 32 0 0x1000) [(0, tens 1 13 [1]), (1, tens 2 13 [4])]) (fun t => isOpc 0x13 t && kvFunc t ≠ 1 && kvFunc t ≠ 2) famPrefix ∧
    Goes (kvS (readyD 0x13 (fb 16 0 1 + fb 32 0 0x1000) [(0, tens 1 13 [1]), (1, tens 2 13 [4])]))
    (todD 0x13 (fb 16 0 1 + fb 32 0 0x1000) [(0, tens 1 13 [1]), (1, tens 2 13 [4])]) (fun t => isOpc 0x13 t && kvFunc t = 1) famPrefix ∧
    Goes (kvS (readyD 0x13 (fb 16 0 2 + fb 32 0 0x1000) [(0, tens 1 13 [1]), (1, tens 2 13 [4])]))
    (todD 0x13 (fb 16 0 2 + fb 32 0 0x1000) [(0, tens 1 13 [1]), (1, tens 2 13 [4])]) (fun t => isOpc 0x13 t && kvFunc t = 2) famPrefix :=
  ⟨goes_of (by decide +kernel), goes_of (by decide +kernel), goes_of (by decide +kernel), goes_of (by decide +kernel), goes_of (by decide +kernel)⟩
theorem wit_goes_versions :
    -- versionAcquireFwd, versionAcquireBwd, versionAcquireWrite, versionAcquireReplay, versionReleaseEnd, versionReleaseCommit, versionReleaseAbandon, versionReleaseDrop
    Goes (mbS (ready (todOf 0x38 (0) []) []))
    (todOf 0x38 (0) []) (isAcquire 0) famAcquire ∧
    Goes ((fun s => poke (cmemA 0 + 0x600C) 1 1 (poke (cmemA 0 + 0x5004) 1 1 (mbS s))) (ready (todOf 0x38 (fb 16 0 1) []) []))
    (todOf 0x38 (fb 16 0 1) []) (isAcquire 1) famAcquire ∧
    Goes (mbS (ready (todOf 0x38 (fb 16 0 2) []) []))
    (todOf 0x38 (fb 16 0 2) []) (isAcquire 2) famAcquire ∧
    Goes ((fun s => poke (cmemA 0 + 0x5000 + 5) 1 1 (poke (cmemA 0 + 0x6000 + 12) 1 2 (regs [(rMbq 0 0 16, 2 ^ 28 + 2 ^ 32)] (mbS s)))) (ready (todOf 0x38 (fb 16 0 3) []) []))
    (todOf 0x38 (fb 16 0 3) []) (isAcquire 3) famAcquire ∧
    Goes ((fun s => regs [(rMbq 0 0 16, 2 ^ 28 + 2 ^ 32)] (mbS s)) (ready (todOf 0x39 (0) []) []))
    (todOf 0x39 (0) []) (isRelease 0) famRelease ∧
    Goes ((fun s => regs [(rSet 0 0x18, 1 + 2 ^ 29), (rSet 0 0x20, 0)] (mbS s)) (ready (todOf 0x39 (fb 16 0 1) []) []))
    (todOf 0x39 (fb 16 0 1) []) (isRelease 1) famRelease ∧
    Goes ((fun s => regs [(rSet 0 0x18, 1 + 2 ^ 29), (rSet 0 0x20, 0)] (mbS s)) (ready (todOf 0x39 (fb 16 0 2) []) []))
    (todOf 0x39 (fb 16 0 2) []) (isRelease 2) famRelease ∧
    Goes ((fun s => poke (cmemA 0 + 0x6000 + 12) 1 1 (mbS s)) (ready (todOf 0x39 (fb 16 0 3) []) []))
    (todOf 0x39 (fb 16 0 3) []) (isRelease 3) famRelease :=
  ⟨goes_of (by decide +kernel), goes_of (by decide +kernel), goes_of (by decide +kernel), goes_of (by decide +kernel), goes_of (by decide +kernel), goes_of (by decide +kernel), goes_of (by decide +kernel), goes_of (by decide +kernel)⟩
theorem wit_goes_buckets :
    -- bucketPush, stepBegin, rewind
    Goes ((fun s => ciS (regs [(rCinch 0x38, 1)] (poke 0x200020 1 1 s))) (ready (todOf 0x3A (0) []) []))
    (todOf 0x3A (0) []) (fun t => isOpc 0x3A t && (bpFunc t = 0 || bpFunc t = 3)) famPush ∧
    Goes (ciS (ready (todOf 0x3A (fb 16 10 1) []) []))
    (todOf 0x3A (fb 16 10 1) []) (fun t => isOpc 0x3A t && bpFunc t = 1) famPush ∧
    Goes (ready (todOf 0x3A (fb 16 10 2) []) [])
    (todOf 0x3A (fb 16 10 2) []) (fun t => isOpc 0x3A t && bpFunc t = 2) famPush :=
  ⟨goes_of (by decide +kernel), goes_of (by decide +kernel), goes_of (by decide +kernel)⟩
theorem wit_goes_control :
    -- phaseSwitch, fence, waitEvent
    Goes (ready (todOf 0x2C (0) []) [])
    (todOf 0x2C (0) []) (isOpc 0x2C) famPhase ∧
    Goes (ready (todOf 0x3C (0) []) [])
    (todOf 0x3C (0) []) (isOpc 0x3C) famFence ∧
    Goes (ready (todOf 0x3D (0) []) [])
    (todOf 0x3D (0) []) (isOpc 0x3D) famWait :=
  ⟨goes_of (by decide +kernel), goes_of (by decide +kernel), goes_of (by decide +kernel)⟩
theorem wit_goes_channels :
    -- send, recv, channelOpen, channelClose, channelCloseQueue
    Goes ((regs [(rChan 0 0 0, 0), (rChan 0 0 0x10, 2)]) (readyD 0x28 (0) [(0, tens 1 0 [1])]))
    (todD 0x28 (0) [(0, tens 1 0 [1])]) (isOpc 0x28) famSend ∧
    Goes ((regs [(rRq 0 0 0, 1)]) (ready (todOf 0x29 (0) []) []))
    (todOf 0x29 (0) []) (isOpc 0x29) famRecv ∧
    Goes ((regs [(rChan 0 0 0, 3)]) (ready (todOf 0x2A (0) []) []))
    (todOf 0x2A (0) []) (isOpc 0x2A) famOpen ∧
    Goes ((regs [(rChan 0 0 0, 3)]) (ready (todOf 0x2B (0) []) []))
    (todOf 0x2B (0) []) (fun t => tOpcode t = 0x2B && !closeSide t) famClose ∧
    Goes ((regs [(rRq 0 0 0, 0)]) (ready (todOf 0x2B (fb 16 8 1) []) []))
    (todOf 0x2B (fb 16 8 1) []) (fun t => tOpcode t = 0x2B && closeSide t) famCloseQ :=
  ⟨goes_of (by decide +kernel), goes_of (by decide +kernel), goes_of (by decide +kernel), goes_of (by decide +kernel), goes_of (by decide +kernel)⟩

/-- A TOD with a reserved bit of its header set fails the first check: the hypotheses of the first clause of `TodRow`. -/
def Refuses (s : State) (t : Nat) (mine : Nat → Bool) (fam : Family) : Prop :=
  todNow s 0 0 = some t ∧ mine t = true ∧ ∃ r, TodRefused s 0 0 t fam r
def refusesB (p : Nat × (Nat → Bool) × Family) : Bool :=
  let t := p.1 + 2 ^ 31
  frontB (ready t []) t p.2.1 && todSt (takeTod (ready t []) 0 0) 0 0 t (p.2.2.form t) ≠ 0
theorem refuses_of {p : Nat × (Nat → Bool) × Family} (h : refusesB p = true) :
    Refuses (ready (p.1 + 2 ^ 31) []) (p.1 + 2 ^ 31) p.2.1 p.2.2 := by
  simp only [refusesB, frontB, Bool.and_eq_true, decide_eq_true_eq] at h
  exact ⟨h.1.1, h.1.2, _, .inl ⟨h.2, rfl⟩⟩
theorem wit_refused_1 : ∀ p ∈ ([(1 + (fb 16 24 1 + fb 16 34 1 + fb 24 0 1), (isOpc 0x01), famMatrix),
    (2 + (fb 16 24 1 + fb 16 34 1 + fb 24 0 1), (isOpc 0x02), famMatrix),
    (3 + (fb 16 24 1 + fb 16 34 1 + fb 24 0 1), (isOpc 0x03), famMatrix),
    (4 + (fb 16 5 1 + fb 16 24 1 + fb 16 34 1 + fb 24 32 0x3F800000), (isOpc 0x04), famDrain),
    (8 + (0), (isOpc 0x08), famEltwise),
    (9 + (0), (isOpc 0x09), famReduce),
    (10 + (fb 16 32 0x3F800000), (isOpc 0x0A), famNormFwd),
    (11 + (0), (isOpc 0x0B), famNormBwd),
    (12 + (fb 16 32 0x3F800000), (isOpc 0x0C), famSoftFwd),
    (13 + (fb 16 32 0x3F800000), (isOpc 0x0D), famSoftBwd),
    (0x20 + (0), (isOpc 0x20), famConvert),
    (0x21 + (fb 48 0 64), (isOpc 0x21), famStats)] :
    List (Nat × (Nat → Bool) × Family)), Refuses (ready (p.1 + 2 ^ 31) []) (p.1 + 2 ^ 31) p.2.1 p.2.2 :=
  fun p h => refuses_of (List.all_eq_true.mp (by decide +kernel) p h)
theorem wit_refused_2 : ∀ p ∈ ([(0x30 + (fb 16 0 1 + fb 16 32 0x3F800000), (isOpc 0x30), famOptim),
    (0x31 + (0), (isOpc 0x31), famRngFill),
    (0x40 + (0), (isOpc 0x40), famVec),
    (0x10 + (fb 16 32 0x3F800000), (isOpc 0x10), famAttnFwd),
    (0x11 + (fb 16 32 0x3F800000), (isOpc 0x11), famAttnBwd),
    (0x18 + (0), (isOpc 0x18), famGather),
    (0x19 + (0), (isOpc 0x19), famScatter),
    (0x1A + (0), (isOpc 0x1A), famSegment),
    (0x1B + (0), (isOpc 0x1B), famSort),
    (0x3E + (0), (isOpc 0x3E), famStashPut),
    (0x3F + (0), (isOpc 0x3F), famStashGet),
    (0x12 + (fb 32 0 0x1000), (fun t => isOpc 0x12 t && kvFunc t ≠ 1), famKv)] :
    List (Nat × (Nat → Bool) × Family)), Refuses (ready (p.1 + 2 ^ 31) []) (p.1 + 2 ^ 31) p.2.1 p.2.2 :=
  fun p h => refuses_of (List.all_eq_true.mp (by decide +kernel) p h)
theorem wit_refused_3 : ∀ p ∈ ([(0x12 + (fb 16 0 1 + fb 32 0 0x1000), (fun t => isOpc 0x12 t && kvFunc t = 1), famKv),
    (0x13 + (fb 32 0 0x1000), (fun t => isOpc 0x13 t && kvFunc t ≠ 1 && kvFunc t ≠ 2), famPrefix),
    (0x13 + (fb 16 0 1 + fb 32 0 0x1000), (fun t => isOpc 0x13 t && kvFunc t = 1), famPrefix),
    (0x13 + (fb 16 0 2 + fb 32 0 0x1000), (fun t => isOpc 0x13 t && kvFunc t = 2), famPrefix),
    (0x38 + (0), (isAcquire 0), famAcquire),
    (0x38 + (fb 16 0 1), (isAcquire 1), famAcquire),
    (0x38 + (fb 16 0 2), (isAcquire 2), famAcquire),
    (0x38 + (fb 16 0 3), (isAcquire 3), famAcquire),
    (0x39 + (0), (isRelease 0), famRelease),
    (0x39 + (fb 16 0 1), (isRelease 1), famRelease),
    (0x39 + (fb 16 0 2), (isRelease 2), famRelease),
    (0x39 + (fb 16 0 3), (isRelease 3), famRelease)] :
    List (Nat × (Nat → Bool) × Family)), Refuses (ready (p.1 + 2 ^ 31) []) (p.1 + 2 ^ 31) p.2.1 p.2.2 :=
  fun p h => refuses_of (List.all_eq_true.mp (by decide +kernel) p h)
theorem wit_refused_4 : ∀ p ∈ ([(0x3A + (0), (fun t => isOpc 0x3A t && (bpFunc t = 0 || bpFunc t = 3)), famPush),
    (0x3A + (fb 16 10 1), (fun t => isOpc 0x3A t && bpFunc t = 1), famPush),
    (0x3A + (fb 16 10 2), (fun t => isOpc 0x3A t && bpFunc t = 2), famPush),
    (0x2C + (0), (isOpc 0x2C), famPhase),
    (0x3C + (0), (isOpc 0x3C), famFence),
    (0x3D + (0), (isOpc 0x3D), famWait),
    (0x28 + (0), (isOpc 0x28), famSend),
    (0x29 + (0), (isOpc 0x29), famRecv),
    (0x2A + (0), (isOpc 0x2A), famOpen),
    (0x2B + (0), (fun t => tOpcode t = 0x2B && !closeSide t), famClose),
    (0x2B + (fb 16 8 1), (fun t => tOpcode t = 0x2B && closeSide t), famCloseQ)] :
    List (Nat × (Nat → Bool) × Family)), Refuses (ready (p.1 + 2 ^ 31) []) (p.1 + 2 ^ 31) p.2.1 p.2.2 :=
  fun p h => refuses_of (List.all_eq_true.mp (by decide +kernel) p h)


/-- A TOD that passes issue, and a state in which something holds it back, its messages are awaited, or its ports end it. -/
def Enters (s : State) (t : Nat) (mine : Nat → Bool) (fam : Family) (what : Core → State → Op → Prop) : Prop :=
  todNow s 0 0 = some t ∧ mine t = true ∧ ∃ ds, Passes s 0 0 t fam ds ∧
    what ((issuedState s 0 0 t fam ds).core 0) (issuedState s 0 0 t fam ds) (issuedOp s 0 0 t fam ds)
def todM : Nat := todD 1 (fb 16 24 1 + fb 16 34 1 + fb 24 0 1) [(0, 0), (1, 0)]
/-- A MATMUL of one element, its A from a port or from the scratchpad. -/
def readyM (port : Nat) : State := ready todM [tens 1 0 [1, 1] + port * 2 ^ 59, tens 2 0 [1, 1]]
theorem wit_held : Enters ((readyM 0).modCore 0 (fun c => { c with ops := [{ newOp (readyM 0) 0 1 1 with tag := 1, q := 1 }] })) todM (isOpc 0x01) famMatrix
    (fun c _ o => startable c o = false) := ⟨by decide +kernel, by decide +kernel, _, passes_of (by decide +kernel), by decide +kernel⟩
theorem wit_port_ends : Enters (readyM 1) todM (isOpc 0x01) famMatrix (fun c s o => startable c o = true ∧ ∃ u, assignPorts s 0 o = .over u) :=
  ⟨by decide +kernel, by decide +kernel, _, passes_of (by decide +kernel), by decide +kernel, _, by
    unfold assignPorts
    rw [if_neg (by decide +kernel), if_pos (by decide +kernel)]⟩
theorem wit_port_waits : Enters ((regs [(slotBase 0 + 0x1500, 16)] (readyM 1)).modCore 0 (fun c => { c with bindCtx := [(0, 0)] })) todM (isOpc 0x01)
    famMatrix (fun c s o => startable c o = true ∧ (match assignPorts s 0 o with | .wait => true | _ => false) = true) :=
  ⟨by decide +kernel, by decide +kernel, _, passes_of (by decide +kernel), by decide +kernel, by decide +kernel⟩

/-- The checks of issue after the first, in their order: what each finds. -/
def checks (s : State) (t : Nat) (fam : Family) : Nat × Nat × Nat × Bool × Bool :=
  let rd := readDescs (takeTod s 0 0) 0 0 (newOp s 0 0 t).ctx t (fam.form t)
  let u := useOf s 0 0 t fam rd.2.2
  (todSt (takeTod s 0 0) 0 0 t (fam.form t), rd.1, u.st, (protBad (afterRead s 0 0 t fam) 0 0 (newOp s 0 0 t).ctx u).isSome, u.clash)
def redD (k n : Nat) : List (Nat × Nat) := [(0, tens 1 0 [2]), (1, tens k 0 [n])]
theorem wit_refused_descriptor : frontB (regs [(rOpq 0 0 16, 0x10000000 + 2 ^ 48 * 16)] (readyD 9 0 (redD 2 1))) (todD 9 0 (redD 2 1)) (isOpc 0x09) ∧
    (let c := checks (regs [(rOpq 0 0 16, 0x10000000 + 2 ^ 48 * 16)] (readyD 9 0 (redD 2 1))) (todD 9 0 (redD 2 1)) famReduce; c.1 = 0 ∧ c.2.1 = stMemProtect) ∧
    (let c := checks (regs [(rOpq 0 0 16, 0xFF0000000000)] (readyD 9 0 (redD 2 1))) (todD 9 0 (redD 2 1)) famReduce;
      c.1 = 0 ∧ c.2.1 ≠ stMemProtect ∧ c.2.1 ≠ 0) := by decide +kernel
theorem wit_refused_use : (let c := checks (readyD 9 0 (redD 2 2)) (todD 9 0 (redD 2 2)) famReduce; c.1 = 0 ∧ c.2.1 = 0 ∧ c.2.2.1 ≠ 0) ∧
    (let c := checks (regs [(rOpq 0 0 24, 0)] (readyD 9 0 (redD 16 1))) (todD 9 0 (redD 16 1)) famReduce;
      c.1 = 0 ∧ c.2.1 = 0 ∧ c.2.2.1 = 0 ∧ c.2.2.2.1 = true) ∧
    (let c := checks (readyD 9 0 (redD 1 1)) (todD 9 0 (redD 1 1)) famReduce;
      c.1 = 0 ∧ c.2.1 = 0 ∧ c.2.2.1 = 0 ∧ c.2.2.2.1 = false ∧ c.2.2.2.2 = true) := by decide +kernel
theorem wit_refused_slot : let s := regs [(rOwner 0 0, 0xFF)] (readyM 0)
    let c := checks s todM famMatrix
    c.1 = 0 ∧ c.2.1 = 0 ∧ c.2.2.1 = 0 ∧ c.2.2.2.1 = false ∧ c.2.2.2.2 = false ∧
      0 ∈ (useOf s 0 0 todM famMatrix (descsOf s todM famMatrix)).slots ∧ accOwner (afterRead s 0 0 todM famMatrix) 0 0 ≠ 0 ∧
      ∀ j ∈ (useOf s 0 0 todM famMatrix (descsOf s todM famMatrix)).slots, j = 0 ∨ accOwner (afterRead s 0 0 todM famMatrix) 0 j = 0 := by
  decide +kernel

/-- The state after a command that answers one. -/
def after (c : Instr) (s : State) : State := match exec c s with
  | .next t => t
  | _ => s
/-- The first core of die 0 has one operation, made from its TOD. -/
def withOp (t : Nat) (f : Op → Op) (s : State) : State := s.modCore 0 (fun c => { c with ops := [f (newOp s 0 0 t)] })
/-- The operation of tag 0 of that core. -/
def op0 (s : State) : Op := (opOf s 0 0).getD (newOp s 0 0 0)
/-- A TOD of an opcode alone, ready to issue. -/
def plain (opc body : Nat) : State := ready (todOf opc body []) []
/-- A MATMUL of one element has issued. -/
def issuedM : State := issuedState (readyM 0) 0 0 todM famMatrix (descsOf (readyM 0) todM famMatrix)
/-- A DRAIN of one tile. -/
def todR : Nat := todD 4 (fb 16 5 1 + fb 16 24 1 + fb 16 34 1 + fb 24 32 0x3F800000) [(2, 0)]
def readyR : State := (ready todR [tens 1 0 [1, 1]]).modCore 0 (fun c => c.setTags 0 2 (.mode .acc32))
/-- A kernel runs. -/
def kern : State := withOp (todOf 0x40 0 []) (fun o => { o with stage := .running }) ((plain 0x40 0).modCore 0 (fun c => { c with kernel := some ⟨0, 0, 0, 1, 0⟩ }))
/-- A message on its way to queue 0 of the first core, and one on its way to its channel 0. -/
def toQueue (b : NetBody) (s : State) : State := { s with net := [⟨true, (0, 1, 3), (0, 0, 0), 2, 9, b⟩] }
def toChan (b : NetBody) (s : State) : State := { s with net := [⟨false, (0, 0, 0), (0, 1, 2), 0, 0, b⟩] }
/-- Queue 0 of the first core: enabled, dynamic, of 4 KB. -/
def rqS (x : RxQ) (s : State) : State := (regs [(rRq 0 0 0, 3 + 12 * 2 ^ 16), (rRq 0 0 8, 0x8000)] s).setRq 0 0 x
/-- A granted message of that queue. -/
def rxM : RxMsg := ⟨0, 0, 64, 0, 1, 3, 5, 0, false, false, none, false⟩
/-- The first core has an open of channel 0 under way; a SEND on it, in its phase. -/
def opening : State := withOp 0x2A (fun o => { o with stage := .running }) (setChanState (plain 0x2A 0) 0 0 1)
def sending (ph : Nat) : State := withOp 0x28 (fun o => { o with stage := .running, aux := [0, 0, 0, 0, ph, 0, 1, 2, 5] })
  (regs [(rChan 0 0 0, 1 + 2 ^ 16 + 2 ^ 32)] (setChanState (plain 0x28 0) 0 0 2))
/-- Port 0 is UP and leads to package 9. -/
def linked : State := regs [(wenBase 0 + 8, 5), (wenPkgBase + 0x1008, 2 ^ 15)] up
/-- A bucket entry of two elements in a state. -/
def bkt (st op : Nat) : Nat := fb 0 0 0x400000 + fb 8 0 8 + fb 12 0 op + fb 14 0 1 + fb 16 0 0x500000 + fb 32 0 st
/-- Cinch is enabled with these buckets in a group of `r` packages, this one first and package 9 second; STEP_STATUS is `x`. -/
def cin (r x : Nat) (ents : List Nat) (s : State) : State :=
  let s := regs [(rCinch 0, 5), (rCinch 0x10, 0x200000), (rCinch 0x18, ents.length), (rCinch 0x20, 0x300000), (rCinch 0x38, x)] s
  let s := ents.zipIdx.foldl (fun s p => poke (0x200000 + 64 * p.2) 64 p.1 s) s
  poke 0x300000 128 (r + fb 4 0 1 + fb 64 0 0 + fb 66 0 9) s
/-- A request stands in the inbox. -/
def inboxOf (r : WReq) (s : State) : State := { s with wen := { s.wen with inbox := [(0, r)] } }
/-- A request of package 9. -/
def req9 (op : Nat) (data : List Byte) : WReq := ⟨3, 9, 0, 3, 5, op, 0, 0, 0, data⟩
/-- Bucket 0 is ACTIVE, its contribution two ones. -/
def active (fin : List (Nat × Nat)) (s : State) : State :=
  { s with cinch := { s.cinch with act := [⟨0, leBytes 8 0x3F8000003F800000, 7, fin, []⟩], launched := true } }
/-- Shadow is enabled, with `c` copies to or for package 9 and one region of 4 KB. -/
def shad (c : Nat) (s : State) : State :=
  poke 0x600000 32 (0x700000 + fb 8 0 0x702000 + fb 16 0 4096 + fb 24 0 2) (regs [(rShadow 0, 1 + 2 * (c - 1) + 2 ^ 16), (rShadow 8, 0x600000 + 2 ^ 56),
    (rShadow 0x10, 0x800000), (rShadow 0x18, 0x27000)] s)
/-- The trailer of a snapshot with one region of eight bytes. -/
def trailer (fail : Bool) (crc : Nat) : SnapTrailer :=
  { fail := fail, copy := 1, base := 1, attPrev := 0, attBase := 0, lossValid := false, loss := 0, mapId := 0, tsOpen := 0, digCount := 0, rngCores := 0
    regions := [(0x26000, 8, 2, 0, crc)] }
/-- A command of queue 0 and client 0, in a stage. -/
def hcmd (ent stage : Nat) : HCmd := ⟨0, 0, 0, ent, stage, 0, 0, 0, [], 0, 0, 0, 0⟩
def withCmds (cs : List HCmd) (ts : List HTask) (s : State) : State := { s with host := { s.host with cmds := cs, tasks := ts, nextCmd := 1 } }
/-- Client 0 is enabled, with tasks, at a priority, with one save slot, and core 0 in its set; client 1 with core 0 too; all of HBM is open. -/
def clients : State := regs [(clientBase 0, 3 + 4 * 1), (clientBase 0 + 8, 0), (clientBase 0 + 0x10, 1), (clientBase 1, 3 + 2 ^ 8), (clientBase 1 + 0x10, 1),
  (mcBase 0 + 0x1008, 2 ^ 16 * 0xFF), (mcBase 0 + 0x1010, 0xF), (rOpq 0 0 0, 0)] up
/-- Host queue 0 of client 0 is enabled, with rings of two entries. -/
def hostQ : State := regs [(rQ 0 0, 0x10000), (rQ 0 8, 0x20000), (rQ 0 0x10, 1 + 2 * 1 + 2 ^ 6 * 1 + 2 ^ 51 * 5)] up
/-- Bodies: TASK and OPQ_WRITE of one TOD, COPY of 64 bytes into HBM, CORE_CTL of core 0, ACCT of client 0. -/
def entTod (opc : Nat) : Nat := opc + fb 8 0 0x1000 + fb 16 0 1
def entCopy : Nat := 3 + fb 8 0 0x1000 + fb 16 0 0x40 + fb 24 0 64
def entCtl (a : Nat) : Nat := 4 + fb 10 0 a
/-- A MATMUL of INT8 ones that accumulates into 2³¹ - 1. -/
def todI : Nat := todD 1 (fb 16 0 3 + fb 16 2 1 + fb 16 24 1 + fb 16 34 1 + fb 24 0 1) [(0, 0), (1, 0)]
def readyI : State := (poke (spadA 0 + 0x2000) 1 1 (poke (spadA 0 + 0x1000) 1 1 (poke (spadA 0 + 0x3000) 4 0x3F800000 (ready todI [tens 1 12 [1, 1] + fb 8 0 0xFF0000003000, tens 2 12 [1, 1] + fb 8 0 0xFF0000003000])))).modCore 0 (fun c =>
  (c.setTile 0 2 [(0, ⟨0x7FFFFFFF, 0, 0, 0⟩)]).setTags 0 2 (.mode .int32))


/-! ## Hypotheses of the statements, met -/

/-- `Reached`, as a test. -/
def reachedB (s : State) (a : Agent) (off : Nat) : Bool :=
  !isVf a && reaches s a off && regThere s off && (match regDomain off with | some p => pdState s p.1 p.2 = 0 | none => true)
theorem reached_of {s : State} {a : Agent} {off : Nat} (h : reachedB s a off = true) : Reached s a off := by
  simp only [reachedB, Bool.and_eq_true, Bool.not_eq_true'] at h
  obtain ⟨⟨⟨h1, h2⟩, h3⟩, h4⟩ := h
  refine ⟨h1, h2, h3, fun p hp => ?_⟩
  rw [hp] at h4
  simpa using h4


theorem wit_front : (State.reset.pending = []) ∧ ({ up with pending := [.refclkLoss, .ppsEdge] } : State).pending = [.refclkLoss, .ppsEdge] := by
  decide +kernel
theorem wit_inv : Inv up ∧ ∃ t, step { up with pending := [.refclkLoss, .ppsEdge] } = .next t :=
  ⟨⟨by decide +kernel, by decide +kernel⟩, _, rfl⟩

/-- A register that is reached, and whether a rule discards a write of `v` to it. -/
def putsB (s : State) (a : Agent) (off : Nat) (v : Word) (gone : Bool) : Bool :=
  reachedB s a off && (match regFields off with
    | some fs => (discards (unhold (dropLatch s off) off) a off (s.rd off) (applyFields (withGaps 0 fs) (s.rd off) v).1).isSome == gone
    | none => false)
theorem puts_of {s : State} {a : Agent} {off : Nat} {v : Word} {gone : Bool} (h : putsB s a off v gone = true) :
    Reached s a off ∧ ∃ fs, regFields off = some fs ∧
      (discards (unhold (dropLatch s off) off) a off (s.rd off) (applyFields (withGaps 0 fs) (s.rd off) v).1).isSome = gone := by
  simp only [putsB, Bool.and_eq_true] at h
  refine ⟨reached_of h.1, ?_⟩
  cases hf : regFields off with
  | none => simp [hf] at h
  | some fs => exact ⟨fs, rfl, by simpa [hf] using h.2⟩
/-- The registers of the core and die rows, and of the hub rows, at the ends of their ranges. -/
def coreRegs : List Nat :=
  [rOpq 0 0 0x20, rOpq 508 3 0x20, rTagCfg 0, rTagCfg 508, slotBase 508 + 0x800, rChan 508 63 0, rRq 508 15 0, rHold 508, tackBase 7 + 0x40 * 511 + 0x18,
    rPlevel 7]
def hubRegs : List Nat :=
  [cinchBase, shadowBase, wenBase 0, wenBase 17, rQ 4095 0x18, rQ 4095 0x10, clientBase 64, awlBase 17, memGenBase, marginBase, glintBase + 0x10]
/-- Every die of the package is FULL. -/
def full : State := regs ((upto 8).map (fun d => (rCapDie d, 0x1B))) up
theorem wit_register_rows : ∀ off ∈ coreRegs ++ hubRegs, Reached full .mc off ∧ ∃ fs, regFields off = some fs ∧
    (discards (unhold (dropLatch full off) off) .mc off (full.rd off) (applyFields (withGaps 0 fs) (full.rd off) 0#64).1).isSome = false :=
  fun off h => puts_of (List.all_eq_true.mp (by decide +kernel : (coreRegs ++ hubRegs).all (fun o => putsB full .mc o 0#64 false) = true) off h)
/-- The tag window of a core with an enabled queue. -/
theorem wit_register_discarded : let s := regs [(rOpq 0 3 0, 1)] up
    Reached s .mc (rTagCfg 0) ∧ ∃ fs, regFields (rTagCfg 0) = some fs ∧
    (discards (unhold (dropLatch s (rTagCfg 0)) (rTagCfg 0)) .mc (rTagCfg 0) (s.rd (rTagCfg 0)) (applyFields (withGaps 0 fs) (s.rd (rTagCfg 0)) 5#64).1).isSome = true :=
  puts_of (by decide +kernel)

theorem wit_tag_stash_and_counter_writes :
    (let s := up;
      reachedB s .mc (rTagCfg 0) = true ∧ (upto 4).all (fun q => !qEn s 0 q) = true ∧ allSlots.all (fun x => x = 0 || (logicalOf s x).isNone || s.f (rTagCfg x) 0 8 ≠ fld 0#64 0 8) = true) ∧
    (let s := up;
      reachedB s .mc (rTagCfg 0) = true ∧ (upto 4).all (fun q => !qEn s 0 q) = true ∧ 1 ∈ allSlots ∧ (logicalOf s 1).isSome = true ∧ s.f (rTagCfg 1) 0 8 = fld 1#64 0 8) ∧
    (let s := regs [(rOpq 0 3 0, 1)] up;
      reachedB s .mc (rTagCfg 0) = true ∧ qEn s 0 3 = true) ∧
    (let s := up;
      reachedB s .mc (slotBase 0 + 0x800) = true ∧ s.fb (slotBase 0 + 0x800) 0 = false ∧ fld 1#64 0 1 = 1) ∧
    (let s := up;
      reachedB s .mc (clientBase 0) = true ∧ reachedB s .mc (clientBase 64) = true) ∧
    (let s := { up with now := 1000000000 };
      reachedB s .mc (glintBase + 0x10) = true ∧ s.now ≤ (1#32).toNat * 1000000000 ∧ (0#32).toNat * 1000000000 < s.now) ∧
    (let s := regs [(awlBase 0, 2 ^ 5)] up;
      reachedB s .mc (awlBase 0) = true ∧ pdState s 8 2 = 0 ∧ awlState s 0 = 1) :=
  ⟨by decide +kernel, by decide +kernel, by decide +kernel, by decide +kernel, by decide +kernel, by decide +kernel, by decide +kernel⟩
theorem wit_girth_traffic :
    (let s := regs [(rGirth 0 0, 1 + 2 ^ 8 * 16), (rGirth 1 0, 1 + 2 ^ 8 * 16)] up;
      gUp s 0 = true ∧ (s.gend 0).training = false ∧ gRetiring s 0 = false ∧ gRetiring s (farEnd 0) = false ∧ pdState s 0 (42 + gPort 0) = 0 ∧ (s.gend 0).replay = [] ∧ (s.gend 0).txq = [] ∧ gOfferOk (gLoc 0) ⟨0, 5, false, 1, false, List.replicate 16 7#8⟩ = true ∧ gRoute s (gLoc 0) 0 ⟨false, 1, false, 0⟩ = (0, ⟨false, 1, false, 0⟩) ∧ gShould s 0 0 ⟨false, 1, false, 0⟩ = false ∧ 0 < nth 0 (s.gend 0).cred 0 ∧ s.boot.featSet = true) ∧
    (let s := regs [(rGirth 31 0, 1 + 2 ^ 8 * 16)] up;
      gUp s 31 = true ∧ (s.gend 31).training = false ∧ gRetiring s 31 = false ∧ gRetiring s (farEnd 31) = false ∧ pdState s (31 / 4) (42 + gPort 31) = 0 ∧ (s.gend 31).replay = [] ∧ (s.gend 31).txq = [] ∧ gOfferOk (gLoc 31) ⟨3, 0, false, 7, false, List.replicate 112 0#8⟩ = true ∧ gRoute s (gLoc 31) 3 ⟨false, 7, false, 0⟩ = (31, ⟨false, 7, false, 2⟩) ∧ gShould s 31 3 ⟨false, 7, false, 2⟩ = false ∧ 0 < nth 0 (s.gend 31).cred 3) ∧
    (let s := (regs [(rGirth 0 0, 1 + 2 ^ 8 * 16), (rGirth 1 0, 1 + 2 ^ 8 * 16)] up).modGend 0 (fun x => { x with wire := [(gBytes ⟨0, 1, 1, 0, 0, 9, 0, 0, false⟩ (List.replicate 16 3#8), ⟨false, 0, false, 0⟩)] });
      gUp s 0 = true ∧ pdState s 0 (42 + gPort 0) = 0 ∧ (s.gend 0).held = [] ∧ (s.gend 0).wire = [(gBytes ⟨0, 1, 1, 0, 0, 9, 0, 0, false⟩ (List.replicate 16 3#8), ⟨false, 0, false, 0⟩)] ∧ gCrcOk (leBytes 128 (leNat (gBytes ⟨0, 1, 1, 0, 0, 9, 0, 0, false⟩ (List.replicate 16 3#8)))) = true ∧ (gHdrOf (leNat ((leBytes 128 (leNat (gBytes ⟨0, 1, 1, 0, 0, 9, 0, 0, false⟩ (List.replicate 16 3#8)))).take 8)) (leNat (((leBytes 128 (leNat (gBytes ⟨0, 1, 1, 0, 0, 9, 0, 0, false⟩ (List.replicate 16 3#8)))).drop 120).take 4))).seq = (s.gend 0).rxNext) ∧
    (let s := (regs [(rGirth 0 0, 1 + 2 ^ 8 * 16), (rGirth 1 0, 1 + 2 ^ 8 * 16)] up).modGend 0 (fun x => { x with wire := [(gBytes ⟨0, 1, 1, 0, 0, 9, 0, 0, false⟩ (List.replicate 16 3#8), ⟨false, 0, false, 0⟩)] });
      gUp s 0 = true ∧ pdState s 0 (42 + gPort 0) = 0 ∧ (s.gend 0).wire = [(gBytes ⟨0, 1, 1, 0, 0, 9, 0, 0, false⟩ (List.replicate 16 3#8), ⟨false, 0, false, 0⟩)] ∧ gCrcOk (leBytes 128 (leNat (gBytes ⟨0, 1, 1, 0, 0, 9, 0, 0, false⟩ (List.replicate 16 3#8)) ^^^ 2 ^ 1023)) = false) ∧
    (let s := (regs [(rGirth 0 0, 1 + 2 ^ 8 * 16), (rGirth 1 0, 1 + 2 ^ 8 * 16)] up).modGend 31 (fun x => { x with replay := [⟨3, ⟨0, 0, [], ⟨false, 1, false, 0⟩⟩, 0, 0, 0, false⟩] });
      (s.gend 31).replay.length = 1) ∧
    (let s := (regs [(rGirth 0 0, 1 + 2 ^ 8 * 16), (rGirth 1 0, 1 + 2 ^ 8 * 16)] up).modGend 0 (fun x => { x with replay := [⟨1023, ⟨2, 9, List.replicate 16 1#8, ⟨false, 1, false, 0⟩⟩, 7, 3, 31, true⟩] });
      gUp s 0 = true ∧ (s.gend 0).training = false ∧ gRetiring s 0 = false ∧ gRetiring s (farEnd 0) = false ∧ pdState s 0 (42 + gPort 0) = 0 ∧ (s.gend 0).replay.find? (fun r => r.due && r.resends < 32) = some ⟨1023, ⟨2, 9, List.replicate 16 1#8, ⟨false, 1, false, 0⟩⟩, 7, 3, 31, true⟩) ∧
    (let s := (regs [(rGirth 0 0, 1 + 2 ^ 8 * 16), (rGirth 1 0, 1 + 2 ^ 8 * 16)] up).modGend 0 (fun x => { x with wire := [(gBytes ⟨0, 1, 1, 0, 0, 9, 0, 0, false⟩ (List.replicate 16 3#8), ⟨false, 7, false, 0⟩)] });
      gUp s 0 = true ∧ pdState s 0 (42 + gPort 0) = 0 ∧ (s.gend 0).held = [] ∧ (s.gend 0).wire = [(gBytes ⟨0, 1, 1, 0, 0, 9, 0, 0, false⟩ (List.replicate 16 3#8), ⟨false, 7, false, 0⟩)] ∧ gCrcOk (leBytes 128 (leNat (gBytes ⟨0, 1, 1, 0, 0, 9, 0, 0, false⟩ (List.replicate 16 3#8)))) = true ∧ (gHdrOf (leNat ((leBytes 128 (leNat (gBytes ⟨0, 1, 1, 0, 0, 9, 0, 0, false⟩ (List.replicate 16 3#8)))).take 8)) (leNat (((leBytes 128 (leNat (gBytes ⟨0, 1, 1, 0, 0, 9, 0, 0, false⟩ (List.replicate 16 3#8)))).drop 120).take 4))).seq = (s.gend 0).rxNext ∧ (gRoute s (gLoc 0) 1 ⟨false, 7, false, 0⟩).1 = 1) :=
  ⟨by decide +kernel, by decide +kernel, by decide +kernel, by decide +kernel, by decide +kernel, by decide +kernel, by decide +kernel⟩
theorem wit_girth_link_recovery :
    (let s := (regs [(rGirth 0 0, 1 + 2 ^ 8 * 16), (rGirth 1 0, 1 + 2 ^ 8 * 16)] up).modGend 0 (fun x => { x with replay := [⟨3, ⟨0, 0, [], ⟨false, 1, false, 0⟩⟩, 0, 0, 32, false⟩] });
      (s.gend 0).replay.find? (fun r => 32 ≤ r.resends) = some ⟨3, ⟨0, 0, [], ⟨false, 1, false, 0⟩⟩, 0, 0, 32, false⟩ ∧ gUp s 0 = true) ∧
    (let s := up;
      gUp s 0 = false ∧ ([0, farEnd 0].all (fun x => 1 ≤ dieState s (x / 4) && (upto 16).any (fun g => !gRetired s x g)) = true) ∧ s.boot.featSet = true) ∧
    (let s := regs [(rGirth 0 0, 1 + 2 ^ 8 * 16), (rGirth 1 0, 1 + 2 ^ 8 * 16)] up;
      gUp s 0 = true ∧ gRetired s 0 15 = false ∧ (15, 65) ∉ (s.gend 0).fails) ∧
    (let s := (regs [(rGirth 0 0, 1 + 2 ^ 8 * 16), (rGirth 1 0, 1 + 2 ^ 8 * 16)] up).modGend 0 (fun x => { x with fails := [(15, 65)] });
      (s.gend 0).fails = [(15, 65)] ∧ gSpares s 0 15 < 2) ∧
    (let s := (regs [(rGirth 0 0, 1 + 2 ^ 8 * 16 + 2 ^ 63)] up).modGend 0 (fun x => { x with fails := [(15, 65)] });
      (s.gend 0).fails = [(15, 65)] ∧ 2 ≤ gSpares s 0 15 ∧ gActive s 0 = 15 + 1 ∧ 15 ≠ 0 ∧ 15 ≠ 11) ∧
    (let s := regs [(rGirth 0 0, 3)] up;
      s.fb (rGirth 0 0) 1 = true ∧ gDead s 0 = false ∧ gDead s (farEnd 0) = false ∧ (s.gend 0).replay = []) ∧
    ((1023 < 2 ^ 10 ∧ 3 < 2 ^ 2 ∧ 7 < 2 ^ 3 ∧ 255 < 2 ^ 8 ∧ 16383 < 2 ^ 14 ∧ 65535 < 2 ^ 16) ∧ (List.replicate 112 0#8 : List Byte).length ≤ 112) ∧
    (let s := (regs [(rGirth 0 0, 1 + 2 ^ 8 * 12 + 2 ^ 63)] up).modGend 0 (fun x => { x with fails := [(15, 65)] });
      (s.gend 0).fails = [(15, 65)] ∧ 2 ≤ gSpares s 0 15 ∧ gActive s 0 = 11 + 1) ∧
    (let s := (regs [(rGirth 0 0, 1 + 2 ^ 8 * 1 + 2 ^ 63)] up).modGend 0 (fun x => { x with fails := [(15, 65)] });
      (s.gend 0).fails = [(15, 65)] ∧ 2 ≤ gSpares s 0 15 ∧ gActive s 0 = 0 + 1) ∧
    (let s := (regs [(rGirth 0 0, 0xFFFF0002), (rGirth 1 0, 0xFFFF0002)] up).modGend 0 (fun x => { x with replay := [⟨3, ⟨0, 0, [], ⟨false, 1, false, 0⟩⟩, 0, 0, 0, false⟩] });
      s.fb (rGirth 0 0) 1 = true ∧ (gDead s 0 = true ∨ gDead s (farEnd 0) = true)) :=
  ⟨by decide +kernel, by decide +kernel, by decide +kernel, by decide +kernel, by decide +kernel, by decide +kernel, by decide +kernel, by decide +kernel, by decide +kernel, by decide +kernel⟩
theorem wit_package_resets :
    (let s := up;
      s.boot.resetReq = none) ∧
    (let s := poke 64 4 7 { up with boot := { up.boot with resetReq := some (2, 0) } };
      s.boot.resetReq = some (2, 0) ∧ s.stale = []) ∧
    (let s := up;
      diePresent s 1 = true ∧ s.fb rReset (16 + 1) = false ∧ s.boot.resetReq = none) ∧
    (let s := regs [(rReset, 2 ^ 17)] (poke (spadA 64) 1 1 up);
      diePresent s 1 = true ∧ s.fb rReset (16 + 1) = true ∧ dieState s 1 ≠ 5 ∧ lockHeldIn s 1 = false) ∧
    (let s := poke (hostA 0) 1 1 (poke 0 1 1 up);
      s.mem.length = 2) ∧
    (let s := { State.reset with boot := { State.reset.boot with powered := false } };
      s.boot.powered = false) ∧
    (let s := up;
      s.boot.perst = false ∧ s.boot.resetReq = none) ∧
    (let s := State.reset;
      s.boot.perst = true) ∧
    (let s := regs [(0x600, 128)] up;
      s.boot.perst = false ∧ s.fb 0x600 7 = true) ∧
    (let s := { up with boot := { up.boot with resetReq := some (3, 7) } };
      s.boot.resetReq = some (3, 7) ∧ s.boot.perst = false ∧ s.boot.powered = true) ∧
    (let s := up;
      Agent.mc ≠ .client 0 ∧ reachedB s .mc rReset = true) :=
  ⟨by decide +kernel, by decide +kernel, by decide +kernel, by decide +kernel, by decide +kernel, by decide +kernel, by decide +kernel, by decide +kernel, by decide +kernel, by decide +kernel, by decide +kernel⟩
theorem wit_firmware_images_and_pcie :
    (let s := up;
      1 ≠ s.f rBoot 0 1) ∧
    (let s := State.reset;
      s.boot.perst = true ∧ s.fb 0x600 7 = false) ∧
    (let s := up;
      0 = s.f rBoot 0 1) :=
  ⟨by decide +kernel, by decide +kernel, by decide +kernel⟩
theorem wit_dies_come_up :
    (let s := regs [(rCapDie 7, 5)] up;
      diePresent s 7 = true ∧ s.boot.featSet = true ∧ dieState s 7 = 5 ∧ 7 = 224 / 32 ∧ coreBuilt s 255 = true ∧ offline s 255 = false) ∧
    (let s := regs [(rCapDie 7, 1)] up;
      diePresent s 7 = true ∧ s.boot.featSet = true ∧ dieState s 7 = 1) ∧
    (let s := regs [(rCapDie 7, 2)] up;
      dieState s 7 = 2 ∧ s.fb (rCapDie 7) 4 = false ∧ s.fb 0x600 3 = false ∧ isSlot 508 = true ∧ 508 / 64 = 7) ∧
    (let s := (regs [(rCapDie 7, 5 + 2 ^ 3), (rSpareMap 7, 2 ^ 8 * 60)] up);
      diePresent s 7 = true ∧ dieState s 7 = 5 ∧ (armSpare s 7 (testFailed s 7 [448])).isSome = true) ∧
    (let s := (regs [(rCapDie 7, 1)] up);
      dieState s 7 = 1 ∧ armSpare s 7 (testFailed s 7 [448, spareSlot 7]) = none) ∧
    (let s := regs [(rCapDie 7, 2), (0x600, 8)] up;
      dieState s 7 = 2 ∧ s.fb (rCapDie 7) 4 = false ∧ s.fb 0x600 3 = true) ∧
    (let s := regs [(rCapDie 7, 2 + 2 ^ 3), (rSpareMap 7, 2 ^ 8 * 60)] up;
      dieState s 7 = 2 ∧ s.fb (rCapDie 7) 4 = false ∧ (armSpare s 7 (testFailed s 7 [448])).isSome = true) :=
  ⟨by decide +kernel, by decide +kernel, by decide +kernel, by decide +kernel, by decide +kernel, by decide +kernel, by decide +kernel⟩
theorem wit_lanterns_and_heartbeat :
    (let s := regs [(0x600, 128)] up;
      s.boot.powered = true ∧ s.boot.checked = true ∧ s.boot.ever = true ∧ s.boot.featSet = true ∧ s.fb 0x600 7 = true ∧ lanternState s = 0 ∧ s.f 0x510 0 32 ≠ (1#32).toNat) ∧
    (let s := up;
      Agent.firmware ≠ .mc ∧ Agent.client 0 ≠ .mc) ∧
    (let s := up;
      lanternState s = 0 ∧ s.boot.heard = true) ∧
    (let s := { up with boot := { up.boot with heard := false } };
      s.boot.heard = false ∧ s.boot.powered = true ∧ s.boot.checked = true ∧ lanternState s = 0) ∧
    (let s := regs [(0x500, 1 + 8 * 2)] ({ up with boot := { up.boot with heard := false } } : State);
      s.boot.heard = false ∧ s.boot.powered = true ∧ lanternState s = 1 ∧ s.f 0x500 3 2 < 3) ∧
    (let s := { up with boot := { up.boot with beats := [0, 1] } };
      1 ∉ s.boot.gone) ∧
    (let s := regs [(0x500, 2)] up;
      lanternState s = 2) ∧
    (let s := regs [(rCapDie 7, 0)] { up with boot := { up.boot with ever := false, heard := false, featSet := false } };
      lanternState s = 0 ∧ s.f 0x510 0 32 ≠ (7#32).toNat ∧ diePresent s 7 = true ∧ dieState s 7 = 0) ∧
    (let s := regs ((upto 8).map (fun d => (rGirth (4 * d + 2) 0, 1))) { State.reset with boot := { up.boot with featSet := false } };
      s.boot.ever = true ∧ s.boot.featSet = false ∧ (upto 8).all (fun d => !diePresent s d || gUp s (4 * d + 2)) = true) ∧
    (let s := regs [(0x500, 1)] up;
      lanternState s = 1 ∧ s.f 0x510 0 32 ≠ (7#32).toNat ∧ s.f 0x510 0 32 = (0#32).toNat) ∧
    (let s := regs [(0x500, 1 + 8 * 3)] ({ up with boot := { up.boot with heard := false } } : State);
      s.boot.heard = false ∧ s.boot.powered = true ∧ lanternState s = 1 ∧ s.f 0x500 3 2 = 3) ∧
    (let s := { up with boot := { up.boot with beats := [0], gone := [1] } };
      s.boot.beats = [0] ∧ s.boot.gone = [1]) :=
  ⟨by decide +kernel, by decide +kernel, by decide +kernel, by decide +kernel, by decide +kernel, by decide +kernel, by decide +kernel, by decide +kernel, by decide +kernel, by decide +kernel, by decide +kernel, by decide +kernel⟩
theorem wit_fault_latches :
    (let s := up.raise .memProtect 0 77;
      isBlock 0 0 = true ∧ nextRaise s 0 0 = some ⟨0, 0, FaultSrc.memProtect.at.2, 77, s.evNo, []⟩ ∧ FaultSrc.memProtect.at.2 < 32 ∧ FaultSrc.memProtect.at.2 ≠ 0 ∧ fltValid s 0 0 = false ∧ fltReact s 0 0 FaultSrc.memProtect.at.2 ≤ 1 ∧ fltErr s 0 0 FaultSrc.memProtect.at.2 = false ∧ fltHost s 0 0 FaultSrc.memProtect.at.2 = false) ∧
    (let s := regs [(fltBase 0 0 + 8, 2 ^ 24)] (up.raise .memProtect 0 77);
      isBlock 0 0 = true ∧ (nextRaise s 0 0).isSome = true ∧ fltValid s 0 0 = true ∧ fltReact s 0 0 FaultSrc.memProtect.at.2 ≤ 1 ∧ fltErr s 0 0 FaultSrc.memProtect.at.2 = false) ∧
    (let s := regs [(fltBase 0 0 + 8, 2 ^ 24)] up;
      isBlock 0 0 = true ∧ reachedB s (.client 0) (fltBase 0 0 + 8) = true ∧ fltValid s 0 0 = true ∧ fltPending s 0 0 = 0) ∧
    (let s := regs [(fltBase 0 0, 0xF00000007)] up;
      isBlock 0 0 = true ∧ reachedB s (.client 0) (fltBase 0 0) = true) ∧
    (let s := up;
      (s.hart (ownerOf s 0 0)).handling = none ∧ s.boot.resetReq = none) ∧
    (let s := ({ up with boot := up.boot }).raise .girthLaneSpared 0 77;
      (upto 8).all (fun g => !ringTakes s g 1 none) = true ∧ (nextRaise s 7 0).isNone = true ∧ isBlock 3 0 = true ∧ (nextRaise s 3 0).isSome = true) ∧
    (let s := up;
      isBlock 12 0 = true ∧ 1 < 2 ∧ 2 ^ 64 - 1 < 2 ^ 64) ∧
    (let s := regs [(fltBase 0 508, 2 ^ 63 + 2 ^ 31), (fltBase 0 508 + 8, 2 ^ 24)] (regs [(rCapDie 7, 0x1B)] up);
      isBlock 0 508 = true ∧ reachedB s (.client 0) (fltBase 0 508 + 8) = true ∧ fltValid s 0 508 = true ∧ lowBit (fltPending s 0 508) = some 31 ∧ fltReact s 0 508 31 ≤ 1) :=
  ⟨by decide +kernel, by decide +kernel, by decide +kernel, by decide +kernel, by decide +kernel, by decide +kernel, by decide +kernel, by decide +kernel⟩
theorem wit_supply_events :
    (let s := up;
      s.boot.psuHold = false ∧ 65535 < 2 ^ 16) ∧
    (let s := up;
      35999 < 36000 ∧ s.boot.uv = false) ∧
    (let s := { up with boot := { up.boot with uv := true } };
      36500 ≤ 36500 ∧ s.boot.uv = true ∧ 44000 < 44001) ∧
    (let s := { up with boot := { up.boot with psuHold := true } };
      s.boot.psuHold = true ∧ 65535 < 2 ^ 16) :=
  ⟨by decide +kernel, by decide +kernel, by decide +kernel, by decide +kernel⟩
theorem wit_regulators_and_domains :
    (let s := up.modDie 0 (fun x => { x with rsi := [⟨0, 3, none, true⟩] });
      (takeRsi s 0 0).isSome = true ∧ (takeRsi s 0 0).all (fun p => p.1.dom.isNone) = true) ∧
    (let s := up.modDie 0 (fun x => { x with rsi := [⟨3, 2, some 7, true⟩] });
      (takeRsi s 0 3).isSome = true ∧ (takeRsi s 0 3).all (fun p => p.1.dom = some 7) = true) ∧
    (let s := regs [(rPd 8 0, 8)] up;
      domOn s 8 0 = true ∧ s.fb (rPd 8 0) 3 = true ∧ s.fb (rPd 8 0) 5 = false ∧ domIdle s 8 0 = true) ∧
    (let s := regs [(rPd 1 45, 8)] up;
      domOn s 1 45 = true ∧ s.fb (rPd 1 45) 3 = true ∧ s.fb (rPd 1 45) 5 = false ∧ domIdle s 1 45 = true) ∧
    (let s := up;
      ∀ r ∈ (s.die 7).rsi, r.rail ≠ 7) ∧
    (let s := up;
      (upto 8).all (fun g => !ringTakes s g 2 none) = true) :=
  ⟨by decide +kernel, by decide +kernel, by decide +kernel, by decide +kernel, by decide +kernel, by decide +kernel⟩
theorem wit_power_levels_and_energy :
    (let s := (regs [(rPlevel 0, 2 ^ 8 * 3)] up).modDie 0 (fun x => { x with freqTo := some 3 });
      (s.die 0).freqTo = some 3 ∧ s.f (rPlevel 0) 8 3 = 3) ∧
    (let s := regs [(rPwrStatus, 2 ^ 32 * 5)] up;
      s.f powerBase 0 12 < 4095 ∧ 0 < s.f rPwrStatus 32 3) ∧
    (let s := regs [(dieBase 0 + 0x2008, 0x7F), (rTherm 0 |>.1, 2 ^ (rTherm 0).2 * 2), (rTherm 8 |>.1, 2 ^ (rTherm 8).2 * 2)] up;
      0 < thermCap s 0 ∧ (upto 8).find? (fun i => ((s.f (powerBase + 0x18) 0 8 : Nat) : Int) ≤ nth 0 (temps s 0) i) = some 0) ∧
    (let s := regs [(dieBase 0 + 0x2008, 0)] up;
      ∀ x ∈ temps s 0, x < ((s.f (powerBase + 0x18) 0 8 : Nat) : Int) - ((s.f (powerBase + 0x18) 8 4 : Nat) : Int)) ∧
    (([104, -40] : List Int).all (fun x => x < 105) = true) ∧
    (let s := up.modDie 7 (fun x => { x with failed := [60] });
      isSlot 508 = true ∧ spareAvail s (508 / 64) = false) ∧
    (let s := up.modCore 508 (fun c => { c with resets := [0] });
      isSlot 508 = true ∧ (s.core 508).resets ≠ []) ∧
    (let s := up;
      112 ≤ nth 0 ([0, 0, 0, 0, 0, 0, 0, 112] : List Int) 7 ∧ 105 ≤ nth 0 ([0, 0, 0, 105] : List Int) 3 ∧ nth 0 (temps s 7) 7 < 105 ∧ nth 0 (temps s 8) 3 < 105 ∧ s.boot.tripped = false) ∧
    (let s := up;
      ([104, 0] : List Int).all (fun x => x < 105) = true) ∧
    (let s := (regs [(powerBase, 100), (rPwrStatus, 2 ^ 32 * 5)] ({ up with boot := { up.boot with lowMs := 9 } } : State));
      94 ≤ s.f powerBase 0 12 ∧ 94 * 100 < s.f powerBase 0 12 * 95 ∧ s.boot.lowMs = 9) ∧
    (let s := (regs [(powerBase, 100)] ({ up with boot := { up.boot with lowMs := 8 } } : State));
      95 ≤ s.f powerBase 0 12 ∧ ¬ 95 * 100 < s.f powerBase 0 12 * 95 ∧ s.boot.lowMs ≠ 9) ∧
    (let s := up;
      8 ≤ 8 ∧ 5 ≤ 5) :=
  ⟨by decide +kernel, by decide +kernel, by decide +kernel, by decide +kernel, by decide +kernel, by decide +kernel, by decide +kernel, by decide +kernel, by decide +kernel, by decide +kernel, by decide +kernel, by decide +kernel⟩
theorem wit_wenlyn_flits :
    (let s := (regs [(wenBase 0 + 8, 5)] up).modWport 0 (fun x => { x with txq := [(1, [(⟨1, true, true, 2, 0, 9, 3, 7, 15, List.replicate 16 5#8⟩ : WFlit)])], cred := [0, 3, 0, 0, 0, 0, 0, 0] });
      linkLive s 0 = true ∧ (match txPick s 0 with | .fresh v => v | _ => 9) = 1 ∧ look [] (s.wport 0).txq 1 = [(⟨1, true, true, 2, 0, 9, 3, 7, 15, List.replicate 16 5#8⟩ : WFlit)] ∧ (s.wport 0).inj = 0) ∧
    (let s := regs [(wenBase 17 + 8, 5)] up;
      linkLive s 17 = true ∧ (flitBytes (⟨0, 1, true, 5, 1, true, true, 0, false, true, 2, 9, 15, 0, 1, 0, 0, 0⟩ : WHdr) [] 0 true).length = 256 ∧ flitCrcOk (flitBytes (⟨0, 1, true, 5, 1, true, true, 0, false, true, 2, 9, 15, 0, 1, 0, 0, 0⟩ : WHdr) [] 0 true) = false) ∧
    (let s := regs [(wenBase 0 + 8, 5)] up;
      linkLive s 0 = true ∧ (flitBytes (⟨0, 1, true, 5, 1, true, true, 0, false, true, 2, 9, 15, 0, 1, 0, 0, 0⟩ : WHdr) [] 0 false).length = 256 ∧ flitCrcOk (flitBytes (⟨0, 1, true, 5, 1, true, true, 0, false, true, 2, 9, 15, 0, 1, 0, 0, 0⟩ : WHdr) [] 0 false) = true ∧ (let h := hdrOf (leNat ((flitBytes (⟨0, 1, true, 5, 1, true, true, 0, false, true, 2, 9, 15, 0, 1, 0, 0, 0⟩ : WHdr) [] 0 false).take 8)) (leNat (((flitBytes (⟨0, 1, true, 5, 1, true, true, 0, false, true, 2, 9, 15, 0, 1, 0, 0, 0⟩ : WHdr) [] 0 false).drop 8).take 8)); h.typ = 1 ∧ h.len8 = 0 ∧ h.resv = 0 ∧ h.ackValid = true ∧ h.credValid = true)) ∧
    (let s := regs [(wenBase 0 + 8, 5)] up;
      linkLive s 0 = true ∧ (flitBytes (⟨0, 1, false, 0, 0, true, true, 29, false, false, 0, 0, 15, 0, 1, 0, 0, 0⟩ : WHdr) (List.replicate 232 1#8) 0 false).length = 256 ∧ flitCrcOk (flitBytes (⟨0, 1, false, 0, 0, true, true, 29, false, false, 0, 0, 15, 0, 1, 0, 0, 0⟩ : WHdr) (List.replicate 232 1#8) 0 false) = true ∧ (let h := hdrOf (leNat ((flitBytes (⟨0, 1, false, 0, 0, true, true, 29, false, false, 0, 0, 15, 0, 1, 0, 0, 0⟩ : WHdr) (List.replicate 232 1#8) 0 false).take 8)) (leNat (((flitBytes (⟨0, 1, false, 0, 0, true, true, 29, false, false, 0, 0, 15, 0, 1, 0, 0, 0⟩ : WHdr) (List.replicate 232 1#8) 0 false).drop 8).take 8)); h.typ = 0 ∧ 1 ≤ h.len8 ∧ h.len8 ≤ 29 ∧ h.resv = 0 ∧ h.ackValid = false ∧ h.credValid = false)) ∧
    (let s := (regs [(wenBase 0 + 8, 5)] up).modWport 0 (fun x => { x with replay := [⟨4, (⟨1, true, true, 2, 0, 9, 3, 7, 15, List.replicate 16 5#8⟩ : WFlit), 0, false, none⟩], owe := true });
      linkLive s 0 = true ∧ (s.wport 0).replay.length = 1 ∧ (s.wport 0).owe = true ∧ (s.wport 0).inj = 0) ∧
    (let s := (regs [(wenBase 17 + 8, 5)] up).modWport 17 (fun x => { x with replay := [⟨4, (⟨1, true, true, 2, 0, 9, 3, 7, 15, List.replicate 16 5#8⟩ : WFlit), 2, true, none⟩], cred := [0, 3] });
      linkLive s 17 = true ∧ (match txPick s 17 with | .resend e => e.seq | _ => 9) = 4 ∧ (s.wport 17).inj = 0) ∧
    (let s := (regs [(wenBase 0 + 8, 5)] up).modWport 0 (fun x => { x with owe := true });
      linkLive s 0 = true ∧ (match txPick s 0 with | .null => 1 | _ => 0) = 1) ∧
    (let s := regs [(wenBase 0 + 8, 5)] up;
      linkLive s 0 = true ∧ (match txPick s 0 with | .none => 1 | _ => 0) = 1) ∧
    (let s := regs [(wenBase 0 + 8, 5)] up;
      linkLive s 0 = true ∧ (flitBytes (⟨0, 1, false, 0, 1, true, true, 1, false, false, 2, 9, 15, 0, 1, 0, 0, 0⟩ : WHdr) [] 0 false).length = 256 ∧ flitCrcOk (flitBytes (⟨0, 1, false, 0, 1, true, true, 1, false, false, 2, 9, 15, 0, 1, 0, 0, 0⟩ : WHdr) [] 0 false) = true ∧ (let h := hdrOf (leNat ((flitBytes (⟨0, 1, false, 0, 1, true, true, 1, false, false, 2, 9, 15, 0, 1, 0, 0, 0⟩ : WHdr) [] 0 false).take 8)) (leNat (((flitBytes (⟨0, 1, false, 0, 1, true, true, 1, false, false, 2, 9, 15, 0, 1, 0, 0, 0⟩ : WHdr) [] 0 false).drop 8).take 8)); h.typ ≠ 0 ∧ headRule h ≠ 0)) ∧
    (let s := regs [(wenBase 0 + 8, 5)] up;
      let h := (⟨0, 1, true, 5, 1, true, true, 0, false, true, 2, 9, 15, 0, 1, 0, 0, 0⟩ : WHdr); 2047 ≤ subMod 12 (({ h with seq := 2047 } : WHdr).seq) (s.wport 0).rxNext ∧ subMod 12 (({ h with seq := 2046 } : WHdr).seq) (s.wport 0).rxNext < 2047 ∧ 1 ≤ subMod 12 2046 (s.wport 0).rxNext ∧ (s.wport 0).held = []) :=
  ⟨by decide +kernel, by decide +kernel, by decide +kernel, by decide +kernel, by decide +kernel, by decide +kernel, by decide +kernel, by decide +kernel, by decide +kernel, by decide +kernel⟩
theorem wit_wenlyn_link_loss :
    (let s := (regs [(wenBase 17 + 8, 5)] up).modWport 17 (fun x => { x with replay := [⟨4, (⟨1, true, true, 2, 0, 9, 3, 7, 15, List.replicate 16 5#8⟩ : WFlit), 255, false, none⟩] });
      17 < 18 ∧ portState s 17 = 5 ∧ s.fb (wenBase 17) 13 = false ∧ s.wen.outs = [] ∧ (s.wport 17).replay.any (fun e => portF s 17 0x28 48 8 ≤ e.resends) = true) ∧
    (let s := { ((regs [(wenBase 0 + 8, 5), (wenBase 0 + 0x28, 1 + 2 ^ 56)] up).modWport 0 (fun x => { x with crcT := [9, 8] })) with now := 10 };
      0 < 18 ∧ portState s 0 = 5 ∧ s.fb (wenBase 0) 13 = false ∧ s.wen.outs = [] ∧ portF s 0 0x28 0 16 < ((s.wport 0).crcT.filter (fun t => s.now - t ≤ errWindowNs s 0)).length) ∧
    (let s := (regs [(wenBase 0, 16), (wenBase 0 + 8, 5)] up).modWport 0 (fun x => { x with txq := [(7, [(⟨1, true, true, 2, 0, 9, 3, 7, 15, List.replicate 16 5#8⟩ : WFlit)])] });
      0 < 18 ∧ portState s 0 = 5 ∧ s.fb (wenBase 0) 13 = false ∧ s.wen.outs = [] ∧ look [] (s.wport 0).txq 7 ≠ [] ∧ nth 0 (s.wport 0).cred 7 = 0 ∧ s.fb (wenBase 0) 4 = true) ∧
    (let s := regs [(wenBase 0 + 8, 5), (wenBase 0 + 0x10, 0x1FF)] up;
      0 < 18 ∧ portState s 0 = 5 ∧ s.fb (wenBase 0) 13 = false ∧ s.wen.outs = [] ∧ awlIn s 0 1 = false ∧ s.fb (wenBase 0 + 0x10) 0 = true ∧ s.fb (wenBase 0 + 0x10) 8 = true) ∧
    (let s := regs [(wenBase 0 + 8, 5), (wenBase 0 + 0x10, 0x1FF + 2 ^ 22)] up;
      linkLive s 0 = true ∧ laneInUse s 0 7 = true ∧ spareFree s 0 = true ∧ (s.wport 0).swap = none ∧ s.fb (wenBase 0 + 0x10) 7 = true) ∧
    (let s := regs [(wenBase 0 + 8, 5), (wenBase 0 + 0x10, 0xFF)] up;
      0 < 18 ∧ portState s 0 = 5 ∧ s.fb (wenBase 0) 13 = false ∧ s.wen.outs = [] ∧ awlIn s 0 1 = false ∧ laneInUse s 0 7 = true ∧ spareFree s 0 = false) ∧
    (let s := { ((regs [(wenBase 0 + 8, 5), (wenBase 0 + 0x28, 2 ^ 16 + 2 ^ 56)] up).modWport 0 (fun x => { x with malT := [9, 8] })) with now := 10 };
      (let n := fun l => (l.filter (fun t => s.now - t ≤ errWindowNs s 0)).length; n (s.wport 0).crcT ≤ portF s 0 0x28 0 16 ∧ portF s 0 0x28 16 16 < n (s.wport 0).malT)) ∧
    (let s := (regs [(wenBase 0 + 8, 5)] up).modWport 0 (fun x => { x with txq := [(7, [(⟨1, true, true, 2, 0, 9, 3, 7, 15, List.replicate 16 5#8⟩ : WFlit)])] });
      portUp s 0 = true ∧ look [] (s.wport 0).txq 7 ≠ [] ∧ nth 0 (s.wport 0).cred 7 = 0 ∧ s.fb (wenBase 0) 4 = false) ∧
    (let s := regs [(wenBase 17 + 8, 4)] up;
      portState s 17 ≠ 5) ∧
    (let s := (regs [(wenBase 0 + 8, 5), (wenBase 0 + 0x10, 0x1FF + 2 ^ 22)] up).modWport 0 (fun x => { x with swap := some 3 });
      linkLive s 0 = true ∧ laneInUse s 0 7 = true ∧ spareFree s 0 = true ∧ (s.wport 0).swap = some 3) :=
  ⟨by decide +kernel, by decide +kernel, by decide +kernel, by decide +kernel, by decide +kernel, by decide +kernel, by decide +kernel, by decide +kernel, by decide +kernel, by decide +kernel⟩
theorem wit_wenlyn_bring_up :
    (let s := regs [(wenBase 0 + 8, 5)] up;
      portUp s 0 = true ∧ 9 ∉ peers s) ∧
    (let s := poke 0x300042 2 9 (poke 0x300004 1 1 (poke 0x300000 2 2 (ciS (regs [(wenBase 0 + 8, 5), (rCinch 0x20, 0x300000)] up))));
      portUp s 0 = true ∧ 9 ∈ peers (s.raise .partnerFault 0 (packBits [(9, 0, 12)]))) ∧
    (let s := regs [(wenBase 17 + 8, 2)] up;
      portState s 17 = 2 ∧ (s.wport 17).paused = false ∧ 8 ≤ lanesIn 511 ∧ 511 < 512 ∧ awlIn s 17 1 = false) ∧
    (let s := regs [(wenBase 0 + 8, 1)] up;
      portState s 0 = 1 ∧ pdState s 8 5 = 0) ∧
    (let s := regs [(wenBase 17, 2), (wenBase 17 + 8, 2), (awlBase 17, 2 ^ 5 + 1)] up;
      portState s 17 = 2 ∧ (s.wport 17).paused = false ∧ 8 ≤ lanesIn 255 ∧ awlIn s 17 1 = true) :=
  ⟨by decide +kernel, by decide +kernel, by decide +kernel, by decide +kernel, by decide +kernel⟩
theorem wit_wenlyn_authentication :
    (let s := regs [(wenBase 0 + 8, 3)] up;
      linkLive s 0 = true ∧ portState s 0 = 3 ∧ helloOk s 9 17 1 [16, 1, 2, 3, 4, 5, 6, 7] 2000 [0, 1, 2, 3, 4, 5, 6, 8] = true ∧ helloOk s 0 17 1 [] 2000 [] = false) ∧
    (let s := regs [(wenBase 0 + 8, 4)] up;
      linkLive s 0 = true ∧ portState s 0 ≠ 3) ∧
    (let s := (regs [(wenBase 0 + 8, 4)] up).modWport 0 (fun x => { x with spdmReq := some 0x84 });
      linkLive s 0 = true ∧ portState s 0 = 4 ∧ (s.wport 0).spdmReq = some 0x84 ∧ msgNat ([0#8, 4#8, 0#8, 0#8, 0#8, 1#8, 0#8, 19#8] : List Byte) 1 1 = 0x04 ∧ msgNat ([0#8, 4#8, 0#8, 0#8, 0#8, 1#8, 0#8, 19#8] : List Byte) 5 1 = 1 ∧ msgNat ([0#8, 4#8, 0#8, 0#8, 0#8, 1#8, 0#8, 19#8] : List Byte) 7 1 = 0x13 ∧ msgNat ([] : List Byte) 1 1 ≠ 0x04) ∧
    (let s := (regs [(wenBase 0 + 8, 4)] up).modWport 0 (fun x => { x with spdmReq := some 0xE1 });
      linkLive s 0 = true ∧ portState s 0 = 4 ∧ (s.wport 0).spdmReq = some 0xE1 ∧ (let m : List Byte := [0#8, 97#8, 0#8, 0#8, 0#8, 0#8, 0#8, 0#8, 22#8]; msgNat m 1 1 = 0x61 ∧ bitN (msgNat m 8 4) 1 = true ∧ bitN (msgNat m 8 4) 2 = true ∧ bitsN (msgNat m 8 4) 3 2 = 2)) ∧
    (let s := (regs [(wenBase 0 + 8, 4)] up).modWport 0 (fun x => { x with spdmReq := some 0xE3 });
      linkLive s 0 = true ∧ portState s 0 = 4 ∧ (s.wport 0).spdmReq = some 0xE3 ∧ (let m : List Byte := [0#8, 99#8, 0#8, 0#8, 0#8, 0#8, 0#8, 0#8, 0#8, 0#8, 0#8, 0#8, 128#8, 0#8, 0#8, 0#8, 2#8]; msgNat m 1 1 = 0x63 ∧ msgNat m 12 4 = 0x80 ∧ msgNat m 16 4 = 2)) ∧
    (let s := (regs [(wenBase 0 + 8, 4)] up).modWport 0 (fun x => { x with spdmReq := some 0x81 });
      linkLive s 0 = true ∧ portState s 0 = 4 ∧ (s.wport 0).spdmReq = some 0x81 ∧ (let m : List Byte := [0#8, 1#8, 0#8, 1#8]; msgNat m 1 1 = 1 ∧ bitN (msgNat m 3 1) 0 = true)) ∧
    (let s := (regs [(wenBase 0 + 8, 4)] up).modWport 0 (fun x => { x with spdmReq := some 0x82 });
      linkLive s 0 = true ∧ portState s 0 = 4 ∧ (s.wport 0).spdmReq = some 0x82 ∧ (let m : List Byte := [0#8, 2#8]; msgNat m 1 1 = 2 ∧ msgNat m 6 2 = 0) ∧ msgNat ([0#8, 2#8, 0#8, 0#8, 0#8, 0#8, 9#8] : List Byte) 6 2 ≠ 0) ∧
    (let s := (regs [(wenBase 0 + 8, 4)] up).modWport 0 (fun x => { x with spdmReq := some 0x83 });
      linkLive s 0 = true ∧ portState s 0 = 4 ∧ (s.wport 0).spdmReq = some 0x83 ∧ spdmRoot s + 1 ≠ spdmRoot s) ∧
    (let s := (regs [(wenBase 0 + 8, 5)] up).modWport 0 (fun x => { x with spdmReq := some 0xE0 });
      linkLive s 0 = true ∧ (s.wport 0).spdmReq = some 0xE0 ∧ msgNat ([0#8, 96#8, 0#8, 0#8, 0#8, 0#8, 0#8, 0#8, 0#8, 7#8] : List Byte) 1 1 = 0x60) :=
  ⟨by decide +kernel, by decide +kernel, by decide +kernel, by decide +kernel, by decide +kernel, by decide +kernel, by decide +kernel, by decide +kernel, by decide +kernel⟩
theorem wit_wenlyn_hub_requests :
    (let s := (let u := regs [(wenPkgBase + 0x2000, 9 + 2 ^ 12 * 9 + 2 ^ 32), (wenPkgBase + 0x2008, 1), (wenPkgBase + 0x2800, 0), (wenPkgBase + 0x2808, 2 ^ 12 * 0xFF), (wenPkgBase + 0x2810, 0xF)] (up); { u with wen := { u.wen with inbox := [(0, (⟨1, 9, 0, 3, 5, 1, 0, 0, 0, []⟩ : WReq))] } });
      (inTake s 0 1).any (fun x => let p := x.1; let r := x.2.1; let u := x.2.2; p = 0 && remoteWin u r.src 1 (r.arg % 2 ^ 48) (readLen r) && !poisoned u (r.arg % 2 ^ 48) (readLen r)) = true) ∧
    (let s := (let u := regs [(wenPkgBase + 0x2000, 9 + 2 ^ 12 * 9 + 2 ^ 32), (wenPkgBase + 0x2008, 1), (wenPkgBase + 0x2800, 0), (wenPkgBase + 0x2808, 2 ^ 12 * 0xFF), (wenPkgBase + 0x2810, 0xF)] (up); { u with wen := { u.wen with inbox := [(0, (⟨1, 9, 0, 3, 5, 2, 0, 0, 1048575, [7#8]⟩ : WReq))] } });
      (inTake s 0 2).any (fun x => let p := x.1; let r := x.2.1; let u := x.2.2; p = 0 && 0 < r.data.length && r.data.length ≤ 4096 && remoteWin u r.src 2 (r.arg % 2 ^ 48) r.data.length && !(hbmWrite u hintNormal (r.arg % 2 ^ 48) r.data).memBad) = true) ∧
    (let s := (let u := regs [(wenPkgBase + 0x2000, 9 + 2 ^ 12 * 9 + 2 ^ 32), (wenPkgBase + 0x2008, 1), (wenPkgBase + 0x2800, 0), (wenPkgBase + 0x2808, 2 ^ 12 * 0xFF), (wenPkgBase + 0x2810, 0xF)] (up); { u with wen := { u.wen with inbox := [(0, (⟨1, 9, 0, 3, 5, 3, 6, 0, 64, [7#8, 0#8, 0#8, 0#8]⟩ : WReq))] } });
      (inTake s 0 3).any (fun x => let p := x.1; let r := x.2.1; let u := x.2.2; p = 0 && r.flags % 16 < 7 && r.data.length = 4 && r.arg % 2 ^ 48 % atWidth (r.flags % 16) = 0 && remoteWin u r.src 3 (r.arg % 2 ^ 48) (atWidth (r.flags % 16)) && !poisoned u (r.arg % 2 ^ 48) (atWidth (r.flags % 16))) = true) ∧
    (let s := (let u := regs [(wenPkgBase + 0x2000, 9 + 2 ^ 12 * 9 + 2 ^ 32), (wenPkgBase + 0x2008, 1), (wenPkgBase + 0x2800, 0), (wenPkgBase + 0x2808, 2 ^ 12 * 0xFF), (wenPkgBase + 0x2810, 0xF)] (up); { u with wen := { u.wen with inbox := [(0, (⟨1, 9, 0, 3, 5, 1, 0, 0, 1048576, []⟩ : WReq))] } });
      (inTake s 0 1).any (fun x => let p := x.1; let r := x.2.1; let u := x.2.2; p = 0 && !remoteWin u r.src 1 (r.arg % 2 ^ 48) (readLen r)) = true) ∧
    (let s := (let u := regs [(wenPkgBase + 0x2000, 9 + 2 ^ 12 * 9 + 2 ^ 32), (wenPkgBase + 0x2008, 1), (wenPkgBase + 0x2800, 0), (wenPkgBase + 0x2808, 2 ^ 12 * 0xFF), (wenPkgBase + 0x2810, 0xF)] (up); { u with wen := { u.wen with inbox := [(0, (⟨1, 9, 0, 3, 5, 128, 0, 0, 0, []⟩ : WReq))] } });
      (inTake s 0 128).any (fun x => let p := x.1; let r := x.2.1; let u := x.2.2; p = 0 && (u.wen.outs.find? (fun o => o.req.tag = r.tag && o.req.reqId = r.reqId)).isNone) = true) ∧
    (let s := (let u := regs [(wenPkgBase + 0x2000, 9 + 2 ^ 12 * 9 + 2 ^ 32), (wenPkgBase + 0x2008, 1), (wenPkgBase + 0x2800, 0), (wenPkgBase + 0x2808, 2 ^ 12 * 0xFF), (wenPkgBase + 0x2810, 0xF)] (up); { u with wen := { u.wen with inbox := [(0, (⟨1, 9, 0, 3, 5, 128, 0, 0, 0, []⟩ : WReq))], outs := [⟨0, none, ⟨1, 0, 9, 3, 5, 0x20, 0, 0, 0, []⟩, .cinch, true, 0⟩] } });
      (inTake s 0 128).any (fun x => let p := x.1; let r := x.2.1; let u := x.2.2; p = 0 && r.code = 0 && (u.wen.outs.find? (fun o => o.req.tag = r.tag && o.req.reqId = r.reqId)).any (fun o => o.org = .cinch)) = true) ∧
    (let s := (let u := regs [(wenPkgBase + 0x2000, 9 + 2 ^ 12 * 9 + 2 ^ 32), (wenPkgBase + 0x2008, 1), (wenPkgBase + 0x2800, 0), (wenPkgBase + 0x2808, 2 ^ 12 * 0xFF), (wenPkgBase + 0x2810, 0xF)] (up); { u with wen := { u.wen with inbox := [(0, (⟨1, 9, 0, 3, 5, 128, 0, 0, 0, []⟩ : WReq))], outs := [⟨0, none, ⟨1, 0, 9, 3, 5, 0x20, 0, 0, 0, []⟩, .cinch, true, 0⟩] } });
      (s.wen.outs.find? (fun o => o.req.tag = 3 && o.req.reqId = 5 && o.sent)).isSome = true) ∧
    (let s := { up with wen := { up.wen with idem := [(9, 5, none)] } };
      (upto 18).all (fun p => (s.wport p).stuck.isEmpty) = true) ∧
    (let s := (let u := regs [(wenPkgBase + 0x2000, 9 + 2 ^ 12 * 9 + 2 ^ 32), (wenPkgBase + 0x2008, 1), (wenPkgBase + 0x2800, 0), (wenPkgBase + 0x2808, 2 ^ 12 * 0xFF), (wenPkgBase + 0x2810, 0xF)] ({ up with poisonL := [0] }); { u with wen := { u.wen with inbox := [(0, (⟨1, 9, 0, 3, 5, 1, 0, 0, 0, []⟩ : WReq))] } });
      (inTake s 0 1).any (fun x => let p := x.1; let r := x.2.1; let u := x.2.2; p = 0 && remoteWin u r.src 1 (r.arg % 2 ^ 48) (readLen r) && poisoned u (r.arg % 2 ^ 48) (readLen r)) = true) ∧
    (let s := (let u := regs [(wenPkgBase + 0x2000, 9 + 2 ^ 12 * 9 + 2 ^ 32), (wenPkgBase + 0x2008, 1), (wenPkgBase + 0x2800, 0), (wenPkgBase + 0x2808, 2 ^ 12 * 0xFF), (wenPkgBase + 0x2810, 0xF)] (up); { u with wen := { u.wen with inbox := [(0, (⟨1, 9, 0, 3, 5, 2, 0, 0, 1048576, [7#8]⟩ : WReq))] } });
      (inTake s 0 2).any (fun x => let p := x.1; let r := x.2.1; let u := x.2.2; p = 0 && 0 < r.data.length && r.data.length ≤ 4096 && !remoteWin u r.src 2 (r.arg % 2 ^ 48) r.data.length) = true) ∧
    (let s := (let u := regs [(wenPkgBase + 0x2000, 9 + 2 ^ 12 * 9 + 2 ^ 32), (wenPkgBase + 0x2008, 1), (wenPkgBase + 0x2800, 0), (wenPkgBase + 0x2808, 2 ^ 12 * 0xFF), (wenPkgBase + 0x2810, 0xF)] (up); { u with wen := { u.wen with inbox := [(0, (⟨1, 9, 0, 3, 5, 2, 0, 0, 0, []⟩ : WReq))] } });
      (inTake s 0 2).any (fun x => let p := x.1; let r := x.2.1; let u := x.2.2; p = 0 && r.data.length = 0) = true) ∧
    (let s := (let u := regs [(wenPkgBase + 0x2000, 9 + 2 ^ 12 * 9 + 2 ^ 32), (wenPkgBase + 0x2008, 1), (wenPkgBase + 0x2800, 0), (wenPkgBase + 0x2808, 2 ^ 12 * 0xFF), (wenPkgBase + 0x2810, 0xF)] (up); { u with wen := { u.wen with inbox := [(0, (⟨1, 9, 0, 3, 5, 3, 2, 0, 1048576, [7#8, 0#8, 0#8, 0#8]⟩ : WReq))] } });
      (inTake s 0 3).any (fun x => let p := x.1; let r := x.2.1; let u := x.2.2; p = 0 && r.flags % 16 ≤ 8 && r.data.length = 4 && r.arg % 2 ^ 48 % 4 = 0 && !remoteWin u r.src 3 (r.arg % 2 ^ 48) 4) = true) ∧
    (let s := (let u := regs [(wenPkgBase + 0x2000, 9 + 2 ^ 12 * 9 + 2 ^ 32), (wenPkgBase + 0x2008, 1), (wenPkgBase + 0x2800, 0), (wenPkgBase + 0x2808, 2 ^ 12 * 0xFF), (wenPkgBase + 0x2810, 0xF)] (up); { u with wen := { u.wen with inbox := [(0, (⟨1, 9, 0, 3, 5, 3, 8, 0, 64, [7#8, 0#8, 0#8, 0#8]⟩ : WReq))] } });
      (inTake s 0 3).any (fun x => let p := x.1; let r := x.2.1; let u := x.2.2; p = 0 && r.flags % 16 = 8 && r.data.length ≠ 16) = true) ∧
    (let s := (let u := regs [(wenPkgBase + 0x2000, 9 + 2 ^ 12 * 9 + 2 ^ 32), (wenPkgBase + 0x2008, 1), (wenPkgBase + 0x2800, 0), (wenPkgBase + 0x2808, 2 ^ 12 * 0xFF), (wenPkgBase + 0x2810, 0xF)] (up); { u with wen := { u.wen with inbox := [(0, (⟨1, 9, 0, 3, 5, 3, 7, 0, 64, [0#8, 0#8, 0#8, 0#8, 9#8, 0#8, 0#8, 0#8]⟩ : WReq))] } });
      (inTake s 0 3).any (fun x => let p := x.1; let r := x.2.1; let u := x.2.2; p = 0 && r.flags % 16 = 7 && r.data.length = 8 && r.arg % 2 ^ 48 % atWidth 7 = 0 && remoteWin u r.src 3 (r.arg % 2 ^ 48) (atWidth 7) && !poisoned u (r.arg % 2 ^ 48) (atWidth 7)) = true) ∧
    (let s := (let u := regs [(wenPkgBase + 0x2000, 9 + 2 ^ 12 * 9 + 2 ^ 32), (wenPkgBase + 0x2008, 1), (wenPkgBase + 0x2800, 0), (wenPkgBase + 0x2808, 2 ^ 12 * 0xFF), (wenPkgBase + 0x2810, 0xF)] (up); { u with wen := { u.wen with inbox := [(0, (⟨1, 9, 0, 3, 5, 3, 9, 0, 64, [7#8, 0#8, 0#8, 0#8]⟩ : WReq))] } });
      (inTake s 0 3).any (fun x => let p := x.1; let r := x.2.1; let u := x.2.2; p = 0 && 8 < r.flags % 16) = true) ∧
    (let s := (let u := regs [(wenPkgBase + 0x2000, 9 + 2 ^ 12 * 9 + 2 ^ 32), (wenPkgBase + 0x2008, 1), (wenPkgBase + 0x2800, 0), (wenPkgBase + 0x2808, 2 ^ 12 * 0xFF), (wenPkgBase + 0x2810, 0xF)] ({ up with poisonL := [1] }); { u with wen := { u.wen with inbox := [(0, (⟨1, 9, 0, 3, 5, 3, 2, 0, 64, [7#8, 0#8, 0#8, 0#8]⟩ : WReq))] } });
      (inTake s 0 3).any (fun x => let p := x.1; let r := x.2.1; let u := x.2.2; p = 0 && r.flags % 16 ≤ 8 && r.data.length = 4 && remoteWin u r.src 3 (r.arg % 2 ^ 48) 4 && poisoned u (r.arg % 2 ^ 48) 4) = true) ∧
    (let s := (let u := regs [(wenPkgBase + 0x2000, 9 + 2 ^ 12 * 9 + 2 ^ 32), (wenPkgBase + 0x2008, 1), (wenPkgBase + 0x2800, 0), (wenPkgBase + 0x2808, 2 ^ 12 * 0xFF), (wenPkgBase + 0x2810, 0xF)] (up); { u with wen := { u.wen with inbox := [(0, (⟨1, 9, 0, 3, 5, 128, 0, 3, 0, []⟩ : WReq))], outs := [⟨0, none, ⟨1, 0, 9, 3, 5, 0x20, 0, 0, 0, []⟩, (.chan ⟨true, (0, 1, 3), (9, 0, 0), 2, 9, .grantReq 4 64⟩), true, 0⟩] } });
      (inTake s 0 128).any (fun x => let p := x.1; let r := x.2.1; let u := x.2.2; p = 0 && r.code = 3 && (u.wen.outs.find? (fun o => o.req.tag = r.tag && o.req.reqId = r.reqId)).any (fun o => o.org = (.chan ⟨true, (0, 1, 3), (9, 0, 0), 2, 9, .grantReq 4 64⟩))) = true) ∧
    (let s := (let u := regs [(wenPkgBase + 0x2000, 9 + 2 ^ 12 * 9 + 2 ^ 32), (wenPkgBase + 0x2008, 1), (wenPkgBase + 0x2800, 0), (wenPkgBase + 0x2808, 2 ^ 12 * 0xFF), (wenPkgBase + 0x2810, 0xF)] (up); { u with wen := { u.wen with inbox := [(0, (⟨1, 9, 0, 3, 5, 128, 0, 1, 0, []⟩ : WReq))], outs := [⟨0, none, ⟨1, 0, 9, 3, 5, 0x20, 0, 0, 0, []⟩, (.chan ⟨true, (0, 1, 3), (9, 0, 0), 2, 9, .grantReq 4 64⟩), true, 0⟩] } });
      (inTake s 0 128).any (fun x => let p := x.1; let r := x.2.1; let u := x.2.2; p = 0 && r.code = 1 && (u.wen.outs.find? (fun o => o.req.tag = r.tag && o.req.reqId = r.reqId)).any (fun o => o.org = (.chan ⟨true, (0, 1, 3), (9, 0, 0), 2, 9, .grantReq 4 64⟩))) = true) ∧
    (let s := (let u := regs [(wenPkgBase + 0x2000, 9 + 2 ^ 12 * 9 + 2 ^ 32), (wenPkgBase + 0x2008, 1), (wenPkgBase + 0x2800, 0), (wenPkgBase + 0x2808, 2 ^ 12 * 0xFF), (wenPkgBase + 0x2810, 0xF)] (up); { u with wen := { u.wen with inbox := [(0, (⟨1, 9, 0, 3, 5, 128, 0, 0, 0, []⟩ : WReq))], outs := [⟨0, none, ⟨1, 0, 9, 3, 5, 0x20, 0, 0, 0, []⟩, (.shadow 4 0 1), true, 0⟩] } });
      (inTake s 0 128).any (fun x => let p := x.1; let r := x.2.1; let u := x.2.2; p = 0 && r.code = 0 && (u.wen.outs.find? (fun o => o.req.tag = r.tag && o.req.reqId = r.reqId)).any (fun o => o.org = (.shadow 4 0 1))) = true) ∧
    (let s := (let u := regs [(wenPkgBase + 0x2000, 9 + 2 ^ 12 * 9 + 2 ^ 32), (wenPkgBase + 0x2008, 1), (wenPkgBase + 0x2800, 0), (wenPkgBase + 0x2808, 2 ^ 12 * 0xFF), (wenPkgBase + 0x2810, 0xF)] (up); { u with wen := { u.wen with inbox := [(0, (⟨1, 9, 0, 3, 5, 128, 0, 3, 0, []⟩ : WReq))], outs := [⟨0, none, ⟨1, 0, 9, 3, 5, 0x20, 0, 0, 0, []⟩, (.restore 1), true, 0⟩] } });
      (inTake s 0 128).any (fun x => let p := x.1; let r := x.2.1; let u := x.2.2; p = 0 && r.code = 3 && (u.wen.outs.find? (fun o => o.req.tag = r.tag && o.req.reqId = r.reqId)).any (fun o => o.org = (.restore 1))) = true) :=
  ⟨by decide +kernel, by decide +kernel, by decide +kernel, by decide +kernel, by decide +kernel, by decide +kernel, by decide +kernel, by decide +kernel, by decide +kernel, by decide +kernel, by decide +kernel, by decide +kernel, by decide +kernel, by decide +kernel, by decide +kernel, by decide +kernel, by decide +kernel, by decide +kernel, by decide +kernel, by decide +kernel⟩
theorem wit_slice_requests :
    (let s := regs [(rCapDie 7, 0x1B)] up;
      (hbmTop - 64) + 64 ≤ hbmTop ∧ (hbmTop - 64) % 64 + 64 ≤ 64 ∧ (lineDomains s ((hbmTop - 64) / 64)).all (fun p => domOn s p.1 p.2) = true ∧ poisoned s (hbmTop - 64) 64 = false) ∧
    (let s := { up with poisonL := [1] };
      64 + 4 ≤ hbmTop ∧ (lineDomains s (64 / 64)).all (fun p => domOn s p.1 p.2) = true ∧ poisoned s 64 4 = true ∧ isRetired s 64 = false ∧ s.poisonL.contains 1 = true) ∧
    (let s := { up with lr := [(0, 1)] };
      127 + 1 ≤ hbmTop ∧ 127 % 64 + ([9#8] : List Byte).length ≤ 64 ∧ (lineDomains s (127 / 64)).all (fun p => domOn s p.1 p.2) = true ∧ poisoned s 127 1 = false ∧ isRetired s (64 * (127 / 64)) = false) ∧
    (let s := poke 64 4 5 up;
      64 + atWidth 2 ≤ hbmTop ∧ 64 % atWidth 2 = 0 ∧ 64 % atWidth 10 = 0 ∧ (lineDomains s (64 / 64)).all (fun p => domOn s p.1 p.2) = true ∧ poisoned s 64 (atWidth 2) = false ∧ poisoned s 64 (atWidth 10) = false) ∧
    (let s := up;
      (64 : Nat) / 64 = 127 / 64 ∧ poisoned s 64 4 = false ∧ (lineDomains s (64 / 64)).all (fun p => domOn s p.1 p.2) = true) ∧
    (let s := regs [(rRetire 0 0, 2 ^ 20 + pageOfAddr 64)] up;
      (lineDomains s (64 / 64)).all (fun p => domOn s p.1 p.2) = true ∧ isRetired s (64 * (64 / 64)) = true) ∧
    (let s := regs [(rPd 0 41, 3)] up;
      (lineDomains s 1).all (fun p => domOn s p.1 p.2) = false ∧ 64 < 64 % 64 + 65 ∧ 3 < 4 ∧ 10 < 11 ∧ 66 % atWidth 2 ≠ 0) ∧
    ((2 ^ 32 - 1 < 2 ^ 32)) :=
  ⟨by decide +kernel, by decide +kernel, by decide +kernel, by decide +kernel, by decide +kernel, by decide +kernel, by decide +kernel, by decide +kernel⟩
theorem wit_control_core_atomics :
    (let s := poke 8 8 5 (regs [(mcBase 0 + 0x1008, 2 ^ 16 * 0xFF), (mcBase 0 + 0x1010, 0xFE0F)] up);
      8 + 8 ≤ hbmTop ∧ hartGrant s 0 4 3 8 8 = true ∧ hartGrant s 0 4 3 12 4 = true ∧ poisoned s 8 8 = false) ∧
    (let s := regs [(mcBase 0 + 0x1008, 2 ^ 16 * 0xFF), (mcBase 0 + 0x1010, 0xFE0F)] up;
      8 % 8 = 0 ∧ hartGrant s 0 4 1 8 8 = true ∧ poisoned s 8 8 = false) ∧
    (let s := { (regs [(mcBase 0 + 0x1008, 2 ^ 16 * 0xFF), (mcBase 0 + 0x1010, 0xFE0F)] up) with lr := [(hartId 0 4, 0)] };
      hartGrant s 0 4 2 8 8 = true ∧ poisoned s 8 8 = false ∧ (hartId 0 4, 8 / 64) ∈ s.lr) ∧
    (let s := regs [(mcBase 0 + 0x1008, 2 ^ 16 * 0xFF), (mcBase 0 + 0x1010, 0xFE0F)] up;
      hartGrant s 0 4 2 4 4 = true ∧ (hartId 0 4, 4 / 64) ∉ s.lr) ∧
    (let s := { (regs [(mcBase 0 + 0x1008, 2 ^ 16 * 0xFF), (mcBase 0 + 0x1010, 0xFE0F)] up) with poisonL := [0], lr := [(hartId 0 4, 0)] };
      8 % 8 = 0 ∧ poisoned s 8 8 = true ∧ hartGrant s 0 4 3 8 8 = true ∧ hartGrant s 0 4 2 8 8 = true ∧ (hartId 0 4, 8 / 64) ∈ s.lr) ∧
    (let s := up;
      8 % 8 = 0 ∧ hartGrant s 0 4 3 8 8 = false ∧ hartGrant s 0 4 1 8 8 = false ∧ hartGrant s 0 4 2 8 8 = false ∧ 12 % 8 ≠ 0) :=
  ⟨by decide +kernel, by decide +kernel, by decide +kernel, by decide +kernel, by decide +kernel, by decide +kernel⟩
theorem wit_addresses_past_hbm :
    (let s := up;
      hbmTop < (hbmTop - 3) + 4 ∧ hbmTop < (hbmTop - 3) + atWidth 2 ∧ hbmTop < hbmTop + 4 ∧ hbmTop % 4 = 0) ∧
    (let s := kern;
      hbmTop < hbmTop + 4 ∧ hbmTop % 4 = 0 ∧ 0 < 4 ∧ hartSlot s 0 0 = 0 ∧ (s.core 0).kernel.isSome = true ∧ (opOf s 0 0).isSome = true) :=
  ⟨by decide +kernel, by decide +kernel⟩
theorem wit_failing_rows_and_scrub :
    (let s := (regs [(mcBase 7 + 8, 2 ^ 32 + 65535)] (regs [(rCapDie 7, 0x1B)] up)).modDie 7 (fun x => { x with rowUe := [(63, 47, 16383)] });
      (upto 16).all (fun x => !(holdValid s 7 x && holdRow s 7 x = (63, 47, 16383))) = true ∧ rowFails s 7 (63, 47, 16383) = true ∧ pageOfRow 47 16383 ∉ retiredPages s 7 ∧ (63, 47, 16383) ∉ (s.die 7).repaired ∧ s.fb (mcBase 7 + 8) 32 = true ∧ (upto 16).find? (fun x => !holdValid s 7 x) = some 0) ∧
    (let s := (regs ((upto 16).map (fun h => (rHoldEnt 7 h, 2 ^ 26))) (regs [(rCapDie 7, 0x1B)] up)).modDie 7 (fun x => { x with rowUe := [(63, 47, 16383)] });
      (upto 16).all (fun x => !(holdValid s 7 x && holdRow s 7 x = (63, 47, 16383))) = true ∧ rowFails s 7 (63, 47, 16383) = true ∧ (upto 16).all (fun x => holdValid s 7 x) = true ∧ pageOfRow 47 16383 ∉ retiredPages s 7 ∧ (upto 512).find? (fun x => !s.fb (rRetire 7 x) 20) = some 0) ∧
    (let s := regs [(mcBase 0, 1), (mcBase 0 + 0x10, 1)] up;
      s.fb (mcBase 0 + 0x10) 0 = true ∧ s.fb (mcBase 0) 0 = true ∧ (s.die 0).scrub + 1 < stackLines) ∧
    (let s := (regs [(mcBase 0, 1), (mcBase 0 + 0x10, 1)] up).modDie 0 (fun x => { x with scrub := stackLines - 1 });
      s.fb (mcBase 0 + 0x10) 0 = true ∧ s.fb (mcBase 0) 0 = true ∧ (s.die 0).scrub + 1 = stackLines) ∧
    (let s := (regs [(mcBase 7 + 8, 65535)] (regs [(rCapDie 7, 0x1B)] up)).modDie 7 (fun x => { x with rowUe := [(63, 47, 16383)] });
      (upto 16).all (fun x => !(holdValid s 7 x && holdRow s 7 x = (63, 47, 16383))) = true ∧ rowFails s 7 (63, 47, 16383) = true ∧ s.fb (mcBase 7 + 8) 32 = false ∧ (upto 16).find? (fun x => !holdValid s 7 x) = some 0) ∧
    (let s := regs [(mcBase 7 + 8, 65535)] (regs [(rCapDie 7, 0x1B)] up);
      rowFails s 7 (0, 0, 0) = false) ∧
    (let s := (regs [(rHoldEnt 0 15, 2 ^ 26)] up).modDie 0 (fun x => { x with copying := [15, 2] });
      (s.die 0).copying.contains 15 = true ∧ 2 ≤ 2 ∧ 0 < hbmTop ∧ dieOfAddr 0 = 0 ∧ rowAt 0 = holdRow s 0 15) :=
  ⟨by decide +kernel, by decide +kernel, by decide +kernel, by decide +kernel, by decide +kernel, by decide +kernel, by decide +kernel⟩
theorem wit_bridle_requests :
    (let s := regs [(siteBase 1, 3 + 4 * 3 + 2 ^ 8), (rSiteWin 1 0 0, 0), (rSiteWin 1 0 8, 0), (rSiteWin 1 0 16, 0xF)] up;
      siteUp s 1 = true ∧ siteReqOk (⟨.write, 4095, 1, [7#8]⟩ : SiteReq) = true ∧ siteRefusal s 1 (⟨.write, 4095, 1, [7#8]⟩ : SiteReq) = none ∧ (s.site 1).held = [] ∧ siteRoom s 1 1 = true ∧ poisoned s 4095 1 = false) ∧
    (let s := regs [(siteBase 1, 3 + 4 * 3 + 2 ^ 8), (rSiteWin 1 0 0, 0), (rSiteWin 1 0 8, 0), (rSiteWin 1 0 16, 0xF)] up;
      siteUp s 1 = true ∧ siteReqOk (⟨.read, 0, 4, []⟩ : SiteReq) = true ∧ siteRefusal s 1 (⟨.read, 0, 4, []⟩ : SiteReq) = none ∧ (s.site 1).held = [] ∧ siteRoom s 1 4 = true ∧ poisoned s 0 4 = false) ∧
    (let s := regs [(siteBase 1, 3 + 4 * 3), (rSiteWin 1 0 0, 0), (rSiteWin 1 0 8, 0), (rSiteWin 1 0 16, 0xF)] up;
      siteUp s 1 = true ∧ siteReqOk (⟨.read, 0, 4, []⟩ : SiteReq) = true ∧ siteRefusal s 1 (⟨.read, 0, 4, []⟩ : SiteReq) = none ∧ siteRoom s 1 4 = false) ∧
    (let s := regs [(siteBase 1, 3 + 4 * 3 + 2 ^ 8), (rSiteWin 1 0 0, 0), (rSiteWin 1 0 8, 0), (rSiteWin 1 0 16, 0xF)] up;
      siteUp s 1 = true ∧ siteReqOk (⟨.read, 4095, 2, []⟩ : SiteReq) = true ∧ siteRefusal s 1 (⟨.read, 4095, 2, []⟩ : SiteReq) = some 0) ∧
    (let s := (regs [(siteBase 1, 3 + 4 * 3 + 2 ^ 8), (rSiteWin 1 0 0, 0), (rSiteWin 1 0 8, 0), (rSiteWin 1 0 16, 0xF)] up).setSite 1 { Site.reset with held := [(⟨.read, 0, 4, []⟩ : SiteReq)] };
      siteUp s 1 = true ∧ (s.site 1).held = [(⟨.read, 0, 4, []⟩ : SiteReq)] ∧ siteRoom s 1 4 = true) ∧
    (let s := poke 64 4 5 (regs [(siteBase 1, 3 + 4 * 3 + 2 ^ 8), (rSiteWin 1 0 0, 0), (rSiteWin 1 0 8, 0), (rSiteWin 1 0 16, 0xF)] up);
      siteUp s 1 = true ∧ siteReqOk (⟨.atomic 7, 64, 4, [5#8, 0#8, 0#8, 0#8, 9#8, 0#8, 0#8, 0#8]⟩ : SiteReq) = true ∧ siteReqOk (⟨.atomic 2, 66, 4, [5#8, 0#8, 0#8, 0#8]⟩ : SiteReq) = true ∧ siteRefusal s 1 (⟨.atomic 7, 64, 4, [5#8, 0#8, 0#8, 0#8, 9#8, 0#8, 0#8, 0#8]⟩ : SiteReq) = none ∧ siteRefusal s 1 (⟨.atomic 2, 66, 4, [5#8, 0#8, 0#8, 0#8]⟩ : SiteReq) = none ∧ (s.site 1).held = [] ∧ siteRoom s 1 4 = true ∧ poisoned s 64 4 = false ∧ 64 % atWidth 7 = 0 ∧ 66 % atWidth 2 ≠ 0) ∧
    (let s := { (regs [(siteBase 1, 3 + 4 * 3 + 2 ^ 8), (rSiteWin 1 0 0, 0), (rSiteWin 1 0 8, 0), (rSiteWin 1 0 16, 7)] up) with host := { up.host with msixOn := [(0, 0)] } };
      siteUp s 1 = true ∧ siteReqOk (⟨.write, 0, 1, [7#8]⟩ : SiteReq) = true ∧ siteRefusal s 1 (⟨.write, 0, 1, [7#8]⟩ : SiteReq) = none ∧ ringsSite s 1 0 1 = true ∧ siteRoom s 1 1 = true ∧ vfGone s (s.f (siteBase 1) 27 7) = false ∧ (s.f (siteBase 1) 27 7, s.f (siteBase 1) 16 11) ∈ s.host.msixOn ∧ (s.f (siteBase 1) 27 7, s.f (siteBase 1) 16 11) ∉ s.host.msixPend) ∧
    (let s := regs [(siteBase 1, 3 + 4 * 3 + 2 ^ 8), (rSiteWin 1 0 0, 0), (rSiteWin 1 0 8, 0), (rSiteWin 1 0 16, 1)] up;
      siteRefusal s 1 (⟨.read, 0, 4, []⟩ : SiteReq) = some 1 ∧ winHolds s 1 0 0 4 = true) ∧
    (let s := regs [(siteBase 1, 3 + 4 * 3 + 2 ^ 8), (rSiteWin 1 0 0, 0), (rSiteWin 1 0 8, 0), (rSiteWin 1 0 16, 0xF), (rSiteWin 1 7 0, 1), (rSiteWin 1 7 8, 1), (rSiteWin 1 7 16, 0xF)] up;
      siteRefusal s 1 (⟨.read, 4095, 2, []⟩ : SiteReq) = some 2 ∧ winTouches s 1 0 4095 2 = true ∧ winTouches s 1 7 4095 2 = true) ∧
    (let s := (regs [(siteBase 1, 3 + 4 * 3), (rSiteWin 1 0 0, 0), (rSiteWin 1 0 8, 0), (rSiteWin 1 0 16, 0xF)] up).setSite 1 { Site.reset with held := [(⟨.read, 0, 4, []⟩ : SiteReq)] };
      siteUp s 1 = true ∧ (s.site 1).held = [(⟨.read, 0, 4, []⟩ : SiteReq)] ∧ siteRoom s 1 4 = false) :=
  ⟨by decide +kernel, by decide +kernel, by decide +kernel, by decide +kernel, by decide +kernel, by decide +kernel, by decide +kernel, by decide +kernel, by decide +kernel, by decide +kernel⟩
theorem wit_site_links_and_doorbells :
    (let s := regs [(siteBase 1, 1)] up;
      sitePresent s 1 = true ∧ s.fb (siteBase 1) 0 = true ∧ s.fb (siteBase 1) 1 = false) ∧
    (let s := regs [(siteBase 1, 3 + 4 * 3 + 2 ^ 8), (rSiteWin 1 0 0, 0), (rSiteWin 1 0 8, 0), (rSiteWin 1 0 16, 0xF)] up;
      siteUp s 1 = true ∧ 1 < s.f (siteBase 1) 2 2 ∧ (s.site 1).held = []) ∧
    (let s := regs [(siteBase 1, 3 + 4 * 3 + 2 ^ 8), (rSiteWin 1 0 0, 0), (rSiteWin 1 0 8, 0), (rSiteWin 1 0 16, 0xF)] up;
      siteUp s 1 = true ∧ winOn s 1 0 = true ∧ s.fb (rSiteWin 1 0 0x10) 2 = true ∧ vfGone s (s.f (siteBase 1) 27 7) = false ∧ (s.f (siteBase 1) 27 7, s.f (siteBase 1) 16 11) ∉ s.host.msixPend ∧ (s.f (siteBase 1) 27 7, s.f (siteBase 1) 16 11) ∉ s.host.msixOn) ∧
    (let s := { up with host := { up.host with msixPend := [(64, 63)] } };
      63 ≤ lastVec 64 ∧ vfGone s 64 = false ∧ (64, 63) ∈ s.host.msixPend) ∧
    (let s := regs [(0x600, 2 ^ 4 * 5)] up;
      5 ≤ s.f 0x600 4 3) ∧
    (let s := up;
      siteUp s 1 = false ∧ sitePresent s 2 = false) ∧
    (let s := (regs [(siteBase 1, 3 + 4 * 3 + 2 ^ 8), (rSiteWin 1 0 0, 0), (rSiteWin 1 0 8, 0), (rSiteWin 1 0 16, 0xF)] up).setSite 1 { Site.reset with held := [(⟨.write, 4095, 1, [7#8]⟩ : SiteReq)] };
      siteUp s 1 = true ∧ (s.site 1).held = [(⟨.write, 4095, 1, [7#8]⟩ : SiteReq)] ∧ poisoned s 4095 1 = false) ∧
    (let s := { (regs [(siteBase 1, 3 + 4 * 3 + 2 ^ 8), (rSiteWin 1 0 0, 0), (rSiteWin 1 0 8, 0), (rSiteWin 1 0 16, 0xF)] up) with host := { up.host with msixPend := [(0, 0)] } };
      (s.f (siteBase 1) 27 7, s.f (siteBase 1) 16 11) ∈ s.host.msixPend ∧ winOn s 1 0 = true) ∧
    (let s := regs [(siteBase 1, 3 + 4 * 3 + 2 ^ 8), (rSiteWin 1 0 0, 0), (rSiteWin 1 0 8, 0), (rSiteWin 1 0 16, 0)] up;
      siteUp s 1 = true ∧ winOn s 1 0 = false) :=
  ⟨by decide +kernel, by decide +kernel, by decide +kernel, by decide +kernel, by decide +kernel, by decide +kernel, by decide +kernel, by decide +kernel, by decide +kernel⟩
theorem wit_aperture_access :
    (let s := regs [(engineBase + 0x50000, 1), (engineBase + 0x50008, 0)] up;
      bar2Addr s 5 = some 5 ∧ 5 + 4 ≤ hbmTop ∧ poisoned s 5 4 = false ∧ bar2Addr s (2 ^ 33) = none) ∧
    (let s := { regs [(engineBase + 0x50000, 1), (engineBase + 0x50008, 1 + 2 ^ 33)] up with poisonL := [2 ^ 27] };
      bar2Addr s (2 ^ 33 - 1) = some (2 ^ 33 - 1) ∧ bar2Addr s (2 ^ 33) = some (2 ^ 33) ∧ (bar2Parts s (2 ^ 33 - 1) 2).length = 2 ∧ poisoned s (2 ^ 33) 1 = true ∧ bar2Addr s (2 ^ 36) = none) :=
  ⟨by decide +kernel, by decide +kernel⟩
theorem wit_producers_and_rings :
    (let s := up;
      domOn s (pdCluster (clusterOf s 0)).1 (pdCluster (clusterOf s 0)).2 = true ∧ qEn s 0 0 = false) ∧
    (let s := plain 0x3C 0;
      domOn s (pdCluster (clusterOf s 0)).1 (pdCluster (clusterOf s 0)).2 = true ∧ qEn s 0 0 = true ∧ pdState s (0 / 64) (pdSlot 0) = 0 ∧ qHalted s 0 0 = false ∧ subMod 32 (4#32).toNat (hdrW s 0 0 1) ≤ qSize s 0 0 ∧ subMod 32 (4#32).toNat (hdrW s 0 0 1) = 4) ∧
    (let s := plain 0x3C 0;
      isSlot 0 = true ∧ qEn s 0 0 = true ∧ domOn s (pdCluster (clusterOf s 0)).1 (pdCluster (clusterOf s 0)).2 = true ∧ pdState s (0 / 64) (pdSlot 0) = 0 ∧ qHalted s 0 0 = false ∧ qSize s 0 0 < subMod 32 (17#32).toNat (hdrW s 0 0 1)) ∧
    (let s := plain 0x7F 0;
      todNow s 0 0 = some (todOf 0x7F 0 []) ∧ opcodeOk (tOpcode (todOf 0x7F 0 [])) = false) ∧
    (let s := withOp 8 (fun o => { o with q := 1 }) (plain 8 0);
      pdState s (localDomain (qHdr s 0 0 + 12)).1 (localDomain (qHdr s 0 0 + 12)).2 = 0 ∧ (s.core 0).ops.all (fun o => o.q ≠ 0 || o.live) = true) ∧
    (let s := regs [(rOpq 0 3 8, 2 ^ 24 * 0x1000 + 2 ^ 48 * 0x20)] up;
      domOn s (pdCluster (clusterOf s 0)).1 (pdCluster (clusterOf s 0)).2 = true ∧ qEn s 0 3 = false ∧ (List.replicate 128 5#8).length = 128 ∧ (qHdr s 0 3 + 4 ≤ qRing s 0 3 ∨ qRing s 0 3 + 128 * qSize s 0 3 ≤ qHdr s 0 3)) ∧
    (let s := regs [(rPd 0 (pdSlot 0), 2)] (plain 0x3C 0);
      isSlot 0 = true ∧ domOn s (pdCluster (clusterOf s 0)).1 (pdCluster (clusterOf s 0)).2 = true ∧ qEn s 0 0 = true ∧ pdState s 0 (pdSlot 0) = 2) ∧
    (let s := withOp 8 (fun o => { o with stage := .recordHeld }) (plain 8 0);
      ((s.core 0).ops.filter (fun o => o.q = 0 && o.stage = .recordHeld)).length = 1) :=
  ⟨by decide +kernel, by decide +kernel, by decide +kernel, by decide +kernel, by decide +kernel, by decide +kernel, by decide +kernel, by decide +kernel⟩
theorem wit_operations_start :
    (let s := issuedM;
      (opOf s 0 0).isSome = true ∧ (op0 s).stage = .issued ∧ (op0 s).opc = 1 ∧ (familyOf 1).isSome = true ∧ startable (s.core 0) (op0 s) = true ∧ (match assignPorts s 0 (op0 s) with | .go u o2 => let r := famMatrix.start u 0 { o2 with startTs := u.now }; r.2.2 = 0 && r.2.1.stage ≠ .issued && r.2.1.tag = 0 | _ => false) = true) ∧
    (let s := (let t := todOf 0x12 (fb 16 0 1 + fb 32 0 0x1000) []; let s := kvS (ready t []); { withOp t (fun o => { o with stage := .running, aux := [0, 0, 0, 2] }) s with kvWait := [(0x1000, 0, 0)] });
      (opOf s 0 0).isSome = true ∧ nth 0 (op0 s).aux 3 = 2 ∧ s.kvWait.find? (fun w => w.1 = kvaOf (op0 s).tod) = some (kvaOf (op0 s).tod, 0, 0) ∧ kvF s (kvaOf (op0 s).tod) 16 4 = 0 ∧ (kvGo (({ s with kvWait := s.kvWait.filter (fun w => w ≠ (kvaOf (op0 s).tod, 0, 0)) } : State).addCtr (slotBase 0 + 0x788) 9) 0 ({ op0 s with stage := OpStage.issued }.lock 0)).2.2 = 0) ∧
    (let s := (issuedM).modCore 0 (fun c => { c with ops := c.ops ++ [] });
      (opOf s 0 0).isSome = true ∧ (op0 s).stage = .issued ∧ opOf s 0 9 = none) ∧
    (let s := issuedM;
      (match assignPorts s 0 (op0 s) with | .go u o2 => let r := famMatrix.start u 0 { o2 with startTs := u.now }; r.2.2 = 0 && (eccEvents (glintOp (updOp r.1 0 r.2.1) 0 r.2.1 1 0 0 0) 0 (op0 s) [⟨0, 0x10000, 2⟩]).2 | _ => false) = true) :=
  ⟨by decide +kernel, by decide +kernel, by decide +kernel, by decide +kernel⟩
theorem wit_tiles_and_kernels :
    (let s := after (.matmul 0 0) (readyM 0);
      (opOf s 0 0).isSome = true ∧ (op0 s).stage = .running ∧ 1 ≤ (op0 s).opc ∧ (op0 s).opc ≤ 3 ∧ (op0 s).tile < tileCount (op0 s).tod ∧ anyPoison s 0 (tileRuns (dscD (op0 s).descs 0) ((op0 s).opc ≠ 2) (tileRowsOf (op0 s).tod (op0 s).tile) ++ tileRuns (dscD (op0 s).descs 1) ((op0 s).opc = 3) (tileColsOf (op0 s).tod (op0 s).tile)) = false ∧ tileNan (op0 s).tod (op0 s).tile (op0 s).mode (tileResult ⟨(opView s 0 (op0 s)).1, 0⟩ (opView s 0 (op0 s)).2 (op0 s) (if mAccum (op0 s).tod && (s.core 0).tag (tileSlot (op0 s).tod (op0 s).mode (op0 s).tile) = .mode (op0 s).mode then (s.core 0).tile (tileSlot (op0 s).tod (op0 s).mode (op0 s).tile) else []) (op0 s).tile).1 = none) ∧
    (let s := after (.drain 0 0) readyR;
      (opOf s 0 0).isSome = true ∧ drainReady (op0 s) = true ∧ drainFront s 0 = some 0 ∧ anyPoison s 0 (auxRuns (op0 s) (op0 s).drained) = false) ∧
    (let s := (let s := poke 0 4 0x73 kern; s.modCore 0 (fun c => { c with hart := { c.hart with x := setNth c.hart.x 10 (0#64) } }));
      kernelOp s 0 0 = some (op0 s) ∧ (kernelStep s 0 1 (op0 s) []).2 = some (.cause 8) ∧ (kernelStep s 0 0 (op0 s) []).2 = none ∧ tDesc (op0 s).tod 1 = 0xFFFF) ∧
    (let s := { after (.matmul 0 0) (readyM 0) with poisonL := [0x400] };
      (opOf s 0 0).isSome = true ∧ (op0 s).stage = .running ∧ 1 ≤ (op0 s).opc ∧ (op0 s).opc ≤ 3 ∧ (op0 s).tile < tileCount (op0 s).tod) ∧
    (let s := after (.matmul 0 0) (readyM 0);
      nth 0 (op0 s).aux 0 = 0 ∧ nanContinue s 0 = false) ∧
    (let s := plain 0x3C 0;
      opOf s 0 0 = none ∧ drainFront s 0 ≠ some 0 ∧ kernelOp s 0 0 = none) ∧
    (let s := (let s := poke 0 4 0x73 kern; s.modCore 0 (fun c => { c with hart := { c.hart with x := setNth c.hart.x 10 (7#64) } }));
      kernelOp s 0 0 = some (op0 s) ∧ (kernelStep s 0 1 (op0 s) []).2 = some (.cause 8) ∧ (((kernelStep s 0 1 (op0 s) []).1.core 0).hart.xr 10).toNat = 7) ∧
    (let s := (let s := poke 0 4 0 kern; s.modCore 0 (fun c => { c with hart := { c.hart with x := setNth c.hart.x 10 (0#64) } }));
      kernelOp s 0 0 = some (op0 s) ∧ (kernelStep s 0 1 (op0 s) []).2 = some (.cause 2)) :=
  ⟨by decide +kernel, by decide +kernel, by decide +kernel, by decide +kernel, by decide +kernel, by decide +kernel, by decide +kernel, by decide +kernel⟩
theorem wit_operations_complete :
    (let s := withOp 8 (fun o => { o with stage := .finishing }) (plain 8 0);
      (opOf s 0 0).isSome = true ∧ (op0 s).stage = .finishing ∧ (op0 s).opc = 8) ∧
    (let s := withOp todM (fun o => { o with stage := .finishing, tile := 1, drained := 0 }) (readyM 0);
      (opOf s 0 0).isSome = true ∧ 1 ≤ (op0 s).opc ∧ (op0 s).opc ≤ 4 ∧ matDone (op0 s) = true) ∧
    (let s := withOp 0x3C (fun o => { o with stage := .running }) (plain 0x3C 0);
      (opOf s 0 0).isSome = true ∧ (op0 s).stage = .running ∧ (op0 s).opc = 0x3C ∧ fenceDone (s.core 0) (op0 s) = true) ∧
    (let s := withOp 0x3D (fun o => { o with stage := .running }) (plain 0x3D 0);
      (opOf s 0 0).isSome = true ∧ (op0 s).stage = .running ∧ (op0 s).opc = 0x3D ∧ waitReached s 0 (op0 s) = true) ∧
    (let s := withOp (0x3D + fb 16 32 1 + fb 24 0 1) (fun o => { o with stage := .running }) (plain 0x3D 0);
      (opOf s 0 0).isSome = true ∧ (op0 s).stage = .running ∧ (op0 s).opc = 0x3D ∧ weTimeout (op0 s).tod ≠ 0 ∧ waitReached s 0 (op0 s) = false) ∧
    (let s := withOp 0x12 (fun o => { o with stage := .finishing }) (plain 0x12 0);
      (op0 s).stage = .finishing ∧ (op0 s).opc = 0x12) ∧
    (let s := withOp 0x38 (fun o => { o with stage := .finishing }) (plain 0x38 0);
      (op0 s).stage = .finishing ∧ (op0 s).opc = 0x38) ∧
    (let s := withOp 0x3F (fun o => { o with stage := .finishing }) (plain 0x3F 0);
      (op0 s).stage = .finishing ∧ (op0 s).opc = 0x3F) ∧
    (let s := (withOp 0x3C (fun o => { o with stage := .running, seq := 9 }) (plain 0x3C 0)).modCore 0 (fun c => { c with ops := { newOp State.reset 0 0 8 with tag := 1, seq := 3 } :: c.ops });
      (op0 s).opc = 0x3C ∧ fenceDone (s.core 0) (op0 s) = false) ∧
    (let s := withOp (0x3D + fb 16 32 1) (fun o => { o with stage := .running }) (plain 0x3D 0);
      (op0 s).opc = 0x3D ∧ waitReached s 0 (op0 s) = false ∧ weTimeout (op0 s).tod = 0) ∧
    (let s := withOp 0x2C (fun o => { o with stage := .running }) (plain 0x2C 0);
      (op0 s).opc = 0x2C ∧ phaseReady (s.core 0) (op0 s) = true) ∧
    (let s := (withOp 0x2C (fun o => { o with stage := .running, seq := 9 }) (plain 0x2C 0)).modCore 0 (fun c => { c with ops := { newOp State.reset 0 0 0x28 with tag := 1, seq := 3 } :: c.ops });
      (op0 s).opc = 0x2C ∧ phaseReady (s.core 0) (op0 s) = false) ∧
    (let s := withOp 0x3A (fun o => { o with stage := .running }) (plain 0x3A 0);
      (op0 s).opc = 0x3A) ∧
    (let s := withOp 8 (fun o => { o with stage := .finishing, res := OpRes.ofStatus 0 }) (plain 8 0);
      (op0 s).stage = .finishing ∧ (op0 s).res.status = 0 ∧ (eccEvents s 0 (op0 s) ([⟨0, 64, 2⟩].filter (fun e => e.space ≠ 3))).2 = true) :=
  ⟨by decide +kernel, by decide +kernel, by decide +kernel, by decide +kernel, by decide +kernel, by decide +kernel, by decide +kernel, by decide +kernel, by decide +kernel, by decide +kernel, by decide +kernel, by decide +kernel, by decide +kernel, by decide +kernel⟩
theorem wit_completion_record :
    (let s := withOp 8 (fun o => { o with stage := .finishing, res := OpRes.ofStatus 0 }) (regs [(rOpq 0 0 8, 2 ^ 24 * 0x1000 + 2 ^ 48 * 0x20)] (plain 8 0));
      (opOf s 0 0).isSome = true ∧ (op0 s).stage = .finishing ∧ (op0 s).opc = 8 ∧ (op0 s).res = OpRes.ofStatus 0 ∧ (op0 s).msgs = [] ∧ s.memBad = false ∧ tQuiet (op0 s).tod = false ∧ cplFull s 0 (op0 s).q = false ∧ (s.core 0).ops.all (fun x => x.opc ≠ 0x28 && x.opc ≠ 0x29) = true ∧ (qHdr s 0 0 + 12 ≤ qCpl s 0 0 ∨ qCpl s 0 0 + 64 * qSize s 0 0 ≤ qHdr s 0 0 + 8) ∧ (upto 8).all (fun r => !s.fb (rRing r 8) 0) = true) := by decide +kernel
theorem wit_messages_at_receive_queues :
    (let s := toQueue (.openReq 0 9) (rqS RxQ.reset up);
      (match netTake s 0 with | some (m, u) => (m.up && m.body = .openReq 0 9 && slotOf s m.rq.2.1 = 0 && m.rq.2.2 = 0 && !noRoute u m.ch m.rq.2.1 && rqEn u 0 0 && u.fb (rRq 0 0 0) 1 && 0 = u.f (rRq 0 0 0) 8 8 && rqSenders u 0 0 < 16 && !(u.rq 0 0).dyn.contains m.ch) | none => false) = true) ∧
    (let s := toQueue (.openReq 0 9) up;
      (match netTake s 0 with | some (m, u) => (m.up && m.body = .openReq 0 9 && !noRoute u m.ch m.rq.2.1 && !rqEn u (slotOf s m.rq.2.1) m.rq.2.2) | none => false) = true) ∧
    (let s := toQueue (.grantReq 5 64) (rqS { RxQ.reset with dyn := [(0, 1, 3)] } up);
      (match netTake s 0 with | some (m, u) => (m.up && m.body = .grantReq 5 64 && slotOf s m.rq.2.1 = 0 && m.rq.2.2 = 0 && !noRoute u m.ch m.rq.2.1 && rqEn u 0 0 && rqTakes u 0 0 m.ch) | none => false) = true) ∧
    (let s := toQueue (.grantReq 5 64) up;
      (match netTake s 0 with | some (m, u) => (m.up && m.body = .grantReq 5 64 && !noRoute u m.ch m.rq.2.1 && !rqEn u (slotOf s m.rq.2.1) m.rq.2.2) | none => false) = true) ∧
    (let s := rqS { RxQ.reset with dyn := [(0, 1, 3)], reqs := [⟨0, 1, 3, 5, 4096⟩] } up;
      (s.rq 0 0).reqs = [⟨0, 1, 3, 5, 4096⟩] ∧ rqEn s 0 0 = true ∧ rqTakes s 0 0 (0, 1, 3) = true ∧ 4096 = rqSize s 0 0 - rqTail s 0 0 % rqSize s 0 0 ∧ 4096 = rqSize s 0 0 - subMod 32 (rqTail s 0 0) (rqHead s 0 0)) ∧
    (let s := rqS { RxQ.reset with dyn := [(0, 1, 3)], reqs := [⟨0, 1, 3, 5, 4097⟩] } up;
      (s.rq 0 0).reqs = [⟨0, 1, 3, 5, 4097⟩] ∧ rqSize s 0 0 - subMod 32 (rqTail s 0 0) (rqHead s 0 0) < 4097) ∧
    (let s := toQueue (.data 5 0 0 0 (List.replicate 64 7#8)) (rqS { RxQ.reset with dyn := [(0, 1, 3)], msgs := [rxM] } up);
      (match netTake s 0 with | some (m, u) => (m.up && m.body = .data 5 0 0 0 (List.replicate 64 7#8) && slotOf s m.rq.2.1 = 0 && m.rq.2.2 = 0 && rqEn u 0 0 && (u.rq 0 0).msgs.find? (fun y => isIncomplete m 5 y && y.start = 0) = some rxM) | none => false) = true) ∧
    (let s := toQueue (.abort 5) (rqS { RxQ.reset with dyn := [(0, 1, 3)], msgs := [rxM] } up);
      (match netTake s 0 with | some (m, u) => (m.up && m.body = .abort 5 && (u.rq (slotOf s m.rq.2.1) m.rq.2.2).msgs.find? (isIncomplete m 5) = some rxM) | none => false) = true) ∧
    (let s := rqS { RxQ.reset with dyn := [(0, 1, 3)], msgs := [rxM] } up;
      rqEn s 0 0 = true ∧ (s.rq 0 0).msgs.find? (fun m => !m.complete) = some rxM) ∧
    (let s := toQueue (.close) (rqS { RxQ.reset with dyn := [(0, 1, 3)], reqs := [⟨0, 1, 3, 5, 64⟩] } (up));
      (match netTake s 0 with | some (m, u) => (m.up && m.body = .close) | none => false) = true) ∧
    (let s := toQueue (.openReq 0 9) (regs [(0x6A0, 1)] (rqS RxQ.reset up));
      (match netTake s 0 with | some (m, u) => (m.up && m.body = .openReq 0 9 && noRoute u m.ch m.rq.2.1) | none => false) = true) ∧
    (let s := toQueue (.openReq 1 9) (rqS RxQ.reset up);
      (match netTake s 0 with | some (m, u) => (m.up && m.body = .openReq 1 9 && slotOf s m.rq.2.1 = 0 && m.rq.2.2 = 0 && !noRoute u m.ch m.rq.2.1 && rqEn u 0 0 && m.ch.1 = ownPkg u && 1 ≠ u.f (rRq 0 0 0) 8 8) | none => false) = true) ∧
    (let s := toQueue (.openReq 0 9) (regs [(rRq 0 0 0x18, 16)] (rqS { RxQ.reset with dyn := (upto 16).map (fun k => (0, 2, k)) } (up)));
      (match netTake s 0 with | some (m, u) => (m.up && m.body = .openReq 0 9 && slotOf s m.rq.2.1 = 0 && m.rq.2.2 = 0 && rqEn u 0 0 && u.fb (rRq 0 0 0) 1 && 16 ≤ rqSenders u 0 0 && !(u.rq 0 0).dyn.contains m.ch) | none => false) = true) ∧
    (let s := toQueue (.grantReq 5 64) (regs [(0x6A0, 1)] (rqS RxQ.reset up));
      (match netTake s 0 with | some (m, u) => (m.up && m.body = .grantReq 5 64 && noRoute u m.ch m.rq.2.1) | none => false) = true) ∧
    (let s := toQueue (.grantReq 5 64) (rqS { RxQ.reset with gone := [(0, 1, 3)] } (up));
      (match netTake s 0 with | some (m, u) => (m.up && m.body = .grantReq 5 64 && slotOf s m.rq.2.1 = 0 && m.rq.2.2 = 0 && rqEn u 0 0 && !rqTakes u 0 0 m.ch && !acceptedIn u 0 0 (!bankB u 0) m.ch && (u.rq 0 0).gone.contains m.ch) | none => false) = true) ∧
    (let s := toQueue (.grantReq 5 64) (rqS RxQ.reset up);
      (match netTake s 0 with | some (m, u) => (m.up && m.body = .grantReq 5 64 && slotOf s m.rq.2.1 = 0 && m.rq.2.2 = 0 && rqEn u 0 0 && !rqTakes u 0 0 m.ch && !acceptedIn u 0 0 (!bankB u 0) m.ch && !(u.rq 0 0).gone.contains m.ch) | none => false) = true) ∧
    (let s := toQueue (.grantReq 5 64) (rqS { RxQ.reset with dyn := [(0, 1, 3)], reqs := [⟨0, 1, 3, 4, 5000⟩] } (up));
      (match netTake s 0 with | some (m, u) => (m.up && m.body = .grantReq 5 64 && slotOf s m.rq.2.1 = 0 && m.rq.2.2 = 0 && rqEn u 0 0 && rqTakes u 0 0 m.ch && !(u.rq 0 0).reqs.isEmpty) | none => false) = true) ∧
    (let s := regs [(rRq 0 0 0x10, 2 ^ 32 * 4032 + 4032)] (rqS { RxQ.reset with dyn := [(0, 1, 3)], reqs := [⟨0, 1, 3, 5, 128⟩] } (up));
      (s.rq 0 0).reqs = [⟨0, 1, 3, 5, 128⟩] ∧ (let gap := rqSize s 0 0 - rqTail s 0 0 % rqSize s 0 0; gap = 64 ∧ gap + 128 ≤ rqSize s 0 0 - subMod 32 (rqTail s 0 0) (rqHead s 0 0))) ∧
    (let s := toQueue (.data 5 0 0 0 [7#8]) (rqS RxQ.reset up);
      (match netTake s 0 with | some (m, u) => (m.up && m.body = .data 5 0 0 0 [7#8] && slotOf s m.rq.2.1 = 0 && m.rq.2.2 = 0 && m.ch.1 = ownPkg u && ((u.rq 0 0).msgs.find? (fun y => isIncomplete m 5 y && y.start = 0)).isNone) | none => false) = true) ∧
    (let s := { regs [(rGirth 2 0, 1 + 2 ^ 8 * 16), (rGirth 3 0, 1 + 2 ^ 8 * 16)] (rqS RxQ.reset up) with net := [⟨true, (9, 1, 3), (0, 0, 0), 2, 9, .data 5 0 0 0 [7#8]⟩] };
      (match netTake s 0 with | some (m, u) => (m.up && m.ch.1 ≠ ownPkg u) | none => false) = true) ∧
    (let s := { regs [(rGirth 2 0, 1 + 2 ^ 8 * 16), (rGirth 3 0, 1 + 2 ^ 8 * 16)] (rqS { RxQ.reset with msgs := [{ rxM with pkg := 9, complete := true }] } (up)) with net := [⟨true, (9, 1, 3), (0, 0, 0), 2, 9, .data 5 0 0 0 [7#8]⟩] };
      (match netTake s 0 with | some (m, u) => (m.up && m.ch.1 ≠ ownPkg u && (u.rq 0 0).msgs.any (fun y => y.complete && y.kind ≠ 1 && msgEnd y = m.ch && y.seq = 5)) | none => false) = true) ∧
    (let s := toQueue (.abort 5) (rqS RxQ.reset up);
      (match netTake s 0 with | some (m, u) => (m.up && m.body = .abort 5 && ((u.rq (slotOf s m.rq.2.1) m.rq.2.2).msgs.find? (isIncomplete m 5)).isNone) | none => false) = true) ∧
    (let s := up;
      netTake s 0 = none) :=
  ⟨by decide +kernel, by decide +kernel, by decide +kernel, by decide +kernel, by decide +kernel, by decide +kernel, by decide +kernel, by decide +kernel, by decide +kernel, by decide +kernel, by decide +kernel, by decide +kernel, by decide +kernel, by decide +kernel, by decide +kernel, by decide +kernel, by decide +kernel, by decide +kernel, by decide +kernel, by decide +kernel, by decide +kernel, by decide +kernel, by decide +kernel⟩
theorem wit_messages_at_channels :
    (let s := toChan (.openGrant 0) opening;
      (match netTake s 0 with | some (m, u) => (!m.up && m.body = .openGrant 0 && slotOf s m.ch.2.1 = 0 && m.ch.2.2 = 0 && (openOp u 0 0 0).isSome && !(u.chan 0 0).closeWanted) | none => false) = true) ∧
    (let s := opening;
      (opOf s 0 0).isSome = true ∧ openOp s 0 (sendChan (op0 s).tod) 0 = some (op0 s)) ∧
    (let s := toChan (.grant 5 64 64 0) (sending 1);
      (match netTake s 0 with | some (m, u) => (!m.up && m.body = .grant 5 64 64 0 && slotOf s m.ch.2.1 = 0 && m.ch.2.2 = 0 && sendOf u 0 0 5 = some (op0 u)) | none => false) = true) ∧
    (let s := toChan (.grant 6 64 64 0) (sending 1);
      (match netTake s 0 with | some (m, u) => (!m.up && m.body = .grant 6 64 64 0 && (sendOf u (slotOf s m.ch.2.1) m.ch.2.2 6).isNone) | none => false) = true) ∧
    (let s := toChan (.ack 5) (sending 2);
      (match netTake s 0 with | some (m, u) => (!m.up && m.body = .ack 5 && slotOf s m.ch.2.1 = 0 && m.ch.2.2 = 0 && sendOf u 0 0 5 = some (op0 u)) | none => false) = true) ∧
    (let s := sending 1;
      (liveSends s 0 0).find? (fun o => o.sendPhase = 1) = some (op0 s) ∧ s.f (rChan 0 0 0) 32 32 ≠ 0) ∧
    (let s := toChan (.openNack 0 3) opening;
      (match netTake s 0 with | some (m, u) => (!m.up && m.body = .openNack 0 3 && openOp u (slotOf s m.ch.2.1) m.ch.2.2 0 = some (op0 u)) | none => false) = true) ∧
    (let s := toChan (.nack 5 1) (sending 1);
      (match netTake s 0 with | some (m, u) => (!m.up && m.body = .nack 5 1 && sendOf u (slotOf s m.ch.2.1) m.ch.2.2 5 = some (op0 u)) | none => false) = true) ∧
    (let s := toChan (.nack 5 4) (sending 1);
      (match netTake s 0 with | some (m, u) => (!m.up && m.body = .nack 5 4 && sendOf u (slotOf s m.ch.2.1) m.ch.2.2 5 = some (op0 u)) | none => false) = true) ∧
    (let s := toChan (.openGrant 0) up;
      (match netTake s 0 with | some (m, u) => (!m.up && m.body = .openGrant 0 && (openOp u (slotOf s m.ch.2.1) m.ch.2.2 0).isNone) | none => false) = true) ∧
    (let s := toChan (.openNack 0 3) up;
      (match netTake s 0 with | some (m, u) => (!m.up && m.body = .openNack 0 3 && (openOp u (slotOf s m.ch.2.1) m.ch.2.2 0).isNone) | none => false) = true) ∧
    (let s := toChan (.ack 6) (sending 2);
      (match netTake s 0 with | some (m, u) => (!m.up && m.body = .ack 6 && (sendOf u (slotOf s m.ch.2.1) m.ch.2.2 6).isNone) | none => false) = true) ∧
    (let s := regs [(rChan 508 63 0, 1)] (setChanState up 508 63 2);
      isSlot 508 = true ∧ chanState s 508 63 = 2 ∧ liveSends s 508 63 = [] ∧ chanState s 508 62 ≠ 2 ∧ chanState s 508 62 ≠ 3) :=
  ⟨by decide +kernel, by decide +kernel, by decide +kernel, by decide +kernel, by decide +kernel, by decide +kernel, by decide +kernel, by decide +kernel, by decide +kernel, by decide +kernel, by decide +kernel, by decide +kernel, by decide +kernel⟩
theorem wit_bucket_reduction :
    (let s := cin 1 1 [bkt 1 0] up;
      canLaunch s 0 = true ∧ grR s (bkGroup s 0) = 1) ∧
    (let s := cin 2 1 [bkt 1 0] linked;
      canLaunch s 0 = true ∧ grR s (bkGroup s 0) ≠ 1 ∧ bkOp s 0 ≠ 2 ∧ (let t0 := shadowLaunch s 0 (launchSent s 0); let early := t0.cinch.early.filter (fun e => e.b = 0 && e.step = stepNo t0 && e.att = stepAtt t0); let t := (setBkState t0 0 2).modCinch (fun c => { c with ready := c.ready.filter (fun y => y ≠ 0), act := c.act ++ [⟨0, s.bytes (bkAddr s 0) (bkLen s 0), launchSent s 0, [], []⟩], launched := true, early := c.early.filter (fun e => !early.contains e) }); (sendSegment t 0 (firstSeg s 0) (launchSeg s 0 (firstSeg s 0))).2 && (takeEarly (sendSegment t 0 (firstSeg s 0) (launchSeg s 0 (firstSeg s 0))).1 0 early).2) = true) ∧
    (let s := inboxOf (req9 0x20 [0#8, 0#8, 0x80#8, 0x3F#8]) (active [] (cin 2 1 [bkt 2 0] linked));
      (match inTake s 0 0x20 with | some (p, r, u) => (let w := answerOn u p r 0 0 []; cinchEn w && 0 < bktCount w && catchUp w 0 0 false = w && !stale w 0 0 && 0 = stepNo w && 0 = stepAtt w && (cAct w 0).any (fun x => (takePart w x 0 r.data).2)) | none => false) = true) ∧
    (let s := inboxOf (req9 0x20 [1#8, 2#8, 3#8, 4#8]) (cin 2 1 [bkt 0 0] linked);
      (match inTake s 0 0x20 with | some (p, r, u) => (let w := answerOn u p r 0 0 []; cinchEn w && 0 < bktCount w && catchUp w 0 0 false = w && !stale w 0 0 && (cAct w 0).isNone) | none => false) = true) ∧
    (let s := inboxOf (req9 0x20 [1#8, 2#8, 3#8, 4#8]) (cin 2 (1 + 2 ^ 8) [bkt 0 0] linked);
      (match inTake s 0 0x20 with | some (p, r, u) => (let w := answerOn u p r 0 0 []; cinchEn w && 0 < bktCount w && stale (catchUp w 0 0 false) 0 0) | none => false) = true) ∧
    (let s := poke 0x400000 4 0x7FC00000 (active [(0, 2)] (cin 2 1 [bkt 2 0, bkt 0 0] linked));
      (cAct s 0).any (fun x => sumN (x.fin.map (·.2)) = expected s 0) = true ∧ stepState s = 1) ∧
    (let s := cin 2 1 [bkt 1 2] linked;
      canLaunch s 0 = true ∧ bkOp s 0 = 2) ∧
    (let s := cin 2 1 [bkt 1 0] up;
      canLaunch s 0 = true ∧ grR s (bkGroup s 0) ≠ 1 ∧ (let t0 := shadowLaunch s 0 (launchSent s 0); let early := t0.cinch.early.filter (fun e => e.b = 0 && e.step = stepNo t0 && e.att = stepAtt t0); let t := (setBkState t0 0 2).modCinch (fun c => { c with ready := c.ready.filter (fun y => y ≠ 0), act := c.act ++ [⟨0, s.bytes (bkAddr s 0) (bkLen s 0), launchSent s 0, [], []⟩], launched := true, early := c.early.filter (fun e => !early.contains e) }); !(sendSegment t 0 (firstSeg s 0) (launchSeg s 0 (firstSeg s 0))).2) = true) ∧
    (let s := cin 2 1 [bkt 0 0] linked;
      canLaunch s 0 = false ∧ inTake s 0 0x20 = none ∧ cAct s 0 = none ∧ inTake s 0 0x21 = none) ∧
    (let s := inboxOf (req9 0x20 [1#8, 2#8, 3#8, 4#8]) up;
      (match inTake s 0 0x20 with | some (p, r, u) => (!cinchEn (answerOn u p r 0 0 [])) | none => false) = true) ∧
    (let s := active [(0, 2)] (cin 2 1 [bkt 2 1] linked);
      bkOp s 0 = 1 ∧ grR s (bkGroup s 0) ≠ 1 ∧ cinchSeg s 0 (grMy s (bkGroup s 0)) ≠ (0, bkLen s 0)) ∧
    (let s := cin 2 1 [bkt 3 0] linked;
      allComplete s = true ∧ (peers s).all (fun p => (pickPort s none p).isSome) = true) ∧
    (let s := cin 2 1 [bkt 3 0] up;
      allComplete s = true ∧ (peers s).all (fun p => (pickPort s none p).isSome) = false) :=
  ⟨by decide +kernel, by decide +kernel, by decide +kernel, by decide +kernel, by decide +kernel, by decide +kernel, by decide +kernel, by decide +kernel, by decide +kernel, by decide +kernel, by decide +kernel, by decide +kernel, by decide +kernel⟩
theorem wit_step_notices :
    (let s := inboxOf (req9 0x21 []) (cin 2 1 [bkt 0 0] linked);
      (match inTake s 0 0x21 with | some (p, r, u) => (let w := answerOn u p r 0 0 []; cinchEn w && catchUp w 0 0 false = w && !stale w 0 0) | none => false) = true) ∧
    (let s := inboxOf (req9 0x21 []) (cin 2 2 [bkt 3 0] linked);
      (match inTake s 0 0x21 with | some (p, r, u) => (let w := answerOn u p r 0 0 []; cinchEn w && stepState w = 2 && stepNo w = 0 && stepAtt w = 0) | none => false) = true) ∧
    (let s := active [] (cin 2 1 [bkt 2 0] linked);
      cinchEn s = true ∧ stepState s = 1 ∧ s.cinch.launched = true ∧ allComplete s = false) ∧
    (let s := cin 2 2 [bkt 3 0] linked;
      cinchEn s = true ∧ stepState s = 2) ∧
    (let s := inboxOf (req9 0x21 []) (cin 2 (1 + 2 ^ 8) [bkt 0 0] linked);
      (match inTake s 0 0x21 with | some (p, r, u) => (let w := answerOn u p r 0 0 []; cinchEn w && stale (catchUp w 0 0 false) 0 0) | none => false) = true) ∧
    (let s := inboxOf (req9 0x21 []) up;
      (match inTake s 0 0x21 with | some (p, r, u) => (!cinchEn (answerOn u p r 0 0 [])) | none => false) = true) ∧
    (let s := cin 2 1 [bkt 0 0] linked;
      stepAtt s < 255 ∧ stepState s = 1 ∧ stepNo s = 0) :=
  ⟨by decide +kernel, by decide +kernel, by decide +kernel, by decide +kernel, by decide +kernel, by decide +kernel, by decide +kernel⟩
theorem wit_snapshot_source_and_holder :
    (let s := (let s := shad 1 (cin 2 (1 + 2 ^ 20) [bkt 0 0] linked); { s with cinch := { s.cinch with begins := [(1, 0)], lastFinal := some (0, 0) } });
      shadowEn s = true ∧ stepState s = 1 ∧ s.cinch.lastFinal = some (0, 0) ∧ 0 + 1 = stepNo s ∧ shCores s ≤ ((s.cinch.begins.filter (fun p => p.1 = stepNo s)).map (·.2)).eraseDups.length ∧ (snapOf (openSnap s (stepNo s) 0) (stepNo s)).any (fun x => !x.started) = true ∧ copies s = 1) ∧
    (let s := (let s := shad 2 (cin 2 (1 + 2 ^ 20) [bkt 0 0] (regs [(wenPkgBase + 0x1000, 2 ^ 7)] linked)); { s with cinch := { s.cinch with begins := [(1, 0)], lastFinal := some (0, 0) } });
      shadowEn s = true ∧ stepState s = 1 ∧ s.cinch.lastFinal = some (0, 0) ∧ 0 + 1 = stepNo s ∧ shCores s ≤ ((s.cinch.begins.filter (fun p => p.1 = stepNo s)).map (·.2)).eraseDups.length ∧ (snapOf (openSnap s (stepNo s) 0) (stepNo s)).any (fun x => !x.started) = true ∧ copies s = 2) ∧
    (let s := { up with shadow := { up.shadow with staging := true, snaps := [⟨1, 0, 0, [], true, none, [], []⟩] } };
      s.shadow.staging = true) ∧
    (let s := inboxOf (req9 0x28 [1#8, 2#8, 3#8, 4#8]) (shad 1 (cin 2 0 [bkt 0 0] linked));
      (match inTake s 0 0x28 with | some (p, r, u) => (holdsFor u r.src 1 && (takeSlot u r.src 1 1 0).any (fun q => 0x26FFC + r.data.length ≤ shSlotSize q.1)) | none => false) = true) ∧
    (let s := inboxOf (req9 0x28 []) (setSlotSt (setSlotSt (shad 1 (cin 2 0 [bkt 0 0] linked)) 0 3) 1 3);
      (match inTake s 0 0x28 with | some (p, r, u) => (holdsFor u r.src 1 && (takeSlot u r.src 1 1 0).isNone) | none => false) = true) ∧
    (let s := inboxOf (req9 0x29 []) (let s := setSlotSt (shad 1 (cin 2 0 [bkt 0 0] linked)) 0 1; { s with shadow := { s.shadow with slots := [⟨0, 9, 1, 1, 0, [], [], []⟩] } });
      (match inTake s 0 0x29 with | some (p, r, u) => ((fillingSlot u r.src 1 1).any (fun h => (trailer false (crc64 (List.replicate 8 0#8))).regions.all (fun q => !regionBadAt u h (trailer false (crc64 (List.replicate 8 0#8))) q))) | none => false) = true) ∧
    (let s := inboxOf (req9 0x29 []) (let s := setSlotSt (shad 1 (cin 2 0 [bkt 0 0] linked)) 0 1; { s with shadow := { s.shadow with slots := [⟨0, 9, 1, 1, 0, [], [], []⟩] } });
      (match inTake s 0 0x29 with | some (p, r, u) => ((fillingSlot u r.src 1 1).isSome) | none => false) = true) ∧
    (let s := inboxOf (req9 0x29 []) (let s := (shad 1 (cin 2 0 [bkt 0 0] linked)); { s with shadow := { s.shadow with snaps := [⟨1, 0, 0, [], true, none, [], []⟩] } });
      (match inTake s 0 0x29 with | some (p, r, u) => (let w := answerOn u p r 0 0 []; (snapOf w 1).any (fun x => !x.acks.contains 1 && copies w ≤ x.acks.length + 1)) | none => false) = true) ∧
    (let s := inboxOf (req9 0x29 []) (shad 1 (cin 2 0 [bkt 0 0] linked));
      (match inTake s 0 0x29 with | some (p, r, u) => (holdsFor u r.src 1 && 1 < slotCount u && 0x26FF8 + 8 ≤ shSlotSize u && !poisoned u (slotAddr u 1 1 + 0x26FF8) 8 && !holdsFor u r.src 2) | none => false) = true) ∧
    (let s := up;
      shadowEn s = false ∧ s.shadow.staging = false ∧ inTake s 0 0x28 = none ∧ inTake s 0 0x29 = none) ∧
    (let s := (let s := (let s := shad 1 (cin 2 (1 + 2 ^ 20) [bkt 0 0] linked); { s with cinch := { s.cinch with begins := [(1, 0)], lastFinal := some (0, 0) } }); { s with shadow := { s.shadow with last := some 1, snaps := [⟨1, 0, 0, [], true, none, [], []⟩] } });
      shadowEn s = true ∧ stepState s = 1 ∧ s.cinch.lastFinal = some (0, 0) ∧ (snapOf (openSnap s (stepNo s) 0) (stepNo s)).any (fun x => x.started) = true) ∧
    (let s := (let s := shad 1 (cin 2 (1 + 2 ^ 20) [bkt 0 0] linked); { s with cinch := { s.cinch with begins := [(1, 0)], lastFinal := some (0, 0) } });
      copies s = 1) ∧
    (let s := (let s := shad 2 (cin 2 (1 + 2 ^ 20) [bkt 0 0] linked); { s with cinch := { s.cinch with begins := [(1, 0)], lastFinal := some (0, 0) } });
      copies s = 2) ∧
    (let s := (let s := (let s := shad 1 (cin 2 (1 + 2 ^ 20) [bkt 0 0] linked); { s with cinch := { s.cinch with begins := [(1, 0)], lastFinal := some (0, 0) } }); { s with shadow := { s.shadow with snaps := [⟨1, 0, 0, [], true, (some ([7#8], trailer false 0)), [], []⟩] } });
      s.shadow.snaps.length = 1 ∧ s.shadow.snaps.all (fun x => x.staged.isSome && x.acks.isEmpty) = true) ∧
    (let s := inboxOf (req9 0x28 [1#8, 2#8, 3#8, 4#8]) (shad 1 (cin 2 0 [bkt 0 0] linked));
      (match inTake s 0 0x28 with | some (p, r, u) => (holdsFor u r.src 1 && (takeSlot u r.src 1 1 0).any (fun q => shSlotSize q.1 < 0x26FFD + r.data.length)) | none => false) = true) ∧
    (let s := inboxOf (req9 0x28 []) (shad 1 (cin 2 0 [bkt 0 0] linked));
      (match inTake s 0 0x28 with | some (p, r, u) => (holdsFor u r.src 1 && (takeSlot u r.src 1 1 0).isSome && r.data.isEmpty) | none => false) = true) ∧
    (let s := inboxOf (req9 0x29 []) (shad 1 (cin 2 0 [bkt 0 0] linked));
      (match inTake s 0 0x29 with | some (p, r, u) => ((fillingSlot u r.src 1 1).isNone) | none => false) = true) ∧
    (let s := inboxOf (req9 0x29 []) (let s := (shad 2 (cin 2 0 [bkt 0 0] linked)); { s with shadow := { s.shadow with snaps := [⟨1, 0, 0, [], true, none, [], []⟩] } });
      (match inTake s 0 0x29 with | some (p, r, u) => (let w := answerOn u p r 0 0 []; (snapOf w 1).any (fun x => x.acks.isEmpty) && copies w = 2) | none => false) = true) :=
  ⟨by decide +kernel, by decide +kernel, by decide +kernel, by decide +kernel, by decide +kernel, by decide +kernel, by decide +kernel, by decide +kernel, by decide +kernel, by decide +kernel, by decide +kernel, by decide +kernel, by decide +kernel, by decide +kernel, by decide +kernel, by decide +kernel, by decide +kernel, by decide +kernel⟩
theorem wit_host_commands_start :
    (let s := withCmds [hcmd (entCopy) 0] [] clients;
      s.host.cmds = [hcmd (entCopy) 0] ∧ frontCmd s 0 = some (hcmd (entCopy) 0) ∧ queueTurn s 0 = true ∧ cmdOk (entCopy) = true ∧ unitMissing (begun s 0 (hcmd (entCopy) 0)) (entCopy) = false ∧ cmdPermitted (begun s 0 (hcmd (entCopy) 0)) 0 (entCopy) = true ∧ cmdKind (entCopy) = .copy ∧ cpCheck (begun s 0 (hcmd (entCopy) 0)) 0 entCopy = 0) ∧
    (let s := withCmds [hcmd (entCopy + fb 32 0 2 + fb 40 0 0x40) 0] [] clients;
      s.host.cmds = [hcmd (entCopy + fb 32 0 2 + fb 40 0 0x40) 0] ∧ frontCmd s 0 = some (hcmd (entCopy + fb 32 0 2 + fb 40 0 0x40) 0) ∧ queueTurn s 0 = true ∧ cmdOk (entCopy + fb 32 0 2 + fb 40 0 0x40) = true ∧ unitMissing (begun s 0 (hcmd (entCopy + fb 32 0 2 + fb 40 0 0x40) 0)) (entCopy + fb 32 0 2 + fb 40 0 0x40) = false ∧ cmdPermitted (begun s 0 (hcmd (entCopy + fb 32 0 2 + fb 40 0 0x40) 0)) 0 (entCopy + fb 32 0 2 + fb 40 0 0x40) = true ∧ cmdKind (entCopy + fb 32 0 2 + fb 40 0 0x40) = .copy ∧ cpCheck (begun s 0 (hcmd (entCopy + fb 32 0 2 + fb 40 0 0x40) 0)) 0 (entCopy + fb 32 0 2 + fb 40 0 0x40) ≠ 0) ∧
    (let s := withCmds [hcmd (entTod 2) 0] [] clients;
      s.host.cmds = [hcmd (entTod 2) 0] ∧ frontCmd s 0 = some (hcmd (entTod 2) 0) ∧ queueTurn s 0 = true ∧ cmdOk (entTod 2) = true ∧ unitMissing (begun s 0 (hcmd (entTod 2) 0)) (entTod 2) = false ∧ cmdPermitted (begun s 0 (hcmd (entTod 2) 0)) 0 (entTod 2) = true ∧ cmdKind (entTod 2) = .opqWrite ∧ ownsCtx 0 (qCtx (begun s 0 (hcmd (entTod 2) 0)) (slotOf (begun s 0 (hcmd (entTod 2) 0)) (eF (entTod 2) 20 0 16)) (eF (entTod 2) 22 0 2)) = true) ∧
    (let s := withCmds [hcmd (entTod 1) 0] [] clients;
      s.host.cmds = [hcmd (entTod 1) 0] ∧ frontCmd s 0 = some (hcmd (entTod 1) 0) ∧ queueTurn s 0 = true ∧ cmdOk (entTod 1) = true ∧ unitMissing (begun s 0 (hcmd (entTod 1) 0)) (entTod 1) = false ∧ cmdPermitted (begun s 0 (hcmd (entTod 1) 0)) 0 (entTod 1) = true ∧ cmdKind (entTod 1) = .task ∧ allowed (begun s 0 (hcmd (entTod 1) 0)) 0 0 = true ∧ offline (begun s 0 (hcmd (entTod 1) 0)) 0 = false ∧ dedicated (begun s 0 (hcmd (entTod 1) 0)) 0 = false) ∧
    (let s := withCmds [hcmd (entCtl 0) 0] [] clients;
      s.host.cmds = [hcmd (entCtl 0) 0] ∧ frontCmd s 0 = some (hcmd (entCtl 0) 0) ∧ queueTurn s 0 = true ∧ cmdOk (entCtl 0) = true ∧ unitMissing (begun s 0 (hcmd (entCtl 0) 0)) (entCtl 0) = false ∧ cmdPermitted (begun s 0 (hcmd (entCtl 0) 0)) 0 (entCtl 0) = true ∧ cmdKind (entCtl 0) = .coreCtl 0 ∧ ownsCore (begun s 0 (hcmd (entCtl 0) 0)) 0 0 = true) ∧
    (let s := withCmds [hcmd (entCtl 1) 0] [] clients;
      s.host.cmds = [hcmd (entCtl 1) 0] ∧ frontCmd s 0 = some (hcmd (entCtl 1) 0) ∧ queueTurn s 0 = true ∧ cmdOk (entCtl 1) = true ∧ unitMissing (begun s 0 (hcmd (entCtl 1) 0)) (entCtl 1) = false ∧ cmdPermitted (begun s 0 (hcmd (entCtl 1) 0)) 0 (entCtl 1) = true ∧ cmdKind (entCtl 1) = .coreCtl 1 ∧ ownsCore (begun s 0 (hcmd (entCtl 1) 0)) 0 0 = true) ∧
    (let s := withCmds [hcmd (entCtl 2) 0] [] clients;
      s.host.cmds = [hcmd (entCtl 2) 0] ∧ frontCmd s 0 = some (hcmd (entCtl 2) 0) ∧ queueTurn s 0 = true ∧ cmdOk (entCtl 2) = true ∧ unitMissing (begun s 0 (hcmd (entCtl 2) 0)) (entCtl 2) = false ∧ cmdPermitted (begun s 0 (hcmd (entCtl 2) 0)) 0 (entCtl 2) = true ∧ cmdKind (entCtl 2) = .coreCtl 2 ∧ ownsCore (begun s 0 (hcmd (entCtl 2) 0)) 0 0 = true) ∧
    (let s := withCmds [hcmd (5 + fb 8 0 0x1000) 0] [] clients;
      s.host.cmds = [hcmd (5 + fb 8 0 0x1000) 0] ∧ frontCmd s 0 = some (hcmd (5 + fb 8 0 0x1000) 0) ∧ queueTurn s 0 = true ∧ cmdOk (5 + fb 8 0 0x1000) = true ∧ unitMissing (begun s 0 (hcmd (5 + fb 8 0 0x1000) 0)) (5 + fb 8 0 0x1000) = false ∧ cmdPermitted (begun s 0 (hcmd (5 + fb 8 0 0x1000) 0)) 0 (5 + fb 8 0 0x1000) = true ∧ cmdKind (5 + fb 8 0 0x1000) = .acct) ∧
    (let s := withCmds [hcmd (0xFF) 0] [] clients;
      frontCmd s 0 = some (hcmd 0xFF 0) ∧ queueTurn s 0 = true ∧ cmdOk 0xFF = false) ∧
    (let s := up;
      frontCmd s 0 = none) ∧
    (let s := withCmds [{ hcmd (entTod 2) 0 with f := 63 }] [] (regs [(clientBase 63, 3)] clients);
      (frontCmd s 0).isSome = true ∧ queueTurn s 0 = true ∧ cmdOk (entTod 2) = true ∧ ownsCtx 63 (qCtx s 0 0) = false) ∧
    (let s := withCmds [hcmd (entTod 1) 0] [] (regs [(clientBase 0 + 0x10, 0)] clients);
      (upto 256).any (fun n => allowed (begun s 0 (hcmd (entTod 1) 0)) 0 n && coreBuilt (begun s 0 (hcmd (entTod 1) 0)) n && !offline (begun s 0 (hcmd (entTod 1) 0)) n && !dedicated (begun s 0 (hcmd (entTod 1) 0)) n) = false ∧ frontCmd s 0 = some (hcmd (entTod 1) 0)) ∧
    (let s := withCmds [hcmd (entTod 1) 0] [] clients;
      frontCmd s 0 = some (hcmd (entTod 1) 0)) ∧
    (let s := withCmds [hcmd (entTod 2) 0] [] clients;
      frontCmd s 0 = some (hcmd (entTod 2) 0)) ∧
    (let s := withCmds [{ hcmd (entCtl 0 + fb 8 0 5) 0 with f := 63 }] [] (regs [(clientBase 63, 3)] clients);
      (frontCmd s 0).isSome = true ∧ ownsCore s 63 5 = false) ∧
    (let s := withCmds [{ hcmd (entCtl 1 + fb 8 0 5) 0 with f := 63 }] [] (regs [(clientBase 63, 3)] clients);
      (frontCmd s 0).isSome = true ∧ ownsCore s 63 5 = false) ∧
    (let s := withCmds [{ hcmd (entCtl 2 + fb 8 0 5) 0 with f := 63 }] [] (regs [(clientBase 63, 3)] clients);
      (frontCmd s 0).isSome = true ∧ ownsCore s 63 5 = false) ∧
    (let s := withCmds [hcmd (5 + fb 8 0 0x1000 + fb 16 0 1) 0] [] clients;
      frontCmd s 0 = some (hcmd (5 + fb 8 0 0x1000 + fb 16 0 1) 0)) ∧
    (let s := withCmds [{ hcmd (5 + fb 8 0 0x1000 + fb 16 0 1) 0 with f := 63 }] [] (regs [(clientBase 63, 3)] clients);
      (frontCmd s 0).isSome = true ∧ (63 : Nat) ≠ 0 ∧ (63 : Nat) ≠ 1) :=
  ⟨by decide +kernel, by decide +kernel, by decide +kernel, by decide +kernel, by decide +kernel, by decide +kernel, by decide +kernel, by decide +kernel, by decide +kernel, by decide +kernel, by decide +kernel, by decide +kernel, by decide +kernel, by decide +kernel, by decide +kernel, by decide +kernel, by decide +kernel, by decide +kernel, by decide +kernel⟩
theorem wit_shadow_commands :
    (let s := shad 1 (cin 2 0 [bkt 0 0] (withCmds [hcmd (0x10 + fb 8 0 1) 0] [] (regs [(clientBase 0, 3)] linked)));
      s.host.cmds = [hcmd (0x10 + fb 8 0 1) 0] ∧ frontCmd s 0 = some (hcmd (0x10 + fb 8 0 1) 0) ∧ queueTurn s 0 = true ∧ cmdOk (0x10 + fb 8 0 1) = true ∧ unitMissing (begun s 0 (hcmd (0x10 + fb 8 0 1) 0)) (0x10 + fb 8 0 1) = false ∧ cmdPermitted (begun s 0 (hcmd (0x10 + fb 8 0 1) 0)) 0 (0x10 + fb 8 0 1) = true ∧ cmdKind (0x10 + fb 8 0 1) = .shadow 1) ∧
    (let s := (let s := setSlotSt (shad 1 (cin 2 0 [bkt 0 0] (withCmds [hcmd (0x10 + fb 8 0 2 + fb 16 0 9 + fb 16 12 1) 0] [] (regs [(clientBase 0, 3)] linked)))) 0 2; { s with shadow := { s.shadow with slots := [⟨0, 9, 1, 1, 0, [], [], []⟩] } });
      s.host.cmds = [hcmd (0x10 + fb 8 0 2 + fb 16 0 9 + fb 16 12 1) 0] ∧ frontCmd s 0 = some (hcmd (0x10 + fb 8 0 2 + fb 16 0 9 + fb 16 12 1) 0) ∧ queueTurn s 0 = true ∧ cmdOk (0x10 + fb 8 0 2 + fb 16 0 9 + fb 16 12 1) = true ∧ unitMissing (begun s 0 (hcmd (0x10 + fb 8 0 2 + fb 16 0 9 + fb 16 12 1) 0)) (0x10 + fb 8 0 2 + fb 16 0 9 + fb 16 12 1) = false ∧ cmdPermitted (begun s 0 (hcmd (0x10 + fb 8 0 2 + fb 16 0 9 + fb 16 12 1) 0)) 0 (0x10 + fb 8 0 2 + fb 16 0 9 + fb 16 12 1) = true ∧ cmdKind (0x10 + fb 8 0 2 + fb 16 0 9 + fb 16 12 1) = .shadow 2) ∧
    (let s := (let s := setSlotSt (shad 1 (cin 2 0 [bkt 0 0] (withCmds [hcmd (0x10 + fb 8 0 3 + fb 16 0 9 + fb 16 12 1) 0] [] (regs [(clientBase 0, 3)] linked)))) 0 3; { s with shadow := { s.shadow with slots := [⟨0, 9, 1, 1, 0, [], [], []⟩] } });
      s.host.cmds = [hcmd (0x10 + fb 8 0 3 + fb 16 0 9 + fb 16 12 1) 0] ∧ frontCmd s 0 = some (hcmd (0x10 + fb 8 0 3 + fb 16 0 9 + fb 16 12 1) 0) ∧ queueTurn s 0 = true ∧ cmdOk (0x10 + fb 8 0 3 + fb 16 0 9 + fb 16 12 1) = true ∧ unitMissing (begun s 0 (hcmd (0x10 + fb 8 0 3 + fb 16 0 9 + fb 16 12 1) 0)) (0x10 + fb 8 0 3 + fb 16 0 9 + fb 16 12 1) = false ∧ cmdPermitted (begun s 0 (hcmd (0x10 + fb 8 0 3 + fb 16 0 9 + fb 16 12 1) 0)) 0 (0x10 + fb 8 0 3 + fb 16 0 9 + fb 16 12 1) = true ∧ cmdKind (0x10 + fb 8 0 3 + fb 16 0 9 + fb 16 12 1) = .shadow 3) ∧
    (let s := (let s := shad 1 (cin 2 0 [bkt 0 0] (withCmds [hcmd (0x10 + fb 8 0 4) 0] [] (regs [(clientBase 0, 3)] linked))); { s with shadow := { s.shadow with heldEv := true } });
      s.host.cmds = [hcmd (0x10 + fb 8 0 4) 0] ∧ frontCmd s 0 = some (hcmd (0x10 + fb 8 0 4) 0) ∧ queueTurn s 0 = true ∧ cmdOk (0x10 + fb 8 0 4) = true ∧ unitMissing (begun s 0 (hcmd (0x10 + fb 8 0 4) 0)) (0x10 + fb 8 0 4) = false ∧ cmdPermitted (begun s 0 (hcmd (0x10 + fb 8 0 4) 0)) 0 (0x10 + fb 8 0 4) = true ∧ cmdKind (0x10 + fb 8 0 4) = .shadow 4 ∧ s.shadow.heldEv = true) ∧
    (let s := (let s := setSlotSt (shad 1 (cin 2 0 [bkt 0 0] linked)) 0 2; { s with shadow := { s.shadow with slots := [⟨0, 9, 1, 1, 0, [], [], []⟩] } });
      0 < slotCount s ∧ slotSt s (slotV 1 0) = 2 ∧ s.shadow.slots = [⟨slotV 1 0, 9, 1, 1, 0, [], [], []⟩] ∧ poisoned s (slotAddr s 1 0) 64 = false ∧ slotAddr s 1 0 % 64 = 0 ∧ slotAddr s 1 0 + 64 ≤ hbmTop) ∧
    (let s := withCmds [hcmd (0x10 + fb 8 0 4) 0] [] (regs [(clientBase 0, 3), (rShadow 0, 1)] linked);
      s.host.cmds = [hcmd (0x10 + fb 8 0 4) 0] ∧ frontCmd s 0 = some (hcmd (0x10 + fb 8 0 4) 0) ∧ queueTurn s 0 = true ∧ cmdOk (0x10 + fb 8 0 4) = true ∧ unitMissing (begun s 0 (hcmd (0x10 + fb 8 0 4) 0)) (0x10 + fb 8 0 4) = false ∧ cmdPermitted (begun s 0 (hcmd (0x10 + fb 8 0 4) 0)) 0 (0x10 + fb 8 0 4) = true ∧ cmdKind (0x10 + fb 8 0 4) = .shadow 4 ∧ s.shadow.heldEv = false) ∧
    (let s := shad 1 (cin 2 0 [bkt 0 0] linked);
      cinchEn s = true) ∧
    (let s := shad 1 linked;
      cinchEn s = false ∧ anyQueueOn s = false) :=
  ⟨by decide +kernel, by decide +kernel, by decide +kernel, by decide +kernel, by decide +kernel, by decide +kernel, by decide +kernel, by decide +kernel⟩
theorem wit_host_queues_and_completions :
    (let s := hostQ;
      queueAt s 0 4095 = some 4095) ∧
    (let s := poke (hostA 0x10000) 64 entCopy hostQ;
      hqEn s 0 = true ∧ hqHalted s 0 = false ∧ (1#32).toNat = (hqHead s 0 + 1) % 2 ^ 32 ∧ 1 ≤ hqSq s 0 ∧ frozen s = false ∧ heldCmds s 0 = []) ∧
    (let s := hostQ;
      hqEn s 0 = true ∧ hqHalted s 0 = false ∧ hqSq s 0 < subMod 32 (3#32).toNat (hqHead s 0)) ∧
    (let s := hostQ;
      heldCmds s 0 = [] ∧ hqEn s 0 = true ∧ hqHead s 0 = hqTail s 0) ∧
    (let s := withCmds [hcmd entCopy 2] [] hostQ;
      s.host.cmds.find? (fun c => c.id = 0 && (c.stage = 1 || c.stage = 2)) = some (hcmd entCopy 2) ∧ cmdKind entCopy ≠ .task ∧ cqFull s 0 = false) ∧
    (let s := withCmds [hcmd entCopy 2] [] (regs [(rQ 0 0x28, 2)] hostQ);
      s.host.cmds.find? (fun c => c.id = 0 && (c.stage = 1 || c.stage = 2)) = some (hcmd entCopy 2) ∧ cmdKind entCopy ≠ .task ∧ cqFull s 0 = true ∧ eQuiet entCopy = false) ∧
    (let s := { hostQ with host := { hostQ.host with coal := [(0, 1)] } };
      look 0 s.host.coal 0 ≠ 0 ∧ s.f (rQ 0 0x10) 51 8 ≠ 0) ∧
    (let s := regs [(rQ 0 0x20, 1)] hostQ;
      hqEn s 0 = true ∧ hqHalted s 0 = false ∧ frozen s = false ∧ hqHead s 0 ≠ hqTail s 0 ∧ heldCmds s 0 = []) ∧
    (let s := withCmds [{ hcmd entCopy 1 with segs := 1, segRes := [(0, 0)] }] [] hostQ;
      s.host.cmds.length = 1) ∧
    (let s := withCmds [{ hcmd entCopy 1 with segs := 1 }] [] hostQ;
      s.host.cmds.length = 1) ∧
    (let s := withCmds [hcmd entCopy 2] [] hostQ;
      cqFull s 0 = false ∧ eQuiet entCopy = false) ∧
    (let s := withCmds [hcmd (entCopy + fb 0 9 1) 2] [] (regs [(rQ 0 0x28, 2)] hostQ);
      eQuiet (entCopy + fb 0 9 1) = true) ∧
    (let s := hostQ;
      eQuiet entCopy = false) :=
  ⟨by decide +kernel, by decide +kernel, by decide +kernel, by decide +kernel, by decide +kernel, by decide +kernel, by decide +kernel, by decide +kernel, by decide +kernel, by decide +kernel, by decide +kernel, by decide +kernel, by decide +kernel⟩
theorem wit_tasks_and_copies :
    (let s := withCmds [{ hcmd entCopy 1 with segs := 1 }] [] (poke (hostA 0x1000) 8 0x1122334455667788 clients);
      s.host.cmds.find? (fun c => c.id = 0 && c.stage = 1 && cmdKind c.ent = .copy) = some { hcmd entCopy 1 with segs := 1 } ∧ cpDir entCopy = 0 ∧ (cpMove s 0 entCopy 0 64).memBad = false) ∧
    (let s := withCmds [hcmd (entTod 1) 1] [(⟨0, 0, 0, 0, none⟩ : HTask)] (regs [(0x680, 1)] clients);
      s.host.tasks.find? (fun t => t.cmd = 0 && t.stage = 0) = some (⟨0, 0, 0, 0, none⟩ : HTask) ∧ frozen s = false ∧ heldSafe s = false ∧ (upto 256).find? (fun n => allowed s 0 n && coreFree s n) = some 0 ∧ bestTask s 0 = some (⟨0, 0, 0, 0, none⟩ : HTask)) ∧
    (let s := withCmds [hcmd (entTod 1) 1] [(⟨0, 0, 0, 0, none⟩ : HTask), (⟨9, 1, 0, 3, none⟩ : HTask)] (regs [(engineBase + 0x50040, 1)] clients);
      s.host.tasks.find? (fun t => t.cmd = 0 && t.stage = 0) = some (⟨0, 0, 0, 0, none⟩ : HTask) ∧ frozen s = false ∧ heldSafe s = false ∧ (upto 256).find? (fun n => allowed s 0 n && coreFree s n) = none ∧ s.fb (engineBase + 0x50040) 0 = true ∧ victim s 0 = some (⟨9, 1, 0, 3, none⟩ : HTask)) ∧
    (let s := withCmds [hcmd (entTod 1) 1] [⟨9, 1, 0, 4, none⟩, ⟨0, 0, 0, 1, none⟩] (clients);
      s.host.tasks.find? (fun t => t.stage = 4 && t.core = 0) = some ⟨9, 1, 0, 4, none⟩ ∧ (s.core (slotOf s 0)).ops = []) ∧
    (let s := withCmds [hcmd (entTod 1) 1] [⟨0, 0, 0, 2, none⟩] (clients);
      s.host.tasks.find? (fun t => t.stage = 2 && t.core = 0) = some ⟨0, 0, 0, 2, none⟩) ∧
    (let s := withCmds [hcmd (entTod 1) 1] [⟨0, 0, 0, 5, some ⟨0, [], [], [], 0, 0, 0, []⟩⟩] (clients);
      s.host.tasks.find? (fun t => t.stage = 5 && t.core = 0) = some ⟨0, 0, 0, 5, some ⟨0, [], [], [], 0, 0, 0, []⟩⟩) ∧
    (let s := withOp 8 (fun o => { o with stage := .running }) (regs [(rEnergyCore 0, 1000)] (plain 8 0));
      [(0, 3), (0, 1)].all (fun p => (s.core 0).ops.any (fun o => o.live && o.tag = p.1)) = true ∧ sumN ([(0, 3), (0, 1)].map (fun p => p.2)) ≠ 0) ∧
    (let s := { withCmds [{ hcmd (entCopy + fb 32 0 1) 1 with segs := 1 }] [] clients with poisonL := [1] };
      (s.host.cmds.find? (fun c => c.id = 0 && c.stage = 1 && cmdKind c.ent = .copy)).isSome = true ∧ cpDir (entCopy + fb 32 0 1) = 1 ∧ poisoned s 0x40 64 = true) ∧
    ((upto 2).filter (fun i => look 0 [(0, 0), (1, 5)] i ≠ 0) = [1] ∧ (upto 1).all (fun i => look 0 [(0, 0)] i = 0) = true) ∧
    (let s := withCmds [hcmd (entTod 1) 1] [⟨0, 1, 0, 0, none⟩, ⟨1, 0, 0, 0, none⟩] (regs [(0x680, 1)] clients);
      (bestTask s 0).any (fun x => x.cmd = 1) = true ∧ (upto 256).find? (fun n => allowed s 1 n && coreFree s n) = some 0) ∧
    (let s := withCmds [hcmd (entTod 1) 1] [(⟨0, 0, 0, 0, none⟩ : HTask), (⟨9, 1, 0, 3, none⟩ : HTask)] (regs [(engineBase + 0x50040, 0)] clients);
      (upto 256).find? (fun n => allowed s 0 n && coreFree s n) = none ∧ s.fb (engineBase + 0x50040) 0 = false) ∧
    (let s := withOp 8 (fun o => o) (withCmds [hcmd (entTod 1) 1] [⟨9, 1, 0, 4, none⟩] (clients));
      (s.core (slotOf s 0)).ops ≠ []) :=
  ⟨by decide +kernel, by decide +kernel, by decide +kernel, by decide +kernel, by decide +kernel, by decide +kernel, by decide +kernel, by decide +kernel, by decide +kernel, by decide +kernel, by decide +kernel, by decide +kernel⟩
theorem wit_function_resets :
    (let s := withCmds [hcmd entCopy 1] [⟨0, 0, 0, 0, none⟩] { up with host := { up.host with vfEnable := true, msixPend := [(0, 5), (1, 1)], msixOn := [(0, 5)] } };
      s.host.cmds.length = 1) ∧
    (let s := withCmds [hcmd entCopy 1] [] up;
      64 < 65) :=
  ⟨by decide +kernel, by decide +kernel⟩
theorem wit_pattern_checkers_and_time :
    (let s := regs [(wenBase 17, 2), (awlBase 17, 1 + 2 ^ 5)] up;
      awlIn s 17 1 = true ∧ awlState s 17 = 1 ∧ (s.awlp 17).locked = []) ∧
    (let s := (regs [(wenBase 17, 2), (awlBase 17, 1 + 2 ^ 5)] up).setAwlp 17 { AwlP.reset with locked := [8, 0] };
      awlIn s 17 1 = true ∧ (s.awlp 17).locked = [8, 0]) ∧
    (let s := { regs [(rTbCtl, 1)] up with now := 999999950, time := { up.time with good := 2 } };
      s.fb rTbCtl 0 = true ∧ (ppsOffset s.now).natAbs = 50 ∧ 2 ≤ s.time.good ∧ s.time.tbSet = none) ∧
    (let s := { up with now := 5000000000, time := { up.time with tbSet := some 5 } };
      s.time.tbSet = some 5 ∧ s.now ≤ 5 * 1000000000) ∧
    (let s := up;
      s.fb rTbCtl 0 = false ∧ s.time.tbSet = none) ∧
    (let s := up;
      awlIn s 17 1 = false ∧ awlIn s 17 2 = false ∧ (s.wport 17).inj = 0 ∧ s.f marginBase 25 2 ≠ 1 ∧ s.f memGenBase 8 2 ≠ 1 ∧ s.fb rTbCtl 0 = false) ∧
    (let s := { regs [(rTbCtl, 1)] up with now := 500000000, time := { up.time with good := 2, tbSet := some 0 } };
      s.fb rTbCtl 0 = true ∧ ¬ (ppsOffset s.now).natAbs ≤ 50 ∧ s.time.tbSet = some 0 ∧ 0 * 1000000000 < s.now) :=
  ⟨by decide +kernel, by decide +kernel, by decide +kernel, by decide +kernel, by decide +kernel, by decide +kernel, by decide +kernel⟩
theorem wit_generators_and_margins :
    (let s := regs [(marginBase, 7 + 2 ^ 25)] up;
      s.f marginBase 25 2 = 1) ∧
    (let s := regs [(memGenBase, 1 + 2 ^ 8 + 2 ^ 10 * 64), (memGenBase + 0x10, 0x1000)] up;
      s.f memGenBase 8 2 = 1 ∧ s.fb memGenBase 0 = true) ∧
    (let s := regs [(memGenBase, 2 ^ 8 + 2 ^ 10 * 64), (memGenBase + 8, 0x1000)] up;
      s.f memGenBase 8 2 = 1 ∧ s.fb memGenBase 0 = false) :=
  ⟨by decide +kernel, by decide +kernel, by decide +kernel⟩
theorem wit_link_generator_and_injection :
    (let s := regs [(wenBase 17 + 8, 5), (awlBase 17 + 8, 2 ^ 40 + 2 ^ 32 * 100 + 2 ^ 8 * 2), (awlBase 17 + 0x20, 2 ^ 32 * 64)] (regs [(wenBase 17, 2), (awlBase 17, 2 + 2 ^ 5)] up);
      portUp s 17 = true ∧ awlIn s 17 2 = true ∧ awlState s 17 = 1 ∧ genRoom s 17 = true) ∧
    (let s := regs [(wenBase 17 + 8, 5), (awlBase 17 + 0x18, 5 + 2 ^ 32)] (regs [(wenBase 17, 2), (awlBase 17, 3 + 2 ^ 5)] up);
      s.f (awlBase 17 + 0x18) 0 3 = 5 ∧ awlIn s 17 3 = true ∧ linkLive s 17 = true ∧ (s.wport 17).inj = 0 ∧ s.f (awlBase 17 + 0x18) 16 16 ≤ (s.wport 17).injN ∧ (s.rd (awlBase 17 + 0x70)).toNat < s.f (awlBase 17 + 0x18) 32 16) ∧
    (let s := regs [(wenBase 17 + 8, 5), (awlBase 17 + 0x18, 4 + 2 ^ 32)] (regs [(wenBase 17, 2), (awlBase 17, 2 + 2 ^ 5)] up);
      s.f (awlBase 17 + 0x18) 0 3 = 4 ∧ awlIn s 17 2 = true ∧ linkLive s 17 = true ∧ (s.wport 17).inj = 0 ∧ s.f (awlBase 17 + 0x18) 16 16 ≤ (s.wport 17).injN ∧ (s.rd (awlBase 17 + 0x70)).toNat < s.f (awlBase 17 + 0x18) 32 16) :=
  ⟨by decide +kernel, by decide +kernel, by decide +kernel⟩
theorem wit_integer_tile_sum :
    (let s := after (.matmul 0 0) readyI;
      (opOf s 0 0).isSome = true ∧ (op0 s).stage = .running ∧ 1 ≤ (op0 s).opc ∧ (op0 s).opc ≤ 3 ∧ (op0 s).tile < tileCount (op0 s).tod ∧ (op0 s).mode = .int32 ∧ anyPoison s 0 (tileRuns (dscD (op0 s).descs 0) ((op0 s).opc ≠ 2) (tileRowsOf (op0 s).tod (op0 s).tile) ++ tileRuns (dscD (op0 s).descs 1) ((op0 s).opc = 3) (tileColsOf (op0 s).tod (op0 s).tile)) = false ∧ (let r := tileResult ⟨(opView s 0 (op0 s)).1, 0⟩ (opView s 0 (op0 s)).2 (op0 s) (if mAccum (op0 s).tod && (s.core 0).tag (tileSlot (op0 s).tod (op0 s).mode (op0 s).tile) = .mode (op0 s).mode then (s.core 0).tile (tileSlot (op0 s).tod (op0 s).mode (op0 s).tile) else []) (op0 s).tile; r.2.2 = true ∧ tileNan (op0 s).tod (op0 s).tile (op0 s).mode r.1 = none)) := by decide +kernel
theorem wit_kernel_harts :
    (let s := (let s := poke 0 4 0 kern; s.modCore 0 (fun c => { c with hart := { c.hart with x := setNth c.hart.x 10 (0#64) } }));
      bitsN 0x00A505B3 0 7 = 0x33 ∧ rF3 0x00A505B3 = 0 ∧ rF7 0x00A505B3 = 0 ∧ rRd 0x00A505B3 = 11 ∧ (s.core 0).hart.x.length = 32) ∧
    (let s := (let s := poke 0 4 0 kern; s.modCore 0 (fun c => { c with hart := { c.hart with x := setNth c.hart.x 10 (0#64) } }));
      bitsN 0x008000EF 0 7 = 0x6F ∧ rRd 0x008000EF = 1 ∧ (s.core 0).hart.x.length = 32) ∧
    (let s := poke 0x40 8 0x1122334455667788 ((let s := poke 0 4 0 kern; s.modCore 0 (fun c => { c with hart := { c.hart with x := setNth c.hart.x 10 (0#64) } })));
      bitsN 0x00053583 0 7 = 0x03 ∧ rF3 0x00053583 = 3 ∧ rRd 0x00053583 = 11 ∧ (match (⟨0, 0, 0, 0⟩ : KCtx).load s true 0x40 8 with | .ok _ v => v = 0x1122334455667788 | _ => false) = true) ∧
    (let s := (let s := poke 0 4 0 kern; s.modCore 0 (fun c => { c with hart := { c.hart with x := setNth c.hart.x 10 (0#64) } }));
      bitsN 0x022081D7 0 7 = 0x57 ∧ rF3 0x022081D7 = 0 ∧ rF7 0x022081D7 = 1 ∧ (s.core 0).hart.v.length = 32) ∧
    (let s := up;
      2 ^ 48 - 1 < 2 ^ 48 ∧ 2 ^ 14 - 1 < 2 ^ 14) ∧
    (let s := up;
      runOk s 0 0 7 1 0x100 2 = false) :=
  ⟨by decide +kernel, by decide +kernel, by decide +kernel, by decide +kernel, by decide +kernel, by decide +kernel⟩

theorem wit_headers : HdrFits ⟨2 ^ 12 - 1, 7, true, 2 ^ 12 - 1, 3, true, true, 31, true, true, 7, 2 ^ 12 - 1, 15, 63, 2 ^ 12 - 1, 2 ^ 12 - 1, 2 ^ 14 - 1,
    2 ^ 26 - 1⟩ ∧ GHdrFits ⟨2 ^ 10 - 1, 3, 7, 2 ^ 8 - 1, 3, 2 ^ 14 - 1, 2 ^ 10 - 1, 2 ^ 16 - 1, true⟩ := by
  unfold HdrFits GHdrFits; decide
/-- Two fields that meet in the middle of a register. -/
theorem wit_fields : FieldsApart [fRng 0 32 5 5 9, fRW 32 32 0] ∧ LegalFits (fRW 32 32 0) ∧ LegalFits (fRng 0 32 5 5 9) ∧
    isSlot 508 = true ∧ (regFields (slotBase 508 + 0xFFF8)).isNone ∧ (regFields (slotBase 508 + 0x800)).isSome := by
  refine ⟨⟨by simp [fRng, fRW], by simp [fRng, fRW]⟩, fun x h => h, fun x h => ?_, by decide +kernel, by decide +kernel, by decide +kernel⟩
  simp only [fRng, Legal.apply] at h ⊢
  split_ifs <;> omega
theorem wit_codes : (dec16 0x7BFF).isNan = false ∧ (decBf16 0x8000).isNan = false ∧ (dec32 0xFF800000).isNan = false ∧
    roundMag 24 (-149) .rne 0 1 3 = (0xAAAAAB, -25) ∧ roundMag 24 (-149) .rtz 0 1 3 = (0xAAAAAA, -25) ∧ roundMag 24 (-149) .stoch 0 1 3 = (0xAAAAAB, -25) := by
  decide +kernel
theorem wit_conversion : 1 * pow2D (ffmt 3).minExp < 2 ^ 200 * pow2N (ffmt 3).minExp ∧
    (ffmt 11).maxFin.1 * pow2N (ffmt 11).maxFin.2 * 1 < 2 ^ 200 * pow2D (ffmt 11).maxFin.2 ∧ (roundInt8 .rne 0 true 1 3).code = 0 ∧
    (roundInt8 .rne 0 true 128 1).code = 0x80 ∧ 127 * 1 < 128 := by decide +kernel
theorem wit_link_only : linkOnly .refclkLoss = true ∧ linkOnly (.pcieMarginCommand 15 1 48 3) = true ∧
    ∃ t, exec .refclkLoss up = .next t := ⟨rfl, rfl, _, rfl⟩

/-! ## Single steps on the spec's worked examples

The expected numbers are those the spec prints. -/

/-- An operation of tag 0 is issued and completes. -/
def runOp (issue : Instr) (s : State) : State := after (.opComplete 0 0 0 []) (after issue s)
/-- Words of page `k` of the scratchpad, read and written. -/
def pg (k : Nat) : Nat := spadA 0 + 0x1000 * k
def wordsOf (s : State) (k n : Nat) : List Nat := (upto n).map (fun i => s.num (pg k + 4 * i) 4)
def pokeW (k : Nat) (l : List Nat) (s : State) : State := l.zipIdx.foldl (fun s p => poke (pg k + 4 * p.2) 4 p.1 s) s
/-- A CONVERT of 16 FP32 values to a format with coarse scale 1.0. -/
def convTo (f : Nat) (l : List Nat) : State :=
  runOp (.convert 0 0) (pokeW 3 [0x3F800000] (pokeW 1 l (regs [(slotBase 0 + 0x3A0, 15)] (readyD 0x20 0 [(0, tens 1 0 [16]),
    (1, tens 2 f [16] + fb 8 0 0xFF0000003000)]))))

/-- spec/02: the G16-E4M3 block 56 C6 00 00 7E 02 00 49 ... with scale 0x66. -/
theorem test_convert_g16e4m3 : let s := convTo 5 ([0x40400000, 0xBF400000, 0, 0x80000000, 0x42C80000, 0x3A83126F, 0x38D1B717] ++ List.replicate 9 0x3F800000)
    s.bytes (pg 2) 16 = [0x56#8, 0xC6#8, 0#8, 0#8, 0x7E#8, 2#8, 0#8] ++ List.replicate 9 0x49#8 ∧ s.num (pg 3 + 64) 1 = 0x66 := by decide +kernel
/-- spec/02: the G16-E2M1 block C7 02 00 ... with scale 0x70. -/
theorem test_convert_g16e2m1 : let s := convTo 8 ([0x40400000, 0xBF800000, 0x3F000000, 0x3E4CCCCD] ++ List.replicate 12 0)
    s.num (pg 2) 8 = 0x02C7 ∧ s.num (pg 3 + 64) 1 = 0x70 := by decide +kernel
/-- spec/02: 1.029999971 in FP8-E4M3 under three random values. -/
theorem test_stochastic : [0x2A5F, 0x3D70, 0xC000].map (fun r => (roundFloat (ffmt 3) .stoch r false 0x83D70A (2 ^ 23)).code) = [0x39, 0x38, 0x38] := by
  decide +kernel
/-- spec/03: 2²⁴ and sixteen ones in groups of 16 sum to 2²⁴ + 14 in ACC32. -/
theorem test_acc32_order : (newElement .acc32 false ⟨0, 0, 0, 0⟩ ((upto 256).map (fun k =>
    if k = 0 then (FV.fin false 4096 0, FV.fin false 4096 0) else if k % 16 = 1 then (FV.fin false 1 0, FV.fin false 1 0) else (FV.zero, FV.zero)))).1.code
      = 0x4B800007 := by decide +kernel
/-- spec/04: the fields of the example TOD. -/
theorem test_tod_fields : let t := 0x0006025240094101 + fb 16 0 0x0000020080000038 + fb 24 0 0x3F80000000001000 + fb 32 0 4
    (tOpcode t, tTag t, tEvEn t, tEvId t, mDrain t, mClear t, mOutEn t) = (1, 0x941, true, 2, true, true, true) ∧
    (mM t, mN t, mK t, mScale t, mAct t) = (128, 128, 4096, 0x3F800000, 1) := by decide +kernel
/-- spec/04: the Philox block of key 0 and counter 0. -/
theorem test_philox : philox 0 0 = [0x6627E8D5, 0xE169C58D, 0xBC57AC4C, 0x9B00DBD8] := by decide +kernel
/-- spec/04: eight BERNOULLI elements of that block; the stream's counter ends at 1. -/
theorem test_rng_fill : let s := runOp (.rngFill 0 0) (readyD 0x31 (fb 16 0 2 + fb 24 0 0x3F000000) [(0, tens 1 14 [8])])
    s.num (pg 1) 1 = 2 ∧ streamCtr s 0 0 = 1 := by decide +kernel
/-- spec/04: the sums of the example graph; the last segment is empty. -/
theorem test_segment_sum : let s := runOp (.segmentReduce 0 0) (pokeW 1 [0xC0000000, 0x40800000, 0x40400000, 0x3E800000, 0x3F800000, 0x40000000,
      0x3F800000, 0x40000000, 0x3F000000, 0xBF800000] (pokeW 2 [0, 1, 3, 5, 5] (readyD 0x1A 0 [(0, tens 1 0 [2, 5]), (1, tens 2 13 [5]), (2, tens 3 0 [2, 4])])))
    wordsOf s 3 8 = [0xC0000000, 0x40800000, 0x40800000, 0x40100000, 0x3FC00000, 0x3F800000, 0, 0] := by decide +kernel
/-- spec/05: the RMSNorm row's dx and dγ. -/
theorem test_norm_bwd : let s := runOp (.normBwd 0 0) (pokeW 1 [0x3F000000, 0x3E800000, 0xBF800000, 0x40000000] (pokeW 2 [0x40000000, 0xC0000000, 0x40000000,
      0xC0000000] (pokeW 3 [0x3F800000, 0x40000000, 0x3F800000, 0x3F000000] (pokeW 4 [0, 0x3F000000] (readyD 0x0B (fb 16 0 1) [(0, tens 1 0 [4]),
      (1, tens 2 0 [4]), (2, tens 3 0 [4]), (3, tens 4 0 [2]), (4, tens 5 0 [4]), (5, tens 6 0 [4])])))))
    wordsOf s 5 4 = [0x3F000000, 0, 0xBE800000, 0x3E800000] ∧ wordsOf s 6 4 = [0x3F000000, 0xBE800000, 0xBF800000, 0xC0000000] := by decide +kernel
/-- spec/07: a grant that wraps, at TAIL 0x3F000 of a ring of 131,072 bytes. -/
theorem test_grant_wraps : let s := after (.grantIssue 0 2) ((regs [(rRq 0 2 0, 3 + 17 * 2 ^ 16), (rRq 0 2 0x10, 0x2C000 + 2 ^ 32 * 0x3F000)] up).setRq 0 2
      { RxQ.reset with dyn := [(0, 5, 1)], reqs := [⟨0, 5, 1, 0, 17472⟩], msgs := [⟨0x2C000, 0xC000, 77824, 0, 9, 1, 0, 0, true, true, some 5, false⟩] })
    rqTail s 0 2 = 0x44440 ∧ (s.rq 0 2).msgs.map (fun m => (m.kind, m.off, m.len)) = [(0, 0xC000, 77824), (1, 0x1F000, 4096), (0, 0, 17472)] := by
  decide +kernel
/-- spec/12: the place of the line at 0x0025_0001_2380. -/
theorem test_dram_place : let p := dramPlace 0x002500012380
    (0x002500012380 / stackBytes, p.page, p.pch, p.quarter, p.slot, p.row, p.byte) = (3, 65537, 35, 0, 17, 1365, 128) := by decide +kernel
/-- spec/13: MAX_ACTIVE = 20 is applied as 16, and the report's first eight bytes are 00 00 30 00 02 05 01 00. -/
theorem test_clamp_report : let s := after (.registerWrite (.client 0) 0x300000 (.full (BitVec.ofNat 64 (20 * 4)))) (regs [(0x200, 0x100000), (0x208, 1 + 2 * 8)] up)
    s.num (hostA 0x100000) 8 = 0x0001050200300000 ∧ s.f 0x300000 2 5 = 16 := by decide +kernel
/-- spec/14: the latch of ACC_ECC_UNCORR on core 37. -/
theorem test_fault_latch : let s := after (.faultRaise 0 73 none) ((regs [(rCapDie 1, 0x1B)] up).raise .accEccUncorr 73
      (packBits [(0x941, 0, 14), (2, 14, 7), (0x155, 21, 12)]))
    s.rd (fltBase 0 73) = 8#64 ∧ s.f (fltBase 0 73 + 8) 0 32 = 0x05004903 ∧ s.rd (fltBase 0 73 + 0x18) = 0x2AA08941#64 := by decide +kernel
/-- spec/04: a kernel of `addi a0, x0, 5` and `ecall` ends in KERNEL_ERROR with DETAIL 5. -/
theorem test_kernel_returns : let s := after (.kernelEcall 0 0 2 []) (poke 0 8 0x0000007300500513 kern)
    (op0 s).res.status = stKernelError ∧ (op0 s).res.detail = 5 ∧ (s.core 0).kernel = none := by decide +kernel
/-- RISC-V: `add x11, x10, x10`, and `jal x1, 8` at 0x100. -/
theorem test_hart_scalar :
    let h : Hart := { Hart.reset with x := setNth Hart.reset.x 10 0x40#64, pc := 0x100#64 }
    let next (w : Nat) := match execRv ⟨0, 0, 0, 0⟩ up h w 4 with | .next _ g => (g.xr 11, g.xr 1, g.pc) | _ => (0#64, 0#64, 0#64)
    next 0x00A505B3 = (0x80#64, 0#64, 0x104#64) ∧ next 0x008000EF = (0#64, 0x104#64, 0x108#64) := by decide +kernel
/-- RISC-V: `vadd.vv v3, v2, v1` on 512 elements of 32 bits; the last wraps. -/
theorem test_hart_vector :
    let h : Hart := { Hart.reset with vl := 512, vtype := 0x10#64, v := List.replicate 32 (BitVec.ofNat 16384 (2 ^ 16383 + 3)) }
    (match execRv ⟨0, 0, 0, 0⟩ up h 0x022081D7 4 with | .next _ g => [g.el ⟨3, 32, 0⟩ 0, g.el ⟨3, 32, 0⟩ 511, g.el ⟨4, 32, 0⟩ 0] | _ => []) = [6, 0, 3] := by
  decide +kernel

end Sys2Proof.Tests
end

section
/-! SUPPORT. Laws of register reads by PF0 and of writes to registers without an RW or RC field. -/

namespace Sys2Proof.Machine

/-! ### Read-only fields (R9, R12) -/

/-- A write keeps a register none of whose fields is RW (R9). -/
theorem applyFields_fst_of_no_rw (fs : List Field) (old v : Word) (h : ∀ f ∈ fs, f.acc ≠ .rw) :
    (applyFields fs old v).1 = old := by
  refine List.foldlRecOn fs _ (motive := fun r : Word × List Rep => r.1 = old) rfl fun r hr f hf => ?_
  cases hacc : f.acc with
  | rw => exact absurd hacc (h f hf)
  | _ => simpa [hacc] using hr

/-- A read clears nothing in a register none of whose fields is RC (R12). -/
theorem rcClear_of_no_rc {s : State} {off : Nat} {fs : List Field} (hf : regFields off = some fs) (h : ∀ f ∈ fs, f.acc ≠ .rc) :
    rcClear s off = s := by
  unfold rcClear
  rw [hf, Option.getD_some]
  exact List.foldlRecOn fs _ (motive := (· = s)) rfl fun t ht f hmem => (if_neg (h f hmem)).trans ht

/-- Storing a register's present value changes no register. -/
theorem wr_rd_self (s : State) (off p : Nat) : (s.wr off (s.rd off)).rd p = s.rd p := by
  unfold State.wr State.rd
  by_cases hp : p = off
  · rw [hp, look_put, if_pos rfl]
  · exact look_put_other _ _ _ _ _ _ hp

/-- A write of a register without an RW field, on which no further rule and no effect hangs, changes the Clamp Report registers alone. -/
theorem written_rd_of_no_rw {s : State} {a : Agent} {off : Nat} {fs : List Field} (v : Word)
    (hrw : ∀ f ∈ withGaps 0 fs, f.acc ≠ .rw) (hcross : ∀ t n, crossRule t off n = (n, []))
    (hhook : ∀ t old w, writeHook t a off old w = t) {p : Nat} (hp : p ≠ 0x210) (kp : p ≠ 0x218) :
    (written s a off fs v).rd p = s.rd p := by
  unfold written andThen
  dsimp only
  rw [hhook, reportAll_rd _ _ _ _ _ hp kp, hcross, applyFields_fst_of_no_rw _ _ _ hrw]
  exact wr_rd_self (unhold (dropLatch s off) off) off p

/-! ### Latches (R12) -/

/-- A stored key is listed. -/
@[simp] theorem has_putRaw_self {α : Type} (m : List (Nat × α)) (a : Nat) (v : α) : has (putRaw m a v) a = true := by
  induction m with
  | nil => simp [putRaw, has]
  | cons e t ih =>
    obtain ⟨k, w⟩ := e
    unfold has at ih ⊢
    unfold putRaw
    split_ifs
    · simp
    · simp
    · rw [List.any_cons, ih, Bool.or_true]

/-! ### Accesses of PF0 to a register that is there and whose domain is ON -/

section Pf0
variable {s : State} {off : Nat} (h : Reached s (.client 0) off)
include h

/-- The read itself, neither refused nor held (R3, R331, R380). -/
theorem readAt_pf0 (act : State → Nat → State) : readAt s (.client 0) off act = act s off := by
  obtain ⟨-, -, hthere, hon⟩ := h
  have hmap : mapBar s (.client 0) off = some off := rfl
  unfold readAt
  rw [hmap]
  dsimp only
  rw [if_pos hthere, regOn_on s off _ hon]

/-- A 64-bit read (R12). -/
theorem exec_rcRead_pf0 :
    exec (.rcRead (.client 0) off) s = .next (ended s ((rcClear (dropLatch s off) off).emit (.busData (regVal s off)))) :=
  congrArg (done s) (readAt_pf0 h _)

/-- A read of the lower half latches the upper half (R12). -/
theorem exec_lowerHalfRead_pf0 :
    exec (.lowerHalfRead (.client 0) off) s =
      let t := (rcClear s off).emit (.busData (BitVec.ofNat 64 (fld (regVal s off) 0 32)))
      .next (ended s { t with latch := putRaw t.latch off (fld (regVal s off) 32 32) }) :=
  congrArg (done s) (readAt_pf0 h _)

/-- A read of the upper half returns what is latched (R12). -/
theorem exec_upperHalfRead_pf0_latched (hl : has s.latch off = true) :
    exec (.upperHalfRead (.client 0) off) s =
      .next (ended s ((dropLatch s off).emit (.busData (BitVec.ofNat 64 (look 0 s.latch off))))) :=
  congrArg (done s) ((readAt_pf0 h _).trans (if_pos hl))

/-- A write that no rule discards whole takes effect (R9-R11). -/
theorem exec_registerWrite_pf0 (v : RegData) {fs : List Field} (hf : regFields off = some fs)
    (hd : discards (unhold (dropLatch s off) off) (.client 0) off (s.rd off)
      (applyFields (withGaps 0 fs) (s.rd off) (writeVal s off v)).1 = none) :
    exec (.registerWrite (.client 0) off v) s = .next (ended s (written s (.client 0) off fs (writeVal s off v))) := by
  have hwritten : regWrite s (.client 0) off (writeVal s off v) = written s (.client 0) off fs (writeVal s off v) :=
    regWrite_eq _ h hf hd
  obtain ⟨-, hreach, hthere, hon⟩ := h
  have hview : viewOnly (.client 0) off = false := rfl
  have hmap : mapBar s (.client 0) off = some off := rfl
  rw [← hwritten]
  show execRegisterWrite (.client 0) off v s = _
  unfold execRegisterWrite regWrite
  rw [hmap, done_eq]
  dsimp only
  rw [hview, hreach, hthere, Bool.not_false, Bool.and_self, if_pos rfl, if_pos rfl, regOn_on s off _ hon, regOn_on s off _ hon]

end Pf0

end Sys2Proof.Machine
end

section
/-! GLOBAL.UPM reads as the fuses say, and no write changes it (spec/00, R1). -/

namespace Sys2Proof.Machine

/-! ### The register GLOBAL.UPM -/

theorem regFields_upm : regFields 0x100 = some upmFields := rfl

theorem upmFields_no_rc : ∀ f ∈ upmFields, f.acc ≠ .rc := by decide

/-- Every field of Table 0.1 is read-only, and the gaps between them are reserved. -/
theorem upmFields_no_rw : ∀ f ∈ withGaps 0 upmFields, f.acc ≠ .rw := by decide

/-- GLOBAL.UPM is always there: it is of no unit that may be absent, and of no power domain. -/
theorem reached_upm (s : State) : Reached s (.client 0) 0x100 :=
  ⟨rfl, rfl, rfl, fun p hp => by
    have hnone : regDomain 0x100 = none := rfl
    rw [hnone] at hp
    cases hp⟩

theorem discards_upm (s : State) (a : Agent) (old new : Word) : discards s a 0x100 old new = none := rfl
theorem crossRule_upm (s : State) (new : Word) : crossRule s 0x100 new = (new, []) := rfl
theorem writeHook_upm (s : State) (a : Agent) (old v : Word) : writeHook s a 0x100 old v = s := rfl
theorem rcClear_upm (s : State) : rcClear s 0x100 = s := rcClear_of_no_rc regFields_upm upmFields_no_rc

/-- A read of GLOBAL.UPM takes its value from the fuses, not from the register file. -/
theorem regVal_upm (s : State) : regVal s 0x100 = s.fuses.upm := rfl

/-- The fuses hold the value of Table 0.1 (R1). -/
theorem regVal_upm_of_inv {s : State} (h : Inv s) : regVal s 0x100 = 0x0048FFFFFFFFFFFF#64 := by
  obtain ⟨hfuses, -⟩ := h
  rw [regVal_upm, hfuses]
  rfl

/-! ### Its accesses -/

theorem read_upm (s : State) (h : Inv s) :
    ∃ t, exec (.rcRead (.client 0) 0x100) s = .next t ∧ t.outbox = s.outbox ++ [.busData 0x0048FFFFFFFFFFFF#64] ∧
      SameRegs [] s t ∧ SameMem s t := by
  refine ⟨_, exec_rcRead_pf0 (reached_upm s), ?_⟩
  rw [rcClear_upm, regVal_upm_of_inv h]
  exact ⟨rfl, fun _ _ => rfl, fun _ => rfl⟩

theorem halfReads_upm (s : State) (h : Inv s) :
    ∃ t u, exec (.lowerHalfRead (.client 0) 0x100) s = .next t ∧ t.outbox = s.outbox ++ [.busData 0xFFFFFFFF#64] ∧
      exec (.upperHalfRead (.client 0) 0x100) t = .next u ∧ u.outbox = t.outbox ++ [.busData 0x0048FFFF#64] := by
  have hlo := exec_lowerHalfRead_pf0 (reached_upm s)
  rw [rcClear_upm, regVal_upm_of_inv h] at hlo
  have hlatched : has (putRaw s.latch 0x100 0x0048FFFF) 0x100 = true := has_putRaw_self ..
  refine ⟨_, _, hlo, rfl, exec_upperHalfRead_pf0_latched (reached_upm _) hlatched, ?_⟩
  show _ ++ [Signal.busData (BitVec.ofNat 64 (look 0 (putRaw s.latch 0x100 0x0048FFFF) 0x100))] = _
  rw [look_putRaw, if_pos rfl]
  rfl

theorem write_upm (s : State) (v : RegData) (h : Inv s) :
    ∃ t, exec (.registerWrite (.client 0) 0x100 v) s = .next t ∧ SameRegs [0x210, 0x218] s t ∧
      regVal t 0x100 = 0x0048FFFFFFFFFFFF#64 := by
  refine ⟨_, exec_registerWrite_pf0 (reached_upm s) v regFields_upm (discards_upm ..), fun p hp => ?_, ?_⟩
  · obtain ⟨hidx, hlost⟩ : p ≠ 0x210 ∧ p ≠ 0x218 := by simpa using hp
    exact written_rd_of_no_rw _ upmFields_no_rw crossRule_upm (fun t old w => writeHook_upm t _ old w) hidx hlost
  · rw [regVal_upm, ended_fuses, ← regVal_upm]
    exact regVal_upm_of_inv h

/-- Settles O4: the value comes from the fuses, which every command keeps, and no field of the register takes a write. -/
theorem identityReads : Obligations.IdentityReads :=
  ⟨read_upm, halfReads_upm, write_upm⟩

end Sys2Proof.Machine
end

section
/-! SUPPORT. Writes of HBM lines that do not answer, and granted requests of a site (spec/01 R33, spec/12 R325, R402). -/

namespace Sys2Proof.Machine

/-! ### Lines that take no write -/

/-- Which lines answer is read off the registers alone. -/
theorem isRetired_congr {s t : State} (h : t.regs = s.regs) (a : Nat) : isRetired t a = isRetired s a := by
  unfold isRetired retiredPages State.fb State.f State.rd
  rw [h]

/-- A write to lines of retired pages or untrained stacks changes no byte (R325, R402). -/
theorem hbmWrite_mem_of_retired {s : State} {a : Nat} {bs : List Byte} (hint : Nat)
    (h : ∀ l ∈ linesOf a bs.length, isRetired s (64 * l) = true) : (hbmWrite s hint a bs).mem = s.mem := by
  refine (List.foldlRecOn (linesOf a bs.length) _ (motive := fun t : State => t.regs = s.regs ∧ t.mem = s.mem)
    ⟨rfl, rfl⟩ fun t ht l hl => ?_).2
  obtain ⟨hregs, hmem⟩ := ht
  have hlost : hbmWriteLine t hint a bs l = { t with memBad := true } :=
    if_pos ((isRetired_congr hregs _).trans (h l hl))
  rw [hlost]
  exact ⟨hregs, hmem⟩

/-! ### Granted requests of a site -/

/-- A site whose domain is ON changes its state and no register. -/
theorem setSite_regs_of_on {s : State} {i : Nat} (h : pdState s 8 (3 + i) = 0) (x : Site) : (s.setSite i x).regs = s.regs := by
  have hwake : wakeNow s 8 (3 + i) = s := if_pos h
  unfold State.setSite
  rw [hwake]

/-- A message is sent, held pending or dropped; none is a write of memory. -/
theorem State.sendMsix_mem (s : State) (f vec : Nat) : (s.sendMsix f vec).mem = s.mem := by
  unfold State.sendMsix
  split_ifs <;> rfl

/-- A doorbell write sends or counts, and stores nothing itself (R35). -/
theorem ringSite_mem (s : State) (i : Nat) : (ringSite s i).mem = s.mem := by
  unfold ringSite
  dsimp only
  split_ifs
  · exact State.addCtr_mem ..
  · exact State.sendMsix_mem ..

/-- A granted request within the cap, with none held before it, goes ahead (R33). -/
theorem exec_bridleRequest_granted {s : State} {i : Nat} {r : SiteReq} (hup : siteUp s i = true) (hok : siteReqOk r = true)
    (hgrant : siteRefusal s i r = none) (hheld : (s.site i).held = []) (hroom : siteRoom s i r.len = true) :
    exec (.bridleRequest i r) s = .next (ended s (siteAct s i r)) := by
  show execBridleRequest i r s = _
  unfold execBridleRequest
  simp [hup, hok, hgrant, hheld, hroom, done_eq]

/-- A granted write to lines that take none is lost. -/
theorem siteAct_write_mem_of_retired {s : State} {i : Nat} {r : SiteReq} (hop : r.op = .write) (hlen : r.data.length = r.len)
    (hon : pdState s 8 (3 + i) = 0) (hret : ∀ l ∈ linesOf r.addr r.len, isRetired s (64 * l) = true) :
    (siteAct s i r).mem = s.mem := by
  have hwhole : r.data.take r.len = r.data := List.take_of_length_le hlen.le
  have hstored (x : Site) : (hbmWrite (s.setSite i x) hintNormal r.addr r.data).mem = s.mem := by
    rw [hbmWrite_mem_of_retired, State.setSite_mem]
    intro l hl
    rw [isRetired_congr (setSite_regs_of_on hon x)]
    exact hret l (hlen ▸ hl)
  unfold siteAct
  simp only [hop, hwhole]
  split
  · rw [ringSite_mem, hstored]
  · exact hstored _

/-! ### A window past the end of HBM -/

/-- Site 0 is up with a cap of 8,000 bytes a microsecond, and its window 1 lets it write the first page past the end of HBM. -/
def siteWindowPastHbm : State :=
  { State.reset with regs := [(siteBase 0, 0x103#64), (rSiteWin 0 1 0, 0x6000000000#64), (rSiteWin 0 1 8, 0x6000000000#64),
      (rSiteWin 0 1 0x10, 5#64)] }

/-- A write of one byte there. -/
def writePastHbm : SiteReq := ⟨.write, hbmTop, 1, [7#8]⟩

theorem writePastHbm_granted :
    siteUp siteWindowPastHbm 0 = true ∧ siteReqOk writePastHbm = true ∧ siteRefusal siteWindowPastHbm 0 writePastHbm = none ∧
      (siteWindowPastHbm.site 0).held = [] ∧ siteRoom siteWindowPastHbm 0 writePastHbm.len = true ∧
      poisoned siteWindowPastHbm writePastHbm.addr writePastHbm.len = false := by decide

/-- No stack holds the byte. -/
theorem writePastHbm_unanswered :
    ∀ l ∈ linesOf writePastHbm.addr writePastHbm.len, isRetired siteWindowPastHbm (64 * l) = true := by decide

theorem writePastHbm_lost :
    ∃ t, exec (.bridleRequest 0 writePastHbm) siteWindowPastHbm = .next t ∧ t.bytes writePastHbm.addr writePastHbm.len = [0#8] := by
  obtain ⟨hup, hok, hgrant, hheld, hroom, -⟩ := writePastHbm_granted
  have hmem : (siteAct siteWindowPastHbm 0 writePastHbm).mem = [] :=
    siteAct_write_mem_of_retired rfl rfl rfl writePastHbm_unanswered
  refine ⟨_, exec_bridleRequest_granted hup hok hgrant hheld hroom, ?_⟩
  show (fromLen _ 1).map (look 0#8 (siteAct siteWindowPastHbm 0 writePastHbm).mem) = _
  rw [hmem]
  rfl

/-- Refutes O31: the first clause bounds no address. Past the end of HBM `poisoned` looks at the words of local memories alone, so a write that a
window grants there meets every hypothesis, while no stack takes its bytes (`isRetired`): it is lost. R37 keeps WIN_BASE and WIN_LIMIT within HBM,
but the statement ranges over every state. -/
theorem not_bridleRequests : ¬ Obligations.BridleRequests := by
  unfold Obligations.BridleRequests
  rintro ⟨hwrite, -⟩
  obtain ⟨hup, hok, hgrant, hheld, hroom, hclean⟩ := writePastHbm_granted
  obtain ⟨t, ht, hstored, -⟩ := hwrite _ _ _ hup hok hgrant hheld hroom rfl hclean
  obtain ⟨u, hu, hlost⟩ := writePastHbm_lost
  obtain rfl : t = u := by simpa using ht.symm.trans hu
  exact absurd (hlost.symm.trans hstored) (by decide)

end Sys2Proof.Machine
end

section
/-! SUPPORT. The element of INT32 mode: its value modulo 2^32, and the chunks that leave the range of an INT32 (spec/03, R73, R76). -/

namespace Sys2Proof.Machine

/-! ### Chunks -/

theorem piecesGo_take_flatten {α : Type} {n : Nat} (hn : 0 < n) (fuel k : Nat) (xs : List α) (h : xs.length ≤ fuel) :
    ((piecesGo n fuel xs).take k).flatten = xs.take (n * k) := by
  induction fuel generalizing k xs with
  | zero => simp [piecesGo, List.length_eq_zero_iff.mp (Nat.le_zero.mp h)]
  | succ fuel ih =>
    cases xs with
    | nil => simp [piecesGo]
    | cons x t =>
      cases k with
      | zero => simp
      | succ k =>
        have hrest : ((x :: t).drop n).length ≤ fuel := by
          rw [List.length_drop]
          omega
        show (((x :: t).take n :: piecesGo n fuel ((x :: t).drop n)).take (k + 1)).flatten = _
        rw [List.take_succ_cons, List.flatten_cons, ih _ _ hrest, Nat.mul_succ, Nat.add_comm, List.take_add]

/-- The first `k` pieces of `n` are the first `n * k` elements. -/
theorem pieces_take_flatten {α : Type} {n : Nat} (hn : 0 < n) (k : Nat) (xs : List α) :
    ((pieces n xs).take k).flatten = xs.take (n * k) := by
  rw [pieces, if_neg hn.ne']
  exact piecesGo_take_flatten hn _ _ _ le_rfl

theorem pieces_flatten {α : Type} {n : Nat} (hn : 0 < n) (xs : List α) : (pieces n xs).flatten = xs := by
  have h := pieces_take_flatten hn (max (pieces n xs).length xs.length) xs
  rwa [List.take_of_length_le (le_max_left ..),
    List.take_of_length_le ((le_max_right ..).trans (Nat.le_mul_of_pos_left _ hn))] at h

/-! ### Signed readings -/

/-- A value that no INT32 holds. -/
def LeavesInt32 (v : Int) : Prop := v < -(2 ^ 31) ∨ 2 ^ 31 ≤ v

theorem not_leavesInt32_toSigned (v : Nat) : ¬LeavesInt32 (toSigned 32 v) := by
  unfold LeavesInt32 toSigned
  dsimp only
  split_ifs <;> omega

theorem ofSigned_cast (i : Int) : (ofSigned 32 i : Int) = i % 2 ^ 32 := by
  unfold ofSigned
  omega

theorem toSigned_ofSigned_modEq (i : Int) : toSigned 32 (ofSigned 32 i) ≡ i [ZMOD 2 ^ 32] := by
  have h := ofSigned_cast i
  unfold Int.ModEq toSigned
  dsimp only
  split_ifs <;> omega

/-! ### The running value -/

/-- The exact sum of a list of products. -/
def exactSum (ab : List (Int × Int)) : Int := (ab.map (fun p => p.1 * p.2)).sum

@[simp] theorem exactSum_nil : exactSum [] = 0 := rfl
@[simp] theorem exactSum_append (xs ys : List (Int × Int)) : exactSum (xs ++ ys) = exactSum xs + exactSum ys := by simp [exactSum]

/-- What one chunk does to the running value and to INT_WRAP. -/
def intChunk (acc : Int × Bool) (c : List (Int × Int)) : Int × Bool :=
  let v := acc.1 + c.foldl (fun a p => a + p.1 * p.2) 0
  if -(2 ^ 31) ≤ v && v < 2 ^ 31 then (v, acc.2) else (toSigned 32 (ofSigned 32 v), true)

theorem intElement_eq (s0 : Int) (ab : List (Int × Int)) : intElement s0 ab = (pieces 256 ab).foldl intChunk (s0, false) := rfl

theorem foldl_products (c : List (Int × Int)) : c.foldl (fun a p => a + p.1 * p.2) 0 = exactSum c := by
  rw [exactSum, List.sum_eq_foldl, List.foldl_map]

theorem intChunk_of_stays {acc : Int × Bool} {c : List (Int × Int)} (h : ¬LeavesInt32 (acc.1 + exactSum c)) :
    intChunk acc c = (acc.1 + exactSum c, acc.2) := by
  unfold LeavesInt32 at h
  unfold intChunk
  rw [foldl_products]
  exact if_pos (by simp only [Bool.and_eq_true, decide_eq_true_eq]; omega)

theorem intChunk_of_leaves {acc : Int × Bool} {c : List (Int × Int)} (h : LeavesInt32 (acc.1 + exactSum c)) :
    intChunk acc c = (toSigned 32 (ofSigned 32 (acc.1 + exactSum c)), true) := by
  unfold LeavesInt32 at h
  unfold intChunk
  rw [foldl_products]
  exact if_neg (by simp only [Bool.and_eq_true, decide_eq_true_eq]; omega)

theorem intChunk_modEq (acc : Int × Bool) (c : List (Int × Int)) : (intChunk acc c).1 ≡ acc.1 + exactSum c [ZMOD 2 ^ 32] := by
  by_cases h : LeavesInt32 (acc.1 + exactSum c)
  · rw [intChunk_of_leaves h]
    exact toSigned_ofSigned_modEq _
  · rw [intChunk_of_stays h]

/-- Wrapping keeps the value modulo 2^32. -/
theorem intChunks_modEq (cs : List (List (Int × Int))) (acc : Int × Bool) :
    (cs.foldl intChunk acc).1 ≡ acc.1 + exactSum cs.flatten [ZMOD 2 ^ 32] := by
  induction cs generalizing acc with
  | nil => simp [Int.ModEq]
  | cons c cs ih =>
    rw [List.foldl_cons, List.flatten_cons, exactSum_append, ← add_assoc]
    exact (ih _).trans ((intChunk_modEq acc c).add_right _)

/-- INT_WRAP stays set. -/
theorem intChunks_flag_of_set (cs : List (List (Int × Int))) (v : Int) : (cs.foldl intChunk (v, true)).2 = true := by
  refine List.foldlRecOn cs _ (motive := fun r : Int × Bool => r.2 = true) rfl fun r hr c _ => ?_
  by_cases h : LeavesInt32 (r.1 + exactSum c)
  · rw [intChunk_of_leaves h]
  · rwa [intChunk_of_stays h]

/-- Up to the first chunk that leaves the range the running value is exact, so that chunk is the first whose exact value leaves it. -/
theorem intChunks_flag_iff (cs : List (List (Int × Int))) {v : Int} (hv : ¬LeavesInt32 v) :
    (cs.foldl intChunk (v, false)).2 = true ↔ ∃ k, LeavesInt32 (v + exactSum (cs.take k).flatten) := by
  induction cs generalizing v with
  | nil => simp [hv]
  | cons c cs ih =>
    have hshift : (∃ k, LeavesInt32 (v + exactSum ((c :: cs).take k).flatten)) ↔
        ∃ k, LeavesInt32 (v + exactSum c + exactSum (cs.take k).flatten) := by
      rw [← Nat.or_exists_add_one]
      simp [hv, add_assoc]
    rw [List.foldl_cons, hshift]
    by_cases h : LeavesInt32 (v + exactSum c)
    · rw [intChunk_of_leaves h]
      exact iff_of_true (intChunks_flag_of_set ..) ⟨0, by simpa using h⟩
    · rw [intChunk_of_stays h]
      exact ih h

/-! ### The element -/

/-- The exact sum of the products of a row and a column. -/
theorem exactSum_fvInt (ab : List (FV × FV)) :
    exactSum (ab.map (fun p => (fvInt p.1, fvInt p.2))) = (ab.map (fun p => fvInt p.1 * fvInt p.2)).sum := by
  rw [exactSum, List.map_map]
  rfl

theorem newElement_int32_code (fp : Bool) (x0 : AccEl) (ab : List (FV × FV)) :
    ((newElement .int32 fp x0 ab).1.code : Int) = (toSigned 32 x0.code + (ab.map (fun p => fvInt p.1 * fvInt p.2)).sum) % 2 ^ 32 := by
  have h := intChunks_modEq (pieces 256 (ab.map (fun p => (fvInt p.1, fvInt p.2)))) (toSigned 32 x0.code, false)
  rw [pieces_flatten (by norm_num), exactSum_fvInt, ← intElement_eq] at h
  exact (ofSigned_cast _).trans h

theorem newElement_int32_wrap (fp : Bool) (x0 : AccEl) (ab : List (FV × FV)) :
    (newElement .int32 fp x0 ab).2.2 = true ↔
      ∃ k, LeavesInt32 (toSigned 32 x0.code + ((ab.take (256 * k)).map (fun p => fvInt p.1 * fvInt p.2)).sum) := by
  have h := intChunks_flag_iff (pieces 256 (ab.map (fun p => (fvInt p.1, fvInt p.2)))) (not_leavesInt32_toSigned x0.code)
  simp only [pieces_take_flatten (show 0 < 256 by norm_num), ← List.map_take, exactSum_fvInt, ← intElement_eq] at h
  exact h

end Sys2Proof.Machine
end

section
/-! SUPPORT. What completing an operation and posting a message leave of the cores, and an operation that a core's settling leaves alone
(spec/02 R115, spec/07 R203-R212, R215). -/

namespace Sys2Proof.Machine

variable {s t u : State} {sl : Nat} {o x : Op}

/-! ### Effects outside the cores -/

theorem cores_ite (c : Prop) [Decidable c] (ht : t.cores = s.cores) (hu : u.cores = s.cores) :
    (if c then t else u).cores = s.cores := by
  split
  · exact ht
  · exact hu

theorem hbmWriteLine_cores (s : State) (h a : Nat) (bs : List Byte) (l : Nat) : (hbmWriteLine s h a bs l).cores = s.cores := by
  have hline (w : Bool) : (lineWrite s l h w).cores = s.cores := (sliceOnly_lineWrite ..).cores
  unfold hbmWriteLine
  extract_lets
  exact cores_ite _ rfl (cores_ite _ (hline _) (hline _))

theorem hbmWrite_cores (s : State) (h a : Nat) (bs : List Byte) : (hbmWrite s h a bs).cores = s.cores :=
  List.foldlRecOn _ _ (motive := fun t : State => t.cores = s.cores) rfl fun t ht l _ => (hbmWriteLine_cores t h a bs l).trans ht

theorem localWrite_cores (s : State) (a : Nat) (bs : List Byte) : (localWrite s a bs).cores = s.cores := wakeNow_cores ..

theorem setHdrW_cores (s : State) (sl q i v : Nat) : (setHdrW s sl q i v).cores = s.cores := localWrite_cores ..

theorem memWrite_cores (s : State) (h a : Nat) (bs : List Byte) : (memWrite s h a bs).cores = s.cores :=
  cores_ite _ rfl (cores_ite _ (hbmWrite_cores ..) (localWrite_cores ..))

theorem ringPut_cores (s : State) (r : Nat) (bs : List Byte) : (ringPut s r bs).cores = s.cores := by
  unfold ringPut
  extract_lets
  refine cores_ite _ ?_ ?_
  · exact (State.addCtr_cores ..).trans (cores_ite _ (State.raise_cores ..) rfl)
  · exact (State.setF_cores ..).trans (memWrite_cores ..)

theorem glint_cores (s : State) (b : Nat) (n : Option Nat) (bs : List Byte) : (glint s b n bs).cores = s.cores :=
  List.foldlRecOn _ _ (motive := fun t : State => t.cores = s.cores) rfl fun _ ht _ _ => cores_ite _ ((ringPut_cores ..).trans ht) ht

theorem glintOp_cores (s : State) (sl : Nat) (o : Op) (typ st det fl : Nat) : (glintOp s sl o typ st det fl).cores = s.cores := by
  unfold glintOp
  split
  · rfl
  · exact glint_cores ..

theorem account_cores (s : State) (f ns hbm link nj : Nat) : (account s f ns hbm link nj).cores = s.cores := by
  unfold account addEnergy
  dsimp only
  rw [State.addCtr_cores, State.addCtr_cores, State.addCtr_cores, State.addCtr_cores, State.addCtr_cores]

theorem noteRun_cores (s : State) (sl q seq st det : Nat) : (noteRun s sl q seq st det).cores = s.cores := rfl

/-- A record is bytes in memory, counters and signals (R115). -/
theorem writeRecord_cores (s : State) (sl : Nat) (o : Op) (r : Rec) : (writeRecord s sl o r).cores = s.cores := by
  unfold writeRecord
  extract_lets _ _ _ _ s1 s2 s3 s4
  have hrecord : s1.cores = s.cores := cores_ite _ rfl ((setHdrW_cores ..).trans (localWrite_cores ..))
  have hevent : s2.cores = s.cores := cores_ite _ ((State.setF_cores ..).trans hrecord) hrecord
  have hirq : s3.cores = s.cores := cores_ite _ hevent hevent
  exact (glintOp_cores ..).trans ((noteRun_cores ..).trans ((account_cores ..).trans hirq))

theorem rqStatus_cores (s : State) (sl r : Nat) : (rqStatus s sl r).cores = s.cores :=
  ((State.setF_cores ..).trans (State.setF_cores ..)).trans (State.setF_cores ..)

theorem unreachReply_cores (s : State) (m : NetMsg) : (unreachReply s m).cores = s.cores := by
  unfold unreachReply
  split <;> rfl

theorem submit_cores (s : State) (port : Option Nat) (r : WReq) (org : WOrigin) : (submit s port r org).1.cores = s.cores := by
  unfold submit
  split <;> rfl

theorem respond_cores (s : State) (via vc dst tag reqId code arg : Nat) (bs : List Byte) :
    (respond s via vc dst tag reqId code arg bs).cores = s.cores := by
  unfold respond
  split <;> rfl

/-- A message waits on the package or on a link until a command delivers it (R215). -/
theorem post_cores (s : State) (m : NetMsg) : (s.post m).cores = s.cores := by
  unfold State.post
  refine cores_ite _ rfl (cores_ite _ ?_ ?_)
  · exact cores_ite _ (submit_cores ..) ((unreachReply_cores ..).trans (submit_cores ..))
  · split
    · rfl
    · exact respond_cores ..

theorem fromChan_cores (s : State) (sl c tag : Nat) (d : Nat × Nat × Nat) (b : NetBody) :
    (fromChan s sl c tag d b).cores = s.cores := post_cores ..

/-! ### An operation that stays -/

theorem putRaw_putRaw {α : Type} (m : List (Nat × α)) (a : Nat) (v w : α) : putRaw (putRaw m a v) a w = putRaw m a w := by
  induction m with
  | nil => simp [putRaw]
  | cons h t ih => grind [putRaw]

/-- Every operation of core `sl` with the tag of `o` is `o`, and the core stands where a store of it goes. -/
structure HoldsOp (sl : Nat) (o : Op) (s : State) : Prop where
  stored : putRaw s.cores sl (s.core sl) = s.cores
  only : ∀ x ∈ (s.core sl).ops, x.tag = o.tag → x = o

theorem HoldsOp.congr (h : HoldsOp sl o s) (hc : t.cores = s.cores) : HoldsOp sl o t := by
  have hcore : t.core sl = s.core sl := by rw [State.core, hc, State.core]
  obtain ⟨hstored, honly⟩ := h
  exact ⟨by rw [hcore, hc, hstored], by rwa [hcore]⟩

theorem holdsOp_modCore {f : Core → Core} (h : ∀ x ∈ (f (s.core sl)).ops, x.tag = o.tag → x = o) : HoldsOp sl o (s.modCore sl f) := by
  have hcore : (s.modCore sl f).core sl = f (s.core sl) := by rw [State.core_modCore, if_pos rfl]
  exact ⟨by rw [hcore]; exact putRaw_putRaw .., by rwa [hcore]⟩

theorem holdsOp_updOp (s : State) (sl : Nat) (o : Op) : HoldsOp sl o (updOp s sl o) := by
  refine holdsOp_modCore fun x hx htag => ?_
  obtain ⟨y, -, rfl⟩ := List.mem_map.mp hx
  by_cases hy : y.tag = o.tag
  · exact if_pos hy
  · rw [if_neg hy] at htag
    exact absurd htag hy

namespace HoldsOp

/-- Storing it once more changes nothing. -/
theorem updOp_self (h : HoldsOp sl o s) : updOp s sl o = s := by
  have hops : (s.core sl).ops.map (fun x => if x.tag = o.tag then o else x) = (s.core sl).ops := by
    refine (List.map_congr_left fun x hx => ?_).trans (List.map_id _)
    split
    · exact (h.only x hx ‹_›).symm
    · rfl
  have hcores : putRaw s.cores sl { s.core sl with ops := (s.core sl).ops.map (fun x => if x.tag = o.tag then o else x) } = s.cores := by
    rw [hops]
    exact h.stored
  exact congrArg (fun m => { s with cores := m }) hcores

theorem updOp_other (h : HoldsOp sl o s) (hx : x.tag ≠ o.tag) : HoldsOp sl o (updOp s sl x) := by
  refine holdsOp_modCore fun y hy htag => ?_
  obtain ⟨z, hz, rfl⟩ := List.mem_map.mp hy
  by_cases hzx : z.tag = x.tag
  · rw [if_pos hzx] at htag
    exact absurd htag hx
  · rw [if_neg hzx] at htag ⊢
    exact h.only z hz htag

/-- Another kind of operation has another tag. -/
theorem tag_ne (h : HoldsOp sl o s) (hx : x ∈ (s.core sl).ops) (hopc : x.opc ≠ o.opc) : x.tag ≠ o.tag :=
  fun htag => hopc (congrArg Op.opc (h.only x hx htag))

/-! ### Settling -/

theorem releaseMsgs (h : HoldsOp sl o s) (r : Nat) (p : RxMsg → Bool) : HoldsOp sl o (releaseMsgs s sl r p) := by
  have hq (y : RxQ) : HoldsOp sl o (s.setRq sl r y) := holdsOp_modCore h.only
  exact (hq _).congr ((rqStatus_cores ..).trans (State.setF_cores ..))

/-- The record of another operation is written or waits for the ring (R115, R116). -/
theorem finishWith (h : HoldsOp sl o s) (hx : x.tag ≠ o.tag) (st : Nat) : HoldsOp sl o (finishWith s sl x st) := by
  unfold Machine.finishWith finish
  extract_lets r s1 o1 o2
  have hfree : HoldsOp sl o s1 :=
    List.foldlRecOn _ _ (motive := HoldsOp sl o) (h.congr rfl) fun t ht r _ => ht.releaseMsgs r _
  split_ifs
  · refine holdsOp_modCore fun y hy htag => ?_
    rcases List.mem_append.mp hy with hy | hy
    · exact hfree.only y (List.mem_filter.mp hy).1 htag
    · rw [List.mem_singleton.mp hy] at htag
      exact absurd htag hx
  · have hgone := holdsOp_modCore (s := s1) (sl := sl) (o := o) (f := fun c =>
      { c with ops := c.ops.filter (fun y => y.tag ≠ o1.tag), drainQ := c.drainQ.filter (fun y => y ≠ o1.tag) })
      fun y hy htag => hfree.only y (List.mem_filter.mp hy).1 htag
    exact hgone.congr (writeRecord_cores ..)

/-- CHANNEL_CLOSE operations end (Table 7.4). -/
theorem endCloses (h : HoldsOp sl o s) (hopc : o.opc ≠ 0x2B) (c : Nat) : HoldsOp sl o (endCloses s sl c) := by
  refine List.foldlRecOn _ _ (motive := HoldsOp sl o) h fun t ht x hx => ht.finishWith ?_ _
  obtain ⟨hmem, hclose⟩ := List.mem_filter.mp hx
  simp only [Bool.and_eq_true, decide_eq_true_eq] at hclose
  exact h.tag_ne hmem fun hxo => hopc (hxo ▸ hclose.1.1)

theorem checkClosed (h : HoldsOp sl o s) (hopc : o.opc ≠ 0x2B) (c : Nat) : HoldsOp sl o (checkClosed s sl c) := by
  unfold Machine.checkClosed
  split_ifs
  · unfold enterClosed
    extract_lets t _ u
    have ht : t.cores = s.cores := State.setF_cores ..
    exact (h.congr (cores_ite _ ((fromChan_cores ..).trans ht) ht)).endCloses hopc c
  · exact h

theorem unbindPort (h : HoldsOp sl o s) (p : Nat) : HoldsOp sl o (unbindPort s sl p) := h.congr (State.setF_cores ..)

theorem bindPort (h : HoldsOp sl o s) (p r ctx : Nat) : HoldsOp sl o (bindPort s sl p r ctx) := by
  unfold Machine.bindPort
  extract_lets s1 s2
  have hfreed : HoldsOp sl o s1 :=
    List.foldlRecOn _ _ (motive := HoldsOp sl o) h fun t ht k _ => by
      split_ifs
      · exact ht.unbindPort k
      · exact ht
  exact holdsOp_modCore (hfreed.congr (t := s2) (State.setF_cores ..)).only

/-- A RECV discards, binds or completes (R208). -/
theorem recvMove (h : HoldsOp sl o s) (hx : x.tag ≠ o.tag) (ht : recvMove s sl x = some t) : HoldsOp sl o t := by
  unfold Machine.recvMove at ht
  extract_lets _ _ _ _ _ s1 at ht
  split_ifs at ht
  · obtain rfl := Option.some.inj ht
    exact (h.releaseMsgs ..).updOp_other hx
  · have hbound : HoldsOp sl o s1 := by
      unfold s1
      split_ifs
      · exact h.unbindPort _
      · exact h.bindPort ..
    obtain rfl := Option.some.inj ht
    exact hbound.updOp_other hx
  · obtain rfl := Option.some.inj ht
    exact h.finishWith hx _

theorem recvPump (h : HoldsOp sl o s) (hopc : o.opc ≠ 0x29) (n : Nat) : HoldsOp sl o (recvPump n s sl) := by
  induction n generalizing s with
  | zero => exact h
  | succ n ih =>
    unfold Machine.recvPump
    split
    · exact h
    next t ht =>
      obtain ⟨x, hx, hmove⟩ := List.exists_of_findSome?_eq_some ht
      obtain ⟨hmem, hrecv⟩ := List.mem_filter.mp hx
      simp only [Bool.and_eq_true, decide_eq_true_eq] at hrecv
      exact ih (h.recvMove (h.tag_ne hmem fun hxo => hopc (hxo ▸ hrecv.1)) hmove)

/-- Grant requests go out (R202, R204). -/
theorem pumpSends (h : HoldsOp sl o s) (hopc : o.opc ≠ 0x28) (n : Nat) : HoldsOp sl o (pumpSends n s sl) := by
  induction n generalizing s with
  | zero => exact h
  | succ n ih =>
    unfold Machine.pumpSends
    split
    · exact h
    next x hx =>
      have hsend := List.find?_some hx
      simp only [Bool.and_eq_true, decide_eq_true_eq] at hsend
      have hne : x.tag ≠ o.tag := h.tag_ne (List.mem_of_find?_eq_some hx) fun hxo => hopc (hxo ▸ hsend.1.1.1)
      extract_lets c d q aux s1 s2
      have hsent : HoldsOp sl o s1 := h.updOp_other hne
      exact ih (hsent.congr ((fromChan_cores ..).trans (State.setF_cores ..)))

/-- A core's channel ports settle around an operation that is no SEND, RECV or CHANNEL_CLOSE. -/
theorem settle (h : HoldsOp sl o s) (hsend : o.opc ≠ 0x28) (hrecv : o.opc ≠ 0x29) (hclose : o.opc ≠ 0x2B) :
    HoldsOp sl o (settle s sl) := by
  have hended : HoldsOp sl o (closeEnded (Machine.recvPump 512 s sl) sl) :=
    List.foldlRecOn _ _ (motive := HoldsOp sl o) (h.recvPump hrecv _) fun t ht c _ => ht.checkClosed hclose c
  exact hended.pumpSends hsend _

end HoldsOp

end Sys2Proof.Machine
end

section
/-! An INT32 tile element is the exact sum modulo 2^32, and INT_WRAP says that a chunk left the range (spec/03, R76). -/

namespace Sys2Proof.Machine

variable {s : State} {sl tag : Nat} {o : Op} {els : List (Nat × AccEl)} {ls wr : Bool}

/-- The elements that a tile of `o` starts from: those in its slot when it accumulates onto a tile of its own mode (R72). -/
def tileStart (s : State) (sl : Nat) (o : Op) : List (Nat × AccEl) :=
  if mAccum o.tod && (s.core sl).tag (tileSlot o.tod o.mode o.tile) = .mode o.mode then (s.core sl).tile (tileSlot o.tod o.mode o.tile) else []

/-- The operand bytes that a tile of `o` reads. -/
def operandRuns (o : Op) : List (Nat × Nat) :=
  tileRuns (dscD o.descs 0) (o.opc ≠ 2) (tileRowsOf o.tod o.tile) ++ tileRuns (dscD o.descs 1) (o.opc = 3) (tileColsOf o.tod o.tile)

/-- The operation after a tile: it counts on, and LONGSUM and INT_WRAP of the tile join its flags (R73, R76). -/
def tiled (o : Op) (ls wr : Bool) : Op :=
  { o with
    tile := o.tile + 1
    stage := if o.tile + 1 = tileCount o.tod then OpStage.finishing else OpStage.running
    res := { o.res with flags := flOr o.res.flags ((if ls then flLongsum else 0) + (if wr then flIntWrap else 0)) } }

/-- INT_WRAP is bit 1 of the flags. -/
theorem bitN_tiled_flags (o : Op) (ls : Bool) : bitN (tiled o ls true).res.flags 1 = true := by
  have hwrap : ((if ls then flLongsum else 0) + flIntWrap).testBit 1 = true := by cases ls <;> decide
  have hflags : (tiled o ls true).res.flags.testBit 1 = true := by
    show (o.res.flags ||| ((if ls then flLongsum else 0) + flIntWrap)).testBit 1 = true
    rw [Nat.testBit_or, hwrap, Bool.or_true]
  rwa [Nat.testBit_eq_decide_div_mod_eq] at hflags

/-- A tile that meets no ECC event and no poison, and of which no NaN is trapped, only stores its elements and updates its operation. -/
theorem matrixTile_untrapped (hclean : anyPoison s sl (operandRuns o) = false)
    (hres : tileResult ⟨(opView s sl o).1, sl⟩ (opView s sl o).2 o (tileStart s sl o) o.tile = (els, ls, wr))
    (htrap : mDrain o.tod = true ∨ tileNan o.tod o.tile o.mode els = none) :
    ∃ u, matrixTile s sl o [] = updOp u sl (tiled o ls wr) := by
  have hnan : (if mDrain o.tod then none else tileNan o.tod o.tile o.mode els) = none := by
    split_ifs with hd
    · rfl
    · exact htrap.resolve_left hd
  unfold tileStart at hres
  unfold operandRuns at hclean
  unfold matrixTile
  have hacc (b n : Nat) : accEcc s sl b n [] = (s, none) := rfl
  have hecc : eccEvents s sl o [] = (s, false) := rfl
  simp only [hacc, ite_self, List.filter_nil, hecc, Bool.false_or, hclean, Bool.false_eq_true, if_false, hres, hnan]
  exact ⟨_, rfl⟩

theorem exec_matrixTileDone_running (ecc : List EccEvent) (hop : opOf s sl tag = some o) (hrun : o.stage = .running)
    (hlo : 1 ≤ o.opc) (hhi : o.opc ≤ 3) (htile : o.tile < tileCount o.tod) :
    exec (.matrixTileDone sl tag ecc) s = .next (ended s (settle (matrixTile s sl o ecc) sl)) := by
  show execMatrixTileDone sl tag ecc s = _
  unfold execMatrixTileDone
  simp [hop, hrun, hlo, hhi, htile]

/-- The operation that a tile leaves behind stands in the settled core, so the step has stored it. -/
theorem exec_matrixTileDone_untrapped (hop : opOf s sl tag = some o) (hrun : o.stage = .running) (hlo : 1 ≤ o.opc) (hhi : o.opc ≤ 3)
    (htile : o.tile < tileCount o.tod) (hclean : anyPoison s sl (operandRuns o) = false)
    (hres : tileResult ⟨(opView s sl o).1, sl⟩ (opView s sl o).2 o (tileStart s sl o) o.tile = (els, ls, wr))
    (htrap : mDrain o.tod = true ∨ tileNan o.tod o.tile o.mode els = none) :
    ∃ u, exec (.matrixTileDone sl tag []) s = .next (ended s (updOp u sl (tiled o ls wr))) := by
  obtain ⟨u, hu⟩ := matrixTile_untrapped hclean hres htrap
  have hopc : (tiled o ls wr).opc ≤ 3 := hhi
  have hheld : HoldsOp sl (tiled o ls wr) (settle (updOp u sl (tiled o ls wr)) sl) :=
    (holdsOp_updOp ..).settle (by omega) (by omega) (by omega)
  exact ⟨_, by rw [hheld.updOp_self, exec_matrixTileDone_running [] hop hrun hlo hhi htile, hu]⟩

/-- Settles O56: a wrap keeps the value modulo 2^32, and the running value is exact until the first. -/
theorem integerTileSum : Obligations.IntegerTileSum := by
  unfold Obligations.IntegerTileSum
  refine ⟨fun x0 fp ab _ => ⟨newElement_int32_code fp x0 ab, newElement_int32_wrap fp x0 ab, rfl⟩, ?_⟩
  intro s sl tag o els ls hop hrun hlo hhi htile _ hclean hres htrap
  obtain ⟨u, hu⟩ := exec_matrixTileDone_untrapped hop hrun hlo hhi htile hclean hres htrap
  exact ⟨u, tiled o ls true, hu, bitN_tiled_flags o ls, rfl⟩

end Sys2Proof.Machine
end

section
/-! Every command answers `ended` of the state it makes, so what `ended` keeps holds after every step. -/
namespace Sys2Proof.Machine

/-- A command's answer: its work `u` with the queue and fuses it found, and no bad write left over. -/
def Ends (s : State) (r : Res) : Prop := ∃ u, r = .next (ended s u)

theorem ends_done (s u : State) : Ends s (done s u) := ⟨u, rfl⟩

theorem Ends.ite {s : State} {r r' : Res} {c : Prop} [Decidable c] (h : Ends s r) (h' : Ends s r') : Ends s (if c then r else r') := by
  split
  · exact h
  · exact h'

/-- Every command ends: most arms answer `done` at once, and those that check an address first answer it in each branch. -/
theorem exec_ends (c : Instr) (s : State) : Ends s (exec c s) := by
  cases c with
  | controlCoreAmo cl hart op wide addr data =>
    exact .ite (ends_done ..) (.ite (ends_done ..) (.ite (ends_done ..) (ends_done ..)))
  | loadReserved cl hart wide addr =>
    exact .ite (ends_done ..) (.ite (ends_done ..) (ends_done ..))
  | storeConditional cl hart wide addr data =>
    exact .ite (ends_done ..) (.ite (ends_done ..) (.ite (ends_done ..) (ends_done ..)))
  | sliceRequest op addr len hint data ecc =>
    refine .ite (ends_done ..) (.ite (ends_done ..) ?_)
    cases op with
    | read => exact ends_done ..
    | write => exact .ite (ends_done ..) (ends_done ..)
    | atomic _ => exact ends_done ..
  | sliceAtomic code addr operand compare ecc =>
    exact .ite (ends_done ..) (.ite (ends_done ..) (.ite (ends_done ..) (ends_done ..)))
  | _ => exact ⟨_, rfl⟩

/-- An answered command answers its work, ended. -/
theorem exec_next {c : Instr} {s t : State} (h : exec c s = .next t) : ∃ u, t = ended s u := by
  obtain ⟨u, hu⟩ := exec_ends c s
  rw [hu] at h
  exact ⟨u, (Host.Outcome.next.inj h).symm⟩

/-- What `ended` leaves of a state with Inv has Inv, whatever the command's work was. -/
theorem inv_ended {s u : State} (h : Inv s) : Inv (ended s u) := ⟨h.1, rfl⟩

/-- Settles O2: on an empty queue the tick touches the time base alone, and a command answers `ended`. -/
theorem stepKeepsFusesAndQueue : Obligations.StepKeepsFusesAndQueue := by
  intro s t hinv hstep
  unfold step at hstep
  cases hq : s.pending with
  | nil =>
    simp only [hq] at hstep
    cases hstep
    exact ⟨hinv, hq⟩
  | cons c rest =>
    simp only [hq] at hstep
    obtain ⟨u, rfl⟩ := exec_next hstep
    exact ⟨inv_ended hinv, rfl⟩

end Sys2Proof.Machine
end

section
/-! Packed fields read back, little-endian byte strings invert, and one damaged bit of a byte string is one damaged byte. -/
namespace Sys2Proof.Machine

/-! ### Packed fields -/

/-- Fields (value, lsb, width) listed by rising place that do not overlap. -/
def Packable (fs : List (Nat × Nat × Nat)) : Prop := fs.Pairwise (fun f g => f.2.1 + f.2.2 ≤ g.2.1)

theorem sumN_eq_sum (l : List Nat) : sumN l = l.sum := List.sum_eq_foldl.symm

theorem packBits_cons (f : Nat × Nat × Nat) (fs : List (Nat × Nat × Nat)) :
    packBits (f :: fs) = f.1 % 2 ^ f.2.2 * 2 ^ f.2.1 + packBits fs := by
  simp [packBits, sumN_eq_sum]

/-- Fields at or above a place make a multiple of its weight. -/
theorem dvd_packBits {n : Nat} {fs : List (Nat × Nat × Nat)} (h : ∀ f ∈ fs, n ≤ f.2.1) : 2 ^ n ∣ packBits fs := by
  induction fs with
  | nil => exact Nat.dvd_zero _
  | cons f fs ih =>
    rw [packBits_cons]
    have hf : 2 ^ n ∣ 2 ^ f.2.1 := Nat.pow_dvd_pow 2 (h f (by simp))
    exact Nat.dvd_add (hf.mul_left _) (ih fun g hg => h g (by simp [hg]))

/-- A number below a place adds nothing to the fields above it. -/
theorem bitsN_low_add {a m n lsb w : Nat} (ha : a < 2 ^ n) (hm : 2 ^ n ∣ m) (hl : n ≤ lsb) : bitsN (a + m) lsb w = bitsN m lsb w := by
  obtain ⟨k, rfl⟩ := hm
  obtain ⟨j, rfl⟩ := Nat.exists_eq_add_of_le hl
  unfold bitsN
  rw [Nat.pow_add, ← Nat.div_div_eq_div_mul, ← Nat.div_div_eq_div_mul, Nat.add_mul_div_left _ _ (by positivity),
    Nat.div_eq_of_lt ha, Nat.mul_div_cancel_left _ (by positivity), Nat.zero_add]

/-- A packed field reads as its value. -/
theorem bitsN_packBits {fs : List (Nat × Nat × Nat)} (hfs : Packable fs) {x lsb w : Nat} (h : (x, lsb, w) ∈ fs) :
    bitsN (packBits fs) lsb w = x % 2 ^ w := by
  induction fs with
  | nil => cases h
  | cons f fs ih =>
    obtain ⟨habove, hrest⟩ := List.pairwise_cons.mp hfs
    rw [packBits_cons]
    rcases List.mem_cons.mp h with rfl | hmem
    · obtain ⟨k, hk⟩ := dvd_packBits habove
      dsimp only at hk ⊢
      unfold bitsN
      rw [hk, Nat.pow_add, Nat.mul_assoc, Nat.mul_comm (x % 2 ^ w), ← Nat.mul_add, Nat.mul_div_cancel_left _ (by positivity),
        Nat.add_mul_mod_self_left, Nat.mod_mod]
    · rw [bitsN_low_add _ (dvd_packBits habove) (habove _ hmem), ih hrest hmem]
      rw [Nat.add_comm f.2.1, Nat.pow_add]
      exact Nat.mul_lt_mul_of_pos_right (Nat.mod_lt _ (by positivity)) (by positivity)

/-- The same with the value's width known. -/
theorem bitsN_packBits_fits {fs : List (Nat × Nat × Nat)} (hfs : Packable fs) {x lsb w : Nat} (h : (x, lsb, w) ∈ fs) (hx : x < 2 ^ w) :
    bitsN (packBits fs) lsb w = x := by
  rw [bitsN_packBits hfs h, Nat.mod_eq_of_lt hx]

/-- A packed flag reads as it is. -/
theorem bitN_packBits {fs : List (Nat × Nat × Nat)} (hfs : Packable fs) {b : Bool} {lsb : Nat} (h : (b2n b, lsb, 1) ∈ fs) :
    bitN (packBits fs) lsb = b := by
  have hbit := bitsN_packBits hfs h
  unfold bitsN at hbit
  unfold bitN
  rw [Nat.pow_one] at hbit
  simp [hbit]

/-- Cutting a number above a field keeps the field. -/
theorem bitsN_mod {v n lsb w : Nat} (h : lsb + w ≤ n) : bitsN (v % 2 ^ n) lsb w = bitsN v lsb w := by
  obtain ⟨k, rfl⟩ := Nat.exists_eq_add_of_le h
  unfold bitsN
  rw [Nat.add_assoc, Nat.pow_add, Nat.mod_mul_right_div_self, Nat.pow_add, Nat.mod_mul_right_mod]

theorem bitN_mod {v n i : Nat} (h : i < n) : bitN (v % 2 ^ n) i = bitN v i := by
  have hbit := bitsN_mod (v := v) (w := 1) h
  unfold bitsN at hbit
  unfold bitN
  rw [Nat.pow_one] at hbit
  rw [hbit]

/-- A packed field that fits reads back from a word that holds it. -/
theorem bitsN_packBits_word {fs : List (Nat × Nat × Nat)} (hfs : Packable fs) {x lsb w n : Nat} (h : (x, lsb, w) ∈ fs) (hn : lsb + w ≤ n)
    (hx : x < 2 ^ w) : bitsN (packBits fs % 2 ^ n) lsb w = x := by
  rw [bitsN_mod hn, bitsN_packBits_fits hfs h hx]

theorem bitN_packBits_word {fs : List (Nat × Nat × Nat)} (hfs : Packable fs) {b : Bool} {lsb n : Nat} (h : (b2n b, lsb, 1) ∈ fs)
    (hn : lsb < n) : bitN (packBits fs % 2 ^ n) lsb = b := by
  rw [bitN_mod hn, bitN_packBits hfs h]

/-! ### Byte strings -/

@[simp] theorem upto_length (n : Nat) : (upto n).length = n := by
  induction n with
  | zero => rfl
  | succ n ih => simp [upto, ih]

@[simp] theorem padTo_length (n : Nat) (bs : List Byte) : (padTo n bs).length = max n bs.length := by
  unfold padTo
  rw [List.length_append, List.length_map, upto_length]
  omega

theorem leNat_lt (bs : List Byte) : leNat bs < 2 ^ (8 * bs.length) := by
  induction bs with
  | nil => exact Nat.one_pos
  | cons b bs ih =>
    rw [leNat, List.length_cons, show 8 * (bs.length + 1) = 8 + 8 * bs.length by ring, Nat.pow_add]
    have hb := b.isLt
    omega

theorem leNat_cons_mod (b : Byte) (bs : List Byte) : leNat (b :: bs) % 2 ^ 8 = b.toNat := by
  have := b.isLt
  rw [leNat]
  omega

theorem leNat_cons_div (b : Byte) (bs : List Byte) : leNat (b :: bs) / 2 ^ 8 = leNat bs := by
  have := b.isLt
  rw [leNat]
  omega

/-- A byte string is the bytes of its number. -/
theorem leBytes_leNat (bs : List Byte) : leBytes bs.length (leNat bs) = bs := by
  induction bs with
  | nil => rfl
  | cons b bs ih =>
    have hb : BitVec.ofNat 8 (leNat (b :: bs)) = b := by
      apply BitVec.eq_of_toNat_eq
      rw [BitVec.toNat_ofNat, leNat_cons_mod]
    rw [List.length_cons, leBytes, hb, show 256 = 2 ^ 8 by rfl, leNat_cons_div, ih]

/-- Byte strings of one length with one number are the same. -/
theorem leNat_injective {xs ys : List Byte} (hlen : xs.length = ys.length) (h : leNat xs = leNat ys) : xs = ys := by
  rw [← leBytes_leNat xs, ← leBytes_leNat ys, hlen, h]

/-- A bit of a byte string inverted: one byte differs, and it stands where the bit does. -/
theorem leBytes_xor_bit (bs : List Byte) {bit : Nat} (h : bit < 8 * bs.length) :
    ∃ pre b d post, bs = pre ++ b :: post ∧ d ≠ b ∧ leBytes bs.length (leNat bs ^^^ 2 ^ bit) = pre ++ d :: post := by
  induction bs generalizing bit with
  | nil => simp at h
  | cons b bs ih =>
    have hlow : (leNat (b :: bs) ^^^ 2 ^ bit) % 2 ^ 8 = b.toNat ^^^ 2 ^ bit % 2 ^ 8 := by
      rw [Nat.xor_mod_two_pow, leNat_cons_mod]
    have hhigh : (leNat (b :: bs) ^^^ 2 ^ bit) / 256 = leNat bs ^^^ 2 ^ bit / 2 ^ 8 := by
      rw [show 256 = 2 ^ 8 by rfl, Nat.xor_div_two_pow, leNat_cons_div]
    rw [List.length_cons, leBytes, hhigh]
    by_cases hbit : bit < 8
    · refine ⟨[], b, BitVec.ofNat 8 (leNat (b :: bs) ^^^ 2 ^ bit), bs, rfl, fun heq => ?_, ?_⟩
      · have hval := congrArg BitVec.toNat heq
        rw [BitVec.toNat_ofNat, hlow, Nat.mod_eq_of_lt (Nat.pow_lt_pow_right (by omega) hbit)] at hval
        have hzero : 2 ^ bit = 0 := Nat.xor_right_injective (hval.trans (Nat.xor_zero _).symm)
        exact absurd hzero (by positivity)
      · rw [Nat.div_eq_of_lt (Nat.pow_lt_pow_right (by omega) hbit), Nat.xor_zero, leBytes_leNat]
        rfl
    · obtain ⟨k, rfl⟩ := Nat.exists_eq_add_of_le (Nat.le_of_not_lt hbit)
      obtain ⟨pre, c, d, post, rfl, hne, hbytes⟩ := ih (bit := k) (by rw [List.length_cons] at h; omega)
      refine ⟨b :: pre, c, d, post, rfl, hne, ?_⟩
      have hkeep : BitVec.ofNat 8 (leNat (b :: (pre ++ c :: post)) ^^^ 2 ^ (8 + k)) = b := by
        apply BitVec.eq_of_toNat_eq
        rw [BitVec.toNat_ofNat, hlow, Nat.pow_add, Nat.mul_mod_right, Nat.xor_zero]
      rw [hkeep, Nat.pow_add, Nat.mul_div_cancel_left _ (by positivity), hbytes]
      rfl

end Sys2Proof.Machine
end

section
/-! CRC-32C tells byte strings that differ in one byte apart; flits read back as they were built (R18, R285). -/
namespace Sys2Proof.Machine

/-! ### CRC-32C is a 32-bit number, and its step loses nothing -/

theorem crc32cBit_lt {c : Nat} (h : c < 2 ^ 32) : crc32cBit c < 2 ^ 32 := by
  unfold crc32cBit
  split
  · exact Nat.xor_lt_two_pow (by omega) (by decide)
  · omega

/-- The polynomial has its top bit set, so the bit shifted out shows at the top. -/
theorem le_crc32cBit_odd {c : Nat} (h : c < 2 ^ 32) : 2 ^ 31 ≤ c / 2 ^^^ 0x82F63B78 := by
  have htop : (c / 2 ^^^ 0x82F63B78) / 2 ^ 31 = 1 := by
    rw [Nat.xor_div_two_pow, show c / 2 / 2 ^ 31 = 0 by omega]
    rfl
  omega

theorem crc32cBit_injective {c d : Nat} (hc : c < 2 ^ 32) (hd : d < 2 ^ 32) (h : crc32cBit c = crc32cBit d) : c = d := by
  have hctop := le_crc32cBit_odd hc
  have hdtop := le_crc32cBit_odd hd
  unfold crc32cBit at h
  split_ifs at h with hcodd hdodd hdodd
  · have hhalf : c / 2 = d / 2 := Nat.xor_left_injective h
    omega
  · omega
  · omega
  · omega

theorem crc32cByte_lt {c b : Nat} (hc : c < 2 ^ 32) (hb : b < 2 ^ 8) : crc32cByte c b < 2 ^ 32 := by
  have hx : c ^^^ b < 2 ^ 32 := Nat.xor_lt_two_pow hc (hb.trans (by decide))
  unfold crc32cByte
  iterate 8 apply crc32cBit_lt
  exact hx

/-- Eight bits of the step lose nothing either. -/
theorem xor_eq_of_crc32cByte_eq {c d a b : Nat} (hc : c < 2 ^ 32) (hd : d < 2 ^ 32) (ha : a < 2 ^ 8) (hb : b < 2 ^ 8)
    (h : crc32cByte c a = crc32cByte d b) : c ^^^ a = d ^^^ b := by
  have hx : c ^^^ a < 2 ^ 32 := Nat.xor_lt_two_pow hc (ha.trans (by decide))
  have hy : d ^^^ b < 2 ^ 32 := Nat.xor_lt_two_pow hd (hb.trans (by decide))
  unfold crc32cByte at h
  iterate 7 replace h := crc32cBit_injective (by repeat' first | exact hx | apply crc32cBit_lt) (by repeat' first | exact hy | apply crc32cBit_lt) h
  exact crc32cBit_injective hx hy h

/-- The CRC register after a byte string, from a start value. -/
def crcRun (c : Nat) (bs : List Byte) : Nat := bs.foldl (fun c b => crc32cByte c b.toNat) c

theorem crc32c_eq (bs : List Byte) : crc32c bs = crcRun 0xFFFFFFFF bs ^^^ 0xFFFFFFFF := rfl

theorem crcRun_lt (bs : List Byte) {c : Nat} (h : c < 2 ^ 32) : crcRun c bs < 2 ^ 32 :=
  List.foldlRecOn bs _ (motive := (· < 2 ^ 32)) h fun _ hd b _ => crc32cByte_lt hd b.isLt

theorem crc32c_lt (bs : List Byte) : crc32c bs < 2 ^ 32 := Nat.xor_lt_two_pow (crcRun_lt bs (by decide)) (by decide)

/-- Over the same bytes the register keeps two start values apart. -/
theorem crcRun_injective (bs : List Byte) {c d : Nat} (hc : c < 2 ^ 32) (hd : d < 2 ^ 32) (h : crcRun c bs = crcRun d bs) : c = d := by
  induction bs generalizing c d with
  | nil => exact h
  | cons b bs ih =>
    have hstep := ih (crc32cByte_lt hc b.isLt) (crc32cByte_lt hd b.isLt) h
    exact Nat.xor_left_injective (xor_eq_of_crc32cByte_eq hc hd b.isLt b.isLt hstep)

/-- One changed byte changes the CRC. -/
theorem crc32c_ne_of_byte {pre post : List Byte} {b d : Byte} (h : d ≠ b) : crc32c (pre ++ d :: post) ≠ crc32c (pre ++ b :: post) := by
  intro heq
  rw [crc32c_eq, crc32c_eq] at heq
  have hrun : crcRun 0xFFFFFFFF (pre ++ d :: post) = crcRun 0xFFFFFFFF (pre ++ b :: post) := Nat.xor_left_injective heq
  have hpre : crcRun 0xFFFFFFFF pre < 2 ^ 32 := crcRun_lt pre (by decide)
  unfold crcRun at hrun hpre
  rw [List.foldl_append, List.foldl_append, List.foldl_cons, List.foldl_cons] at hrun
  have hbyte := crcRun_injective post (crc32cByte_lt hpre d.isLt) (crc32cByte_lt hpre b.isLt) hrun
  have hval : d.toNat = b.toNat := Nat.xor_right_injective (xor_eq_of_crc32cByte_eq hpre hpre d.isLt b.isLt hbyte)
  exact h (BitVec.eq_of_toNat_eq hval)

theorem leNat_crc (bs : List Byte) : leNat (leBytes 4 (crc32c bs)) = crc32c bs := by
  rw [leNat_leBytes, Nat.mod_eq_of_lt (crc32c_lt bs)]

/-! ### A payload filled with zeros -/

theorem padTo_take_length {n : Nat} {bs : List Byte} : (padTo n (bs.take n)).length = n := by
  rw [padTo_length, List.length_take]
  omega

theorem padTo_take_prefix {n : Nat} {bs : List Byte} (h : bs.length ≤ n) : (padTo n (bs.take n)).take bs.length = bs := by
  rw [List.take_of_length_le h]
  exact List.take_left ..

theorem padTo_take_rest {n i : Nat} {bs : List Byte} (hlen : bs.length ≤ i) (hi : i < n) : (padTo n (bs.take n))[i]? = some 0#8 := by
  unfold padTo
  rw [List.take_of_length_le (by omega), List.getElem?_append_right hlen, List.getElem?_map, List.getElem?_eq_getElem (by simp; omega)]
  rfl

/-! ### Girth flits (R18, Table 1.3) -/

/-- What the CRC of a Girth flit covers. -/
def gBody (h : GHdr) (payload : List Byte) : List Byte :=
  leBytes 8 (gLow h) ++ padTo 112 (payload.take 112) ++ leBytes 4 (gHigh h)

theorem gBytes_eq (h : GHdr) (payload : List Byte) : gBytes h payload = gBody h payload ++ leBytes 4 (crc32c (gBody h payload)) := rfl

theorem gBody_length (h : GHdr) (payload : List Byte) : (gBody h payload).length = 124 := by
  unfold gBody
  rw [List.length_append, List.length_append, leBytes_length, leBytes_length, padTo_take_length]

theorem gBytes_length (h : GHdr) (payload : List Byte) : (gBytes h payload).length = 128 := by
  rw [gBytes_eq, List.length_append, gBody_length, leBytes_length]

theorem gCrcOk_iff {body tail : List Byte} (h : body.length = 124) :
    gCrcOk (body ++ tail) = true ↔ tail.length = 4 ∧ crc32c body = leNat tail := by
  unfold gCrcOk
  rw [List.take_left' h, List.drop_left' h, List.length_append, h, Bool.and_eq_true, decide_eq_true_iff, decide_eq_true_iff]
  exact and_congr_left fun _ => by omega

theorem gCrcOk_gBytes (h : GHdr) (payload : List Byte) : gCrcOk (gBytes h payload) = true :=
  (gCrcOk_iff (gBody_length h payload)).mpr ⟨leBytes_length .., (leNat_crc _).symm⟩

/-- A flit with one changed byte has a wrong CRC: it lies in what the CRC covers, or in the CRC. -/
theorem gCrcOk_of_byte {pre post : List Byte} {b d : Byte} (hlen : (pre ++ b :: post).length = 128) (hok : gCrcOk (pre ++ b :: post) = true)
    (hne : d ≠ b) : gCrcOk (pre ++ d :: post) = false := by
  rw [Bool.eq_false_iff]
  intro hbad
  rw [List.length_append, List.length_cons] at hlen
  by_cases hpre : pre.length < 124
  · have hsplit (x : Byte) : pre ++ x :: post = (pre ++ x :: post.take (123 - pre.length)) ++ post.drop (123 - pre.length) := by
      rw [List.append_assoc, List.cons_append, List.take_append_drop]
    have hbody (x : Byte) : (pre ++ x :: post.take (123 - pre.length)).length = 124 := by
      rw [List.length_append, List.length_cons, List.length_take]
      omega
    rw [hsplit, gCrcOk_iff (hbody _)] at hok hbad
    exact crc32c_ne_of_byte hne (hbad.2.trans hok.2.symm)
  · have hsplit (x : Byte) : pre ++ x :: post = pre.take 124 ++ (pre.drop 124 ++ x :: post) := by
      rw [← List.append_assoc, List.take_append_drop]
    have hbody : (pre.take 124).length = 124 := by
      rw [List.length_take]
      omega
    rw [hsplit, gCrcOk_iff hbody] at hok hbad
    have htail : pre.drop 124 ++ d :: post = pre.drop 124 ++ b :: post :=
      leNat_injective (hbad.1.trans hok.1.symm) (hbad.2.symm.trans hok.2)
    exact hne (List.cons.inj (List.append_cancel_left htail)).1

/-- The header's fields come back from the two words that hold them. -/
theorem gHdrOf_words {h : GHdr} (hfits : GHdrFits h) : gHdrOf (gLow h % 2 ^ 64) (gHigh h % 2 ^ 32) = h := by
  obtain ⟨hseq, hcls, hlen, hret, hcred, htag, hack, hsack⟩ := hfits
  have hlow : Packable [(h.seq, 0, 10), (h.cls, 10, 2), (h.len, 12, 3), (h.credRet, 16, 8), (h.credCls, 24, 2), (h.tag, 32, 14)] := by
    simp [Packable]
  have hhigh : Packable [(h.ackSeq, 0, 10), (h.sack, 10, 16), (b2n h.ackValid, 26, 1)] := by simp [Packable]
  cases h
  simp only [gHdrOf, GHdr.mk.injEq]
  exact ⟨bitsN_packBits_word hlow (by simp) (by decide) hseq, bitsN_packBits_word hlow (by simp) (by decide) hcls,
    bitsN_packBits_word hlow (by simp) (by decide) hlen, bitsN_packBits_word hlow (by simp) (by decide) hret,
    bitsN_packBits_word hlow (by simp) (by decide) hcred, bitsN_packBits_word hlow (by simp) (by decide) htag,
    bitsN_packBits_word hhigh (by simp) (by decide) hack, bitsN_packBits_word hhigh (by simp) (by decide) hsack,
    bitN_packBits_word hhigh (by simp) (by decide)⟩

/-- Settles O12: fields and payload stand where they are read, and the CRC's step loses nothing, so a changed byte shows at its end. -/
theorem girthFlitRoundTrip : Obligations.GirthFlitRoundTrip := by
  intro h payload hfits hlen fl
  have hparts : fl = leBytes 8 (gLow h) ++ (padTo 112 (payload.take 112) ++ (leBytes 4 (gHigh h) ++ leBytes 4 (crc32c (gBody h payload)))) := by
    show gBytes h payload = _
    rw [gBytes_eq, gBody, List.append_assoc, List.append_assoc]
  have hflen : fl.length = 128 := gBytes_length h payload
  have hcrc : gCrcOk fl = true := gCrcOk_gBytes h payload
  have hdrop : fl.drop 8 = padTo 112 (payload.take 112) ++ (leBytes 4 (gHigh h) ++ leBytes 4 (crc32c (gBody h payload))) := by
    rw [hparts, List.drop_left' (leBytes_length ..)]
  have hhigh : (fl.drop 120).take 4 = leBytes 4 (gHigh h) := by
    rw [show 120 = 8 + 112 by rfl, ← List.drop_drop, hdrop, List.drop_left' padTo_take_length, List.take_left' (leBytes_length ..)]
  refine ⟨hflen, hcrc, ?_, ?_, fun i hi hi2 => ?_, fun bit hbit => ?_⟩
  · rw [hhigh, hparts, List.take_left' (leBytes_length ..), leNat_leBytes, leNat_leBytes]
    exact gHdrOf_words hfits
  · rw [hdrop, List.take_append_of_le_length (by rw [padTo_take_length]; exact hlen), padTo_take_prefix hlen]
  · rw [← List.getElem?_drop, hdrop, List.getElem?_append_left (by rw [padTo_take_length]; exact hi2), padTo_take_rest hi hi2]
  · obtain ⟨pre, b, d, post, hfl, hne, hflip⟩ := leBytes_xor_bit fl (bit := bit) (by omega)
    rw [hflen] at hflip
    rw [hflip]
    rw [hfl] at hflen hcrc
    exact gCrcOk_of_byte hflen hcrc hne

/-! ### Wenlyn flits (R285, Table 11.1) -/

/-- Header and payload of a Wenlyn flit, without CRC and trailer. -/
def wBody (h : WHdr) (payload : List Byte) : List Byte :=
  leBytes 8 (hdrLow h) ++ leBytes 8 (hdrHigh h) ++ padTo 232 (payload.take 232)

/-- The CRC field of a Wenlyn flit. -/
def wCrc (h : WHdr) (payload : List Byte) (trailer : Nat) (bad : Bool) : Nat :=
  let c := crc32c (wBody h payload ++ leBytes 4 trailer)
  if bad then 2 ^ 32 - 1 - c else c

theorem flitBytes_eq (h : WHdr) (payload : List Byte) (trailer : Nat) (bad : Bool) :
    flitBytes h payload trailer bad = wBody h payload ++ (leBytes 4 (wCrc h payload trailer bad) ++ leBytes 4 trailer) := by
  rw [← List.append_assoc]
  rfl

theorem wBody_length (h : WHdr) (payload : List Byte) : (wBody h payload).length = 248 := by
  unfold wBody
  rw [List.length_append, List.length_append, leBytes_length, leBytes_length, padTo_take_length]

theorem wCrc_lt (h : WHdr) (payload : List Byte) (trailer : Nat) (bad : Bool) : wCrc h payload trailer bad < 2 ^ 32 := by
  have := crc32c_lt (wBody h payload ++ leBytes 4 trailer)
  unfold wCrc
  cases bad
  · exact this
  · exact Nat.lt_of_le_of_lt (Nat.sub_le ..) (by decide)

theorem flitBytes_length (h : WHdr) (payload : List Byte) (trailer : Nat) (bad : Bool) : (flitBytes h payload trailer bad).length = 256 := by
  rw [flitBytes_eq, List.length_append, List.length_append, wBody_length, leBytes_length, leBytes_length]

/-- Where the trailer stands. -/
theorem flitBytes_drop_252 (h : WHdr) (payload : List Byte) (trailer : Nat) (bad : Bool) :
    (flitBytes h payload trailer bad).drop 252 = leBytes 4 trailer := by
  rw [flitBytes_eq, show 252 = 248 + 4 by rfl, ← List.drop_drop, List.drop_left' (wBody_length ..), List.drop_left' (leBytes_length ..)]

/-- A flit's CRC is right when the CRC field holds the CRC. -/
theorem flitCrcOk_flitBytes_iff (h : WHdr) (payload : List Byte) (trailer : Nat) (bad : Bool) :
    flitCrcOk (flitBytes h payload trailer bad) = true ↔ crc32c (wBody h payload ++ leBytes 4 trailer) = wCrc h payload trailer bad := by
  unfold flitCrcOk
  rw [flitBytes_length, flitBytes_drop_252, flitBytes_eq, List.take_left' (wBody_length ..), List.drop_left' (wBody_length ..),
    List.take_left' (leBytes_length ..), leNat_leBytes, Nat.mod_eq_of_lt (wCrc_lt ..)]
  simp

theorem flitCrcOk_good (h : WHdr) (payload : List Byte) (trailer : Nat) : flitCrcOk (flitBytes h payload trailer false) = true :=
  (flitCrcOk_flitBytes_iff ..).mpr rfl

/-- No 32-bit number is its own inverse. -/
theorem flitCrcOk_bad (h : WHdr) (payload : List Byte) (trailer : Nat) : flitCrcOk (flitBytes h payload trailer true) = false := by
  rw [Bool.eq_false_iff, ne_eq, flitCrcOk_flitBytes_iff]
  intro heq
  have hlt := crc32c_lt (wBody h payload ++ leBytes 4 trailer)
  rw [wCrc, if_pos rfl] at heq
  omega

theorem hdrOf_words {h : WHdr} (hfits : HdrFits h) : hdrOf (hdrLow h % 2 ^ 64) (hdrHigh h % 2 ^ 64) = h := by
  obtain ⟨hseq, hvc, hack, htyp, hlen, hcvc, hcret, httl, hresv, hsrc, hdst, htag, hreq⟩ := hfits
  have hlow : Packable [(h.seq, 0, 12), (h.vc, 12, 3), (b2n h.ackValid, 15, 1), (h.ackSeq, 16, 12), (h.typ, 28, 2), (b2n h.som, 30, 1),
    (b2n h.eom, 31, 1), (h.len8, 32, 5), (b2n h.retx, 37, 1), (b2n h.credValid, 38, 1), (h.credVc, 39, 3), (h.credRet, 42, 12),
    (h.ttl, 54, 4), (h.resv, 58, 6)] := by simp [Packable]
  have hhigh : Packable [(h.src, 0, 12), (h.dst, 12, 12), (h.tag, 24, 14), (h.reqId, 38, 26)] := by simp [Packable]
  cases h
  simp only [hdrOf, WHdr.mk.injEq]
  exact ⟨bitsN_packBits_word hlow (by simp) (by decide) hseq, bitsN_packBits_word hlow (by simp) (by decide) hvc,
    bitN_packBits_word hlow (by simp) (by decide), bitsN_packBits_word hlow (by simp) (by decide) hack,
    bitsN_packBits_word hlow (by simp) (by decide) htyp, bitN_packBits_word hlow (by simp) (by decide),
    bitN_packBits_word hlow (by simp) (by decide), bitsN_packBits_word hlow (by simp) (by decide) hlen,
    bitN_packBits_word hlow (by simp) (by decide), bitN_packBits_word hlow (by simp) (by decide),
    bitsN_packBits_word hlow (by simp) (by decide) hcvc, bitsN_packBits_word hlow (by simp) (by decide) hcret,
    bitsN_packBits_word hlow (by simp) (by decide) httl, bitsN_packBits_word hlow (by simp) (by decide) hresv,
    bitsN_packBits_word hhigh (by simp) (by decide) hsrc, bitsN_packBits_word hhigh (by simp) (by decide) hdst,
    bitsN_packBits_word hhigh (by simp) (by decide) htag, bitsN_packBits_word hhigh (by simp) (by decide) hreq⟩

/-- Settles O13: header, payload, CRC and trailer stand where they are read, and an inverted CRC differs from the CRC. -/
theorem wenlynFlitRoundTrip : Obligations.WenlynFlitRoundTrip := by
  intro h payload trailer hfits hlen htr fl
  have hparts : fl = leBytes 8 (hdrLow h) ++ (leBytes 8 (hdrHigh h) ++ (padTo 232 (payload.take 232) ++
      (leBytes 4 (wCrc h payload trailer false) ++ leBytes 4 trailer))) := by
    show flitBytes h payload trailer false = _
    rw [flitBytes_eq, wBody, List.append_assoc, List.append_assoc]
  have hdrop8 : fl.drop 8 = leBytes 8 (hdrHigh h) ++ (padTo 232 (payload.take 232) ++
      (leBytes 4 (wCrc h payload trailer false) ++ leBytes 4 trailer)) := by
    rw [hparts, List.drop_left' (leBytes_length ..)]
  have hdrop16 : fl.drop 16 = padTo 232 (payload.take 232) ++ (leBytes 4 (wCrc h payload trailer false) ++ leBytes 4 trailer) := by
    rw [show 16 = 8 + 8 by rfl, ← List.drop_drop, hdrop8, List.drop_left' (leBytes_length ..)]
  refine ⟨flitBytes_length .., flitCrcOk_good .., flitCrcOk_bad .., ?_, ?_, fun i hi hi2 => ?_, ?_⟩
  · rw [hdrop8, hparts, List.take_left' (leBytes_length ..), List.take_left' (leBytes_length ..), leNat_leBytes, leNat_leBytes]
    exact hdrOf_words hfits
  · rw [hdrop16, List.take_append_of_le_length (by rw [padTo_take_length]; exact hlen), padTo_take_prefix hlen]
  · rw [← List.getElem?_drop, hdrop16, List.getElem?_append_left (by rw [padTo_take_length]; exact hi2), padTo_take_rest hi hi2]
  · rw [show fl.drop 252 = leBytes 4 trailer from flitBytes_drop_252 .., leNat_leBytes, Nat.mod_eq_of_lt htr]

end Sys2Proof.Machine
end

section
/-! The rows that write a register: one rule for a write of a reached register, and each row's register (R3, R9-R11, R331). -/
namespace Sys2Proof.Machine

/-! ### A write of a register by an agent that is no VF -/

/-- A write of a reached register takes effect, or is discarded whole with one report. -/
theorem putReg_reached {s : State} {a : Agent} {off : Nat} (v : Word) {fs : List Field} (h : Reached s a off) (hf : regFields off = some fs) :
    putReg s a off v =
      match discards (unhold (dropLatch s off) off) a off (s.rd off) (applyFields (withGaps 0 fs) (s.rd off) v).1 with
      | some why => clampReport (unhold (dropLatch s off) off) a off 0 0 why v.toNat (s.rd off).toNat
      | none => written s a off fs v := by
  obtain ⟨hvf, -⟩ := h
  unfold putReg written
  simp only [hf, hvf, Option.getD_some, Bool.false_and, Bool.false_eq_true, if_false, unhold_rd, dropLatch_rd] <;> rfl

/-- A reached register is written at once. -/
theorem regWrite_reached {s : State} {a : Agent} {off : Nat} (v : Word) (h : Reached s a off) : regWrite s a off v = putReg s a off v := by
  obtain ⟨-, hreach, hthere, hon⟩ := h
  unfold regWrite
  rw [hreach, hthere, Bool.and_self, if_pos rfl, regOn_on s off _ hon]

theorem regWrite_unreached {s : State} {a : Agent} {off : Nat} (v : Word) (h : (reaches s a off && regThere s off) = false) :
    regWrite s a off v = s := by
  unfold regWrite
  rw [h]
  rfl

/-- A command whose work on a reached register is the write, and on another one is nothing, is a row that writes that register. -/
theorem writesReg_of {c : Instr} {a : Agent} {off : Nat} {val : State → Word}
    (hput : ∀ s, Reached s a off → exec c s = .next (ended s (putReg s a off (val s))))
    (hnot : ∀ s, isVf a = false → (reaches s a off && regThere s off) = false → exec c s = .next (ended s s)) : WritesReg c a off val := by
  refine ⟨fun s fs hreach hf => ⟨fun hd => ?_, fun why hd => ?_⟩, hnot⟩
  · rw [hput s hreach, putReg_reached _ hreach hf, hd]
  · rw [hput s hreach, putReg_reached _ hreach hf, hd]

/-- A command that writes one register, from any agent. -/
theorem writesReg_of_regWrite {c : Instr} {a : Agent} {off : Nat} {val : State → Word}
    (h : ∀ s, exec c s = .next (ended s (regWrite s a off (val s)))) : WritesReg c a off val :=
  writesReg_of (fun s hreach => by rw [h, regWrite_reached _ hreach]) (fun s _ hnot => by rw [h, regWrite_unreached _ hnot])

/-- The same for a command that first looks whether its operands name a register. -/
theorem writesReg_of_guard {c : Instr} {a : Agent} {off : Nat} {val : State → Word} {g : Prop} [Decidable g] (hg : g)
    (h : ∀ s, exec c s = .next (ended s (if g then regWrite s a off (val s) else s))) : WritesReg c a off val :=
  writesReg_of_regWrite fun s => by rw [h, if_pos hg]

/-! ### Registers by their place in the agent's BAR0 -/

/-- Where an agent that is no VF reaches an offset, its BAR0 maps it to the register of that offset. -/
theorem mapBar_of_reaches {s : State} {a : Agent} {off : Nat} (hvf : isVf a = false) (h : reaches s a off = true) :
    mapBar s a off = some off := by
  cases a with
  | client f =>
    by_cases h0 : f = 0
    · subst h0
      rfl
    · have h64 : f = 64 := by simpa [isVf, h0] using hvf
      subst h64
      simpa [reaches] using h
  | mc => rfl
  | firmware => rfl
  | jtag => rfl

/-- Where it does not, its BAR0 maps nothing there. -/
theorem mapBar_of_not_reaches {s : State} {a : Agent} {off : Nat} (hvf : isVf a = false) (h : reaches s a off = false) :
    mapBar s a off = none := by
  cases a with
  | client f =>
    by_cases h0 : f = 0
    · subst h0
      cases h
    · have h64 : f = 64 := by simpa [isVf, h0] using hvf
      subst h64
      have hne : mapBar s (.client 64) off ≠ some off := by simpa [reaches] using h
      have hmap : mapBar s (.client 64) off = if off = 0x10 || off = 0x100 || (0x600000 ≤ off && off < 0x800000) then some off else none := rfl
      rw [hmap] at hne ⊢
      split_ifs at hne ⊢
      · exact absurd rfl hne
      · rfl
  | mc => cases h
  | firmware => cases h
  | jtag => cases h

theorem viewOnly_of_not_vf {a : Agent} (off : Nat) (hvf : isVf a = false) : viewOnly a off = false := by
  unfold viewOnly
  rw [hvf, Bool.false_and]

theorem writesReg_registerWrite (a : Agent) (off : Nat) (v : RegData) :
    WritesReg (.registerWrite a off v) a off (fun s => writeVal s off v) := by
  refine writesReg_of (fun s hreached => ?_) (fun s hvf hnot => ?_)
  · obtain ⟨hvf, hreach, hthere, hon⟩ := hreached
    show execRegisterWrite a off v s = _
    unfold execRegisterWrite
    rw [mapBar_of_reaches hvf hreach, done_eq]
    dsimp only
    rw [hthere, viewOnly_of_not_vf off hvf, if_pos (by decide), regOn_on s off _ hon]
  · show execRegisterWrite a off v s = _
    unfold execRegisterWrite
    cases hreach : reaches s a off with
    | false => rw [mapBar_of_not_reaches hvf hreach, done_eq]
    | true =>
      rw [hreach, Bool.true_and] at hnot
      rw [mapBar_of_reaches hvf hreach, done_eq]
      dsimp only
      rw [hnot, Bool.false_and]
      rfl

/-- Settles O7: each of these rows is a write of its register, once its operands name one. -/
theorem coreRegisterRows : Obligations.CoreRegisterRows := by
  refine ⟨fun a sl q hsl hq => ?_, fun a sl v hsl => ?_, fun a sl v hsl => ?_, fun a sl c v hsl hc => ?_, fun a sl r v hsl hr => ?_,
    fun a sl v hsl => ?_, fun a d i v hd hi => ?_, fun a d v hd => ?_⟩
  · exact writesReg_of_guard (g := (isSlot sl && decide (q < 4)) = true) (by simp [hsl, hq]) fun s => rfl
  · exact writesReg_of_guard hsl fun s => rfl
  · exact writesReg_of_guard hsl fun s => rfl
  · exact writesReg_of_guard (g := (isSlot sl && decide (c < 64)) = true) (by simp [hsl, hc]) fun s => rfl
  · exact writesReg_of_guard (g := (isSlot sl && decide (r < 16)) = true) (by simp [hsl, hr]) fun s => rfl
  · exact writesReg_of_guard hsl fun s => rfl
  · exact writesReg_of_guard (g := (decide (d < 8) && decide (i < 512)) = true) (by simp [hd, hi]) fun s => rfl
  · exact writesReg_of_guard hd fun s => rfl

end Sys2Proof.Machine
end

section
/-! The rows of the hub's registers (Table 13.1, R408). -/
namespace Sys2Proof.Machine

theorem sameMem_of_mem {s t : State} (h : t.mem = s.mem) : SameMem s t := fun a => byte_mem s h a

theorem sameCores_of_cores {s t : State} (l : List Nat) (h : t.cores = s.cores) : SameCores l s t := fun k _ => by
  unfold State.core
  rw [h]

/-! ### Queue registers -/

theorem queueOf_rQ {q o : Nat} (hq : q < 4096) (ho : o < 0x40) : queueOf (rQ q o) = some q := by
  unfold queueOf rQ engineBase
  rw [if_pos (by simp only [Bool.and_eq_true, decide_eq_true_eq]; omega)]
  congr 1
  omega

theorem regDomain_rQ {q o : Nat} (hq : q < 4096) (ho : o < 0x40) : regDomain (rQ q o) = none := by
  have hlo : rQ q o < 0x200000 := by unfold rQ engineBase; omega
  unfold regDomain
  rw [if_neg (by omega)]
  iterate 5 rw [if_neg (by simp only [Bool.and_eq_true, decide_eq_true_eq]; omega)]

/-- A VF reaches the registers of a queue alike. -/
theorem reaches_vf_queue {s : State} {f q : Nat} (hvf : isVf (.client f) = true) (hq : q < 4096) {o : Nat} (ho : o < 0x40) :
    reaches s (.client f) (rQ q o) = (decide (f < 64) && decide (hqFunc s q = f) && decide (sqId s q < 16)) := by
  obtain ⟨h0, h64⟩ : f ≠ 0 ∧ f ≠ 64 := by simpa [isVf] using hvf
  unfold reaches
  dsimp only
  rw [if_neg h0, if_neg h64, queueOf_rQ hq ho]

/-- A register of no power domain is written wherever it is reached and there. -/
theorem regWrite_undomained {s : State} {a : Agent} {off : Nat} (v : Word) (hreach : reaches s a off = true) (hthere : regThere s off = true)
    (hdom : regDomain off = none) : regWrite s a off v = putReg s a off v := by
  unfold regWrite
  rw [hreach, hthere, Bool.and_self, if_pos rfl]
  exact regOn_on s off _ (by rw [hdom]; intro p hp; cases hp)

theorem exec_qcfgWrite {a : Agent} {q : Nat} (v : Word) (hq : q < 4096) (s : State) :
    exec (.qcfgWrite a q v) s = .next (ended s (regWrite s a (rQ q 0x10) v)) :=
  congrArg (done s) (if_pos hq)

theorem exec_queueResume {a : Agent} {q : Nat} (hq : q < 4096) (s : State) :
    exec (.queueResume a q) s = .next (ended s (regWrite s a (rQ q 0x18) (BitVec.ofNat 64 (2 ^ 32)))) :=
  congrArg (done s) (if_pos hq)

/-! ### The end of a measurement (R408) -/

theorem prbsFold_mem (p : Nat) (ls : List (Nat × Nat × Nat)) (s : State) :
    (ls.foldl (fun s l => prbsCount s p l.1 l.2.1 l.2.2) s).mem = s.mem :=
  List.foldlRecOn ls _ (motive := fun t : State => t.mem = s.mem) rfl fun _ h _ _ => h

theorem prbsFold_cores (p : Nat) (ls : List (Nat × Nat × Nat)) (s : State) :
    (ls.foldl (fun s l => prbsCount s p l.1 l.2.1 l.2.2) s).cores = s.cores :=
  List.foldlRecOn ls _ (motive := fun t : State => t.cores = s.cores) rfl fun _ h _ _ => h

theorem awlEnd_mem (s : State) (p : Nat) (prbs : List (Nat × Nat × Nat)) : (awlEnd s p prbs).mem = s.mem := by
  unfold awlEnd setAwlState
  split_ifs
  · rfl
  · simp [prbsFold_mem]
  · simp

theorem awlEnd_cores (s : State) (p : Nat) (prbs : List (Nat × Nat × Nat)) : (awlEnd s p prbs).cores = s.cores := by
  unfold awlEnd setAwlState
  split_ifs
  · rfl
  · simp [prbsFold_cores]
  · simp

theorem awlState_awlEnd {s : State} {p : Nat} (prbs : List (Nat × Nat × Nat)) (h : awlState s p = 1) : awlState (awlEnd s p prbs) p = 2 := by
  unfold awlEnd
  rw [if_neg (not_not.mpr h)]
  exact State.f_setF_same _ _ _ _ _ (by decide)

theorem exec_awlStop_reached {s : State} {a : Agent} {p : Nat} (prbs : List (Nat × Nat × Nat)) (hp : p < 18) (h : Reached s a (awlBase p))
    (hon : pdState s 8 2 = 0) :
    exec (.awlStop a p prbs) s = .next (ended s (awlEnd (unhold (dropLatch s (awlBase p)) (awlBase p)) p prbs)) := by
  obtain ⟨-, hreach, hthere, -⟩ := h
  show execAwlStop a p prbs s = _
  unfold execAwlStop
  rw [hreach, hthere, wakeDom_on s 8 2 hon, if_pos (by simp [hp]), done_eq]

/-- Settles O8: each row is a write of its register; a VF reaches the registers of a queue alike; a running measurement ends. -/
theorem hubRegisterRows : Obligations.HubRegisterRows := by
  refine ⟨fun a v => writesReg_of_regWrite fun _ => rfl, fun a v => writesReg_of_regWrite fun _ => rfl,
    fun a p v hp => writesReg_of_guard hp fun _ => rfl, fun a p hp => writesReg_of_guard hp fun _ => rfl,
    fun a q hq => writesReg_of_guard hq fun _ => rfl, fun a q v hq => writesReg_of_guard hq fun _ => rfl,
    fun a f hf => writesReg_of_guard hf fun _ => rfl, fun a p hp => writesReg_of_guard hp fun _ => rfl,
    fun a v => writesReg_of_regWrite fun _ => rfl, fun a v => writesReg_of_regWrite fun _ => rfl,
    fun a n => writesReg_of_regWrite fun _ => rfl, fun s f q v hvf hq hreach hcfg hst => ?_, fun s a p prbs hp hreach hon hrun => ?_⟩
  · have hreach2 : reaches s (.client f) (rQ q 0x18) = true := by
      rw [reaches_vf_queue hvf hq (by decide)] at hreach ⊢
      exact hreach
    rw [exec_qcfgWrite v hq, exec_queueResume hq, regWrite_undomained v hreach hcfg (regDomain_rQ hq (by decide)),
      regWrite_undomained _ hreach2 hst (regDomain_rQ hq (by decide))]
    exact ⟨rfl, rfl⟩
  · exact ⟨_, exec_awlStop_reached prbs hp hreach hon, awlState_awlEnd prbs hrun, sameMem_of_mem (awlEnd_mem ..),
      sameCores_of_cores _ (awlEnd_cores ..)⟩

end Sys2Proof.Machine
end

section
/-! Fields of a written register take their legal values, and each change is reported (R9, R10). -/
namespace Sys2Proof.Machine

/-! ### One field, then a list of them -/

/-- What a write of `v` does to one field of a register. -/
def fieldValue (v w : Word) (f : Field) : Word := if f.acc = .rw then setFld w f.lsb f.w (f.lg.apply (fld v f.lsb f.w)) else w

/-- What it reports of the field. -/
def fieldReport (v : Word) (f : Field) : List Rep :=
  let x := fld v f.lsb f.w
  if f.acc = .rw then (if x = f.lg.apply x then [] else [⟨f.lsb, f.w, rsnRange, x, f.lg.apply x⟩])
  else if f.acc = .res then (if x = 0 then [] else [⟨f.lsb, f.w, rsnReserved, x, 0⟩])
  else []

/-- A write goes through the fields in order: their values apply one after the other, and their reports add up. -/
theorem applyFields_eq (fs : List Field) (old v : Word) :
    applyFields fs old v = (fs.foldl (fieldValue v) old, fs.flatMap (fieldReport v)) := by
  have hgo (r : Word × List Rep) : fs.foldl (fun (r : Word × List Rep) f =>
      let x := fld v f.lsb f.w
      match f.acc with
      | .rw =>
        let y := f.lg.apply x
        (setFld r.1 f.lsb f.w y, if x = y then r.2 else r.2 ++ [⟨f.lsb, f.w, rsnRange, x, y⟩])
      | .res => (r.1, if x = 0 then r.2 else r.2 ++ [⟨f.lsb, f.w, rsnReserved, x, 0⟩])
      | _ => r) r = (fs.foldl (fieldValue v) r.1, r.2 ++ fs.flatMap (fieldReport v)) := by
    induction fs generalizing r with
    | nil => simp
    | cons f fs ih =>
      rw [List.foldl_cons, ih, List.foldl_cons, List.flatMap_cons]
      unfold fieldReport fieldValue
      cases hacc : f.acc <;> simp <;> split_ifs <;> simp
  exact hgo (old, [])

/-- A place that meets no RW field keeps its value. -/
theorem fld_foldl_fieldValue_apart {fs : List Field} (v : Word) {l w : Nat} (hin : ∀ f ∈ fs, f.lsb + f.w ≤ 64)
    (h : ∀ f ∈ fs, f.acc = .rw → l + w ≤ f.lsb ∨ f.lsb + f.w ≤ l) (old : Word) : fld (fs.foldl (fieldValue v) old) l w = fld old l w := by
  refine List.foldlRecOn fs _ (motive := fun x => fld x l w = fld old l w) rfl fun x hx f hf => ?_
  unfold fieldValue
  split_ifs with hacc
  · rw [fld_setFld_apart _ _ _ _ _ _ (hin f hf) (h f hf hacc), hx]
  · exact hx

theorem fld_lt (v : Word) (l w : Nat) : fld v l w < 2 ^ w := Nat.mod_lt _ (by positivity)

/-- Each field of a list of fields that lie apart reads as its own rule says. -/
theorem fld_foldl_fieldValue {fs : List Field} (v old : Word) (hin : ∀ f ∈ fs, f.lsb + f.w ≤ 64)
    (hapart : fs.Pairwise (fun f g => f.lsb + f.w ≤ g.lsb)) (hfits : ∀ f ∈ fs, LegalFits f) {f : Field} (hf : f ∈ fs) :
    fld (fs.foldl (fieldValue v) old) f.lsb f.w = if f.acc = .rw then f.lg.apply (fld v f.lsb f.w) else fld old f.lsb f.w := by
  induction fs generalizing old with
  | nil => cases hf
  | cons g fs ih =>
    obtain ⟨habove, hrest⟩ := List.pairwise_cons.mp hapart
    rw [List.foldl_cons]
    rcases List.mem_cons.mp hf with rfl | hmem
    · rw [fld_foldl_fieldValue_apart v (fun g hg => hin g (by simp [hg])) (fun g hg _ => Or.inl (habove g hg))]
      unfold fieldValue
      split_ifs
      · rw [fld_setFld_same _ _ _ _ (hin f (by simp)), Nat.mod_eq_of_lt (hfits f (by simp) _ (fld_lt ..))]
      · rfl
    · rw [ih _ (fun g hg => hin g (by simp [hg])) hrest (fun g hg => hfits g (by simp [hg])) hmem]
      split_ifs
      · rfl
      · unfold fieldValue
        split_ifs
        · exact fld_setFld_apart _ _ _ _ _ _ (hin g (by simp)) (Or.inr (habove f hmem))
        · rfl

/-- What one field reports. -/
theorem mem_fieldReport (v : Word) (f : Field) (x : Rep) :
    x ∈ fieldReport v f ↔ x.lsb = f.lsb ∧ x.width = f.w ∧ x.written = fld v f.lsb f.w ∧
      ((f.acc = .rw ∧ f.lg.apply x.written ≠ x.written ∧ x.applied = f.lg.apply x.written ∧ x.reason = rsnRange) ∨
       (f.acc = .res ∧ x.written ≠ 0 ∧ x.applied = 0 ∧ x.reason = rsnReserved)) := by
  obtain ⟨lsb, width, reason, written, applied⟩ := x
  unfold fieldReport
  cases hacc : f.acc <;> simp
  · constructor
    · rintro ⟨hne, rfl, rfl, rfl, rfl, rfl⟩
      exact ⟨rfl, rfl, rfl, fun h => hne h.symm, rfl, rfl⟩
    · rintro ⟨rfl, rfl, rfl, hne, rfl, rfl⟩
      exact ⟨fun h => hne h.symm, rfl, rfl, rfl, rfl, rfl⟩
  · constructor
    · rintro ⟨hne, rfl, rfl, rfl, rfl, rfl⟩
      exact ⟨rfl, rfl, rfl, hne, rfl, rfl⟩
    · rintro ⟨rfl, rfl, rfl, hne, rfl, rfl⟩
      exact ⟨hne, rfl, rfl, rfl, rfl, rfl⟩

/-! ### Layouts -/

/-- The fields are listed by rising place from `pos` on and end within 64 bits. -/
def rising : Nat → List Field → Bool
  | pos, [] => pos ≤ 64
  | pos, f :: t => pos ≤ f.lsb && rising (f.lsb + f.w) t

theorem rising_le {pos : Nat} {fs : List Field} (h : rising pos fs = true) : pos ≤ 64 := by
  induction fs generalizing pos with
  | nil => exact of_decide_eq_true h
  | cons f fs ih =>
    obtain ⟨hpos, hrest⟩ : pos ≤ f.lsb ∧ rising (f.lsb + f.w) fs = true := by simpa [rising] using h
    have := ih hrest
    omega

/-- With their gaps filled, such fields lie in 64 bits, apart, and from `pos` on. -/
theorem withGaps_apart {pos : Nat} {fs : List Field} (h : rising pos fs = true) :
    FieldsApart (withGaps pos fs) ∧ ∀ f ∈ withGaps pos fs, pos ≤ f.lsb := by
  induction fs generalizing pos with
  | nil =>
    have hle := rising_le h
    unfold withGaps
    split_ifs
    · refine ⟨⟨?_, List.pairwise_singleton ..⟩, ?_⟩
      · simp only [List.mem_singleton, forall_eq]
        omega
      · simp
    · exact ⟨⟨by simp, List.Pairwise.nil⟩, by simp⟩
  | cons f fs ih =>
    obtain ⟨hpos, hrest⟩ : pos ≤ f.lsb ∧ rising (f.lsb + f.w) fs = true := by simpa [rising] using h
    have hend := rising_le hrest
    obtain ⟨⟨hin, hapart⟩, hfrom⟩ := ih hrest
    have htail : FieldsApart (f :: withGaps (f.lsb + f.w) fs) :=
      ⟨List.forall_mem_cons.mpr ⟨hend, hin⟩, List.pairwise_cons.mpr ⟨hfrom, hapart⟩⟩
    have htailFrom : ∀ g ∈ f :: withGaps (f.lsb + f.w) fs, f.lsb ≤ g.lsb :=
      List.forall_mem_cons.mpr ⟨le_rfl, fun g hg => by have := hfrom g hg; omega⟩
    unfold withGaps
    split_ifs with hgap
    · refine ⟨⟨List.forall_mem_cons.mpr ⟨?_, htail.1⟩, List.pairwise_cons.mpr ⟨fun g hg => ?_, htail.2⟩⟩,
        List.forall_mem_cons.mpr ⟨le_rfl, fun g hg => ?_⟩⟩
      · dsimp only
        omega
      · have := htailFrom g hg
        dsimp only
        omega
      · have := htailFrom g hg
        omega
    · exact ⟨htail, fun g hg => by have := htailFrom g hg; omega⟩

/-- The fault set of a core. -/
theorem rising_fltFields_core {o : Nat} (h8 : o % 8 = 0) (ho : o < 0x50) {fs : List Field} (h : fltFields 0 o = some fs) :
    rising 0 fs = true := by
  have hall : (upto 10).all (fun k => (fltFields 0 (8 * k)).all (rising 0)) = true := by decide
  have hk := List.all_eq_true.mp hall (o / 8) (by simp only [upto, List.nil_append, List.cons_append, List.mem_cons, List.not_mem_nil]; omega)
  rw [show 8 * (o / 8) = o by omega, h] at hk
  exact hk

/-- A layout, where there is one, lists its fields by rising place. -/
def Rises (r : Option (List Field)) : Prop := ∀ fs, r = some fs → rising 0 fs = true

theorem rises_none : Rises none := fun _ h => by cases h

theorem rises_some {fs : List Field} (h : rising 0 fs = true) : Rises (some fs) := fun _ hfs => by
  cases hfs
  exact h

theorem Rises.ite {c : Prop} [Decidable c] {a b : Option (List Field)} (ha : c → Rises a) (hb : Rises b) : Rises (if c then a else b) := by
  split_ifs with h
  · exact ha h
  · exact hb

/-- Every register of a core does: its layouts are lists written out, but for the fault set's. -/
theorem rises_coreFields {lc o : Nat} (h8 : o % 8 = 0) : Rises (coreFields lc o) := by
  unfold coreFields
  refine .ite (fun _ => rises_some rfl) (.ite (fun h => ?_) ?_)
  · simp only [Bool.and_eq_true, decide_eq_true_eq] at h
    exact fun fs hfs => rising_fltFields_core (by omega) (by omega) hfs
  · repeat' with_reducible first | exact rises_none | refine rises_some ?_ | refine Rises.ite (fun _ => ?_) ?_ | split
    all_goals rfl

theorem LegalRng_nearest {lo hi x : Nat} (h : lo ≤ hi) :
    lo ≤ (Legal.rng lo hi).apply x ∧ (Legal.rng lo hi).apply x ≤ hi ∧ (lo ≤ x → x ≤ hi → (Legal.rng lo hi).apply x = x) ∧
      ∀ y, lo ≤ y → y ≤ hi → ((x : Int) - (Legal.rng lo hi).apply x).natAbs ≤ ((x : Int) - y).natAbs := by
  unfold Legal.apply
  dsimp only
  split_ifs <;> refine ⟨by omega, by omega, by omega, fun y hlo hhi => by omega⟩

/-- Settles O6: the fields lie apart, so each write of one leaves the others, and each reports for itself. -/
theorem fieldsTakeLegalValues : Obligations.FieldsTakeLegalValues := by
  refine ⟨fun fs old v ⟨hin, hapart⟩ hfits => ?_, fun lo hi x h => LegalRng_nearest h, fun sl o fs hsl ho hfs => ?_⟩
  · rw [applyFields_eq]
    refine ⟨fun f hf => fld_foldl_fieldValue v old hin hapart hfits hf,
      fun i _ hi => fld_foldl_fieldValue_apart v hin (fun f hf hacc => ?_) old, fun x => ?_⟩
    · have := hi f hf hacc
      omega
    · rw [List.mem_flatMap]
      exact exists_congr fun f => and_congr_right fun _ => mem_fieldReport v f x
  · have h8 : o % 8 = 0 := by
      by_contra hne
      have hbase : slotBase sl % 8 = 0 := by rw [slotBase_eq]; omega
      unfold regFields at hfs
      rw [if_pos (by omega)] at hfs
      cases hfs
    rw [regFields_slot hsl ho h8] at hfs
    exact (withGaps_apart (rises_coreFields h8 fs hfs)).1

end Sys2Proof.Machine
end

section
/-! Whole and half accesses of registers of the global window (R11, R12, Table 0.7). -/
namespace Sys2Proof.Machine

/-! ### Reads by an agent that is no VF -/

theorem readAt_reached {s : State} {a : Agent} {off : Nat} (h : Reached s a off) (act : State → Nat → State) : readAt s a off act = act s off := by
  obtain ⟨hvf, hreach, hthere, hon⟩ := h
  unfold readAt
  rw [mapBar_of_reaches hvf hreach]
  dsimp only
  rw [if_pos hthere, regOn_on s off _ hon]

theorem exec_rcRead_reached {s : State} {a : Agent} {off : Nat} (h : Reached s a off) :
    exec (.rcRead a off) s = .next (ended s ((rcClear (dropLatch s off) off).emit (.busData (regVal s off)))) :=
  congrArg (done s) (readAt_reached h _)

/-- Of what is not mapped, a write does nothing and a read returns zero (R3). -/
theorem exec_unmapped {s : State} {a : Agent} {off : Nat} (v : RegData) (h : mapBar s a off = none) :
    exec (.registerWrite a off v) s = .next (ended s s) ∧ exec (.rcRead a off) s = .next (ended s (s.emit (.busData 0#64))) := by
  constructor
  · show execRegisterWrite a off v s = _
    unfold execRegisterWrite
    rw [h, done_eq]
  · show execRcRead a off s = _
    unfold execRcRead readAt
    rw [h, done_eq]

/-! ### Registers of the global window: PF0 reaches them always -/

theorem reached_global {s : State} {off : Nat} (hfs : (regFields off).isSome = true) (habs : regAbsent s off = false)
    (hdom : regDomain off = none) : Reached s (.client 0) off :=
  ⟨rfl, rfl, by unfold regThere; rw [hfs, habs]; rfl, fun p hp => by rw [hdom] at hp; cases hp⟩

theorem reached_clampBase (s : State) : Reached s (.client 0) 0x200 := reached_global rfl rfl rfl
theorem reached_clampLost (s : State) : Reached s (.client 0) 0x218 := reached_global rfl rfl rfl

/-! ### CLAMP_BASE -/

/-- A field of the whole width is the register. -/
theorem setFld_whole (v x : Word) : setFld v 0 64 (fld x 0 64) = x := by
  apply BitVec.eq_of_toNat_eq
  rw [toNat_setFld _ _ _ _ (by decide)]
  have hv := v.isLt
  have hx := x.isLt
  unfold fld bitsN
  simp only [Nat.zero_add, Nat.pow_zero, Nat.div_one, Nat.mul_one, Nat.mod_one, Nat.div_eq_of_lt hv, Nat.mod_eq_of_lt hx]
  omega

/-- CLAMP_BASE takes any value: its one field is the register, no rule discards or changes it, and nothing follows. -/
theorem written_clampBase (s : State) (v : Word) :
    written s (.client 0) 0x200 word64 v = (unhold (dropLatch s 0x200) 0x200).wr 0x200 v := by
  have hgaps : withGaps 0 word64 = [fRW 0 64 0] := rfl
  have hval : applyFields (withGaps 0 word64) (s.rd 0x200) v = (v, []) := by
    rw [hgaps, applyFields_eq]
    simp [fieldValue, fieldReport, fRW, Legal.apply, setFld_whole]
  have hcross : crossRule (unhold (dropLatch s 0x200) 0x200) 0x200 v = (v, []) := rfl
  unfold written andThen
  rw [hval]
  dsimp only
  rw [hcross]
  rfl

theorem exec_write_clampBase (s : State) (d : RegData) :
    exec (.registerWrite (.client 0) 0x200 d) s = .next (ended s ((unhold (dropLatch s 0x200) 0x200).wr 0x200 (writeVal s 0x200 d))) := by
  rw [exec_registerWrite_pf0 (fs := word64) (reached_clampBase s) d rfl rfl, written_clampBase]

/-- A write of the lower half is held (R11). -/
theorem exec_lowerHalfWrite_clampBase (s : State) (lo : Word32) :
    exec (.lowerHalfWrite (.client 0) 0x200 lo) s =
      .next (ended s { dropLatch s 0x200 with held := putRaw s.held 0x200 lo.toNat }) := by
  show execLowerHalfWrite (.client 0) 0x200 lo s = _
  unfold execLowerHalfWrite
  obtain ⟨-, -, hthere, hon⟩ := reached_clampBase s
  have hmap : mapBar s (.client 0) 0x200 = some 0x200 := rfl
  have hview : viewOnly (.client 0) 0x200 = false := rfl
  rw [hmap, done_eq]
  dsimp only
  rw [hthere, hview, if_pos (by decide), regOn_on s _ _ hon]
  rfl

/-- The upper half joins the lower half that is held (R11). -/
theorem writeVal_upper_held {s : State} {off lo : Nat} (hi : Word32) (hhas : has s.held off = true) (hlook : look 0 s.held off = lo)
    (hlo : lo < 2 ^ 32) : (writeVal s off (.upper hi)).toNat = hi.toNat * 2 ^ 32 + lo := by
  have := hi.isLt
  unfold writeVal
  rw [hhas, if_pos rfl, hlook, BitVec.toNat_ofNat]
  omega

/-! ### CLAMP_LOST -/

theorem setFld_zero_whole (v : Word) : setFld v 0 64 0 = 0#64 := by simpa [fld, bitsN] using setFld_whole v 0#64

/-- A read of CLAMP_LOST clears it (R12). -/
theorem rcClear_clampLost (s : State) : rcClear s 0x218 = s.wr 0x218 0#64 := by
  have hfs : regFields 0x218 = some [fRC 0 64] := rfl
  unfold rcClear
  rw [hfs]
  show s.wr 0x218 (setFld (s.rd 0x218) 0 64 0) = _
  rw [setFld_zero_whole]

theorem regVal_clampLost (s : State) : regVal s 0x218 = s.rd 0x218 := rfl

theorem sameRegs_wr (s : State) (off : Nat) (v : Word) : SameRegs [off] s (s.wr off v) := fun r hr => by
  rw [List.mem_singleton] at hr
  simp [hr]

/-! ### The obligation -/

theorem lowerThenUpper_clampBase (s : State) (lo hi : Word32) :
    ∃ t u, exec (.lowerHalfWrite (.client 0) 0x200 lo) s = .next t ∧ SameRegs [] s t ∧ SameMem s t ∧
      exec (.registerWrite (.client 0) 0x200 (.upper hi)) t = .next u ∧ (u.rd 0x200).toNat = hi.toNat * 2 ^ 32 + lo.toNat ∧
      SameRegs [0x200] t u ∧ SameMem t u := by
  refine ⟨_, _, exec_lowerHalfWrite_clampBase s lo, fun _ _ => rfl, fun _ => rfl, exec_write_clampBase _ _, ?_, sameRegs_wr _ _ _, fun _ => rfl⟩
  rw [ended_rd, State.rd_wr_same]
  exact writeVal_upper_held hi (has_putRaw_self ..) (by simp) lo.isLt

theorem lowerThenUpper_clampLost (s : State) :
    ∃ t u, exec (.lowerHalfRead (.client 0) 0x218) s = .next t ∧
      t.outbox = s.outbox ++ [.busData (BitVec.ofNat 64 (fld (s.rd 0x218) 0 32))] ∧ t.rd 0x218 = 0#64 ∧ SameRegs [0x218] s t ∧ SameMem s t ∧
      exec (.upperHalfRead (.client 0) 0x218) t = .next u ∧
      u.outbox = t.outbox ++ [.busData (BitVec.ofNat 64 (fld (s.rd 0x218) 32 32))] ∧ SameRegs [] t u ∧ SameMem t u := by
  have hlo := exec_lowerHalfRead_pf0 (reached_clampLost s)
  rw [rcClear_clampLost, regVal_clampLost] at hlo
  have hlatched : has (putRaw s.latch 0x218 (fld (s.rd 0x218) 32 32)) 0x218 = true := has_putRaw_self ..
  refine ⟨_, _, hlo, rfl, State.rd_wr_same s 0x218 0#64, sameRegs_wr s 0x218 0#64, fun _ => rfl,
    exec_upperHalfRead_pf0_latched (reached_clampLost _) hlatched, ?_, fun _ _ => rfl, fun _ => rfl⟩
  show _ ++ [Signal.busData (BitVec.ofNat 64 (look 0 (putRaw s.latch 0x218 (fld (s.rd 0x218) 32 32)) 0x218))] = _
  rw [look_putRaw, if_pos rfl]
  rfl

/-- Settles O5: the general rule of writes and reads, and the registers CLAMP_BASE and CLAMP_LOST as its cases. -/
theorem registerHalvesAndReads : Obligations.RegisterHalvesAndReads := by
  refine ⟨writesReg_registerWrite, fun s a off h => exec_rcRead_reached h, fun s a off v h => exec_unmapped v h, fun s v => ?_,
    lowerThenUpper_clampBase, lowerThenUpper_clampLost, fun s => ?_⟩
  · exact ⟨_, exec_write_clampBase s (.full v), State.rd_wr_same .., sameRegs_wr _ _ _, fun _ => rfl, rfl⟩
  · have hread := exec_rcRead_pf0 (reached_clampLost s)
    rw [rcClear_clampLost, regVal_clampLost] at hread
    exact ⟨_, hread, rfl, State.rd_wr_same s 0x218 0#64, sameRegs_wr s 0x218 0#64, fun _ => rfl⟩

end Sys2Proof.Machine
end

section
/-! The own number of a spare slot is not bounded by the statement about tag windows (R103). -/
namespace Sys2Proof.Machine

/-- Die 0 is up and its spare is active, for a slot number that no die has. -/
def spareFarOut : State :=
  { State.reset with regs := [(rCapDie 0, 2#64), (rSpareMap 0, 2#64)], dies := [(0, { Die.reset with mapped := 10000 })] }

theorem spareFarOut_reached : Reached spareFarOut (.client 0) (rTagCfg 60) := by
  refine ⟨rfl, rfl, by decide, fun p hp => ?_⟩
  have hdom : regDomain (rTagCfg 60) = some (0, 32) := by decide
  rw [hdom] at hp
  cases hp
  decide

/-- No queue of the spare is enabled, slot 0 holds a logical number and has the window 0, and the spare's own number is 5000. -/
theorem spareFarOut_conflict :
    (∀ q, q < 4 → qEn spareFarOut 60 q = false) ∧ 0 ∈ allSlots ∧ (logicalOf spareFarOut 0).isSome = true ∧
      spareFarOut.f (rTagCfg 0) 0 8 = fld 0#64 0 8 ∧ coreNum spareFarOut 60 = 5000 := by decide +kernel

/-- Refutes O9: its second clause says that a window another core has is applied as the core's own number, for every state. The state of a die
names the slot its spare stands in for by an unbounded number, and the spare's own number follows it past what the eight bits of the window hold. -/
theorem not_tagStashAndCounterWrites : ¬ Obligations.TagStashAndCounterWrites := by
  unfold Obligations.TagStashAndCounterWrites
  rintro ⟨-, hconflict, -⟩
  obtain ⟨hidle, hmem, hheld, hsame, hnum⟩ := spareFarOut_conflict
  obtain ⟨t, -, hwin, -⟩ := hconflict _ _ _ 0 0#64 (by decide) spareFarOut_reached hidle hmem (by decide) hheld hsame
  have hfits : t.f (rTagCfg 60) 0 8 < 2 ^ 8 := fld_lt ..
  omega

end Sys2Proof.Machine
end

section
/-! Ends of Girth links: reads after writes, what routes depend on, and what each shared operation does (R13, R18-R30). -/
namespace Sys2Proof.Machine

variable {s t : State}

/-! ### Reads after writes -/

@[simp] theorem State.gend_setGend (s : State) (e i : Nat) (x : GEnd) : (s.setGend e x).gend i = if i = e then x else s.gend i := by
  simp [State.gend, State.setGend]
@[simp] theorem State.gend_modGend (s : State) (e i : Nat) (f : GEnd → GEnd) :
    (s.modGend e f).gend i = if i = e then f (s.gend e) else s.gend i := by
  simp [State.modGend]

theorem gend_girth (h : t.girth = s.girth) (i : Nat) : t.gend i = s.gend i := by
  unfold State.gend
  rw [h]

theorem sameRegs_regs (l : List Nat) (h : t.regs = s.regs) : SameRegs l s t := fun r _ => by
  unfold State.rd
  rw [h]

theorem setGend_regs (s : State) (e : Nat) (x : GEnd) : (s.setGend e x).regs = s.regs := rfl
theorem modGend_regs (s : State) (e : Nat) (f : GEnd → GEnd) : (s.modGend e f).regs = s.regs := rfl

/-- A link joins two ends. -/
theorem farEnd_ne (e : Nat) : farEnd e ≠ e := by
  have hport : e % 4 = 0 ∨ e % 4 = 1 ∨ e % 4 = 2 ∨ e % 4 = 3 := by omega
  intro heq
  unfold farEnd at heq
  rcases hport with h | h | h | h <;> simp only [h] at heq <;> omega

/-- The registers of a Girth port lie in the windows of the dies. -/
theorem le_rGirth (e o : Nat) : 0x1000000 ≤ rGirth e o := by
  unfold rGirth girthBase dieBase
  omega

theorem marginBase_ne_rGirth (e o : Nat) : rGirth e o ≠ marginBase := by
  have := le_rGirth e o
  unfold marginBase
  omega

/-! ### Routes depend on registers and on what has been released -/

section
variable (hregs : t.regs = s.regs)
include hregs

theorem rd_regs (o : Nat) : t.rd o = s.rd o := by
  unfold State.rd
  rw [hregs]

theorem f_regs (o l w : Nat) : t.f o l w = s.f o l w := by
  unfold State.f
  rw [rd_regs hregs]

theorem fb_regs (o l : Nat) : t.fb o l = s.fb o l := by
  unfold State.fb
  rw [f_regs hregs]

theorem gUp_regs (e : Nat) : gUp t e = gUp s e := by
  unfold gUp
  rw [fb_regs hregs]

theorem gDead_regs (e : Nat) : gDead t e = gDead s e := by
  unfold gDead gRetired
  simp only [fb_regs hregs]

theorem gStandIn_regs (d : Nat) : gStandIn t d = gStandIn s d := by
  unfold gStandIn
  simp only [gDead_regs hregs, fb_regs hregs]

theorem gShould_regs (e cls : Nat) (way : GDest) : gShould t e cls way = gShould s e cls way := by
  unfold gShould
  simp only [gDead_regs hregs, fb_regs hregs]

variable (hmoved : ∀ i, (t.gend i).moved = (s.gend i).moved)
include hmoved

theorem gMoved_congr (e cls : Nat) (way : GDest) : gMoved t e cls way = gMoved s e cls way := by
  unfold gMoved
  simp only [gDead_regs hregs, gShould_regs hregs, hmoved]

theorem gRoute_congr (loc cls : Nat) (way : GDest) : gRoute t loc cls way = gRoute s loc cls way := by
  unfold gRoute
  simp only [gMoved_congr hregs hmoved, gStandIn_regs hregs]

end

/-! ### Sending (R19-R22) -/

/-- The header of a flit that leaves an end. -/
def gHeader (s : State) (e seq : Nat) (f : GFlit) (n c : Nat) : GHdr :=
  let x := s.gend e
  { seq := seq, cls := f.cls, len := f.payload.length / 16, credRet := n, credCls := c, tag := f.tag
    ackSeq := if x.anyRx then (x.rxNext + 1023) % 1024 else 0
    sack := if x.anyRx then sumN ((upto 16).map (fun i => b2n (x.held.any (fun p => p.1 = (x.rxNext + 1 + i) % 1024)) * 2 ^ i)) else 0
    ackValid := x.anyRx }

theorem gSend_eq (s : State) (e seq : Nat) (f : GFlit) (n c : Nat) :
    gSend s e seq f n c =
      s.modGend (farEnd e) (fun y => { y with wire := y.wire ++ [(gBytes (gHeader s e seq f n c) f.payload, f.way)] }) := by
  unfold gSend gHeader
  cases h : (s.gend e).anyRx <;> simp [h]

theorem domOn_of_on {d n : Nat} (h : pdState s d n = 0) : domOn s d n = true := decide_eq_true h

/-- With one class ready, that class is served. -/
theorem gPick_single {e k : Nat} (hk : k < 4) (h : ∀ c, c < 4 → gReady s e c = decide (c = k)) : gPick s e = some k := by
  unfold gPick gPrio
  have h0 := h 0 (by decide)
  have h1 := h 1 (by decide)
  have h2 := h 2 (by decide)
  have h3 := h 3 (by decide)
  by_cases hwait : 64 ≤ nth 0 (s.gend e).waited k
  · interval_cases k <;> simp [List.find?, h0, h1, h2, h3, hwait]
  · interval_cases k <;> simp [List.find?, h0, h1, h2, h3, hwait]

/-- What the transmitter looks at before it sends: the link is up and idle of training and retirement, and its domain is ON. -/
def GSends (s : State) (e : Nat) : Prop :=
  e < 32 ∧ gUp s e = true ∧ (s.gend e).training = false ∧ gRetiring s e = false ∧ gRetiring s (farEnd e) = false ∧
    pdState s (e / 4) (42 + gPort e) = 0

/-- The header of the next new flit of an end. -/
def gNewHeader (s : State) (e : Nat) (f : GFlit) : GHdr :=
  let r := gReturn (s.gend e)
  gHeader s e (s.gend e).nextSeq f r.1 r.2

/-- A new flit leaves an end: it is kept for a replay, and its class has one credit less (R19-R21). -/
def gSendNew (s : State) (e : Nat) (f : GFlit) : State :=
  let x := s.gend e
  let r := gReturn x
  (gSend s e x.nextSeq f r.1 r.2).modGend e (fun y => gAge { y with
    txq := y.txq.erase f, replay := y.replay ++ [⟨x.nextSeq, f, r.1, r.2, 0, false⟩], nextSeq := (x.nextSeq + 1) % 1024
    cred := setNth y.cred f.cls (nth 0 y.cred f.cls - 1), owed := setNth y.owed r.2 (nth 0 y.owed r.2 - r.1) } (some f.cls))

/-- An end with one flit, and nothing to replay, sends it. -/
theorem exec_girthTransmit_offer {e : Nat} {o : GirthOffer} {way : GDest} (h : GSends s e) (hreplay : (s.gend e).replay = [])
    (htxq : (s.gend e).txq = []) (hok : gOfferOk (gLoc e) o = true) (hroute : gRoute s (gLoc e) o.cls ⟨o.stage, o.dst, o.resp, 0⟩ = (e, way))
    (hstay : gShould s e o.cls way = false) (hcred : 0 < nth 0 (s.gend e).cred o.cls) (hfeat : o.cls = 3 ∨ s.boot.featSet = true) :
    let f : GFlit := ⟨o.cls, o.tag % 2 ^ 14, o.payload, way⟩
    exec (.girthTransmit e [o]) s = .next (ended s (gSendNew (s.modGend e (fun x => { x with txq := [f] })) e f)) := by
  obtain ⟨he, hup, htrain, hret, hretf, hon⟩ := h
  intro f
  let s1 := s.modGend e (fun x => { x with txq := [f] })
  let x := s1.gend e
  have hcls : o.cls < 4 := by
    unfold gOfferOk at hok
    simp only [Bool.and_eq_true, decide_eq_true_eq] at hok
    exact hok.1.1.1.1.1
  have hs1 : gOffer s (gLoc e) ⟨o.cls, o.tag % 2 ^ 14, o.payload, ⟨o.stage, o.dst, o.resp, 0⟩⟩ = s1 := by
    unfold gOffer
    dsimp only
    rw [hroute]
    simp only [s1, f, State.modGend, htxq, List.nil_append]
  have hx : x = { s.gend e with txq := [f] } := by simp [x, s1]
  have hnext (c : Nat) : gNext s1 e c = if c = o.cls then some f else none := by
    have hshould : gShould s1 e o.cls way = false := (gShould_regs rfl ..).trans hstay
    show x.txq.find? _ = _
    simp only [hx]
    by_cases hc : c = o.cls
    · simp [f, hc, hshould]
    · simp [f, hc, Ne.symm hc]
  have hready (c : Nat) (_ : c < 4) : gReady s1 e c = decide (c = o.cls) := by
    unfold gReady
    rw [hnext, show s1.gend e = x by rfl, hx, show s1.boot = s.boot by rfl]
    by_cases hc : c = o.cls
    · subst hc
      rcases hfeat with hdebug | hset
      · simp [hdebug]
        rwa [hdebug] at hcred
      · simp [hcred, hset]
    · simp [hc]
  have hpick : gPick s1 e = some o.cls := gPick_single hcls hready
  show execGirthTransmit e [o] s = _
  unfold execGirthTransmit
  simp only [List.filter_cons, hok, if_true, List.filter_nil, List.foldl_cons, List.foldl_nil, hs1, done_eq]
  rw [show s1.gend e = x by rfl]
  have hxtrain : x.training = false := by rw [hx]; exact htrain
  have hxreplay : x.replay = [] := by rw [hx]; exact hreplay
  simp only [he, hup, hret, hretf, domOn_of_on hon, hpick, hnext, hxtrain, hxreplay, decide_true, Bool.not_true, Bool.or_self, if_false,
    if_true, List.find?_nil, List.length_nil, show (0 : Nat) < 512 by decide, Bool.false_eq_true]
  rfl

end Sys2Proof.Machine
end

section
/-! The front command and the tick, the state after reset, and the rows that issue a TOD. -/
namespace Sys2Proof.Machine

/-! ### The tick (R418) -/

/-- Every tick moves the time base and its fraction together by one nanosecond and the rate. -/
theorem tick_total {s : State} (h : -1000000000 ≤ s.time.adj) :
    1000000000 * ((tick s).now : Int) + (tick s).time.frac = 1000000000 * (s.now : Int) + s.time.frac + 1000000000 + s.time.adj := by
  show 1000000000 * ((s.now + (s.time.frac + 1000000000 + s.time.adj).toNat / 1000000000 : Nat) : Int) +
    ((s.time.frac + 1000000000 + s.time.adj).toNat % 1000000000 : Nat) = _
  omega

/-- A time base with a whole fraction and no rate moves on by one nanosecond. -/
theorem tick_unadjusted {s : State} (hfrac : s.time.frac < 1000000000) (hadj : s.time.adj = 0) : tick s = { s with now := s.now + 1 } := by
  have hsum : ((s.time.frac : Int) + 1000000000 + s.time.adj).toNat = s.time.frac + 1000000000 := by omega
  unfold tick
  simp only [hsum, Nat.add_mod_right, Nat.mod_eq_of_lt hfrac, Nat.add_div_right _ (show 0 < 1000000000 by decide),
    Nat.div_eq_of_lt hfrac]

/-- Settles O1: `step` takes the front command, or ticks. -/
theorem stepRunsFrontCommand : Obligations.StepRunsFrontCommand := by
  refine ⟨fun c rest s hq => ?_, fun s hq => ⟨tick s, ?_, tick_unadjusted, tick_total, rfl⟩⟩
  · unfold step
    rw [hq]
  · unfold step
    rw [hq]

/-! ### The state after reset -/

theorem rd_reset (off : Nat) : State.reset.rd off = regReset off := rfl

/-- A register's reset value is made of those of its fields. -/
theorem regReset_of_fields {off : Nat} {fs : List Field} (h : regFields off = some fs) : regReset off = resetFields fs := by
  unfold regReset
  rw [h]

/-- After reset each built-in core's tag window is its logical number (R103). -/
theorem tagWindow_reset : ∀ sl ∈ allSlots, sl % 64 ≠ 60 → State.reset.f (rTagCfg sl) 0 8 = coreNum State.reset sl := by
  decide +kernel

/-- Settles O3: nothing is stored at reset, so every register, slot and queue reads as its reset value. -/
theorem resetState : Obligations.ResetState :=
  ⟨⟨rfl, rfl⟩, rfl, rfl, rfl, rfl, rfl, rd_reset, by decide +kernel, fun _ _ => regReset_of_fields,
    fun _ => ⟨rfl, rfl, fun _ => rfl⟩, tagWindow_reset⟩

/-! ### Rows that issue a TOD -/

/-- Settles O34: each of these rows is the shared issue of its family. -/
theorem matrixAndVectorTods : Obligations.MatrixAndVectorTods :=
  ⟨todRow_of fun _ _ _ => rfl, todRow_of fun _ _ _ => rfl, todRow_of fun _ _ _ => rfl, todRow_of fun _ _ _ => rfl,
    todRow_of fun _ _ _ => rfl, todRow_of fun _ _ _ => rfl, todRow_of fun _ _ _ => rfl, todRow_of fun _ _ _ => rfl,
    todRow_of fun _ _ _ => rfl, todRow_of fun _ _ _ => rfl, todRow_of fun _ _ _ => rfl, todRow_of fun _ _ _ => rfl,
    todRow_of fun _ _ _ => rfl, todRow_of fun _ _ _ => rfl, todRow_of fun _ _ _ => rfl⟩

/-- Settles O35: each of these rows is the shared issue of its family. -/
theorem attentionAndMoverTods : Obligations.AttentionAndMoverTods :=
  ⟨todRow_of fun _ _ _ => rfl, todRow_of fun _ _ _ => rfl, todRow_of fun _ _ _ => rfl, todRow_of fun _ _ _ => rfl,
    todRow_of fun _ _ _ => rfl, todRow_of fun _ _ _ => rfl, todRow_of fun _ _ _ => rfl, todRow_of fun _ _ _ => rfl,
    todRow_of fun _ _ _ => rfl, todRow_of fun _ _ _ => rfl, todRow_of fun _ _ _ => rfl, todRow_of fun _ _ _ => rfl,
    todRow_of fun _ _ _ => rfl⟩

/-- Settles O36: each of these rows is the shared issue of its family. -/
theorem versionBucketAndControlTods : Obligations.VersionBucketAndControlTods :=
  ⟨todRow_of fun _ _ _ => rfl, todRow_of fun _ _ _ => rfl, todRow_of fun _ _ _ => rfl, todRow_of fun _ _ _ => rfl,
    todRow_of fun _ _ _ => rfl, todRow_of fun _ _ _ => rfl, todRow_of fun _ _ _ => rfl, todRow_of fun _ _ _ => rfl,
    todRow_of fun _ _ _ => rfl, todRow_of fun _ _ _ => rfl, todRow_of fun _ _ _ => rfl, todRow_of fun _ _ _ => rfl,
    todRow_of fun _ _ _ => rfl, todRow_of fun _ _ _ => rfl⟩

/-- Settles O37: SEND and RECV go through the shared issue and settle; the others act as they are issued. -/
theorem channelTods : Obligations.ChannelTods :=
  ⟨todRow_of fun _ _ _ => rfl, todRow_of fun _ _ _ => rfl, todActsRow_of fun _ _ _ => rfl, todActsRow_of fun _ _ _ => rfl,
    todActsRow_of fun _ _ _ => rfl⟩

end Sys2Proof.Machine
end

section
/-! What the cache slices, the memories and the trace rings keep: a property of states is kept by all of their work once it is kept by each of the
few updates they are made of (R310-R320, R419). -/
namespace Sys2Proof.Machine

variable {P : State → Prop} {s t : State}

theorem keeps_ite (c : Prop) [Decidable c] {x y : State} (hx : P x) (hy : P y) : P (if c then x else y) := by
  split
  · exact hx
  · exact hy

/-! ### Slices (R311-R315) -/

/-- A property that each update made by a slice keeps. -/
structure SliceKeeps (P : State → Prop) : Prop where
  counter : ∀ (s : State) (d o : Nat), o < 0x100 → P s → P (s.addCtr (rSlice d o) 1)
  poisonRead : ∀ (s : State) (d : Nat), P s → P (s.addCtr (mcBase d + 0x38) 1)
  lines : ∀ (s : State) (l : List CLine) (old : List (Nat × List Byte)), P s → P { s with lines := l, stale := old }
  wake : ∀ (s : State) (d n : Nat), n ≤ 45 → P s → P (wakeNow s d n)

namespace SliceKeeps

variable (k : SliceKeeps P)
include k

theorem writeBack (l : Nat) (h : P s) : P (writeBack s l) := k.counter _ _ _ (by decide) (k.lines _ _ _ h)

theorem dropLine (l : Nat) (h : P s) : P (dropLine s l) := k.lines _ _ _ (keeps_ite _ (k.writeBack l h) h)

theorem makeRoom (l : Nat) (h : P s) : P (makeRoom s l) := by
  unfold Machine.makeRoom
  refine keeps_ite _ h (keeps_ite _ h ?_)
  split
  · exact k.dropLine _ h
  · split
    · exact k.dropLine _ h
    · exact h

theorem demote (l : Nat) (h : P s) : P (demote s l) := by
  unfold Machine.demote
  refine keeps_ite _ h (keeps_ite _ h ?_)
  split
  · exact k.counter _ _ _ (by decide) (k.lines _ _ _ h)
  · exact h

theorem allocLine (l : Nat) (b : Bool) (h : P s) : P (allocLine s l b) := by
  have hnew := k.lines _ (⟨l, false, b⟩ :: (Machine.makeRoom s l).lines) (Machine.makeRoom s l).stale (k.makeRoom l h)
  exact keeps_ite _ (k.demote l hnew) hnew

theorem moveLine (l : Nat) (b : Bool) (h : P s) : P (moveLine s l b) := by
  unfold Machine.moveLine
  split
  · exact h
  · exact k.lines _ _ _ h

theorem markDirty (l : Nat) (h : P s) : P (markDirty s l) := keeps_ite _ h (k.lines _ _ _ h)

theorem setKeep (l : Nat) (b : Bool) (h : P s) : P (setKeep s l b) := k.lines _ _ _ h

theorem lineRead (l hint : Nat) (h : P s) : P (lineRead s l hint) := by
  unfold Machine.lineRead
  extract_lets d s1 s2 s3 s4 s5
  have h1 : P s1 := k.wake _ _ _ (by decide) h
  have h2 : P s2 := keeps_ite _ h1 (k.wake _ _ _ (by decide) h1)
  have h3 : P s3 := keeps_ite _ (k.poisonRead _ _ h2) h2
  have h4 : P s4 := k.counter _ _ _ (by decide) h3
  have h5 : P s5 := k.counter _ _ _ (by decide) h3
  exact keeps_ite _ (keeps_ite _ (k.dropLine l h4) (k.moveLine l _ h4))
    (keeps_ite _ (k.allocLine l _ h5) (keeps_ite _ (k.allocLine l _ h5) h5))

theorem lineWrite (l hint : Nat) (whole : Bool) (h : P s) : P (lineWrite s l hint whole) := by
  unfold Machine.lineWrite
  extract_lets d s1 hit s2 s3 keep s4 s5
  have h1 : P s1 := k.wake _ _ _ (by decide) h
  have h2 : P s2 := keeps_ite _ h1 (k.wake _ _ _ (by decide) h1)
  have h3 : P s3 := k.counter _ _ _ (by split <;> decide) h2
  have h4 : P s4 := keeps_ite _ (k.setKeep l _ (k.moveLine l _ h3)) (k.allocLine l _ h3)
  have h5 : P s5 := keeps_ite _ (k.demote l h4) h4
  exact keeps_ite _ (k.lines _ _ _ h3) (k.markDirty l h5)

theorem fixLine (l : Nat) (h : P s) : P (fixLine s l) := k.markDirty l (keeps_ite _ h (k.allocLine l _ h))

theorem hbmTouch (hint a n : Nat) (h : P s) : P (hbmTouch s hint a n) :=
  List.foldlRecOn _ _ (motive := P) h fun _ ht l _ => k.lineRead l hint ht

end SliceKeeps

/-! ### Memories -/

/-- A property that each update made by a write of memory keeps. -/
structure MemKeeps (P : State → Prop) : Prop extends SliceKeeps P where
  mem : ∀ (s : State) (m : List Host.Cell) (lines words : List Nat) (lr : List (Nat × Nat)) (bad : Bool), P s →
    P { s with mem := m, poisonL := lines, poisonW := words, lr := lr, memBad := bad }

namespace MemKeeps

variable (k : MemKeeps P)
include k

theorem hbmWriteLine (hint a : Nat) (bs : List Byte) (l : Nat) (h : P s) : P (hbmWriteLine s hint a bs l) := by
  unfold Machine.hbmWriteLine
  extract_lets lo hi whole s1 s2
  have h1 : P s1 := k.lineWrite l hint whole h
  have h2 : P s2 := keeps_ite _ (k.mem _ _ _ _ _ _ h1) h1
  exact keeps_ite _ (k.mem _ _ _ _ _ _ h) (k.mem _ _ _ _ _ _ h2)

theorem hbmWrite (hint a : Nat) (bs : List Byte) (h : P s) : P (hbmWrite s hint a bs) :=
  List.foldlRecOn _ _ (motive := P) h fun _ ht l _ => k.hbmWriteLine hint a bs l ht

theorem localWrite (a : Nat) (bs : List Byte) (h : P s) : P (localWrite s a bs) := by
  have hdomain : (localDomain a).2 ≤ 45 := by
    unfold localDomain pdSlot
    dsimp only
    split_ifs <;> dsimp only <;> omega
  exact k.mem _ _ _ _ _ _ (k.wake _ _ _ hdomain h)

theorem memWrite (hint a : Nat) (bs : List Byte) (h : P s) : P (memWrite s hint a bs) :=
  keeps_ite _ h (keeps_ite _ (k.hbmWrite hint a bs h) (k.localWrite a bs h))

end MemKeeps

/-! ### Trace rings (R419, R420) -/

/-- A property that each update made by a trace record keeps. -/
structure RingKeeps (P : State → Prop) : Prop extends MemKeeps P where
  lost : ∀ (s : State) (r : Nat), r < 8 → P s → P ((s.raise .traceLost 0 r).addCtr (rRing r 0x18) 1)
  lostMore : ∀ (s : State) (r : Nat), r < 8 → P s → P (s.addCtr (rRing r 0x18) 1)
  produced : ∀ (s : State) (r n : Nat), r < 8 → P s → P (s.setF (rRing r 0x10) 0 32 n)

theorem lt_of_mem_upto {n i : Nat} (h : i ∈ upto n) : i < n := by
  induction n with
  | zero => cases h
  | succ n ih =>
    rcases List.mem_append.mp h with h | h
    · exact (ih h).trans n.lt_succ_self
    · rw [List.mem_singleton.mp h]
      exact n.lt_succ_self

namespace RingKeeps

variable (k : RingKeeps P)
include k

theorem ringPut {r : Nat} (bs : List Byte) (hr : r < 8) (h : P s) : P (ringPut s r bs) := by
  unfold Machine.ringPut
  extract_lets prod cons n s1 s2
  refine keeps_ite _ ?_ (k.produced _ _ _ hr (k.memWrite _ _ _ h))
  unfold s1
  split
  · exact k.lost _ _ hr h
  · exact k.lostMore _ _ hr h

theorem glint (b : Nat) (core : Option Nat) (bs : List Byte) (h : P s) : P (glint s b core bs) :=
  List.foldlRecOn _ _ (motive := P) h fun _ ht _ hr => keeps_ite _ (k.ringPut bs (lt_of_mem_upto hr) ht) ht

theorem glintLink (cls inst code synd : Nat) (h : P s) : P (glintLink s cls inst code synd) := k.glint _ _ _ h

theorem glintPower (cls inst code dom frm upTo : Nat) (h : P s) : P (glintPower s cls inst code dom frm upTo) := k.glint _ _ _ h

theorem glintOp (sl : Nat) (o : Op) (typ st det fl : Nat) (h : P s) : P (glintOp s sl o typ st det fl) := by
  unfold Machine.glintOp
  split
  · exact h
  · exact k.glint _ _ _ h

end RingKeeps

end Sys2Proof.Machine
end

section
/-! Requests to one line of HBM: what they read, what they store, and which lines answer (R312-R320). -/
namespace Sys2Proof.Machine

variable {s t : State} {a n hint : Nat} {bs : List Byte}

/-! ### Which lines answer -/

theorem rd_of_regs (h : t.regs = s.regs) (o : Nat) : t.rd o = s.rd o := by
  unfold State.rd
  rw [h]

theorem filter_putRaw {α : Type} (p : Nat × α → Bool) (m : List (Nat × α)) (o : Nat) (v : α) (h : ∀ w, p (o, w) = false) :
    (putRaw m o v).filter p = m.filter p := by
  induction m with
  | nil => simp [putRaw, h]
  | cons x m ih =>
    obtain ⟨k, w⟩ := x
    unfold putRaw
    by_cases hlt : o < k
    · rw [if_pos hlt, List.filter_cons, h, if_neg Bool.false_ne_true]
    · rw [if_neg hlt]
      by_cases heq : o = k
      · subst heq
        simp [h]
      · rw [if_neg heq, List.filter_cons, List.filter_cons, ih]

/-- A store of one key changes no part of the map that leaves this key out. -/
theorem filter_put {α : Type} [DecidableEq α] (p : Nat × α → Bool) (d : α) (m : List (Nat × α)) (o : Nat) (v : α)
    (h : ∀ w, p (o, w) = false) : (put d m o v).filter p = m.filter p := by
  unfold put
  split
  · rw [List.filter_filter]
    refine List.filter_congr fun x _ => ?_
    by_cases hx : x.1 = o
    · obtain ⟨k, w⟩ := x
      cases hx
      simp [h]
    · simp [hx]
  · exact filter_putRaw p m o v h

/-- A register that says neither which stacks are trained nor which pages are retired. -/
def NoRetire (o : Nat) : Prop := (∀ d < 8, o ≠ rCapDie d) ∧ ∀ d, ¬(mcBase d + 0x4000 ≤ o ∧ o < mcBase d + 0x5000)

/-- Both states have the same trained stacks and retired pages. -/
def SameRetired (s t : State) : Prop := ∀ a < hbmTop, isRetired t a = isRetired s a

theorem sameRetired_of_regs (h : t.regs = s.regs) : SameRetired s t := fun a _ => isRetired_congr h a

theorem SameRetired.trans {u : State} (h : SameRetired s t) (k : SameRetired t u) : SameRetired s u :=
  fun a ha => (k a ha).trans (h a ha)

theorem sameRetired_wr {o : Nat} (h : NoRetire o) (s : State) (v : Word) : SameRetired s (s.wr o v) := by
  obtain ⟨hcap, hpages⟩ := h
  intro a ha
  have hdie : dieOfAddr a < 8 := by
    unfold dieOfAddr stackBytes
    unfold hbmTop at ha
    omega
  have hlist : retiredPages (s.wr o v) (dieOfAddr a) = retiredPages s (dieOfAddr a) := by
    unfold retiredPages
    refine congrArg _ (filter_put _ _ _ _ _ fun w => ?_)
    have := hpages (dieOfAddr a)
    simp only [Bool.and_eq_false_iff, decide_eq_false_iff_not]
    omega
  unfold isRetired
  rw [State.fb_wr_other (h := (hcap _ hdie).symm), hlist]

theorem noRetire_of_die {d o : Nat} (h : o < 0x44000 ∨ 0x45000 ≤ o ∧ o < 0x800000) : NoRetire (dieBase d + o) := by
  refine ⟨fun e he => ?_, fun e => ?_⟩
  · unfold dieBase rCapDie
    omega
  · unfold mcBase dieBase
    omega

theorem noRetire_rPd {d n : Nat} (hn : n ≤ 45) : NoRetire (rPd d n) := by
  unfold rPd
  split
  · refine ⟨fun e he => ?_, fun e => ?_⟩
    · unfold powerBase rCapDie
      omega
    · unfold mcBase dieBase powerBase
      omega
  · rw [Nat.add_assoc]
    exact noRetire_of_die (by omega)

theorem noRetire_rSlice {d o : Nat} (ho : o < 0x100) : NoRetire (rSlice d o) := by
  have hplace : rSlice d o = dieBase d + (0x60000 + o) := Nat.add_assoc ..
  rw [hplace]
  exact noRetire_of_die (by omega)

theorem noRetire_poisonReads (d : Nat) : NoRetire (mcBase d + 0x38) := by
  have hplace : mcBase d + 0x38 = dieBase d + 0x40038 := by
    unfold mcBase
    omega
  rw [hplace]
  exact noRetire_of_die (by omega)

theorem SameRetired.addCtr {o n : Nat} (h : SameRetired s t) (ho : NoRetire o) : SameRetired s (t.addCtr o n) :=
  h.trans (sameRetired_wr ho t _)

theorem SameRetired.setF {o l w x : Nat} (h : SameRetired s t) (ho : NoRetire o) : SameRetired s (t.setF o l w x) :=
  h.trans (sameRetired_wr ho t _)

theorem SameRetired.satF {o l w x : Nat} (h : SameRetired s t) (ho : NoRetire o) : SameRetired s (t.satF o l w x) :=
  h.trans (sameRetired_wr ho t _)

theorem SameRetired.congr {u : State} (h : SameRetired s t) (hregs : u.regs = t.regs) : SameRetired s u :=
  h.trans (sameRetired_of_regs hregs)

theorem SameRetired.wakeNow {d n : Nat} (h : SameRetired s t) (hn : n ≤ 45) : SameRetired s (wakeNow t d n) := by
  have hplace : NoRetire (rPd d n) := noRetire_rPd hn
  have hcounted : SameRetired s ((t.setF (rPd d n) 0 3 0).satF (rPd d n) 32 32 1) := (h.setF hplace).satF hplace
  have hwoken (u : State) (f : Die → Die) (hu : SameRetired s u) : SameRetired s (u.modDie d f) := hu.congr rfl
  unfold Machine.wakeNow
  exact keeps_ite (P := SameRetired s) _ h (hwoken _ _ hcounted)

/-- The work of a slice retires nothing. -/
theorem sliceKeeps_sameRetired (s : State) : SliceKeeps (SameRetired s) where
  counter _ _ _ ho h := h.addCtr (noRetire_rSlice ho)
  poisonRead _ _ h := h.addCtr (noRetire_poisonReads _)
  lines _ _ _ h := h.congr rfl
  wake _ _ _ hn h := h.wakeNow hn

theorem memKeeps_sameRetired (s : State) : MemKeeps (SameRetired s) where
  toSliceKeeps := sliceKeeps_sameRetired s
  mem _ _ _ _ _ _ h := h.congr rfl

theorem sameRetired_refl (s : State) : SameRetired s s := fun _ _ => rfl

/-! ### One line -/

/-- Bytes that lie in one line of HBM. -/
def InLine (a n : Nat) : Prop := a + n ≤ hbmTop ∧ 0 < n ∧ a % 64 + n ≤ 64

theorem linesOf_inLine (h : InLine a n) : linesOf a n = [a / 64] := by
  obtain ⟨-, hpos, hline⟩ := h
  have hlast : (a + n - 1) / 64 - a / 64 + 1 = 1 := by omega
  unfold linesOf
  rw [if_neg hpos.ne', hlast]
  rfl

theorem InLine.lt_top (h : InLine a n) : a < hbmTop := by
  obtain ⟨htop, hpos, -⟩ := h
  omega

theorem InLine.line_lt_top (h : InLine a n) : 64 * (a / 64) < hbmTop := by
  have := h.lt_top
  omega

theorem poisoned_inLine (h : InLine a n) (s : State) :
    poisoned s a n = (s.poisonL.contains (a / 64) || isRetired s (64 * (a / 64))) := by
  have hpos : n ≠ 0 := h.2.1.ne'
  unfold poisoned
  rw [if_neg hpos, if_pos h.lt_top, linesOf_inLine h]
  simp only [List.any_cons, List.any_nil, Bool.or_false]

theorem poisoned_congr (h : InLine a n) (hret : SameRetired s t) (hp : t.poisonL = s.poisonL) : poisoned t a n = poisoned s a n := by
  rw [poisoned_inLine h, poisoned_inLine h, hp, hret _ h.line_lt_top]

/-! ### A write of one line -/

/-- What the slice of a line holds once a write of `bs` at `a` found its place (R314). -/
def slicePlace (s : State) (hint a : Nat) (bs : List Byte) : State := lineWrite s (a / 64) hint (decide (bs.length = 64))

/-- The state after a write that lies in one line whose page is not retired (R314, R318, R320). -/
def lineWritten (s : State) (hint a : Nat) (bs : List Byte) : State :=
  let u := slicePlace s hint a bs
  let left := if bs.length = 64 then u.poisonL.filter (fun p => p ≠ a / 64) else u.poisonL
  { u with
    poisonL := left
    memBad := u.memBad || left.contains (a / 64)
    mem := memPutAll u.mem a bs
    lr := u.lr.filter (fun p => p.2 ≠ a / 64) }

theorem hbmWrite_inLine (h : InLine a bs.length) (hret : isRetired s (64 * (a / 64)) = false) :
    hbmWrite s hint a bs = lineWritten s hint a bs := by
  have hlo : max a (64 * (a / 64)) = a := by omega
  have hhi : min (a + bs.length) (64 * (a / 64) + 64) = a + bs.length := by
    obtain ⟨-, -, hline⟩ := h
    omega
  have hwhole : (decide (a = 64 * (a / 64)) && decide (a + bs.length = 64 * (a / 64) + 64)) = decide (bs.length = 64) := by
    obtain ⟨-, -, hline⟩ := h
    rw [Bool.eq_iff_iff]
    simp only [Bool.and_eq_true, decide_eq_true_eq]
    omega
  unfold hbmWrite
  rw [linesOf_inLine h]
  simp only [List.foldl_cons, List.foldl_nil]
  unfold hbmWriteLine
  simp only [hlo, hhi, hret, Bool.false_eq_true, if_false, hwhole, Nat.sub_self, List.drop_zero, Nat.add_sub_cancel_left,
    List.take_length]
  unfold lineWritten slicePlace
  by_cases h64 : bs.length = 64
  · simp [h64]
  · simp [h64]

theorem hbmWrite_retired (h : InLine a bs.length) (hret : isRetired s (64 * (a / 64)) = true) :
    hbmWrite s hint a bs = { s with memBad := true } := by
  unfold hbmWrite
  rw [linesOf_inLine h]
  exact if_pos hret

section
variable (s : State) (hint a : Nat) (bs : List Byte)

theorem sliceOnly_slicePlace : SliceOnly s (slicePlace s hint a bs) := sliceOnly_lineWrite ..

@[simp] theorem lineWritten_outbox : (lineWritten s hint a bs).outbox = s.outbox := (sliceOnly_slicePlace s hint a bs).outbox
@[simp] theorem lineWritten_cores : (lineWritten s hint a bs).cores = s.cores := (sliceOnly_slicePlace s hint a bs).cores
@[simp] theorem lineWritten_raises : (lineWritten s hint a bs).raises = s.raises := (sliceOnly_slicePlace s hint a bs).raises
@[simp] theorem lineWritten_mem : (lineWritten s hint a bs).mem = memPutAll s.mem a bs := by
  show memPutAll (slicePlace s hint a bs).mem a bs = _
  rw [(sliceOnly_slicePlace s hint a bs).mem]
@[simp] theorem lineWritten_lr : (lineWritten s hint a bs).lr = s.lr.filter (fun p => p.2 ≠ a / 64) := by
  show (slicePlace s hint a bs).lr.filter _ = _
  rw [(sliceOnly_slicePlace s hint a bs).lr]
theorem lineWritten_poisonL :
    (lineWritten s hint a bs).poisonL = if bs.length = 64 then s.poisonL.filter (fun p => p ≠ a / 64) else s.poisonL := by
  show (if bs.length = 64 then (slicePlace s hint a bs).poisonL.filter (fun p => p ≠ a / 64) else (slicePlace s hint a bs).poisonL) = _
  rw [(sliceOnly_slicePlace s hint a bs).poisonL]

theorem sameRetired_lineWritten : SameRetired s (lineWritten s hint a bs) := by
  have hplace : SameRetired s (slicePlace s hint a bs) := (sliceKeeps_sameRetired s).lineWrite _ _ _ (sameRetired_refl s)
  exact hplace.trans (sameRetired_of_regs rfl)

end

theorem bytes_of_memPutAll (h : t.mem = memPutAll s.mem a bs) (hn : bs.length = n) : t.bytes a n = bs := by
  subst hn
  exact (bytes_mem { s with mem := memPutAll s.mem a bs } h a bs.length).trans (bytes_memPutAll s a bs s.mem)

theorem memBut_of_memPutAll (h : t.mem = memPutAll s.mem a bs) (hn : bs.length = n) : MemBut a n s t := fun x hx => by
  subst hn
  unfold State.byte
  rw [h]
  exact look_memPutAll_out bs s.mem a x hx

theorem not_contains_of_filter (l : List Nat) (x : Nat) : (l.filter (fun p => p ≠ x)).contains x = false := by
  simp

end Sys2Proof.Machine
end

section
/-! SLICE_REQUEST, SLICE_ATOMIC, and the AMO, LR and SC of the control cores (R310-R320). -/
namespace Sys2Proof.Machine

variable {s t : State} {a n hint cl hart x : Nat} {op : AmoOp} {wide : Bool} {data : List Byte}

/-! ### Requests past the end of HBM, and of no line -/

theorem exec_sliceRequest_refused {mop : MemOp} {ecc : List EccEvent} (h : hbmTop < a + n ∨ n = 0 ∨ 64 < a % 64 + n ∨ 3 < hint) :
    exec (.sliceRequest mop a n hint data ecc) s = .next (ended s s) := by
  show execSliceRequest mop a n hint data ecc s = _
  unfold execSliceRequest
  rw [if_pos (by simpa [or_assoc] using h), done_eq]

theorem exec_sliceAtomic_refused {code cmp : Nat} {ecc : List EccEvent}
    (h : hbmTop < a + atWidth code ∨ 10 < code ∨ a % atWidth code ≠ 0) : exec (.sliceAtomic code a x cmp ecc) s = .next (ended s s) := by
  show execSliceAtomic code a x cmp ecc s = _
  unfold execSliceAtomic
  rw [if_pos (by simpa [or_assoc] using h), done_eq]

/-! ### Requests of harts -/

/-- Bytes of an AMO, LR or SC. -/
def amoBytes (wide : Bool) : Nat := if wide then 8 else 4

/-- An AMO, by what its line and its windows say. -/
theorem exec_amo (s : State) (cl hart : Nat) (op : AmoOp) (wide : Bool) (a x : Nat) :
    exec (.controlCoreAmo cl hart op wide a x) s =
      if a % amoBytes wide ≠ 0 then .next (ended s s)
      else if hartGrant s cl hart 3 a (amoBytes wide) = false then .next (ended s (hartRefused s cl hart a))
      else if poisoned s a (amoBytes wide) = true then .next (ended s (s.emit (.memData true [])))
      else
        let old := s.num a (amoBytes wide)
        let t := hbmWrite s (winHint s (cl / 8) (hartCtx s cl hart) 3 a) a (leBytes (amoBytes wide) (amoVal op (8 * amoBytes wide) old x))
        .next (ended s (((keepLr s t (hartId cl hart)).addCtr (rSlice (dieOfAddr a) 0x28) 1).emit (.memData false (leBytes (amoBytes wide) old)))) := by
  show execControlCoreAmo cl hart op wide a x s = _
  unfold execControlCoreAmo
  simp only [Bool.not_eq_true', done_eq]
  rfl

theorem exec_loadReserved (s : State) (cl hart : Nat) (wide : Bool) (a : Nat) :
    exec (.loadReserved cl hart wide a) s =
      if a % amoBytes wide ≠ 0 then .next (ended s s)
      else if hartGrant s cl hart 1 a (amoBytes wide) = false then .next (ended s (hartRefused s cl hart a))
      else
        let t := lineRead s (a / 64) (winHint s (cl / 8) (hartCtx s cl hart) 1 a)
        .next (ended s (State.emit { t with lr := t.lr.filter (fun p => p.1 ≠ hartId cl hart) ++ [(hartId cl hart, a / 64)] }
          (.memData (poisoned s a (amoBytes wide)) (if poisoned s a (amoBytes wide) then [] else s.bytes a (amoBytes wide))))) := by
  show execLoadReserved cl hart wide a s = _
  unfold execLoadReserved
  simp only [Bool.not_eq_true', done_eq]
  rfl

theorem exec_storeConditional (s : State) (cl hart : Nat) (wide : Bool) (a x : Nat) :
    exec (.storeConditional cl hart wide a x) s =
      if a % amoBytes wide ≠ 0 then .next (ended s s)
      else if hartGrant s cl hart 2 a (amoBytes wide) = false then .next (ended s (hartRefused s cl hart a))
      else if (s.lr.contains (hartId cl hart, a / 64) && poisoned s a (amoBytes wide)) = true then .next (ended s (s.emit (.memData true [])))
      else
        let held := s.lr.contains (hartId cl hart, a / 64)
        let t := if held then hbmWrite s (winHint s (cl / 8) (hartCtx s cl hart) 2 a) a (leBytes (amoBytes wide) x) else s
        .next (ended s (State.emit { t with lr := t.lr.filter (fun p => p.1 ≠ hartId cl hart) }
          (.memData false (leBytes (amoBytes wide) (if held then 0 else 1))))) := by
  show execStoreConditional cl hart wide a x s = _
  unfold execStoreConditional
  simp only [Bool.not_eq_true', done_eq]
  rfl

theorem exec_amo_misaligned (h : a % amoBytes wide ≠ 0) :
    exec (.controlCoreAmo cl hart op wide a x) s = .next (ended s s) ∧ exec (.loadReserved cl hart wide a) s = .next (ended s s) ∧
      exec (.storeConditional cl hart wide a x) s = .next (ended s s) := by
  rw [exec_amo, exec_loadReserved, exec_storeConditional, if_pos h, if_pos h, if_pos h]
  exact ⟨rfl, rfl, rfl⟩

theorem exec_amo_refused (h : a % amoBytes wide = 0) (hno : hartGrant s cl hart 3 a (amoBytes wide) = false) :
    exec (.controlCoreAmo cl hart op wide a x) s = .next (ended s (hartRefused s cl hart a)) := by
  rw [exec_amo, if_neg (not_not.mpr h), if_pos hno]

theorem exec_loadReserved_refused (h : a % amoBytes wide = 0) (hno : hartGrant s cl hart 1 a (amoBytes wide) = false) :
    exec (.loadReserved cl hart wide a) s = .next (ended s (hartRefused s cl hart a)) := by
  rw [exec_loadReserved, if_neg (not_not.mpr h), if_pos hno]

theorem exec_storeConditional_refused (h : a % amoBytes wide = 0) (hno : hartGrant s cl hart 2 a (amoBytes wide) = false) :
    exec (.storeConditional cl hart wide a x) s = .next (ended s (hartRefused s cl hart a)) := by
  rw [exec_storeConditional, if_neg (not_not.mpr h), if_pos hno]

/-- No window reaches past the end of HBM (R310, R313). -/
theorem hartGrant_past {bit : Nat} (h : hbmTop < a + n) : hartGrant s cl hart bit a n = false := by
  unfold hartGrant
  rw [decide_eq_false (by omega), Bool.false_and]

theorem hartRefused_kernel {k : Kernel} {o : Op} (hh : hart < 4) (hk : (s.core (hartSlot s cl hart)).kernel = some k)
    (ho : opOf s (hartSlot s cl hart) k.tag = some o) : hartRefused s cl hart a = raiseProt s (hartSlot s cl hart) o.q k.tag a := by
  unfold hartRefused
  rw [if_neg (by omega), hk]
  dsimp only
  rw [ho]

theorem hartRefused_free (h : hart = 4 ∨ (s.core (hartSlot s cl hart)).kernel = none) : hartRefused s cl hart a = s := by
  unfold hartRefused
  split
  · rfl
  next h4 => rw [h.resolve_left h4]

/-- A refused hart is reported, if at all. -/
theorem hartRefused_cases (s : State) (cl hart a : Nat) : hartRefused s cl hart a = s ∨ ∃ sl q tag, hartRefused s cl hart a = raiseProt s sl q tag a := by
  unfold hartRefused
  split
  · exact .inl rfl
  · split
    · split
      · exact .inr ⟨_, _, _, rfl⟩
      · exact .inl rfl
    · exact .inl rfl

/-- Settles O29: no stack holds the bytes, and no window grants them. -/
theorem addressesPastHbm : Obligations.AddressesPastHbm := by
  refine ⟨fun s op a n hint data ecc h => exec_sliceRequest_refused (.inl h), fun s code a x cmp ecc h => exec_sliceAtomic_refused (.inl h),
    fun s cl hart a x op wide h hal hh k o hk ho => ?_, fun s cl hart a x op wide h hno => ?_⟩
  · have hreport := hartRefused_kernel (a := a) hh hk ho
    rw [← hreport]
    exact ⟨exec_amo_refused hal (hartGrant_past h), exec_loadReserved_refused hal (hartGrant_past h),
      exec_storeConditional_refused hal (hartGrant_past h)⟩
  · by_cases hal : a % amoBytes wide = 0
    · have hfree : hartRefused s cl hart a = s := hartRefused_free (hno.imp_right fun h => h.resolve_right (not_not.mpr hal))
      have hend : ended s (hartRefused s cl hart a) = ended s s := congrArg _ hfree
      rw [← hend]
      exact ⟨exec_amo_refused hal (hartGrant_past h), exec_loadReserved_refused hal (hartGrant_past h),
        exec_storeConditional_refused hal (hartGrant_past h)⟩
    · exact exec_amo_misaligned hal

/-! ### Granted requests of harts -/

theorem amoBytes_pos : 0 < amoBytes wide := by
  unfold amoBytes
  split <;> decide

/-- An aligned request of a hart lies in one line. -/
theorem inLine_amo {bit : Nat} (h : a % amoBytes wide = 0) (hgrant : hartGrant s cl hart bit a (amoBytes wide) = true) : InLine a (amoBytes wide) := by
  unfold hartGrant at hgrant
  rw [Bool.and_eq_true, decide_eq_true_eq] at hgrant
  refine ⟨hgrant.1, amoBytes_pos, ?_⟩
  unfold amoBytes at h ⊢
  cases wide
  · simp only [Bool.false_eq_true, if_false] at h ⊢
    omega
  · simp only [if_true] at h ⊢
    omega

theorem exec_amo_poisoned (h : a % amoBytes wide = 0) (hgrant : hartGrant s cl hart 3 a (amoBytes wide) = true)
    (hp : poisoned s a (amoBytes wide) = true) :
    exec (.controlCoreAmo cl hart op wide a x) s = .next (ended s (s.emit (.memData true []))) := by
  rw [exec_amo, if_neg (not_not.mpr h), if_neg (Bool.not_eq_false _ ▸ hgrant), if_pos hp]

theorem exec_storeConditional_poisoned (h : a % amoBytes wide = 0) (hgrant : hartGrant s cl hart 2 a (amoBytes wide) = true)
    (hp : poisoned s a (amoBytes wide) = true) (hheld : (hartId cl hart, a / 64) ∈ s.lr) :
    exec (.storeConditional cl hart wide a x) s = .next (ended s (s.emit (.memData true []))) := by
  have hboth : (s.lr.contains (hartId cl hart, a / 64) && poisoned s a (amoBytes wide)) = true := by
    rw [hp, Bool.and_true]
    exact List.contains_iff_mem.mpr hheld
  rw [exec_storeConditional, if_neg (not_not.mpr h), if_neg (Bool.not_eq_false _ ▸ hgrant), if_pos hboth]

theorem not_retired_of_not_poisoned (h : InLine a n) (hp : poisoned s a n = false) : isRetired s (64 * (a / 64)) = false := by
  rw [poisoned_inLine h, Bool.or_eq_false_iff] at hp
  exact hp.2

theorem amo_granted (h : a % amoBytes wide = 0) (hgrant : hartGrant s cl hart 3 a (amoBytes wide) = true)
    (hp : poisoned s a (amoBytes wide) = false) :
    ∃ t, exec (.controlCoreAmo cl hart op wide a x) s = .next t ∧
      t.bytes a (amoBytes wide) = leBytes (amoBytes wide) (amoVal op (8 * amoBytes wide) (s.num a (amoBytes wide)) x) ∧
      MemBut a (amoBytes wide) s t ∧ (∀ p ∈ t.lr, p.2 = a / 64 → p.1 = hartId cl hart) ∧
      t.outbox = s.outbox ++ [.memData false (leBytes (amoBytes wide) (s.num a (amoBytes wide)))] ∧ SameCores [] s t := by
  have hline := inLine_amo h hgrant
  have hret := not_retired_of_not_poisoned hline hp
  have hlen : (leBytes (amoBytes wide) (amoVal op (8 * amoBytes wide) (s.num a (amoBytes wide)) x)).length = amoBytes wide := leBytes_length ..
  have hexec := exec_amo s cl hart op wide a x
  rw [if_neg (not_not.mpr h), if_neg (Bool.not_eq_false _ ▸ hgrant), if_neg (Bool.eq_false_iff.mp hp)] at hexec
  dsimp only at hexec
  generalize s.num a (amoBytes wide) = old at *
  generalize leBytes (amoBytes wide) (amoVal op (8 * amoBytes wide) old x) = bs at *
  rw [hbmWrite_inLine (hlen ▸ hline) hret] at hexec
  have hmem := lineWritten_mem s (winHint s (cl / 8) (hartCtx s cl hart) 3 a) a bs
  have hlr := lineWritten_lr s (winHint s (cl / 8) (hartCtx s cl hart) 3 a) a bs
  have hout := lineWritten_outbox s (winHint s (cl / 8) (hartCtx s cl hart) 3 a) a bs
  have hcores := lineWritten_cores s (winHint s (cl / 8) (hartCtx s cl hart) 3 a) a bs
  generalize lineWritten s (winHint s (cl / 8) (hartCtx s cl hart) 3 a) a bs = u at *
  refine ⟨_, hexec, bytes_of_memPutAll hmem hlen, memBut_of_memPutAll hmem hlen, fun p hp hpl => ?_, congrArg (· ++ _) hout,
    sameCores_of_cores [] hcores⟩
  rcases List.mem_append.mp hp with hp | hp
  · rw [hlr] at hp
    exact absurd hpl (of_decide_eq_true (List.mem_filter.mp hp).2)
  · exact of_decide_eq_true (Bool.and_eq_true_iff.mp (List.mem_filter.mp hp).2).1

theorem loadReserved_granted (h : a % amoBytes wide = 0) (hgrant : hartGrant s cl hart 1 a (amoBytes wide) = true) :
    ∃ t, exec (.loadReserved cl hart wide a) s = .next t ∧
      t.outbox = s.outbox ++ [.memData (poisoned s a (amoBytes wide)) (if poisoned s a (amoBytes wide) then [] else s.bytes a (amoBytes wide))] ∧
      (hartId cl hart, a / 64) ∈ t.lr ∧ (∀ l, (hartId cl hart, l) ∈ t.lr → l = a / 64) ∧ SameMem s t ∧ SameCores [] s t := by
  let u := lineRead s (a / 64) (winHint s (cl / 8) (hartCtx s cl hart) 1 a)
  have hu : SliceOnly s u := sliceOnly_lineRead ..
  let lr := u.lr.filter (fun p => p.1 ≠ hartId cl hart) ++ [(hartId cl hart, a / 64)]
  refine ⟨ended s (State.emit { u with lr := lr } (.memData (poisoned s a (amoBytes wide))
    (if poisoned s a (amoBytes wide) then [] else s.bytes a (amoBytes wide)))), ?_, ?_, ?_, fun l hl => ?_, sameMem_of_mem hu.mem,
    sameCores_of_cores [] hu.cores⟩
  · rw [exec_loadReserved, if_neg (not_not.mpr h), if_neg (Bool.not_eq_false _ ▸ hgrant)]
  · show u.outbox ++ _ = _
    rw [hu.outbox]
  · exact List.mem_append_right _ (List.mem_singleton.mpr rfl)
  · rcases List.mem_append.mp hl with hl | hl
    · exact absurd rfl (of_decide_eq_true (List.mem_filter.mp hl).2)
    · exact congrArg Prod.snd (List.mem_singleton.mp hl)

/-- The bytes an SC stores, if it holds its reservation. -/
def scStored (s : State) (cl hart : Nat) (wide : Bool) (a x : Nat) (held : Bool) : State :=
  if held then hbmWrite s (winHint s (cl / 8) (hartCtx s cl hart) 2 a) a (leBytes (amoBytes wide) x) else s

/-- What an SC does once it is granted: the bytes of its success are stored before its reservation goes. -/
theorem exec_storeConditional_granted (h : a % amoBytes wide = 0) (hgrant : hartGrant s cl hart 2 a (amoBytes wide) = true) (held : Bool)
    (hheld : s.lr.contains (hartId cl hart, a / 64) = held) (hp : held = true → poisoned s a (amoBytes wide) = false) :
    exec (.storeConditional cl hart wide a x) s = .next (ended s (State.emit
      { scStored s cl hart wide a x held with lr := (scStored s cl hart wide a x held).lr.filter (fun p => p.1 ≠ hartId cl hart) }
      (.memData false (leBytes (amoBytes wide) (if held then 0 else 1))))) := by
  have hclean : ¬(s.lr.contains (hartId cl hart, a / 64) && poisoned s a (amoBytes wide)) = true := by
    rw [hheld, Bool.and_eq_true]
    rintro ⟨hheld, hpois⟩
    exact absurd (hpois.symm.trans (hp hheld)) (by decide)
  rw [exec_storeConditional, if_neg (not_not.mpr h), if_neg (by rw [hgrant]; decide), if_neg hclean, hheld]
  rfl

theorem storeConditional_held (h : a % amoBytes wide = 0) (hgrant : hartGrant s cl hart 2 a (amoBytes wide) = true)
    (hp : poisoned s a (amoBytes wide) = false) (hheld : (hartId cl hart, a / 64) ∈ s.lr) :
    ∃ t, exec (.storeConditional cl hart wide a x) s = .next t ∧
      t.bytes a (amoBytes wide) = leBytes (amoBytes wide) x ∧ MemBut a (amoBytes wide) s t ∧
      t.outbox = s.outbox ++ [.memData false (leBytes (amoBytes wide) 0)] ∧ (∀ p ∈ t.lr, p.1 ≠ hartId cl hart ∧ p.2 ≠ a / 64) ∧
      SameCores [] s t := by
  have hline := inLine_amo h hgrant
  let bs := leBytes (amoBytes wide) x
  have hlen : bs.length = amoBytes wide := leBytes_length ..
  have hwritten (hint : Nat) : hbmWrite s hint a bs = lineWritten s hint a bs :=
    hbmWrite_inLine (hlen ▸ hline) (not_retired_of_not_poisoned hline hp)
  have hexec := exec_storeConditional_granted (x := x) h hgrant true (List.contains_iff_mem.mpr hheld) fun _ => hp
  have hstored : scStored s cl hart wide a x true = lineWritten s _ a bs := hwritten _
  rw [hstored, if_pos rfl] at hexec
  refine ⟨_, hexec, ?_, ?_, ?_, fun p hpl => ?_, sameCores_of_cores [] (lineWritten_cores ..)⟩
  · exact bytes_of_memPutAll (lineWritten_mem ..) hlen
  · exact memBut_of_memPutAll (lineWritten_mem ..) hlen
  · exact congrArg (· ++ _) (lineWritten_outbox ..)
  · obtain ⟨hkept, hhart⟩ := List.mem_filter.mp hpl
    rw [lineWritten_lr] at hkept
    exact ⟨of_decide_eq_true hhart, of_decide_eq_true (List.mem_filter.mp hkept).2⟩

theorem storeConditional_lost (h : a % amoBytes wide = 0) (hgrant : hartGrant s cl hart 2 a (amoBytes wide) = true)
    (hheld : (hartId cl hart, a / 64) ∉ s.lr) :
    ∃ t, exec (.storeConditional cl hart wide a x) s = .next t ∧ SameMem s t ∧ SameRegs [] s t ∧
      t.outbox = s.outbox ++ [.memData false (leBytes (amoBytes wide) 1)] ∧ (∀ p ∈ t.lr, p.1 ≠ hartId cl hart) ∧ SameCores [] s t := by
  have hnot : s.lr.contains (hartId cl hart, a / 64) = false := by simpa using hheld
  exact ⟨_, exec_storeConditional_granted h hgrant false hnot fun h => absurd h (by decide), fun _ => rfl, fun _ _ => rfl, rfl,
    fun p hpl => of_decide_eq_true (List.mem_filter.mp hpl).2, fun _ _ => rfl⟩

/-- A refused hart changes nothing but what is raised. -/
theorem refused_frame {c : Instr} (h : exec c s = .next (ended s (hartRefused s cl hart a))) :
    ∃ t, exec c s = .next t ∧ SameMem s t ∧ SameRegs [] s t ∧ t.outbox = s.outbox ∧ t.lr = s.lr := by
  refine ⟨_, h, ?_⟩
  rcases hartRefused_cases s cl hart a with hr | ⟨sl, q, tag, hr⟩
  · rw [hr]
    exact ⟨fun _ => rfl, fun _ _ => rfl, rfl, rfl⟩
  · rw [hr]
    exact ⟨fun _ => rfl, fun _ _ => rfl, rfl, rfl⟩

/-- Settles O28: an aligned access lies in one line, which its write or its reservation takes whole. -/
theorem controlCoreAtomics : Obligations.ControlCoreAtomics :=
  ⟨fun _ _ _ _ _ _ _ h hg hp => amo_granted h hg hp, fun _ _ _ _ _ h hg => loadReserved_granted h hg,
    fun _ _ _ _ _ _ h hg hp hl => storeConditional_held h hg hp hl, fun _ _ _ _ _ _ h hg hl => storeConditional_lost h hg hl,
    fun _ _ _ _ _ _ _ h hp => ⟨fun hg => exec_amo_poisoned h hg hp, fun hg hl => exec_storeConditional_poisoned h hg hp hl⟩,
    fun _ _ _ _ _ _ _ h => ⟨fun hno => refused_frame (exec_amo_refused h hno), fun hno => refused_frame (exec_loadReserved_refused h hno),
      fun hno => refused_frame (exec_storeConditional_refused h hno)⟩,
    fun _ _ _ _ _ _ _ h => exec_amo_misaligned h⟩

end Sys2Proof.Machine
end

section
/-! Requests at a slice: reads, ECC events, writes, atomics, and domains that are not ON (R312-R320, R380). -/
namespace Sys2Proof.Machine

variable {s t : State} {a n hint : Nat} {data bs : List Byte} {ecc : List EccEvent} {e : EccEvent}

/-! ### Served requests -/

theorem all_on_of_lineOpen (h : LineOpen s a) : (lineDomains s (a / 64)).all (fun p => domOn s p.1 p.2) = true := List.all_eq_true.mpr h

theorem request_in_line (h : InLine a n) (hhint : hint ≤ 3) :
    ¬(decide (hbmTop < a + n) || decide (n = 0) || decide (64 < a % 64 + n) || decide (3 < hint)) = true := by
  obtain ⟨htop, hpos, hline⟩ := h
  simp only [Bool.or_eq_true, decide_eq_true_eq]
  omega

/-- A read that is served: the bytes of its line, once its ECC events are counted. -/
theorem exec_sliceRead (h : InLine a n) (hhint : hint ≤ 3) (hopen : LineOpen s a) :
    let t := requestFix (lineRead (requestEcc s a ecc) (a / 64) hint) a ecc
    exec (.sliceRequest .read a n hint data ecc) s =
      .next (ended s (t.emit (.memData (poisoned t a n) (if poisoned t a n then [] else s.bytes a n)))) := by
  show execSliceRequest .read a n hint data ecc s = _
  unfold execSliceRequest
  rw [if_neg (request_in_line h hhint), if_neg (by rw [all_on_of_lineOpen hopen]; decide)]
  simp only [done_eq]

theorem exec_sliceWrite (h : InLine a data.length) (hhint : hint ≤ 3) (hopen : LineOpen s a) :
    let u := hbmWrite (requestEcc s a ecc) hint a data
    exec (.sliceRequest .write a data.length hint data ecc) s =
      .next (ended s (if poisoned u a data.length then u.emit (.memData true []) else u)) := by
  show execSliceRequest .write a data.length hint data ecc s = _
  unfold execSliceRequest
  rw [if_neg (request_in_line h hhint), if_neg (by rw [all_on_of_lineOpen hopen]; decide)]
  simp only [ne_eq, not_true_eq_false, if_false, done_eq]

/-! ### ECC events of a request -/

/-- The domains and rows of the dies aside, `t` is `s`. -/
def SameButDies (s t : State) : Prop := SliceOnly s t ∧ t.regs = s.regs

theorem sameButDies_modDie (s : State) (d : Nat) (f : Die → Die) : SameButDies s (s.modDie d f) := ⟨sliceOnly_modDie .., rfl⟩

theorem sameButDies_afterCopy (s : State) (l : Nat) : SameButDies s (afterCopy s l) := by
  unfold afterCopy
  split
  · exact ⟨.refl s, rfl⟩
  · exact sameButDies_modDie ..

theorem sameButDies_requestEcc (s : State) (a : Nat) : SameButDies s (requestEcc s a []) := sameButDies_afterCopy s (a / 64)

/-- The event is one of the controller at the request's line. -/
def AtLine (e : EccEvent) (a : Nat) : Prop := e.addr / 64 = a / 64 ∧ e.space = 0

theorem AtLine.lt_top (h : AtLine e a) (ha : a < hbmTop) : e.addr < hbmTop := by
  have := h.1
  unfold hbmTop at *
  omega

theorem AtLine.die (h : AtLine e a) : dieOfAddr e.addr = dieOfAddr a := by
  have := h.1
  unfold dieOfAddr stackBytes
  omega

theorem requestEcc_one (h : AtLine e a) : requestEcc s a [e] = (lineEcc (afterCopy s (a / 64)) 0 e).1 := by
  unfold requestEcc
  simp [h.1]

/-- Row and pseudo-channel of an address as a syndrome gives them (Table 14.2). -/
def eccSyndrome (x : Nat) : List (Nat × Nat × Nat) := [((dramPlace x).page, 0, 20), ((dramPlace x).pch, 20, 6)]

/-- A corrected error is counted for its row and raised (R319). -/
theorem lineEcc_corrected (h : AtLine e a) (ha : a < hbmTop) (hbits : e.bits = 1) (u : State) (tag : Nat) :
    (lineEcc u tag e).1 = (noteCe (u.addCtr (mcBase (dieOfAddr a) + 0x28) 1) e.addr).raise .eccCorr (dieOfAddr a)
      (packBits (eccSyndrome e.addr)) := by
  unfold lineEcc
  rw [if_neg (Nat.not_le.mpr (h.lt_top ha)), if_pos h.2, if_neg (by rw [hbits]; decide), if_pos hbits, h.die]
  rfl

/-- An uncorrectable error poisons its line and is raised (R319, R320). -/
theorem lineEcc_uncorrectable (h : AtLine e a) (ha : a < hbmTop) (hbits : e.bits = 2) (u : State) (tag : Nat) :
    (lineEcc u tag e).1 = (poisonAt (noteUe (u.addCtr (mcBase (dieOfAddr a) + 0x30) 1) e.addr) e.addr).raise .eccUncorr (dieOfAddr a)
      (packBits (eccSyndrome e.addr ++ [(tag, 26, 14)])) := by
  unfold lineEcc
  rw [if_neg (Nat.not_le.mpr (h.lt_top ha)), if_pos h.2, if_neg (by rw [hbits]; decide), if_neg (by rw [hbits]; decide), h.die]
  rfl

theorem noRetire_mc {d o : Nat} (ho : o < 0x4000) : NoRetire (mcBase d + o) := by
  have hplace : mcBase d + o = dieBase d + (0x40000 + o) := Nat.add_assoc ..
  rw [hplace]
  exact noRetire_of_die (by omega)

theorem sliceOnly_fixLine (s : State) (l : Nat) : SliceOnly s (fixLine s l) :=
  (sliceOnly_ite _ (.refl s) (sliceOnly_allocLine ..)).trans (sliceOnly_markDirty ..)

theorem sliceOnly_requestFix (s : State) (a : Nat) (ecc : List EccEvent) : SliceOnly s (requestFix s a ecc) :=
  sliceOnly_ite _ (sliceOnly_fixLine ..) (.refl s)

/-- A read's work at its slice, once ECC events are counted in `u`. -/
def readServed (u : State) (a hint : Nat) (ecc : List EccEvent) : State := requestFix (lineRead u (a / 64) hint) a ecc

theorem sliceOnly_readServed (u : State) (a hint : Nat) (ecc : List EccEvent) : SliceOnly u (readServed u a hint ecc) :=
  (sliceOnly_lineRead ..).trans (sliceOnly_requestFix ..)

theorem sameRetired_readServed (u : State) (a hint : Nat) (ecc : List EccEvent) : SameRetired u (readServed u a hint ecc) := by
  have k := sliceKeeps_sameRetired u
  have hread : SameRetired u (lineRead u (a / 64) hint) := k.lineRead _ _ (sameRetired_refl u)
  exact keeps_ite (P := SameRetired u) _ (k.fixLine _ hread) hread

/-! ### Reads -/

/-- What a read answers, when `u` is the state in which its ECC events are counted. -/
theorem sliceRead_answer {u : State} {p : Bool} (h : InLine a n) (hhint : hint ≤ 3) (hopen : LineOpen s a) (hecc : requestEcc s a ecc = u)
    (hp : poisoned u a n = p) (hout : u.outbox = s.outbox) (hmem : u.mem = s.mem) (hcores : u.cores = s.cores) :
    ∃ t, exec (.sliceRequest .read a n hint data ecc) s = .next t ∧ t.outbox = s.outbox ++ [.memData p (if p then [] else s.bytes a n)] ∧
      SameMem s t ∧ SameCores [] s t ∧ t.raises = u.raises ∧ t.poisonL = u.poisonL := by
  have hexec := exec_sliceRead (data := data) (ecc := ecc) h hhint hopen
  have hserved := sliceOnly_readServed u a hint ecc
  have hret := sameRetired_readServed u a hint ecc
  dsimp only at hexec
  rw [hecc] at hexec
  change exec _ s = .next (ended s ((readServed u a hint ecc).emit (.memData (poisoned (readServed u a hint ecc) a n)
    (if poisoned (readServed u a hint ecc) a n then [] else s.bytes a n)))) at hexec
  rw [poisoned_congr h hret hserved.poisonL, hp] at hexec
  generalize readServed u a hint ecc = v at hexec hserved
  exact ⟨_, hexec, congrArg (· ++ _) (hserved.outbox.trans hout), sameMem_of_mem (hserved.mem.trans hmem),
    sameCores_of_cores [] (hserved.cores.trans hcores), hserved.raises, hserved.poisonL⟩

theorem sliceRead_plain (h : InLine a n) (hhint : hint ≤ 3) (hopen : LineOpen s a) :
    ∃ t, exec (.sliceRequest .read a n hint data []) s = .next t ∧
      t.outbox = s.outbox ++ [.memData (poisoned s a n) (if poisoned s a n then [] else s.bytes a n)] ∧
      SameMem s t ∧ SameCores [] s t ∧ t.raises = s.raises ∧ t.poisonL = s.poisonL := by
  obtain ⟨honly, hregs⟩ := sameButDies_requestEcc s a
  have hclean := poisoned_congr h (sameRetired_of_regs hregs) honly.poisonL
  have hread := sliceRead_answer (data := data) h hhint hopen rfl hclean honly.outbox honly.mem honly.cores
  rwa [honly.raises, honly.poisonL] at hread

/-- Counting an ECC event of the controller for its row changes counters and rows only. -/
theorem counted_only (s : State) (l d o : Nat) (f : Die → Die) (ho : o < 0x4000) :
    let u := ((afterCopy s l).addCtr (mcBase d + o) 1).modDie d f
    SliceOnly s u ∧ SameRetired s u := by
  obtain ⟨honly, hregs⟩ := sameButDies_afterCopy s l
  have hret : SameRetired s ((afterCopy s l).addCtr (mcBase d + o) 1) := (sameRetired_of_regs hregs).addCtr (noRetire_mc ho)
  exact ⟨(honly.trans (sliceOnly_addCtr ..)).trans (sliceOnly_modDie ..), hret.congr (State.modDie_regs ..)⟩

theorem raises_of_only {u : State} (h : SliceOnly s u) (c : FaultSrc) (i y : Nat) : (u.raise c i y).raises = (s.raise c i y).raises := by
  rw [State.raise_raises, State.raise_raises, h.raises, h.evNo]

theorem sliceRead_corrected (h : InLine a n) (hhint : hint ≤ 3) (hopen : LineOpen s a) (he : AtLine e a) (hbits : e.bits = 1)
    (hp : poisoned s a n = false) :
    ∃ t, exec (.sliceRequest .read a n hint data [e]) s = .next t ∧ t.outbox = s.outbox ++ [.memData false (s.bytes a n)] ∧
      t.raises = (s.raise .eccCorr (dieOfAddr a) (packBits (eccSyndrome e.addr))).raises ∧
      t.poisonL = s.poisonL ∧ SameMem s t ∧ SameCores [] s t := by
  obtain ⟨u, hu, honly, hret⟩ : ∃ u, requestEcc s a [e] = u.raise .eccCorr (dieOfAddr a) (packBits (eccSyndrome e.addr)) ∧
      SliceOnly s u ∧ SameRetired s u := by
    rw [requestEcc_one he, lineEcc_corrected he h.lt_top hbits]
    unfold noteCe
    rw [he.die]
    exact ⟨_, rfl, counted_only s _ _ _ _ (by decide)⟩
  have hclean := (poisoned_congr h (hret.congr (State.raise_regs u .eccCorr (dieOfAddr a) (packBits (eccSyndrome e.addr)))) honly.poisonL).trans hp
  obtain ⟨t, ht, hout, hmem, hcores, hraises, hpois⟩ :=
    sliceRead_answer (data := data) h hhint hopen hu hclean honly.outbox honly.mem honly.cores
  exact ⟨t, ht, hout, hraises.trans (raises_of_only honly ..), hpois.trans honly.poisonL, hmem, hcores⟩

theorem insertNat_contains (l : List Nat) (x : Nat) : (insertNat l x).contains x = true := by
  rw [List.contains_iff_mem]
  induction l with
  | nil => exact .head _
  | cons k l ih =>
    unfold insertNat
    split_ifs with hlt heq
    · exact .head _
    · exact heq ▸ .head _
    · exact .tail _ ih

theorem sliceRead_uncorrectable (h : InLine a n) (hhint : hint ≤ 3) (hopen : LineOpen s a) (he : AtLine e a) (hbits : e.bits = 2) :
    ∃ t, exec (.sliceRequest .read a n hint data [e]) s = .next t ∧ t.outbox = s.outbox ++ [.memData true []] ∧
      t.raises = (s.raise .eccUncorr (dieOfAddr a) (packBits (eccSyndrome e.addr ++ [(0, 26, 14)]))).raises ∧
      t.poisonL.contains (a / 64) = true ∧ SameMem s t ∧ SameCores [] s t := by
  obtain ⟨u, hu, honly⟩ : ∃ u, requestEcc s a [e] = State.raise { u with poisonL := insertNat s.poisonL (a / 64) } .eccUncorr (dieOfAddr a)
      (packBits (eccSyndrome e.addr ++ [(0, 26, 14)])) ∧ SliceOnly s u := by
    rw [requestEcc_one he, lineEcc_uncorrectable he h.lt_top hbits]
    unfold noteUe poisonAt
    rw [he.die, if_pos (he.lt_top h.lt_top), he.1]
    obtain ⟨honly, -⟩ := counted_only s (a / 64) (dieOfAddr a) 0x30
      (fun x => { x with rowUe := if x.rowUe.contains (rowAt e.addr) then x.rowUe else x.rowUe ++ [rowAt e.addr] }) (by decide)
    refine ⟨_, ?_, honly⟩
    rw [honly.poisonL]
  have hpois : poisoned (State.raise { u with poisonL := insertNat s.poisonL (a / 64) } .eccUncorr (dieOfAddr a)
      (packBits (eccSyndrome e.addr ++ [(0, 26, 14)]))) a n = true := by
    rw [poisoned_inLine h]
    exact Bool.or_eq_true_iff.mpr (.inl (insertNat_contains ..))
  obtain ⟨t, ht, hout, hmem, hcores, hraises, hp⟩ :=
    sliceRead_answer (data := data) h hhint hopen hu hpois honly.outbox honly.mem honly.cores
  refine ⟨t, ht, hout, hraises.trans (raises_of_only honly ..), ?_, hmem, hcores⟩
  rw [hp]
  exact insertNat_contains ..

/-! ### Writes -/

theorem sliceWrite_whole_or_clean (h : InLine a data.length) (hhint : hint ≤ 3) (hopen : LineOpen s a)
    (hret : isRetired s (64 * (a / 64)) = false) (hpois : s.poisonL.contains (a / 64) = false ∨ data.length = 64) :
    ∃ t, exec (.sliceRequest .write a data.length hint data []) s = .next t ∧ t.bytes a data.length = data ∧ MemBut a data.length s t ∧
      t.poisonL.contains (a / 64) = false ∧ t.outbox = s.outbox ∧ SameCores [] s t ∧ (∀ p ∈ t.lr, p.2 ≠ a / 64) := by
  obtain ⟨honly, hregs⟩ := sameButDies_requestEcc s a
  have hexec := exec_sliceWrite (ecc := []) h hhint hopen
  generalize requestEcc s a [] = u at *
  have huret : SameRetired s u := sameRetired_of_regs hregs
  dsimp only at hexec
  rw [hbmWrite_inLine h ((huret _ h.line_lt_top).trans hret)] at hexec
  have hwritten := (sameRetired_lineWritten u hint a data _ h.line_lt_top).trans ((huret _ h.line_lt_top).trans hret)
  have hleft : (lineWritten u hint a data).poisonL.contains (a / 64) = false := by
    rw [lineWritten_poisonL]
    split
    · exact not_contains_of_filter ..
    next h64 =>
      rw [honly.poisonL]
      exact hpois.resolve_right h64
  have hclean : poisoned (lineWritten u hint a data) a data.length = false := by
    rw [poisoned_inLine h, hleft, hwritten, Bool.or_false]
  rw [hclean, if_neg Bool.false_ne_true] at hexec
  have hmem := lineWritten_mem u hint a data
  have hlr := lineWritten_lr u hint a data
  have hout := lineWritten_outbox u hint a data
  have hcores := lineWritten_cores u hint a data
  generalize lineWritten u hint a data = v at *
  rw [honly.mem] at hmem
  refine ⟨_, hexec, bytes_of_memPutAll (s := s) hmem rfl, memBut_of_memPutAll (s := s) hmem rfl, hleft, hout.trans honly.outbox,
    sameCores_of_cores [] (hcores.trans honly.cores), fun p hp => ?_⟩
  rw [ended_lr, hlr] at hp
  exact of_decide_eq_true (List.mem_filter.mp hp).2

theorem sliceWrite_poisoned (h : InLine a data.length) (hpart : data.length < 64) (hhint : hint ≤ 3) (hopen : LineOpen s a)
    (hret : isRetired s (64 * (a / 64)) = false) (hpois : s.poisonL.contains (a / 64) = true) :
    ∃ t, exec (.sliceRequest .write a data.length hint data []) s = .next t ∧ t.poisonL = s.poisonL ∧ MemBut a data.length s t ∧
      t.outbox = s.outbox ++ [.memData true []] ∧ SameCores [] s t := by
  obtain ⟨honly, hregs⟩ := sameButDies_requestEcc s a
  have hexec := exec_sliceWrite (ecc := []) h hhint hopen
  generalize requestEcc s a [] = u at *
  have huret : SameRetired s u := sameRetired_of_regs hregs
  dsimp only at hexec
  rw [hbmWrite_inLine h ((huret _ h.line_lt_top).trans hret)] at hexec
  have hkept : (lineWritten u hint a data).poisonL = s.poisonL := by
    rw [lineWritten_poisonL, if_neg hpart.ne, honly.poisonL]
  have hbad : poisoned (lineWritten u hint a data) a data.length = true := by
    rw [poisoned_inLine h, hkept, hpois, Bool.true_or]
  rw [hbad, if_pos rfl] at hexec
  have hmem := lineWritten_mem u hint a data
  have hout := lineWritten_outbox u hint a data
  have hcores := lineWritten_cores u hint a data
  generalize lineWritten u hint a data = v at *
  rw [honly.mem] at hmem
  exact ⟨_, hexec, hkept, memBut_of_memPutAll (s := s) hmem rfl, congrArg (· ++ _) (hout.trans honly.outbox),
    sameCores_of_cores [] (hcores.trans honly.cores)⟩

theorem sliceWrite_retired (h : InLine a data.length) (hhint : hint ≤ 3) (hopen : LineOpen s a)
    (hret : isRetired s (64 * (a / 64)) = true) :
    ∃ t, exec (.sliceRequest .write a data.length hint data []) s = .next t ∧ SameMem s t ∧
      t.outbox = s.outbox ++ [.memData true []] ∧ SameCores [] s t := by
  obtain ⟨honly, hregs⟩ := sameButDies_requestEcc s a
  have hexec := exec_sliceWrite (ecc := []) h hhint hopen
  generalize requestEcc s a [] = u at *
  have huret : SameRetired s u := sameRetired_of_regs hregs
  have hvret : SameRetired s { u with memBad := true } := huret.congr rfl
  dsimp only at hexec
  have hbad : poisoned { u with memBad := true } a data.length = true := by
    rw [poisoned_inLine h, (hvret _ h.line_lt_top).trans hret, Bool.or_true]
  rw [hbmWrite_retired h ((huret _ h.line_lt_top).trans hret), hbad, if_pos rfl] at hexec
  exact ⟨_, hexec, sameMem_of_mem honly.mem, congrArg (· ++ _) honly.outbox, sameCores_of_cores [] honly.cores⟩

/-! ### Atomics -/

theorem atWidth_cases (code : Nat) : atWidth code = 2 ∨ atWidth code = 4 ∨ atWidth code = 8 := by
  unfold atWidth
  split_ifs
  · exact .inr (.inr rfl)
  · exact .inl rfl
  · exact .inr (.inl rfl)

theorem inLine_atomic {code : Nat} (htop : a + atWidth code ≤ hbmTop) (hal : a % atWidth code = 0) : InLine a (atWidth code) := by
  refine ⟨htop, ?_, ?_⟩
  · rcases atWidth_cases code with h | h | h <;> omega
  · rcases atWidth_cases code with h | h | h <;> rw [h] at hal ⊢ <;> omega

variable {code x cmp : Nat}

theorem exec_sliceAtomic (htop : a + atWidth code ≤ hbmTop) (hcode : code ≤ 10) (hal : a % atWidth code = 0) (hopen : LineOpen s a) :
    exec (.sliceAtomic code a x cmp []) s =
      if poisoned (requestEcc s a []) a (atWidth code) then .next (ended s ((requestEcc s a []).emit (.memData true [])))
      else
        let r := (requestEcc s a []).atomicAt hintNormal code a x cmp
        .next (ended s (r.1.emit (.memData false (leBytes (atWidth code) r.2.1)))) := by
  have hgood : ¬(decide (hbmTop < a + atWidth code) || decide (10 < code) || decide (a % atWidth code ≠ 0)) = true := by
    simp only [Bool.or_eq_true, decide_eq_true_eq]
    omega
  show execSliceAtomic code a x cmp [] s = _
  unfold execSliceAtomic
  rw [if_neg hgood, if_neg (by rw [all_on_of_lineOpen hopen]; decide)]
  rfl

theorem sliceAtomic_stored (htop : a + atWidth code ≤ hbmTop) (hcode : code ≤ 10) (hal : a % atWidth code = 0) (hopen : LineOpen s a)
    (hclean : poisoned s a (atWidth code) = false) :
    ∃ t, exec (.sliceAtomic code a x cmp []) s = .next t ∧
      t.bytes a (atWidth code) = leBytes (atWidth code) (atomicApply code (s.num a (atWidth code)) x cmp).1 ∧
      MemBut a (atWidth code) s t ∧ t.outbox = s.outbox ++ [.memData false (leBytes (atWidth code) (s.num a (atWidth code)))] ∧
      SameCores [] s t := by
  have hline := inLine_atomic htop hal
  obtain ⟨honly, hregs⟩ := sameButDies_requestEcc s a
  have hexec := exec_sliceAtomic (x := x) (cmp := cmp) htop hcode hal hopen
  generalize requestEcc s a [] = u at *
  have huret : SameRetired s u := sameRetired_of_regs hregs
  have hret := (huret _ hline.line_lt_top).trans (not_retired_of_not_poisoned hline hclean)
  rw [if_neg (Bool.eq_false_iff.mp ((poisoned_congr hline huret honly.poisonL).trans hclean))] at hexec
  have hlen : (leBytes (atWidth code) (atomicApply code (s.num a (atWidth code)) x cmp).1).length = atWidth code := leBytes_length ..
  have hwritten := hbmWrite_inLine (s := u) (hint := hintNormal) (hlen ▸ hline) hret
  have hat : u.atomicAt hintNormal code a x cmp = ((hbmWrite u hintNormal a
      (leBytes (atWidth code) (atomicApply code (s.num a (atWidth code)) x cmp).1)).addCtr (rSlice (dieOfAddr a) 0x28) 1,
        s.num a (atWidth code), (atomicApply code (s.num a (atWidth code)) x cmp).2) := by
    rw [← num_mem s honly.mem]
    rfl
  dsimp only at hexec
  rw [hat, hwritten] at hexec
  dsimp only at hexec
  generalize leBytes (atWidth code) (atomicApply code (s.num a (atWidth code)) x cmp).1 = bs at *
  have hmem := lineWritten_mem u hintNormal a bs
  have hout := lineWritten_outbox u hintNormal a bs
  have hcores := lineWritten_cores u hintNormal a bs
  generalize lineWritten u hintNormal a bs = v at *
  rw [honly.mem] at hmem
  exact ⟨_, hexec, bytes_of_memPutAll (s := s) hmem hlen, memBut_of_memPutAll (s := s) hmem hlen,
    congrArg (· ++ _) (hout.trans honly.outbox), sameCores_of_cores [] (hcores.trans honly.cores)⟩

theorem sliceAtomic_poisoned (htop : a + atWidth code ≤ hbmTop) (hcode : code ≤ 10) (hal : a % atWidth code = 0) (hopen : LineOpen s a)
    (hbad : poisoned s a (atWidth code) = true) :
    ∃ t, exec (.sliceAtomic code a x cmp []) s = .next t ∧ t.outbox = s.outbox ++ [.memData true []] ∧ SameMem s t ∧ SameRegs [] s t ∧
      SameCores [] s t := by
  obtain ⟨honly, hregs⟩ := sameButDies_requestEcc s a
  have hexec := exec_sliceAtomic (x := x) (cmp := cmp) htop hcode hal hopen
  generalize requestEcc s a [] = u at *
  rw [if_pos ((poisoned_congr (inLine_atomic htop hal) (sameRetired_of_regs hregs) honly.poisonL).trans hbad)] at hexec
  exact ⟨_, hexec, congrArg (· ++ _) honly.outbox, sameMem_of_mem honly.mem, sameRegs_regs _ hregs, sameCores_of_cores [] honly.cores⟩

/-- Table 12.2 on 32-bit integers. -/
theorem atomicApply_int32 (old x cmp : Nat) (_ : old < 2 ^ 32) (_ : x < 2 ^ 32) :
    (atomicApply 2 old x cmp).1 = (old + x) % 2 ^ 32 ∧
    toSigned 32 (atomicApply 5 old x cmp).1 = max (toSigned 32 old) (toSigned 32 x) ∧
    toSigned 32 (atomicApply 6 old x cmp).1 = min (toSigned 32 old) (toSigned 32 x) ∧
    (atomicApply 7 old x old).1 = x ∧ (old ≠ cmp → (atomicApply 7 old x cmp).1 = old) := by
  refine ⟨rfl, ?_, ?_, if_pos rfl, fun hne => if_neg hne⟩
  · show toSigned 32 (if toSigned 32 old < toSigned 32 x then x else old) = _
    split
    · exact (max_eq_right (by omega)).symm
    · exact (max_eq_left (by omega)).symm
  · show toSigned 32 (if toSigned 32 x < toSigned 32 old then x else old) = _
    split
    · exact (min_eq_right (by omega)).symm
    · exact (min_eq_left (by omega)).symm

/-! ### Domains that are not ON (R380) -/

/-- A domain of a die that is neither in RETENTION nor OFF. -/
def PdAwake (d n : Nat) (s : State) : Prop := pdState s d n ≠ 2 ∧ pdState s d n ≠ 3

theorem pdState_congr {d n : Nat} (h : t.rd (rPd d n) = s.rd (rPd d n)) : pdState t d n = pdState s d n := by
  unfold pdState State.f
  rw [h]

theorem PdAwake.congr {d n : Nat} (h : PdAwake d n s) (hrd : t.rd (rPd d n) = s.rd (rPd d n)) : PdAwake d n t := by
  unfold PdAwake
  rw [pdState_congr hrd]
  exact h

theorem pdAwake_of_setF {d n x : Nat} (hx : x % 2 ^ 3 ≠ 2 ∧ x % 2 ^ 3 ≠ 3) (s : State) : PdAwake d n (s.setF (rPd d n) 0 3 x) := by
  have hst : pdState (s.setF (rPd d n) 0 3 x) d n = x % 2 ^ 3 := State.f_setF_same s _ 0 3 x (by decide)
  unfold PdAwake
  rw [hst]
  exact hx

theorem PdAwake.satF {d n o l w k : Nat} (h : PdAwake d n s) (hl : 3 ≤ l) (hw : l + w ≤ 64) : PdAwake d n (s.satF o l w k) := by
  by_cases ho : o = rPd d n
  · subst ho
    have hst : pdState (s.satF (rPd d n) l w k) d n = pdState s d n := State.f_setF_apart s _ l w _ 0 3 hw (.inl hl)
    unfold PdAwake
    rw [hst]
    exact h
  · exact h.congr (State.rd_satF_other s _ _ _ _ _ (Ne.symm ho))

/-- Waking one domain puts no other to sleep. -/
theorem PdAwake.wakeNow {d n e k : Nat} (h : PdAwake d n s) : PdAwake d n (wakeNow s e k) := by
  have hon : PdAwake d n (s.setF (rPd e k) 0 3 0) := by
    by_cases heq : rPd d n = rPd e k
    · have := pdAwake_of_setF (d := d) (n := n) (x := 0) (by decide) s
      rwa [heq] at this
    · exact h.congr (State.rd_setF_other s _ _ _ _ _ heq)
  have hwoken (u : State) (f : Die → Die) (hu : PdAwake d n u) : PdAwake d n (u.modDie e f) := hu.congr (State.modDie_rd ..)
  unfold Machine.wakeNow
  exact keeps_ite (P := PdAwake d n) _ h (hwoken _ _ (hon.satF (by decide) (by decide)))

theorem rPd_lt {d n : Nat} (hd : d < 8) (hn : n ≤ 45) : ∃ o, rPd d n = dieBase d + o ∧ 0x2100 ≤ o ∧ o < 0x2300 := by
  refine ⟨0x2100 + 8 * n, ?_, by omega, by omega⟩
  unfold rPd
  rw [if_neg (by omega)]
  omega

/-- The registers of slices, memory controllers and trace rings are no PD_CTL. -/
theorem rPd_ne {d n e o : Nat} (hd : d < 8) (hn : n ≤ 45) (ho : 0x2300 ≤ o ∧ o < 0x800000) : rPd d n ≠ dieBase e + o := by
  obtain ⟨k, hk, hlo, hhi⟩ := rPd_lt hd hn
  rw [hk]
  unfold dieBase
  omega

theorem rPd_ne_rRing {d n r o : Nat} (hd : d < 8) (hn : n ≤ 45) (hr : r < 8) (ho : o < 0x20) : rPd d n ≠ rRing r o := by
  obtain ⟨k, hk, hlo, hhi⟩ := rPd_lt hd hn
  rw [hk]
  unfold dieBase rRing glintBase
  omega

/-- Trace records put no domain of a die to sleep. -/
theorem ringKeeps_pdAwake {d n : Nat} (hd : d < 8) (hn : n ≤ 45) : RingKeeps (PdAwake d n) where
  counter s e o ho h := h.congr (State.rd_addCtr_other _ _ _ _ (by
    have hplace : rSlice e o = dieBase e + (0x60000 + o) := Nat.add_assoc ..
    rw [hplace]
    exact rPd_ne hd hn (by omega)))
  poisonRead s e h := h.congr (State.rd_addCtr_other _ _ _ _ (by
    have hplace : mcBase e + 0x38 = dieBase e + 0x40038 := by
      unfold mcBase
      omega
    rw [hplace]
    exact rPd_ne hd hn (by omega)))
  lines _ _ _ h := h.congr rfl
  wake _ _ _ _ h := h.wakeNow
  mem _ _ _ _ _ _ h := h.congr rfl
  lost s r hr h := h.congr ((State.rd_addCtr_other _ _ _ _ (rPd_ne_rRing hd hn hr (by decide))).trans (State.raise_rd ..))
  lostMore s r hr h := h.congr (State.rd_addCtr_other _ _ _ _ (rPd_ne_rRing hd hn hr (by decide)))
  produced s r k hr h := h.congr (State.rd_setF_other _ _ _ _ _ _ (rPd_ne_rRing hd hn hr (by decide)))

/-- A property that waking domains keeps. -/
structure WakeKeeps (P : State → Prop) : Prop extends RingKeeps P where
  dies : ∀ (s : State) (d : Nat) (f : Die → Die), P s → P (s.modDie d f)
  rsi : ∀ (s : State) (d rail code : Nat), P s → P (s.emit (.rsi d rail code))
  state : ∀ (s : State) (d n st : Nat), st = 0 ∨ st = 4 → P s → P (s.setF (rPd d n) 0 3 st)
  woken : ∀ (s : State) (d n : Nat), P s → P (s.satF (rPd d n) 32 32 1)

namespace WakeKeeps

variable {P : State → Prop} (k : WakeKeeps P)
include k

theorem setPd (d n st : Nat) (hst : st = 0 ∨ st = 4) (h : P s) : P (setPd s d n st) := by
  unfold Machine.setPd
  refine keeps_ite _ h (keeps_ite _ ?_ ?_)
  · exact k.glintPower _ _ _ _ _ _ (k.state s d n st hst h)
  · exact k.glintPower _ _ _ _ _ _ (k.state s d n st hst h)

theorem pumpRsi (d : Nat) (h : P s) : P (pumpRsi s d) := by
  unfold Machine.pumpRsi
  refine k.dies _ _ _ (List.foldlRecOn _ _ (motive := fun a : State × List Rsi × Nat => P a.1) h fun a ha q _ => ?_)
  split_ifs
  · exact ha
  · exact ha
  · exact k.rsi _ _ _ _ ha

theorem askGate (d n code : Nat) (h : P s) : P (askGate s d n code) := k.pumpRsi d (k.dies _ _ _ h)

theorem wakeDom (d n : Nat) (h : P s) : P (wakeDom s d n) := by
  unfold Machine.wakeDom
  refine keeps_ite _ h (keeps_ite _ (k.woken _ _ _ (k.setPd d n 0 (.inl rfl) h)) (keeps_ite _ (keeps_ite _ (k.dies _ _ _ h) ?_) ?_))
  · exact k.setPd d n 0 (.inl rfl) (k.dies _ _ _ h)
  · exact k.askGate d n _ (k.setPd d n 4 (.inr rfl) (k.dies _ _ _ h))

end WakeKeeps

theorem wakeKeeps_pdAwake {d n : Nat} (hd : d < 8) (hn : n ≤ 45) : WakeKeeps (PdAwake d n) where
  toRingKeeps := ringKeeps_pdAwake hd hn
  dies _ _ _ h := h.congr (State.modDie_rd ..)
  rsi _ _ _ _ h := h.congr rfl
  state s e k st hst h := by
    by_cases heq : rPd d n = rPd e k
    · have := pdAwake_of_setF (d := d) (n := n) (x := st) (by rcases hst with rfl | rfl <;> decide) s
      rwa [heq] at this
    · exact h.congr (State.rd_setF_other s _ _ _ _ _ heq)
  woken _ _ _ h := h.satF (by decide) (by decide)

theorem wakeKeeps_cores (s : State) : WakeKeeps (fun t => t.cores = s.cores) where
  counter _ _ _ _ h := (State.addCtr_cores ..).trans h
  poisonRead _ _ h := (State.addCtr_cores ..).trans h
  lines _ _ _ h := h
  wake _ _ _ _ h := (wakeNow_cores ..).trans h
  mem _ _ _ _ _ _ h := h
  lost _ _ _ h := (State.addCtr_cores ..).trans ((State.raise_cores ..).trans h)
  lostMore _ _ _ h := (State.addCtr_cores ..).trans h
  produced _ _ _ _ h := (State.setF_cores ..).trans h
  dies _ _ _ h := (State.modDie_cores ..).trans h
  rsi _ _ _ _ h := (State.emit_cores ..).trans h
  state _ _ _ _ _ h := (State.setF_cores ..).trans h
  woken _ _ _ h := (State.satF_cores ..).trans h

/-- Waking a domain answers no request to memory. -/
theorem wakeKeeps_memData (s : State) :
    WakeKeeps (fun t => ∀ b bs, Signal.memData b bs ∈ t.outbox → Signal.memData b bs ∈ s.outbox) where
  counter _ _ _ _ h := by rwa [State.addCtr_outbox]
  poisonRead _ _ h := by rwa [State.addCtr_outbox]
  lines _ _ _ h := h
  wake _ _ _ _ h := by rwa [wakeNow_outbox]
  mem _ _ _ _ _ _ h := h
  lost _ _ _ h := by rwa [State.addCtr_outbox, State.raise_outbox]
  lostMore _ _ _ h := by rwa [State.addCtr_outbox]
  produced _ _ _ _ h := by rwa [State.setF_outbox]
  dies _ _ _ h := by rwa [State.modDie_outbox]
  rsi t _ _ _ h b bs hmem := by
    rw [State.emit_outbox] at hmem
    rcases List.mem_append.mp hmem with hmem | hmem
    · exact h b bs hmem
    · cases List.mem_singleton.mp hmem
  state _ _ _ _ _ h := by rwa [State.setF_outbox]
  woken _ _ _ h := by rwa [State.satF_outbox]

/-- After its wake a domain of a die is ON, WAKING, ENTERING with a wake in mind, or of no listed state: not asleep. -/
theorem pdAwake_wakeDom {d n : Nat} (hd : d < 8) (hn : n ≤ 45) (s : State) : PdAwake d n (wakeDom s d n) := by
  have k := wakeKeeps_pdAwake hd hn
  have hset (u : State) (st : Nat) (hst : st = 0 ∨ st = 4) : PdAwake d n (setPd u d n st) := by
    unfold setPd
    by_cases hwas : pdState u d n = st
    · rw [if_pos hwas]
      unfold PdAwake
      omega
    · rw [if_neg hwas]
      have := pdAwake_of_setF (d := d) (n := n) (x := st) (by rcases hst with rfl | rfl <;> decide) u
      exact keeps_ite (P := PdAwake d n) _ (k.glintPower _ _ _ _ _ _ this) (k.glintPower _ _ _ _ _ _ this)
  by_cases hon : (decide (pdState s d n = 0) || decide (pdState s d n = 4)) = true
  · unfold wakeDom
    rw [if_pos hon]
    simp only [Bool.or_eq_true, decide_eq_true_eq] at hon
    unfold PdAwake
    omega
  · unfold wakeDom
    rw [if_neg hon, if_neg (by omega)]
    by_cases hentering : pdState s d n = 1
    · have hawake : PdAwake d n s := by
        unfold PdAwake
        omega
      rw [if_pos hentering]
      exact keeps_ite (P := PdAwake d n) _ (k.dies _ _ _ hawake) (hset _ 0 (.inl rfl))
    · rw [if_neg hentering]
      exact k.askGate d n _ (hset _ 4 (.inr rfl))

theorem foldl_wakes {P : State → Prop} (k : WakeKeeps P) (ns : List (Nat × Nat)) (h : P s) :
    P (ns.foldl (fun s p => wakeDom s p.1 p.2) s) :=
  List.foldlRecOn _ _ (motive := P) h fun _ ht p _ => k.wakeDom p.1 p.2 ht

theorem foldl_wakes_awake {ns : List (Nat × Nat)} (hns : ∀ p ∈ ns, p.1 < 8 ∧ p.2 ≤ 45) (s : State) :
    ∀ p ∈ ns, PdAwake p.1 p.2 (ns.foldl (fun s p => wakeDom s p.1 p.2) s) := by
  induction ns generalizing s with
  | nil => intro p hp; cases hp
  | cons q ns ih =>
    intro p hp
    rcases List.mem_cons.mp hp with rfl | hp
    · obtain ⟨hd, hn⟩ := hns p (.head _)
      exact foldl_wakes (wakeKeeps_pdAwake hd hn) ns (pdAwake_wakeDom hd hn s)
    · exact ih (fun p hp => hns p (.tail _ hp)) _ p hp

theorem lineDomains_bounds (h : InLine a n) : ∀ p ∈ lineDomains s (a / 64), p.1 < 8 ∧ p.2 ≤ 45 := by
  have hdie : lineDie (a / 64) < 8 := by
    have := h.line_lt_top
    unfold lineDie stackBytes
    unfold hbmTop at this
    omega
  intro p hp
  rcases List.mem_cons.mp hp with rfl | hp
  · exact ⟨hdie, show 41 ≤ 45 by decide⟩
  · split at hp
    · cases hp
    · rw [List.mem_singleton.mp hp]
      exact ⟨hdie, show 45 ≤ 45 by decide⟩

theorem slice_asleep {mop : MemOp} (h : InLine a n) (hhint : hint ≤ 3) (hclosed : ¬LineOpen s a) :
    ∃ t, exec (.sliceRequest mop a n hint data ecc) s = .next t ∧ SameCores [] s t ∧
      (∀ b bs, Signal.memData b bs ∈ t.outbox → Signal.memData b bs ∈ s.outbox) ∧
      ∀ p ∈ lineDomains s (a / 64), pdState t p.1 p.2 ≠ 2 ∧ pdState t p.1 p.2 ≠ 3 := by
  have hoff : (lineDomains s (a / 64)).all (fun p => domOn s p.1 p.2) = false := by
    rw [Bool.eq_false_iff]
    exact fun hall => hclosed (List.all_eq_true.mp hall)
  have hexec : exec (.sliceRequest mop a n hint data ecc) s =
      .next (ended s ((lineDomains s (a / 64)).foldl (fun s p => wakeDom s p.1 p.2) s)) := by
    show execSliceRequest mop a n hint data ecc s = _
    unfold execSliceRequest needOn
    rw [if_neg (request_in_line h hhint), hoff]
    rfl
  exact ⟨_, hexec, sameCores_of_cores [] (foldl_wakes (wakeKeeps_cores s) _ rfl), foldl_wakes (wakeKeeps_memData s) _ fun _ _ hmem => hmem,
    foldl_wakes_awake (lineDomains_bounds h) s⟩

/-- Settles O27: a served request works on its one line; one whose domains are asleep only wakes them. -/
theorem sliceRequests : Obligations.SliceRequests := by
  refine ⟨fun s a n hint data htop hpos hline hhint hopen => sliceRead_plain ⟨htop, hpos, hline⟩ hhint hopen,
    fun s a n hint data e htop hpos hline hhint hopen hat hsp hbits hp =>
      sliceRead_corrected ⟨htop, hpos, hline⟩ hhint hopen ⟨hat, hsp⟩ hbits hp,
    fun s a n hint data e htop hpos hline hhint hopen hat hsp hbits =>
      sliceRead_uncorrectable ⟨htop, hpos, hline⟩ hhint hopen ⟨hat, hsp⟩ hbits,
    fun s a hint data htop hpos hline hhint hopen hret hpois => sliceWrite_whole_or_clean ⟨htop, hpos, hline⟩ hhint hopen hret hpois,
    fun s a hint data htop hpos hpart hline hhint hopen hret hpois =>
      sliceWrite_poisoned ⟨htop, hpos, hline⟩ hpart hhint hopen hret hpois,
    fun s a hint data htop hpos hline hhint hopen hret => sliceWrite_retired ⟨htop, hpos, hline⟩ hhint hopen hret,
    fun s code a x cmp htop hcode hal hopen hclean => sliceAtomic_stored htop hcode hal hopen hclean,
    fun s code a x cmp htop hcode hal hopen hbad => sliceAtomic_poisoned htop hcode hal hopen hbad, atomicApply_int32,
    fun s op a n hint data ecc htop hpos hline hhint hclosed => slice_asleep ⟨htop, hpos, hline⟩ hhint hclosed,
    fun s op a n hint data ecc hno => exec_sliceRequest_refused (.inr hno), fun s code a x cmp ecc hno => exec_sliceAtomic_refused (.inr hno)⟩

end Sys2Proof.Machine
end

section
/-! Awl, the time base and margining (R409-R418). -/
namespace Sys2Proof.Machine

variable {s t : State} {p lane bits errs : Nat}

/-! ### State of Awl and of ports -/

@[simp] theorem State.awlp_setAwlp (s : State) (p q : Nat) (x : AwlP) : (s.setAwlp p x).awlp q = if q = p then x else s.awlp q := by
  unfold State.setAwlp State.awlp
  simp

@[simp] theorem State.wport_setWport (s : State) (p q : Nat) (x : WPort) : (s.setWport p x).wport q = if q = p then x else s.wport q := by
  unfold State.setWport State.wport
  simp

@[simp] theorem State.wport_modWport (s : State) (p q : Nat) (f : WPort → WPort) :
    (s.modWport p f).wport q = if q = p then f (s.wport p) else s.wport q := State.wport_setWport ..

theorem wport_wen (h : t.wen = s.wen) (p : Nat) : t.wport p = s.wport p := by
  unfold State.wport
  rw [h]

@[simp] theorem ended_awlp (s t : State) (p : Nat) : (ended s t).awlp p = t.awlp p := rfl
@[simp] theorem ended_wport (s t : State) (p : Nat) : (ended s t).wport p = t.wport p := rfl

theorem awlp_awl (h : t.awl = s.awl) (p : Nat) : t.awlp p = s.awlp p := by
  unfold State.awlp
  rw [h]

/-- A domain that wakes changes its own register. -/
theorem wakeNow_rd_other {d n o : Nat} (ho : o ≠ rPd d n) (s : State) : (wakeNow s d n).rd o = s.rd o := by
  unfold wakeNow
  split
  · rfl
  · rw [State.modDie_rd, State.rd_satF_other _ _ _ _ _ _ ho, State.rd_setF_other _ _ _ _ _ _ ho]

theorem setAwlp_rd {o : Nat} (ho : o ≠ rPd 8 2) (s : State) (p : Nat) (x : AwlP) : (s.setAwlp p x).rd o = s.rd o :=
  wakeNow_rd_other ho s

theorem awlBase_add_ne_rPd (p k : Nat) : awlBase p + k ≠ rPd 8 2 := by
  have hpd : rPd 8 2 = 0x500110 := rfl
  rw [hpd]
  unfold awlBase
  omega

/-! ### Pattern checkers (R409) -/

theorem exec_prbsLock (s : State) (p lane : Nat) :
    exec (.prbsLock p lane) s = .next (ended s
      (if 18 ≤ p ∨ 9 ≤ lane ∨ awlIn s p 1 = false ∨ awlState s p ≠ 1 ∨ lane ∈ (s.awlp p).locked then s
        else s.setAwlp p { s.awlp p with locked := (s.awlp p).locked ++ [lane] })) := by
  show execPrbsLock p lane s = _
  unfold execPrbsLock
  simp only [Bool.or_eq_true, decide_eq_true_eq, Bool.not_eq_true', List.contains_iff_mem, or_assoc, done_eq]

theorem prbsLock_locks (hp : p < 18) (hlane : lane < 9) (hin : awlIn s p 1 = true) (hrun : awlState s p = 1) (hnew : lane ∉ (s.awlp p).locked) :
    ∃ t, exec (.prbsLock p lane) s = .next t ∧ (t.awlp p).locked = (s.awlp p).locked ++ [lane] ∧ SameMem s t ∧ SameCores [] s t ∧
      t.outbox = s.outbox ∧ t.raises = s.raises := by
  have hgo : ¬(18 ≤ p ∨ 9 ≤ lane ∨ awlIn s p 1 = false ∨ awlState s p ≠ 1 ∨ lane ∈ (s.awlp p).locked) := by
    simp [hin, hrun, hnew]
    omega
  have hexec := exec_prbsLock s p lane
  rw [if_neg hgo] at hexec
  exact ⟨_, hexec, by simp, fun _ => by simp, fun _ _ => by simp, by simp, by simp⟩

theorem exec_prbsUnlock (s : State) (p lane bits errs : Nat) :
    exec (.prbsUnlock p lane bits errs) s = .next (ended s
      (if 18 ≤ p ∨ awlIn s p 1 = false ∨ lane ∉ (s.awlp p).locked ∨ errs < 8 ∨ bits < errs then s
        else ((prbsCount s p lane bits errs).setAwlp p
          { (prbsCount s p lane bits errs).awlp p with locked := ((prbsCount s p lane bits errs).awlp p).locked.filter (fun l => l ≠ lane) }).raise
          .prbsUnlock 0 (packBits [(p, 0, 5), (lane, 5, 4)]))) := by
  show execPrbsUnlock p lane bits errs s = _
  unfold execPrbsUnlock
  simp only [Bool.or_eq_true, decide_eq_true_eq, Bool.not_eq_true', or_assoc, done_eq, List.contains_eq_mem, decide_eq_false_iff_not]

theorem prbsCount_awl (s : State) (p lane bits errs : Nat) : (prbsCount s p lane bits errs).awl = s.awl := rfl
theorem prbsCount_mem (s : State) (p lane bits errs : Nat) : (prbsCount s p lane bits errs).mem = s.mem := rfl
theorem prbsCount_raises (s : State) (p lane bits errs : Nat) : (prbsCount s p lane bits errs).raises = s.raises := rfl
theorem prbsCount_evNo (s : State) (p lane bits errs : Nat) : (prbsCount s p lane bits errs).evNo = s.evNo := rfl
theorem prbsCount_cores (s : State) (p lane bits errs : Nat) : (prbsCount s p lane bits errs).cores = s.cores := rfl

theorem prbsCount_errors (s : State) (p lane bits errs : Nat) :
    (prbsCount s p lane bits errs).rd (awlBase p + 0x200 + 8 * lane) = s.rd (awlBase p + 0x200 + 8 * lane) + BitVec.ofNat 64 errs := by
  unfold prbsCount
  rw [State.rd_addCtr_other _ _ _ _ (by omega), State.rd_addCtr_same]

theorem prbsCount_bits (s : State) (p lane bits errs : Nat) :
    (prbsCount s p lane bits errs).rd (awlBase p + 0x280 + 8 * lane) = s.rd (awlBase p + 0x280 + 8 * lane) + BitVec.ofNat 64 bits := by
  unfold prbsCount
  rw [State.rd_addCtr_same, State.rd_addCtr_other _ _ _ _ (by omega)]

theorem prbsUnlock_unlocks (hp : p < 18) (hin : awlIn s p 1 = true) (hlocked : lane ∈ (s.awlp p).locked) (herrs : 8 ≤ errs)
    (hbits : errs ≤ bits) :
    ∃ t, exec (.prbsUnlock p lane bits errs) s = .next t ∧ lane ∉ (t.awlp p).locked ∧
      t.rd (awlBase p + 0x200 + 8 * lane) = s.rd (awlBase p + 0x200 + 8 * lane) + BitVec.ofNat 64 errs ∧
      t.rd (awlBase p + 0x280 + 8 * lane) = s.rd (awlBase p + 0x280 + 8 * lane) + BitVec.ofNat 64 bits ∧
      t.raises = (s.raise .prbsUnlock 0 (packBits [(p, 0, 5), (lane, 5, 4)])).raises ∧ SameMem s t ∧ SameCores [] s t := by
  have hgo : ¬(18 ≤ p ∨ awlIn s p 1 = false ∨ lane ∉ (s.awlp p).locked ∨ errs < 8 ∨ bits < errs) := by
    simp [hin, hlocked]
    omega
  have hexec := exec_prbsUnlock s p lane bits errs
  rw [if_neg hgo] at hexec
  have herr := prbsCount_errors s p lane bits errs
  have hbit := prbsCount_bits s p lane bits errs
  have hmem := prbsCount_mem s p lane bits errs
  have hraises := prbsCount_raises s p lane bits errs
  have hev := prbsCount_evNo s p lane bits errs
  have hcores := prbsCount_cores s p lane bits errs
  generalize prbsCount s p lane bits errs = u at *
  have hrd (k : Nat) (x : AwlP) : (u.setAwlp p x).rd (awlBase p + k) = u.rd (awlBase p + k) := setAwlp_rd (awlBase_add_ne_rPd p k) u p x
  refine ⟨_, hexec, ?_, ?_, ?_, by simp [hraises, hev], sameMem_of_mem (by simp [hmem]), sameCores_of_cores [] (by simp [hcores])⟩
  · rw [awlp_awl (t := ended s _) (s := u.setAwlp p _) rfl]
    simp
  · rw [ended_rd, State.raise_rd, Nat.add_assoc, hrd, ← Nat.add_assoc, herr]
  · rw [ended_rd, State.raise_rd, Nat.add_assoc, hrd, ← Nat.add_assoc, hbit]

/-! ### The time base (R418) -/

/-- Good edges in a row after one more edge. -/
def goodEdges (s : State) : Nat := if (ppsOffset s.now).natAbs ≤ 50 then s.time.good + 1 else 0

/-- TB_CTL after an edge: the offset, and LOCKED (R418). -/
def edgeCtl (s : State) : State := (s.setF rTbCtl 32 32 (ppsOffset s.now % 2 ^ 32).toNat).setB rTbCtl 1 (s.fb rTbCtl 1 || 3 ≤ goodEdges s)

/-- The time base moves to `n` with the record `x`. -/
def State.setClock (s : State) (n : Nat) (x : TimeBase) : State := { s with now := n, time := x }

section
variable (s : State) (n : Nat) (x : TimeBase)
@[simp] theorem State.setClock_now : (s.setClock n x).now = n := rfl
@[simp] theorem State.setClock_time : (s.setClock n x).time = x := rfl
@[simp] theorem State.setClock_rd (r : Nat) : (s.setClock n x).rd r = s.rd r := rfl
@[simp] theorem State.setClock_f (r l w : Nat) : (s.setClock n x).f r l w = s.f r l w := rfl
@[simp] theorem State.setClock_fb (r l : Nat) : (s.setClock n x).fb r l = s.fb r l := rfl
@[simp] theorem State.setClock_mem : (s.setClock n x).mem = s.mem := rfl
@[simp] theorem State.setClock_byte (a : Nat) : (s.setClock n x).byte a = s.byte a := rfl
@[simp] theorem State.setClock_core (k : Nat) : (s.setClock n x).core k = s.core k := rfl
@[simp] theorem State.setClock_cores : (s.setClock n x).cores = s.cores := rfl
@[simp] theorem State.setClock_evNo : (s.setClock n x).evNo = s.evNo := rfl
@[simp] theorem State.setClock_raises : (s.setClock n x).raises = s.raises := rfl
end

/-- What an edge does to a time base under discipline. -/
def disciplined (s : State) : State :=
  (edgeCtl s).setClock (edgeCtl s).now { s.time with good := goodEdges s, adj := max (-200000) (min 200000 (-ppsOffset s.now)) }

theorem edgeCtl_rd_other {r : Nat} (hr : r ≠ rTbCtl) (s : State) : (edgeCtl s).rd r = s.rd r := by
  unfold edgeCtl
  rw [State.rd_setB_other _ _ _ _ _ hr, State.rd_setF_other _ _ _ _ _ _ hr]

theorem edgeCtl_offset (s : State) : (edgeCtl s).f rTbCtl 32 32 = (ppsOffset s.now % 2 ^ 32).toNat := by
  unfold edgeCtl
  rw [State.f_setB_apart _ _ _ _ _ _ (by decide) (by decide), State.f_setF_same _ _ _ _ _ (by decide)]
  exact Nat.mod_eq_of_lt (by omega)

theorem edgeCtl_locked (s : State) : (edgeCtl s).fb rTbCtl 1 = (s.fb rTbCtl 1 || 3 ≤ goodEdges s) := State.fb_setB_same _ _ _ _ (by decide)

theorem rd_disciplined (s : State) (r : Nat) : (disciplined s).rd r = (edgeCtl s).rd r := State.setClock_rd ..
theorem edgeCtl_mem (s : State) : (edgeCtl s).mem = s.mem := by simp [edgeCtl]
theorem edgeCtl_now (s : State) : (edgeCtl s).now = s.now := by simp [edgeCtl]
theorem edgeCtl_cores (s : State) : (edgeCtl s).cores = s.cores := by simp [edgeCtl]

/-- What an edge does before the time that TB_SET asked for is looked at. -/
def edgeSeen (s : State) : State := if s.fb rTbCtl 0 then disciplined s else s

/-- The time that TB_SET asked for is taken, or forgotten. -/
def tbTaken (s u : State) : State :=
  match s.time.tbSet with
  | none => u
  | some k => u.setClock (if k * 1000000000 < s.now then u.now else k * 1000000000) { u.time with tbSet := none }

theorem exec_ppsEdge (s : State) : exec .ppsEdge s = .next (ended s (tbTaken s (edgeSeen s))) := by
  have hseen : (if s.fb rTbCtl 0 then
      { (s.setF rTbCtl 32 32 (ppsOffset s.now % 2 ^ 32).toNat).setB rTbCtl 1 (s.fb rTbCtl 1 || 3 ≤ goodEdges s) with
        time := { s.time with good := goodEdges s, adj := max (-200000) (min 200000 (-ppsOffset s.now)) } } else s) = edgeSeen s := rfl
  show execPpsEdge s = _
  unfold execPpsEdge tbTaken
  dsimp only
  rw [done_eq]
  unfold goodEdges at hseen
  rw [hseen]
  generalize edgeSeen s = u
  cases s.time.tbSet with
  | none => rfl
  | some k =>
    dsimp only
    by_cases hk : k * 1000000000 < s.now
    · rw [if_pos hk, if_pos hk]
      rfl
    · rw [if_neg hk, if_neg hk]
      rfl

/-- An edge changes the time base and TB_CTL alone. -/
structure EdgeOnly (s t : State) : Prop where
  regs : SameRegs [rTbCtl] s t
  mem : SameMem s t
  cores : SameCores [] s t
  now : t.now = s.now

theorem edgeOnly_edgeSeen (s : State) : EdgeOnly s (edgeSeen s) := by
  unfold edgeSeen
  split
  · refine ⟨fun r hr => ?_, sameMem_of_mem ?_, sameCores_of_cores [] ?_, ?_⟩
    · rw [rd_disciplined, edgeCtl_rd_other (by simpa using hr)]
    · rw [disciplined, State.setClock_mem, edgeCtl_mem]
    · rw [disciplined, State.setClock_cores, edgeCtl_cores]
    · rw [disciplined, State.setClock_now, edgeCtl_now]
  · exact ⟨fun _ _ => rfl, fun _ => rfl, fun _ _ => rfl, rfl⟩

theorem ppsEdge_idle (hctl : s.fb rTbCtl 0 = false) (hset : s.time.tbSet = none) : exec .ppsEdge s = .next (ended s s) := by
  rw [exec_ppsEdge, edgeSeen, hctl, if_neg Bool.false_ne_true, tbTaken, hset]

/-- An edge that finds a time asked for takes it, unless the time base has passed it. -/
theorem exec_ppsEdge_set {k : Nat} (hset : s.time.tbSet = some k) :
    exec .ppsEdge s = .next (ended s ((edgeSeen s).setClock (if k * 1000000000 < s.now then (edgeSeen s).now else k * 1000000000)
      { (edgeSeen s).time with tbSet := none })) := by
  rw [exec_ppsEdge, tbTaken, hset]

theorem exec_ppsEdge_unset (hset : s.time.tbSet = none) : exec .ppsEdge s = .next (ended s (edgeSeen s)) := by
  rw [exec_ppsEdge, tbTaken, hset]

theorem EdgeOnly.clocked {u : State} (h : EdgeOnly s u) (n : Nat) (x : TimeBase) :
    SameRegs [rTbCtl] s (ended s (u.setClock n x)) ∧ SameMem s (ended s (u.setClock n x)) ∧ SameCores [] s (ended s (u.setClock n x)) := by
  obtain ⟨hregs, hmem, hcores, -⟩ := h
  exact ⟨fun r hr => by rw [ended_rd, State.setClock_rd, hregs r hr], fun a => by rw [ended_byte, State.setClock_byte, hmem a],
    fun k hk => by rw [ended_core, State.setClock_core, hcores k hk]⟩

theorem ppsEdge_set {k : Nat} (hset : s.time.tbSet = some k) :
    ∃ t, exec .ppsEdge s = .next t ∧ t.now = (if k * 1000000000 < s.now then s.now else k * 1000000000) ∧ t.time.tbSet = none ∧
      SameRegs [rTbCtl] s t ∧ SameMem s t ∧ SameCores [] s t := by
  have hexec := exec_ppsEdge_set hset
  have hedge := edgeOnly_edgeSeen s
  generalize edgeSeen s = u at *
  refine ⟨_, hexec, ?_, ?_, hedge.clocked ..⟩
  · rw [ended_now, State.setClock_now, hedge.now]
  · rw [ended_time, State.setClock_time]

/-- What discipline leaves in the time base and in TB_CTL. -/
structure Disciplined (s t : State) : Prop where
  good : t.time.good = goodEdges s
  adj : t.time.adj = max (-200000) (min 200000 (-ppsOffset s.now))
  offset : t.f rTbCtl 32 32 = (ppsOffset s.now % 2 ^ 32).toNat
  locked : t.fb rTbCtl 1 = (s.fb rTbCtl 1 || 3 ≤ goodEdges s)

theorem disciplined_edgeSeen (hctl : s.fb rTbCtl 0 = true) : Disciplined s (edgeSeen s) := by
  rw [edgeSeen, hctl, if_pos rfl, disciplined]
  exact ⟨by rw [State.setClock_time], by rw [State.setClock_time], by rw [State.setClock_f, edgeCtl_offset],
    by rw [State.setClock_fb, edgeCtl_locked]⟩

theorem ppsEdge_disciplined (hctl : s.fb rTbCtl 0 = true) :
    ∃ t, exec .ppsEdge s = .next t ∧ Disciplined s t ∧ (s.time.tbSet = none → t.now = s.now) ∧ SameRegs [rTbCtl] s t ∧ SameMem s t ∧
      SameCores [] s t := by
  have hedge := edgeOnly_edgeSeen s
  obtain ⟨hgood, hadj, hoff, hlocked⟩ := disciplined_edgeSeen hctl
  cases hset : s.time.tbSet with
  | none =>
    have hexec := exec_ppsEdge_unset hset
    generalize edgeSeen s = u at *
    obtain ⟨hregs, hmem, hcores, hnow⟩ := hedge
    exact ⟨_, hexec, ⟨hgood, hadj, hoff, hlocked⟩, fun _ => hnow, hregs, hmem, hcores⟩
  | some k =>
    have hexec := exec_ppsEdge_set hset
    generalize edgeSeen s = u at *
    refine ⟨_, hexec, ⟨?_, ?_, ?_, ?_⟩, nofun, hedge.clocked ..⟩
    · rw [ended_time, State.setClock_time, hgood]
    · rw [ended_time, State.setClock_time, hadj]
    · rw [ended_f, State.setClock_f, hoff]
    · rw [ended_fb, State.setClock_fb, hlocked]

theorem ppsOffset_nearest (t : Nat) :
    -500000000 ≤ ppsOffset t ∧ ppsOffset t < 500000000 ∧ ∃ k : Int, (t : Int) = 1000000000 * k + ppsOffset t := by
  unfold ppsOffset
  dsimp only
  split
  · exact ⟨by omega, by omega, t / 1000000000 + 1, by omega⟩
  · exact ⟨by omega, by omega, t / 1000000000, by omega⟩

theorem exec_ppsLost (s : State) :
    exec .ppsLost s = .next (ended s (if s.fb rTbCtl 0 = false then s
      else ((s.setB rTbCtl 1 false).setClock s.now { s.time with good := 0 }).raise .ppsLost 0 (s.f rTbCtl 32 32))) := by
  show execPpsLost s = _
  unfold execPpsLost
  rw [done_eq]
  cases s.fb rTbCtl 0 <;> rfl

theorem ppsLost_unlocks (hctl : s.fb rTbCtl 0 = true) :
    ∃ t, exec .ppsLost s = .next t ∧ t.fb rTbCtl 1 = false ∧ t.time.good = 0 ∧
      t.raises = (s.raise .ppsLost 0 (s.f rTbCtl 32 32)).raises ∧ SameRegs [rTbCtl] s t ∧ SameMem s t ∧ SameCores [] s t := by
  have hexec := exec_ppsLost s
  rw [hctl, if_neg (by decide)] at hexec
  refine ⟨_, hexec, by simp, by simp, by simp, fun r hr => ?_, fun _ => by simp, fun _ _ => by simp⟩
  have hne : r ≠ rTbCtl := by simpa using hr
  simp [hne]

/-- Settles O53: each command is its branches, and each branch names what it changes. -/
theorem patternCheckersAndTime : Obligations.PatternCheckersAndTime := by
  refine ⟨fun s p lane hp hl hin hrun hnew => prbsLock_locks hp hl hin hrun hnew,
    fun s p lane hno => by rw [exec_prbsLock, if_pos hno], fun s p lane bits errs hp _ hin hk he hb => prbsUnlock_unlocks hp hin hk he hb,
    fun s p lane bits errs hno => by rw [exec_prbsUnlock, if_pos hno], fun s hctl hset => ppsEdge_idle hctl hset,
    fun s k hset hle => ?_, fun s k hset hlt => ?_, fun s hctl => ?_, ppsOffset_nearest,
    fun s hctl => ppsLost_unlocks hctl, fun s hctl => by rw [exec_ppsLost, if_pos hctl], fun s bs => rfl⟩
  · have h := ppsEdge_set hset
    rwa [if_neg (by omega)] at h
  · have h := ppsEdge_set hset
    rwa [if_pos hlt] at h
  · obtain ⟨t, ht, ⟨hgood, hadj, hoff, hlocked⟩, hrest⟩ := ppsEdge_disciplined hctl
    exact ⟨t, ht, hgood, hadj, hoff, hgood ▸ hlocked, hrest⟩

end Sys2Proof.Machine
end

section
/-! Margin runs, the generators of memory and links, and injections (R410, R414-R416). -/
namespace Sys2Proof.Machine

variable {s t : State} {p : Nat}

/-! ### Margin runs (R416) -/

/-- What a margin run names: die, port, group and lane. -/
def marginSyndrome (s : State) : Nat :=
  packBits [(s.f marginBase 0 3, 0, 3), (s.f marginBase 3 2, 3, 2), (s.f marginBase 5 4, 5, 4), (s.f marginBase 9 7, 9, 7)]

theorem marginHit_running (h : s.f marginBase 25 2 = 1) :
    marginHit s (4 * s.f marginBase 0 3 + s.f marginBase 3 2) (fun _ _ => true) =
      (s.setF marginBase 25 2 3).raise .marginAbort 0 (marginSyndrome s) := by
  unfold marginHit marginSyndrome
  simp only [h, decide_true, Bool.and_self, if_true]

/-- The counts of a margin run that ends, and its STATE. -/
def marginCounted (s : State) (errors bits : Nat) : State :=
  ((s.setF (marginBase + 8) 0 32 errors).setF (marginBase + 8) 32 32 bits).setF marginBase 25 2 2

theorem exec_marginRunEnd (s : State) (errors bits : Nat) (aborted : Bool) :
    exec (.marginRunEnd errors bits aborted) s = .next (ended s (if s.f marginBase 25 2 ≠ 1 then s
      else if aborted then marginHit s (4 * s.f marginBase 0 3 + s.f marginBase 3 2) (fun _ _ => true) else marginCounted s errors bits)) := rfl

theorem marginRunEnd_counted {errors bits : Nat} (h : s.f marginBase 25 2 = 1) (herr : errors < 2 ^ 32) (hbits : bits < 2 ^ 32) :
    ∃ t, exec (.marginRunEnd errors bits false) s = .next t ∧ t.f marginBase 25 2 = 2 ∧ t.f (marginBase + 8) 0 32 = errors ∧
      t.f (marginBase + 8) 32 32 = bits ∧ SameRegs [marginBase, marginBase + 8] s t ∧ SameMem s t ∧ SameCores [] s t ∧ t.raises = s.raises := by
  have hexec := exec_marginRunEnd s errors bits false
  rw [if_neg (not_not.mpr h), if_neg Bool.false_ne_true, marginCounted] at hexec
  refine ⟨_, hexec, by simp, ?_, ?_, fun r hr => ?_, fun _ => by simp, fun _ _ => by simp, by simp⟩
  · simpa using herr
  · simpa using hbits
  · obtain ⟨h0, h8⟩ : r ≠ marginBase ∧ r ≠ marginBase + 8 := by simpa using hr
    simp [h0, h8]

theorem marginRunEnd_aborted {errors bits : Nat} (h : s.f marginBase 25 2 = 1) :
    ∃ t, exec (.marginRunEnd errors bits true) s = .next t ∧ t.f marginBase 25 2 = 3 ∧ SameRegs [marginBase] s t ∧ SameMem s t ∧
      SameCores [] s t ∧ t.raises = (s.raise .marginAbort 0 (marginSyndrome s)).raises := by
  have hexec := exec_marginRunEnd s errors bits true
  rw [if_neg (not_not.mpr h), if_pos rfl, marginHit_running h] at hexec
  refine ⟨_, hexec, by simp, fun r hr => ?_, fun _ => by simp, fun _ _ => by simp, by simp⟩
  have h0 : r ≠ marginBase := by simpa using hr
  simp [h0]

/-! ### The generator of the memory path (R415) -/

/-- The pattern of the memory generator as its run leaves it: in host memory, or in its range of HBM, which it reads back. -/
def memGenStored (s : State) : State :=
  if s.fb memGenBase 0 then hostWrite s (s.rd (memGenBase + 0x10)).toNat (patBytes s memGenBase (genLen s))
  else hbmTouch (hbmWrite s hintNormal (genAddr s) (patBytes s memGenBase (genLen s))) hintNormal (genAddr s) (genLen s)

theorem exec_memGenDone (s : State) (lats : List Nat) (errors : Nat) :
    exec (.memGenDone lats errors) s = .next (ended s (if s.f memGenBase 8 2 ≠ 1 then s
      else (lats.foldl (fun s l => addLatency s memGenBase l) ((memGenStored s).addCtr (memGenBase + 0x18) errors)).setF memGenBase 8 2 2)) := rfl

/-- Settles O54: each command is its branches. -/
theorem generatorsAndMargins : Obligations.GeneratorsAndMargins :=
  ⟨fun _ _ _ h herr hbits => marginRunEnd_counted h herr hbits, fun _ _ _ h => marginRunEnd_aborted h,
    fun s errors bits ab h => by rw [exec_marginRunEnd, if_pos h],
    fun s lats errors h hhost => by rw [exec_memGenDone, if_neg (not_not.mpr h), memGenStored, hhost, if_pos rfl],
    fun s lats errors h hhost => by rw [exec_memGenDone, if_neg (not_not.mpr h), memGenStored, hhost, if_neg Bool.false_ne_true],
    fun s lats errors h => by rw [exec_memGenDone, if_pos h]⟩

/-! ### The generator of a link (R410) -/

/-- The next request of a port's generator. -/
def genRequest (s : State) (p t : Nat) : WReq :=
  let b := awlBase p
  { vc := s.f (b + 8) 0 3, src := ownPkg s, dst := s.f (b + 0x10) 48 12, tag := t % 2 ^ 14, reqId := s.wen.nextId, op := s.f (b + 8) 8 8
    flags := s.f (b + 8) 16 8, code := 0, arg := s.f (b + 0x10) 0 48, data := patBytes s b (s.f (b + 0x20) 32 13) }

/-- That request enters the port's queue and waits for its response. -/
def genSent (s : State) (p t : Nat) : State :=
  let u := enqueue s p (genRequest s p t).vc (flitsOf (genRequest s p t))
  { u with wen := { u.wen with
      nextId := (u.wen.nextId + 1) % 2 ^ 26, outs := u.wen.outs ++ [⟨p, some p, genRequest s p t, WOrigin.awl p, false, u.now⟩] } }

/-- The generator counts what it has issued, and ends after COUNT. -/
def genCounted (s u : State) (p : Nat) : State :=
  let n := (u.awlp p).issued + 1
  let v := u.setAwlp p { u.awlp p with issued := n }
  if s.f (awlBase p + 8) 40 24 ≠ 0 && n = s.f (awlBase p + 8) 40 24 then setAwlState v p 2 else v

theorem exec_awlGenIssue (s : State) (p : Nat) :
    exec (.awlGenIssue p) s = .next (ended s (if (!portUp s p || !awlIn s p 2 || decide (awlState s p ≠ 1) || !genRoom s p) = true then s
      else genCounted s (genSent s.freeWord.2 p s.freeWord.1) p)) := rfl

/-! ### Injections (R414) -/

theorem exec_awlInject (s : State) (p arg : Nat) :
    exec (.awlInject p arg) s = .next (ended s (if 18 ≤ p ∨ s.f (awlBase p + 0x18) 0 3 = 0 ∨ 5 < s.f (awlBase p + 0x18) 0 3 ∨
        (awlIn s p 2 = false ∧ awlIn s p 3 = false) ∨ (s.f (awlBase p + 0x18) 0 3 = 5 ∧ awlIn s p 3 = false) ∨ linkLive s p = false ∨
        (s.wport p).inj ≠ 0 ∨ (s.wport p).injN < s.f (awlBase p + 0x18) 16 16 ∨
        s.f (awlBase p + 0x18) 32 16 ≤ (s.rd (awlBase p + 0x70)).toNat then s
      else (s.setWport p { s.wport p with inj := s.f (awlBase p + 0x18) 0 3, injArg := arg, injN := 0 }).addCtr (awlBase p + 0x70) 1)) := by
  show execAwlInject p arg s = _
  unfold execAwlInject
  simp only [Bool.or_eq_true, Bool.and_eq_true, decide_eq_true_eq, Bool.not_eq_true', Bool.or_eq_false_iff, or_assoc, done_eq]

theorem awlInject_begins {arg kind : Nat} (hp : p < 18) (hkind : s.f (awlBase p + 0x18) 0 3 = kind) (hlo : 1 ≤ kind) (hhi : kind ≤ 5)
    (hmode : awlIn s p 3 = true ∨ (awlIn s p 2 = true ∧ kind ≤ 4)) (hlive : linkLive s p = true) (hnone : (s.wport p).inj = 0)
    (hperiod : s.f (awlBase p + 0x18) 16 16 ≤ (s.wport p).injN)
    (hcount : (s.rd (awlBase p + 0x70)).toNat < s.f (awlBase p + 0x18) 32 16) :
    ∃ t, exec (.awlInject p arg) s = .next t ∧ (t.wport p).inj = kind ∧ (t.wport p).injArg = arg ∧ (t.wport p).injN = 0 ∧
      t.rd (awlBase p + 0x70) = s.rd (awlBase p + 0x70) + 1#64 ∧ SameMem s t ∧ SameCores [] s t := by
  have hexec := exec_awlInject s p arg
  rw [hkind, if_neg (by
    rintro (h | h | h | ⟨h2, h3⟩ | ⟨h5, h3⟩ | h | h | h | h)
    · omega
    · omega
    · omega
    · rcases hmode with h | ⟨h, -⟩
      · exact absurd (h.symm.trans h3) (by decide)
      · exact absurd (h.symm.trans h2) (by decide)
    · rcases hmode with h | ⟨-, h⟩
      · exact absurd (h.symm.trans h3) (by decide)
      · omega
    · exact absurd (hlive.symm.trans h) (by decide)
    · exact h hnone
    · omega
    · omega)] at hexec
  exact ⟨_, hexec, by simp [State.wport, State.setWport], by simp [State.wport, State.setWport], by simp [State.wport, State.setWport],
    by simp, fun _ => by simp, fun _ _ => by simp⟩

theorem exec_injectionEnd (s : State) (p : Nat) :
    exec (.injectionEnd p) s = .next (ended s
      (if p < 18 ∧ ((s.wport p).inj = 2 ∨ (s.wport p).inj = 4) then s.modWport p (fun x => { x with inj := 0 }) else s)) := by
  show execInjectionEnd p s = _
  unfold execInjectionEnd
  simp only [Bool.or_eq_true, Bool.and_eq_true, decide_eq_true_eq, done_eq]

/-- Settles O55: each command is its branches. -/
theorem linkGeneratorAndInjection : Obligations.LinkGeneratorAndInjection := by
  refine ⟨fun s p hup hin hrun hroom => ?_, fun s p hno => ?_,
    fun s p arg kind hp hkind hlo hhi hmode hlive hnone hperiod hcount =>
      awlInject_begins hp hkind hlo hhi hmode hlive hnone hperiod hcount,
    fun s p arg hno => by rw [exec_awlInject, if_pos hno], fun s p hp hlast => ?_, fun s p hno => ?_⟩
  · dsimp only
    rw [exec_awlGenIssue, if_neg (by simp [hup, hin, hrun, hroom])]
    rfl
  · rw [exec_awlGenIssue, if_pos]
    rcases hno with h | h | h | h <;> simp [h]
  · have hexec := exec_injectionEnd s p
    rw [if_pos ⟨hp, hlast⟩] at hexec
    exact ⟨_, hexec, by simp, fun x hx => by simp [hx], fun _ => by simp, fun _ _ => by simp⟩
  · rw [exec_injectionEnd, if_neg]
    rintro ⟨hp, hlast⟩
    rcases hno with h | ⟨h2, h4⟩
    · omega
    · exact hlast.elim h2 h4

end Sys2Proof.Machine
end

section
/-! Step notices and timers of Cinch (R252-R256), and messages at a channel (R198-R214). -/
namespace Sys2Proof.Machine

variable {s u : State} {i p step att : Nat} {stop : Bool} {r : WReq}

/-! ### Step notices (R254, R255) -/

theorem exec_stepDone_none (h : inTake s i 0x21 = none) : exec (.stepDone i step att) s = .next (ended s s) := by
  show execStepDone i step att s = _
  rw [execStepDone, h, done_eq]

theorem exec_stepFinal_none (h : inTake s i 0x21 = none) : exec (.stepFinal i step att) s = .next (ended s s) := by
  show execStepFinal i step att s = _
  rw [execStepFinal, h, done_eq]

theorem exec_stepAbort_none (h : inTake s i 0x21 = none) : exec (.stepAbort i step att stop) s = .next (ended s s) := by
  show execStepAbort i step att stop s = _
  rw [execStepAbort, h, done_eq]

/-- A done notice is answered; it is looked at where Cinch is enabled. -/
theorem exec_stepDone_some (h : inTake s i 0x21 = some (p, r, u)) :
    exec (.stepDone i step att) s = .next (ended s
      (if cinchEn (answerOn u p r 0 0 []) = false then answerOn u p r 0 0 []
        else
          let c := catchUp (answerOn u p r 0 0 []) step att false
          if stale c step att then c else tryFinal (c.modCinch (fun y => { y with dones := y.dones ++ [(r.src, step, att)] })))) := by
  show execStepDone i step att s = _
  rw [execStepDone, h, done_eq]
  dsimp only
  cases cinchEn (answerOn u p r 0 0 []) <;> rfl

/-- Whether a notice is one of the attempt that is under way. -/
def NoticeNow (c : State) (step att : Nat) : Prop := step = stepNo c ∧ att = stepAtt c ∧ (stepState c = 1 ∨ stepState c = 2)

theorem noticeNow_iff {c : State} :
    (decide (step = stepNo c) && decide (att = stepAtt c) && (decide (stepState c = 1) || decide (stepState c = 2))) = true ↔ NoticeNow c step att := by
  unfold NoticeNow
  simp only [Bool.and_eq_true, Bool.or_eq_true, decide_eq_true_eq, and_assoc]

theorem not_noticeNow {c : State} (h : step ≠ stepNo c ∨ att ≠ stepAtt c ∨ (stepState c ≠ 1 ∧ stepState c ≠ 2)) : ¬NoticeNow c step att := by
  rintro ⟨hstep, hatt, hst⟩
  rcases h with h | h | ⟨h1, h2⟩
  · exact h hstep
  · exact h hatt
  · exact hst.elim h1 h2

/-- What a notice that is not of the attempt under way leaves, and one that is (R254, R255). -/
theorem exec_stepFinal_some (h : inTake s i 0x21 = some (p, r, u)) :
    (cinchEn (answerOn u p r 0 0 []) = false → exec (.stepFinal i step att) s = .next (ended s (answerOn u p r 0 0 []))) ∧
    (cinchEn (answerOn u p r 0 0 []) = true →
      (NoticeNow (catchUp (answerOn u p r 0 0 []) step att false) step att →
        exec (.stepFinal i step att) s = .next (ended s (becomeFinal (catchUp (answerOn u p r 0 0 []) step att false)))) ∧
      (¬NoticeNow (catchUp (answerOn u p r 0 0 []) step att false) step att →
        exec (.stepFinal i step att) s = .next (ended s (catchUp (answerOn u p r 0 0 []) step att false)))) := by
  have hexec : exec (.stepFinal i step att) s = execStepFinal i step att s := rfl
  rw [hexec, execStepFinal, h, done_eq]
  dsimp only
  refine ⟨fun hoff => by rw [hoff]; rfl, fun hon => ?_⟩
  rw [hon, Bool.not_true, if_neg Bool.false_ne_true]
  exact ⟨fun hnow => by rw [if_pos (noticeNow_iff.mpr hnow)], fun hnot => by rw [if_neg (fun hc => hnot (noticeNow_iff.mp hc))]⟩

theorem exec_stepAbort_some (h : inTake s i 0x21 = some (p, r, u)) :
    (cinchEn (answerOn u p r 0 0 []) = false → exec (.stepAbort i step att stop) s = .next (ended s (answerOn u p r 0 0 []))) ∧
    (cinchEn (answerOn u p r 0 0 []) = true →
      (NoticeNow (catchUp (answerOn u p r 0 0 []) step att stop) step att →
        exec (.stepAbort i step att stop) s = .next (ended s (abortStep (catchUp (answerOn u p r 0 0 []) step att stop) cRemote stop))) ∧
      (¬NoticeNow (catchUp (answerOn u p r 0 0 []) step att stop) step att →
        exec (.stepAbort i step att stop) s = .next (ended s (catchUp (answerOn u p r 0 0 []) step att stop)))) := by
  have hexec : exec (.stepAbort i step att stop) s = execStepAbort i step att stop s := rfl
  rw [hexec, execStepAbort, h, done_eq]
  dsimp only
  refine ⟨fun hoff => by rw [hoff]; rfl, fun hon => ?_⟩
  rw [hon, Bool.not_true, if_neg Bool.false_ne_true]
  exact ⟨fun hnow => by rw [if_pos (noticeNow_iff.mpr hnow)], fun hnot => by rw [if_neg (fun hc => hnot (noticeNow_iff.mp hc))]⟩

/-- One round of catching up with a later attempt of the step (R255). -/
theorem catchUpN_succ (n : Nat) (s : State) (step att : Nat) (stop : Bool) :
    catchUpN (n + 1) s step att stop =
      if step = stepNo s ∧ stepAtt s < att ∧ (stepState s = 1 ∨ stepState s = 2) then catchUpN n (abortStep s cRemote stop) step att stop else s := by
  rw [catchUpN]
  simp only [Bool.and_eq_true, Bool.or_eq_true, decide_eq_true_eq, and_assoc]

theorem catchUp_behind (h : step ≠ stepNo s ∨ att ≤ stepAtt s ∨ (stepState s ≠ 1 ∧ stepState s ≠ 2)) : catchUp s step att stop = s := by
  refine (catchUpN_succ 255 s step att stop).trans (if_neg ?_)
  rintro ⟨hstep, hatt, hst⟩
  rcases h with h | h | ⟨h1, h2⟩
  · exact h hstep
  · exact Nat.not_lt.mpr h hatt
  · exact hst.elim h1 h2

theorem catchUp_ahead (hatt : stepAtt s < att) (hst : stepState s = 1 ∨ stepState s = 2) :
    catchUp s (stepNo s) att stop = catchUpN 255 (abortStep s cRemote stop) (stepNo s) att stop :=
  (catchUpN_succ 255 s (stepNo s) att stop).trans (if_pos ⟨rfl, hatt, hst⟩)

theorem exec_stepDeadline (s : State) : exec .stepDeadline s = .next (ended s
    (if cinchEn s = true ∧ stepState s = 1 ∧ s.cinch.launched = true ∧ allComplete s = false then abortStep s cDeadline false else s)) := by
  show execStepDeadline s = _
  rw [execStepDeadline, done_eq]
  simp only [Bool.and_eq_true, decide_eq_true_eq, Bool.not_eq_true', and_assoc]

theorem exec_doneTimeout (s : State) : exec .doneTimeout s = .next (ended s
    (if cinchEn s = true ∧ stepState s = 2 then stall s cDoneTimeout else s)) := by
  show execDoneTimeout s = _
  rw [execDoneTimeout, done_eq]
  simp only [Bool.and_eq_true, decide_eq_true_eq]

/-- Settles O46: a notice is answered, catches up with its attempt, and acts where it is one of the attempt under way. -/
theorem stepNotices : Obligations.StepNotices := by
  refine ⟨fun s u i p step att r h => ⟨fun hoff => ?_, fun hon hst => ?_, fun hon hst => ?_⟩,
    fun s u i p step att r h => ⟨(exec_stepFinal_some h).1, fun hon hstep hatt hst => ((exec_stepFinal_some h).2 hon).1 ⟨hstep, hatt, hst⟩,
      fun hon hno => ((exec_stepFinal_some h).2 hon).2 (not_noticeNow hno)⟩,
    fun s u i p step att stop r h => ⟨(exec_stepAbort_some h).1, fun hon hstep hatt hst => ((exec_stepAbort_some h).2 hon).1 ⟨hstep, hatt, hst⟩,
      fun hon hno => ((exec_stepAbort_some h).2 hon).2 (not_noticeNow hno)⟩,
    fun s step att stop h => catchUp_behind h, fun s att stop hatt hst => catchUp_ahead hatt hst,
    fun s hen hst hl hall => by rw [exec_stepDeadline, if_pos ⟨hen, hst, hl, hall⟩], fun s hno => ?_,
    fun s hen hst => by rw [exec_doneTimeout, if_pos ⟨hen, hst⟩], fun s hno => ?_,
    fun s i step att stop h => ⟨exec_stepDone_none h, exec_stepFinal_none h, exec_stepAbort_none h⟩⟩
  · rw [exec_stepDone_some h, if_pos hoff]
  · rw [exec_stepDone_some h, if_neg (by rw [hon]; decide)]
    dsimp only
    rw [if_pos hst]
  · rw [exec_stepDone_some h, if_neg (by rw [hon]; decide)]
    dsimp only
    rw [if_neg (by rw [hst]; decide)]
  · rw [exec_stepDeadline, if_neg]
    rintro ⟨hen, hst, hl, hall⟩
    simp_all
  · rw [exec_doneTimeout, if_neg]
    rintro ⟨hen, hst⟩
    simp_all

/-! ### Messages delivered to a channel (R198-R214) -/

section
variable {m : NetMsg} {tag seq code start so sk cycles sl c : Nat} {o : Op}

theorem exec_openGrant (s : State) (i : Nat) : exec (.openGrant i) s = .next (ended s
    (atChan s i (fun b => match b with | .openGrant _ => true | _ => false) (fun s sl c m =>
      match m.body with
      | .openGrant tag =>
        match openOp s sl c tag with
        | none => s
        | some o =>
          let v := finishWith (((setChanState s sl c 2).setF (rChan sl c 0x10) 16 32 0).setChan sl c Chan.reset) sl o stOK
          if (s.chan sl c).closeWanted then closeChan v sl c else v
      | _ => s))) := rfl

/-- A message of a kind that goes to a channel is delivered to the channel's slot. -/
theorem atChan_some {mine : NetBody → Bool} {act : State → Nat → Nat → NetMsg → State} (h : netTake s i = some (m, u)) (hup : m.up = false)
    (hmine : mine m.body = true) : atChan s i mine act = act u (slotOf s m.ch.2.1) m.ch.2.2 m := by
  unfold atChan
  rw [h]
  dsimp only
  rw [hup, hmine]
  rfl

theorem atChan_none {mine : NetBody → Bool} {act : State → Nat → Nat → NetMsg → State} (h : netTake s i = none) : atChan s i mine act = s := by
  unfold atChan
  rw [h]

theorem openGrant_granted (h : netTake s i = some (m, u)) (hup : m.up = false) (hbody : m.body = .openGrant tag)
    (hop : openOp u (slotOf s m.ch.2.1) m.ch.2.2 tag = some o) :
    let sl := slotOf s m.ch.2.1
    let c := m.ch.2.2
    let v := finishWith (((setChanState u sl c 2).setF (rChan sl c 0x10) 16 32 0).setChan sl c Chan.reset) sl o stOK
    exec (.openGrant i) s = .next (ended s (if (u.chan sl c).closeWanted then closeChan v sl c else v)) := by
  rw [exec_openGrant, atChan_some h hup (by rw [hbody]), hbody]
  dsimp only
  rw [hop]

theorem openGrant_over (h : netTake s i = some (m, u)) (hup : m.up = false) (hbody : m.body = .openGrant tag)
    (hop : openOp u (slotOf s m.ch.2.1) m.ch.2.2 tag = none) : exec (.openGrant i) s = .next (ended s u) := by
  rw [exec_openGrant, atChan_some h hup (by rw [hbody]), hbody]
  dsimp only
  rw [hop]

theorem channelOpenTimeout_fails {o' : Op} (ho : opOf s sl tag = some o') (hop : openOp s sl (sendChan o'.tod) tag = some o) :
    exec (.channelOpenTimeout sl tag) s = .next (ended s
      (openFails s sl (sendChan o'.tod) o stChanTimeout 0 .chanTimeout (chanTimeoutSynd tag (sendChan o'.tod)))) := by
  show execChannelOpenTimeout sl tag s = _
  rw [execChannelOpenTimeout, ho, done_eq]
  dsimp only
  rw [hop]

theorem channelOpenTimeout_over (h : ∀ o, opOf s sl tag = some o → openOp s sl (sendChan o.tod) tag = none) :
    exec (.channelOpenTimeout sl tag) s = .next (ended s s) := by
  show execChannelOpenTimeout sl tag s = _
  rw [execChannelOpenTimeout, done_eq]
  cases ho : opOf s sl tag with
  | none => rfl
  | some o =>
    dsimp only
    rw [h o ho]

theorem grant_sent (h : netTake s i = some (m, u)) (hup : m.up = false) (hbody : m.body = .grant seq start so sk)
    (hsend : sendOf u (slotOf s m.ch.2.1) m.ch.2.2 seq = some o) :
    let sl := slotOf s m.ch.2.1
    let v := u.addCtr (slotBase sl + 0x1508) cycles
    exec (.grant i cycles) s = .next (ended s (fromChan (updOp v sl { o with
      aux := setNth o.aux 4 2, link := o.link + (if m.rq.1 = ownPkg v then 0 else o.sendBytes.length) }) sl m.ch.2.2 o.tag m.rq
        (.data seq start so sk (withSeq o.sendBytes seq)))) := by
  show execGrant i cycles s = _
  rw [execGrant, atChan_some h hup (by rw [hbody]), hbody, done_eq]
  dsimp only
  rw [hsend]

theorem grant_aborted (h : netTake s i = some (m, u)) (hup : m.up = false) (hbody : m.body = .grant seq start so sk)
    (hsend : sendOf u (slotOf s m.ch.2.1) m.ch.2.2 seq = none) :
    exec (.grant i cycles) s = .next (ended s (u.post { m with up := true, body := .abort seq })) := by
  show execGrant i cycles s = _
  rw [execGrant, atChan_some h hup (by rw [hbody]), hbody, done_eq]
  dsimp only
  rw [hsend]

theorem deliverAck_completes (h : netTake s i = some (m, u)) (hup : m.up = false) (hbody : m.body = .ack seq)
    (hsend : sendOf u (slotOf s m.ch.2.1) m.ch.2.2 seq = some o) :
    exec (.deliverAck i) s = .next (ended s (pumpSends 64 (checkClosed (finishWith u (slotOf s m.ch.2.1) o stOK) (slotOf s m.ch.2.1) m.ch.2.2)
      (slotOf s m.ch.2.1))) := by
  show execDeliverAck i s = _
  rw [execDeliverAck, atChan_some h hup (by rw [hbody]), hbody, done_eq]
  dsimp only
  rw [hsend]

theorem deliverAck_over (h : netTake s i = some (m, u)) (hup : m.up = false) (hbody : m.body = .ack seq)
    (hsend : sendOf u (slotOf s m.ch.2.1) m.ch.2.2 seq = none) : exec (.deliverAck i) s = .next (ended s u) := by
  show execDeliverAck i s = _
  rw [execDeliverAck, atChan_some h hup (by rw [hbody]), hbody, done_eq]
  dsimp only
  rw [hsend]

theorem grantTimeout_faults (h : (liveSends s sl c).find? (fun o => o.sendPhase = 1) = some o) (htime : s.f (rChan sl c 0) 32 32 ≠ 0) :
    exec (.grantTimeout sl c cycles) s = .next (ended s (faultChan (s.addCtr (slotBase sl + 0x1508) cycles) sl c 0x10 (some o.tag) stChanTimeout 0
      .chanTimeout (chanTimeoutSynd o.tag c))) := by
  show execGrantTimeout sl c cycles s = _
  rw [execGrantTimeout, h, done_eq]
  dsimp only
  rw [if_neg htime]

theorem grantTimeout_idle (h : (liveSends s sl c).find? (fun o => o.sendPhase = 1) = none ∨ s.f (rChan sl c 0) 32 32 = 0) :
    exec (.grantTimeout sl c cycles) s = .next (ended s s) := by
  show execGrantTimeout sl c cycles s = _
  rw [execGrantTimeout, done_eq]
  cases hfind : (liveSends s sl c).find? (fun o => o.sendPhase = 1) with
  | none => rfl
  | some o =>
    dsimp only
    rw [if_pos (h.resolve_left (by rw [hfind]; exact nofun))]

theorem nack_open (h : netTake s i = some (m, u)) (hup : m.up = false) (hbody : m.body = .openNack tag code)
    (hop : openOp u (slotOf s m.ch.2.1) m.ch.2.2 tag = some o) :
    exec (.nack i) s = .next (ended s (openFails u (slotOf s m.ch.2.1) m.ch.2.2 o stChanRefused code .chanRefused (refusedSynd tag m.ch.2.2 code))) := by
  show execNack i s = _
  rw [execNack, atChan_some h hup (by rw [hbody]), hbody, done_eq]
  dsimp only
  rw [hop]

theorem nack_open_over (h : netTake s i = some (m, u)) (hup : m.up = false) (hbody : m.body = .openNack tag code)
    (hop : openOp u (slotOf s m.ch.2.1) m.ch.2.2 tag = none) : exec (.nack i) s = .next (ended s u) := by
  show execNack i s = _
  rw [execNack, atChan_some h hup (by rw [hbody]), hbody, done_eq]
  dsimp only
  rw [hop]

theorem nack_send (h : netTake s i = some (m, u)) (hup : m.up = false) (hbody : m.body = .nack seq code) :
    let sl := slotOf s m.ch.2.1
    let c := m.ch.2.2
    let tag := (sendOf u sl c seq).map (·.tag)
    exec (.nack i) s = .next (ended s (if code = 1 then
        faultChan u sl c 1 tag stPeerGone 0 .peerGone (goneSynd (tag.getD 0) c m.rq)
      else faultChan u sl c code tag stChanRefused code .chanRefused (refusedSynd (tag.getD 0) c code))) := by
  show execNack i s = _
  rw [execNack, atChan_some h hup (by rw [hbody]), hbody, done_eq]

/-- A fault leaves a channel that is neither OPEN nor CLOSING alone (Table 7.4). -/
theorem faultChan_other {cause st det synd : Nat} {tag : Option Nat} {src : FaultSrc} (h2 : chanState s sl c ≠ 2) (h3 : chanState s sl c ≠ 3) :
    faultChan s sl c cause tag st det src synd = s := by
  unfold faultChan
  exact if_pos (by simp [h2, h3])

/-- An OPEN channel with no SEND only records its cause and raises the source. -/
theorem faultChan_open {cause st det synd : Nat} {tag : Option Nat} {src : FaultSrc} (h2 : chanState s sl c = 2) (hnone : liveSends s sl c = []) :
    faultChan s sl c cause tag st det src synd =
      (setChanState (s.setF (rChan sl c 0x10) 8 8 cause) sl c 4).raise src sl synd := by
  have hlive : liveSends (setChanState (s.setF (rChan sl c 0x10) 8 8 cause) sl c 4) sl c = [] := by
    rw [← hnone]
    unfold liveSends setChanState
    simp
  unfold faultChan
  simp [h2, hlive]

theorem faultChan_faulted {cause st det synd : Nat} {tag : Option Nat} {src : FaultSrc} (hcause : cause < 256) (h2 : chanState s sl c = 2)
    (hnone : liveSends s sl c = []) :
    chanState (faultChan s sl c cause tag st det src synd) sl c = 4 ∧ chanCause (faultChan s sl c cause tag st det src synd) sl c = cause ∧
    (faultChan s sl c cause tag st det src synd).raises = (s.raise src sl synd).raises := by
  rw [faultChan_open h2 hnone]
  unfold chanState chanCause setChanState
  refine ⟨by simp, ?_, by simp⟩
  simpa using hcause

end

/-- Settles O44: a message of each kind, delivered to its channel, acts on the operation that waits for it. -/
theorem messagesAtChannels : Obligations.MessagesAtChannels := by
  refine ⟨fun s u i tag m o h hup hbody hop => openGrant_granted h hup hbody hop, fun s u i tag m h hup hbody hop => openGrant_over h hup hbody hop,
    fun s sl tag o o' ho hop => channelOpenTimeout_fails ho hop, fun s sl tag h => channelOpenTimeout_over h,
    fun s u i cycles seq start so sk m o h hup hbody hs => grant_sent h hup hbody hs,
    fun s u i cycles seq start so sk m h hup hbody hs => grant_aborted h hup hbody hs,
    fun s u i seq m o h hup hbody hs => deliverAck_completes h hup hbody hs, fun s u i seq m h hup hbody hs => deliverAck_over h hup hbody hs,
    fun s sl c cycles o h ht => grantTimeout_faults h ht, fun s sl c cycles h => grantTimeout_idle h,
    fun s u i tag code m o h hup hbody hop => nack_open h hup hbody hop, fun s u i tag code m h hup hbody hop => nack_open_over h hup hbody hop,
    fun s u i seq code m h hup hbody => nack_send h hup hbody, fun s sl c cause st det synd tag src h2 h3 => faultChan_other h2 h3,
    fun s sl c cause st det synd tag src _ _ hcause h2 hnone => faultChan_faulted hcause h2 hnone, fun s i cycles h => ⟨?_, ?_, ?_, ?_⟩⟩
  · rw [exec_openGrant, atChan_none h]
  · show execGrant i cycles s = _
    rw [execGrant, atChan_none h, done_eq]
  · show execDeliverAck i s = _
    rw [execDeliverAck, atChan_none h, done_eq]
  · show execNack i s = _
    rw [execNack, atChan_none h, done_eq]

end Sys2Proof.Machine
end

section
/-! The reduction of buckets (R247-R257). -/
namespace Sys2Proof.Machine

variable {s u : State} {b i p step att lo bucket : Nat} {r : WReq}

theorem exec_bucketLaunch_not (h : canLaunch s b = false) : exec (.bucketLaunch b) s = .next (ended s s) := by
  show execBucketLaunch b s = _
  rw [execBucketLaunch, h, done_eq]
  rfl

theorem exec_bucketLaunch_alone (h : canLaunch s b = true) (halone : grR s (bkGroup s b) = 1) :
    exec (.bucketLaunch b) s = .next (ended s (launchActive s b).1) := by
  show execBucketLaunch b s = _
  rw [execBucketLaunch, h, done_eq]
  dsimp only
  rw [if_pos halone]
  rfl

/-- What a bucket of several ranks does once it is ACTIVE: it sends its first part and takes those that came early. -/
theorem exec_bucketLaunch_ring {t : State} {early : List CEarly} (h : canLaunch s b = true) (hring : grR s (bkGroup s b) ≠ 1)
    (hact : launchActive s b = (t, early)) :
    (sendSegment t b (firstSeg s b) (launchSeg s b (firstSeg s b)) = (u, false) →
      exec (.bucketLaunch b) s = .next (ended s (peerLost u))) ∧
    (∀ v ok, sendSegment t b (firstSeg s b) (launchSeg s b (firstSeg s b)) = (u, true) → takeEarly u b early = (v, ok) →
      exec (.bucketLaunch b) s = .next (ended s (if ok then v else peerLost v))) := by
  have hexec : exec (.bucketLaunch b) s = execBucketLaunch b s := rfl
  rw [hexec, execBucketLaunch, h, done_eq]
  dsimp only
  rw [if_neg hring, hact]
  dsimp only
  refine ⟨fun hsend => ?_, fun v ok hsend htake => ?_⟩
  · rw [hsend]
    rfl
  · rw [hsend]
    dsimp only
    rw [if_pos rfl, htake]
    rfl

theorem exec_cinchPart_none (h : inTake s i 0x20 = none) : exec (.cinchPart i bucket step att lo) s = .next (ended s s) := by
  show execCinchPart i bucket step att lo s = _
  rw [execCinchPart, h, done_eq]

/-- A part for Cinch disabled, or for a bucket that does not exist, is answered only. -/
theorem exec_cinchPart_off (h : inTake s i 0x20 = some (p, r, u))
    (hoff : cinchEn (answerOn u p r 0 0 []) = false ∨ bktCount (answerOn u p r 0 0 []) ≤ bucket) :
    exec (.cinchPart i bucket step att lo) s = .next (ended s (answerOn u p r 0 0 [])) := by
  show execCinchPart i bucket step att lo s = _
  rw [execCinchPart, h, done_eq]
  dsimp only
  rw [if_pos]
  rcases hoff with hoff | hoff <;> simp [hoff]

/-- A part for a bucket that exists: late, of an ACTIVE bucket of the step, or early. -/
theorem exec_cinchPart_on (h : inTake s i 0x20 = some (p, r, u)) (hon : cinchEn (answerOn u p r 0 0 []) = true)
    (hb : bucket < bktCount (answerOn u p r 0 0 [])) :
    exec (.cinchPart i bucket step att lo) s = .next (ended s
      (if stale (catchUp (answerOn u p r 0 0 []) step att false) step att then
        (catchUp (answerOn u p r 0 0 []) step att false).addCtr (rCinch 0x208) (flitsOf r).length
      else
        match (if step = stepNo (catchUp (answerOn u p r 0 0 []) step att false)
            && att = stepAtt (catchUp (answerOn u p r 0 0 []) step att false)
          then cAct (catchUp (answerOn u p r 0 0 []) step att false) bucket else none) with
        | some x =>
          let v := takePart (catchUp (answerOn u p r 0 0 []) step att false) x lo r.data
          if v.2 then v.1 else peerLost v.1
        | none => (hbmWrite (catchUp (answerOn u p r 0 0 []) step att false) 0
            (bkStage (catchUp (answerOn u p r 0 0 []) step att false) bucket + 4 * lo) r.data).modCinch (fun y => { y with
              early := y.early ++ [⟨bucket, step, att, lo, r.data.length / 4⟩] }))) := by
  have hno : ¬((!cinchEn (answerOn u p r 0 0 [])) || decide (bktCount (answerOn u p r 0 0 []) ≤ bucket)) = true := by
    simp [hon, hb]
  show execCinchPart i bucket step att lo s = _
  rw [execCinchPart, h, done_eq]
  dsimp only
  rw [if_neg hno] <;> rfl

theorem exec_bucketComplete_none (h : cAct s b = none) : exec (.bucketComplete b) s = .next (ended s s) := by
  show execBucketComplete b s = _
  rw [execBucketComplete, h, done_eq]

theorem exec_bucketComplete_some {x : CBucket} (h : cAct s b = some x) : exec (.bucketComplete b) s = .next (ended s
    (if sumN (x.fin.map (·.2)) = expected s b ∧ stepState s = 1 then stepDoneHere (bucketDone s b x) else s)) := by
  show execBucketComplete b s = _
  rw [execBucketComplete, h, done_eq]
  dsimp only
  by_cases hfin : sumN (x.fin.map (·.2)) = expected s b <;> by_cases hst : stepState s = 1 <;> simp [hfin, hst]

theorem resultRun_all (h : bkOp s b ≠ 1 ∨ grR s (bkGroup s b) = 1) : resultRun s b = (0, bkLen s b) := by
  rw [resultRun, if_neg]
  rcases h with h | h <;> simp [h]

theorem resultRun_segment (h : bkOp s b = 1) (hr : grR s (bkGroup s b) ≠ 1) :
    resultRun s b = cinchSeg s b (grMy s (bkGroup s b)) := by
  rw [resultRun, if_pos (by simp [h, hr])]

theorem stepDoneHere_eq (s : State) : stepDoneHere s =
    if allComplete s = false then s
    else if (peers s).all (fun p => (pickPort s none p).isSome) = false then peerLost s
    else tryFinal (setStepState (notify s 0 [stepNo s, stepAtt s]) 2) := by
  rw [stepDoneHere]
  simp only [Bool.not_eq_true']

/-- Settles O45: every branch of the launch, of a part, and of the completion of a bucket. -/
theorem bucketReduction : Obligations.BucketReduction := by
  refine ⟨fun s b h => ⟨fun halone => exec_bucketLaunch_alone h halone,
      fun u hring hsend => (exec_bucketLaunch_ring h hring rfl).1 hsend,
      fun u v ok hring hsend htake => (exec_bucketLaunch_ring h hring rfl).2 v ok hsend htake⟩,
    fun s b h => by simp only [firstSeg, launchSent, if_pos h, and_self],
    fun s b h => by simp only [firstSeg, launchSent, if_neg h, and_self],
    fun s b j => rfl, fun s b h => exec_bucketLaunch_not h, fun s u i p bucket step att lo r h => ?_,
    fun s i bucket step att lo h => exec_cinchPart_none h,
    fun s b x h hfin hst => by rw [exec_bucketComplete_some h, if_pos ⟨hfin, hst⟩], fun s b x => rfl, fun s b h hr => ?_,
    fun s b h => ?_, fun s => ?_, fun s b hno => ?_⟩
  · refine ⟨fun hoff => exec_cinchPart_off h hoff, fun hon hb => ⟨fun hst => ?_, fun hst => ⟨fun x v ok hstep hatt hx htake => ?_, fun hno => ?_⟩⟩⟩
    · rw [exec_cinchPart_on h hon hb, if_pos hst]
    · rw [exec_cinchPart_on h hon hb, if_neg (by rw [hst]; decide), if_pos (by simp [← hstep, ← hatt]), hx]
      dsimp only
      rw [htake]
    · rw [exec_cinchPart_on h hon hb, if_neg (by rw [hst]; decide)]
      split
      next x hx =>
        split at hx
        next hnow =>
          obtain ⟨hstep, hatt⟩ := by simpa using hnow
          exact absurd (hno hstep hatt) (by rw [hx]; exact Option.some_ne_none x)
        next => cases hx
      next => rfl
  · intro my hmy
    refine ⟨?_, ?_⟩
    · rw [freeRest, resultRun_segment h hr]
      exact if_neg hmy
    · rw [resultBytes, resultRun_segment h hr]
  · have hrest : freeRest s b = s := by rw [freeRest, resultRun_all h]; exact if_pos rfl
    refine ⟨hrest, ?_⟩
    rw [resultBytes, resultRun_all h, hrest]
    rfl
  · refine ⟨fun h => ?_, fun h hp => ?_, fun h hp => ?_⟩
    · rw [stepDoneHere_eq, if_pos h]
    · rw [stepDoneHere_eq, if_neg (by rw [h]; decide), if_neg (by rw [hp]; decide)]
    · rw [stepDoneHere_eq, if_neg (by rw [h]; decide), if_pos hp]
  · cases hx : cAct s b with
    | none => exact exec_bucketComplete_none hx
    | some x =>
      rw [exec_bucketComplete_some hx, if_neg]
      rintro ⟨hfin, hst⟩
      exact (hno x hx).elim (fun h => h hfin) (fun h => h hst)

end Sys2Proof.Machine
end

section
/-! The source and the holder of a snapshot (R265-R277). -/
namespace Sys2Proof.Machine

variable {s t u v w : State} {i p copy base att off len slot step : Nat} {places : List (Nat × Nat)} {r : WReq} {a b : Bool}
  {send : State → Nat → State × Bool} {h k : HSlot}

/-! ### The source -/

theorem toHolders_one (hc : copies s = 1) (hsend : send s 1 = (t, a)) : toHolders s base send = if a then t else holderLost t base 1 := by
  have h1 : upto 1 = [0] := rfl
  simp only [toHolders, hc, h1, List.foldl_cons, List.foldl_nil, Nat.zero_add, hsend]
  cases a <;> rfl

theorem toHolders_two (hc : copies s = 2) (hsend : send s 1 = (t, a)) (hsend2 : send t 2 = (u, b)) :
    toHolders s base send = if b = false then holderLost u base 2 else if a = false then holderLost u base 1 else u := by
  have h2 : upto 2 = [0, 1] := rfl
  simp only [toHolders, hc, h2, List.foldl_cons, List.foldl_nil, Nat.zero_add, Nat.reduceAdd, hsend, hsend2]
  cases a <;> cases b <;> rfl

theorem holderLost_some {x : Snap} (hx : snapOf s base = some x) :
    holderLost s base copy = failSnap (s.raise .holderLost 0 (packBits [(holderOf s copy, 0, 12), (copy, 12, 2)])) base := by
  rw [holderLost, hx]

/-- When the trickle of a step starts (R268). -/
def TrickleDue (s : State) : Prop :=
  shadowEn s = true ∧ stepState s = 1 ∧ s.cinch.lastFinal.map (fun p => p.1 + 1) = some (stepNo s) ∧
    shCores s ≤ ((s.cinch.begins.filter (fun p => p.1 = stepNo s)).map (·.2)).eraseDups.length

/-- What an opened snapshot sends first, once (R266, R268). -/
def trickleGo (u : State) (base : Nat) : State :=
  match snapOf u base with
  | none => u
  | some x =>
    if x.started then u
    else
      toHolders (u.modShadow (fun h => { h with snaps := h.snaps.map (fun y =>
        if y.base = base then { y with started := true, sums := trickleSums u y } else y) })) base (fun t j => trickleTo t x j)

theorem exec_trickleStart_due (hdue : TrickleDue s) : exec .trickleStart s =
    .next (ended s (trickleGo (openSnap s (stepNo s) ((s.cinch.lastFinal.map (·.2)).getD 0)) (stepNo s))) := by
  obtain ⟨hen, hst, hlast, hcores⟩ := hdue
  show execTrickleStart s = _
  rw [execTrickleStart, done_eq]
  dsimp only
  rw [if_neg (by simp only [hen, hst, hlast, Nat.not_lt.mpr hcores, Bool.not_true, ne_eq, not_true_eq_false, decide_false, Bool.or_false]; exact Bool.false_ne_true)]
  rfl

theorem exec_trickleStart_not (hdue : ¬TrickleDue s) : exec .trickleStart s = .next (ended s s) := by
  show execTrickleStart s = _
  rw [execTrickleStart, done_eq]
  dsimp only
  rw [if_pos]
  by_contra hno
  simp only [Bool.or_eq_true, Bool.not_eq_true', decide_eq_true_eq, not_or, not_not, Nat.not_lt, Bool.not_eq_false, ne_eq] at hno
  obtain ⟨⟨⟨hen, hst⟩, hlast⟩, hcores⟩ := hno
  exact hdue ⟨hen, hst, hlast, hcores⟩

theorem exec_shadowStagingDone (s : State) : exec .shadowStagingDone s = .next (ended s
    (if s.shadow.staging then s.shadow.snaps.foldl stagedOut (s.modShadow (fun h => { h with staging := false })) else s)) := by
  show execShadowStagingDone s = _
  rw [execShadowStagingDone, done_eq]
  cases s.shadow.staging
  · rw [if_pos (by decide), if_neg Bool.false_ne_true]
  · rw [if_neg (by decide), if_pos rfl]
    have hsnaps : (s.modShadow (fun h => { h with staging := false })).shadow.snaps = s.shadow.snaps := by
      show (wakeNow s 8 1).shadow.snaps = _
      rw [wakeNow_shadow]
    dsimp only
    rw [hsnaps]

/-! ### The holder -/

theorem exec_shadowData_none (hin : inTake s i 0x28 = none) : exec (.shadowData i copy base att off places) s = .next (ended s s) := by
  show execShadowData i copy base att off places s = _
  rw [execShadowData, hin, done_eq]

theorem exec_shadowData_denied (hin : inTake s i 0x28 = some (p, r, u)) (hno : holdsFor u r.src copy = false) :
    exec (.shadowData i copy base att off places) s = .next (ended s (answerOn u p r rcDenied 0 [])) := by
  show execShadowData i copy base att off places s = _
  rw [execShadowData, hin, done_eq]
  dsimp only
  rw [if_pos (by rw [hno]; decide)]

theorem exec_shadowData_busy (hin : inTake s i 0x28 = some (p, r, u)) (hh : holdsFor u r.src copy = true)
    (hslot : takeSlot u r.src copy base att = none) :
    exec (.shadowData i copy base att off places) s = .next (ended s (answerOn u p r rcBusy 0 [])) := by
  show execShadowData i copy base att off places s = _
  rw [execShadowData, hin, done_eq]
  dsimp only
  rw [if_neg (by rw [hh]; decide), hslot]

/-- Data for a slot that is taken: a request without data opens it, bytes past its end are denied, others are written (R266, R274). -/
theorem exec_shadowData_slot (hin : inTake s i 0x28 = some (p, r, u)) (hh : holdsFor u r.src copy = true)
    (hslot : takeSlot u r.src copy base att = some (v, h)) :
    exec (.shadowData i copy base att off places) s = .next (ended s
      (if r.data = [] then
        answerOn (setSlot (gatherPassed v { h with places := places }).1 (gatherPassed v { h with places := places }).2) p r 0 0 []
      else if shSlotSize v < off + r.data.length then answerOn v p r rcDenied 0 []
      else answerOn (setSlot (slotWrite v h off r.data).1 (slotWrite v h off r.data).2) p r
        (if (slotWrite v h off r.data).1.memBad then rcPoisoned else 0) 0 [])) := by
  show execShadowData i copy base att off places s = _
  rw [execShadowData, hin, done_eq]
  dsimp only
  rw [if_neg (by rw [hh]; decide), hslot]
  simp only [List.isEmpty_iff]

theorem slotWrite_lines (hoff : off % 64 = 0) {bs : List Byte} (hlen : bs.length % 64 = 0) :
    slotWrite s h off bs = (hbmWrite s hintStream (hslotAddr s h + off) bs, h) := by
  rw [slotWrite, if_pos (by simp [hoff, hlen])]

theorem exec_shadowTrailer_none {t : SnapTrailer} (hin : inTake s i 0x29 = none) : exec (.shadowTrailer i t) s = .next (ended s s) := by
  show execShadowTrailer i t s = _
  rw [execShadowTrailer, hin, done_eq]

theorem exec_shadowTrailer_busy {t : SnapTrailer} (hin : inTake s i 0x29 = some (p, r, u)) (hslot : fillingSlot u r.src t.copy t.base = none) :
    exec (.shadowTrailer i t) s = .next (ended s (answerOn u p r rcBusy 0 [])) := by
  show execShadowTrailer i t s = _
  rw [execShadowTrailer, hin, done_eq]
  dsimp only
  rw [hslot]

/-- A trailer for a slot that fills: the source gives up, or a region does not check out, or the slot is complete (R270, R271). -/
theorem exec_shadowTrailer_slot {t : SnapTrailer} (hin : inTake s i 0x29 = some (p, r, u))
    (hslot : fillingSlot u r.src t.copy t.base = some h) :
    exec (.shadowTrailer i t) s = .next (ended s
      (if t.fail then answerOn (freeSlot u h) p r 0 0 []
      else
        match findIdx1 (fun q => regionBadAt u h t q) t.regions with
        | some (k, _) => answerOn
            (freeSlot (u.raise .holdCrc 0 (packBits [(t.base, 0, 48), (r.src, 48, 12), (k, 60, 4)])) h) p r rcPoisoned 0 []
        | none => (sendCtl (answerOn (slotDone u h t r.src) p r 0 0 []) r.src 1 [t.copy, t.base] .snapAck).1)) := by
  show execShadowTrailer i t s = _
  rw [execShadowTrailer, hin, done_eq]
  dsimp only
  rw [hslot] <;> rfl

theorem findIdx1_eq_none {α : Type} {f : α → Bool} {l : List α} (hl : ∀ x ∈ l, f x = false) : findIdx1 f l = none := by
  rw [findIdx1, List.find?_eq_none.mpr, Option.map_none]
  intro x hx
  rw [hl x.1 (List.fst_mem_of_mem_zipIdx hx)]
  exact Bool.false_ne_true

/-- The slot of a trailer that checks out (R270, R274). -/
theorem slotDone_eq (s : State) (h : HSlot) (t : SnapTrailer) (src : Nat) :
    slotDone s h t src =
      let dir := t.regions.flatMap dirEntry
      let s1 := hbmWrite s hintStream (hslotAddr s h + 0x100) (dir ++ leBytes (3840 - dir.length) 0)
      let s2 := hbmWrite s1 hintStream (hslotAddr s h + 64) (leBytes 192 0)
      let s3 := hbmWrite s2 hintStream (hslotAddr s h)
        (headerLine t src s2.now (crc64 (s2.bytes (hslotAddr s h + 0x100) (0x26000 - 0x100))) false)
      setSlotSt s3 h.v 2 := rfl

theorem exec_snapAck_none (hin : inTake s i 0x29 = none) : exec (.snapAck i copy base) s = .next (ended s s) := by
  show execSnapAck i copy base s = _
  rw [execSnapAck, hin, done_eq]

theorem exec_snapAck_gone (hin : inTake s i 0x29 = some (p, r, u)) (hx : snapOf (answerOn u p r 0 0 []) base = none) :
    exec (.snapAck i copy base) s = .next (ended s (answerOn u p r 0 0 [])) := by
  show execSnapAck i copy base s = _
  rw [execSnapAck, hin, done_eq]
  dsimp only
  rw [hx]

/-- The acknowledgements of a snapshot with that of one more copy. -/
def acksWith (x : Snap) (copy : Nat) : List Nat := if x.acks.contains copy then x.acks else x.acks ++ [copy]

theorem exec_snapAck_some {x : Snap} (hin : inTake s i 0x29 = some (p, r, u)) (hx : snapOf (answerOn u p r 0 0 []) base = some x) :
    exec (.snapAck i copy base) s = .next (ended s
      (if (acksWith x copy).length < copies (answerOn u p r 0 0 []) then
        (answerOn u p r 0 0 []).modShadow (fun h => { h with snaps := h.snaps.map (fun y =>
          if y.base = base then { y with acks := acksWith x copy } else y) })
      else shadowStatus ((((answerOn u p r 0 0 []).modShadow (fun h => { h with
        snaps := h.snaps.filter (fun y => y.base ≠ base) })).setF (rShadow 0x38) 16 48 base).addCtr (rShadow 0x80) 1))) := by
  show execSnapAck i copy base s = _
  rw [execSnapAck, hin, done_eq]
  dsimp only
  rw [hx]
  rfl

theorem exec_shadowCtlRead_none (hin : inTake s i 0x29 = none) : exec (.shadowCtlRead i copy slot off len) s = .next (ended s s) := by
  show execShadowCtlRead i copy slot off len s = _
  rw [execShadowCtlRead, hin, done_eq]

theorem exec_shadowCtlRead_some (hin : inTake s i 0x29 = some (p, r, u)) :
    exec (.shadowCtlRead i copy slot off len) s = .next (ended s
      (if holdsFor u r.src copy = false ∨ slotCount u ≤ slot ∨ shSlotSize u < off + len then answerOn u p r rcDenied 0 []
      else if poisoned u (slotAddr u copy slot + off) len then
        answerOn (hbmTouch u hintNormal (slotAddr u copy slot + off) len) p r rcPoisoned 0 []
      else answerOn (hbmTouch u hintNormal (slotAddr u copy slot + off) len) p r 0 0 (u.bytes (slotAddr u copy slot + off) len))) := by
  show execShadowCtlRead i copy slot off len s = _
  rw [execShadowCtlRead, hin, done_eq]
  simp only [Bool.or_eq_true, Bool.not_eq_true', decide_eq_true_eq, or_assoc]

/-- Settles O47: the trickle, the holders' ways, the staging copy, and the requests at a holder, branch by branch. -/
theorem snapshotSourceAndHolder : Obligations.SnapshotSourceAndHolder := by
  refine ⟨fun s hno => exec_trickleStart_not ?_, fun s step att hen hst hlast hstep hcores => ?_,
    fun s t base send hc hsend => by rw [toHolders_one hc hsend, if_pos rfl],
    fun s t base send hc hsend => by rw [toHolders_one hc hsend, if_neg Bool.false_ne_true],
    fun s t u base a b send hc ha hb => toHolders_two hc ha hb, fun s base copy x hx => holderLost_some hx,
    fun s hst => by rw [exec_shadowStagingDone, hst, if_neg Bool.false_ne_true],
    fun s hst => by rw [exec_shadowStagingDone, hst, if_pos rfl], fun s x => ?_, fun s u i p copy base att off places r hin => ?_,
    fun s h off bs hoff hlen => slotWrite_lines hoff hlen, fun s u i p r t hin => ?_, fun s u i p copy base r hin => ?_,
    fun s u i p copy slot off len r hin => ⟨fun hno => ?_, fun hh hslot hoff => ?_⟩,
    fun s i copy base att off slot len places t => ⟨exec_shadowData_none, fun h =>
      ⟨exec_shadowTrailer_none h, exec_snapAck_none h, exec_shadowCtlRead_none h⟩⟩⟩
  · rintro ⟨hen, hst, hlast, hcores⟩
    rcases hno with hno | hno | hno | hno
    · rw [hen] at hno; cases hno
    · exact hno hst
    · exact hno hlast
    · exact Nat.not_lt.mpr hcores hno
  · have hdue : TrickleDue s := ⟨hen, hst, by rw [hlast, Option.map_some, hstep], hcores⟩
    have hatt : (s.cinch.lastFinal.map (·.2)).getD 0 = att := by rw [hlast]; rfl
    intro u
    rw [exec_trickleStart_due hdue, hatt]
    refine ⟨fun hx => ?_, fun x hx hs => ?_, fun x hx hs => ?_⟩ <;> rw [trickleGo, hx]
    · dsimp only
      rw [if_pos hs]
    · dsimp only
      rw [if_neg (by rw [hs]; decide)]
  · refine ⟨fun hs => by rw [stagedOut, hs], fun hacks => ?_, fun bs t hs hacks => by rw [stagedOut, hs, hacks]; rfl⟩
    rw [stagedOut]
    split
    next => rfl
    next => exact if_pos (by simpa using hacks)
  · refine ⟨exec_shadowData_denied hin, exec_shadowData_busy hin, fun v h hh hslot => ?_⟩
    rw [exec_shadowData_slot hin hh hslot]
    refine ⟨fun w k hd hg => ?_, fun hd hoff => ?_, fun w k hd hoff hw => ?_⟩
    · rw [if_pos hd, hg]
    · rw [if_neg hd, if_pos hoff]
    · rw [if_neg hd, if_neg (Nat.not_lt.mpr hoff), hw]
  · refine ⟨exec_shadowTrailer_busy hin, fun h hslot hf => ?_, fun h k q hslot hf hbad => ?_, fun h hslot hf hgood => ?_⟩ <;>
      rw [exec_shadowTrailer_slot hin hslot]
    · rw [if_pos hf]
    · rw [if_neg (by rw [hf]; decide), hbad]
    · rw [if_neg (by rw [hf]; decide), findIdx1_eq_none hgood]
      rfl
  · refine ⟨exec_snapAck_gone hin, fun x hx => ?_⟩
    rw [exec_snapAck_some hin hx]
    exact ⟨fun hlt => congrArg (fun t => Host.Outcome.next (ended s t)) (if_pos hlt),
      fun hle => congrArg (fun t => Host.Outcome.next (ended s t)) (if_neg (Nat.not_lt.mpr hle))⟩
  · rw [exec_shadowCtlRead_some hin, if_pos hno]
  · have hin' : ¬(holdsFor u r.src copy = false ∨ slotCount u ≤ slot ∨ shSlotSize u < off + len) := by
      simp only [hh, Bool.true_eq_false, false_or, not_or, Nat.not_le, Nat.not_lt]
      exact ⟨hslot, hoff⟩
    rw [exec_shadowCtlRead_some hin, if_neg hin']

end Sys2Proof.Machine
end

section
/-! Host commands start in their queue's turn (R336-R350). -/
namespace Sys2Proof.Machine

variable {s : State} {q a : Nat} {c : HCmd} {k : CmdKind} {i : Instr} {fail : Bool} {mine : CmdKind → Bool} {act : State → HCmd → State}

/-- A command starts only when it is the queue's turn, it is legal and it is of the row's kind. -/
theorem startCmd_not (h : ∀ c, frontCmd s q = some c → queueTurn s q = true → cmdOk c.ent = true → mine (cmdKind c.ent) = false) :
    startCmd s q mine act = s := by
  rw [startCmd]
  split
  next => rfl
  next c hc =>
    rw [if_pos]
    specialize h c hc
    cases hturn : queueTurn s q
    · rfl
    · cases hok : cmdOk c.ent
      · rfl
      · simp [h hturn hok]

/-- A front command in its queue's turn, legal and of the row's kind. -/
theorem startCmd_front (hc : frontCmd s q = some c) (hturn : queueTurn s q = true) (hok : cmdOk c.ent = true)
    (hk : mine (cmdKind c.ent) = true) :
    startCmd s q mine act =
      if unitMissing (begun s q c) c.ent then overCmd (begun s q c) (running s c) stUnitAbsent
      else if !cmdPermitted (begun s q c) c.f c.ent then overCmd (begun s q c) (running s c) stNotPermitted
      else act (begun s q c) (running s c) := by
  rw [startCmd, hc]
  dsimp only
  rw [if_neg (by rw [hturn, hok, hk]; decide)]

theorem startCmd_starts (h : Starts s q c) (hk : mine (cmdKind c.ent) = true) :
    startCmd s q mine act = act (begun s q c) (running s c) := by
  obtain ⟨hc, hturn, hok, hunit, hperm⟩ := h
  rw [startCmd_front hc hturn hok hk, if_neg (by rw [hunit]; decide), if_neg (by rw [hperm]; decide)]

/-- Every row of a host command starts a command of its queue and kind. -/
theorem exec_hostRow (s : State) (h : hostRow i = some (q, k)) : ∃ act, exec i s = .next (ended s (startCmd s q (fun x => x = k) act)) := by
  unfold hostRow at h
  split at h <;> cases h <;> exact ⟨_, rfl⟩

/-- The rows of CORE_CTL look at the owner of the core first (R345). -/
theorem exec_coreCtlRow (s : State) (h : hostRow i = some (q, .coreCtl a)) : ∃ act, exec i s = .next (ended s (coreCtl s q a act)) := by
  unfold hostRow at h
  split at h <;> cases h <;> exact ⟨_, rfl⟩

theorem coreCtl_other {act : State → HCmd → Nat → State} (h : Starts s q c) (hk : cmdKind c.ent = .coreCtl a)
    (hown : ownsCore (begun s q c) c.f (eF c.ent 8 0 16) = false) :
    coreCtl s q a act = overCmd (begun s q c) (running s c) stNotPermitted := by
  rw [coreCtl, startCmd_starts h (decide_eq_true hk)]
  exact if_pos (by rw [Bool.not_eq_true']; exact hown)

theorem coreCtl_own {act : State → HCmd → Nat → State} (h : Starts s q c) (hk : cmdKind c.ent = .coreCtl a)
    (hown : ownsCore (begun s q c) c.f (eF c.ent 8 0 16) = true) :
    coreCtl s q a act = act (begun s q c) (running s c) (slotOf (begun s q c) (eF c.ent 8 0 16)) := by
  rw [coreCtl, startCmd_starts h (decide_eq_true hk)]
  exact if_neg (by rw [Bool.not_eq_true', Bool.not_eq_false]; exact hown)

theorem exec_copy_starts (h : Starts s q c) (hk : cmdKind c.ent = .copy) :
    exec (.copy q) s = .next (ended s (if cpCheck (begun s q c) c.f c.ent ≠ 0
      then overCmd (begun s q c) (running s c) (cpCheck (begun s q c) c.f c.ent)
      else setCmd (begun s q c) { running s c with segs := cpSegs (cpLen c.ent) })) := by
  show execCopy q s = _
  rw [execCopy, startCmd_starts h (decide_eq_true hk), done_eq]
  rfl

theorem exec_opqWrite_starts (h : Starts s q c) (hk : cmdKind c.ent = .opqWrite) :
    exec (.opqWrite q fail) s = .next (ended s
      (if !ownsCtx c.f (qCtx (begun s q c) (slotOf (begun s q c) (eF c.ent 20 0 16)) (eF c.ent 22 0 2))
        then overCmd (begun s q c) (running s c) stNotPermitted
      else if fail then overCmd (raiseDma (begun s q c) q 1 (tdAddr c.ent)) (running s c) stHostDmaError
      else startRun (setCmd (begun s q c) { running s c with link := c.link + 128 * tdCount c.ent }) (running s c)
        (slotOf (begun s q c) (eF c.ent 20 0 16)) (eF c.ent 22 0 2) none)) := by
  show execOpqWrite q fail s = _
  rw [execOpqWrite, startCmd_starts h (decide_eq_true hk), done_eq]
  rfl

theorem exec_task_starts (h : Starts s q c) (hk : cmdKind c.ent = .task) :
    exec (.task q fail) s = .next (ended s
      (if !(upto 256).any (fun n => allowed (begun s q c) c.f n && coreBuilt (begun s q c) n && !offline (begun s q c) n &&
          !dedicated (begun s q c) n) then overCmd (begun s q c) (running s c) stNoCore
      else if fail then overCmd (raiseDma (begun s q c) q 1 (tdAddr c.ent)) (running s c) stHostDmaError
      else (setCmd (begun s q c) { running s c with link := c.link + 128 * tdCount c.ent }).modHost (fun h => { h with
        tasks := h.tasks ++ [{ cmd := c.id, f := c.f, core := 0, stage := 0, saved := none }] }))) := by
  show execTask q fail s = _
  rw [execTask, startCmd_starts h (decide_eq_true hk), done_eq]
  rfl

theorem exec_acctSnapshot_starts (h : Starts s q c) (hk : cmdKind c.ent = .acct) :
    exec (.acctSnapshot q fail) s = .next (ended s
      (if c.f ≠ 0 && c.f ≠ eF c.ent 16 0 8 then overCmd (begun s q c) (running s c) stNotPermitted
      else if fail then overCmd (raiseDma (begun s q c) q 1 (eF c.ent 8 0 64)) (running s c) stHostDmaError
      else overCmd (hostWrite (begun s q c) (eF c.ent 8 0 64) (acctRecord (begun s q c) (eF c.ent 16 0 8)))
        { running s c with link := c.link + 64 } stOK)) := by
  show execAcctSnapshot q fail s = _
  rw [execAcctSnapshot, startCmd_starts h (decide_eq_true hk), done_eq]
  rfl

theorem exec_badCommand_front (hc : frontCmd s q = some c) : exec (.badCommand q) s = .next (ended s
    (if queueTurn s q = false ∨ cmdOk c.ent = true then s
    else overCmd (s.modHost (fun h => { h with rrQ := q })) { c with start := s.now } stBadCommand)) := by
  show execBadCommand q s = _
  rw [execBadCommand, hc, done_eq]
  simp only [Bool.or_eq_true, Bool.not_eq_true']

theorem exec_badCommand_none (hc : frontCmd s q = none) : exec (.badCommand q) s = .next (ended s s) := by
  show execBadCommand q s = _
  rw [execBadCommand, hc, done_eq]

/-- Settles O48: a row starts a front command of its kind in its turn; each kind's first step follows from what it is given. -/
theorem hostCommandsStart : Obligations.HostCommandsStart := by
  refine ⟨fun s i q k hrow hno => ?_, fun s i q k c hrow hc hturn hok hk => ?_, fun s q c h hk => ?_, fun s q fail c h hk => ?_,
    fun s q fail c h hk => ?_, fun s q a i c h hk hrow hown => ?_, fun s q c h hown => ?_, fun s q fail c h hk => ?_,
    fun s q c hc hturn hok => ?_, fun s q hno => ?_⟩
  · obtain ⟨act, hexec⟩ := exec_hostRow s hrow
    rw [hexec, startCmd_not (fun c hc hturn hok => decide_eq_false (hno c hc hturn hok))]
  · obtain ⟨act, hexec⟩ := exec_hostRow s hrow
    rw [hexec, startCmd_front hc hturn hok (decide_eq_true hk)]
    refine ⟨fun hm => by rw [if_pos hm], fun hm hp => ?_⟩
    rw [if_neg (by rw [hm]; decide), if_pos (by rw [hp]; decide)]
  · rw [exec_copy_starts h hk]
    exact ⟨fun h0 => by rw [if_neg (not_not.mpr h0)], fun h0 => by rw [if_pos h0]⟩
  · intro sl
    rw [exec_opqWrite_starts h hk]
    refine ⟨fun ho => ?_, fun ho hf => ?_, fun ho hf => ?_⟩
    · rw [if_pos (by rw [ho]; decide)]
    · rw [if_neg (by rw [ho]; decide), if_pos hf]
    · rw [if_neg (by rw [ho]; decide), if_neg (by rw [hf]; decide)]
  · intro u any
    rw [exec_task_starts h hk]
    refine ⟨fun ho => ?_, fun ho hf => ?_, fun ho hf => ?_⟩
    · rw [if_pos (by rw [Bool.not_eq_true']; exact ho)]
    · rw [if_neg (by rw [Bool.not_eq_true', Bool.not_eq_false]; exact ho), if_pos hf]
    · rw [if_neg (by rw [Bool.not_eq_true', Bool.not_eq_false]; exact ho), if_neg (by rw [hf]; decide)]
  · obtain ⟨act, hexec⟩ := exec_coreCtlRow s hrow
    rw [hexec, coreCtl_other h hk hown]
  · intro sl t
    refine ⟨fun hk => ?_, fun hk => ?_, fun hk => ?_⟩
    · show execCoreCtlResume q s = _
      rw [execCoreCtlResume, coreCtl_own h hk hown, done_eq]
      rfl
    · show execCoreCtlCancel q s = _
      rw [execCoreCtlCancel, coreCtl_own h hk hown, done_eq]
      rfl
    · show execCoreCtlReset q s = _
      rw [execCoreCtlReset, coreCtl_own h hk hown, done_eq]
      rfl
  · intro a f
    rw [exec_acctSnapshot_starts h hk]
    refine ⟨fun h0 hf => ?_, fun ho hf => ?_, fun ho hf => ?_⟩
    · rw [if_pos (by rw [Bool.and_eq_true]; exact ⟨decide_eq_true h0, decide_eq_true hf⟩)]
    · rw [if_neg (by rcases ho with ho | ho <;> simp [ho, f]), if_pos hf]
    · rw [if_neg (by rcases ho with ho | ho <;> simp [ho, f]), if_neg (by rw [hf]; decide)]
  · rw [exec_badCommand_front hc, if_neg (by rw [hturn, hok]; decide)]
  · cases hc : frontCmd s q with
    | none => exact exec_badCommand_none hc
    | some c =>
      rw [exec_badCommand_front hc, if_pos]
      cases hturn : queueTurn s q
      · exact .inl rfl
      · exact .inr (hno c hc hturn)

end Sys2Proof.Machine
end

section
/-! Host queues: doorbells, fetched entries, completion entries and their messages (R334-R339). -/
namespace Sys2Proof.Machine

variable {s t : State} {q : Nat}

/-! ### The registers of a queue lie apart -/

theorem rQ_ne {o p : Nat} (h : o ≠ p) : rQ q o ≠ rQ q p := by
  unfold rQ
  omega

theorem sameRegs_of_regs {but : List Nat} (h : t.regs = s.regs) : SameRegs but s t := fun r _ => rd_of_regs h r

theorem hqHead_lt (s : State) (q : Nat) : hqHead s q < 2 ^ 32 := fld_lt ..

/-! ### Doorbells -/

theorem queueAt_pf0 (h : q < 4096) : queueAt s 0 q = some q := by
  rw [queueAt, if_pos rfl, if_pos h]

theorem exec_sqDoorbell {f i : Nat} {v : Word32} {fail : Option Nat} (h : queueAt s f i = some q) : exec (.sqDoorbell f i v fail) s =
    .next (ended s (fetch 65536 (sqOverrun (((vfSeen s f).setF (rQ q 0x20) 0 32 v.toNat).emit (.wake q)) q) q fail)) := by
  show execSqDoorbell f i v fail s = _
  rw [execSqDoorbell, h, done_eq]

theorem exec_cqDoorbell {f i : Nat} {v : Word32} (h : queueAt s f i = some q) : exec (.cqDoorbell f i v) s =
    .next (ended s (fetch 65536 (releaseCpl 65536 ((vfSeen s f).setF (rQ q 0x20) 32 32 v.toNat) q) q none)) := by
  show execCqDoorbell f i v s = _
  rw [execCqDoorbell, h, done_eq]

theorem exec_doorbell_nowhere {f i : Nat} {v : Word32} {fail : Option Nat} (h : queueAt s f i = none) :
    exec (.sqDoorbell f i v fail) s = .next (ended s s) ∧ exec (.cqDoorbell f i v) s = .next (ended s s) := by
  have hsq : exec (.sqDoorbell f i v fail) s = execSqDoorbell f i v fail s := rfl
  have hcq : exec (.cqDoorbell f i v) s = execCqDoorbell f i v s := rfl
  rw [hsq, hcq, execSqDoorbell, execCqDoorbell, h, done_eq]
  exact ⟨rfl, rfl⟩

/-- PF0 at its doorbell page of a queue; the host sees no VF by it. -/
theorem exec_sqDoorbell_pf0 {v : Word32} (h : q < 4096) : exec (.sqDoorbell 0 q v none) s =
    .next (ended s (fetch 65536 (sqOverrun ((s.setF (rQ q 0x20) 0 32 v.toNat).emit (.wake q)) q) q none)) := exec_sqDoorbell (queueAt_pf0 h)

theorem exec_cqDoorbell_pf0 {v : Word32} (h : q < 4096) : exec (.cqDoorbell 0 q v) s =
    .next (ended s (fetch 65536 (releaseCpl 65536 (s.setF (rQ q 0x20) 32 32 v.toNat) q) q none)) := exec_cqDoorbell (queueAt_pf0 h)

/-! ### Fetched entries (R335) -/

/-- Whether a queue takes its next entry. -/
structure Fetches (s : State) (q : Nat) : Prop where
  en : hqEn s q = true
  going : hqHalted s q = false
  thawed : frozen s = false
  entry : hqHead s q ≠ hqTail s q
  room : heldCmds s q = []

/-- The command that the entry at the head of the ring becomes. -/
def headCmd (s : State) (q : Nat) : HCmd :=
  { id := s.host.nextCmd, q := q, f := hqFunc s q, ent := s.num (hostA ((s.rd (rQ q 0)).toNat + 64 * (hqHead s q % hqSq s q))) 64, stage := 0
    start := s.now, status := 0, segs := 0, segRes := [], prefix_ := 0, detail := 0, hbm := 0, link := 0 }

/-- A queue that has taken the entry at its head. -/
def fetchedOne (s : State) (q : Nat) : State :=
  (s.modHost (fun h => { h with cmds := h.cmds ++ [headCmd s q], nextCmd := h.nextCmd + 1 })).setF (rQ q 0x18) 0 32 (hqHead s q + 1)

theorem fetch_stop {n : Nat} {fail : Option Nat} (h : ¬Fetches s q) : fetch (n + 1) s q fail = s := by
  rw [fetch, if_pos]
  by_contra hno
  simp only [Bool.or_eq_true, Bool.not_eq_true', decide_eq_true_eq, not_or, Bool.not_eq_false, Bool.not_eq_true, List.isEmpty_eq_false_iff, ne_eq,
    not_not] at hno
  obtain ⟨⟨⟨⟨hen, hgo⟩, hfr⟩, hent⟩, hroom⟩ := hno
  exact h ⟨hen, hgo, hfr, hent, hroom⟩

theorem fetch_guard (h : Fetches s q) :
    ¬(!hqEn s q || hqHalted s q || frozen s || decide (hqHead s q = hqTail s q) || !(heldCmds s q).isEmpty) = true := by
  simp [h.en, h.going, h.thawed, h.entry, h.room]

theorem fetch_fail (n : Nat) (h : Fetches s q) :
    fetch (n + 1) s q (some 0) = haltQueue (raiseDma s q 0 ((s.rd (rQ q 0)).toNat + 64 * (hqHead s q % hqSq s q))) q 2 := by
  rw [fetch, if_neg (fetch_guard h)]
  rfl

theorem fetch_one (n : Nat) (h : Fetches s q) : fetch (n + 1) s q none = fetch n (fetchedOne s q) q none := by
  rw [fetch, if_neg (fetch_guard h)]
  rfl

theorem sqOverrun_fits (h : subMod 32 (hqTail s q) (hqHead s q) ≤ hqSq s q) : sqOverrun s q = s := by
  rw [sqOverrun, if_neg]
  simp only [Bool.and_eq_true, decide_eq_true_eq, not_and]
  intro _
  omega

theorem sqOverrun_past (hen : hqEn s q = true) (hgo : hqHalted s q = false) (h : hqSq s q < subMod 32 (hqTail s q) (hqHead s q)) :
    sqOverrun s q = (haltQueue s q 1).raise .queueOverrun 0 (packBits [(q, 0, 12), (hqTail s q, 12, 32)]) := by
  rw [sqOverrun, if_pos (by simp [hen, hgo, h])]

/-- The state in which a doorbell of the submission ring is looked at. -/
def sqRung (s : State) (q : Nat) (v : Word32) : State := (s.setF (rQ q 0x20) 0 32 v.toNat).emit (.wake q)

section
variable {v : Word32}

theorem sqRung_fb {o : Nat} (ho : o ≠ 0x20) (l : Nat) : (sqRung s q v).fb (rQ q o) l = s.fb (rQ q o) l := by
  simp [sqRung, rQ_ne ho]

theorem sqRung_f {o : Nat} (ho : o ≠ 0x20) (l w : Nat) : (sqRung s q v).f (rQ q o) l w = s.f (rQ q o) l w := by
  simp [sqRung, rQ_ne ho]

theorem sqRung_tail : hqTail (sqRung s q v) q = v.toNat := by
  have hv := v.isLt
  simp only [hqTail, sqRung, State.emit_f, State.f_setF_same _ _ _ _ _ (show 0 + 32 ≤ 64 by decide)]
  exact Nat.mod_eq_of_lt hv

theorem sqRung_head : hqHead (sqRung s q v) q = hqHead s q := sqRung_f (by decide) ..
theorem sqRung_sq : hqSq (sqRung s q v) q = hqSq s q := congrArg (2 ^ ·) (sqRung_f (by decide) ..)
theorem sqRung_func : hqFunc (sqRung s q v) q = hqFunc s q := sqRung_f (by decide) ..
theorem sqRung_en : hqEn (sqRung s q v) q = hqEn s q := sqRung_fb (by decide) ..
theorem sqRung_halted : hqHalted (sqRung s q v) q = hqHalted s q := sqRung_fb (by decide) ..
theorem sqRung_host : (sqRung s q v).host = s.host := by simp [sqRung]

theorem sqRung_frozen : frozen (sqRung s q v) = frozen s := by
  have hne : 0x500 ≠ rQ q 0x20 := by
    unfold rQ engineBase
    omega
  simp [frozen, sqRung, hne]

theorem sqRung_sameRegs : SameRegs [rQ q 0x20] s (sqRung s q v) := fun r hr => by
  have hne : r ≠ rQ q 0x20 := by simpa using hr
  simp [sqRung, hne]

end

theorem fetchedOne_head : hqHead (fetchedOne s q) q = (hqHead s q + 1) % 2 ^ 32 := by
  rw [hqHead, fetchedOne, State.f_setF_same _ _ _ _ _ (by decide)]

theorem fetchedOne_tail : hqTail (fetchedOne s q) q = hqTail s q := by
  simp [hqTail, fetchedOne, rQ_ne]

theorem fetchedOne_cmds (s : State) (q : Nat) : (fetchedOne s q).host.cmds = s.host.cmds ++ [headCmd s q] := by
  rw [fetchedOne, State.setF_host]
  rfl

theorem headCmd_sqRung (s : State) (q : Nat) (v : Word32) : headCmd (sqRung s q v) q = headCmd s q := by
  have hrd : (sqRung s q v).rd (rQ q 0) = s.rd (rQ q 0) := by simp [sqRung, rQ_ne]
  have hnum (a n : Nat) : (sqRung s q v).num a n = s.num a n := by simp [sqRung]
  have hnow : (sqRung s q v).now = s.now := by simp [sqRung]
  simp only [headCmd, hnum, hrd, sqRung_head, sqRung_sq, sqRung_host, sqRung_func, hnow]

theorem fetchedOne_sameRegs : SameRegs [rQ q 0x18] s (fetchedOne s q) := fun r hr => by
  have hne : r ≠ rQ q 0x18 := by simpa using hr
  simp [fetchedOne, hne]

/-- One entry more in the ring than was taken becomes a waiting command. -/
theorem exec_sqDoorbell_one {v : Word32} (hq : q < 4096) (hen : hqEn s q = true) (hgo : hqHalted s q = false)
    (hv : v.toNat = (hqHead s q + 1) % 2 ^ 32) (hsq : 1 ≤ hqSq s q) (hfr : frozen s = false) (hroom : heldCmds s q = []) :
    exec (.sqDoorbell 0 q v none) s = .next (ended s (fetchedOne (sqRung s q v) q)) := by
  have hlt := hqHead_lt s q
  have hnear : subMod 32 v.toNat (hqHead s q) = 1 := by
    unfold subMod
    omega
  have hfits : sqOverrun (sqRung s q v) q = sqRung s q v := sqOverrun_fits (by rw [sqRung_tail, sqRung_head, sqRung_sq, hnear]; exact hsq)
  have hfetch : Fetches (sqRung s q v) q :=
    ⟨sqRung_en.trans hen, sqRung_halted.trans hgo, sqRung_frozen.trans hfr, by rw [sqRung_head, sqRung_tail]; omega,
      by rw [heldCmds, sqRung_host]; exact hroom⟩
  have hend : ¬Fetches (fetchedOne (sqRung s q v) q) q := fun h =>
    h.entry (by rw [fetchedOne_head, fetchedOne_tail, sqRung_head, sqRung_tail, hv])
  rw [exec_sqDoorbell_pf0 hq]
  change Host.Outcome.next (ended s (fetch 65536 (sqOverrun (sqRung s q v) q) q none)) = _
  rw [hfits, fetch_one 65535 hfetch, fetch_stop (n := 65534) hend]

/-- A tail past the ring halts the queue. -/
theorem exec_sqDoorbell_past {v : Word32} (hq : q < 4096) (hen : hqEn s q = true) (hgo : hqHalted s q = false)
    (hpast : hqSq s q < subMod 32 v.toNat (hqHead s q)) :
    exec (.sqDoorbell 0 q v none) s =
      .next (ended s ((haltQueue (sqRung s q v) q 1).raise .queueOverrun 0 (packBits [(q, 0, 12), (v.toNat, 12, 32)]))) := by
  have hover := sqOverrun_past (sqRung_en.trans hen) (sqRung_halted.trans hgo) (by rw [sqRung_tail, sqRung_head, sqRung_sq]; exact hpast)
  have hhalted : hqHalted ((haltQueue (sqRung s q v) q 1).raise .queueOverrun 0 (packBits [(q, 0, 12), (v.toNat, 12, 32)])) q = true := by
    simp [hqHalted, haltQueue, State.fb]
  rw [exec_sqDoorbell_pf0 hq]
  change Host.Outcome.next (ended s (fetch 65536 (sqOverrun (sqRung s q v) q) q none)) = _
  rw [hover, sqRung_tail, fetch_stop (n := 65535) (fun h => by rw [h.going] at hhalted; cases hhalted)]

/-- Freed completion slots of a queue that holds no entry and has none to take. -/
theorem exec_cqDoorbell_idle {v : Word32} (hq : q < 4096) (hheld : heldCmds s q = []) (hidle : hqEn s q = false ∨ hqHead s q = hqTail s q) :
    exec (.cqDoorbell 0 q v) s = .next (ended s (s.setF (rQ q 0x20) 32 32 v.toNat)) := by
  have hheld' : heldCmds (s.setF (rQ q 0x20) 32 32 v.toNat) q = [] := by simpa [heldCmds] using hheld
  have hstop : ¬Fetches (s.setF (rQ q 0x20) 32 32 v.toNat) q := fun h => by
    rcases hidle with hoff | hnone
    · have hen := h.en
      simp only [hqEn, State.fb_setF_other _ _ _ _ _ _ _ (rQ_ne (q := q) (show 0x10 ≠ 0x20 by decide))] at hen
      exact absurd hen (by rw [show s.fb (rQ q 0x10) 0 = false from hoff]; decide)
    · have hent := h.entry
      simp only [hqHead, hqTail, State.f_setF_other _ _ _ _ _ _ _ _ (rQ_ne (q := q) (show 0x18 ≠ 0x20 by decide)),
        State.f_setF_apart _ _ _ _ _ 0 32 (show 32 + 32 ≤ 64 by decide) (.inl (by decide))] at hent
      exact hent hnone
  have hrel : releaseCpl 65536 (s.setF (rQ q 0x20) 32 32 v.toNat) q = s.setF (rQ q 0x20) 32 32 v.toNat := by
    rw [show (65536 : Nat) = 65535 + 1 from rfl, releaseCpl, hheld']
  rw [exec_cqDoorbell_pf0 hq, hrel, fetch_stop (n := 65535) hstop]

/-! ### Completion entries (R338) -/

theorem coalNote_rd (s : State) (q r : Nat) : (coalNote s q).rd r = s.rd r := by
  unfold coalNote
  dsimp only
  split
  · rw [sendMsix_rd, State.modHost_rd]
  · rw [State.modHost_rd]

theorem coalNote_mem (s : State) (q : Nat) : (coalNote s q).mem = s.mem := by
  unfold coalNote
  dsimp only
  split
  · rw [sendMsix_mem, State.modHost_mem]
  · rw [State.modHost_mem]

theorem account_mem (s : State) (f ns hbm link nj : Nat) : (account s f ns hbm link nj).mem = s.mem := by
  unfold account addEnergy
  simp

/-- Accounting writes the client's counters, which lie past the queues' registers. -/
theorem account_rd_queue {o : Nat} (hq : q < 4096) (ho : o < 0x40) (s : State) (f ns hbm link nj : Nat) :
    (account s f ns hbm link nj).rd (rQ q o) = s.rd (rQ q o) := by
  have hne (k : Nat) : rQ q o ≠ clientBase f + k := by
    unfold rQ clientBase engineBase
    omega
  have hhost (s : State) (h : HostIf) : ({ s with host := h } : State).rd (rQ q o) = s.rd (rQ q o) := rfl
  unfold account addEnergy
  dsimp only
  simp only [hhost, State.rd_addCtr_other _ _ _ _ (hne _)]

section
variable {c : HCmd}

theorem cplEntry_length (s : State) (c : HCmd) : (cplEntry s c).length = 32 := by simp [cplEntry]

/-- Where the next completion entry of a queue stands. -/
def cplPlace (s : State) (q : Nat) : Nat := (s.rd (rQ q 8)).toNat + 32 * (hqCqTail s q % hqCq s q)

theorem writeCpl_loud (h : eQuiet c.ent = false ∨ c.status ≠ stOK) : writeCpl s c =
    (account (coalNote ((hostWrite s (cplPlace s c.q) (cplEntry s c)).setF (rQ c.q 0x28) 0 32 (hqCqTail s c.q + 1)) c.q) c.f
      ((coalNote ((hostWrite s (cplPlace s c.q) (cplEntry s c)).setF (rQ c.q 0x28) 0 32 (hqCqTail s c.q + 1)) c.q).now - c.start)
      c.hbm c.link 0).modHost
        (fun h => { h with cmds := h.cmds.filter (fun x => x.id ≠ c.id), runs := h.runs.filter (fun r => r.cmd ≠ c.id) }) := by
  rw [writeCpl]
  dsimp only
  rw [if_neg (by rcases h with h | h <;> simp [h])]
  rfl

theorem writeCpl_mem (h : eQuiet c.ent = false ∨ c.status ≠ stOK) :
    (writeCpl s c).mem = memPutAll s.mem (hostA (cplPlace s c.q)) (cplEntry s c) := by
  rw [writeCpl_loud h, State.modHost_mem, account_mem, coalNote_mem, State.setF_mem]
  rfl

theorem writeCpl_tail (h : eQuiet c.ent = false ∨ c.status ≠ stOK) (hq : c.q < 4096) :
    hqCqTail (writeCpl s c) c.q = (hqCqTail s c.q + 1) % 2 ^ 32 := by
  rw [writeCpl_loud h, hqCqTail, State.modHost_f, State.f, account_rd_queue hq (by decide), coalNote_rd]
  exact State.f_setF_same _ _ _ _ _ (by decide)

theorem writeCpl_gone (s : State) (c x : HCmd) (hx : x ∈ (writeCpl s c).host.cmds) : x.id ≠ c.id := by
  have hf : ∃ l : List HCmd, (writeCpl s c).host.cmds = l.filter (fun x => x.id ≠ c.id) := ⟨_, rfl⟩
  obtain ⟨l, hl⟩ := hf
  rw [hl, List.mem_filter] at hx
  simpa using hx.2

/-- The command that a completion of a number is about. -/
def cplCmd (s : State) (id : Nat) : Option HCmd := s.host.cmds.find? (fun c => c.id = id && (c.stage = 1 || c.stage = 2))

/-- What the end of a command's work takes with it: the task's core, or a reset core (R339, R345). -/
def afterWork (s : State) (c d : HCmd) : State :=
  if cmdKind d.ent = .task then endTask s d.id
  else if c.stage = 1 ∧ cmdKind d.ent = .coreCtl 2 then resetCore s (slotOf s (eF d.ent 8 0 16)) else s

theorem exec_commandComplete_none {id : Nat} {fail : Bool} (h : cplCmd s id = none) :
    exec (.commandComplete id fail) s = .next (ended s s) := by
  show execCommandComplete id fail s = _
  rw [execCommandComplete, done_eq]
  rw [cplCmd] at h
  rw [h]

theorem exec_commandComplete_works {id : Nat} {fail : Bool} (h : cplCmd s id = some c) (hst : c.stage ≠ 2) (hover : cmdOver s c = none) :
    exec (.commandComplete id fail) s = .next (ended s s) := by
  show execCommandComplete id fail s = _
  rw [execCommandComplete, done_eq]
  rw [cplCmd] at h
  rw [h]
  dsimp only
  rw [if_neg hst, hover]

theorem exec_commandComplete_over {id : Nat} {fail : Bool} {d : HCmd} (h : cplCmd s id = some c)
    (hd : (if c.stage = 2 then some c else cmdOver s c) = some d) :
    exec (.commandComplete id fail) s = .next (ended s
      (if !(eQuiet d.ent && d.status = stOK) && cqFull (afterWork s c d) d.q then setCmd (afterWork s c d) { d with stage := 3 }
      else if !(eQuiet d.ent && d.status = stOK) && fail then
        setCmd (haltQueue (raiseDma (afterWork s c d) d.q 2 (cplPlace (afterWork s c d) d.q)) d.q 2) { d with stage := 3 }
      else writeCpl (afterWork s c d) d)) := by
  have hafter : (if cmdKind d.ent = .task then endTask s d.id
      else if (decide (c.stage = 1) && decide (cmdKind d.ent = .coreCtl 2)) = true then resetCore s (slotOf s (eF d.ent 8 0 16)) else s) =
      afterWork s c d := by
    simp only [afterWork, Bool.and_eq_true, decide_eq_true_eq]
  show execCommandComplete id fail s = _
  rw [execCommandComplete, done_eq]
  rw [cplCmd] at h
  rw [h]
  dsimp only
  rw [hd]
  dsimp only
  rw [hafter]
  rfl

theorem loud_guard (h : eQuiet c.ent = false ∨ c.status ≠ stOK) : (eQuiet c.ent && decide (c.status = stOK)) = false := by
  rcases h with h | h <;> simp [h]

end

theorem exec_coalTimeout (s : State) (q : Nat) : exec (.coalTimeout q) s = .next (ended s
    (if look 0 s.host.coal q = 0 ∨ s.f (rQ q 0x10) 51 8 = 0 then s
    else (s.modHost (fun h => { h with coal := put 0 h.coal q 0 })).sendMsix (hqFunc s q) (s.f (rQ q 0x10) 32 11))) := by
  show execCoalTimeout q s = _
  rw [execCoalTimeout, done_eq]
  simp only [Bool.or_eq_true, decide_eq_true_eq]

/-- Settles O50: doorbells, the entries they fetch, the end of a command with its entry, and the message of pending entries. -/
theorem hostQueuesAndCompletions : Obligations.HostQueuesAndCompletions := by
  refine ⟨fun s f i v fail h => exec_doorbell_nowhere h, fun s f i q v fail h => ⟨exec_sqDoorbell h, exec_cqDoorbell h⟩,
    fun s q v hq hen hgo hv hsq hfr hroom => ?_, fun s n q hen hgo hfr hent hroom => fetch_fail n ⟨hen, hgo, hfr, hent, hroom⟩,
    fun s q v hq hen hgo hpast => ?_, fun s q v hq hheld hidle => ?_,
    fun s id fail => ⟨exec_commandComplete_none, fun c h hst hover => exec_commandComplete_works h hst hover, fun c d h hd => ?_⟩,
    fun s c hq _ h => ⟨?_, writeCpl_tail h hq, writeCpl_gone s c⟩, fun s q hc hus => ?_, fun s q hno => ?_⟩
  · refine ⟨_, exec_sqDoorbell_one hq hen hgo hv hsq hfr hroom, ?_, ?_, ?_, ?_, ?_, ?_⟩
    · exact (congrArg (fld · 0 32) (ended_rd s _ _)).trans (fetchedOne_tail.trans sqRung_tail)
    · exact (congrArg (fld · 0 32) (ended_rd s _ _)).trans (fetchedOne_head.trans (by rw [sqRung_head, hv]))
    · rw [ended_host, fetchedOne_cmds, headCmd_sqRung, sqRung_host]
      rfl
    · intro r hr
      obtain ⟨h20, h18⟩ : r ≠ rQ q 0x20 ∧ r ≠ rQ q 0x18 := by simpa using hr
      rw [ended_rd, fetchedOne_sameRegs r (by simpa using h18), sqRung_sameRegs r (by simpa using h20)]
    · exact fun a => by simp [fetchedOne, sqRung]
    · exact fun k _ => by simp [fetchedOne, sqRung]
  · refine ⟨_, exec_sqDoorbell_past hq hen hgo hpast, ?_, ?_, ?_, ?_, ?_, ?_, ?_⟩
    · simp [hqHalted, haltQueue, State.fb]
    · simp [haltQueue]
    · simp [haltQueue, sqRung]
    · have hr : (haltQueue (sqRung s q v) q 1).raises = s.raises := by simp [haltQueue, sqRung]
      have he : (haltQueue (sqRung s q v) q 1).evNo = s.evNo := by simp [haltQueue, sqRung]
      rw [ended_raises, State.raise, hr, he]
      rfl
    · intro r hr
      obtain ⟨h20, h18⟩ : r ≠ rQ q 0x20 ∧ r ≠ rQ q 0x18 := by simpa using hr
      simp [haltQueue, sqRung, h20, h18]
    · exact fun a => by simp [haltQueue, sqRung]
    · exact fun k _ => by simp [haltQueue, sqRung]
  · refine ⟨_, exec_cqDoorbell_idle hq hheld hidle, ?_, fun r hr => ?_, fun a => by simp, fun k _ => by simp, by simp⟩
    · have hv := v.isLt
      simp only [hqCqHead, ended_f, State.f_setF_same _ _ _ _ _ (show 32 + 32 ≤ 64 by decide)]
      exact Nat.mod_eq_of_lt hv
    · have hne : r ≠ rQ q 0x20 := by simpa using hr
      simp [hne]
  · have hd' : (if c.stage = 2 then some c else cmdOver s c) = some d := by
      rcases hd with ⟨hst, rfl⟩ | ⟨hst, hover⟩
      · rw [if_pos hst]
      · rw [if_neg hst, hover]
    intro u
    have hu : afterWork s c d = u := rfl
    rw [exec_commandComplete_over h hd', hu]
    refine ⟨fun hquiet hok => ?_, fun hloud hfull => ?_, fun hloud hroom hf => ?_, fun hloud hroom hf => ?_⟩
    · rw [hquiet, decide_eq_true hok]
      rfl
    · rw [loud_guard hloud, hfull]
      rfl
    · rw [loud_guard hloud, hroom, hf]
      rfl
    · rw [loud_guard hloud, hroom, hf]
      rfl
  · exact bytes_of_memPutAll (writeCpl_mem h) (cplEntry_length s c)
  · rw [exec_coalTimeout, if_neg (not_or.mpr ⟨hc, hus⟩)]
  · rw [exec_coalTimeout, if_pos hno]

end Sys2Proof.Machine
end

section
/-! RESTORE, LOCK, UNLOCK and VERIFY_RELEASE (R275-R280). -/
namespace Sys2Proof.Machine

variable {s t : State} {q src copy slot : Nat} {lock : Bool} {c : HCmd}

/-! ### RESTORE (R277) -/

theorem exec_restore_starts (h : Starts s q c) (hk : cmdKind c.ent = .shadow 1) : exec (.restore q) s =
    .next (ended s (restoreBegin (begun s q c) c.id (eF c.ent 16 0 12) (eF c.ent 16 12 2) (eF c.ent 16 14 2))) := by
  show execRestore q s = _
  rw [execRestore, startCmd_starts h (decide_eq_true hk), done_eq]
  rfl

/-- A restore of which nothing has been read yet asks for the slot's first bytes. -/
theorem restoreNext_first {j : Restore} (hj : j.head = []) : restoreNext s j =
    if (sendCtl (setRestore s j) j.holder 2 [j.copy, j.slot, 0, 4096] (.restore j.cmd)).2
    then (sendCtl (setRestore s j) j.holder 2 [j.copy, j.slot, 0, 4096] (.restore j.cmd)).1
    else restoreOver (sendCtl (setRestore s j) j.holder 2 [j.copy, j.slot, 0, 4096] (.restore j.cmd)).1 j stShadowUnreachable := by
  have hlen : j.head.length = 0 := by rw [hj]; rfl
  have hlt : j.head.length < 0x26000 := by rw [hlen]; decide
  have hoff : (if j.head.length < 0x26000 then j.head.length else snF j.head (0x100 + 32 * j.region) 8 + j.taken) = 0 := by
    rw [if_pos hlt, hlen]
  rw [restoreNext, if_pos hlt, restoreRead, hoff]

/-! ### LOCK and UNLOCK (R275) -/

theorem exec_lock_starts (h : Starts s q c) (hk : cmdKind c.ent = .shadow 2) : exec (.lock q) s =
    .next (ended s (overCmd (lockSlot (begun s q c) (eF c.ent 16 0 12) (eF c.ent 16 12 2) (eF c.ent 16 14 2) true).1 (running s c)
      (lockSlot (begun s q c) (eF c.ent 16 0 12) (eF c.ent 16 12 2) (eF c.ent 16 14 2) true).2)) := by
  show execLock q s = _
  rw [execLock, startCmd_starts h (decide_eq_true hk), done_eq]
  rfl

theorem exec_unlock_starts (h : Starts s q c) (hk : cmdKind c.ent = .shadow 3) : exec (.unlock q) s =
    .next (ended s (overCmd (lockSlot (begun s q c) (eF c.ent 16 0 12) (eF c.ent 16 12 2) (eF c.ent 16 14 2) false).1 (running s c)
      (lockSlot (begun s q c) (eF c.ent 16 0 12) (eF c.ent 16 12 2) (eF c.ent 16 14 2) false).2)) := by
  show execUnlock q s = _
  rw [execUnlock, startCmd_starts h (decide_eq_true hk), done_eq]
  rfl

/-- The header's first line with bit 2 of its flags set or cleared. -/
def lockedLine (s : State) (a : Nat) (lock : Bool) : List Byte :=
  (s.bytes a 64).take 18 ++ leBytes 1 (s.num (a + 18) 1 % 4 + 4 * b2n lock) ++ (s.bytes a 64).drop 19

theorem lockedLine_eq_set (s : State) (a : Nat) (lock : Bool) :
    lockedLine s a lock = (s.bytes a 64).set 18 (BitVec.ofNat 8 (s.num (a + 18) 1 % 4 + 4 * b2n lock)) := by
  rw [List.set_eq_take_append_cons_drop, if_pos (by rw [State.bytes_length]; decide)]
  exact List.append_assoc ..

theorem lockedLine_length (s : State) (a : Nat) (lock : Bool) : (lockedLine s a lock).length = 64 := by
  rw [lockedLine_eq_set, List.length_set, State.bytes_length]

/-- Only the byte of the flags differs once the line is written. -/
theorem memBut_lockedLine {a : Nat} (h : t.mem = memPutAll s.mem a (lockedLine s a lock)) : MemBut (a + 18) 1 s t := fun x hx => by
  by_cases hin : a ≤ x ∧ x < a + 64
  · obtain ⟨i, rfl⟩ := Nat.exists_eq_add_of_le hin.1
    have hi : i < (lockedLine s a lock).length := by rw [lockedLine_length]; omega
    have hi' : i < (s.bytes a 64).length := by rw [State.bytes_length]; omega
    rw [State.byte, h, look_memPutAll_in _ _ _ _ hi, ← State.bytes_get s a 64 i hi']
    simp only [lockedLine_eq_set]
    exact List.getElem_set_ne (by omega) _
  · exact memBut_of_memPutAll h (lockedLine_length s a lock) x (by omega)

theorem num_lockedLine {a : Nat} (h : t.mem = memPutAll s.mem a (lockedLine s a lock)) :
    t.num (a + 18) 1 = s.num (a + 18) 1 % 4 + 4 * b2n lock := by
  have hi : 18 < (lockedLine s a lock).length := by rw [lockedLine_length]; decide
  have hb : b2n lock ≤ 1 := by cases lock <;> decide
  have hbyte : t.byte (a + 18) = BitVec.ofNat 8 (s.num (a + 18) 1 % 4 + 4 * b2n lock) := by
    rw [State.byte, h, look_memPutAll_in _ _ _ _ hi]
    simp only [lockedLine_eq_set]
    exact List.getElem_set_self _
  have hnum (u : State) (x : Nat) : u.num x 1 = (u.byte x).toNat := by simp [State.num, State.bytes, fromLen, leNat]
  rw [hnum, hbyte, BitVec.toNat_ofNat]
  omega

/-- Whether a slot is one that LOCK or UNLOCK may act on. -/
def Lockable (s : State) (src copy slot : Nat) (lock : Bool) : Prop :=
  1 ≤ copy ∧ copy ≤ 2 ∧ slot < slotCount s ∧ (∃ h ∈ s.shadow.slots, h.v = slotV copy slot ∧ h.src = src ∧ h.copy = copy) ∧
    slotSt s (slotV copy slot) = if lock then 2 else 3

theorem lockable_guard : (decide (copy = 0) || decide (2 < copy) || decide (slotCount s ≤ slot) ||
    (!s.shadow.slots.any (fun h => decide (h.v = slotV copy slot) && decide (h.src = src) && decide (h.copy = copy))) ||
    decide (slotSt s (slotV copy slot) ≠ if lock then 2 else 3)) = true ↔ ¬Lockable s src copy slot lock := by
  unfold Lockable
  rw [← not_iff_not, not_not]
  simp only [Bool.or_eq_true, Bool.not_eq_true', decide_eq_true_eq, not_or, Bool.not_eq_false, List.any_eq_true, Bool.and_eq_true, ne_eq,
    not_not, Nat.not_lt, Nat.not_le, Nat.one_le_iff_ne_zero, and_assoc]

theorem lockSlot_not (h : ¬Lockable s src copy slot lock) : lockSlot s src copy slot lock = (s, stShadowNoSlot) := by
  rw [lockSlot]
  exact if_pos (lockable_guard.mpr h)

theorem lockSlot_lockable (h : Lockable s src copy slot lock) : lockSlot s src copy slot lock =
    (setSlotSt (hbmWrite s hintStream (slotAddr s copy slot) (lockedLine s (slotAddr s copy slot) lock)) (slotV copy slot)
      (if lock then 3 else 2), 0) := by
  rw [lockSlot]
  exact if_neg (fun hg => lockable_guard.mp hg h)

theorem slotV_le (hcopy : copy ≤ 2) (hslot : slot < slotCount s) : slotV copy slot ≤ 5 := by
  have hcount : slotCount s ≤ 3 := by
    rw [slotCount]
    split <;> decide
  unfold slotV
  omega

theorem slotSt_setSlotSt {v x : Nat} (hv : v ≤ 5) (hx : x < 4) (s : State) : slotSt (setSlotSt s v x) v = x := by
  rw [slotSt, setSlotSt, State.f_setF_same _ _ _ _ _ (by omega)]
  exact Nat.mod_eq_of_lt hx

/-- A slot in one whole line that is neither poisoned nor retired is locked or unlocked by its line. -/
theorem lockSlot_mem {a : Nat} (hmod : a % 64 = 0) (htop : a + 64 ≤ hbmTop) (hp : poisoned s a 64 = false) (bs : List Byte)
    (hlen : bs.length = 64) : (hbmWrite s hintStream a bs).mem = memPutAll s.mem a bs := by
  have hline : InLine a bs.length := ⟨by rw [hlen]; exact htop, by omega, by omega⟩
  have hret : isRetired s (64 * (a / 64)) = false := by
    rw [← hlen, poisoned_inLine hline, Bool.or_eq_false_iff] at hp
    exact hp.2
  rw [hbmWrite_inLine hline hret, lineWritten_mem]

theorem exec_verifyRelease_starts (h : Starts s q c) (hk : cmdKind c.ent = .shadow 4) : exec (.verifyRelease q) s = .next (ended s
    (if !s.shadow.heldEv then overCmd (begun s q c) (running s c) stBadField
    else overCmd (signalFinal ((begun s q c).modShadow (fun h => { h with heldEv := false }))) (running s c) stOK)) := by
  show execVerifyRelease q s = _
  rw [execVerifyRelease, startCmd_starts h (decide_eq_true hk), done_eq]
  rfl

/-- Settles O49: how a restore begins, what LOCK and UNLOCK do to a slot and its header, and the release of the held event. -/
theorem shadowCommands : Obligations.ShadowCommands := by
  refine ⟨fun s q c h hk => exec_restore_starts h hk, fun s cmd holder copy slot => ?_, fun s q c h hk => exec_lock_starts h hk,
    fun s q c h hk => exec_unlock_starts h hk, fun s q c h hk hheld => ?_, fun s q c h hk hheld => ?_,
    fun s src copy slot lock hc1 hc2 hslot hst hheld hp hmod htop => ?_, fun s src copy slot lock hno => ?_⟩
  · intro j t
    refine ⟨fun hbusy => ?_, fun hcinch hq u ok hsend => ?_⟩
    · exact if_pos ((Bool.or_eq_true _ _).mpr hbusy)
    · have hbegin : restoreBegin s cmd holder copy slot = restoreNext t j := if_neg (by rw [hcinch, hq]; decide)
      rw [hbegin, restoreNext_first rfl, hsend]
  · rw [exec_verifyRelease_starts h hk, hheld]
    rfl
  · rw [exec_verifyRelease_starts h hk, hheld]
    rfl
  · have hmem := lockSlot_mem hmod htop hp (lockedLine s (slotAddr s copy slot) lock) (lockedLine_length ..)
    refine ⟨_, lockSlot_lockable ⟨hc1, hc2, hslot, hheld, hst⟩, slotSt_setSlotSt (slotV_le hc2 hslot) (by cases lock <;> decide) _, ?_, ?_⟩
    · exact memBut_lockedLine hmem
    · exact num_lockedLine hmem
  · refine lockSlot_not ?_
    rintro ⟨hc1, hc2, hslot, ⟨h, hmem, hv, hsrc, hcopy⟩, hst⟩
    rcases hno with hno | hno | hno | hno | hno
    · omega
    · omega
    · omega
    · exact hno hst
    · exact hno h hmem hv hsrc hcopy

end Sys2Proof.Machine
end

section
/-! Operations start and complete (R84, R101, R113-R116, R135, R136, R189). -/
namespace Sys2Proof.Machine

variable {s t u : State} {sl tag cycles st : Nat} {o o1 o2 : Op} {ecc : List EccEvent} {fam : Family}

/-! ### OP_COMPLETE (R115) -/

theorem exec_opComplete_none (h : opOf s sl tag = none) : exec (.opComplete sl tag cycles ecc) s = .next (ended s s) := by
  show execOpComplete sl tag cycles ecc s = _
  rw [execOpComplete, h, done_eq]

theorem exec_opComplete_finishing (h : opOf s sl tag = some o) (hst : o.stage = .finishing) : exec (.opComplete sl tag cycles ecc) s =
    .next (ended s (settle (completeReady (acqCharge s o cycles) sl o ecc) sl)) := by
  show execOpComplete sl tag cycles ecc s = _
  rw [execOpComplete, h, done_eq]
  dsimp only
  rw [hst]

theorem exec_opComplete_running (h : opOf s sl tag = some o) (hst : o.stage = .running) : exec (.opComplete sl tag cycles ecc) s =
    .next (ended s (settle (completeRunning s sl o) sl)) := by
  show execOpComplete sl tag cycles ecc s = _
  rw [execOpComplete, h, done_eq]
  dsimp only
  rw [hst]

theorem exec_opComplete_waits (h : opOf s sl tag = some o) (hst : o.stage = .issued ∨ o.stage = .recordHeld) :
    exec (.opComplete sl tag cycles ecc) s = .next (ended s s) := by
  show execOpComplete sl tag cycles ecc s = _
  rw [execOpComplete, h, done_eq]
  dsimp only
  rcases hst with hst | hst <;> rw [hst]

/-- Only an acquire is charged for its wait as it completes (R230). -/
theorem acqCharge_other (h : o.opc ≠ 0x38) : acqCharge s o cycles = s := by
  rw [acqCharge, decide_eq_false h]
  rfl

theorem completeReady_matrix (hlo : 1 ≤ o.opc) (hhi : o.opc ≤ 4) (hdone : matDone o = true) : completeReady s sl o ecc = complete s sl o o.res := by
  rw [completeReady, if_pos (by simp [hlo, hhi]), if_pos hdone]

theorem accEcc_nil (s : State) (sl b n : Nat) : accEcc s sl b n [] = (s, none) := rfl

theorem attnAccEcc_nil (s : State) (sl : Nat) (o : Op) : attnAccEcc s sl o [] = (s, o) := by
  rw [attnAccEcc]
  split
  · rfl
  · dsimp only
    rw [accEcc_nil]

theorem attnAccEcc_other (h0 : o.opc ≠ 0x10) (h1 : o.opc ≠ 0x11) (evs : List EccEvent) : attnAccEcc s sl o evs = (s, o) := by
  rw [attnAccEcc, if_pos (by simp [h0, h1])]

/-- Another operation whose last reads met no error ends as its opcode says. -/
theorem completeReady_clean (h : 5 ≤ o.opc) : completeReady s sl o [] = finishOp s sl o := by
  have hmat : ¬(decide (1 ≤ o.opc) && decide (o.opc ≤ 4)) = true := by
    simp only [Bool.and_eq_true, decide_eq_true_eq]
    omega
  rw [completeReady, if_neg hmat]
  simp only [List.filter_nil, attnAccEcc_nil]
  rfl

/-- One whose last reads met an uncorrectable word is cut. -/
theorem completeReady_cut {r : OpRes} (h5 : 5 ≤ o.opc) (h10 : o.opc ≠ 0x10) (h11 : o.opc ≠ 0x11) (hok : o.res.status = 0)
    (hecc : eccEvents s sl o (ecc.filter (fun e => e.space ≠ 3)) = (t, true)) (hcut : cutUnits t o.res stMemUncorr = (u, r)) :
    completeReady s sl o ecc = finishOp u sl { o with res := r } := by
  have hmat : ¬(decide (1 ≤ o.opc) && decide (o.opc ≤ 4)) = true := by
    simp only [Bool.and_eq_true, decide_eq_true_eq]
    omega
  rw [completeReady, if_neg hmat, attnAccEcc_other h10 h11]
  dsimp only
  rw [hecc]
  dsimp only
  rw [if_pos (by simp [hok]), hcut]

theorem finishOp_plain (h12 : o.opc ≠ 0x12) (h13 : o.opc ≠ 0x13) (h38 : o.opc ≠ 0x38) (h3F : o.opc ≠ 0x3F) :
    finishOp s sl o = complete s sl o o.res := by
  rw [finishOp, if_neg h38, if_neg (by simp [h12, h13]), if_neg h3F]

theorem finishOp_kv (h : o.opc = 0x12 ∨ o.opc = 0x13) : finishOp s sl o = complete (unlockKv s o) sl o o.res := by
  rw [finishOp, if_neg (by omega), if_pos (by simpa using h)]

theorem finishOp_acquire (h : o.opc = 0x38) : finishOp s sl o = acqComplete s sl o := by
  rw [finishOp, if_pos h]

theorem finishOp_stashGet (h : o.opc = 0x3F) : finishOp s sl o = stashGetDone (complete s sl o o.res) sl o := by
  rw [finishOp, if_neg (by omega), if_neg (by simp [h]), if_pos h]

theorem completeRunning_fence (h : o.opc = 0x3C) : completeRunning s sl o =
    if fenceDone (s.core sl) o then finishWith s sl o stOK else s := by
  rw [completeRunning, if_pos h]

theorem completeRunning_wait (h : o.opc = 0x3D) : completeRunning s sl o =
    if waitReached s sl o then finish s sl o ⟨stOK, eventVal s sl (weEv o.tod), 0, Counters.zeros⟩ else s := by
  rw [completeRunning, if_neg (by omega), if_pos h]

theorem completeRunning_phase (h : o.opc = 0x2C) : completeRunning s sl o =
    if phaseReady (s.core sl) o then phaseFlip s sl o else s := by
  rw [completeRunning, if_neg (by omega), if_neg (by omega), if_pos h]

theorem completeRunning_push (h : o.opc = 0x3A) :
    (∀ t st, tryFunc s sl o = .fin t st → completeRunning s sl o = finishWith t sl o st) ∧
    (tryFunc s sl o = .wait → completeRunning s sl o = s) := by
  rw [completeRunning, if_neg (by omega), if_neg (by omega), if_neg (by omega), if_pos h]
  exact ⟨fun t st htry => by rw [htry], fun htry => by rw [htry]⟩

theorem exec_waitEventTimeout_none (h : opOf s sl tag = none) : exec (.waitEventTimeout sl tag) s = .next (ended s s) := by
  show execWaitEventTimeout sl tag s = _
  rw [execWaitEventTimeout, h, done_eq]

theorem exec_waitEventTimeout_some (h : opOf s sl tag = some o) : exec (.waitEventTimeout sl tag) s = .next (ended s
    (if o.stage = .running ∧ o.opc = 0x3D ∧ weTimeout o.tod ≠ 0 ∧ waitReached s sl o = false then
      finish (s.raise .waitTimeout sl (packBits [(tag, 0, 14), (weEv o.tod, 14, 4)])) sl o
        ⟨stWaitTimeout, eventVal s sl (weEv o.tod), 0, Counters.zeros⟩
    else s)) := by
  show execWaitEventTimeout sl tag s = _
  rw [execWaitEventTimeout, h, done_eq]
  simp only [Bool.and_eq_true, decide_eq_true_eq, Bool.not_eq_true', and_assoc]

/-- Settles O41: an operation ends as its stage and opcode say. -/
theorem operationsComplete : Obligations.OperationsComplete := by
  refine ⟨fun s sl tag cycles o h hst h5 => ?_, fun s t u sl tag cycles o r ecc h hst h5 h10 h11 h12 h13 h38 h3F hok hecc hcut => ?_,
    fun s sl tag cycles o ecc h hlo hhi hdone => ?_, fun s sl tag cycles o ecc h hst hopc => ?_, fun s sl tag cycles o ecc h hst hopc => ?_,
    fun s sl tag cycles o ecc h hst hopc => ?_, fun s sl tag cycles o ecc h hst hopc => ?_, fun s sl tag cycles ecc hno => ?_,
    fun s sl tag hno => ?_⟩
  · rw [exec_opComplete_finishing h hst, completeReady_clean h5]
    refine ⟨fun h12 h13 h38 h3F => ?_, fun hkv => ?_, fun hacq => ?_, fun hget => ?_⟩
    · rw [acqCharge_other h38, finishOp_plain h12 h13 h38 h3F]
    · rw [acqCharge_other (by omega), finishOp_kv hkv]
    · rw [finishOp_acquire hacq]
    · rw [acqCharge_other (by omega), finishOp_stashGet hget]
  · rw [exec_opComplete_finishing h hst, acqCharge_other h38, completeReady_cut h5 h10 h11 hok hecc hcut]
    have hplain : finishOp u sl { o with res := r } = complete u sl { o with res := r } r := finishOp_plain h12 h13 h38 h3F
    rw [hplain]
  · have hst : o.stage = .finishing := by
      rw [matDone, Bool.and_eq_true, decide_eq_true_eq] at hdone
      exact hdone.1
    rw [exec_opComplete_finishing h hst, acqCharge_other (by omega), completeReady_matrix hlo hhi hdone]
  · rw [exec_opComplete_running h hst, completeRunning_fence hopc]
    exact ⟨fun hd => by rw [if_pos hd], fun hd => by rw [if_neg (by rw [hd]; decide)]⟩
  · rw [exec_opComplete_running h hst, completeRunning_wait hopc, exec_waitEventTimeout_some h]
    refine ⟨fun hd => ⟨by rw [if_pos hd], ?_⟩, fun hd => ?_, fun hd ht => ?_, fun ht => ?_⟩
    · rw [if_neg (fun hc => by rw [hd] at hc; exact absurd hc.2.2.2 (by decide))]
    · rw [if_neg (by rw [hd]; decide)]
    · rw [if_pos ⟨hst, hopc, ht, hd⟩]
    · rw [if_neg (fun hc => hc.2.2.1 ht)]
  · rw [exec_opComplete_running h hst, completeRunning_phase hopc]
    exact ⟨fun hd => by rw [if_pos hd], fun hd => by rw [if_neg (by rw [hd]; decide)]⟩
  · rw [exec_opComplete_running h hst]
    exact ⟨fun t st htry => by rw [(completeRunning_push hopc).1 t st htry], fun htry => by rw [(completeRunning_push hopc).2 htry]⟩
  · cases h : opOf s sl tag with
    | none => exact exec_opComplete_none h
    | some o => exact exec_opComplete_waits h (hno o h)
  · cases h : opOf s sl tag with
    | none => exact exec_waitEventTimeout_none h
    | some o =>
      rw [exec_waitEventTimeout_some h, if_neg]
      rintro ⟨hst, hopc, -⟩
      exact (hno o h).elim (fun hn => hn hst) (fun hn => hn hopc)

/-! ### OP_START (R101) -/

theorem opOf_congr (h : t.cores = s.cores) (sl tag : Nat) : opOf t sl tag = opOf s sl tag := by
  rw [opOf, opOf, State.core, State.core, h]

/-- An operation whose stage is not that of waiting does not wait. -/
theorem stillIssued_eq_false (h : ∀ x ∈ (s.core sl).ops, x.tag = tag → x.stage ≠ .issued) : stillIssued s sl tag = false := by
  rw [stillIssued, Option.any_eq_false]
  intro o ho
  have hmem := List.mem_of_find?_eq_some ho
  have htag : o.tag = tag := by simpa using List.find?_some ho
  exact decide_eq_false (h o hmem htag)

theorem stillIssued_of_issued (h : opOf s sl tag = some o) (hst : o.stage = .issued) : stillIssued s sl tag = true := by
  rw [stillIssued, h, Option.any_some, decide_eq_true hst]

theorem stillIssued_started (hst : o.stage ≠ .issued) (htag : o.tag = tag) (s : State) (typ x y z : Nat) :
    stillIssued (glintOp (updOp s sl o) sl o typ x y z) sl tag = false := by
  refine stillIssued_eq_false fun p hp hpt => ?_
  rw [((holdsOp_updOp s sl o).congr (glintOp_cores ..)).only p hp (hpt.trans htag.symm)]
  exact hst

/-- A completed operation is gone, or waits with its record (R116). -/
theorem finish_ops (s : State) (sl : Nat) (o : Op) (r : Rec) (x : Op) (hx : x ∈ ((finish s sl o r).core sl).ops) (htag : x.tag = o.tag) :
    x.stage = .recordHeld := by
  unfold finish at hx
  extract_lets r' t o' o'' at hx
  split at hx
  · rw [State.core_modCore, if_pos rfl] at hx
    rcases List.mem_append.mp hx with hold | hnew
    · exact absurd htag (by simpa [o'] using (List.mem_filter.mp hold).2)
    · rw [List.mem_singleton.mp hnew]
  · rw [State.core, writeRecord_cores, ← State.core, State.core_modCore, if_pos rfl] at hx
    exact absurd htag (by simpa [o'] using (List.mem_filter.mp hx).2)

theorem stillIssued_finish (s : State) (sl : Nat) (o : Op) (r : Rec) : stillIssued (finish s sl o r) sl o.tag = false :=
  stillIssued_eq_false fun x hx htag => by rw [finish_ops s sl o r x hx htag]; decide

theorem eccEvents_nil (s : State) (sl : Nat) (o : Op) : eccEvents s sl o [] = (s, false) := rfl

theorem exec_opStart_not (hno : ∀ o, opOf s sl tag = some o → o.stage ≠ .issued) : exec (.opStart sl tag cycles ecc) s = .next (ended s s) := by
  show execOpStart sl tag cycles ecc s = _
  rw [execOpStart, done_eq]
  cases h : opOf s sl tag with
  | none => rfl
  | some o =>
    dsimp only
    cases familyOf o.opc with
    | none => rfl
    | some fam => exact congrArg (fun t => Host.Outcome.next (ended s t)) (if_pos (hno o h))

/-- The command for an issued operation. -/
theorem exec_opStart_issued (h : opOf s sl tag = some o) (hfam : familyOf o.opc = some fam) (hst : o.stage = .issued) :
    exec (.opStart sl tag cycles ecc) s = .next (ended s
      (if stillIssued (tryStart s sl o fam) sl tag then s
      else settle (chargeWait (if (eccEvents (tryStart s sl o fam) sl o ecc).2 then cutStarted (eccEvents (tryStart s sl o fam) sl o ecc).1 sl tag
        else (eccEvents (tryStart s sl o fam) sl o ecc).1) sl o cycles) sl)) := by
  show execOpStart sl tag cycles ecc s = _
  rw [execOpStart, h, done_eq]
  dsimp only
  rw [hfam]
  dsimp only
  rw [if_neg (not_not.mpr hst)]

theorem tryStart_goes {t1 : State} (hgo : startable (s.core sl) o = true) (hports : assignPorts s sl o = .go u o2)
    (hstart : fam.start u sl { o2 with startTs := u.now } = (t1, o1, st)) :
    tryStart s sl o fam = if st ≠ 0 then finishWith t1 sl { o2 with startTs := u.now } st else glintOp (updOp t1 sl o1) sl o1 1 0 0 0 := by
  obtain ⟨form, use, start⟩ := fam
  dsimp only at hstart
  rw [tryStart, if_neg (by rw [hgo]; decide), hports]
  dsimp only
  rw [hstart]

theorem tryStart_waits (h : startable (s.core sl) o = false ∨ assignPorts s sl o = .wait) : tryStart s sl o fam = s := by
  rw [tryStart]
  cases hgo : startable (s.core sl) o
  · rfl
  · rw [hgo] at h
    rw [h.resolve_left (by decide)]
    rfl

theorem tryStart_over (hgo : startable (s.core sl) o = true) (hports : assignPorts s sl o = .over u) : tryStart s sl o fam = u := by
  rw [tryStart, if_neg (by rw [hgo]; decide), hports]

/-! ### KV_LOCK_GRANT (R189) -/

/-- The state and the operation with which a waiter's request goes on once it may take LOCK. -/
def lockTaken (s : State) (sl tag cycles : Nat) (o : Op) : State :=
  ({ s with kvWait := s.kvWait.filter (fun w => w ≠ (kvaOf o.tod, sl, tag)) } : State).addCtr (slotBase sl + 0x788) cycles

theorem exec_kvLockGrant_none (h : opOf s sl tag = none) : exec (.kvLockGrant sl tag cycles) s = .next (ended s s) := by
  show execKvLockGrant sl tag cycles s = _
  rw [execKvLockGrant, h, done_eq]

theorem first_iff {w : Nat × Nat × Nat} {l : Option (Nat × Nat × Nat)} : l.any (fun x => decide (x = w)) = true ↔ l = some w := by
  cases l <;> simp

theorem exec_kvLockGrant_not (h : opOf s sl tag = some o) (hno : nth 0 o.aux 3 ≠ 2 ∨
    s.kvWait.find? (fun w => w.1 = kvaOf o.tod) ≠ some (kvaOf o.tod, sl, tag) ∨ kvF s (kvaOf o.tod) 16 4 ≠ 0) :
    exec (.kvLockGrant sl tag cycles) s = .next (ended s s) := by
  show execKvLockGrant sl tag cycles s = _
  rw [execKvLockGrant, h, done_eq]
  dsimp only
  rw [if_pos]
  rw [Bool.or_eq_true, Bool.or_eq_true, decide_eq_true_eq, decide_eq_true_eq, Bool.not_eq_true', ← Bool.not_eq_true, first_iff, or_assoc]
  exact hno

theorem exec_kvLockGrant_first {s3 : State} (h : opOf s sl tag = some o) (haux : nth 0 o.aux 3 = 2)
    (hfirst : s.kvWait.find? (fun w => w.1 = kvaOf o.tod) = some (kvaOf o.tod, sl, tag)) (hfree : kvF s (kvaOf o.tod) 16 4 = 0)
    (hgo : kvGo (lockTaken s sl tag cycles o) sl ({ o with stage := OpStage.issued }.lock 0) = (s3, o2, st)) :
    exec (.kvLockGrant sl tag cycles) s = .next (ended s
      (if st ≠ 0 then finishWith s3 sl ({ o with stage := OpStage.issued }.lock 0) st else updOp s3 sl o2)) := by
  show execKvLockGrant sl tag cycles s = _
  rw [execKvLockGrant, h, done_eq]
  dsimp only
  rw [if_neg]
  · rw [lockTaken] at hgo
    rw [hgo]
  · rw [hfirst, haux, hfree]
    simp

/-- Settles O39: an issued operation starts where nothing holds it back; the first waiter takes a free LOCK. -/
theorem operationsStart : Obligations.OperationsStart := by
  refine ⟨fun s u t1 sl tag cycles o o2 o1 fam h hfam hst hgo hports hstart hst1 htag => ?_,
    fun s u t1 sl tag cycles st o o2 o1 fam h hfam hst hgo hports htag hstart hst0 => ?_,
    fun s u t1 t2 sl tag cycles o o2 o1 ecc fam h hfam hst hgo hports hstart hst1 htag hecc => ?_,
    fun s sl tag cycles o ecc h hst hheld => ?_, fun s u sl tag cycles o fam h hfam hst hgo hports hover => ?_,
    fun s sl tag cycles ecc hno => exec_opStart_not hno,
    fun s s3 sl tag cycles o o2 h haux hfirst hfree hgo => exec_kvLockGrant_first h haux hfirst hfree hgo,
    fun s s3 sl tag cycles st o o2 h haux hfirst hfree hst hgo => ?_, fun s sl tag cycles hno => ?_⟩
  · have htry := tryStart_goes hgo hports hstart
    rw [if_neg (not_not.mpr rfl)] at htry
    rw [exec_opStart_issued h hfam hst, htry, stillIssued_started hst1 htag, eccEvents_nil]
    rfl
  · have htry := tryStart_goes hgo hports hstart
    rw [if_pos hst0] at htry
    have hgone : stillIssued (finishWith t1 sl { o2 with startTs := u.now } st) sl tag = false := by
      rw [← htag]
      exact stillIssued_finish t1 sl { o2 with startTs := u.now } _
    rw [exec_opStart_issued h hfam hst, htry, hgone, eccEvents_nil]
    rfl
  · have htry := tryStart_goes hgo hports hstart
    rw [if_neg (not_not.mpr rfl)] at htry
    rw [exec_opStart_issued h hfam hst, htry, stillIssued_started hst1 htag, hecc]
    rfl
  · cases hfam : familyOf o.opc with
    | none =>
      show execOpStart sl tag cycles ecc s = _
      rw [execOpStart, h, done_eq]
      dsimp only
      rw [hfam]
    | some fam => rw [exec_opStart_issued h hfam hst, tryStart_waits hheld, if_pos (stillIssued_of_issued h hst)]
  · rw [exec_opStart_issued h hfam hst, tryStart_over hgo hports, hover, eccEvents_nil]
    rfl
  · rw [exec_kvLockGrant_first h haux hfirst hfree hgo, if_pos hst]
  · cases h : opOf s sl tag with
    | none => exact exec_kvLockGrant_none h
    | some o => exact exec_kvLockGrant_not h (hno o h)

end Sys2Proof.Machine
end

section
/-! Tiles of matrix operations and drains, and the ends of vector kernels (R61-R95, R139). -/
namespace Sys2Proof.Machine

variable {s t : State} {sl tag steps : Nat} {o : Op} {ecc : List EccEvent} {els : List (Nat × AccEl)} {ls wr : Bool}

theorem tag_of_opOf (h : opOf s sl tag = some o) : o.tag = tag := by simpa using List.find?_some h

/-- Two updates of a core are one. -/
theorem State.modCore_modCore (s : State) (sl : Nat) (f g : Core → Core) : (s.modCore sl f).modCore sl g = s.modCore sl (fun c => g (f c)) := by
  have hcore : (s.modCore sl f).core sl = f (s.core sl) := by rw [State.core_modCore, if_pos rfl]
  rw [State.modCore, hcore]
  exact congrArg (fun l => ({ s with cores := l } : State)) (putRaw_putRaw s.cores sl (f (s.core sl)) (g (f (s.core sl))))

theorem State.modCore_ite (s : State) (sl : Nat) (p : Bool) (f g : Core → Core) :
    (if p then (s.modCore sl f).modCore sl g else s.modCore sl f) = s.modCore sl (fun c => if p then g (f c) else f c) := by
  cases p
  · rfl
  · exact State.modCore_modCore ..

/-! ### One tile of a matrix operation (R66, R73-R78, R93-R95) -/

/-- An operation that an unusable operand word has ended (R114). -/
def stoppedMem (o : Op) : Op :=
  { o with stage := OpStage.finishing, res := { o.res with status := stMemUncorr, stats := none, tail := [] } }

/-- An operation that an uncorrectable accumulator word has ended (R95). -/
def stoppedAcc (o : Op) : Op :=
  { o with stage := OpStage.finishing, res := { o.res with status := stAccUncorr, stats := none, tail := [] } }

/-- The core once a tile's elements stand in their slot, and, of a drained tile, its operation in the drain's line. -/
def tileStored (s : State) (sl : Nat) (o : Op) (els : List (Nat × AccEl)) : State :=
  (outsideEls s sl o.tod o.tile o.mode).1.modCore sl (fun c =>
    let d := (c.setTile (tileSlot o.tod o.mode o.tile) o.mode.slots (mergeEls (outsideEls s sl o.tod o.tile o.mode).2 els)).setTags
      (tileSlot o.tod o.mode o.tile) o.mode.slots (.mode o.mode)
    if mDrain o.tod then { d with drainQ := d.drainQ ++ [o.tag] } else d)

theorem matrixTile_stores (hclean : anyPoison s sl (operandRuns o) = false)
    (hres : tileResult ⟨(opView s sl o).1, sl⟩ (opView s sl o).2 o (tileStart s sl o) o.tile = (els, ls, wr)) :
    matrixTile s sl o [] = tileTrap (tileStored s sl o els) sl (tiled o ls wr) (if mDrain o.tod then none else tileNan o.tod o.tile o.mode els) := by
  unfold tileStart at hres
  unfold operandRuns at hclean
  unfold matrixTile
  simp only [accEcc_nil, ite_self, List.filter_nil, eccEvents_nil, Bool.false_or, hclean, Bool.false_eq_true, if_false, hres, State.modCore_ite]
  rfl

theorem matrixTile_poisoned (hbad : anyPoison s sl (operandRuns o) = true) : matrixTile s sl o [] = updOp s sl (stoppedMem o) := by
  unfold operandRuns at hbad
  unfold matrixTile
  simp only [accEcc_nil, ite_self, List.filter_nil, eccEvents_nil, Bool.false_or, hbad, if_true]
  rfl

theorem matrixTile_accUncorr {slot w : Nat} (hacc : mAccum o.tod = true) (htag : (s.core sl).tag (tileSlot o.tod o.mode o.tile) = .mode o.mode)
    (hecc : accEcc s sl (tileSlot o.tod o.mode o.tile) o.mode.slots ecc = (t, some (slot, w))) :
    matrixTile s sl o ecc = updOp (freeTiles
      ((t.modCore sl (fun c => c.setTags (tileSlot o.tod o.mode o.tile) o.mode.slots .poison)).raise .accEccUncorr sl
        (packBits [(o.tag, 0, 14), (slot, 14, 7), (w, 21, 12)])) sl (stoppedAcc o) (o.tile + 1)) sl (stoppedAcc o) := by
  unfold matrixTile
  simp only [hacc, htag, decide_true, Bool.and_self, if_true, hecc]
  rfl

theorem exec_matrixTileDone_not (h : ∀ o, opOf s sl tag = some o → o.stage ≠ .running ∨ o.opc = 0 ∨ 3 < o.opc ∨ tileCount o.tod ≤ o.tile) :
    exec (.matrixTileDone sl tag ecc) s = .next (ended s s) := by
  show execMatrixTileDone sl tag ecc s = _
  rw [execMatrixTileDone, done_eq]
  cases hop : opOf s sl tag with
  | none => rfl
  | some o =>
    dsimp only
    rw [if_neg]
    simp only [Bool.and_eq_true, decide_eq_true_eq]
    rintro ⟨⟨⟨hrun, hlo⟩, hhi⟩, htile⟩
    rcases h o hop with hno | hno
    · exact hno hrun
    · omega

/-! ### One tile of a drain (R85-R94) -/

/-- The first tile of the drain's line is served. -/
theorem exec_drainTileDone_front (hop : opOf s sl tag = some o) (hready : drainReady o = true) (hfront : drainFront s sl = some tag) :
    exec (.drainTileDone sl tag ecc) s = .next (ended s (settle (drainTileDone s sl o ecc) sl)) := by
  show execDrainTileDone sl tag ecc s = _
  rw [execDrainTileDone, hop, done_eq]
  dsimp only
  rw [if_pos (by rw [hready, hfront]; simp)]

theorem exec_drainTileDone_not (h : drainFront s sl ≠ some tag) : exec (.drainTileDone sl tag ecc) s = .next (ended s s) := by
  show execDrainTileDone sl tag ecc s = _
  rw [execDrainTileDone, done_eq]
  cases opOf s sl tag with
  | none => rfl
  | some o =>
    dsimp only
    rw [if_neg (by simp [h])]

theorem drainTileDone_poisoned (hbad : anyPoison s sl (auxRuns o o.drained) = true) : drainTileDone s sl o [] = updOp s sl (stoppedMem o) := by
  unfold drainTileDone
  simp only [accEcc_nil, List.filter_nil, eccEvents_nil, Bool.false_or, hbad, if_true]
  rfl

/-- The core once its drain has served a tile. -/
def tileDrained (s : State) (sl : Nat) (o : Op) (u : WUnit) : State :=
  (unitWrites s sl o.ctx u.writes).modCore sl (fun c =>
    let d := { c with drainQ := c.drainQ.erase o.tag }
    if mClear o.tod then
      (d.setTile (tileSlot o.tod o.mode o.drained) o.mode.slots []).setTags (tileSlot o.tod o.mode o.drained) o.mode.slots .empty
    else d)

/-- The operation once a tile of it is drained: counts, statistics and winners go on (R85-R92). -/
def drainedOn (o : Op) (u : WUnit) (rows : List (Nat × List (Nat × FV))) : Op :=
  { o with
    drained := o.drained + 1, wins := newWins o o.drained rows, hbm := o.hbm + hbmBytes u.writes
    res := { o.res with
      units := [⟨[], [], (resCnt o.res).add u.cnt, none⟩], stats := addStats o (rows.flatMap (fun r => r.2.map (·.2)))
      tail := if o.drained + 1 = tileCount o.tod then winWrites o (newWins o o.drained rows) else [] } }

theorem drainTileDone_serves {u : WUnit} {rows : List (Nat × List (Nat × FV))} (hclean : anyPoison s sl (auxRuns o o.drained) = false)
    (hres : drainTile ⟨(opView s sl o).1, sl⟩ o (opView s sl o).2 ((s.core sl).tile (tileSlot o.tod o.mode o.drained)) o.drained = (u, rows))
    (hbad : (unitWrites s sl o.ctx u.writes).memBad = false) :
    drainTileDone s sl o [] = tileTrap (tileDrained s sl o u) sl (drainedOn o u rows) u.trap := by
  have hmem (f : Core → Core) : ((unitWrites s sl o.ctx u.writes).modCore sl f).memBad = false := hbad
  unfold drainTileDone
  simp only [accEcc_nil, List.filter_nil, eccEvents_nil, Bool.false_or, hclean, Bool.false_eq_true, if_false, hres, State.modCore_ite, hmem]
  rfl

/-! ### The ends of a kernel (R139) -/

theorem exec_kernel_none (h : kernelOp s sl tag = none) : exec (.kernelEcall sl tag steps ecc) s = .next (ended s s) ∧
    exec (.kernelTrap sl tag steps ecc) s = .next (ended s s) ∧ exec (.kernelTimeout sl tag steps ecc) s = .next (ended s s) := by
  have hecall : exec (.kernelEcall sl tag steps ecc) s = execKernelEcall sl tag steps ecc s := rfl
  have htrap : exec (.kernelTrap sl tag steps ecc) s = execKernelTrap sl tag steps ecc s := rfl
  have htime : exec (.kernelTimeout sl tag steps ecc) s = execKernelTimeout sl tag steps ecc s := rfl
  rw [hecall, htrap, htime, execKernelEcall, execKernelTrap, execKernelTimeout, h, done_eq]
  exact ⟨rfl, rfl, rfl⟩

/-- What KERNEL_ECALL makes of the reason for which the hart stopped. -/
def ecallEnd (s t : State) (sl : Nat) (o : Op) : Option Trap → State
  | none => t
  | some (.cause 8) => kernelReturn t sl o
  | some (.cause _) => s
  | some .uncorr => endKernel t sl o (OpRes.ofStatus stMemUncorr)

/-- What KERNEL_TRAP makes of it. -/
def trapEnd (s t : State) (sl tag : Nat) (o : Op) : Option Trap → State
  | none => t
  | some (.cause 8) => s
  | some (.cause n) =>
    endKernel (t.raise .kernelFault sl (packBits [(tag, 0, 14), (hartOf s sl, 14, 3), (n, 17, 15)])) sl o
      { OpRes.ofStatus stKernelFault with detail := n }
  | some .uncorr => endKernel t sl o (OpRes.ofStatus stMemUncorr)

/-- What KERNEL_TIMEOUT makes of it. -/
def timeoutEnd (s t : State) (sl : Nat) (o : Op) : Option Trap → State
  | none => resetHart (endKernel t sl o (OpRes.ofStatus stKernelTimeout)) sl
  | some .uncorr => endKernel t sl o (OpRes.ofStatus stMemUncorr)
  | some _ => s

theorem trapEnd_cause {n : Nat} (hn : n ≠ 8) : trapEnd s t sl tag o (some (.cause n)) =
    endKernel (t.raise .kernelFault sl (packBits [(tag, 0, 14), (hartOf s sl, 14, 3), (n, 17, 15)])) sl o
      { OpRes.ofStatus stKernelFault with detail := n } := by
  unfold trapEnd
  split
  next h => cases h
  next h => cases h; exact absurd rfl hn
  next h => cases h; rfl
  next h => cases h

theorem ecallEnd_cause {n : Nat} (hn : n ≠ 8) : ecallEnd s t sl o (some (.cause n)) = s := by
  unfold ecallEnd
  split
  next h => cases h
  next h => cases h; exact absurd rfl hn
  next h => rfl
  next h => cases h

/-- The three commands of a running kernel, by the reason for which its hart stopped. -/
theorem exec_kernel_stops {r : Option Trap} (h : kernelOp s sl tag = some o) (hstep : kernelStep s sl steps o ecc = (t, r)) :
    exec (.kernelEcall sl tag steps ecc) s = .next (ended s (ecallEnd s t sl o r)) ∧
    exec (.kernelTrap sl tag steps ecc) s = .next (ended s (trapEnd s t sl tag o r)) ∧
    exec (.kernelTimeout sl tag steps ecc) s = .next (ended s (timeoutEnd s t sl o r)) := by
  have hecall : exec (.kernelEcall sl tag steps ecc) s = execKernelEcall sl tag steps ecc s := rfl
  have htrap : exec (.kernelTrap sl tag steps ecc) s = execKernelTrap sl tag steps ecc s := rfl
  have htime : exec (.kernelTimeout sl tag steps ecc) s = execKernelTimeout sl tag steps ecc s := rfl
  rw [hecall, htrap, htime, execKernelEcall, execKernelTrap, execKernelTimeout, h, done_eq]
  dsimp only
  rw [hstep]
  exact ⟨rfl, rfl, rfl⟩

theorem kernelReturn_error (h : ((t.core sl).hart.xr 10).toNat ≠ 0) : kernelReturn t sl o =
    endKernel t sl o { OpRes.ofStatus stKernelError with detail := ((t.core sl).hart.xr 10).toNat % 2 ^ 32 } := by
  rw [kernelReturn]
  exact if_pos h

theorem kernelReturn_bare (h : ((t.core sl).hart.xr 10).toNat = 0) (hdesc : tDesc o.tod 1 = 0xFFFF) :
    kernelReturn t sl o = endKernel t sl o (OpRes.ofStatus 0) := by
  rw [kernelReturn]
  exact (if_neg (not_not.mpr h)).trans (if_pos hdesc)

theorem withPoison_clean {rs : List (Nat × Nat)} (h : anyPoison s sl rs = false) (res : OpRes) : withPoison s sl rs res = (s, res) := by
  rw [withPoison, h]
  rfl

theorem kernelReturn_stage (h : ((t.core sl).hart.xr 10).toNat = 0) (hdesc : tDesc o.tod 1 ≠ 0xFFFF)
    (hclean : anyPoison (touchReads t sl o.ctx ((dscD o.descs 0).readRuns ++ (dscD o.descs 1).coarseRun)) sl
      ((dscD o.descs 0).readRuns ++ (dscD o.descs 1).coarseRun) = false) :
    kernelReturn t sl o = endKernel (touchReads t sl o.ctx ((dscD o.descs 0).readRuns ++ (dscD o.descs 1).coarseRun)) sl
      { o with hbm := o.hbm + hbmLen ((dscD o.descs 0).readRuns ++ (dscD o.descs 1).coarseRun) }
      { OpRes.ofStatus 0 with units := stageUnits ⟨t, sl⟩ o } := by
  rw [kernelReturn]
  refine (if_neg (not_not.mpr h)).trans ((if_neg hdesc).trans ?_)
  dsimp only
  rw [withPoison_clean hclean]

/-- Settles O40: a tile stores, stops or traps; a drain serves the first of its line; a kernel ends by the reason for which it stopped. -/
theorem tilesAndKernels : Obligations.TilesAndKernels := by
  refine ⟨fun s sl tag o els ls wr hop hrun hlo hhi htile hclean hres => ?_, fun s sl o x => ⟨rfl, fun hx => if_pos hx, fun hx hc => ?_, fun hx hc => ?_⟩,
    fun s sl tag o hop hrun hlo hhi htile hbad => ?_,
    fun s t sl tag slot w o ecc hop hrun hlo hhi htile hacc htag hecc => ?_, fun s sl tag ecc hno => exec_matrixTileDone_not hno,
    fun s sl tag o u rows hop hready hfront hclean hres hmem => ?_, fun s sl tag o hop hready hfront hbad => ?_,
    fun s sl tag ecc hno => exec_drainTileDone_not hno, fun s t sl tag steps o ecc h hstep => exec_kernel_stops h hstep,
    fun s t sl tag steps o ecc h hstep => ?_, fun s t sl tag steps n o ecc h hn hstep => ?_,
    fun s t sl tag steps o ecc h hstep => exec_kernel_stops h hstep, fun s sl tag steps ecc h => exec_kernel_none h⟩
  · rw [exec_matrixTileDone_running [] hop hrun hlo hhi htile, matrixTile_stores hclean hres]
    obtain rfl := tag_of_opOf hop
    rfl
  · exact (if_neg (not_not.mpr hx)).trans (if_pos hc)
  · exact (if_neg (not_not.mpr hx)).trans (if_neg (by rw [show nanContinue (raiseNan s sl o x) sl = nanContinue s sl from rfl, hc]; decide))
  · rw [exec_matrixTileDone_running [] hop hrun hlo hhi htile, matrixTile_poisoned hbad]
    rfl
  · rw [exec_matrixTileDone_running ecc hop hrun hlo hhi htile, matrixTile_accUncorr hacc htag hecc]
    obtain rfl := tag_of_opOf hop
    rfl
  · rw [exec_drainTileDone_front hop hready hfront, drainTileDone_serves hclean hres hmem]
    obtain rfl := tag_of_opOf hop
    rfl
  · rw [exec_drainTileDone_front hop hready hfront, drainTileDone_poisoned hbad]
    rfl
  · obtain ⟨hecall, htrap, htime⟩ := exec_kernel_stops h hstep
    rw [hecall, htrap, htime]
    refine ⟨fun h0 => ?_, fun h0 hd => ?_, fun h0 hd hclean => ?_, rfl, rfl⟩
    · exact congrArg (fun t => Host.Outcome.next (ended s t)) (kernelReturn_error h0)
    · exact congrArg (fun t => Host.Outcome.next (ended s t)) (kernelReturn_bare h0 hd)
    · exact congrArg (fun t => Host.Outcome.next (ended s t)) (kernelReturn_stage h0 hd hclean)
  · obtain ⟨hecall, htrap, htime⟩ := exec_kernel_stops h hstep
    rw [hecall, htrap, htime, trapEnd_cause hn, ecallEnd_cause hn]
    exact ⟨rfl, rfl, rfl⟩

end Sys2Proof.Machine
end

section
/-! A TOD ring that runs past its cluster's memory writes its entry in the next cluster, whose domain wakes (R98, R380). -/
namespace Sys2Proof.Machine

/-- Core slot 0 has a queue of two entries whose ring begins 128 bytes before the end of its cluster's memory and whose PROD is 1; the next
cluster's domain is OFF. -/
def ringAtClusterEnd : State :=
  { State.reset with
    regs := [(rPd 0 33, 0#64), (rPd 0 34, 3#64), (rOpq 0 0 0, 2#64), (rOpq 0 0 8, 0xFFFF80#64)]
    mem := [(cmemA 0, 1#8)] }

/-- An entry of the ring. -/
def blankTod : List Byte := List.replicate 128 0#8

/-- The queue is disabled, its cluster is ON, and header and ring do not overlap. -/
theorem ringAtClusterEnd_ready :
    domOn ringAtClusterEnd (pdCluster (clusterOf ringAtClusterEnd 0)).1 (pdCluster (clusterOf ringAtClusterEnd 0)).2 = true ∧
      qEn ringAtClusterEnd 0 0 = false ∧ blankTod.length = 128 ∧ qHdr ringAtClusterEnd 0 0 + 4 ≤ qRing ringAtClusterEnd 0 0 := by
  decide +kernel

/-- The state that a write of one entry and PROD leads to. -/
def ringWritten : State :=
  needOn ringAtClusterEnd [pdCluster (clusterOf ringAtClusterEnd 0)] (fun s =>
    let s1 := putTods s 0 0 (hdrW s 0 0 0) [blankTod]
    let s2 := overrunCheck (setHdrW s1 0 0 0 (2#32).toNat) 0 0
    if qEn s2 0 0 then wakeDom s2 (0 / 64) (pdSlot 0) else s2)

theorem ringWritten_wakes : ringWritten.rd (rPd 0 34) ≠ ringAtClusterEnd.rd (rPd 0 34) := by decide +kernel

/-- Refutes O38: its clause on a producer's entry says that no register changes. A ring may begin so near the end of its cluster's memory that
the entry falls in the next cluster, and the write of it wakes that cluster's domain. -/
theorem not_producersAndRings : ¬ Obligations.ProducersAndRings := by
  unfold Obligations.ProducersAndRings
  rintro ⟨-, -, -, hentry, -⟩
  obtain ⟨hon, hoff, hlen, hapart⟩ := ringAtClusterEnd_ready
  obtain ⟨t, hexec, -, -, hregs, -⟩ := hentry ringAtClusterEnd 0 0 blankTod 2#32 hon hoff hlen (.inl hapart)
  have hrow : exec (.opqProdAdvance 0 0 [blankTod] 2#32) ringAtClusterEnd = .next (ended ringAtClusterEnd ringWritten) := done_eq ..
  rw [hrow] at hexec
  cases hexec
  exact ringWritten_wakes (hregs (rPd 0 34) (List.not_mem_nil))

end Sys2Proof.Machine
end

section
/-! The statement on the completion record does not bound the queue of the operation (R115). -/
namespace Sys2Proof.Machine

/-- A number of a queue whose registers, for core slot 60, fall on the power-domain registers of die 1: its ring register is PD_CTL of the
domain of cluster 8. -/
def farQueue : Nat := 52344

theorem farQueue_ring : rOpq 60 farQueue 8 = rPd 1 33 := by decide

/-- An ELTWISE operation of that queue that has done its work. -/
def farOp : Op :=
  { tag := 0, q := farQueue, seq := 0, tod := 8, ctx := 0, vstage := 0, mb := 0, descs := [], stage := .finishing, slots := [], mode := .acc32
    ins := [], outs := [], streams := [], ctrs := [], scales := [], wins := [], hazAcc := false, hazMem := false, startTs := 0, endTs := 0
    res := OpRes.ofStatus 0, tile := 0, drained := 0, msgs := [], aux := [], hbm := 0, link := 0, nj := 0 }

/-- The spare of die 0 serves cluster 8, whose domain is OFF with a wake count that is one short of its carry into bit 48; the next cluster is
ON, and CPL_PROD is 1. -/
def farQueueState : State :=
  { State.reset with
    regs := [(rSpareMap 0, 2#64), (rPd 1 32, 2#64), (rPd 1 33, 0xFFFFC0000003#64), (rPd 1 34, 0#64)]
    dies := [(0, { Die.reset with mapped := 64 })]
    mem := [(cmemA 8 + 8, 1#8)]
    cores := [(60, { Core.reset with ops := [farOp] })] }

/-- What O42 asks of the operation and its queue. -/
theorem farQueueState_ready :
    opOf farQueueState 60 0 = some farOp ∧ 8 ≤ farOp.opc ∧ farOp.opc ≠ 0x12 ∧ farOp.opc ≠ 0x13 ∧ farOp.opc ≠ 0x38 ∧ farOp.opc ≠ 0x3F ∧
      tQuiet farOp.tod = false ∧ cplFull farQueueState 60 farQueue = false ∧
      (∀ x ∈ (farQueueState.core 60).ops, x.opc ≠ 0x28 ∧ x.opc ≠ 0x29 ∧ x.opc ≠ 0x2B) ∧
      qHdr farQueueState 60 farQueue + 12 ≤ qCpl farQueueState 60 farQueue ∧ ∀ r, r < 8 → farQueueState.fb (rRing r 8) 0 = false := by
  decide +kernel

/-- The header's write wakes the domain, which moves the header; the word that was written is not the one that is read. -/
theorem farQueueState_moves :
    hdrW (settle (complete farQueueState 60 farOp farOp.res) 60) 60 farOp.q 2 ≠ (hdrW farQueueState 60 farOp.q 2 + 1) % 2 ^ 32 := by
  decide +kernel

theorem hdrW_ended (s t : State) (sl q i : Nat) : hdrW (ended s t) sl q i = hdrW t sl q i := rfl

/-- Refutes O42: it says for every operation that CPL_PROD is one more, and bounds neither the core slot's queue nor what the spare serves. With a
queue whose ring register is a power-domain register, the write of the header wakes that domain, and its wake count carries into the place of the
header. -/
theorem not_completionRecord : ¬ Obligations.CompletionRecord := by
  unfold Obligations.CompletionRecord
  intro h
  obtain ⟨hop, hopc, h12, h13, h38, h3F, hquiet, hfull, hchan, happart, hring⟩ := farQueueState_ready
  obtain ⟨t, hexec, -, hprod, -⟩ := h farQueueState 60 0 0 farOp hop rfl hopc h12 h13 h38 h3F rfl rfl rfl hquiet hfull hchan (.inl happart) hring
  rw [exec_opComplete_finishing hop rfl, completeReady_clean (by decide), acqCharge_other h38, finishOp_plain h12 h13 h38 h3F] at hexec
  cases hexec
  rw [hdrW_ended] at hprod
  exact farQueueState_moves hprod

end Sys2Proof.Machine
end

section
/-! Messages at a receive queue (R196-R214, R236, R289). -/
namespace Sys2Proof.Machine

variable {s t u : State} {i sl r seq : Nat} {m : NetMsg}

/-! ### Delivery -/

/-- A message of a kind that goes to a queue is delivered to the queue's slot. -/
theorem atQueue_some {mine : NetBody → Bool} {act : State → Nat → Nat → NetMsg → State} (h : netTake s i = some (m, u)) (hup : m.up = true)
    (hmine : mine m.body = true) : atQueue s i mine act = act u (slotOf s m.rq.2.1) m.rq.2.2 m := by
  unfold atQueue
  rw [h]
  dsimp only
  rw [hup, hmine]
  rfl

theorem atQueue_none {mine : NetBody → Bool} {act : State → Nat → Nat → NetMsg → State} (h : netTake s i = none) : atQueue s i mine act = s := by
  unfold atQueue
  rw [h]

/-- A message that is taken leaves the rest of the package as it is. -/
theorem netTake_frame (h : netTake s i = some (m, u)) : u.mem = s.mem ∧ u.cores = s.cores := by
  unfold netTake at h
  split at h
  · cases h
  · split at h
    · cases h
    · cases h
      exact ⟨rfl, rfl⟩

/-! ### What queue operations leave unchanged -/

/-- An answer that leaves a queue changes no register and no memory. -/
theorem post_down_regs (hdown : m.up = false) (s : State) : (s.post m).regs = s.regs := by
  unfold State.post
  rw [hdown]
  simp only [Bool.false_eq_true, if_false]
  split
  · rfl
  · split
    · rfl
    · unfold respond
      split <;> rfl

theorem post_down_mem (hdown : m.up = false) (s : State) : (s.post m).mem = s.mem := by
  unfold State.post
  rw [hdown]
  simp only [Bool.false_eq_true, if_false]
  split
  · rfl
  · split
    · rfl
    · unfold respond
      split <;> rfl

theorem post_down_here (hdown : m.up = false) (hhere : m.ch.1 = ownPkg s) : (s.post m).net = s.net ++ [m] := by
  unfold State.post
  rw [hdown, if_neg Bool.false_ne_true, if_pos hhere]
  rfl

theorem rqStatus_mem (s : State) (sl r : Nat) : (rqStatus s sl r).mem = s.mem := by simp [rqStatus]
theorem rqStatus_net (s : State) (sl r : Nat) : (rqStatus s sl r).net = s.net := by simp [rqStatus]

theorem rqStatus_rq (s : State) (sl r k x : Nat) : (rqStatus s sl r).rq k x = s.rq k x := by
  rw [State.rq, State.core, rqStatus_cores]
  rfl

theorem rqStatus_f {p : Nat} (h : p ≠ rRq sl r 0x18) (l w : Nat) : (rqStatus s sl r).f p l w = s.f p l w := by
  simp [rqStatus, h]

theorem State.rq_setRq (s : State) (sl r : Nat) (x : RxQ) : (s.setRq sl r x).rq sl r = x := by
  simp [State.rq, State.setRq]

/-! ### OPEN (R196, R198) -/

theorem exec_openRequest {ctx tag : Nat} (h : netTake s i = some (m, u)) (hup : m.up = true) (hbody : m.body = .openReq ctx tag) :
    exec (.openRequest i) s = .next (ended s
      (if noRoute u m.ch m.rq.2.1 = true then u.post { m with up := false, body := .openNack tag 5 }
      else if rqEn u (slotOf s m.rq.2.1) m.rq.2.2 = false then rqNack u (slotOf s m.rq.2.1) m.rq.2.2 m.ch (.openNack tag 3)
      else if u.fb (rRq (slotOf s m.rq.2.1) m.rq.2.2 0) 1 = false ∨
          (m.ch.1 = ownPkg u ∧ ctx ≠ u.f (rRq (slotOf s m.rq.2.1) m.rq.2.2 0) 8 8) then
        raiseReject (rqNack u (slotOf s m.rq.2.1) m.rq.2.2 m.ch (.openNack tag 2)) (slotOf s m.rq.2.1) m.rq.2.2 m.ch 2
      else if 16 ≤ rqSenders u (slotOf s m.rq.2.1) m.rq.2.2 ∧ m.ch ∉ (u.rq (slotOf s m.rq.2.1) m.rq.2.2).dyn then
        raiseReject (rqNack u (slotOf s m.rq.2.1) m.rq.2.2 m.ch (.openNack tag 4)) (slotOf s m.rq.2.1) m.rq.2.2 m.ch 4
      else (rqStatus (u.setRq (slotOf s m.rq.2.1) m.rq.2.2 { u.rq (slotOf s m.rq.2.1) m.rq.2.2 with
          dyn := if m.ch ∈ (u.rq (slotOf s m.rq.2.1) m.rq.2.2).dyn then (u.rq (slotOf s m.rq.2.1) m.rq.2.2).dyn
            else (u.rq (slotOf s m.rq.2.1) m.rq.2.2).dyn ++ [m.ch]
          gone := (u.rq (slotOf s m.rq.2.1) m.rq.2.2).gone.filter (fun d => d ≠ m.ch) }) (slotOf s m.rq.2.1) m.rq.2.2).post
            { m with up := false, body := .openGrant tag })) := by
  show execOpenRequest i s = _
  rw [execOpenRequest, done_eq, atQueue_some h hup (by rw [hbody])]
  dsimp only
  rw [hbody]
  simp only [Bool.not_eq_true', Bool.or_eq_true, Bool.and_eq_true, decide_eq_true_eq, List.contains_iff_mem, ← Bool.not_eq_true]

/-! ### Grant requests (R197, R203, R213, R236) -/

/-- The queue with one more request. -/
def rqJoined (u : State) (sl r : Nat) (m : NetMsg) (seq len : Nat) : State :=
  rqStatus (u.setRq sl r { u.rq sl r with reqs := (u.rq sl r).reqs ++ [⟨m.ch.1, m.ch.2.1, m.ch.2.2, seq, len⟩] }) sl r

theorem exec_grantReq {len : Nat} (h : netTake s i = some (m, u)) (hup : m.up = true) (hbody : m.body = .grantReq seq len) :
    exec (.grantReq i) s = .next (ended s
      (if noRoute u m.ch m.rq.2.1 = true then u.post { m with up := false, body := .nack seq 5 }
      else if rqEn u (slotOf s m.rq.2.1) m.rq.2.2 = false then rqNack u (slotOf s m.rq.2.1) m.rq.2.2 m.ch (.nack seq 1)
      else if rqTakes u (slotOf s m.rq.2.1) m.rq.2.2 m.ch = false ∧
          acceptedIn u (slotOf s m.rq.2.1) m.rq.2.2 (!bankB u (slotOf s m.rq.2.1)) m.ch = false then
        if m.ch ∈ (u.rq (slotOf s m.rq.2.1) m.rq.2.2).gone then rqNack u (slotOf s m.rq.2.1) m.rq.2.2 m.ch (.nack seq 1)
        else raiseReject (rqNack u (slotOf s m.rq.2.1) m.rq.2.2 m.ch (.nack seq 2)) (slotOf s m.rq.2.1) m.rq.2.2 m.ch 2
      else if (u.rq (slotOf s m.rq.2.1) m.rq.2.2).reqs.isEmpty then
        serveRq (rqJoined u (slotOf s m.rq.2.1) m.rq.2.2 m seq len) (slotOf s m.rq.2.1) m.rq.2.2
      else rqJoined u (slotOf s m.rq.2.1) m.rq.2.2 m seq len)) := by
  show execGrantReq i s = _
  rw [execGrantReq, done_eq, atQueue_some h hup (by rw [hbody])]
  dsimp only
  rw [hbody]
  simp only [Bool.not_eq_true', Bool.and_eq_true, List.contains_iff_mem]
  rfl

/-! ### Grants (R203) -/

/-- Bytes from a queue's TAIL to the end of its ring, and free bytes of the ring. -/
def rqGap (s : State) (sl r : Nat) : Nat := rqSize s sl r - rqTail s sl r % rqSize s sl r
def rqFree (s : State) (sl r : Nat) : Nat := rqSize s sl r - subMod 32 (rqTail s sl r) (rqHead s sl r)

/-- The state once the request in front is granted: `ms` enter the ring, TAIL moves on by `need`, and the grant leaves. -/
def granted (s : State) (sl r : Nat) (q : RxReq) (rest : List RxReq) (ms : List RxMsg) (need start sk : Nat) : State :=
  let u := (s.setRq sl r { s.rq sl r with reqs := rest, msgs := (s.rq sl r).msgs ++ ms }).setF (rRq sl r 0x10) 32 32 (rqTail s sl r + need)
  rqStatus (u.post ⟨false, rxEnd q, rqEnd u sl r, 0, 0, .grant q.seq start (rqTail s sl r % rqSize s sl r) sk⟩) sl r

/-- A message of the request in front, as it enters the ring. -/
def rxMsg (q : RxReq) (start off len kind : Nat) (whole : Bool) : RxMsg :=
  ⟨start, off, len, q.pkg, q.core, q.chan, q.seq, kind, whole, whole, none, false⟩

section
variable {q : RxReq} {rest : List RxReq}

theorem serveRq_waits (hno : ∀ q rest, (s.rq sl r).reqs = q :: rest →
    rqFree s sl r < (if rqGap s sl r < q.len then rqGap s sl r + q.len else q.len) ∨ rqEn s sl r = false ∨ rqTakes s sl r (rxEnd q) = false) :
    serveRq s sl r = s := by
  rw [serveRq]
  dsimp only
  split
  next => rfl
  next q rest hreqs =>
    refine if_pos ?_
    rw [Bool.or_eq_true, Bool.or_eq_true, Bool.not_eq_true', Bool.not_eq_true', decide_eq_true_eq]
    rcases hno q rest hreqs with hfree | hen | htakes
    · exact .inr hfree
    · exact .inl (.inl hen)
    · exact .inl (.inr htakes)

theorem serveRq_fits (hreqs : (s.rq sl r).reqs = q :: rest) (hen : rqEn s sl r = true) (htakes : rqTakes s sl r (rxEnd q) = true)
    (hgap : q.len ≤ rqGap s sl r) (hfree : q.len ≤ rqFree s sl r) :
    serveRq s sl r = granted s sl r q rest [rxMsg q (rqTail s sl r) (rqTail s sl r % rqSize s sl r) q.len 0 false] q.len (rqTail s sl r) 0 := by
  unfold rqGap at hgap
  unfold rqFree at hfree
  rw [serveRq]
  simp only [hreqs, hen, htakes, Bool.not_true, Bool.false_or, if_neg (Nat.not_lt.mpr hgap), decide_eq_true_eq, if_neg (Nat.not_lt.mpr hfree),
    List.nil_append]
  rfl

theorem serveRq_skips (hreqs : (s.rq sl r).reqs = q :: rest) (hen : rqEn s sl r = true) (htakes : rqTakes s sl r (rxEnd q) = true)
    (hgap : rqGap s sl r < q.len) (hfree : rqGap s sl r + q.len ≤ rqFree s sl r) :
    serveRq s sl r = granted s sl r q rest
      ([rxMsg q (rqTail s sl r) (rqTail s sl r % rqSize s sl r) (rqGap s sl r) 1 true] ++
        [rxMsg q ((rqTail s sl r + rqGap s sl r) % 2 ^ 32) ((rqTail s sl r + rqGap s sl r) % 2 ^ 32 % rqSize s sl r) q.len 0 false])
      (rqGap s sl r + q.len) ((rqTail s sl r + rqGap s sl r) % 2 ^ 32) (rqGap s sl r) := by
  unfold rqGap at hgap hfree ⊢
  unfold rqFree at hfree
  rw [serveRq]
  simp only [hreqs, hen, htakes, Bool.not_true, Bool.false_or, if_pos hgap, decide_eq_true_eq, if_neg (Nat.not_lt.mpr hfree)]
  rfl

end

section
variable (s : State) (sl r : Nat) (q : RxReq) (rest : List RxReq) (ms : List RxMsg) (need start sk : Nat)

theorem granted_rq : (granted s sl r q rest ms need start sk).rq sl r = { s.rq sl r with reqs := rest, msgs := (s.rq sl r).msgs ++ ms } := by
  unfold granted
  rw [rqStatus_rq, State.rq, State.core, post_cores, State.setF_cores, ← State.core, ← State.rq]
  exact State.rq_setRq ..

theorem granted_tail : rqTail (granted s sl r q rest ms need start sk) sl r = (rqTail s sl r + need) % 2 ^ 32 := by
  have hne : rRq sl r 0x10 ≠ rRq sl r 0x18 := by
    unfold rRq
    omega
  unfold granted
  rw [rqTail, rqStatus_f hne, State.f, rd_of_regs (post_down_regs rfl _)]
  exact State.f_setF_same _ _ _ _ _ (by decide)

theorem granted_mem : (granted s sl r q rest ms need start sk).mem = s.mem := by
  unfold granted
  rw [rqStatus_mem, post_down_mem rfl, State.setF_mem, State.setRq_mem]

end

theorem rRq_above (sl r o : Nat) (ho : 0 < o) : dieBase (sl / 64) + 0x20 ≠ rRq sl r o ∧ wenPkgBase < rRq sl r o := by
  unfold rRq slotBase clusterBase wenPkgBase dieBase
  omega

/-- The names of the two ends of a queue do not depend on the queue's own registers. -/
theorem ownPkg_setF (s : State) (sl r l w x : Nat) : ownPkg (s.setF (rRq sl r 0x10) l w x) = ownPkg s :=
  State.f_setF_other _ _ _ _ _ _ _ _ (rRq_above sl r 0x10 (by decide)).2.ne

theorem rqEnd_setF (s : State) (sl r l w x : Nat) : rqEnd (s.setF (rRq sl r 0x10) l w x) sl r = rqEnd s sl r := by
  have hne : rSpareMap (sl / 64) ≠ rRq sl r 0x10 := (rRq_above sl r 0x10 (by decide)).1
  have hactive : spareActive (s.setF (rRq sl r 0x10) l w x) (sl / 64) = spareActive s (sl / 64) := State.fb_setF_other _ _ _ _ _ _ _ hne
  have htarget : spareTarget (s.setF (rRq sl r 0x10) l w x) (sl / 64) = spareTarget s (sl / 64) := by
    rw [spareTarget, spareTarget, State.die, State.die, State.setF_dies]
  rw [rqEnd, rqEnd, ownPkg_setF, coreNum, coreNum, logicalOf, logicalOf, hactive, htarget]

theorem granted_net (s : State) (sl r : Nat) {q : RxReq} (hhere : q.pkg = ownPkg s) (rest : List RxReq) (ms : List RxMsg) (need start sk : Nat) :
    (granted s sl r q rest ms need start sk).net =
      s.net ++ [⟨false, rxEnd q, rqEnd s sl r, 0, 0, .grant q.seq start (rqTail s sl r % rqSize s sl r) sk⟩] := by
  have hhere' : (rxEnd q).1 = ownPkg ((s.setRq sl r { s.rq sl r with reqs := rest, msgs := (s.rq sl r).msgs ++ ms }).setF (rRq sl r 0x10) 32 32
      (rqTail s sl r + need)) := by
    rw [ownPkg_setF]
    exact hhere
  unfold granted
  dsimp only
  rw [rqStatus_net, post_down_here rfl hhere', rqEnd_setF]
  simp only [State.setF_net, State.setRq_net]
  rfl

/-! ### Data, aborts and departures (R205, R206, R212-R214) -/

theorem exec_msgData {start so sk : Nat} {bs : List Byte} (h : netTake s i = some (m, u)) (hup : m.up = true)
    (hbody : m.body = .data seq start so sk bs) : exec (.msgData i) s = .next (ended s
      (if rqEn u (slotOf s m.rq.2.1) m.rq.2.2 = false then lateData u (slotOf s m.rq.2.1) m.rq.2.2 seq m
      else
        match (u.rq (slotOf s m.rq.2.1) m.rq.2.2).msgs.find? (fun y => isIncomplete m seq y && y.start = start) with
        | none => lateData u (slotOf s m.rq.2.1) m.rq.2.2 seq m
        | some y => settle ((updateVisible ((localWrite
            (if 0 < sk then localWrite u (ringPlace u (slotOf s m.rq.2.1) m.rq.2.2 + so) (leBytes 4 1 ++ leBytes 4 sk ++ padTo 56 []) else u)
            (ringPlace u (slotOf s m.rq.2.1) m.rq.2.2 + y.off) bs).setRq (slotOf s m.rq.2.1) m.rq.2.2
              { u.rq (slotOf s m.rq.2.1) m.rq.2.2 with msgs := (u.rq (slotOf s m.rq.2.1) m.rq.2.2).msgs.map (fun z =>
                if z.start = start then { z with complete := true } else z) }) (slotOf s m.rq.2.1) m.rq.2.2).post
            { m with up := false, body := .ack seq }) (slotOf s m.rq.2.1))) := by
  show execMsgData i s = _
  rw [execMsgData, done_eq, atQueue_some h hup (by rw [hbody])]
  dsimp only
  rw [hbody]
  simp only [Bool.not_eq_true'] <;> rfl

theorem exec_abort (h : netTake s i = some (m, u)) (hup : m.up = true) (hbody : m.body = .abort seq) : exec (.abort i) s = .next (ended s
    (match (u.rq (slotOf s m.rq.2.1) m.rq.2.2).msgs.find? (isIncomplete m seq) with
    | none => u
    | some y => abortMsg u (slotOf s m.rq.2.1) m.rq.2.2 y false)) := by
  show execAbort i s = _
  rw [execAbort, done_eq, atQueue_some h hup (by rw [hbody]), hbody] <;> rfl

theorem exec_xferTimeout_none (h : rqEn s sl r = false ∨ (s.rq sl r).msgs.find? (fun m => !m.complete) = none) :
    exec (.xferTimeout sl r) s = .next (ended s s) := by
  show execXferTimeout sl r s = _
  rw [execXferTimeout, done_eq]
  cases hen : rqEn s sl r
  · rfl
  · rw [h.resolve_left (by rw [hen]; decide)]
    rfl

theorem exec_xferTimeout_some {y : RxMsg} (hen : rqEn s sl r = true) (hy : (s.rq sl r).msgs.find? (fun m => !m.complete) = some y) :
    exec (.xferTimeout sl r) s = .next (ended s (abortMsg s sl r y true)) := by
  show execXferTimeout sl r s = _
  rw [execXferTimeout, done_eq, hen, hy, if_neg (by decide)]

theorem ended_rq (s t : State) (sl r : Nat) : (ended s t).rq sl r = t.rq sl r := rfl

theorem leaveRq_rq (s : State) (sl r : Nat) (e : Nat × Nat × Nat) : (leaveRq s sl r e).rq sl r = { s.rq sl r with
    dyn := (s.rq sl r).dyn.filter (fun d => d ≠ e), gone := (s.rq sl r).gone.filter (fun d => d ≠ e)
    reqs := (s.rq sl r).reqs.filter (fun q => rxEnd q ≠ e) } := by
  rw [leaveRq, rqStatus_rq]
  exact State.rq_setRq ..

/-- An end that left a queue is registered no more and waits no more; nothing else of the package changes. -/
theorem leaveRq_leaves (hmem : u.mem = s.mem) (hcores : u.cores = s.cores) (e : Nat × Nat × Nat) :
    e ∉ ((ended s (leaveRq u sl r e)).rq sl r).dyn ∧ (∀ q ∈ ((ended s (leaveRq u sl r e)).rq sl r).reqs, rxEnd q ≠ e) ∧
      ((ended s (leaveRq u sl r e)).rq sl r).msgs = (u.rq sl r).msgs ∧ (ended s (leaveRq u sl r e)).net = u.net ∧
      SameMem s (ended s (leaveRq u sl r e)) ∧ SameCores [sl] s (ended s (leaveRq u sl r e)) := by
  rw [ended_rq, leaveRq_rq]
  refine ⟨by simp, fun q hq => by simpa using (List.mem_filter.mp hq).2, rfl, ?_, fun a => ?_, fun k hk => ?_⟩
  · rw [ended_net, leaveRq, rqStatus_net, State.setRq_net]
  · rw [ended_byte, State.byte, leaveRq, rqStatus_mem, State.setRq_mem, hmem, State.byte]
  · have hne : k ≠ sl := by simpa using hk
    rw [ended_core, leaveRq, State.core, rqStatus_cores, ← State.core, State.setRq, State.core_modCore, if_neg hne, State.core, hcores, State.core]

theorem exec_closeNotice (h : netTake s i = some (m, u)) (hup : m.up = true) (hbody : m.body = .close) :
    exec (.closeNotice i) s = .next (ended s (leaveRq u (slotOf s m.rq.2.1) m.rq.2.2 m.ch)) := by
  show execCloseNotice i s = _
  rw [execCloseNotice, done_eq, atQueue_some h hup (by rw [hbody])]

theorem exec_senderLossReport (s : State) (sl r pkg core chan : Nat) :
    exec (.senderLossReport sl r pkg core chan) s = .next (ended s (leaveRq s sl r (pkg, core, chan))) := done_eq ..

theorem exec_grantIssue (s : State) (sl r : Nat) : exec (.grantIssue sl r) s = .next (ended s (serveRq s sl r)) := done_eq ..

theorem exec_atQueue_none (h : netTake s i = none) : exec (.openRequest i) s = .next (ended s s) ∧ exec (.grantReq i) s = .next (ended s s) ∧
    exec (.msgData i) s = .next (ended s s) ∧ exec (.abort i) s = .next (ended s s) ∧ exec (.closeNotice i) s = .next (ended s s) := by
  have hopen : exec (.openRequest i) s = execOpenRequest i s := rfl
  have hgrant : exec (.grantReq i) s = execGrantReq i s := rfl
  have hdata : exec (.msgData i) s = execMsgData i s := rfl
  have habort : exec (.abort i) s = execAbort i s := rfl
  have hclose : exec (.closeNotice i) s = execCloseNotice i s := rfl
  rw [hopen, hgrant, hdata, habort, hclose, execOpenRequest, execGrantReq, execMsgData, execAbort, execCloseNotice, atQueue_none h,
    atQueue_none h, atQueue_none h, atQueue_none h, atQueue_none h, done_eq]
  exact ⟨rfl, rfl, rfl, rfl, rfl⟩

/-- Settles O43: every message at a receive queue, branch by branch, and the grant of the request in front. -/
theorem messagesAtReceiveQueues : Obligations.MessagesAtReceiveQueues := by
  refine ⟨fun s u i ctx tag m h hup hbody => ?_, fun s u i seq len m h hup hbody => ?_, fun s sl r q rest hreqs hen htakes hgap hfree => ?_,
    fun s sl r q rest hreqs hen htakes => ?_, fun s sl r hno => ?_, fun s u i seq start so sk bs m y h hup hbody => ?_,
    fun s u i seq start so sk bs m h hup hbody => ?_, fun s u i seq m y h hup hbody hy => ?_, fun s u i seq m h hup hbody hy => ?_,
    fun s sl r y hen hy => exec_xferTimeout_some hen hy, fun s sl r hno => exec_xferTimeout_none hno, fun s u i m h hup hbody => ?_,
    fun s sl r pkg core chan => ⟨_, exec_senderLossReport s sl r pkg core chan, leaveRq_leaves rfl rfl _⟩, fun s i h => exec_atQueue_none h⟩
  · intro sl r
    rw [exec_openRequest h hup hbody]
    refine ⟨fun hroute => by rw [if_pos hroute], fun hroute hen => ?_, fun hroute hen hno => ?_, fun hroute hen hdyn hctx => ⟨fun hfull hnew => ?_, fun hroom => ?_⟩⟩
    · rw [if_neg (by rw [hroute]; decide), if_pos hen]
    · rw [if_neg (by rw [hroute]; decide), if_neg (by rw [hen]; decide), if_pos hno]
    all_goals
      have hctx' : ¬(u.fb (rRq sl r 0) 1 = false ∨ (m.ch.1 = ownPkg u ∧ ctx ≠ u.f (rRq sl r 0) 8 8)) := by
        rw [hdyn]
        rintro (hno | ⟨hpkg, hne⟩)
        · cases hno
        · exact hctx.elim (fun hn => hn hpkg) hne
    · rw [if_neg (by rw [hroute]; decide), if_neg (by rw [hen]; decide), if_neg hctx', if_pos ⟨hfull, hnew⟩]
    · rw [if_neg (by rw [hroute]; decide), if_neg (by rw [hen]; decide), if_neg hctx', if_neg]
      rintro ⟨hfull, hnew⟩
      exact hroom.elim (fun hlt => Nat.not_le.mpr hlt hfull) hnew
  · intro sl r v
    rw [exec_grantReq h hup hbody]
    refine ⟨fun hroute => by rw [if_pos hroute], fun hroute hen => ?_, fun hroute hen ht ha => ⟨fun hgone => ?_, fun hgone => ?_⟩, fun hroute hen hta => ?_⟩
    · rw [if_neg (by rw [hroute]; decide), if_pos hen]
    · rw [if_neg (by rw [hroute]; decide), if_neg (by rw [hen]; decide), if_pos ⟨ht, ha⟩, if_pos hgone]
    · rw [if_neg (by rw [hroute]; decide), if_neg (by rw [hen]; decide), if_pos ⟨ht, ha⟩, if_neg hgone]
    · rw [if_neg (by rw [hroute]; decide), if_neg (by rw [hen]; decide), if_neg]
      · rfl
      · rintro ⟨ht, ha⟩
        exact hta.elim (fun h1 => by rw [ht] at h1; cases h1) (fun h1 => by rw [ha] at h1; cases h1)
  · refine ⟨_, (exec_grantIssue s sl r).trans (by rw [serveRq_fits hreqs hen htakes hgap hfree]), ?_, ?_, ?_, fun hhere => ?_, fun a => ?_⟩
    · rw [ended_rq, granted_rq]
    · exact (congrArg (fld · 32 32) (ended_rd s _ _)).trans (granted_tail ..)
    · rw [ended_rq, granted_rq]
      rfl
    · rw [ended_net, granted_net s sl r hhere]
    · rw [ended_byte, State.byte, granted_mem, State.byte]
  · intro gap hgap hfree
    refine ⟨_, (exec_grantIssue s sl r).trans (by rw [serveRq_skips hreqs hen htakes hgap hfree]), ?_, ?_, fun hhere => ?_, fun a => ?_⟩
    · rw [ended_rq, granted_rq]
    · exact (congrArg (fld · 32 32) (ended_rd s _ _)).trans (granted_tail ..)
    · rw [ended_net, granted_net s sl r hhere]
      rfl
    · rw [ended_byte, State.byte, granted_mem, State.byte]
  · rw [exec_grantIssue, serveRq_waits hno]
  · intro sl r w hen hy
    rw [exec_msgData h hup hbody, if_neg (by rw [hen]; decide), hy]
  · intro sl r known hno
    have hlate : exec (.msgData i) s = .next (ended s (lateData u sl r seq m)) := by
      rw [exec_msgData h hup hbody]
      cases hen : rqEn u (slotOf s m.rq.2.1) m.rq.2.2
      · rw [if_pos rfl]
      · rw [if_neg (by decide), hno.resolve_left (by rw [hen]; decide)]
    rw [hlate]
    refine ⟨fun hhere => ?_, fun hfar hk => ?_, fun hfar hk => ?_⟩
    · rw [lateData, if_pos hhere]
    · rw [lateData, if_neg hfar, if_pos hk]
    · rw [lateData, if_neg hfar, if_neg (by rw [Bool.not_eq_true]; exact hk)]
  · rw [exec_abort h hup hbody, hy]
  · rw [exec_abort h hup hbody, hy]
  · obtain ⟨hmem, hcores⟩ := netTake_frame h
    exact ⟨_, exec_closeNotice h hup hbody, leaveRq_leaves hmem hcores _⟩

end Sys2Proof.Machine
end

section
/-! Supply events (R373, R374, R433), writes of HBM over several lines, the BAR2 aperture (R331), and site links (R31-R36). -/
namespace Sys2Proof.Machine

variable {s t : State}

/-! ### Supply and reference clock -/

/-- Settles O19: each event acts as its guard says. -/
theorem supplyEvents : Obligations.SupplyEvents := by
  have hrow {c : Prop} [Decidable c] {s x y : State} (h : c) : (done s (if c then x else y)) = .next (ended s x) := by rw [if_pos h, done_eq]
  have helse {c : Prop} [Decidable c] {s x y : State} (h : ¬c) : (done s (if c then x else y)) = .next (ended s y) := by rw [if_neg h, done_eq]
  refine ⟨fun s cmd status h => helse (by rw [h]; decide), fun s status h => hrow (by rw [h]; rfl), fun s status h hst => helse ?_,
    fun s mv hmv huv => helse ?_, fun s mv hmv huv => helse ?_, fun s mv hmv => helse (Nat.not_le.mpr hmv), fun s => done_eq .., fun s => done_eq ..⟩
  · rw [h]
    simpa using hst
  · rw [huv]
    simpa using hmv
  · rw [huv]
    simpa using hmv

/-! ### A write of HBM -/

/-- What a write of memory leaves as it is, beside the registers of the slices. -/
structure MemOnly (s t : State) : Prop where
  outbox : t.outbox = s.outbox
  raises : t.raises = s.raises
  cores : t.cores = s.cores
  evNo : t.evNo = s.evNo
  sites : t.sites = s.sites

theorem memOnly_refl (s : State) : MemOnly s s := ⟨rfl, rfl, rfl, rfl, rfl⟩

theorem MemOnly.addCtr {o n : Nat} (h : MemOnly s t) : MemOnly s (t.addCtr o n) := by
  obtain ⟨h1, h2, h3, h4, h5⟩ := h
  exact ⟨by rwa [State.addCtr_outbox], by rwa [State.addCtr_raises], by rwa [State.addCtr_cores], by rwa [State.addCtr_evNo],
    by rwa [State.addCtr_sites]⟩

theorem memKeeps_memOnly (s : State) : MemKeeps (MemOnly s) where
  counter _ _ _ _ h := h.addCtr
  poisonRead _ _ h := h.addCtr
  lines _ _ _ h := ⟨h.outbox, h.raises, h.cores, h.evNo, h.sites⟩
  wake t d n _ h := ⟨(wakeNow_outbox t d n).trans h.outbox, (wakeNow_raises t d n).trans h.raises, (wakeNow_cores t d n).trans h.cores,
    (wakeNow_evNo t d n).trans h.evNo, (wakeNow_sites t d n).trans h.sites⟩
  mem _ _ _ _ _ _ h := ⟨h.outbox, h.raises, h.cores, h.evNo, h.sites⟩

/-- A register that is none of a slice, a memory controller or a domain. -/
def NoSlice (r : Nat) : Prop := (∀ d o, o < 0x100 → r ≠ rSlice d o) ∧ (∀ d, r ≠ mcBase d + 0x38) ∧ ∀ d n, n ≤ 45 → r ≠ rPd d n

theorem memKeeps_rd {r : Nat} (hr : NoSlice r) (s : State) : MemKeeps (fun t => t.rd r = s.rd r) where
  counter _ d o ho h := (State.rd_addCtr_other _ _ _ _ (hr.1 d o ho)).trans h
  poisonRead _ d h := (State.rd_addCtr_other _ _ _ _ (hr.2.1 d)).trans h
  lines _ _ _ h := h
  wake t d n hn h := (wakeNow_rd_other (hr.2.2 d n hn) t).trans h
  mem _ _ _ _ _ _ h := h

section
variable {a : Nat} {bs : List Byte}

/-- A line whose page is in use takes its part of the bytes. -/
theorem hbmWriteLine_byte {l : Nat} (hret : isRetired s (64 * l) = false) (hint x : Nat) :
    (hbmWriteLine s hint a bs l).byte x = if x / 64 = l ∧ a ≤ x ∧ x < a + bs.length then bs.getD (x - a) 0#8 else s.byte x := by
  have hmem : (hbmWriteLine s hint a bs l).mem = memPutAll s.mem (max a (64 * l))
      ((bs.drop (max a (64 * l) - a)).take (min (a + bs.length) (64 * l + 64) - max a (64 * l))) := by
    unfold hbmWriteLine
    dsimp only
    rw [if_neg (by rw [hret]; decide)]
    split <;> exact congrArg (fun m => memPutAll m _ _) (sliceOnly_lineWrite ..).mem
  have hlen : ((bs.drop (max a (64 * l) - a)).take (min (a + bs.length) (64 * l + 64) - max a (64 * l))).length =
      min (a + bs.length) (64 * l + 64) - max a (64 * l) := by
    rw [List.length_take, List.length_drop]
    omega
  rw [State.byte, hmem]
  split
  next hin =>
    obtain ⟨i, hi⟩ : ∃ i, x = max a (64 * l) + i := ⟨x - max a (64 * l), by omega⟩
    rw [hi, look_memPutAll_in _ _ _ _ (by rw [hlen]; omega), List.getElem_take, List.getElem_drop, List.getD_eq_getElem _ _ (by omega)]
    congr 1
    omega
  next hout =>
    exact look_memPutAll_out _ _ _ _ (by rw [hlen]; omega)

/-- A byte string written to pages in use stands there, and no other byte changes. -/
theorem hbmWriteLines_byte {ls : List Nat} (htop : ∀ l ∈ ls, 64 * l < hbmTop) (hret : ∀ l ∈ ls, isRetired s (64 * l) = false) (hint x : Nat) :
    (ls.foldl (fun s l => hbmWriteLine s hint a bs l) s).byte x =
      if x / 64 ∈ ls ∧ a ≤ x ∧ x < a + bs.length then bs.getD (x - a) 0#8 else s.byte x := by
  induction ls generalizing s with
  | nil => simp
  | cons l ls ih =>
    have hsame : SameRetired s (hbmWriteLine s hint a bs l) := (memKeeps_sameRetired s).hbmWriteLine hint a bs l (sameRetired_refl s)
    have hret' : ∀ k ∈ ls, isRetired (hbmWriteLine s hint a bs l) (64 * k) = false := fun k hk => by
      rw [hsame _ (htop k (List.mem_cons_of_mem _ hk))]
      exact hret k (List.mem_cons_of_mem _ hk)
    rw [List.foldl_cons, ih (fun k hk => htop k (List.mem_cons_of_mem _ hk)) hret',
      hbmWriteLine_byte (hret l List.mem_cons_self)]
    simp only [List.mem_cons]
    by_cases hl : x / 64 = l <;> by_cases hls : x / 64 ∈ ls <;> by_cases hx : a ≤ x ∧ x < a + bs.length <;> simp [hl, hls, hx]

theorem mem_linesOf {n l : Nat} (hn : n ≠ 0) : l ∈ linesOf a n ↔ a / 64 ≤ l ∧ l ≤ (a + n - 1) / 64 := by
  have hmem (k m x : Nat) : x ∈ fromLen k m ↔ k ≤ x ∧ x < k + m := by
    induction m generalizing k with
    | zero => simp [fromLen]
    | succ m ih => simp only [fromLen, List.mem_cons, ih]; omega
  rw [linesOf, if_neg hn, hmem]
  omega

/-- Bytes below the end of HBM that are not poisoned lie in pages in use. -/
theorem lines_in_use {n : Nat} (hn : n ≠ 0) (htop : a + n ≤ hbmTop) (hp : poisoned s a n = false) :
    ∀ l ∈ linesOf a n, isRetired s (64 * l) = false := by
  intro l hl
  rw [poisoned, if_neg hn, if_pos (by omega), List.any_eq_false] at hp
  have hno := hp l hl
  rw [Bool.or_eq_true, not_or] at hno
  exact Bool.eq_false_iff.mpr hno.2

theorem hbmWrite_bytes (hint : Nat) (htop : a + bs.length ≤ hbmTop) (hp : poisoned s a bs.length = false) :
    (hbmWrite s hint a bs).bytes a bs.length = bs := by
  apply List.ext_getElem
  · rw [State.bytes_length]
  · intro i h1 h2
    have hn : bs.length ≠ 0 := by omega
    have hlines (l : Nat) (hl : l ∈ linesOf a bs.length) : 64 * l < hbmTop := by
      have := (mem_linesOf hn).mp hl
      omega
    rw [State.bytes_get, hbmWrite, hbmWriteLines_byte hlines (lines_in_use hn htop hp)]
    have hin : (a + i) / 64 ∈ linesOf a bs.length := (mem_linesOf hn).mpr (by omega)
    rw [if_pos ⟨hin, by omega, by omega⟩, Nat.add_sub_cancel_left, List.getD_eq_getElem _ _ h2]

/-- A run that is not written keeps its bytes. -/
theorem memBut_hbmWrite (hint : Nat) (s : State) (a : Nat) (bs : List Byte) : MemBut a bs.length s (hbmWrite s hint a bs) :=
  fun x hx => hbmWrite_byte_out s hint a bs x hx

end

/-! ### The BAR2 aperture (R331) -/

theorem filter_upto_eight {e : Nat} (he : e < 8) : (upto 8).filter (fun i => decide (i = e)) = [e] := by
  interval_cases e <;> rfl

theorem bar2Part_own {off n : Nat} (hfit : off % 2 ^ 33 + n ≤ 2 ^ 33) (hn : 0 < n) (s : State) (i : Nat) :
    ((bar2Part s off n i).2.1 ≠ 0 ↔ i = off / 2 ^ 33) ∧ (i = off / 2 ^ 33 → bar2Part s off n i = (0, n, bar2Addr s off)) := by
  have hdiv := Nat.div_add_mod off (2 ^ 33)
  have hmod := Nat.mod_lt off (show 0 < 2 ^ 33 by decide)
  refine ⟨?_, ?_⟩
  · unfold bar2Part
    dsimp only
    omega
  · rintro rfl
    have hlo : max off (2 ^ 33 * (off / 2 ^ 33)) = off := by omega
    have hhi : min (off + n) (2 ^ 33 * (off / 2 ^ 33 + 1)) = off + n := by omega
    unfold bar2Part
    dsimp only
    rw [hlo, hhi, Nat.sub_self, Nat.add_sub_cancel_left]

/-- An access within one eighth has one part. -/
theorem bar2Parts_own {off n : Nat} (hfit : off % 2 ^ 33 + n ≤ 2 ^ 33) (hn : 0 < n) (s : State) :
    bar2Parts s off n = [(0, n, bar2Addr s off)] := by
  have hsel : (upto 8).filter ((fun p : Nat × Nat × Option Nat => decide (p.2.1 ≠ 0)) ∘ bar2Part s off n) =
      (upto 8).filter (fun i => decide (i = off / 2 ^ 33)) :=
    List.filter_congr fun i _ => decide_eq_decide.mpr (bar2Part_own hfit hn s i).1
  unfold bar2Parts
  rw [List.filter_append, List.filter_map, hsel]
  by_cases he : off / 2 ^ 33 < 8
  · have hz : off + n - max off (2 ^ 36) = 0 := by omega
    rw [filter_upto_eight he, List.map_singleton, (bar2Part_own hfit hn s _).2 rfl, List.filter_singleton, hz]
    rfl
  · have hnone : (upto 8).filter (fun i => decide (i = off / 2 ^ 33)) = [] :=
      List.filter_eq_nil_iff.mpr fun i hi => by
        have := lt_of_mem_upto hi
        simp only [decide_eq_true_eq]
        omega
    have hoff : 2 ^ 36 ≤ off := by omega
    have haddr : bar2Addr s off = none := by
      unfold bar2Addr
      dsimp only
      rw [if_neg]
      simp only [Bool.and_eq_true, decide_eq_true_eq, not_and]
      omega
    rw [hnone, haddr, List.map_nil, List.nil_append, Nat.max_eq_left hoff, Nat.sub_self, Nat.add_sub_cancel_left, List.filter_singleton,
      decide_eq_true (Nat.pos_iff_ne_zero.mp hn)]
    rfl

theorem bar2Parts_empty (s : State) (off : Nat) : bar2Parts s off 0 = [] := by
  unfold bar2Parts
  refine List.filter_eq_nil_iff.mpr fun p hp => ?_
  simp only [ne_eq, decide_not, Bool.not_eq_true', decide_eq_false_iff_not, not_not]
  rcases List.mem_append.mp hp with hp | hp
  · obtain ⟨i, -, rfl⟩ := List.mem_map.mp hp
    unfold bar2Part
    dsimp only
    omega
  · rw [List.mem_singleton.mp hp]
    dsimp only
    omega

/-- What the slices do for a read of some parts. -/
def bar2Touched (s : State) (ps : List (Nat × Nat × Option Nat)) : State :=
  ps.foldl (fun s p => match p.2.2 with | none => s | some a => hbmTouch s hintNormal a p.2.1) s

/-- Whether a part of an access is poisoned. -/
def bar2Bad (s : State) (ps : List (Nat × Nat × Option Nat)) : Bool := ps.any (fun p => p.2.2.any (fun a => poisoned s a p.2.1))

theorem bar2Touched_sliceOnly (s : State) (ps : List (Nat × Nat × Option Nat)) : SliceOnly s (bar2Touched s ps) :=
  List.foldlRecOn _ _ (motive := SliceOnly s) (SliceOnly.refl s) fun t ht p _ => by
    split
    · exact ht
    · exact ht.trans (sliceOnly_hbmTouch ..)

theorem exec_bar2Read (s : State) (off n : Nat) (data : List Byte) : exec (.bar2Access .read off n data) s = .next (ended s
    ((bar2Touched s (bar2Parts s off n)).emit (.memData (bar2Bad s (bar2Parts s off n))
      (if bar2Bad s (bar2Parts s off n) then [] else (bar2Parts s off n).flatMap (bar2Bytes s))))) := done_eq ..

/-- A read answers with its bytes, or with poison, and changes no byte and no core. -/
theorem bar2Read_effect (s : State) (off n : Nat) (data : List Byte) :
    ∃ t, exec (.bar2Access .read off n data) s = .next t ∧ SameMem s t ∧ SameCores [] s t ∧
      t.outbox = s.outbox ++ [.memData (bar2Bad s (bar2Parts s off n))
        (if bar2Bad s (bar2Parts s off n) then [] else (bar2Parts s off n).flatMap (bar2Bytes s))] := by
  have hslice := bar2Touched_sliceOnly s (bar2Parts s off n)
  refine ⟨_, exec_bar2Read s off n data, fun a => ?_, fun k _ => ?_, ?_⟩
  · rw [ended_byte, State.emit_byte, byte_mem s hslice.mem]
  · rw [ended_core, State.emit_core, State.core, hslice.cores, State.core]
  · rw [ended_outbox, State.emit, hslice.outbox]

/-- The writes of the parts of an access. -/
def bar2Written (s : State) (ps : List (Nat × Nat × Option Nat)) (data : List Byte) : State :=
  ps.foldl (fun s p => match p.2.2 with | none => s | some a => hbmWrite s hintNormal a ((data.drop p.1).take p.2.1)) s

theorem exec_bar2Write (s : State) (off n : Nat) (data : List Byte) : exec (.bar2Access .write off n data) s =
    .next (ended s (bar2Written s (bar2Parts s off data.length) data)) := done_eq ..

theorem bar2Written_memOnly (s : State) (ps : List (Nat × Nat × Option Nat)) (data : List Byte) : MemOnly s (bar2Written s ps data) :=
  List.foldlRecOn _ _ (motive := MemOnly s) (memOnly_refl s) fun t ht p _ => by
    split
    · exact ht
    · exact (memKeeps_memOnly s).hbmWrite _ _ _ ht

theorem bar2Written_byte_out {ps : List (Nat × Nat × Option Nat)} {x : Nat} (h : ∀ p ∈ ps, ∀ a, p.2.2 = some a → x < a ∨ a + p.2.1 ≤ x)
    (s : State) (data : List Byte) : (bar2Written s ps data).byte x = s.byte x :=
  List.foldlRecOn _ _ (motive := fun t : State => t.byte x = s.byte x) rfl fun t ht p hp => by
    split
    next => exact ht
    next a ha =>
      refine (hbmWrite_byte_out _ _ _ _ _ ?_).trans ht
      have hlen : ((data.drop p.1).take p.2.1).length ≤ p.2.1 := List.length_take_le ..
      rcases h p hp a ha with hx | hx
      · exact .inl hx
      · exact .inr (by omega)

/-- A write answers nothing and changes no core. -/
theorem bar2Write_effect (s : State) (off : Nat) (data : List Byte) :
    (ended s (bar2Written s (bar2Parts s off data.length) data)).outbox = s.outbox ∧
      SameCores [] s (ended s (bar2Written s (bar2Parts s off data.length) data)) := by
  have h := bar2Written_memOnly s (bar2Parts s off data.length) data
  exact ⟨by rw [ended_outbox, h.outbox], fun k _ => by rw [ended_core, State.core, h.cores, State.core]⟩

theorem bar2Bad_own {off n : Nat} (hfit : off % 2 ^ 33 + n ≤ 2 ^ 33) (hn : 0 < n) (s : State) :
    bar2Bad s (bar2Parts s off n) = (bar2Addr s off).any (fun a => poisoned s a n) := by
  rw [bar2Parts_own hfit hn, bar2Bad, List.any_cons, List.any_nil, Bool.or_false]

theorem bar2_zeros (n : Nat) : (upto n).map (fun _ => 0#8) = List.replicate n 0#8 := by
  induction n with
  | zero => rfl
  | succ n ih => rw [upto, List.map_append, ih, List.replicate_succ']; rfl

/-- Settles O33: an access goes to the places its parts are mapped to, and nowhere else. -/
theorem apertureAccess : Obligations.ApertureAccess := by
  refine ⟨fun s off n a data ha hfit hn => ?_, fun s off n data ha hfit => ?_, fun s off a data ha hfit htop hp => ?_, fun s off n data ha hfit => ?_,
    fun s off n data hclean => ?_, fun s off n data hbad => ?_, fun s off n data => ?_, fun s off => ?_⟩
  · have hbad : bar2Bad s (bar2Parts s off n) = poisoned s a n := by rw [bar2Bad_own hfit hn, ha, Option.any_some]
    have heff := bar2Read_effect s off n data
    rw [hbad, bar2Parts_own hfit hn, ha] at heff
    simpa only [List.flatMap_cons, List.flatMap_nil, List.append_nil, bar2Bytes] using heff
  · have hnothing (ps : List (Nat × Nat × Option Nat)) (hps : ps = bar2Parts s off n) : bar2Touched s ps = s ∧ bar2Bad s ps = false ∧
        ps.flatMap (bar2Bytes s) = List.replicate n 0#8 := by
      subst hps
      rcases Nat.eq_zero_or_pos n with rfl | hn
      · rw [bar2Parts_empty]
        exact ⟨rfl, rfl, rfl⟩
      · rw [bar2Parts_own hfit hn, ha]
        refine ⟨rfl, rfl, ?_⟩
        rw [List.flatMap_cons, List.flatMap_nil, List.append_nil]
        exact bar2_zeros n
    obtain ⟨htouch, hbad, hbytes⟩ := hnothing _ rfl
    have hexec := exec_bar2Read s off n data
    rw [htouch, hbad, hbytes] at hexec
    exact ⟨_, hexec, rfl, fun r _ => rfl, fun x => rfl, fun k _ => rfl⟩
  · refine ⟨_, exec_bar2Write s off _ data, ?_, ?_, bar2Write_effect s off data⟩ <;>
      rcases Nat.eq_zero_or_pos data.length with hz | hn
    · rw [hz]
      exact (List.eq_nil_of_length_eq_zero hz).symm
    · rw [bar2Parts_own hfit hn, ha, ended_bytes, bar2Written, List.foldl_cons, List.foldl_nil]
      dsimp only
      rw [List.drop_zero, List.take_length]
      exact hbmWrite_bytes _ htop hp
    · rw [hz, bar2Parts_empty]
      exact fun x _ => rfl
    · rw [bar2Parts_own hfit hn, ha]
      intro x hx
      rw [ended_byte, bar2Written, List.foldl_cons, List.foldl_nil]
      dsimp only
      rw [List.drop_zero, List.take_length]
      exact hbmWrite_byte_out _ _ _ _ _ hx
  · have hnothing : bar2Written s (bar2Parts s off data.length) data = s := by
      rcases Nat.eq_zero_or_pos data.length with hz | hn
      · rw [hz, bar2Parts_empty]
        rfl
      · rw [bar2Parts_own hfit hn, ha]
        rfl
    have hexec := exec_bar2Write s off n data
    rw [hnothing] at hexec
    exact ⟨_, hexec, fun r _ => rfl, fun x => rfl, rfl, fun k _ => rfl⟩
  · have hbad : bar2Bad s (bar2Parts s off n) = false := by
      rw [bar2Bad, List.any_eq_false]
      intro p hp
      cases ha : p.2.2 with
      | none => simp
      | some a => simp [hclean p hp a ha]
    have heff := bar2Read_effect s off n data
    rwa [hbad] at heff
  · have hbad' : bar2Bad s (bar2Parts s off n) = true := by
      obtain ⟨p, hp, a, ha, hpois⟩ := hbad
      rw [bar2Bad, List.any_eq_true]
      exact ⟨p, hp, by rw [ha, Option.any_some, hpois]⟩
    have heff := bar2Read_effect s off n data
    rwa [hbad'] at heff
  · obtain ⟨hout, hcores⟩ := bar2Write_effect s off data
    exact ⟨_, exec_bar2Write s off n data, hout, hcores, fun x hx => bar2Written_byte_out hx s data⟩
  · unfold bar2Addr
    simp only [Bool.and_eq_true, decide_eq_true_eq]

end Sys2Proof.Machine
end

section
/-! Site links, doorbells, unmasked vectors and PCIe margining (R31-R36, R330, R417). -/
namespace Sys2Proof.Machine

variable {s t : State} {i w : Nat}

/-! ### A link that trains or narrows (R31) -/

theorem site_lt_of_up (h : siteUp s i = true) : i < 2 := by
  simp only [siteUp, Bool.and_eq_true, decide_eq_true_eq] at h
  exact h.1.1

theorem exec_siteLinkTrained (s : State) (i w : Nat) : exec (.siteLinkTrained i w) s = .next (ended s
    (if i < 2 ∧ sitePresent s i = true ∧ s.fb (siteBase i) 0 = true ∧ s.fb (siteBase i) 1 = false ∧ 1 ≤ w ∧ w ≤ 3 then
      (s.setB (siteBase i) 1 true).setF (siteBase i) 2 2 w else s)) := by
  show execSiteLinkTrained i w s = _
  rw [execSiteLinkTrained, done_eq]
  simp only [Bool.and_eq_true, Bool.not_eq_true', decide_eq_true_eq, and_assoc]

theorem exec_siteWidthDegrade (s : State) (i w : Nat) : exec (.siteWidthDegrade i w) s = .next (ended s
    (if siteUp s i = true ∧ 1 ≤ w ∧ w < s.f (siteBase i) 2 2 then s.setF (siteBase i) 2 2 w else s)) := by
  show execSiteWidthDegrade i w s = _
  rw [execSiteWidthDegrade, done_eq]
  simp only [Bool.and_eq_true, decide_eq_true_eq, and_assoc]

/-! ### A link that drops (R36) -/

theorem noSlice_siteBase (hi : i < 2) : NoSlice (siteBase i) := by
  refine ⟨fun d o _ => ?_, fun d => ?_, fun d n hn => ?_⟩
  · unfold siteBase rSlice sliceBase dieBase
    omega
  · unfold siteBase mcBase dieBase
    omega
  · unfold siteBase rPd powerBase dieBase
    split <;> omega

/-- The writes that a site holds, committed in order. -/
def committed (s : State) (i : Nat) : State :=
  ((s.site i).held.filter (fun r => r.op ≠ .read)).foldl (fun s r => match r.op with
    | .write => hbmWrite s hintNormal r.addr r.data
    | _ => s) s

theorem siteDown_eq (s : State) (i : Nat) : siteDown s i =
    (((committed s i).setSite i Site.reset).setF (siteBase i) 0 4 0).raise .siteDown i
      (packBits [(i, 0, 1), ((committed s i).f (siteBase i) 2 2, 1, 2)]) := rfl

theorem committed_keeps {P : State → Prop} (k : MemKeeps P) (h : P s) : P (committed s i) :=
  List.foldlRecOn _ _ (motive := P) h fun t ht r _ => by
    split
    · exact k.hbmWrite _ _ _ ht
    · exact ht

theorem committed_byte_out {x : Nat} (h : ∀ r ∈ (s.site i).held, r.op = .write → x < r.addr ∨ r.addr + r.data.length ≤ x) :
    (committed s i).byte x = s.byte x :=
  List.foldlRecOn _ _ (motive := fun t : State => t.byte x = s.byte x) rfl fun t ht r hr => by
    split
    next hop => exact (hbmWrite_byte_out _ _ _ _ _ (h r (List.mem_of_mem_filter hr) hop)).trans ht
    next => exact ht

theorem committed_one {r : SiteReq} (hheld : (s.site i).held = [r]) (hop : r.op = .write) :
    committed s i = hbmWrite s hintNormal r.addr r.data := by
  have hne : decide (r.op ≠ .read) = true := by
    rw [hop]
    decide
  unfold committed
  rw [hheld, List.filter_singleton, hne]
  dsimp only [cond_true, List.foldl_cons, List.foldl_nil]
  rw [hop]

theorem committed_width (hi : i < 2) (s : State) : (committed s i).f (siteBase i) 2 2 = s.f (siteBase i) 2 2 :=
  congrArg (fld · 2 2) (committed_keeps (memKeeps_rd (noSlice_siteBase hi) s) rfl)

theorem State.site_setSite (s : State) (i : Nat) (x : Site) : (s.setSite i x).site i = x := by
  simp [State.site, State.setSite]

theorem exec_siteLinkDrop (s : State) (i : Nat) : exec (.siteLinkDrop i) s = .next (ended s (if siteUp s i then siteDown s i else s)) := done_eq ..

theorem fld_bit_of_low {l : Nat} (hl : l < 4) (v : Word) : fld v l 1 = fld v 0 4 / 2 ^ l % 2 := by
  unfold fld bitsN
  interval_cases l <;> omega

/-- A dropped link is down and its site has no work left; of memory only what its held writes name can change. -/
theorem siteDown_effect (hi : i < 2) (s : State) :
    (siteDown s i).fb (siteBase i) 0 = false ∧ (siteDown s i).fb (siteBase i) 1 = false ∧ (siteDown s i).site i = Site.reset ∧
      (siteDown s i).raises = (s.raise .siteDown i (packBits [(i, 0, 1), (s.f (siteBase i) 2 2, 1, 2)])).raises ∧
      (siteDown s i).cores = s.cores ∧ (siteDown s i).outbox = s.outbox ∧ (siteDown s i).mem = (committed s i).mem := by
  have hm : MemOnly s (committed s i) := committed_keeps (memKeeps_memOnly s) (memOnly_refl s)
  have hw := committed_width hi s
  rw [siteDown_eq, hw]
  generalize committed s i = u at hm hw
  have hbit (l : Nat) (hl : l < 4) : ((u.setSite i Site.reset).setF (siteBase i) 0 4 0).fb (siteBase i) l = false := by
    have hfield := State.f_setF_same (u.setSite i Site.reset) (siteBase i) 0 4 0 (by decide)
    rw [State.fb, State.f, fld_bit_of_low hl, ← State.f, hfield, Nat.zero_mod, Nat.zero_div, Nat.zero_mod]
    rfl
  refine ⟨hbit 0 (by decide), hbit 1 (by decide), ?_, ?_, ?_, ?_, ?_⟩
  · have hsite : ((u.setSite i Site.reset).setF (siteBase i) 0 4 0).sites = (u.setSite i Site.reset).sites := State.setF_sites ..
    rw [State.site, State.raise_sites, hsite]
    exact State.site_setSite ..
  · rw [State.raise, State.setF_raises, State.setSite_raises, hm.raises, State.setF_evNo, State.setSite_evNo, hm.evNo]
    rfl
  · rw [State.raise_cores, State.setF_cores, State.setSite_cores, hm.cores]
  · rw [State.raise_outbox, State.setF_outbox, State.setSite_outbox, hm.outbox]
  · rw [State.raise_mem, State.setF_mem, State.setSite_mem]

/-! ### Doorbells (R34, R35) -/

theorem exec_siteDoorbell (s : State) (i : Nat) : exec (.siteDoorbell i) s = .next (ended s
    (if siteUp s i = false then s
    else if winOn s i 0 = false then siteViolation s i 0 1 (winSpan s i 0).1
    else if s.fb (rSiteWin i 0 0x10) 2 = false then siteViolation s i 1 1 (winSpan s i 0).1
    else ringSite s i)) := by
  show execSiteDoorbell i s = _
  rw [execSiteDoorbell, done_eq]
  simp only [Bool.not_eq_true']

/-- A doorbell write that the windows permit rings. -/
theorem exec_siteDoorbell_rings (hup : siteUp s i = true) (hwin : winOn s i 0 = true) (hw : s.fb (rSiteWin i 0 0x10) 2 = true) :
    exec (.siteDoorbell i) s = .next (ended s (ringSite s i)) := by
  rw [exec_siteDoorbell, if_neg (by rw [hup]; decide), if_neg (by rw [hwin]; decide), if_neg (by rw [hw]; decide)]

/-- The owner of a site's doorbell and its vector. -/
def siteOwner (s : State) (i : Nat) : Nat := s.f (siteBase i) 27 7
def siteVec (s : State) (i : Nat) : Nat := s.f (siteBase i) 16 11

theorem ringSite_counts (h : vfGone s (siteOwner s i) = true ∨ (siteOwner s i, siteVec s i) ∈ s.host.msixPend) :
    ringSite s i = s.addCtr (siteBase i + 8) 1 := by
  refine if_pos ?_
  rw [Bool.or_eq_true, List.contains_iff_mem]
  exact h

theorem ringSite_sends (hvf : vfGone s (siteOwner s i) = false) (hpend : (siteOwner s i, siteVec s i) ∉ s.host.msixPend) :
    ringSite s i = if (siteOwner s i, siteVec s i) ∈ s.host.msixOn then s.emit (.msix (siteOwner s i) (siteVec s i))
      else { s with host := { s.host with msixPend := s.host.msixPend ++ [(siteOwner s i, siteVec s i)] } } := by
  have hno : ¬(vfGone s (siteOwner s i) || s.host.msixPend.contains (siteOwner s i, siteVec s i)) = true := by
    rw [Bool.or_eq_true, List.contains_iff_mem, hvf]
    exact not_or.mpr ⟨Bool.false_ne_true, hpend⟩
  have hring : ringSite s i = s.sendMsix (siteOwner s i) (siteVec s i) := if_neg hno
  rw [vfGone] at hvf
  rw [hring, State.sendMsix, hvf, if_neg Bool.false_ne_true]
  simp only [List.contains_iff_mem, if_neg hpend]

/-- A doorbell write that raises no message is counted, and nothing else changes. -/
theorem counted_effect (s : State) (o : Nat) : (s.addCtr o 1).rd o = s.rd o + 1#64 ∧ SameRegs [o] s (s.addCtr o 1) ∧
    (s.addCtr o 1).outbox = s.outbox ∧ (s.addCtr o 1).host = s.host ∧ SameMem s (s.addCtr o 1) ∧ SameCores [] s (s.addCtr o 1) := by
  refine ⟨State.rd_addCtr_same .., fun r hr => ?_, State.addCtr_outbox .., State.addCtr_host .., fun a => by simp, fun k _ => by simp⟩
  have hne : r ≠ o := by simpa using hr
  rw [State.rd_addCtr_other _ _ _ _ hne]

/-! ### Vectors and margining (R330, R417) -/

/-- The state once a vector is unmasked, before what was pending is sent. -/
def unmasked (s : State) (f v : Nat) : State :=
  (vfSeen s f).modHost (fun h => { h with
    msixOn := if (f, v) ∈ h.msixOn then h.msixOn else h.msixOn ++ [(f, v)], msixPend := h.msixPend.filter (fun p => p ≠ (f, v)) })

theorem exec_msixVectorUnmask (s : State) (f v : Nat) : exec (.msixVectorUnmask f v) s = .next (ended s
    (if 64 < f ∨ lastVec f < v then s
    else if (f, v) ∈ s.host.msixPend then (unmasked s f v).emit (.msix f v) else unmasked s f v)) := by
  have hlast : (if f = 0 then 2048 else if f = 64 then 64 else 32) ≤ v ↔ lastVec f < v := by
    unfold lastVec
    split_ifs <;> omega
  show execMsixVectorUnmask f v s = _
  rw [execMsixVectorUnmask, done_eq]
  simp only [Bool.or_eq_true, decide_eq_true_eq, List.contains_iff_mem, hlast]
  rfl

theorem vfSeen_frame (s : State) (f : Nat) : (vfSeen s f).outbox = s.outbox ∧ (vfSeen s f).regs = s.regs ∧ (vfSeen s f).mem = s.mem ∧
    (vfSeen s f).cores = s.cores := by
  unfold vfSeen
  split
  · exact ⟨rfl, rfl, rfl, rfl⟩
  · exact ⟨rfl, rfl, rfl, rfl⟩

theorem unmasked_effect (s : State) (f v : Nat) : (f, v) ∈ (unmasked s f v).host.msixOn ∧ (f, v) ∉ (unmasked s f v).host.msixPend ∧
    (unmasked s f v).outbox = s.outbox ∧ (unmasked s f v).regs = s.regs ∧ (unmasked s f v).mem = s.mem ∧ (unmasked s f v).cores = s.cores := by
  have hon : (unmasked s f v).host.msixOn =
      if (f, v) ∈ (vfSeen s f).host.msixOn then (vfSeen s f).host.msixOn else (vfSeen s f).host.msixOn ++ [(f, v)] := rfl
  have hpend : (unmasked s f v).host.msixPend = (vfSeen s f).host.msixPend.filter (fun p => p ≠ (f, v)) := rfl
  refine ⟨?_, ?_, vfSeen_frame s f⟩
  · rw [hon]
    split
    next h => exact h
    next => simp
  · rw [hpend]
    simp

theorem exec_pcieMarginCommand (s : State) (lane kind off errors : Nat) : exec (.pcieMarginCommand lane kind off errors) s = .next (ended s
    (if 16 ≤ lane ∨ 1 < kind ∨ (if kind = 0 then 14 else 48) < off ∨ s.f 0x600 4 3 < 5 then s else s.emit (.marginResp lane errors))) := by
  show execPcieMarginCommand lane kind off errors s = _
  rw [execPcieMarginCommand, done_eq]
  simp only [Bool.or_eq_true, decide_eq_true_eq, or_assoc]

/-- Settles O32: links come up, narrow and drop; doorbells ring, are counted or refused; vectors send what was pending. -/
theorem siteLinksAndDoorbells : Obligations.SiteLinksAndDoorbells := by
  refine ⟨fun s i w hi hpres hen hdown hlo hhi => ?_, fun s i w hno => ?_, fun s i w hup hlo hhi => ?_, fun s i w hno => ?_, fun s i hup => ?_,
    fun s i hup => ?_, fun s i hup hwin hw hvf hpend => ?_, fun s i hup hwin hw hnone => ?_, fun s i hup hno => ?_, fun s i hup => ?_,
    fun s f v hf hv => ?_, fun s f v hno => ?_, fun s lane kind off errors hl hk ho hg => ?_, fun s lane kind off errors hno => ?_⟩
  · refine ⟨_, by rw [exec_siteLinkTrained, if_pos ⟨hi, hpres, hen, hdown, hlo, hhi⟩], ?_, ?_, fun r hr => ?_, fun a => by simp, fun k _ => by simp⟩
    · rw [ended_fb, State.fb_setF_apart _ _ _ _ _ _ (by decide) (.inl (by decide))]
      simp [State.fb]
    · rw [ended_f, State.f_setF_same _ _ _ _ _ (by decide)]
      exact Nat.mod_eq_of_lt (by omega)
    · have hne : r ≠ siteBase i := by simpa using hr
      simp [hne]
  · rw [exec_siteLinkTrained, if_neg]
    rintro ⟨-, hpres, hen, hdown, hlo, hhi⟩
    rw [hpres, hen, hdown] at hno
    simp only [Bool.true_eq_false, Bool.false_eq_true, false_or] at hno
    omega
  · have hlt : s.f (siteBase i) 2 2 < 2 ^ 2 := fld_lt ..
    refine ⟨_, by rw [exec_siteWidthDegrade, if_pos ⟨hup, hlo, hhi⟩], ?_, ?_, fun r hr => ?_, fun a => by simp, fun k _ => by simp⟩
    · rw [ended_f, State.f_setF_same _ _ _ _ _ (by decide)]
      exact Nat.mod_eq_of_lt (by omega)
    · rw [ended_fb, State.fb_setF_apart _ _ _ _ _ _ (by decide) (.inl (by decide))]
      rw [siteUp, Bool.and_eq_true] at hup
      exact hup.2
    · have hne : r ≠ siteBase i := by simpa using hr
      simp [hne]
  · rw [exec_siteWidthDegrade, if_neg]
    rintro ⟨hup, hlo, hhi⟩
    rw [hup] at hno
    simp only [Bool.true_eq_false, false_or] at hno
    omega
  · obtain ⟨hen, hlink, hsite, hraises, hcores, hout, hmem⟩ := siteDown_effect (site_lt_of_up hup) s
    have hexec : exec (.siteLinkDrop i) s = .next (ended s (siteDown s i)) := by rw [exec_siteLinkDrop, if_pos hup]
    refine ⟨_, hexec, hen, hlink, hsite, hraises, fun k _ => ?_, hout, fun x hx => ?_, fun r hheld hop hp htop => ?_⟩
    · rw [ended_core, State.core, hcores, State.core]
    · rw [ended_byte, byte_mem (committed s i) hmem]
      exact committed_byte_out hx
    · rw [ended_bytes, bytes_mem (committed s i) hmem, committed_one hheld hop]
      exact hbmWrite_bytes _ htop hp
  · rw [exec_siteLinkDrop, if_neg (by rw [hup]; decide)]
  · have hring := ringSite_sends (i := i) hvf hpend
    refine ⟨_, exec_siteDoorbell_rings hup hwin hw, ?_⟩
    rw [hring]
    refine ⟨fun r _ => ?_, fun a => ?_, fun k _ => ?_, fun hon => ?_, fun hoff => ?_⟩
    · split <;> rfl
    · split <;> rfl
    · split <;> rfl
    · rw [if_pos (by exact hon)]
      exact ⟨rfl, rfl⟩
    · rw [if_neg (by exact hoff)]
      exact ⟨rfl, rfl⟩
  · have hring := ringSite_counts (i := i) hnone
    refine ⟨_, exec_siteDoorbell_rings hup hwin hw, ?_⟩
    rw [hring]
    exact counted_effect s _
  · obtain ⟨hrd, hregs, hout, hhost, hmem, hcores⟩ := counted_effect s (siteBase i + 8)
    have hviol : exec (.siteDoorbell i) s = .next (ended s (siteViolation s i (if winOn s i 0 then 1 else 0) 1 (winSpan s i 0).1)) := by
      rw [exec_siteDoorbell, if_neg (by rw [hup]; decide)]
      cases hwin : winOn s i 0
      · rw [if_pos rfl]
        rfl
      · rw [if_neg (by decide), if_pos (hno.resolve_left (by rw [hwin]; decide))]
        rfl
    refine ⟨_, hviol, hrd, hregs, hout, hhost, hmem, hcores, ?_⟩
    rw [ended_raises, siteViolation, State.raise, State.addCtr_raises, State.addCtr_evNo]
    rfl
  · rw [exec_siteDoorbell, if_pos hup]
  · obtain ⟨hon, hpend, hout, hregs, hmem, hcores⟩ := unmasked_effect s f v
    rw [exec_msixVectorUnmask, if_neg (by omega)]
    refine ⟨_, rfl, ?_⟩
    by_cases hwas : (f, v) ∈ s.host.msixPend
    · rw [if_pos hwas, if_pos hwas]
      refine ⟨hon, hpend, ?_, fun r _ => rd_of_regs hregs r, byte_mem s hmem, fun k _ => ?_⟩
      · rw [ended_outbox, State.emit, hout]
      · rw [ended_core, State.emit_core, State.core, hcores, State.core]
    · rw [if_neg hwas, if_neg hwas, List.append_nil]
      exact ⟨hon, hpend, hout, fun r _ => rd_of_regs hregs r, byte_mem s hmem, fun k _ => by rw [ended_core, State.core, hcores, State.core]⟩
  · rw [exec_msixVectorUnmask, if_pos hno]
  · rw [exec_pcieMarginCommand, if_neg (by omega)]
  · rw [exec_pcieMarginCommand, if_pos hno]

end Sys2Proof.Machine
end

section
/-! ## What the commands of links, pins and meters leave alone -/

namespace Sys2Proof.Machine

/-- The work from `s` to `t` is of links, pins and meters only: it may move registers, the ports, signals and the time base, and nothing that
holds memory, work or the dies' own state. -/
structure LinkFrame (s t : State) : Prop where
  mem : t.mem = s.mem
  cores : t.cores = s.cores
  host : t.host = s.host
  cinch : t.cinch = s.cinch
  shadow : t.shadow = s.shadow
  net : t.net = s.net
  die : ∀ d, d < 8 → t.die d = s.die d
  sites : t.sites = s.sites
  lines : t.lines = s.lines
  lr : t.lr = s.lr

/-- Sending a flit updates the port, counts the flit and puts it on the wire, and does nothing else. -/
theorem sendFlit_shape (s : State) (p : Nat) (f : Option (Nat × Bool × WFlit)) :
    ∃ x fl, sendFlit s p f = ((s.setWport p x).addCtr (wenBase p + 0x80) 1).emit (.wenFlit p fl) := by
  unfold sendFlit
  exact ⟨_, _, rfl⟩

namespace LinkFrame

variable {s t u : State}

theorem refl (s : State) : LinkFrame s s := ⟨rfl, rfl, rfl, rfl, rfl, rfl, fun _ _ => rfl, rfl, rfl, rfl⟩

theorem trans (h : LinkFrame s t) (g : LinkFrame t u) : LinkFrame s u :=
  ⟨g.mem.trans h.mem, g.cores.trans h.cores, g.host.trans h.host, g.cinch.trans h.cinch, g.shadow.trans h.shadow, g.net.trans h.net,
    fun d hd => (g.die d hd).trans (h.die d hd), g.sites.trans h.sites, g.lines.trans h.lines, g.lr.trans h.lr⟩

theorem ite {c : Prop} [Decidable c] (h : c → LinkFrame s t) (g : ¬ c → LinkFrame s u) : LinkFrame s (if c then t else u) := by
  split
  · exact h ‹_›
  · exact g ‹_›

theorem foldl {α : Type} (f : State → α → State) (hf : ∀ s x, LinkFrame s (f s x)) : ∀ (l : List α) (s : State), LinkFrame s (l.foldl f s)
  | [], s => refl s
  | x :: l, s => (hf s x).trans (foldl f hf l (f s x))

theorem setF (s : State) (o l w x : Nat) : LinkFrame s (s.setF o l w x) := ⟨rfl, rfl, rfl, rfl, rfl, rfl, fun _ _ => rfl, rfl, rfl, rfl⟩
theorem setB (s : State) (o l : Nat) (b : Bool) : LinkFrame s (s.setB o l b) := ⟨rfl, rfl, rfl, rfl, rfl, rfl, fun _ _ => rfl, rfl, rfl, rfl⟩
theorem addCtr (s : State) (o n : Nat) : LinkFrame s (s.addCtr o n) := ⟨rfl, rfl, rfl, rfl, rfl, rfl, fun _ _ => rfl, rfl, rfl, rfl⟩
theorem emit (s : State) (g : Signal) : LinkFrame s (s.emit g) := ⟨rfl, rfl, rfl, rfl, rfl, rfl, fun _ _ => rfl, rfl, rfl, rfl⟩
theorem raise (s : State) (c : FaultSrc) (i y : Nat) : LinkFrame s (s.raise c i y) :=
  ⟨rfl, rfl, rfl, rfl, rfl, rfl, fun _ _ => rfl, rfl, rfl, rfl⟩
theorem modGend (s : State) (e : Nat) (f : GEnd → GEnd) : LinkFrame s (s.modGend e f) :=
  ⟨rfl, rfl, rfl, rfl, rfl, rfl, fun _ _ => rfl, rfl, rfl, rfl⟩
theorem setWport (s : State) (p : Nat) (x : WPort) : LinkFrame s (s.setWport p x) :=
  ⟨rfl, rfl, rfl, rfl, rfl, rfl, fun _ _ => rfl, rfl, rfl, rfl⟩
theorem modWport (s : State) (p : Nat) (f : WPort → WPort) : LinkFrame s (s.modWport p f) := setWport s p _
theorem ended (s t : State) : LinkFrame t (ended s t) := ⟨rfl, rfl, rfl, rfl, rfl, rfl, fun _ _ => rfl, rfl, rfl, rfl⟩

/-- A register write through the record, with the parts it may replace left free. -/
theorem with_wen (s : State) (w : _) : LinkFrame s { s with wen := w } := ⟨rfl, rfl, rfl, rfl, rfl, rfl, fun _ _ => rfl, rfl, rfl, rfl⟩
theorem with_boot (s : State) (b : _) : LinkFrame s { s with boot := b } := ⟨rfl, rfl, rfl, rfl, rfl, rfl, fun _ _ => rfl, rfl, rfl, rfl⟩
theorem with_time (s : State) (x : _) : LinkFrame s { s with time := x } := ⟨rfl, rfl, rfl, rfl, rfl, rfl, fun _ _ => rfl, rfl, rfl, rfl⟩
theorem with_now (s : State) (n : Nat) : LinkFrame s { s with now := n } := ⟨rfl, rfl, rfl, rfl, rfl, rfl, fun _ _ => rfl, rfl, rfl, rfl⟩
theorem with_freeCtr (s : State) (n : Nat) : LinkFrame s { s with freeCtr := n } := ⟨rfl, rfl, rfl, rfl, rfl, rfl, fun _ _ => rfl, rfl, rfl, rfl⟩

/-! ### Girth -/

theorem gRaise (s : State) (e : Nat) (src : FaultSrc) (i : Nat) (l : List Nat) : LinkFrame s (gRaise s e src i l) := by
  unfold Machine.gRaise
  exact ite (fun _ => (raise ..).trans (raise ..)) (fun _ => raise ..)

theorem marginHit (s : State) (e : Nat) (hit : Nat → Nat → Bool) : LinkFrame s (marginHit s e hit) := by
  unfold Machine.marginHit
  exact ite (fun _ => (setF ..).trans (raise ..)) (fun _ => refl s)

theorem gOffer (s : State) (loc : Nat) (f : GFlit) : LinkFrame s (gOffer s loc f) := by
  unfold Machine.gOffer
  exact modGend ..

theorem gRelease (s : State) (e : Nat) (old : List GFlit) (kind : Nat) : LinkFrame s (gRelease s e old kind) := by
  unfold Machine.gRelease
  refine LinkFrame.trans ?_ (foldl _ (fun _ _ => gOffer ..) _ _)
  exact ((setB ..).trans (modGend ..)).trans (modGend ..)

/-! ### Wenlyn -/

theorem countVc (s : State) (vc n : Nat) (tx : Bool) : LinkFrame s (countVc s vc n tx) := by
  unfold Machine.countVc
  exact ite (fun _ => addCtr ..) (fun _ => ite (fun _ => addCtr ..) (fun _ => refl s))

theorem markSent (s : State) (p : Nat) (f : WFlit) : LinkFrame s (markSent s p f) := by
  unfold Machine.markSent
  split
  · exact with_wen ..
  · exact refl s

theorem sendFlit (s : State) (p : Nat) (f : Option (Nat × Bool × WFlit)) : LinkFrame s (sendFlit s p f) := by
  obtain ⟨x, fl, h⟩ := sendFlit_shape s p f
  rw [h]
  exact ((setWport ..).trans (addCtr ..)).trans (emit ..)

theorem transmit (s : State) (p : Nat) : LinkFrame s (transmit s p) := by
  unfold Machine.transmit
  split
  · dsimp only
    refine LinkFrame.trans ?_ (countVc ..)
    refine LinkFrame.trans ?_ (addCtr ..)
    refine LinkFrame.trans ?_ (modWport ..)
    exact sendFlit ..
  · split
    · exact refl s
    · dsimp only
      refine LinkFrame.trans ?_ (countVc ..)
      refine LinkFrame.trans ?_ (modWport ..)
      refine LinkFrame.trans ?_ (sendFlit ..)
      exact (markSent ..).trans (ite (fun _ => sendFlit ..) (fun _ => refl _))
  · exact sendFlit ..
  · exact refl s

theorem spdmSend (s : State) (p ver code : Nat) (stated : List Byte) : LinkFrame s (spdmSend s p ver code stated) :=
  ((modWport ..).trans (emit ..)).trans (with_freeCtr ..)

theorem spdmAnswer (s : State) (p ver code : Nat) (stated : List Byte) : LinkFrame s (spdmAnswer s p ver code stated) := by
  unfold Machine.spdmAnswer
  exact ite (fun _ => refl s) (fun _ => (spdmSend ..).trans (modWport ..))

/-! ### Awl -/

theorem wakeNow_die_of_ne (s : State) (d n k : Nat) (h : k ≠ d) : (wakeNow s d n).die k = s.die k := by
  unfold wakeNow
  split
  · rfl
  · rw [State.die_modDie, if_neg h, State.satF_die, State.setF_die]

theorem wakeNow_hub (s : State) (n : Nat) : LinkFrame s (wakeNow s 8 n) :=
  ⟨wakeNow_mem .., wakeNow_cores .., wakeNow_host .., wakeNow_cinch .., wakeNow_shadow .., wakeNow_net ..,
    fun d hd => wakeNow_die_of_ne _ _ _ _ (by omega), wakeNow_sites .., wakeNow_lines .., wakeNow_lr ..⟩

theorem setAwlp (s : State) (p : Nat) (x : AwlP) : LinkFrame s (s.setAwlp p x) :=
  (wakeNow_hub s 2).trans ⟨rfl, rfl, rfl, rfl, rfl, rfl, fun _ _ => rfl, rfl, rfl, rfl⟩

/-! ### The statement's clauses, and a command that does work of this kind -/

theorem clauses (h : LinkFrame s t) :
    SameMem s t ∧ SameCores [] s t ∧ t.host = s.host ∧ t.cinch = s.cinch ∧ t.shadow = s.shadow ∧ t.net = s.net ∧
      (∀ d, d < 8 → t.die d = s.die d) ∧ t.sites = s.sites ∧ t.lines = s.lines ∧ t.lr = s.lr :=
  ⟨fun a => byte_mem s h.mem a, fun k _ => by rw [State.core, State.core, h.cores], h.host, h.cinch, h.shadow, h.net, h.die, h.sites,
    h.lines, h.lr⟩

theorem of_done (h : LinkFrame s u) (e : done s u = .next t) : LinkFrame s t := by
  rw [done_eq] at e
  obtain rfl := Host.Outcome.next.inj e
  exact h.trans (ended s u)

/-! ### Girth and sites -/

theorem of_exec_girthAckTimeout {e : Nat} (h : execGirthAckTimeout e s = .next t) : LinkFrame s t := by
  unfold execGirthAckTimeout at h
  exact of_done (.ite (fun _ => modGend ..) fun _ => refl s) h

theorem of_exec_girthLaneFail {e g lane : Nat} (h : execGirthLaneFail e g lane s = .next t) : LinkFrame s t := by
  unfold execGirthLaneFail at h
  exact of_done (.ite (fun _ => refl s) fun _ => modGend ..) h

theorem of_exec_laneSpared {e : Nat} (h : execLaneSpared e s = .next t) : LinkFrame s t := by
  unfold execLaneSpared at h
  refine of_done ?_ h
  split
  · exact refl s
  · exact .ite (fun _ => refl s) fun _ => (((modGend ..).trans (marginHit ..)).trans (setF ..)).trans (gRaise ..)

theorem of_exec_girthRerouteRelease {e : Nat} (h : execGirthRerouteRelease e s = .next t) : LinkFrame s t := by
  unfold execGirthRerouteRelease at h
  refine of_done (.ite (fun _ => refl s) fun _ => .ite (fun _ => ?_) fun _ => .ite (fun _ => gRelease ..) fun _ => refl s) h
  exact (modGend ..).trans (gRelease ..)

theorem of_exec_siteWidthDegrade {i w : Nat} (h : execSiteWidthDegrade i w s = .next t) : LinkFrame s t := by
  unfold execSiteWidthDegrade at h
  exact of_done (.ite (fun _ => setF ..) fun _ => refl s) h

theorem of_exec_siteLinkTrained {i w : Nat} (h : execSiteLinkTrained i w s = .next t) : LinkFrame s t := by
  unfold execSiteLinkTrained at h
  exact of_done (.ite (fun _ => (setB ..).trans (setF ..)) fun _ => refl s) h

/-! ### Wenlyn -/

theorem of_exec_trainTimeout {p n : Nat} (h : execTrainTimeout p n s = .next t) : LinkFrame s t := by
  unfold execTrainTimeout at h
  exact of_done (.ite (fun _ => refl s) fun _ => ((setF ..).trans (raise ..)).trans (modWport ..)) h

theorem of_exec_trainRetry {p : Nat} (h : execTrainRetry p s = .next t) : LinkFrame s t := by
  unfold execTrainRetry at h
  exact of_done (.ite (fun _ => modWport ..) fun _ => refl s) h

theorem of_exec_wenlynTransmit {p : Nat} (h : execWenlynTransmit p s = .next t) : LinkFrame s t := by
  unfold execWenlynTransmit at h
  exact of_done (.ite (fun _ => transmit ..) fun _ => refl s) h

theorem of_exec_wenlynAckTimeout {p : Nat} (h : execWenlynAckTimeout p s = .next t) : LinkFrame s t := by
  unfold execWenlynAckTimeout at h
  exact of_done (.ite (fun _ => refl s) fun _ => modWport ..) h

theorem of_exec_ackCoalesceTimeout {p : Nat} (h : execAckCoalesceTimeout p s = .next t) : LinkFrame s t := by
  unfold execAckCoalesceTimeout at h
  exact of_done (.ite (fun _ => sendFlit ..) fun _ => refl s) h

theorem of_exec_keepaliveTimeout {p : Nat} (h : execKeepaliveTimeout p s = .next t) : LinkFrame s t := by
  unfold execKeepaliveTimeout at h
  exact of_done (.ite (fun _ => (modWport ..).trans (sendFlit ..)) fun _ => refl s) h

theorem of_exec_spdmGetMeasurements {p : Nat} {resp : Option (List Byte)} (h : execSpdmGetMeasurements p resp s = .next t) :
    LinkFrame s t := by
  unfold execSpdmGetMeasurements at h
  refine of_done ?_ h
  cases resp with
  | none => exact spdmAnswer ..
  | some m => exact .ite (fun _ => refl s) fun _ => (modWport ..).trans (with_wen ..)

/-! ### Supply, clocks and energy -/

theorem of_exec_psuTimeout {x y : Nat} (h : execPsuTimeout x y s = .next t) : LinkFrame s t := by
  unfold execPsuTimeout at h
  exact of_done (.ite (fun _ => refl s) fun _ => (with_boot ..).trans (raise ..)) h

theorem of_exec_pmbAlert {x : Nat} (h : execPmbAlert x s = .next t) : LinkFrame s t := by
  unfold execPmbAlert at h
  exact of_done (.ite (fun _ => refl s) fun _ => emit ..) h

theorem of_exec_inputOv {mv : Nat} (h : execInputOv mv s = .next t) : LinkFrame s t := by
  unfold execInputOv at h
  exact of_done (.ite (fun _ => refl s) fun _ => (setF ..).trans (raise ..)) h

theorem of_exec_ivrFault {d r mv : Nat} (h : execIvrFault d r mv s = .next t) : LinkFrame s t := by
  unfold execIvrFault at h
  exact of_done (.ite (fun _ => refl s) fun _ => raise ..) h

theorem of_exec_energyUpdate {d : Nat} {nj : List Nat} {o p : Nat} (h : execEnergyUpdate d nj o p s = .next t) : LinkFrame s t := by
  unfold execEnergyUpdate at h
  refine of_done (.ite (fun _ => refl s) fun _ => ?_) h
  exact ((foldl _ (fun _ _ => addCtr ..) _ _).trans (addCtr ..)).trans (addCtr ..)

/-! ### Measurement and time -/

theorem of_exec_prbsLock {p l : Nat} (h : execPrbsLock p l s = .next t) : LinkFrame s t := by
  unfold execPrbsLock at h
  exact of_done (.ite (fun _ => refl s) fun _ => setAwlp ..) h

theorem of_exec_prbsUnlock {p l b e : Nat} (h : execPrbsUnlock p l b e s = .next t) : LinkFrame s t := by
  unfold execPrbsUnlock prbsCount at h
  exact of_done (.ite (fun _ => refl s) fun _ => (((addCtr ..).trans (addCtr ..)).trans (setAwlp ..)).trans (raise ..)) h

theorem of_exec_injectionEnd {p : Nat} (h : execInjectionEnd p s = .next t) : LinkFrame s t := by
  unfold execInjectionEnd at h
  exact of_done (.ite (fun _ => modWport ..) fun _ => refl s) h

theorem of_exec_marginRunEnd {e b : Nat} {a : Bool} (h : execMarginRunEnd e b a s = .next t) : LinkFrame s t := by
  unfold execMarginRunEnd at h
  refine of_done (.ite (fun _ => refl s) fun _ => .ite (fun _ => marginHit ..) fun _ => ?_) h
  exact ((setF ..).trans (setF ..)).trans (setF ..)

theorem of_exec_pcieMarginCommand {l k o e : Nat} (h : execPcieMarginCommand l k o e s = .next t) : LinkFrame s t := by
  unfold execPcieMarginCommand at h
  exact of_done (.ite (fun _ => refl s) fun _ => emit ..) h

theorem of_exec_ppsEdge (h : execPpsEdge s = .next t) : LinkFrame s t := by
  unfold execPpsEdge at h
  refine of_done ?_ h
  generalize hu : (if s.fb rTbCtl 0 then _ else s : State) = u
  have hsu : LinkFrame s u := by
    rw [← hu]
    exact ite (fun _ => ((setF ..).trans (setB ..)).trans (with_time ..)) fun _ => refl s
  split
  · exact hsu
  · exact hsu.trans (ite (fun _ => with_time ..) fun _ => (with_time ..).trans (with_now ..))

theorem of_exec_ppsLost (h : execPpsLost s = .next t) : LinkFrame s t := by
  unfold execPpsLost at h
  exact of_done (.ite (fun _ => refl s) fun _ => ((setB ..).trans (with_time ..)).trans (raise ..)) h

/-- Every command of links, pins and meters works on those alone. -/
theorem of_linkOnly {c : Instr} (hc : linkOnly c = true) (h : exec c s = .next t) : LinkFrame s t := by
  unfold linkOnly at hc
  split at hc
  case h_1 => exact of_exec_girthAckTimeout h
  case h_2 => exact of_exec_girthLaneFail h
  case h_3 => exact of_exec_laneSpared h
  case h_4 => exact of_exec_girthRerouteRelease h
  case h_5 => exact of_exec_siteWidthDegrade h
  case h_6 => exact of_exec_siteLinkTrained h
  case h_7 => exact of_exec_trainTimeout h
  case h_8 => exact of_exec_trainRetry h
  case h_9 => exact of_exec_wenlynTransmit h
  case h_10 => exact of_exec_wenlynAckTimeout h
  case h_11 => exact of_exec_ackCoalesceTimeout h
  case h_12 => exact of_exec_keepaliveTimeout h
  case h_13 => exact of_done (spdmAnswer ..) h
  case h_14 => exact of_done (spdmAnswer ..) h
  case h_15 => exact of_done (spdmAnswer ..) h
  case h_16 => exact of_done (spdmAnswer ..) h
  case h_17 => exact of_done (spdmAnswer ..) h
  case h_18 => exact of_exec_spdmGetMeasurements h
  case h_19 => exact of_exec_psuTimeout h
  case h_20 => exact of_exec_pmbAlert h
  case h_21 => exact of_exec_inputOv h
  case h_22 => exact of_exec_ivrFault h
  case h_23 => exact of_exec_energyUpdate h
  case h_24 => exact of_done (with_boot ..) h
  case h_25 => exact of_done (with_boot ..) h
  case h_26 => exact of_exec_prbsLock h
  case h_27 => exact of_exec_prbsUnlock h
  case h_28 => exact of_exec_injectionEnd h
  case h_29 => exact of_exec_marginRunEnd h
  case h_30 => exact of_exec_pcieMarginCommand h
  case h_31 => exact of_exec_ppsEdge h
  case h_32 => exact of_exec_ppsLost h
  case h_33 => exact of_done (emit ..) h
  case h_34 => exact absurd hc (by decide)

end LinkFrame

/-- Settles O59: each of the commands changes ports, registers, signals and the time base alone. -/
theorem linkCommandsLeaveTheRest : Obligations.LinkCommandsLeaveTheRest := by
  unfold Obligations.LinkCommandsLeaveTheRest
  exact fun c s t hc h => (LinkFrame.of_linkOnly hc h).clauses

end Sys2Proof.Machine
end

section
/-! ## Exact magnitudes: powers of two, logarithms and rounding (R42, R52, R54) -/

namespace Sys2Proof.Machine

theorem pow2N_pos (e : Int) : 0 < pow2N e := by unfold pow2N; split <;> positivity
theorem pow2D_pos (e : Int) : 0 < pow2D e := by unfold pow2D; split <;> positivity

/-- The numerator and the denominator of 2^e make 2^e. -/
theorem pow2_ratio (e : Int) : (pow2N e : ℚ) / pow2D e = 2 ^ e := by
  unfold pow2N pow2D
  by_cases h : 0 ≤ e
  · rw [if_pos h, if_pos h]
    conv_rhs => rw [← Int.toNat_of_nonneg h, zpow_natCast]
    simp
  · rw [if_neg h, if_neg h]
    conv_rhs => rw [show e = -((-e).toNat : Int) by omega, zpow_neg, zpow_natCast]
    simp

theorem pow2N_cast (e : Int) : (pow2N e : ℚ) = 2 ^ e * pow2D e := by
  rw [← pow2_ratio, div_mul_cancel₀ _ (by exact_mod_cast (pow2D_pos e).ne')]

/-- A comparison of products over natural numbers is one of fractions. -/
theorem mul_le_mul_iff_div {a b n d : Nat} (hb : 0 < b) (hd : 0 < d) : a * d ≤ n * b ↔ (a : ℚ) / b ≤ n / d := by
  rw [div_le_div_iff₀ (by exact_mod_cast hb) (by exact_mod_cast hd)]
  exact_mod_cast Iff.rfl

theorem mul_lt_mul_iff_div {a b n d : Nat} (hb : 0 < b) (hd : 0 < d) : a * d < n * b ↔ (a : ℚ) / b < n / d := by
  rw [div_lt_div_iff₀ (by exact_mod_cast hb) (by exact_mod_cast hd)]
  exact_mod_cast Iff.rfl

theorem intLog_eq {v : ℚ} {z : Int} (h1 : 2 ^ z ≤ v) (h2 : v < 2 ^ (z + 1)) : Int.log 2 v = z := by
  have hv : 0 < v := lt_of_lt_of_le (by positivity) h1
  have a := (Int.zpow_le_iff_le_log (b := 2) one_lt_two hv).mp (by exact_mod_cast h1)
  have b := (Int.lt_zpow_iff_log_lt (b := 2) one_lt_two hv).mp (by exact_mod_cast h2)
  omega

theorem zpow_intLog_le {v : ℚ} (hv : 0 < v) : 2 ^ Int.log 2 v ≤ v := by exact_mod_cast Int.zpow_log_le_self (b := 2) one_lt_two hv
theorem lt_zpow_intLog_succ (v : ℚ) : v < 2 ^ (Int.log 2 v + 1) := by exact_mod_cast Int.lt_zpow_succ_log_self (b := 2) one_lt_two v

theorem natLog2_bounds {n : Nat} (hn : 0 < n) : (2 : ℚ) ^ (n.log2 : Int) ≤ n ∧ (n : ℚ) < 2 ^ ((n.log2 : Int) + 1) := by
  constructor
  · rw [zpow_natCast]
    exact_mod_cast Nat.log2_self_le hn.ne'
  · rw [show ((n.log2 : Int) + 1) = ((n.log2 + 1 : Nat) : Int) by omega, zpow_natCast]
    exact_mod_cast Nat.lt_log2_self

/-- The model's logarithm of a fraction is the library's. -/
theorem ilog2Q_eq {n d : Nat} (hn : 0 < n) (hd : 0 < d) : ilog2Q n d = Int.log 2 ((n : ℚ) / d) := by
  obtain ⟨n1, n2⟩ := natLog2_bounds hn
  obtain ⟨d1, d2⟩ := natLog2_bounds hd
  have hn' : (0 : ℚ) < n := by exact_mod_cast hn
  have hd' : (0 : ℚ) < d := by exact_mod_cast hd
  have two : (2 : ℚ) ≠ 0 := two_ne_zero
  have hhi : (n : ℚ) / d < 2 ^ ((n.log2 : Int) - d.log2 + 1) := by
    rw [show ((n.log2 : Int) - d.log2 + 1) = (n.log2 + 1 : Int) - d.log2 by ring, zpow_sub₀ two]
    exact div_lt_div₀ n2 d1 (by positivity) (by positivity)
  have hlo : 2 ^ ((n.log2 : Int) - d.log2 - 1) ≤ (n : ℚ) / d := by
    rw [show ((n.log2 : Int) - d.log2 - 1) = (n.log2 : Int) - (d.log2 + 1) by ring, zpow_sub₀ two]
    exact div_le_div₀ hn'.le n1 hd' d2.le
  unfold ilog2Q
  dsimp only
  split
  · next h =>
    rw [mul_le_mul_iff_div (pow2D_pos _) hd, pow2_ratio] at h
    exact (intLog_eq h hhi).symm
  · next h =>
    rw [mul_le_mul_iff_div (pow2D_pos _) hd, pow2_ratio, not_le] at h
    exact (intLog_eq hlo (by rwa [sub_add_cancel])).symm

/-- The magnitude n/d in units of 2^q. -/
theorem units_ratio (n d : Nat) (q : Int) : ((n * pow2D q : Nat) : ℚ) / ((d * pow2N q : Nat) : ℚ) = (n : ℚ) / d / 2 ^ q := by
  rw [← pow2_ratio]
  push_cast
  rw [div_div_div_eq, mul_comm (d : ℚ)]

/-! ### Rounding to whole units -/

/-- RNE is within half a unit, and to even at a tie. -/
theorem roundUnits_rne {N D : Nat} (hD : 0 < D) (r : Nat) :
    let k := roundUnits .rne r (N / D) (N % D) D
    2 * k * D ≤ 2 * N + D ∧ 2 * N ≤ 2 * k * D + D ∧ (2 * N = 2 * k * D + D ∨ 2 * k * D = 2 * N + D → k % 2 = 0) := by
  have hN := Nat.div_add_mod N D
  have hr := Nat.mod_lt N hD
  generalize N / D = a at *
  generalize N % D = b at *
  subst hN
  have h1 : 2 * (a + 1) * D = 2 * (D * a) + 2 * D := by ring
  have h0 : 2 * a * D = 2 * (D * a) := by ring
  dsimp only [roundUnits]
  split_ifs with c1 c2 c3 c4
  · rw [h0]
    omega
  · rw [h1]
    omega
  · rw [h0]
    omega
  · rw [h0]
    omega
  · rw [h1]
    omega

/-- RTZ is the floor. -/
theorem roundUnits_rtz (r k rem den : Nat) : roundUnits .rtz r k rem den = k := by unfold roundUnits; split <;> rfl

theorem roundUnits_stoch (r k rem den : Nat) : roundUnits .stoch r k rem den = k + (if r < rem * 65536 / den then 1 else 0) := by
  unfold roundUnits
  dsimp only
  split_ifs with h1 h2
  · simp [h1] at h2
  · rfl
  · rfl
  · rfl

/-- Rounding leaves an integer as it is, and otherwise gives the floor or the floor plus 1. -/
theorem roundUnits_cases (mode : Rnd) (r k rem den : Nat) :
    roundUnits mode r k rem den = k ∨ (0 < rem ∧ roundUnits mode r k rem den = k + 1) := by
  unfold roundUnits
  split
  · exact .inl rfl
  · next h =>
    have : 0 < rem := Nat.pos_of_ne_zero h
    cases mode with
    | rne => dsimp only; split_ifs <;> simp [this]
    | rtz => exact .inl rfl
    | stoch => dsimp only; split_ifs <;> simp [this]

theorem le_roundUnits (mode : Rnd) (r k rem den : Nat) : k ≤ roundUnits mode r k rem den := by
  obtain h | ⟨-, h⟩ := roundUnits_cases mode r k rem den <;> omega

/-- A whole bound of the quotient bounds the rounded quotient too. -/
theorem roundUnits_le {N D B : Nat} (hD : 0 < D) (h : N ≤ B * D) (mode : Rnd) (r : Nat) :
    roundUnits mode r (N / D) (N % D) D ≤ B := by
  obtain e | ⟨hrem, e⟩ := roundUnits_cases mode r (N / D) (N % D) D
  · rw [e]
    exact Nat.div_le_of_le_mul (by rwa [mul_comm])
  · rw [e, Nat.succ_le_iff, Nat.div_lt_iff_lt_mul hD]
    refine lt_of_le_of_ne h fun h' => ?_
    rw [h', Nat.mul_mod_left] at hrem
    exact absurd hrem (lt_irrefl 0)

/-! ### Rounding to p bits -/

/-- The exponent of the unit that `roundMag` rounds to. -/
def roundExp (p : Nat) (emin : Int) (n d : Nat) : Int := max (ilog2Q n d - ((p : Int) - 1)) emin

theorem roundMag_eq {n : Nat} (hn : 0 < n) (p : Nat) (emin : Int) (mode : Rnd) (r d : Nat) :
    roundMag p emin mode r n d =
      (roundUnits mode r (n * pow2D (roundExp p emin n d) / (d * pow2N (roundExp p emin n d)))
        (n * pow2D (roundExp p emin n d) % (d * pow2N (roundExp p emin n d))) (d * pow2N (roundExp p emin n d)), roundExp p emin n d) :=
  if_neg hn.ne'

theorem units_lt (p : Nat) (emin : Int) {n d : Nat} (hn : 0 < n) (hd : 0 < d) :
    n * pow2D (roundExp p emin n d) < 2 ^ p * (d * pow2N (roundExp p emin n d)) := by
  set q := roundExp p emin n d with hq
  have hv : (0 : ℚ) < (n : ℚ) / d := by positivity
  have h : (n : ℚ) / d / 2 ^ q < 2 ^ p := by
    rw [div_lt_iff₀ (by positivity), ← zpow_natCast, ← zpow_add₀ two_ne_zero]
    refine lt_of_lt_of_le (lt_zpow_intLog_succ _) (zpow_le_zpow_right₀ one_le_two ?_)
    rw [← ilog2Q_eq hn hd]
    have : ilog2Q n d - ((p : Int) - 1) ≤ q := le_max_left _ _
    omega
  rw [← units_ratio, div_lt_iff₀ (by exact_mod_cast Nat.mul_pos hd (pow2N_pos q))] at h
  exact_mod_cast h

theorem units_full {p : Nat} (hp : 0 < p) (emin : Int) {n d : Nat} (hn : 0 < n) (hd : 0 < d) :
    roundExp p emin n d = emin ∨ 2 ^ (p - 1) * (d * pow2N (roundExp p emin n d)) ≤ n * pow2D (roundExp p emin n d) := by
  by_cases h : ilog2Q n d - ((p : Int) - 1) ≤ emin
  · exact .inl (max_eq_right h)
  · right
    have hq : roundExp p emin n d = ilog2Q n d - ((p : Int) - 1) := max_eq_left (by omega)
    rw [hq]
    set q := ilog2Q n d - ((p : Int) - 1) with hq'
    have h : (2 : ℚ) ^ (p - 1) ≤ (n : ℚ) / d / 2 ^ q := by
      rw [le_div_iff₀ (by positivity), ← zpow_natCast, ← zpow_add₀ two_ne_zero]
      refine le_of_eq_of_le ?_ (zpow_intLog_le (by positivity))
      rw [← ilog2Q_eq hn hd]
      congr 1
      omega
    rw [← units_ratio, le_div_iff₀ (by exact_mod_cast Nat.mul_pos hd (pow2N_pos q))] at h
    exact_mod_cast h

/-! ### Codes of the scalar formats (R42) -/

/-- The code with a sign, an exponent field and a mantissa field. -/
def FFmt.code (f : FFmt) (s : Bool) (x k : Nat) : Nat := (if s then 2 ^ (f.e + f.m) else 0) + (x * 2 ^ f.m + k)

theorem FFmt.magnitude_lt {f : FFmt} {x k : Nat} (hx : x < 2 ^ f.e) (hk : k < 2 ^ f.m) : x * 2 ^ f.m + k < 2 ^ (f.e + f.m) := by
  rw [pow_add]
  calc x * 2 ^ f.m + k < x * 2 ^ f.m + 2 ^ f.m := by omega
    _ = (x + 1) * 2 ^ f.m := by ring
    _ ≤ 2 ^ f.e * 2 ^ f.m := Nat.mul_le_mul_right _ hx

theorem FFmt.code_eq_split (f : FFmt) {c : Nat} (hc : c < 2 ^ (f.e + f.m + 1)) :
    ∃ s x k, x < 2 ^ f.e ∧ k < 2 ^ f.m ∧ c = f.code s x k := by
  refine ⟨decide (2 ^ (f.e + f.m) ≤ c), c % 2 ^ (f.e + f.m) / 2 ^ f.m, c % 2 ^ f.m, ?_, Nat.mod_lt _ (by positivity), ?_⟩
  · rw [Nat.div_lt_iff_lt_mul (by positivity), ← pow_add]
    exact Nat.mod_lt _ (by positivity)
  · have hlow : c % 2 ^ (f.e + f.m) / 2 ^ f.m * 2 ^ f.m + c % 2 ^ f.m = c % 2 ^ (f.e + f.m) := by
      rw [← Nat.mod_mod_of_dvd c (pow_dvd_pow 2 (Nat.le_add_left f.m f.e)), mul_comm]
      exact Nat.div_add_mod _ _
    rw [code, hlow]
    rw [pow_succ] at hc
    by_cases h : 2 ^ (f.e + f.m) ≤ c
    · rw [Nat.mod_eq_sub_mod h, Nat.mod_eq_of_lt (by omega)]
      simp only [h, decide_true, if_true]
      omega
    · simp [h, Nat.mod_eq_of_lt (not_le.mp h)]

section Fields

variable {f : FFmt} {s : Bool} {x k : Nat} (hx : x < 2 ^ f.e) (hk : k < 2 ^ f.m)

include hx hk in
theorem FFmt.code_sign : bitN (f.code s x k) (f.e + f.m) = s := by
  have h := magnitude_lt hx hk
  unfold bitN code
  cases s
  · rw [if_neg (by decide), Nat.zero_add, Nat.div_eq_of_lt h]
    rfl
  · rw [if_pos rfl, Nat.add_div_left _ (by positivity), Nat.div_eq_of_lt h]
    rfl

include hx hk in
theorem FFmt.code_exp : bitsN (f.code s x k) f.m f.e = x := by
  have h : (x * 2 ^ f.m + k) / 2 ^ f.m = x := by
    rw [Nat.add_comm, Nat.add_mul_div_right _ _ (by positivity), Nat.div_eq_of_lt hk, Nat.zero_add]
  unfold bitsN code
  cases s
  · rw [if_neg (by decide), Nat.zero_add, h, Nat.mod_eq_of_lt hx]
  · rw [if_pos rfl, pow_add, Nat.add_comm, Nat.add_mul_div_right _ _ (by positivity), h, Nat.add_mod_right, Nat.mod_eq_of_lt hx]

include hk in
theorem FFmt.code_man : bitsN (f.code s x k) 0 f.m = k := by
  unfold bitsN code
  have h : 2 ^ f.m ∣ (if s then 2 ^ (f.e + f.m) else 0) + x * 2 ^ f.m := by
    refine Nat.dvd_add ?_ (Nat.dvd_mul_left ..)
    split
    · exact pow_dvd_pow 2 (Nat.le_add_left ..)
    · exact dvd_zero _
  obtain ⟨j, hj⟩ := h
  rw [pow_zero, Nat.div_one, ← Nat.add_assoc, hj, Nat.mul_add_mod, Nat.mod_eq_of_lt hk]

include hx hk in
/-- What a code with given fields stands for. -/
theorem FFmt.dec_code : f.dec (f.code s x k) =
    if f.kind = 0 && x = 2 ^ f.e - 1 then (if k = 0 then .inf s else .nan)
    else if f.kind = 1 && x = 2 ^ f.e - 1 && k = 2 ^ f.m - 1 then .nan
    else if x = 0 then .fin s k (1 - (f.bias : Int) - f.m)
    else .fin s (2 ^ f.m + k) ((x : Int) - f.bias - f.m) := by
  unfold dec
  rw [code_sign hx hk, code_exp hx hk, code_man hk]

end Fields

/-- Where the magnitude is a whole number of units, that is what scaling finds. -/
theorem scaleQ_whole {n d K : Nat} (hd : 0 < d) {q : Int} (h : (n : ℚ) / d = K * 2 ^ q) : (scaleQ n d q).1 = K := by
  have hD : 0 < d * pow2N q := Nat.mul_pos hd (pow2N_pos q)
  have e := units_ratio n d q
  rw [h, mul_div_cancel_right₀ _ (by positivity), div_eq_iff (by exact_mod_cast hD.ne')] at e
  have : n * pow2D q = K * (d * pow2N q) := by exact_mod_cast e
  dsimp only [scaleQ]
  rw [this, Nat.mul_div_cancel _ hD]

theorem pos_of_ratio {n d K : Nat} {q : Int} (hK : 0 < K) (h : (n : ℚ) / d = K * 2 ^ q) : 0 < n := by
  refine Nat.pos_of_ne_zero fun h0 => ?_
  have : (0 : ℚ) < K * 2 ^ q := by positivity
  rw [← h, h0] at this
  simp at this

/-- The code of a normal magnitude. -/
theorem FFmt.encMag_normal (f : FFmt) {n d x K : Nat} (hd : 0 < d) (hx : 0 < x) (h1 : 2 ^ f.m ≤ K) (h2 : K < 2 ^ (f.m + 1))
    (h : (n : ℚ) / d = K * 2 ^ ((x : Int) - f.bias - f.m)) : f.encMag n d = x * 2 ^ f.m + (K - 2 ^ f.m) := by
  have hn : 0 < n := pos_of_ratio (lt_of_lt_of_le (by positivity) h1) h
  have ht : ilog2Q n d = (x : Int) - f.bias := by
    rw [ilog2Q_eq hn hd]
    refine intLog_eq ?_ ?_
    · calc (2 : ℚ) ^ ((x : Int) - f.bias) = 2 ^ (f.m : Int) * 2 ^ ((x : Int) - f.bias - f.m) := by
            rw [← zpow_add₀ two_ne_zero, add_sub_cancel]
        _ ≤ K * 2 ^ ((x : Int) - f.bias - f.m) :=
          mul_le_mul_of_nonneg_right (by rw [zpow_natCast]; exact_mod_cast h1) (by positivity)
        _ = (n : ℚ) / d := h.symm
    · calc (n : ℚ) / d = K * 2 ^ ((x : Int) - f.bias - f.m) := h
        _ < 2 ^ ((f.m + 1 : Nat) : Int) * 2 ^ ((x : Int) - f.bias - f.m) :=
          mul_lt_mul_of_pos_right (by rw [zpow_natCast]; exact_mod_cast h2) (by positivity)
        _ = 2 ^ ((x : Int) - f.bias + 1) := by
          rw [← zpow_add₀ two_ne_zero]
          congr 1
          push_cast
          ring
  unfold encMag
  dsimp only
  rw [if_neg hn.ne', ht, if_neg (by omega), scaleQ_whole hd h, sub_add_cancel, Int.toNat_natCast]

/-- The code of a subnormal magnitude. -/
theorem FFmt.encMag_subnormal (f : FFmt) {n d k : Nat} (hd : 0 < d) (hk0 : 0 < k) (hk : k < 2 ^ f.m)
    (h : (n : ℚ) / d = k * 2 ^ f.minExp) : f.encMag n d = k := by
  have hn : 0 < n := pos_of_ratio hk0 h
  have ht : ilog2Q n d < 1 - (f.bias : Int) := by
    rw [ilog2Q_eq hn hd]
    refine (Int.lt_zpow_iff_log_lt (b := 2) one_lt_two (by positivity)).mp ?_
    rw [h, show (1 : Int) - f.bias = f.m + f.minExp by unfold minExp; ring, zpow_add₀ (by norm_num)]
    push_cast
    rw [zpow_natCast]
    exact mul_lt_mul_of_pos_right (by exact_mod_cast hk) (by positivity)
  unfold encMag
  dsimp only
  rw [if_neg hn.ne', if_pos ht]
  exact scaleQ_whole hd h

theorem FFmt.encMag_zero (f : FFmt) (d : Nat) : f.encMag 0 d = 0 := if_pos rfl

/-- The magnitude of a finite value's parts. -/
theorem ratio_of_parts (m : Nat) (e : Int) : ((m * pow2N e : Nat) : ℚ) / pow2D e = m * 2 ^ e := by
  push_cast
  rw [mul_div_assoc, pow2_ratio]

/-- A code of a finite value is the code of the value it stands for. -/
theorem FFmt.code_of_dec_fin (f : FFmt) {c : Nat} (hc : c < 2 ^ (f.e + f.m + 1)) {s : Bool} {m : Nat} {e : Int}
    (h : f.dec c = .fin s m e) : (if s then 2 ^ (f.e + f.m) else 0) + f.encMag (m * pow2N e) (pow2D e) = c := by
  obtain ⟨s', x, k, hx, hk, rfl⟩ := f.code_eq_split hc
  rw [dec_code hx hk] at h
  split at h
  · split at h <;> cases h
  split at h
  · cases h
  split at h
  · next h0 =>
    cases h
    subst h0
    rw [code, Nat.zero_mul, Nat.zero_add]
    congr 1
    by_cases hk0 : m = 0
    · rw [hk0, Nat.zero_mul, encMag_zero]
    · exact f.encMag_subnormal (pow2D_pos _) (Nat.pos_of_ne_zero hk0) hk (ratio_of_parts ..)
  · next h0 =>
    cases h
    rw [code, f.encMag_normal (pow2D_pos _) (Nat.pos_of_ne_zero h0) (Nat.le_add_right ..) (by rw [pow_succ]; omega) (ratio_of_parts ..),
      Nat.add_sub_cancel_left]

/-- The code of an infinity of a format of kind 0. -/
theorem FFmt.code_of_dec_inf (f : FFmt) {c : Nat} (hc : c < 2 ^ (f.e + f.m + 1)) {s : Bool} (h : f.dec c = .inf s) :
    (if s then 2 ^ (f.e + f.m) else 0) + (2 ^ f.e - 1) * 2 ^ f.m = c := by
  obtain ⟨s', x, k, hx, hk, rfl⟩ := f.code_eq_split hc
  rw [dec_code hx hk] at h
  split at h
  · next h0 =>
    split at h
    · next hk0 =>
      cases h
      simp only [Bool.and_eq_true, decide_eq_true_eq] at h0
      rw [code, h0.2, hk0, Nat.add_zero]
    · cases h
  split at h
  · cases h
  split at h <;> cases h

end Sys2Proof.Machine
end

section
/-! ## Codes and rounding, output conversions -/

namespace Sys2Proof.Machine

/-! ### Codes (R42) -/

/-- Finite values of equal sign and magnitude are equal as exact numbers. -/
theorem FV.toEx_eq {s : Bool} {m m' : Nat} {e e' : Int} (h : (m : ℚ) * 2 ^ e = m' * 2 ^ e') :
    (FV.fin s m e).toEx.eq (FV.fin s m' e').toEx = true := by
  rw [← ratio_of_parts, ← ratio_of_parts, div_eq_div_iff (by exact_mod_cast (pow2D_pos e).ne') (by exact_mod_cast (pow2D_pos e').ne')] at h
  have h' : m * pow2N e * pow2D e' = m' * pow2N e' * pow2D e := by exact_mod_cast h
  refine decide_eq_true ?_
  dsimp only [FV.toEx]
  cases s
  · rw [if_neg (by decide), if_neg (by decide)]
    exact_mod_cast h'
  · rw [if_pos rfl, if_pos rfl, neg_mul, neg_mul]
    exact_mod_cast congrArg (fun n : Nat => -(n : Int)) h'

theorem enc16_dec16 {c : Nat} (hc : c < 2 ^ 16) (h : (dec16 c).isNan = false) : enc16 (dec16 c) = c := by
  cases hd : dec16 c with
  | nan => simp [hd, FV.isNan] at h
  | inf s =>
    rw [← FFmt.code_of_dec_inf (ffmt 1) hc hd]
    cases s <;> rfl
  | fin s m e => exact (ffmt 1).code_of_dec_fin hc hd

theorem encBf16_decBf16 {c : Nat} (hc : c < 2 ^ 16) (h : (decBf16 c).isNan = false) : encBf16 (decBf16 c) = c := by
  cases hd : decBf16 c with
  | nan => simp [hd, FV.isNan] at h
  | inf s =>
    rw [← FFmt.code_of_dec_inf (ffmt 2) hc hd]
    cases s <;> rfl
  | fin s m e => exact (ffmt 2).code_of_dec_fin hc hd

theorem enc32_dec32 {c : Nat} (hc : c < 2 ^ 32) (h : (dec32 c).isNan = false) : enc32 (dec32 c) = c := by
  cases hd : dec32 c with
  | nan => simp [hd, FV.isNan] at h
  | inf s =>
    rw [← FFmt.code_of_dec_inf (ffmt 0) hc hd]
    cases s <;> rfl
  | fin s m e => exact (ffmt 0).code_of_dec_fin hc hd

/-- BF16 and FP32 codes with the same sign, exponent and leading mantissa bits. -/
theorem bf16_code_upper (s : Bool) (x k : Nat) : (ffmt 2).code s x k * 2 ^ 16 = (ffmt 0).code s x (k * 2 ^ 16) := by
  show ((if s then 2 ^ 15 else 0) + (x * 2 ^ 7 + k)) * 2 ^ 16 = (if s then 2 ^ 31 else 0) + (x * 2 ^ 23 + k * 2 ^ 16)
  split <;> ring

theorem bf16_upper_half {c : Nat} (hc : c < 2 ^ 16) :
    (decBf16 c).toEx.eq (dec32 (c * 2 ^ 16)).toEx = true ∧ (decBf16 c).isNan = (dec32 (c * 2 ^ 16)).isNan ∧
      (decBf16 c).isInf = (dec32 (c * 2 ^ 16)).isInf := by
  obtain ⟨s, x, k, hx, hk, rfl⟩ := (ffmt 2).code_eq_split hc
  have hx' : x < 2 ^ (ffmt 0).e := hx
  have hk' : k * 2 ^ 16 < 2 ^ (ffmt 0).m := by
    have : k < 2 ^ 7 := hk
    show k * 2 ^ 16 < 2 ^ 23
    omega
  rw [bf16_code_upper, decBf16, dec32, FFmt.dec_code hx hk, FFmt.dec_code hx' hk']
  by_cases hx255 : x = 255
  · subst hx255
    by_cases hk0 : k = 0
    · subst hk0
      cases s <;> decide
    · simp [ffmt, hk0, FV.toEx, FV.isNan, FV.isInf, Ex.eq]
  · have hexp (z : Int) : (2 : ℚ) ^ (z - 7) = 2 ^ 16 * 2 ^ (z - 23) := by
      rw [show z - 7 = ((16 : Nat) : Int) + (z - 23) by push_cast; ring, zpow_add₀ two_ne_zero, zpow_natCast]
    by_cases hx0 : x = 0
    · subst hx0
      refine ⟨FV.toEx_eq ?_, rfl, rfl⟩
      show (k : ℚ) * 2 ^ ((1 : Int) - 127 - 7) = (k * 2 ^ 16 : Nat) * 2 ^ ((1 : Int) - 127 - 23)
      rw [hexp]
      push_cast
      ring
    · simp only [ffmt, hx255, hx0, Nat.reducePow, Nat.reduceSub, decide_false, Bool.and_false, Bool.false_and, Bool.false_eq_true, if_false]
      refine ⟨FV.toEx_eq ?_, rfl, rfl⟩
      show ((2 ^ 7 + k : Nat) : ℚ) * 2 ^ ((x : Int) - 127 - 7) = (2 ^ 23 + k * 65536 : Nat) * 2 ^ ((x : Int) - 127 - 23)
      rw [hexp]
      push_cast
      ring

/-! ### Rounding a magnitude (R52, R54) -/

theorem roundMag_spec {p : Nat} {emin : Int} {mode : Rnd} {r n d k : Nat} {q : Int} (hn : 0 < n)
    (h : roundMag p emin mode r n d = (k, q)) :
    q = roundExp p emin n d ∧ k = roundUnits mode r (n * pow2D q / (d * pow2N q)) (n * pow2D q % (d * pow2N q)) (d * pow2N q) := by
  rw [roundMag_eq hn] at h
  cases h
  exact ⟨rfl, rfl⟩

/-- Settles O57: codes split into their fields, and rounding is read off the whole units and the remainder. -/
theorem codesAndRounding : Obligations.CodesAndRounding := by
  unfold Obligations.CodesAndRounding
  refine ⟨fun c => enc16_dec16, fun c => encBf16_decBf16, fun c => enc32_dec32, fun c => bf16_upper_half, ?_⟩
  intro p emin mode r n d k q hp hn hd h
  obtain ⟨rfl, rfl⟩ := roundMag_spec hn h
  have hD : 0 < d * pow2N (roundExp p emin n d) := Nat.mul_pos hd (pow2N_pos _)
  refine ⟨le_max_right _ _, units_lt p emin hn hd, units_full hp emin hn hd, ?_, ?_, ?_⟩
  · rintro rfl
    exact roundUnits_rne hD r
  · rintro rfl
    rw [roundUnits_rtz]
    exact ⟨Nat.div_mul_le_self _ _, Nat.lt_mul_of_div_lt (Nat.lt_succ_self _) hD⟩
  · rintro rfl
    exact roundUnits_stoch ..

/-! ### Output conversions (R55-R57) -/

/-- The largest exponent field of a finite value. -/
def FFmt.topExp (f : FFmt) : Nat := if f.kind = 0 then 2 ^ f.e - 2 else 2 ^ f.e - 1

/-- What the formats of Table 2.2 have in common about their largest finite value. -/
structure FFmt.TopOk (f : FFmt) : Prop where
  exp : f.maxFin.2 = (f.topExp : Int) - f.bias - f.m
  normal : 2 ^ f.m ≤ f.maxFin.1
  fits : f.maxFin.1 < 2 ^ (f.m + 1)
  pos : 0 < f.topExp
  field : f.topExp < 2 ^ f.e
  noInf : f.kind = 0 → f.topExp < 2 ^ f.e - 1
  noNan : f.kind = 1 → f.maxFin.1 - 2 ^ f.m < 2 ^ f.m - 1

theorem topOk_ffmt {i : Nat} (h : i ≤ 11) : (ffmt i).TopOk := by
  interval_cases i <;> exact ⟨by decide, by decide, by decide, by decide, by decide, by decide, by decide⟩

/-- Exponent and mantissa fields of a finite value up to the largest one. -/
def FFmt.Finite (f : FFmt) (x k : Nat) : Prop :=
  x ≤ f.topExp ∧ k < 2 ^ f.m ∧ (x = f.topExp → k ≤ f.maxFin.1 - 2 ^ f.m)

section Finite

variable {f : FFmt} (ok : f.TopOk)
include ok

/-- A code with the fields of a finite value stands for a finite value. -/
theorem FFmt.dec_finite {x k : Nat} (h : f.Finite x k) (s : Bool) :
    f.dec (f.code s x k) = if x = 0 then .fin s k f.minExp else .fin s (2 ^ f.m + k) ((x : Int) - f.bias - f.m) := by
  obtain ⟨hx, hk, htop⟩ := h
  rw [dec_code (lt_of_le_of_lt hx ok.field) hk, if_neg, if_neg]
  · rfl
  · simp only [Bool.and_eq_true, decide_eq_true_eq, and_assoc]
    rintro ⟨hkind, hx', hk'⟩
    have h1 := ok.noNan hkind
    have h2 : f.topExp = 2 ^ f.e - 1 := if_neg (by omega)
    have := htop (by omega)
    omega
  · simp only [Bool.and_eq_true, decide_eq_true_eq]
    rintro ⟨hkind, hx'⟩
    have := ok.noInf hkind
    omega

/-- A normal magnitude up to the largest finite value has the fields of a finite value. -/
theorem FFmt.finite_normal {n d K : Nat} {q : Int} (hd : 0 < d) (hq : f.minExp ≤ q) (h1 : 2 ^ f.m ≤ K) (h2 : K < 2 ^ (f.m + 1))
    (h : (n : ℚ) / d = K * 2 ^ q) (hmax : (K : ℚ) * 2 ^ q ≤ f.maxFin.1 * 2 ^ f.maxFin.2) :
    ∃ x k, f.Finite x k ∧ 0 < x ∧ f.encMag n d = x * 2 ^ f.m + k := by
  obtain ⟨x, hx⟩ : ∃ x : Nat, q = (x : Int) - f.bias - f.m ∧ 0 < x :=
    ⟨(q - f.minExp).toNat + 1, by unfold minExp at *; omega, Nat.succ_pos _⟩
  obtain ⟨rfl, hx0⟩ := hx
  refine ⟨x, K - 2 ^ f.m, ⟨?_, by rw [pow_succ] at h2; omega, fun he => ?_⟩, hx0, f.encMag_normal hd hx0 h1 h2 h⟩
  · have hlt : (2 : ℚ) ^ ((f.m : Int) + ((x : Int) - f.bias - f.m)) < 2 ^ (((f.m + 1 : Nat) : Int) + f.maxFin.2) := by
      rw [zpow_add₀ two_ne_zero, zpow_add₀ two_ne_zero, zpow_natCast, zpow_natCast]
      calc (2 : ℚ) ^ f.m * 2 ^ ((x : Int) - f.bias - f.m) ≤ K * 2 ^ ((x : Int) - f.bias - f.m) :=
            mul_le_mul_of_nonneg_right (by exact_mod_cast h1) (by positivity)
        _ ≤ f.maxFin.1 * 2 ^ f.maxFin.2 := hmax
        _ < 2 ^ (f.m + 1) * 2 ^ f.maxFin.2 := mul_lt_mul_of_pos_right (by exact_mod_cast ok.fits) (by positivity)
    have := (zpow_lt_zpow_iff_right₀ (one_lt_two (α := ℚ))).mp hlt
    have := ok.exp
    omega
  · subst he
    rw [← ok.exp] at hmax
    have : K ≤ f.maxFin.1 := by exact_mod_cast le_of_mul_le_mul_right hmax (by positivity)
    omega

/-- A magnitude that is a whole number of units of 2^q, as rounding leaves one, has the fields of a finite value that is not zero. -/
theorem FFmt.finite_rounded {K : Nat} {q : Int} (hq : f.minExp ≤ q) (hK : 0 < K) (h2 : K ≤ 2 ^ (f.m + 1)) (h1 : q = f.minExp ∨ 2 ^ f.m ≤ K)
    (hmax : (K : ℚ) * 2 ^ q ≤ f.maxFin.1 * 2 ^ f.maxFin.2) :
    ∃ x k, f.Finite x k ∧ 0 < x + k ∧ f.encMag (K * pow2N q) (pow2D q) = x * 2 ^ f.m + k := by
  by_cases hsub : K < 2 ^ f.m
  · obtain rfl : q = f.minExp := h1.resolve_right (by omega)
    refine ⟨0, K, ⟨Nat.zero_le _, hsub, fun h => absurd h ok.pos.ne⟩, by omega, ?_⟩
    rw [f.encMag_subnormal (pow2D_pos _) hK hsub (ratio_of_parts ..), Nat.zero_mul, Nat.zero_add]
  · obtain h2 | rfl := Nat.lt_or_eq_of_le h2
    · obtain ⟨x, k, hfin, hx, he⟩ := finite_normal ok (pow2D_pos q) hq (not_lt.mp hsub) h2 (ratio_of_parts ..) hmax
      exact ⟨x, k, hfin, by omega, he⟩
    · have hcarry : ((2 ^ (f.m + 1) : Nat) : ℚ) * 2 ^ q = (2 ^ f.m : Nat) * 2 ^ (q + 1) := by
        rw [zpow_add_one₀ two_ne_zero]
        push_cast
        ring
      rw [hcarry] at hmax
      obtain ⟨x, k, hfin, hx, he⟩ := finite_normal ok (pow2D_pos q) (by omega : f.minExp ≤ q + 1) le_rfl
        (Nat.pow_lt_pow_right (by decide) (Nat.lt_succ_self _)) ((ratio_of_parts ..).trans hcarry) hmax
      exact ⟨x, k, hfin, by omega, he⟩

/-- The code of the largest finite value. -/
theorem FFmt.encMag_max : f.encMag (f.maxFin.1 * pow2N f.maxFin.2) (pow2D f.maxFin.2) = f.topExp * 2 ^ f.m + (f.maxFin.1 - 2 ^ f.m) := by
  refine f.encMag_normal (pow2D_pos _) ok.pos ok.normal ok.fits ?_
  rw [← ok.exp]
  exact ratio_of_parts ..

theorem FFmt.finite_max : f.Finite f.topExp (f.maxFin.1 - 2 ^ f.m) :=
  ⟨le_rfl, by have := ok.fits; rw [pow_succ] at this; omega, fun _ => le_rfl⟩

theorem FFmt.minExp_le_maxExp : f.minExp ≤ f.maxFin.2 := by
  rw [ok.exp]
  have := ok.pos
  unfold minExp
  omega

/-- A magnitude within the limits of the format rounds to the fields of a finite value that is not zero. -/
theorem FFmt.finite_roundMag {n d : Nat} (hd : 0 < d) (hlo : ¬ n * pow2D f.minExp < d * pow2N f.minExp)
    (hhi : ¬ f.maxFin.1 * pow2N f.maxFin.2 * d < n * pow2D f.maxFin.2) (mode : Rnd) (r : Nat) :
    ∃ x k, f.Finite x k ∧ 0 < x + k ∧
      f.encMag ((roundMag (f.m + 1) f.minExp mode r n d).1 * pow2N (roundMag (f.m + 1) f.minExp mode r n d).2)
        (pow2D (roundMag (f.m + 1) f.minExp mode r n d).2) = x * 2 ^ f.m + k := by
  have hn : 0 < n := by
    refine Nat.pos_of_ne_zero fun h => hlo ?_
    rw [h, Nat.zero_mul]
    exact Nat.mul_pos hd (pow2N_pos _)
  have hv : (n : ℚ) / d ≤ f.maxFin.1 * 2 ^ f.maxFin.2 := by
    rw [mul_lt_mul_iff_div (pow2D_pos _) hd, ratio_of_parts, not_lt] at hhi
    exact hhi
  rw [roundMag_eq hn]
  set q := roundExp (f.m + 1) f.minExp n d with hq
  have hD : 0 < d * pow2N q := Nat.mul_pos hd (pow2N_pos q)
  have hfull : q = f.minExp ∨ 2 ^ f.m * (d * pow2N q) ≤ n * pow2D q := units_full (Nat.succ_pos _) f.minExp hn hd
  have hqE : q ≤ f.maxFin.2 := by
    refine max_le ?_ (minExp_le_maxExp ok)
    have : ilog2Q n d < (f.m + 1 : Nat) + f.maxFin.2 := by
      rw [ilog2Q_eq hn hd]
      refine (Int.lt_zpow_iff_log_lt (b := 2) one_lt_two (by positivity)).mp (lt_of_le_of_lt hv ?_)
      push_cast
      rw [zpow_add₀ two_ne_zero]
      refine mul_lt_mul_of_pos_right ?_ (by positivity)
      exact_mod_cast ok.fits
    push_cast at this ⊢
    omega
  have hbound : n * pow2D q ≤ f.maxFin.1 * 2 ^ (f.maxFin.2 - q).toNat * (d * pow2N q) := by
    have h : (n : ℚ) / d / 2 ^ q ≤ (f.maxFin.1 * 2 ^ (f.maxFin.2 - q).toNat : Nat) := by
      rw [div_le_iff₀ (by positivity)]
      push_cast
      rw [mul_assoc, ← zpow_natCast, ← zpow_add₀ two_ne_zero, Int.toNat_of_nonneg (by omega), sub_add_cancel]
      exact hv
    rw [← units_ratio, div_le_iff₀ (by exact_mod_cast hD)] at h
    exact_mod_cast h
  refine finite_rounded ok (le_max_right _ _) ?_ (roundUnits_le hD (units_lt _ _ hn hd).le mode r) ?_ ?_
  · refine lt_of_lt_of_le ?_ (le_roundUnits ..)
    rw [Nat.div_pos_iff]
    refine ⟨hD, ?_⟩
    obtain h | h := hfull
    · rw [h]
      exact not_lt.mp hlo
    · exact le_trans (Nat.le_mul_of_pos_left _ (by positivity)) h
  · refine hfull.imp id fun h => le_trans ?_ (le_roundUnits ..)
    rwa [Nat.le_div_iff_mul_le hD]
  · have hk : (roundUnits mode r (n * pow2D q / (d * pow2N q)) (n * pow2D q % (d * pow2N q)) (d * pow2N q) : ℚ) ≤
        (f.maxFin.1 * 2 ^ (f.maxFin.2 - q).toNat : Nat) := by exact_mod_cast roundUnits_le hD hbound mode r
    calc _ ≤ ((f.maxFin.1 * 2 ^ (f.maxFin.2 - q).toNat : Nat) : ℚ) * 2 ^ q := mul_le_mul_of_nonneg_right hk (by positivity)
      _ = f.maxFin.1 * 2 ^ f.maxFin.2 := by
        push_cast
        rw [mul_assoc, ← zpow_natCast, ← zpow_add₀ two_ne_zero, Int.toNat_of_nonneg (by omega), sub_add_cancel]

/-- A code of a finite value that is not a zero is no infinity, no NaN and no negative zero. -/
theorem FFmt.code_finite {x k : Nat} (h : f.Finite x k) (h0 : 0 < x + k) (s : Bool) :
    (f.dec (f.code s x k)).isInf = false ∧ (f.dec (f.code s x k)).isNan = false ∧ f.code s x k ≠ 2 ^ (f.e + f.m) := by
  have hpos : 0 < x * 2 ^ f.m + k := by
    obtain hx | hk : 0 < x ∨ 0 < k := by omega
    · exact Nat.add_pos_left (Nat.mul_pos hx (by positivity)) _
    · exact Nat.add_pos_right _ hk
  have hlt := magnitude_lt (lt_of_le_of_lt h.1 ok.field) h.2.1
  rw [dec_finite ok h]
  refine ⟨by split <;> rfl, by split <;> rfl, ?_⟩
  unfold code
  split <;> omega

/-- A quotient beyond the largest finite value is that value with its sign, counted. -/
theorem roundFloat_beyond {n d : Nat} (hd : 0 < d) (h : f.maxFin.1 * pow2N f.maxFin.2 * d < n * pow2D f.maxFin.2) (mode : Rnd) (r : Nat)
    (neg : Bool) : roundFloat f mode r neg n d = ⟨f.code neg f.topExp (f.maxFin.1 - 2 ^ f.m), 0, 1, false⟩ := by
  have hn : n ≠ 0 := by
    rintro rfl
    simp at h
  have hlo : ¬ n * pow2D f.minExp < d * pow2N f.minExp := by
    rw [mul_lt_mul_iff_div (pow2D_pos _) hd, ratio_of_parts] at h
    rw [mul_comm d, mul_lt_mul_iff_div hd (pow2D_pos _), pow2_ratio, not_lt]
    refine le_trans ?_ h.le
    calc (2 : ℚ) ^ f.minExp ≤ 2 ^ f.maxFin.2 := zpow_le_zpow_right₀ one_le_two (FFmt.minExp_le_maxExp ok)
      _ ≤ f.maxFin.1 * 2 ^ f.maxFin.2 := le_mul_of_one_le_left (by positivity)
        (by exact_mod_cast le_trans Nat.one_le_two_pow ok.normal)
  unfold roundFloat
  dsimp only
  rw [if_neg hn, if_neg hlo, if_pos h, FFmt.encMag_max ok]
  rfl

/-- A quotient within the limits converts to a finite value that is not zero, with nothing counted. -/
theorem roundFloat_within {n d : Nat} (hn : n ≠ 0) (hd : 0 < d) (hlo : ¬ n * pow2D f.minExp < d * pow2N f.minExp)
    (hhi : ¬ f.maxFin.1 * pow2N f.maxFin.2 * d < n * pow2D f.maxFin.2) (mode : Rnd) (r : Nat) (neg : Bool) :
    ∃ x k, f.Finite x k ∧ 0 < x + k ∧ roundFloat f mode r neg n d = .plain (f.code neg x k) := by
  obtain ⟨x, k, hfin, h0, he⟩ := FFmt.finite_roundMag ok hd hlo hhi mode r
  refine ⟨x, k, hfin, h0, ?_⟩
  unfold roundFloat
  dsimp only
  rw [if_neg hn, if_neg hlo, if_neg hhi, he]
  rfl

end Finite

theorem roundFloat_below {f : FFmt} {n d : Nat} (hn : 0 < n) (h : n * pow2D f.minExp < d * pow2N f.minExp) (mode : Rnd) (r : Nat) (neg : Bool) :
    roundFloat f mode r neg n d = ⟨0, 1, 0, false⟩ := by
  unfold roundFloat
  rw [if_neg hn.ne', if_pos h]

theorem FFmt.code_zero (f : FFmt) : f.code false 0 0 = 0 := by simp [code]

/-- What no finite quotient converts to. -/
theorem roundFloat_finite {f : FFmt} (ok : f.TopOk) {d : Nat} (hd : 0 < d) (n : Nat) (mode : Rnd) (r : Nat) (neg : Bool) :
    (f.dec (roundFloat f mode r neg n d).code).isInf = false ∧ (f.dec (roundFloat f mode r neg n d).code).isNan = false ∧
      (roundFloat f mode r neg n d).code ≠ 2 ^ (f.e + f.m) ∧ (roundFloat f mode r neg n d).trap = false := by
  have hzero : (f.dec 0).isInf = false ∧ (f.dec 0).isNan = false ∧ 0 ≠ 2 ^ (f.e + f.m) := by
    rw [← f.code_zero, FFmt.dec_finite ok ⟨Nat.zero_le _, by positivity, fun h => absurd h ok.pos.ne⟩, f.code_zero, if_pos rfl]
    exact ⟨rfl, rfl, (by positivity : 0 < 2 ^ (f.e + f.m)).ne⟩
  obtain ⟨z1, z2, z3⟩ := hzero
  by_cases hn : n = 0
  · rw [show roundFloat f mode r neg n d = .plain 0 from if_pos hn]
    exact ⟨z1, z2, z3, rfl⟩
  by_cases hlo : n * pow2D f.minExp < d * pow2N f.minExp
  · rw [roundFloat_below (Nat.pos_of_ne_zero hn) hlo]
    exact ⟨z1, z2, z3, rfl⟩
  by_cases hhi : f.maxFin.1 * pow2N f.maxFin.2 * d < n * pow2D f.maxFin.2
  · rw [roundFloat_beyond ok hd hhi]
    obtain ⟨h1, h2, h3⟩ := FFmt.code_finite ok (FFmt.finite_max ok) (Nat.add_pos_left ok.pos _) neg
    exact ⟨h1, h2, h3, rfl⟩
  · obtain ⟨x, k, hfin, h0, he⟩ := roundFloat_within ok hn hd hlo hhi mode r neg
    obtain ⟨h1, h2, h3⟩ := FFmt.code_finite ok hfin h0 neg
    rw [he]
    exact ⟨h1, h2, h3, rfl⟩

/-- INT8: a magnitude within the limit gives its rounded number of units in two's complement, or a counted underflow. -/
theorem roundInt8_within {mode : Rnd} {r n d : Nat} {neg : Bool} (hn : n ≠ 0) (h : ¬ (if neg then 128 else 127) * d < n) :
    roundInt8 mode r neg n d =
      if roundUnits mode r (n / d) (n % d) d = 0 then ⟨0, 1, 0, false⟩
      else .plain (if neg then 256 - roundUnits mode r (n / d) (n % d) d else roundUnits mode r (n / d) (n % d) d) := by
  unfold roundInt8
  rw [if_neg hn]
  exact if_neg h

theorem roundInt8_beyond {mode : Rnd} {r n d : Nat} {neg : Bool} (h : (if neg then 128 else 127) * d < n) :
    roundInt8 mode r neg n d = ⟨if neg then 0x80 else 0x7F, 0, 1, false⟩ := by
  unfold roundInt8
  rw [if_neg (Nat.ne_of_gt (Nat.zero_lt_of_lt h))]
  exact if_pos h

theorem roundInt8_limits (mode : Rnd) (r : Nat) (neg : Bool) (n : Nat) {d : Nat} (hd : 0 < d) :
    let o := roundInt8 mode r neg n d
    (o.code = 0 → 0 < n → o.und = 1) ∧ ((if neg then 128 else 127) * d < n → o = ⟨if neg then 0x80 else 0x7F, 0, 1, false⟩) ∧
    o.code < 256 ∧ (n ≠ 0 → o.code ≠ 0 → (0x80 ≤ o.code ↔ neg = true)) ∧ o.trap = false := by
  intro o
  by_cases hn : n = 0
  · have ho : o = .plain 0 := if_pos hn
    rw [ho, hn]
    exact ⟨fun _ h => absurd h (lt_irrefl 0), fun h => absurd h (Nat.not_lt_zero _), by decide, fun h => absurd rfl h, rfl⟩
  by_cases hhi : (if neg then 128 else 127) * d < n
  · have ho : o = _ := roundInt8_beyond hhi
    rw [ho]
    refine ⟨fun h => ?_, fun _ => rfl, ?_, fun _ _ => ?_, rfl⟩ <;> cases neg <;> simp_all
  · have ho : o = _ := roundInt8_within hn hhi
    have hk : roundUnits mode r (n / d) (n % d) d ≤ if neg then 128 else 127 := roundUnits_le hd (not_lt.mp hhi) mode r
    rw [ho]
    generalize roundUnits mode r (n / d) (n % d) d = k at hk ⊢
    by_cases hk0 : k = 0
    · rw [if_pos hk0]
      exact ⟨fun _ _ => rfl, fun h => absurd h hhi, by decide, fun _ h => absurd rfl h, rfl⟩
    · rw [if_neg hk0]
      refine ⟨fun h => ?_, fun h => absurd h hhi, ?_, fun _ _ => ?_, rfl⟩ <;> cases neg <;> simp [ElemOut.plain] at * <;> omega

/-- Settles O58: a quotient is below, beyond or within the limits of the format, and within them it rounds to a finite value. -/
theorem conversionLimits : Obligations.ConversionLimits := by
  unfold Obligations.ConversionLimits
  refine ⟨fun i mode r neg n d hi hd => ?_, fun mode r neg n d hd => roundInt8_limits mode r neg n hd⟩
  have ok := topOk_ffmt hi
  refine ⟨fun hn h => roundFloat_below hn h mode r neg, fun h => ?_, roundFloat_finite ok hd n mode r neg⟩
  rw [roundFloat_beyond ok hd h]
  refine ⟨rfl, rfl, rfl, (ffmt i).maxFin.1, (ffmt i).maxFin.2, ?_, rfl⟩
  dsimp only
  rw [FFmt.dec_finite ok (FFmt.finite_max ok), if_neg ok.pos.ne', ok.exp, Nat.add_sub_cancel' ok.normal]

end Sys2Proof.Machine
end

section
/-! ## Failing rows, retired pages and the scrubber (R321-R325) -/

namespace Sys2Proof.Machine

variable {s t u : State}

/-! ### Registers that stay -/

theorem SameRegs.refl (l : List Nat) (s : State) : SameRegs l s s := fun _ _ => rfl

theorem SameRegs.trans {l : List Nat} (h : SameRegs l s t) (g : SameRegs l t u) : SameRegs l s u :=
  fun r hr => (g r hr).trans (h r hr)

theorem sameRegs_wr_mem {l : List Nat} {o : Nat} (h : o ∈ l) (s : State) (v : Word) : SameRegs l s (s.wr o v) :=
  fun _ hr => State.rd_wr_other _ _ _ _ (fun e => hr (e ▸ h))

theorem sameRegs_setF_mem {l : List Nat} {o : Nat} (h : o ∈ l) (s : State) (b w x : Nat) : SameRegs l s (s.setF o b w x) :=
  sameRegs_wr_mem h s _

theorem sameRegs_addCtr_mem {l : List Nat} {o : Nat} (h : o ∈ l) (s : State) (n : Nat) : SameRegs l s (s.addCtr o n) :=
  sameRegs_wr_mem h s _

/-- A packed word's field. -/
theorem fld_packBits {fs : List (Nat × Nat × Nat)} (hfs : Packable fs) {x lsb w : Nat} (h : (x, lsb, w) ∈ fs) (hn : lsb + w ≤ 64)
    (hx : x < 2 ^ w) : fld (BitVec.ofNat 64 (packBits fs)) lsb w = x := by
  rw [fld, BitVec.toNat_ofNat]
  exact bitsN_packBits_word hfs h hn hx

/-! ### A failing row -/

/-- What counted toward the row's failure is forgotten. -/
def rowForgotten (s : State) (d pch slot row : Nat) : State :=
  s.modDie d (fun x => { x with
    rowUe := x.rowUe.filter (fun r => r ≠ (pch, slot, row)), rowCe := x.rowCe.filter (fun e => e.1 ≠ (pch, slot, row)) })

/-- The row has been reported: what counted toward its failure is forgotten, and ROW_FAIL says whether it is to be held. -/
def rowReported (s : State) (d pch slot row : Nat) (hold : Bool) : State :=
  (rowForgotten s d pch slot row).raise .rowFail d (packBits [(row, 0, 14), (slot, 14, 6), (pch, 20, 6), (b2n hold, 26, 1)])

/-- The row goes to hold entry `h`. -/
def rowHeld (s : State) (d pch slot row h : Nat) (before : Bool) : State :=
  holdUsed ((s.wr (rHoldEnt d h) (BitVec.ofNat 64 (packBits
    [(pch, 0, 6), (slot, 6, 6), (row, 12, 14), (1, 26, 1), (b2n before, 27, 1)]))).modDie d (fun x => { x with copying := x.copying ++ [h] })) d

/-- Page `page` of a die stands in entry `i` of its retirement table. -/
def pageRetired (s : State) (d page cause i : Nat) : State :=
  ((s.wr (rRetire d i) (BitVec.ofNat 64 (packBits [(page, 0, 20), (1, 20, 1), (cause, 21, 3), (s.now / 2 ^ 24, 24, 40)]))).setF (mcBase d) 16 10
    ((s.wr (rRetire d i) (BitVec.ofNat 64 (packBits [(page, 0, 20), (1, 20, 1), (cause, 21, 3), (s.now / 2 ^ 24, 24, 40)]))).f (mcBase d) 16 10 + 1)).raise
    .pageRetired d (packBits [(page, 0, 20), (cause, 20, 3)])

theorem rHoldEnt_ne_mcBase (d h : Nat) : rHoldEnt d h ≠ mcBase d := by unfold rHoldEnt; omega
theorem rRetire_ne_mcBase (d i : Nat) : rRetire d i ≠ mcBase d := by unfold rRetire; omega

section Reported

variable (s) (d pch slot row : Nat) (hold : Bool)

theorem rowReported_regs : (rowReported s d pch slot row hold).regs = s.regs := rfl
theorem rowReported_mem : (rowReported s d pch slot row hold).mem = s.mem := rfl
theorem rowReported_cores : (rowReported s d pch slot row hold).cores = s.cores := rfl
theorem rowReported_raises : (rowReported s d pch slot row hold).raises =
    (s.raise .rowFail d (packBits [(row, 0, 14), (slot, 14, 6), (pch, 20, 6), (b2n hold, 26, 1)])).raises := rfl
theorem rowReported_copying : ((rowReported s d pch slot row hold).die d).copying = (s.die d).copying := by
  simp [rowReported, rowForgotten]

end Reported

theorem retirePage_eq {d page cause i : Nat} (hp : page ∉ retiredPages s d) (hi : (upto 512).find? (fun i => !s.fb (rRetire d i) 20) = some i) :
    retirePage s d page cause = pageRetired s d page cause i := by
  unfold retirePage
  rw [if_neg (by simpa using hp), hi]
  rfl

theorem pageRetired_effect {page : Nat} (hp : page < 2 ^ 20) (s : State) (d cause i : Nat) :
    (pageRetired s d page cause i).fb (rRetire d i) 20 = true ∧ (pageRetired s d page cause i).f (rRetire d i) 0 20 = page ∧
      SameRegs [rRetire d i, mcBase d] s (pageRetired s d page cause i) := by
  have hpk : Packable [(page, 0, 20), (1, 20, 1), (cause, 21, 3), (s.now / 2 ^ 24, 24, 40)] := by simp [Packable]
  refine ⟨?_, ?_, ?_⟩
  · rw [pageRetired, State.raise_fb, State.fb_setF_other _ _ _ _ _ _ _ (rRetire_ne_mcBase d i), State.fb, State.f_wr_same,
      fld_packBits hpk (x := 1) (by simp) (by decide) (by decide)]
    exact decide_eq_true rfl
  · rw [pageRetired, State.raise_f, State.f_setF_other _ _ _ _ _ _ _ _ (rRetire_ne_mcBase d i), State.f_wr_same]
    exact fld_packBits hpk (by simp) (by decide) hp
  · exact SameRegs.trans (sameRegs_wr_mem (by simp) _ _) (SameRegs.trans (sameRegs_setF_mem (by simp) _ 16 10 _) fun _ _ => State.raise_rd ..)

theorem rowHeld_effect {pch slot row : Nat} (hp : pch < 64) (hs : slot < 48) (hr : row < 16384) (s : State) (d h : Nat) (before : Bool) :
    holdValid (rowHeld s d pch slot row h before) d h = true ∧ holdRow (rowHeld s d pch slot row h before) d h = (pch, slot, row) ∧
      ((rowHeld s d pch slot row h before).die d).copying = (s.die d).copying ++ [h] ∧
      SameRegs [rHoldEnt d h, mcBase d] s (rowHeld s d pch slot row h before) := by
  have hpk : Packable [(pch, 0, 6), (slot, 6, 6), (row, 12, 14), (1, 26, 1), (b2n before, 27, 1)] := by simp [Packable]
  have hf (l w : Nat) : (rowHeld s d pch slot row h before).f (rHoldEnt d h) l w =
      fld (BitVec.ofNat 64 (packBits [(pch, 0, 6), (slot, 6, 6), (row, 12, 14), (1, 26, 1), (b2n before, 27, 1)])) l w := by
    rw [rowHeld, holdUsed, State.f_setF_other _ _ _ _ _ _ _ _ (rHoldEnt_ne_mcBase d h), State.modDie_f, State.f_wr_same]
  refine ⟨?_, ?_, ?_, ?_⟩
  · rw [holdValid, State.fb, hf, fld_packBits hpk (x := 1) (by simp) (by decide) (by decide)]
    exact decide_eq_true rfl
  · rw [holdRow, hf, hf, hf, fld_packBits hpk (x := pch) (by simp) (by decide) hp,
      fld_packBits hpk (x := slot) (by simp) (by decide) (by omega), fld_packBits hpk (x := row) (by simp) (by decide) hr]
  · simp [rowHeld, holdUsed]
  · exact SameRegs.trans (sameRegs_wr_mem (by simp) _ _) (SameRegs.trans (fun _ _ => State.modDie_rd ..) (sameRegs_setF_mem (by simp) _ 8 5 _))

/-- What is done about a row that is failing, not held and in no retired page. -/
def rowFailing (s : State) (d pch slot row : Nat) : State :=
  let before := (s.die d).repaired.contains (pch, slot, row)
  let gone := before && resourcesLeft s d pch slot = 0
  let free := (upto 16).find? (fun h => !holdValid s d h)
  let hold := s.fb (mcBase d + 8) 32 && free.isSome && !gone
  let t := rowReported s d pch slot row hold
  if gone then retirePage t d (pageOfRow slot row) 1
  else match free with
    | none => retirePage t d (pageOfRow slot row) 2
    | some h => if !hold then t else rowHeld t d pch slot row h before

section Limit

variable {d pch slot row : Nat} (hd : d < 8) (hpch : pch < 64) (hslot : slot < 48) (hrow : row < 16384)
  (hfail : rowFails s d (pch, slot, row) = true)
  (hheld : ∀ x, x < 16 → holdValid s d x = true → holdRow s d x ≠ (pch, slot, row)) (hpage : pageOfRow slot row ∉ retiredPages s d)
include hd hpch hslot hrow hfail hheld hpage

/-- A failing row that is neither held nor in a retired page is dealt with. -/
theorem rowCeLimit_guard : ¬ (8 ≤ d || 64 ≤ pch || 48 ≤ slot || 16384 ≤ row
    || (upto 16).any (fun h => holdValid s d h && holdRow s d h = (pch, slot, row)) || (retiredPages s d).contains (pageOfRow slot row)
    || !rowFails s d (pch, slot, row)) = true := by
  have hany : (upto 16).any (fun h => holdValid s d h && holdRow s d h = (pch, slot, row)) = false := by
    rw [List.any_eq_false]
    intro x hx
    simp only [Bool.and_eq_true, decide_eq_true_eq, not_and]
    exact hheld x (lt_of_mem_upto hx)
  simp only [hany, hfail, Bool.or_eq_true, decide_eq_true_eq, List.contains_eq_mem, Bool.not_true, Bool.or_false]
  simp only [hpage, or_false, not_or, not_le]
  exact ⟨⟨⟨hd, hpch⟩, hslot⟩, hrow⟩

theorem rowCeLimit_eq : exec (.rowCeLimit d pch slot row) s = .next (ended s (rowFailing s d pch slot row)) := by
  have hrep : ((rowForgotten s d pch slot row).die d).repaired = (s.die d).repaired := by simp [rowForgotten]
  have hleft : resourcesLeft (rowForgotten s d pch slot row) d pch slot = resourcesLeft s d pch slot := by
    unfold resourcesLeft
    rw [hrep]
  have hvalid (h : Nat) : holdValid (rowForgotten s d pch slot row) d h = holdValid s d h := State.modDie_fb ..
  have hrepair : (rowForgotten s d pch slot row).fb (mcBase d + 8) 32 = s.fb (mcBase d + 8) 32 := State.modDie_fb ..
  rw [show exec (.rowCeLimit d pch slot row) s = execRowCeLimit d pch slot row s from rfl, execRowCeLimit, done_eq]
  dsimp only
  rw [if_neg (rowCeLimit_guard hd hpch hslot hrow hfail hheld hpage), ← rowForgotten]
  simp only [hrep, hleft, hvalid, hrepair]
  refine congrArg (fun t => Host.Outcome.next (ended s t)) ?_
  unfold rowFailing
  generalize (upto 16).find? (fun x => !holdValid s d x) = free
  cases free with
  | none => simp only [rowReported]
  | some h => simp only [rowReported, rowHeld]

/-- With a free entry and a bank that has something left, the row is held where AUTO_REPAIR is set, and reported only where it is not. -/
theorem rowCeLimit_free {h : Nat} (hfree : (upto 16).find? (fun x => !holdValid s d x) = some h)
    (hleft : (pch, slot, row) ∉ (s.die d).repaired ∨ resourcesLeft s d pch slot ≠ 0) :
    exec (.rowCeLimit d pch slot row) s = .next (ended s
      (if s.fb (mcBase d + 8) 32 then rowHeld (rowReported s d pch slot row true) d pch slot row h ((s.die d).repaired.contains (pch, slot, row))
        else rowReported s d pch slot row false)) := by
  have hgone : ((s.die d).repaired.contains (pch, slot, row) && resourcesLeft s d pch slot = 0) = false := by
    rcases hleft with h | h <;> simp [h]
  rw [rowCeLimit_eq hd hpch hslot hrow hfail hheld hpage, rowFailing, hgone, if_neg (by decide), hfree]
  cases s.fb (mcBase d + 8) 32 <;> simp only [Option.isSome_some, Bool.not_true, Bool.not_false, Bool.and_true,
    Bool.false_eq_true, if_true, if_false]

/-- Where the bank has nothing left for a row that was replaced already, or no entry is free, the row's page is retired. -/
theorem rowCeLimit_retires (h : (∀ x, x < 16 → holdValid s d x = true) ∨ ((pch, slot, row) ∈ (s.die d).repaired ∧ resourcesLeft s d pch slot = 0)) :
    ∃ cause, exec (.rowCeLimit d pch slot row) s =
      .next (ended s (retirePage (rowReported s d pch slot row false) d (pageOfRow slot row) cause)) := by
  rw [rowCeLimit_eq hd hpch hslot hrow hfail hheld hpage, rowFailing]
  by_cases hgone : ((s.die d).repaired.contains (pch, slot, row) && resourcesLeft s d pch slot = 0) = true
  · rw [if_pos hgone, hgone, Bool.not_true, Bool.and_false]
    exact ⟨1, rfl⟩
  · have hfull : (upto 16).find? (fun x => !holdValid s d x) = none := by
      rw [List.find?_eq_none]
      intro x hx
      have hall := h.resolve_right fun ⟨h1, h2⟩ => hgone (by simp [h1, h2])
      simp [hall x (lt_of_mem_upto hx)]
    rw [if_neg hgone, hfull, Option.isSome_none, Bool.and_false, Bool.false_and]
    exact ⟨2, rfl⟩

end Limit

theorem mem_upto {n i : Nat} (h : i < n) : i ∈ upto n := by
  induction n with
  | zero => exact absurd h (Nat.not_lt_zero i)
  | succ n ih =>
    rcases Nat.lt_succ_iff_lt_or_eq.mp h with h | rfl
    · exact List.mem_append_left _ (ih h)
    · exact List.mem_append_right _ (List.mem_singleton.mpr rfl)

/-- A row that is not failing, is held or lies in a retired page is left alone. -/
theorem rowCeLimit_leaves {d pch slot row : Nat} (h : rowFails s d (pch, slot, row) = false ∨
    (∃ x, x < 16 ∧ holdValid s d x = true ∧ holdRow s d x = (pch, slot, row)) ∨ pageOfRow slot row ∈ retiredPages s d) :
    exec (.rowCeLimit d pch slot row) s = .next (ended s s) := by
  refine congrArg (fun t => Host.Outcome.next (ended s t)) (if_pos ?_)
  simp only [Bool.or_eq_true, List.any_eq_true, Bool.and_eq_true, decide_eq_true_eq, List.contains_eq_mem, Bool.not_eq_true']
  obtain h | ⟨x, hx, h⟩ | h := h
  · exact .inr h
  · exact .inl (.inl (.inr ⟨x, mem_upto hx, h⟩))
  · exact .inl (.inr h)

/-! ### The end of a copy -/

/-- Lines found poisoned stay so as others are added. -/
theorem mem_insertNat {l : List Nat} {a b : Nat} : b ∈ insertNat l a ↔ b = a ∨ b ∈ l := by
  induction l with
  | nil => simp [insertNat]
  | cons k t ih =>
    unfold insertNat
    split
    · simp
    split
    · next h => simp [h]
    · simp only [List.mem_cons, ih]
      tauto

section Poisoning

variable (es : List EccEvent)

/-- Poisoning the places of a list of events changes no register, byte, core or die, and no poison is lost. -/
theorem poisonAll_frame (s : State) : let t := es.foldl (fun s e => poisonAt s e.addr) s
    t.regs = s.regs ∧ t.mem = s.mem ∧ t.cores = s.cores ∧ t.dies = s.dies ∧ ∀ l ∈ s.poisonL, l ∈ t.poisonL := by
  induction es generalizing s with
  | nil => exact ⟨rfl, rfl, rfl, rfl, fun _ => id⟩
  | cons e es ih =>
    obtain ⟨hr, hm, hc, hd, hp⟩ := ih (poisonAt s e.addr)
    have hstep : (poisonAt s e.addr).regs = s.regs ∧ (poisonAt s e.addr).mem = s.mem ∧ (poisonAt s e.addr).cores = s.cores ∧
        (poisonAt s e.addr).dies = s.dies ∧ ∀ l ∈ s.poisonL, l ∈ (poisonAt s e.addr).poisonL := by
      unfold poisonAt
      split
      · exact ⟨rfl, rfl, rfl, rfl, fun l hl => mem_insertNat.mpr (.inr hl)⟩
      · exact ⟨rfl, rfl, rfl, rfl, fun _ => id⟩
    obtain ⟨hr', hm', hc', hd', hp'⟩ := hstep
    exact ⟨hr.trans hr', hm.trans hm', hc.trans hc', hd.trans hd', fun l hl => hp l (hp' l hl)⟩

/-- The line of each event in HBM is poisoned. -/
theorem poisonAll_mem (s : State) {e : EccEvent} (he : e ∈ es) (ha : e.addr < hbmTop) :
    e.addr / 64 ∈ (es.foldl (fun s e => poisonAt s e.addr) s).poisonL := by
  induction es generalizing s with
  | nil => cases he
  | cons x es ih =>
    obtain rfl | he := List.mem_cons.mp he
    · refine (poisonAll_frame es _).2.2.2.2 _ ?_
      have hp : poisonAt s e.addr = { s with poisonL := insertNat s.poisonL (e.addr / 64) } := if_pos ha
      change _ ∈ (poisonAt s e.addr).poisonL
      rw [hp]
      exact mem_insertNat.mpr (.inl rfl)
    · exact ih _ he

end Poisoning

/-- Events of the copied row that could not be corrected. -/
def unreadable (s : State) (d h : Nat) (ecc : List EccEvent) : List EccEvent :=
  ecc.filter (fun e => e.space = 0 && 2 ≤ e.bits && dieOfAddr e.addr = d && rowAt e.addr = holdRow s d h)

theorem rowHoldCopyDone_eq {d h : Nat} (hc : (s.die d).copying.contains h = true) (ecc : List EccEvent) :
    exec (.rowHoldCopyDone d h ecc) s = .next (ended s ((unreadable s d h ecc).foldl (fun s e => poisonAt s e.addr)
      (s.modDie d (fun x => { x with copying := x.copying.filter (fun y => y ≠ h) })))) :=
  congrArg (fun t => Host.Outcome.next (ended s t)) (if_neg (by rw [hc]; decide))

theorem rowHoldCopyDone_effect {d h : Nat} (hc : (s.die d).copying.contains h = true) (ecc : List EccEvent) :
    ∃ t, exec (.rowHoldCopyDone d h ecc) s = .next t ∧ (t.die d).copying = (s.die d).copying.filter (fun y => y ≠ h) ∧
      (∀ e ∈ ecc, e.space = 0 → 2 ≤ e.bits → e.addr < hbmTop → dieOfAddr e.addr = d → rowAt e.addr = holdRow s d h →
        t.poisonL.contains (e.addr / 64) = true) ∧ SameRegs [] s t ∧ SameMem s t ∧ SameCores [] s t := by
  refine ⟨_, rowHoldCopyDone_eq hc ecc, ?_⟩
  have hmod : ((s.modDie d (fun x => { x with copying := x.copying.filter (fun y => y ≠ h) })).die d).copying =
      (s.die d).copying.filter (fun y => y ≠ h) := by simp
  have hsame := State.modDie_cores s d (fun x => { x with copying := x.copying.filter (fun y => y ≠ h) })
  have hmem := State.modDie_mem s d (fun x => { x with copying := x.copying.filter (fun y => y ≠ h) })
  have hregs := State.modDie_regs s d (fun x => { x with copying := x.copying.filter (fun y => y ≠ h) })
  generalize s.modDie d (fun x => { x with copying := x.copying.filter (fun y => y ≠ h) }) = u at hmod hsame hmem hregs ⊢
  obtain ⟨hr, hm, hco, hdi, -⟩ := poisonAll_frame (unreadable s d h ecc) u
  refine ⟨?_, fun e he h0 h2 ha hd hrow => ?_, fun r _ => ?_, fun a => ?_, fun k _ => ?_⟩
  · rw [ended_die, State.die, hdi]
    exact hmod
  · rw [ended_poisonL, List.contains_iff_mem]
    exact poisonAll_mem _ _ (List.mem_filter.mpr ⟨he, by simp [h0, h2, hd, hrow]⟩) ha
  · rw [ended_rd, State.rd, State.rd, hr, hregs]
  · rw [ended_byte]
    exact byte_mem s (hm.trans hmem) a
  · rw [ended_core, State.core, State.core, hco, hsame]

/-! ### The scrubber -/

/-- The pass is one line further; `last` says that it was at the stack's last line. -/
def scrubbed (s : State) (d : Nat) (last : Bool) : State :=
  (s.modDie d (fun x => { x with scrub := if last then 0 else x.scrub + 1 })).setF (mcBase d) 2 1 (b2n !last)

theorem scrubStep_eq {d : Nat} (hd : d < 8) (h1 : s.fb (mcBase d + 0x10) 0 = true) (h2 : s.fb (mcBase d) 0 = true) :
    exec (.scrubStep d []) s = .next (ended s (if (s.die d).scrub + 1 = stackLines then
      (scrubbed s d true).addCtr (mcBase d + 0x40) 1 else scrubbed s d false)) := by
  have hg : ¬ (8 ≤ d || !s.fb (mcBase d + 0x10) 0 || !s.fb (mcBase d) 0) = true := by
    rw [h1, h2]
    simp [hd]
  rw [show exec (.scrubStep d []) s = execScrubStep d [] s from rfl, execScrubStep, done_eq, if_neg hg]
  refine congrArg (fun t => Host.Outcome.next (ended s t)) ?_
  dsimp only [List.filter_nil, List.foldl_nil]
  by_cases hlast : (s.die d).scrub + 1 = stackLines
  · simp only [hlast, if_true, scrubbed, decide_true, State.modDie]
  · simp only [hlast, if_false, scrubbed, decide_false, State.modDie, Bool.false_eq_true]

theorem scrubbed_effect (s : State) (d : Nat) (last : Bool) : ((scrubbed s d last).die d).scrub = (if last then 0 else (s.die d).scrub + 1) ∧
    (scrubbed s d last).fb (mcBase d) 2 = !last ∧ SameRegs [mcBase d] s (scrubbed s d last) := by
  refine ⟨?_, ?_, ?_⟩
  · rw [scrubbed, State.setF_die, State.die_modDie, if_pos rfl]
  · rw [scrubbed, State.fb, State.f_setF_same _ _ _ _ _ (by decide)]
    cases last <;> rfl
  · exact SameRegs.trans (fun _ _ => State.modDie_rd ..) (sameRegs_setF_mem (by simp) _ 2 1 _)

theorem ended_holdRow (s t : State) (d h : Nat) : holdRow (ended s t) d h = holdRow t d h := rfl

/-- Settles O30: what is done about a failing row goes by the free entries and by what its bank has left. -/
theorem failingRowsAndScrub : Obligations.FailingRowsAndScrub := by
  unfold Obligations.FailingRowsAndScrub
  refine ⟨?_, ?_, ?_, fun s d pch slot row => rowCeLimit_leaves, fun s d h ecc hc => rowHoldCopyDone_effect hc ecc,
    fun s d h ecc hc => congrArg (fun t => Host.Outcome.next (ended s t)) (if_pos (by rw [hc]; decide)), ?_, ?_, ?_⟩
  · intro s d pch slot row h hd hpch hslot hrow hfail hheld hpage hleft hauto hfree
    refine ⟨_, rowCeLimit_free hd hpch hslot hrow hfail hheld hpage hfree hleft, ?_⟩
    rw [if_pos hauto]
    obtain ⟨hv, hrow', hcopy, hregs⟩ := rowHeld_effect hpch hslot hrow (rowReported s d pch slot row true) d h
      ((s.die d).repaired.contains (pch, slot, row))
    refine ⟨(ended_fb ..).trans hv, (ended_holdRow ..).trans hrow', ?_, ?_, fun r hr => ?_, fun a => ?_, fun k _ => ?_⟩
    · rw [ended_die, hcopy, rowReported_copying]
    · rw [ended_raises, rowHeld, holdUsed, State.setF_raises, State.modDie_raises, State.wr_raises]
      exact rowReported_raises ..
    · rw [ended_rd, hregs r hr]
      exact rd_of_regs (rowReported_regs ..) r
    · simp [rowHeld, holdUsed, rowReported, rowForgotten]
    · simp [rowHeld, holdUsed, rowReported, rowForgotten]
  · intro s d pch slot row i hd hpch hslot hrow hfail hheld hpage hgone hi
    obtain ⟨cause, he⟩ := rowCeLimit_retires hd hpch hslot hrow hfail hheld hpage hgone
    have hfree := List.find?_some hi
    rw [retirePage_eq (s := rowReported s d pch slot row false) hpage hi] at he
    obtain ⟨hv, hp, hregs⟩ := pageRetired_effect (show pageOfRow slot row < 2 ^ 20 by unfold pageOfRow; omega)
      (rowReported s d pch slot row false) d cause i
    refine ⟨_, he, by simpa using hfree, (ended_fb ..).trans hv, (ended_f ..).trans hp, fun r hr => ?_, fun a => ?_, fun k _ => ?_⟩
    · rw [ended_rd, hregs r hr]
      exact rd_of_regs (rowReported_regs ..) r
    · simp [pageRetired, rowReported, rowForgotten]
    · simp [pageRetired, rowReported, rowForgotten]
  · intro s d pch slot row h hd hpch hslot hrow hfail hheld hpage hrep hauto hfree
    refine ⟨_, rowCeLimit_free hd hpch hslot hrow hfail hheld hpage hfree (.inl hrep), ?_⟩
    rw [hauto, if_neg (by decide)]
    refine ⟨(ended_raises ..).trans (rowReported_raises ..), fun r _ => (ended_rd ..).trans (rd_of_regs (rowReported_regs ..) r),
      fun a => (ended_byte ..).trans (byte_mem s (rowReported_mem ..) a), fun k _ => ?_⟩
    simp [rowReported, rowForgotten]
  · intro s d hd h1 h2 hl
    refine ⟨_, scrubStep_eq hd h1 h2, ?_⟩
    rw [if_neg (by omega)]
    obtain ⟨hs, hf, hr⟩ := scrubbed_effect s d false
    exact ⟨by rw [ended_die]; exact hs, (ended_fb ..).trans hf, fun r h => (ended_rd ..).trans (hr r h), fun a => by simp [scrubbed], fun k _ => by simp [scrubbed]⟩
  · intro s d hd h1 h2 hl
    refine ⟨_, scrubStep_eq hd h1 h2, ?_⟩
    rw [if_pos hl]
    obtain ⟨hs, hf, hr⟩ := scrubbed_effect s d true
    have hne : mcBase d + 0x40 ≠ mcBase d := by omega
    refine ⟨?_, ?_, ?_, fun r hr' => ?_, fun a => by simp [scrubbed], fun k _ => by simp [scrubbed]⟩
    · rw [ended_die, State.addCtr_die]
      exact hs
    · rw [ended_fb, State.fb_addCtr_other _ _ _ _ _ hne.symm]
      exact hf
    · rw [ended_rd, State.rd_addCtr_same, hr _ (by simp)]
    · simp only [List.mem_cons, List.not_mem_nil, or_false, not_or] at hr'
      rw [ended_rd, State.rd_addCtr_other _ _ _ _ hr'.2, hr _ (by simpa using hr'.1)]
  · intro s d ecc h
    exact congrArg (fun t => Host.Outcome.next (ended s t)) (if_pos (by rcases h with h | h <;> simp [h]))

end Sys2Proof.Machine
end

section
/-! ## Kernels on their harts (R110, R137-R139) -/

namespace Sys2Proof.Machine

theorem upto_eq_range (n : Nat) : upto n = List.range n := by
  induction n with
  | zero => rfl
  | succ n ih => rw [upto, ih, List.range_succ]

/-! ### Registers of a hart -/

theorem nth_setNth {α : Type} (d : α) (l : List α) (i j : Nat) (v : α) :
    nth d (setNth l i v) j = if i = j ∧ i < l.length then v else nth d l j := by
  unfold nth setNth
  rw [List.getD_eq_getElem?_getD, List.getD_eq_getElem?_getD, List.getElem?_set]
  by_cases h : i = j
  · subst h
    by_cases hl : i < l.length <;> simp [hl]
  · simp [h]

theorem bitsN_lt (v lsb w : Nat) : bitsN v lsb w < 2 ^ w := Nat.mod_lt _ (by positivity)
theorem rRd_lt (w : Nat) : rRd w < 32 := bitsN_lt w 7 5

section Registers

variable {h : Hart} {d : Nat} {v : Word}

theorem Hart.xr_setX_same (hd : d ≠ 0) (hlen : d < h.x.length) : (h.setX d v).xr d = v := by
  rw [setX, if_neg hd, xr, if_neg hd, nth_setNth, if_pos ⟨rfl, hlen⟩]

theorem Hart.xr_setX_other {r : Nat} (hr : r ≠ d) : (h.setX d v).xr r = h.xr r := by
  unfold setX
  split
  · rfl
  · unfold xr
    rw [nth_setNth, if_neg (c := d = r ∧ _) (fun he => hr he.1.symm)]

theorem Hart.setX_v : (h.setX d v).v = h.v := by unfold setX; split <;> rfl
theorem Hart.setX_f : (h.setX d v).f = h.f := by unfold setX; split <;> rfl

/-- An instruction that writes one integer register and the pc. -/
theorem Hart.writes_register (hd : d ≠ 0) (hlen : d < h.x.length) (p : Word) :
    ({ h.setX d v with pc := p } : Hart).xr d = v ∧ ({ h.setX d v with pc := p } : Hart).pc = p ∧
      (∀ r, r ≠ d → ({ h.setX d v with pc := p } : Hart).xr r = h.xr r) ∧ ({ h.setX d v with pc := p } : Hart).v = h.v ∧
      ({ h.setX d v with pc := p } : Hart).f = h.f :=
  ⟨xr_setX_same hd hlen, rfl, fun _ hr => xr_setX_other hr, setX_v, setX_f⟩

end Registers

/-! ### Scalar instructions -/

/-- A two's-complement reading of 64 bits is the number itself as a word. -/
theorem sext_64 (v : Nat) : sext 64 v = BitVec.ofNat 64 v := by
  have hn : v % 2 ^ 64 < 2 ^ 64 := Nat.mod_lt _ (by positivity)
  have hmod : BitVec.ofNat 64 v = BitVec.ofNat 64 (v % 2 ^ 64) := by
    rw [← BitVec.toNat_inj, BitVec.toNat_ofNat, BitVec.toNat_ofNat, Nat.mod_mod]
  unfold sext toSigned
  rw [hmod]
  generalize v % 2 ^ 64 = n at hn ⊢
  dsimp only
  split
  · exact BitVec.ofInt_natCast ..
  · rw [← BitVec.toNat_inj, BitVec.toNat_ofInt, BitVec.toNat_ofNat]
    norm_num at *
    omega

section Scalar

variable (c : KCtx) (s : State) (h : Hart) (w len : Nat)

theorem execRv_add (hop : bitsN w 0 7 = 0x33) (h3 : rF3 w = 0) (h7 : rF7 w = 0) :
    execRv c s h w len = .next s { h.setX (rRd w) (h.xr (rRs1 w) + h.xr (rRs2 w)) with pc := h.pc + BitVec.ofNat 64 len } := by
  unfold execRv
  rw [hop, h3, h7]
  rfl

theorem execRv_jal (hop : bitsN w 0 7 = 0x6F) :
    execRv c s h w len = .next s { h.setX (rRd w) (h.pc + BitVec.ofNat 64 len) with pc := h.pc + immJ w } := by
  unfold execRv
  rw [hop]
  rfl

theorem execRv_ld {t : State} {v : Nat} (hop : bitsN w 0 7 = 0x03) (h3 : rF3 w = 3)
    (hload : c.load s true (h.xr (rRs1 w) + immI w).toNat 8 = .ok t v) :
    execRv c s h w len = .next t { h.setX (rRd w) (BitVec.ofNat 64 v) with pc := h.pc + BitVec.ofNat 64 len } := by
  have hmem : execRv c s h w len = execMem c s h w len := by
    unfold execRv
    rw [hop]
    rfl
  rw [hmem, execMem, hop, h3]
  change HOut.ofMem h len (c.load s true (h.xr (rRs1 w) + immI w).toNat 8) (fun v => h.setX (rRd w) (sext 64 v)) = _
  rw [hload]
  simp only [HOut.ofMem, sext_64]

theorem execRv_system (hop : bitsN w 0 7 = 0x73) : execRv c s h w len = execSystem s h w len := by
  unfold execRv
  rw [hop]
  rfl

/-- A SYSTEM instruction of funct3 0 that is neither ECALL nor EBREAK is illegal. -/
theorem execCsr_none (h3 : rF3 w = 0) : execCsr h w = none := by
  unfold execCsr
  rw [h3]
  dsimp only
  split <;> rfl

/-- A fetch that no window grants. -/
theorem hartStep_refused (hno : runOk s c.sl c.q c.ctx 1 h.pc.toNat 2 = false) :
    hartStep c s h = .trap (raiseProt s c.sl c.q c.tag h.pc.toNat) h (.cause 1) := by
  have hread : c.read s h.pc.toNat 2 1 = c.refused s h.pc.toNat 1 := if_pos (by rw [hno]; rfl)
  unfold hartStep
  rw [hread]
  rfl

end Scalar

/-! ### Runs -/

/-- What a run of `n` more instructions makes of the end of a run. -/
def hartGoOn (c : KCtx) (n : Nat) : State × Hart × Option Trap → State × Hart × Option Trap
  | (t, g, none) => hartRun c n t g
  | r => r

theorem hartRun_add (c : KCtx) (m n : Nat) (s : State) (h : Hart) : hartRun c (m + n) s h = hartGoOn c n (hartRun c m s h) := by
  induction m generalizing s h with
  | zero => rw [Nat.zero_add]; rfl
  | succ m ih =>
    rw [Nat.succ_add, hartRun, hartRun]
    cases hartStep c s h with
    | next t g => exact ih t g
    | trap t g x => rfl

/-! ### The start of a kernel -/

theorem freeDwords_length (s : State) (n : Nat) : (freeDwords s n).length = n := by simp [freeDwords]

/-- The integer registers that a kernel starts with. -/
theorem hartStart_xr (s : State) (entry tag a0 a1 a2 a3 a4 : Nat) :
    (hartStart s entry tag [a0, a1, a2, a3, a4]).xr 10 = BitVec.ofNat 64 a0 ∧ (hartStart s entry tag [a0, a1, a2, a3, a4]).xr 11 = BitVec.ofNat 64 a1 ∧
      (hartStart s entry tag [a0, a1, a2, a3, a4]).xr 12 = BitVec.ofNat 64 a2 ∧ (hartStart s entry tag [a0, a1, a2, a3, a4]).xr 13 = BitVec.ofNat 64 a3 ∧
      (hartStart s entry tag [a0, a1, a2, a3, a4]).xr 14 = BitVec.ofNat 64 a4 ∧ (hartStart s entry tag [a0, a1, a2, a3, a4]).xr 15 = BitVec.ofNat 64 tag := by
  have hlen := freeDwords_length s 32
  unfold hartStart
  simp [Hart.xr, nth, setNth, hlen, List.zipIdx]

theorem toNat_ofNat_lt {n k : Nat} (h : n < 2 ^ k) (hk : k ≤ 64) : (BitVec.ofNat 64 n).toNat = n := by
  rw [BitVec.toNat_ofNat, Nat.mod_eq_of_lt (h.trans_le (Nat.pow_le_pow_right (by decide) hk))]

/-! ### Vector registers -/

/-- A digit of a number written from its digits. -/
theorem digit_of_foldr {B : Nat} (hB : 0 < B) (g : Nat → Nat) : ∀ (l : List Nat) (i : Nat) (hi : i < l.length),
    l.foldr (fun k acc => acc * B + g k % B) 0 / B ^ i % B = g l[i] % B
  | k :: l, 0, _ => by
    rw [List.foldr_cons, pow_zero, Nat.div_one, Nat.add_comm, Nat.add_mul_mod_self_right, Nat.mod_mod]
    rfl
  | k :: l, i + 1, hi => by
    rw [List.foldr_cons, pow_succ', ← Nat.div_div_eq_div_mul, Nat.add_comm, Nat.add_mul_div_right _ _ hB,
      Nat.div_eq_of_lt (Nat.mod_lt _ hB), Nat.zero_add]
    exact digit_of_foldr hB g l i (Nat.lt_of_succ_lt_succ hi)

/-- Digits below a length make a number below the power. -/
theorem foldr_digits_lt {B : Nat} (hB : 0 < B) (g : Nat → Nat) : ∀ l : List Nat, l.foldr (fun k acc => acc * B + g k % B) 0 < B ^ l.length
  | [] => Nat.one_pos
  | k :: l => by
    have ih := foldr_digits_lt hB g l
    rw [List.foldr_cons, List.length_cons, pow_succ]
    have hd := Nat.mod_lt (g k) hB
    calc l.foldr (fun k acc => acc * B + g k % B) 0 * B + g k % B
        < (l.foldr (fun k acc => acc * B + g k % B) 0 + 1) * B := by rw [Nat.succ_mul]; omega
      _ ≤ B ^ l.length * B := Nat.mul_le_mul_right _ ih

/-- The image of a register of `n` elements of `w` bits. -/
def regImage (w n : Nat) (new : Nat → Nat) : Nat := (upto n).foldr (fun k acc => acc * 2 ^ w + new k % 2 ^ w) 0

theorem regImage_el {w n N i : Nat} (new : Nat → Nat) (hN : w * n ≤ N) (hi : i < n) :
    (BitVec.ofNat N (regImage w n new)).toNat >>> (w * i) % 2 ^ w = new i % 2 ^ w := by
  have hlt : regImage w n new < 2 ^ N := by
    have h := foldr_digits_lt (B := 2 ^ w) (by positivity) new (upto n)
    rw [upto_length, ← pow_mul] at h
    exact h.trans_le (Nat.pow_le_pow_right (by decide) hN)
  have hlen : i < (upto n).length := by rwa [upto_length]
  rw [BitVec.toNat_ofNat, Nat.mod_eq_of_lt hlt, Nat.shiftRight_eq_div_pow, pow_mul, regImage, digit_of_foldr (by positivity) new _ i hlen]
  simp only [upto_eq_range, List.getElem_range]

theorem Hart.putRegs_one (h : Hart) (r : Nat) (new : Nat → Nat → Nat) :
    h.putRegs r 32 1 new = { h with v := setNth h.v r (BitVec.ofNat 16384 (regImage 32 512 (fun k => new k (h.el ⟨r, 32, 0⟩ k)))) } := by
  unfold putRegs regImage
  rw [show upto 1 = [0] from rfl, show perReg 32 = 512 from rfl]
  simp only [List.foldl_cons, List.foldl_nil, Nat.zero_mul, Nat.zero_add, Nat.add_zero]

/-- An element of a register of 32-bit elements. -/
theorem Hart.el_32 (h : Hart) (r : Nat) {i : Nat} (hi : i < 512) (em : Int) :
    h.el ⟨r, 32, em⟩ i = (nth 0#16384 h.v r).toNat >>> (32 * i) % 2 ^ 32 := by
  have hq : i / 512 = 0 := Nat.div_eq_of_lt hi
  have hr : i % 512 = i := Nat.mod_eq_of_lt hi
  unfold el perReg
  simp only [Nat.reduceDiv, hq, hr, Nat.add_zero]

/-- A body of unmasked 32-bit elements in one register, tail and mask undisturbed: its elements take the new values, the others and the other
registers stay. -/
theorem vbody_one {h : Hart} {d : Nat} (hd : d < h.v.length) (hst : h.vstart = 0) (vl : Nat) (new : Nat → Nat × Nat) :
    (vbody h false false true vl ⟨d, 32, 0⟩ new).1.x = h.x ∧
      (∀ i, i < vl → i < 512 → (vbody h false false true vl ⟨d, 32, 0⟩ new).1.el ⟨d, 32, 0⟩ i = (new i).1 % 2 ^ 32) ∧
      (∀ i, vl ≤ i → i < 512 → (vbody h false false true vl ⟨d, 32, 0⟩ new).1.el ⟨d, 32, 0⟩ i = h.el ⟨d, 32, 0⟩ i) ∧
      ∀ r, r ≠ d → nth 0#16384 (vbody h false false true vl ⟨d, 32, 0⟩ new).1.v r = nth 0#16384 h.v r := by
  unfold vbody
  rw [hst]
  split
  · next h0 => exact ⟨rfl, fun i hi => absurd hi (by omega), fun _ _ _ => rfl, fun _ _ => rfl⟩
  · dsimp only
    rw [show Grp.regs ⟨d, 32, 0⟩ = 1 from rfl, Hart.putRegs_one]
    have hel (k : Nat) (hk : k < 512) : h.el ⟨d, 32, 0⟩ k % 2 ^ 32 = h.el ⟨d, 32, 0⟩ k := Nat.mod_mod ..
    refine ⟨rfl, fun i hi hi' => ?_, fun i hi hi' => ?_, fun r hr => ?_⟩
    · rw [Hart.el_32 _ _ hi']
      dsimp only
      rw [nth_setNth, if_pos ⟨rfl, hd⟩, regImage_el _ (by decide) hi']
      simp [hi, Hart.act]
    · rw [Hart.el_32 _ _ hi']
      dsimp only
      rw [nth_setNth, if_pos ⟨rfl, hd⟩, regImage_el _ (by decide) hi']
      simp only [Nat.not_lt_zero, if_false, if_neg (not_lt.mpr hi), Bool.false_eq_true]
      exact hel i hi'
    · dsimp only
      rw [nth_setNth, if_neg (fun he => hr he.1.symm)]

/-- vadd.vv with elements of 32 bits and one register to a group. -/
theorem execVarith_vadd {h : Hart} {w : Nat} (h3 : rF3 w = 0) (h7 : rF7 w = 1) (hty : h.vtype = 0x10#64) :
    execVarith h w = satOf (vbody h false false true h.vl ⟨rRd w, 32, 0⟩
      (fun i => ((h.el ⟨rRs2 w, 32, 0⟩ i + h.el ⟨rRs1 w, 32, 0⟩ i) % 2 ^ 32, 0))) := by
  have hvt : vtypeOf h.vtype.toNat = some ⟨32, 0, false, false⟩ := by
    rw [hty]
    decide
  have h3' : bitsN w 12 3 = 0 := h3
  have h6 : bitsN w 26 6 = 0 := by
    unfold rF7 bitsN at h7
    unfold bitsN
    omega
  have hm : bitN w 25 = true := by
    unfold rF7 bitsN at h7
    unfold bitN
    rw [decide_eq_true_eq]
    omega
  have hok (d a b : Nat) : dstOk true ⟨d, 32, 0⟩ [⟨a, 32, 0⟩, ⟨b, 32, 0⟩] = true := by
    simp [dstOk, srcOk, Grp.ok, Grp.mayCover, Grp.regs, pow2N]
    omega
  unfold execVarith
  rw [hvt, h3', h6, hm]
  change vif (dstOk true ⟨rRd w, 32, 0⟩ [⟨rRs2 w, 32, 0⟩, ⟨rRs1 w, 32, 0⟩]) _ = _
  rw [hok]
  rfl

/-- Settles O60: each clause by the equation of its instruction. -/
theorem kernelHarts : Obligations.KernelHarts := by
  unfold Obligations.KernelHarts
  refine ⟨?_, fun c m n s h => ?_, ?_, ?_, ?_, ?_, fun c s h len => ⟨?_, ?_, ?_⟩, fun c s h => hartStep_refused c s h⟩
  · intro s sl k entry a0 a1 a2 a3 a4 he h0 h1 h2 h3 h4 ht
    obtain ⟨r0, r1, r2, r3, r4, r5⟩ := hartStart_xr s entry k.tag a0 a1 a2 a3 a4
    have hcore : (startKernel s sl k entry [a0, a1, a2, a3, a4]).core sl =
        { s.core sl with kernel := some k, hart := hartStart s entry k.tag [a0, a1, a2, a3, a4] } := by
      change (s.modCore sl (fun c => { c with kernel := some k, hart := hartStart s entry k.tag [a0, a1, a2, a3, a4] })).core sl = _
      rw [State.core_modCore, if_pos rfl]
    rw [hcore]
    refine ⟨rfl, _, rfl, toNat_ofNat_lt he (by decide), rfl, ?_, ?_, ?_, ?_, ?_, ?_, rfl, rfl, rfl⟩
    · rw [r0, toNat_ofNat_lt h0 (by decide)]
    · rw [r1, toNat_ofNat_lt h1 (by decide)]
    · rw [r2, toNat_ofNat_lt h2 (by decide)]
    · rw [r3, toNat_ofNat_lt h3 (by decide)]
    · rw [r4, toNat_ofNat_lt h4 (by decide)]
    · rw [r5, toNat_ofNat_lt ht (by decide)]
  · rw [hartRun_add]
    obtain ⟨t, g, r⟩ := hartRun c m s h
    cases r <;> rfl
  · intro c s h w len hop h3 h7 hd hlen
    exact ⟨_, execRv_add c s h w len hop h3 h7, Hart.writes_register hd (hlen ▸ rRd_lt w) _⟩
  · intro c s h w len hop hd hlen
    exact ⟨_, execRv_jal c s h w len hop, Hart.writes_register hd (hlen ▸ rRd_lt w) _⟩
  · intro c s t h w len v hop h3 hd hlen hload
    exact ⟨_, execRv_ld c s h w len hop h3 hload, Hart.writes_register hd (hlen ▸ rRd_lt w) _⟩
  · intro c s h w len hop h3 h7 hlen hty hst hvl
    have hexec : execRv c s h w len = .ofHart s h len (execVarith h w) := by
      unfold execRv
      rw [hop, h3]
      rfl
    obtain ⟨hx, hin, htail, hother⟩ := vbody_one (hlen ▸ rRd_lt w) hst h.vl
      (fun i => ((h.el ⟨rRs2 w, 32, 0⟩ i + h.el ⟨rRs1 w, 32, 0⟩ i) % 2 ^ 32, 0))
    rw [hexec, execVarith_vadd h3 h7 hty]
    refine ⟨_, rfl, rfl, hx, fun i hi => ?_, htail, hother⟩
    exact (hin i hi (by omega)).trans (Nat.mod_mod ..)
  · rw [execRv_system c s h _ len (by decide)]
    rfl
  · rw [execRv_system c s h _ len (by decide)]
    rfl
  · rw [execRv_system c s h _ len (by decide), execSystem, if_neg (by decide), if_neg (by decide), execCsr_none h _ (by decide)]
    rfl

end Sys2Proof.Machine
end

section
/-! A package reset gives the bytes that a slice held newer back to memory, wherever its record of them says they lie (R395, R396). -/
namespace Sys2Proof.Machine

/-- A package reset is asked for, and the slices note an older byte, 1, for a line that lies in host memory. -/
def staleHostLine : State :=
  { State.reset with boot := { Boot.reset with resetReq := some (0, 0) }, stale := [(hostA 0 / 64, [1#8])] }

/-- The state after that reset. -/
def staleHostReset : State := resetPackage staleHostLine 0 0

theorem staleHostReset_byte : staleHostReset.byte (hostA 0) ≠ staleHostLine.byte (hostA 0) := by decide +kernel

/-- Refutes O14: its clause on a package reset says that host memory keeps its bytes. What a slice noted as older for a line is written back to
the line's place, and nothing in the statement says that the line lies in HBM. -/
theorem not_packageResets : ¬ Obligations.PackageResets := by
  unfold Obligations.PackageResets
  rintro ⟨-, -, -, hreset, -⟩
  obtain ⟨t, hexec, -, -, -, -, -, -, -, -, -, -, hhost, -⟩ := hreset staleHostLine 0 0 rfl
  have hrow : exec .packageReset staleHostLine = .next (ended staleHostLine staleHostReset) := done_eq ..
  rw [hrow] at hexec
  cases hexec
  have hbyte := hhost (hostA 0) (Nat.le_refl _)
  rw [ended_byte] at hbyte
  exact staleHostReset_byte hbyte

end Sys2Proof.Machine
end

section
/-! ## Regulators, power domains, levels and temperatures (R375-R393, R17) -/

namespace Sys2Proof.Machine

variable {s t u : State}

/-! ### Records that no ring takes -/

theorem glint_silent {b : Nat} {core : Option Nat} (h : ∀ g, g < 8 → ringTakes s g b core = false) (bs : List Byte) : glint s b core bs = s := by
  unfold glint
  have hall : ∀ g ∈ upto 8, ringTakes s g b core = false := fun g hg => h g (lt_of_mem_upto hg)
  generalize upto 8 = l at hall
  induction l with
  | nil => rfl
  | cons g l ih =>
    rw [List.foldl_cons, hall g (List.mem_cons_self ..), if_neg (by decide)]
    exact ih fun g hg => hall g (List.mem_cons_of_mem _ hg)

theorem ringTakes_congr {r b : Nat} {core : Option Nat} (h : t.rd (rRing r 8) = s.rd (rRing r 8)) : ringTakes t r b core = ringTakes s r b core := by
  unfold ringTakes State.fb State.f
  rw [h]

theorem rPd_ne_ring {d n r : Nat} (h : (d < 8 ∧ n ≤ 45) ∨ (d = 8 ∧ n ≤ 22)) (hr : r < 8) : rRing r 8 ≠ rPd d n := by
  obtain ⟨hd, hn⟩ | ⟨rfl, hn⟩ := h
  · exact (rPd_ne_rRing hd hn hr (by decide)).symm
  · unfold rPd
    rw [if_pos rfl]
    unfold rRing powerBase glintBase
    omega

/-- A domain's state reads as it was set, where no trace ring takes records of it. -/
theorem pdState_setPd {d n st : Nat} (hst : st < 5) (hdom : (d < 8 ∧ n ≤ 45) ∨ (d = 8 ∧ n ≤ 22))
    (hring : ∀ r, r < 8 → ringTakes s r 2 none = false) : pdState (setPd s d n st) d n = st := by
  have hsilent (r : Nat) (hr : r < 8) : ringTakes (s.setF (rPd d n) 0 3 st) r 2 none = false := by
    rw [ringTakes_congr (State.rd_setF_other _ _ _ _ _ _ (rPd_ne_ring hdom hr))]
    exact hring r hr
  have hset : pdState (s.setF (rPd d n) 0 3 st) d n = st := by
    rw [pdState, State.f_setF_same _ _ _ _ _ (by decide), Nat.mod_eq_of_lt (by omega)]
  unfold setPd
  dsimp only
  split
  · next h => exact h
  · rw [glintPower, glintPower, glint_silent hsilent, glint_silent hsilent, ite_self]
    exact hset

/-! ### Requests to regulators -/

section Requests

variable {d rail : Nat} {r : Rsi}

theorem rsiAck_level (h : takeRsi s d rail = some (r, u)) (hr : r.dom = none) :
    exec (.rsiAck d rail) s = .next (ended s (pumpRsi (levelStep (u.modDie d (fun x => { x with rail0 := r.code })) d) d)) := by
  show execRsiAck d rail s = _
  rw [execRsiAck, h, done_eq]
  dsimp only
  rw [hr]

theorem rsiAck_gate {n : Nat} (h : takeRsi s d rail = some (r, u)) (hr : r.dom = some n) :
    exec (.rsiAck d rail) s = .next (ended s (pumpRsi (gateDone u d n r.code) d)) := by
  show execRsiAck d rail s = _
  rw [execRsiAck, h, done_eq]
  dsimp only
  rw [hr]

theorem rsiTimeout_gate {n : Nat} (h : takeRsi s d rail = some (r, u)) (hr : r.dom = some n) :
    exec (.rsiTimeout d rail) s = .next (ended s
      (pumpRsi (gateFail (u.raise .rsiTimeout d (packBits [(rail, 0, 4), (r.code, 4, 4)])) d n r.code) d)) := by
  show execRsiTimeout d rail s = _
  rw [execRsiTimeout, h, done_eq]
  dsimp only
  rw [hr]

theorem rsiTimeout_level (h : takeRsi s d rail = some (r, u)) (hr : r.dom = none) :
    exec (.rsiTimeout d rail) s = .next (ended s
      (pumpRsi ((((u.raise .rsiTimeout d (packBits [(rail, 0, 4), (r.code, 4, 4)])).modDie d
        (fun x => { x with rsi := x.rsi.filter (fun y => y.dom.isSome) })).setB (rPlevel d) 12 true).setB (rPlevel d) 11 false) d)) := by
  show execRsiTimeout d rail s = _
  rw [execRsiTimeout, h, done_eq]
  dsimp only
  rw [hr]

end Requests

/-! ### Idle domains -/

/-- A domain that is ON, with AUTO, not held awake and idle. -/
theorem domainIdle_guard {d n : Nat} (h8 : ¬ 8 < d) (hn : n ≤ 45) (h22 : d = 8 → n ≤ 22) (hon : domOn s d n = true) (hauto : s.fb (rPd d n) 3 = true)
    (hawake : s.fb (rPd d n) 5 = false) (hidle : domIdle s d n = true) :
    ¬ (8 < d || (d = 8 && 22 < n) || 45 < n || !domOn s d n || !s.fb (rPd d n) 3 || s.fb (rPd d n) 5 || !domIdle s d n) = true := by
  simp only [hon, hauto, hawake, hidle, Bool.or_eq_true, Bool.and_eq_true, decide_eq_true_eq, Bool.not_true, Bool.false_eq_true, or_false]
  omega

theorem domainIdle_hub {n : Nat} (hn : n ≤ 22) (hon : domOn s 8 n = true) (hauto : s.fb (rPd 8 n) 3 = true) (hawake : s.fb (rPd 8 n) 5 = false)
    (hidle : domIdle s 8 n = true) : exec (.domainIdle 8 n) s = .next (ended s (setPd s 8 n (if s.fb (rPd 8 n) 4 then 3 else 2))) := by
  show execDomainIdle 8 n s = _
  rw [execDomainIdle, done_eq, if_neg (domainIdle_guard (by decide) (by omega) (fun _ => hn) hon hauto hawake hidle), if_pos rfl]

theorem domainIdle_die {d n : Nat} (hd : d < 8) (hn : n ≤ 45) (hon : domOn s d n = true) (hauto : s.fb (rPd d n) 3 = true)
    (hawake : s.fb (rPd d n) 5 = false) (hidle : domIdle s d n = true) :
    exec (.domainIdle d n) s = .next (ended s
      (askGate (setPd (setFormer (if n = 41 ∧ s.fb (rPd d n) 4 = true then sliceFlush s d else s) d n 0) d n 1) d n
        (if s.fb (rPd d n) 4 then gateOff else gateRetention))) := by
  show execDomainIdle d n s = _
  rw [execDomainIdle, done_eq, if_neg (domainIdle_guard (by omega) hn (by omega) hon hauto hawake hidle), if_neg (by omega)]
  simp only [Bool.and_eq_true, decide_eq_true_eq]

/-- A rail of a die or of the hub that is out of its window with no request pending. -/
theorem ivrFault_raises {d rail : Nat} (hd : d ≤ 8) (hrail : rail < 8) (hreq : d < 8 → ∀ r ∈ (s.die d).rsi, r.rail ≠ rail) (mv : Nat) :
    exec (.ivrFault d rail mv) s = .next (ended s (s.raise .ivrFault 0 (packBits [(d, 0, 4), (rail, 4, 3), (mv, 7, 10)]))) := by
  refine congrArg (fun t => Host.Outcome.next (ended s t)) (if_neg ?_)
  simp only [Bool.or_eq_true, Bool.and_eq_true, decide_eq_true_eq, List.any_eq_true, not_or, not_and, not_lt, not_le, not_exists]
  exact ⟨⟨hd, hrail⟩, hreq⟩

/-- Settles O20: each clause by the equation of its command. -/
theorem regulatorsAndDomains : Obligations.RegulatorsAndDomains := by
  unfold Obligations.RegulatorsAndDomains
  refine ⟨fun s u d rail r => rsiAck_level, fun s u d rail n r => rsiAck_gate, fun s u d rail n r => rsiTimeout_gate,
    fun s u d rail r => rsiTimeout_level, fun s n => domainIdle_hub, fun s d n st => pdState_setPd, fun s d n => domainIdle_die,
    fun s rail mv hrail => ivrFault_raises le_rfl hrail (fun h => absurd h (lt_irrefl 8)) mv, fun s d rail mv hd hrail h => ivrFault_raises hd.le hrail (fun _ => h) mv⟩

/-! ### Levels -/

/-- The work from `s` to `t` moves dies toward their levels only: what is raised, the boot state, the thermal caps, the power status and the
event number stay. -/
structure LevelFrame (s t : State) : Prop where
  raises : t.raises = s.raises
  boot : t.boot = s.boot
  evNo : t.evNo = s.evNo
  status : t.rd rPwrStatus = s.rd rPwrStatus
  therm : ∀ d, t.f (rPlevel d) 16 3 = s.f (rPlevel d) 16 3

namespace LevelFrame

theorem refl (s : State) : LevelFrame s s := ⟨rfl, rfl, rfl, rfl, fun _ => rfl⟩

theorem trans (h : LevelFrame s t) (g : LevelFrame t u) : LevelFrame s u :=
  ⟨g.raises.trans h.raises, g.boot.trans h.boot, g.evNo.trans h.evNo, g.status.trans h.status, fun d => (g.therm d).trans (h.therm d)⟩

theorem modDie (s : State) (d : Nat) (f : Die → Die) : LevelFrame s (s.modDie d f) := ⟨rfl, rfl, rfl, rfl, fun _ => rfl⟩
theorem emit (s : State) (g : Signal) : LevelFrame s (s.emit g) := ⟨rfl, rfl, rfl, rfl, fun _ => rfl⟩

theorem setB (s : State) (d : Nat) (b : Bool) : LevelFrame s (s.setB (rPlevel d) 11 b) := by
  refine ⟨State.setB_raises .., State.setB_boot .., State.setB_evNo .., State.rd_setB_other _ _ _ _ _ ?_, fun k => ?_⟩
  · unfold rPwrStatus powerBase rPlevel dieBase
    omega
  · by_cases h : rPlevel k = rPlevel d
    · rw [h, State.f_setB_apart _ _ _ _ _ _ (by decide) (by decide)]
    · rw [State.f_setB_other _ _ _ _ _ _ _ h]

theorem pumpRsi (s : State) (d : Nat) : LevelFrame s (pumpRsi s d) := by
  unfold Machine.pumpRsi
  refine trans (List.foldlRecOn _ _ (motive := fun a : State × List Rsi × Nat => LevelFrame s a.1) (refl s) fun a ha q _ => ?_) (modDie _ _ _)
  split_ifs
  · exact ha
  · exact ha
  · exact ha.trans (emit _ _)

theorem levelStep (s : State) (d : Nat) : LevelFrame s (levelStep s d) := by
  unfold Machine.levelStep askLevel
  dsimp only
  split_ifs
  · exact refl s
  · exact ((modDie ..).trans (setB ..)).trans (emit ..)
  · exact ((setB ..).trans (modDie ..)).trans (pumpRsi ..)
  · exact refl s
  · exact ((modDie ..).trans (setB ..)).trans (emit ..)
  · exact setB ..

theorem levelAll (s : State) : LevelFrame s (levelAll s) := by
  unfold Machine.levelAll
  refine List.foldlRecOn _ _ (motive := fun u => LevelFrame s u) (refl s) fun u hu d _ => ?_
  split
  · exact hu.trans (levelStep u d)
  · exact hu

end LevelFrame

/-! ### Thermal caps -/

theorem rTherm_fits (d : Nat) : (rTherm d).2 + 3 ≤ 64 := by unfold rTherm; split <;> (dsimp only; decide)

/-- Moving dies toward their levels leaves the thermal caps. -/
theorem LevelFrame.thermCap (h : LevelFrame s t) (d : Nat) : thermCap t d = thermCap s d := by
  unfold Machine.thermCap rTherm
  split
  · unfold State.f
    rw [h.status]
  · exact h.therm d

theorem setTherm_frame (s : State) (d v : Nat) : LevelFrame (s.setF (rTherm d).1 (rTherm d).2 3 v) (setTherm s d v) := by
  unfold setTherm
  dsimp only
  split
  · exact .levelAll _
  · exact .levelStep _ _

theorem thermCap_setTherm {d v : Nat} (hv : v ≤ 5) (s : State) : thermCap (setTherm s d v) d = v := by
  rw [(setTherm_frame s d v).thermCap, thermCap, State.f_setF_same _ _ _ _ _ (rTherm_fits d), Nat.mod_eq_of_lt (by omega)]

/-! ### Reports in a row -/

theorem raiseAll_frame {α : Type} (src : α → FaultSrc) (i y : α → Nat) (l : List α) (s : State) :
    (l.foldl (fun s a => s.raise (src a) (i a) (y a)) s).evNo = s.evNo ∧ (l.foldl (fun s a => s.raise (src a) (i a) (y a)) s).regs = s.regs ∧
      (l.foldl (fun s a => s.raise (src a) (i a) (y a)) s).boot = s.boot ∧
      (∀ r ∈ s.raises, r ∈ (l.foldl (fun s a => s.raise (src a) (i a) (y a)) s).raises) := by
  induction l generalizing s with
  | nil => exact ⟨rfl, rfl, rfl, fun _ => id⟩
  | cons a l ih =>
    obtain ⟨h1, h2, h3, h4⟩ := ih (s.raise (src a) (i a) (y a))
    exact ⟨h1, h2, h3, fun r hr => h4 r (List.mem_append_left _ hr)⟩

/-- Each of the reports is among what is raised. -/
theorem raiseAll_mem {α : Type} (src : α → FaultSrc) (i y : α → Nat) {l : List α} {a : α} (ha : a ∈ l) (s : State) :
    (⟨(src a).at.1, i a, (src a).at.2, y a % 2 ^ 64, s.evNo, []⟩ : Raise) ∈ (l.foldl (fun s a => s.raise (src a) (i a) (y a)) s).raises := by
  induction l generalizing s with
  | nil => cases ha
  | cons b l ih =>
    obtain rfl | ha := List.mem_cons.mp ha
    · exact (raiseAll_frame src i y l _).2.2.2 _ (List.mem_append_right _ (List.mem_singleton.mpr rfl))
    · exact ih ha _

end Sys2Proof.Machine
end

section
/-! ## Power cap, energy, sensors and failing cores (R384-R390, R17) -/

namespace Sys2Proof.Machine

variable {s t u : State}

/-! ### Frequency and power cap -/

theorem frequencyChangeDone_eq {d e : Nat} (h : (s.die d).freqTo = some e) :
    exec (.frequencyChangeDone d) s = .next (ended s (levelStep
      (if s.f (rPlevel d) 8 3 = e then (s.modDie d (fun x => { x with clk := e, freqTo := none })).setF (rPlevel d) 8 3 e
        else glintPower ((s.modDie d (fun x => { x with clk := e, freqTo := none })).setF (rPlevel d) 8 3 e) 2 d 1 0 (s.f (rPlevel d) 8 3) e) d)) := by
  show execFrequencyChangeDone d s = _
  rw [execFrequencyChangeDone, h, done_eq]

/-- Milliseconds in a row below 95 % of the limit, this one included. -/
def lowRun (s : State) (watts : Nat) : Nat := if watts * 100 < s.f powerBase 0 12 * 95 then s.boot.lowMs + 1 else 0

/-- The input power is noted, and the milliseconds below the limit are counted up to ten. -/
def powerNoted (s : State) (watts : Nat) : State :=
  { s.setF rPwrStatus 16 16 watts with boot := { s.boot with lowMs := if lowRun s watts = 10 then 0 else lowRun s watts } }

theorem powerCapCheck_eq (s : State) (watts : Nat) : exec (.powerCapCheck watts) s = .next (ended s
    (if s.f powerBase 0 12 < watts then levelAll
        ((if s.f rPwrStatus 32 3 = 0 then (powerNoted s watts).raise .powerCap 0 (packBits [(watts, 0, 16), (s.f powerBase 0 12, 16, 12)])
          else powerNoted s watts).setF rPwrStatus 32 3 (min 5 (s.f rPwrStatus 32 3 + 1)))
      else if lowRun s watts = 10 then levelAll ((powerNoted s watts).setF rPwrStatus 32 3 (s.f rPwrStatus 32 3 - 1))
      else powerNoted s watts)) := by
  show execPowerCapCheck watts s = _
  unfold execPowerCapCheck powerNoted
  simp only [done_eq, State.setF_boot, lowRun]
  rfl

/-! ### Energy -/

theorem energySlots_rd (s : State) (d : Nat) (nj : List Nat) (k o : Nat) :
    ((upto k).foldl (fun s n => s.addCtr (dieBase d + 0x2400 + 8 * n) (nth 0 nj n)) s).rd o =
      if ∃ n, n < k ∧ o = dieBase d + 0x2400 + 8 * n then s.rd o + BitVec.ofNat 64 (nth 0 nj ((o - (dieBase d + 0x2400)) / 8)) else s.rd o := by
  induction k with
  | zero => simp [upto]
  | succ k ih =>
    rw [upto, List.foldl_append, List.foldl_cons, List.foldl_nil]
    by_cases ho : o = dieBase d + 0x2400 + 8 * k
    · subst ho
      rw [State.rd_addCtr_same, ih, if_neg (by rintro ⟨n, hn, he⟩; omega), if_pos ⟨k, by omega, rfl⟩]
      congr 3
      omega
    · rw [State.rd_addCtr_other _ _ _ _ ho, ih]
      refine if_congr ⟨fun ⟨n, hn, he⟩ => ⟨n, by omega, he⟩, fun ⟨n, hn, he⟩ => ⟨n, ?_, he⟩⟩ rfl rfl
      obtain h | rfl := Nat.lt_succ_iff_lt_or_eq.mp hn
      · exact h
      · exact absurd he ho

/-- The counters of a die's core slots. -/
def energySlots (s : State) (d : Nat) (nj : List Nat) : State :=
  (upto 33).foldl (fun s n => s.addCtr (dieBase d + 0x2400 + 8 * n) (nth 0 nj n)) s

theorem energySlots_frame (s : State) (d : Nat) (nj : List Nat) : LinkFrame s (energySlots s d nj) :=
  .foldl _ (fun _ _ => .addCtr ..) _ _

theorem energyUpdate_eq {d : Nat} (hd : d < 8) (s : State) (nj : List Nat) (other pkg : Nat) :
    exec (.energyUpdate d nj other pkg) s = .next (ended s
      (((energySlots s d nj).addCtr (dieBase d + 0x2510) (sumN (nj.take 33) + other)).addCtr (powerBase + 0x10) pkg)) :=
  congrArg (fun t => Host.Outcome.next (ended s t)) (if_neg (by omega))

theorem energyUpdate_adds {d : Nat} (hd : d < 8) (s : State) (nj : List Nat) (other pkg : Nat) :
    ∃ t, exec (.energyUpdate d nj other pkg) s = .next t ∧
      (∀ n, n < 33 → t.rd (dieBase d + 0x2400 + 8 * n) = s.rd (dieBase d + 0x2400 + 8 * n) + BitVec.ofNat 64 (nth 0 nj n)) ∧
      t.rd (dieBase d + 0x2510) = s.rd (dieBase d + 0x2510) + BitVec.ofNat 64 (sumN (nj.take 33) + other) ∧
      t.rd (powerBase + 0x10) = s.rd (powerBase + 0x10) + BitVec.ofNat 64 pkg ∧
      SameRegs ((upto 33).map (fun n => dieBase d + 0x2400 + 8 * n) ++ [dieBase d + 0x2510, powerBase + 0x10]) s t ∧ SameMem s t ∧ SameCores [] s t := by
  have hpow (o : Nat) : dieBase d + o ≠ powerBase + 0x10 := by
    unfold dieBase powerBase
    omega
  have hslots (o : Nat) := energySlots_rd s d nj 33 o
  have hframe := energySlots_frame s d nj
  refine ⟨_, energyUpdate_eq hd s nj other pkg, fun n hn => ?_, ?_, ?_, fun r hr => ?_, fun a => ?_, fun k _ => ?_⟩
  · rw [ended_rd, State.rd_addCtr_other _ _ _ _ (by rw [Nat.add_assoc]; exact hpow _), State.rd_addCtr_other _ _ _ _ (by omega), energySlots,
      hslots, if_pos ⟨n, hn, rfl⟩]
    congr 3
    omega
  · rw [ended_rd, State.rd_addCtr_other _ _ _ _ (hpow _), State.rd_addCtr_same, energySlots, hslots, if_neg]
    rintro ⟨n, hn, he⟩
    omega
  · rw [ended_rd, State.rd_addCtr_same, State.rd_addCtr_other _ _ _ _ (hpow _).symm, energySlots, hslots, if_neg]
    rintro ⟨n, hn, he⟩
    exact hpow (0x2400 + 8 * n) (by omega)
  · simp only [List.mem_append, List.mem_map, List.mem_cons, List.not_mem_nil, or_false, not_or, not_exists, not_and] at hr
    obtain ⟨hs, hd', hp⟩ := hr
    rw [ended_rd, State.rd_addCtr_other _ _ _ _ hp, State.rd_addCtr_other _ _ _ _ hd', energySlots, hslots, if_neg]
    rintro ⟨n, hn, he⟩
    exact hs n (mem_upto hn) he.symm
  · rw [ended_byte, State.addCtr_byte, State.addCtr_byte]
    exact byte_mem s hframe.mem a
  · rw [ended_core, State.addCtr_core, State.addCtr_core, State.core, State.core, hframe.cores]

/-! ### Sensors -/

/-- The readings of a die or of the hub are kept. -/
def sampled (s : State) (d : Nat) (new : List Int) : State :=
  if d = 8 then { s with boot := { s.boot with hubTemps := new } }
  else s.wr (dieBase d + 0x2008) (BitVec.ofNat 64 (sumN ((upto 8).map (fun i => tempByte (nth 0 new i) * 256 ^ i))))

/-- Sensors of a die, or of the hub. -/
def sensors (d : Nat) : Nat := if d = 8 then 4 else 8

/-- Sensors that have just reached 105 °C. -/
def critical (s : State) (d : Nat) (new : List Int) : List Nat :=
  (upto (sensors d)).filter (fun i => 105 ≤ nth 0 new i && nth 0 (temps s d) i < 105)

/-- The readings are kept, a hot sensor caps at P5, and those that have just become critical are reported. -/
def sensed (s : State) (d : Nat) (new : List Int) : State :=
  (critical s d new).foldl (fun s i => s.raise .thermalCrit 0 (thermSynd d i (nth 0 new i)))
    (if new.any (fun t => 105 ≤ t) then setTherm (sampled s d new) d 5 else sampled s d new)

/-- THERMTRIP_N is asserted. -/
def stopClocks (u : State) : State := ({ u with boot := { u.boot with tripped := true } } : State).emit .thermtrip

theorem thermCap_stopClocks (u : State) (d : Nat) : thermCap (stopClocks u) d = thermCap u d := rfl
theorem stopClocks_raises (u : State) : (stopClocks u).raises = u.raises := rfl
theorem stopClocks_tripped (u : State) : (stopClocks u).boot.tripped = true := rfl
theorem stopClocks_outbox (u : State) : (stopClocks u).outbox = u.outbox ++ [.thermtrip] := rfl
theorem thermCap_ended (s t : State) (d : Nat) : thermCap (ended s t) d = thermCap t d := rfl

theorem thermalSample_eq {d : Nat} (hd : d ≤ 8) (s : State) (readings : List Int) : exec (.thermalSample d readings) s = .next (ended s
    (if readings.any (fun t => 112 ≤ t) && !s.boot.tripped then
        stopClocks (sensed s d (readings.take (sensors d)))
      else sensed s d (readings.take (sensors d)))) :=
  congrArg (fun t => Host.Outcome.next (ended s t)) (if_neg (by omega))

theorem nth_take {l : List Int} {n i : Nat} (h : i < n) : nth 0 (l.take n) i = nth 0 l i := by
  unfold nth
  rw [List.getD_eq_getElem?_getD, List.getD_eq_getElem?_getD, List.getElem?_take, if_pos h]

/-- A list has the elements that it is read to have, and 0 past its end. -/
theorem nth_mem_or_zero (l : List Int) (i : Nat) : nth 0 l i ∈ l ∨ nth 0 l i = 0 := by
  unfold nth
  rw [List.getD_eq_getElem?_getD]
  by_cases h : i < l.length
  · left
    simp [h]
  · right
    simp [List.getElem?_eq_none (not_lt.mp h)]

theorem nth_mem {l : List Int} {i : Nat} (h : i < l.length) : nth 0 l i ∈ l := by
  unfold nth
  rw [List.getD_eq_getElem?_getD, List.getElem?_eq_getElem h]
  exact List.getElem_mem h

/-- With every reading below 105 °C they are kept, and nothing else follows. -/
theorem thermalSample_cool {d : Nat} (hd : d ≤ 8) {readings : List Int} (h : ∀ x ∈ readings, x < 105) (s : State) :
    exec (.thermalSample d readings) s = .next (ended s (sampled s d (readings.take (sensors d)))) := by
  have hnew : ∀ x ∈ readings.take (sensors d), x < 105 := fun x hx => h x (List.mem_of_mem_take hx)
  have htrip : readings.any (fun t => 112 ≤ t) = false := by
    rw [List.any_eq_false]
    intro x hx
    have := h x hx
    simp only [decide_eq_true_eq]
    omega
  have hhot : (readings.take (sensors d)).any (fun t => 105 ≤ t) = false := by
    rw [List.any_eq_false]
    intro x hx
    have := hnew x hx
    simp only [decide_eq_true_eq]
    omega
  have hcrit : critical s d (readings.take (sensors d)) = [] := by
    unfold critical
    rw [List.filter_eq_nil_iff]
    intro i _
    have hi := nth_mem_or_zero (readings.take (sensors d)) i
    simp only [Bool.and_eq_true, decide_eq_true_eq, not_and_or]
    left
    rcases hi with hi | hi
    · have := hnew _ hi
      omega
    · omega
  rw [thermalSample_eq hd, htrip, Bool.false_and, if_neg (by decide), sensed, hcrit, List.foldl_nil, hhot, if_neg (by decide)]

theorem sampled_evNo (s : State) (d : Nat) (new : List Int) : (sampled s d new).evNo = s.evNo := by
  unfold sampled
  split
  · rfl
  · exact State.wr_evNo ..

theorem sampled_tripped (s : State) (d : Nat) (new : List Int) : (sampled s d new).boot.tripped = s.boot.tripped := by
  unfold sampled
  split
  · rfl
  · rw [State.wr_boot]

section Hot

variable {d : Nat} {new : List Int} (hot : new.any (fun t => 105 ≤ t) = true)
include hot

theorem sensed_hot (s : State) : sensed s d new = (critical s d new).foldl (fun s i => s.raise .thermalCrit 0 (thermSynd d i (nth 0 new i)))
    (setTherm (sampled s d new) d 5) := by
  unfold sensed
  rw [if_pos hot]

theorem thermCap_sensed (s : State) : thermCap (sensed s d new) d = 5 := by
  obtain ⟨-, hregs, -, -⟩ := raiseAll_frame (fun _ => .thermalCrit) (fun _ => 0) (fun i => thermSynd d i (nth 0 new i))
    (critical s d new) (setTherm (sampled s d new) d 5)
  rw [sensed_hot hot, thermCap, f_regs hregs]
  exact thermCap_setTherm le_rfl _

theorem sensed_tripped (s : State) : (sensed s d new).boot.tripped = s.boot.tripped := by
  obtain ⟨-, -, hboot, -⟩ := raiseAll_frame (fun _ => .thermalCrit) (fun _ => 0) (fun i => thermSynd d i (nth 0 new i))
    (critical s d new) (setTherm (sampled s d new) d 5)
  rw [sensed_hot hot, hboot, (setTherm_frame (sampled s d new) d 5).boot, State.setF_boot, sampled_tripped]

theorem sensed_raises {i : Nat} (hi : i ∈ critical s d new) : ∃ r ∈ (sensed s d new).raises, r.cls = (FaultSrc.thermalCrit).at.1 ∧
    r.idx = (FaultSrc.thermalCrit).at.2 ∧ r.synd = thermSynd d i (nth 0 new i) % 2 ^ 64 ∧ r.ev = s.evNo := by
  have hmem := raiseAll_mem (fun _ => .thermalCrit) (fun _ => 0) (fun i => thermSynd d i (nth 0 new i)) hi (setTherm (sampled s d new) d 5)
  rw [(setTherm_frame (sampled s d new) d 5).evNo, State.setF_evNo, sampled_evNo] at hmem
  rw [sensed_hot hot]
  exact ⟨_, hmem, rfl, rfl, rfl, rfl⟩

end Hot

/-- A sensor at 105 °C or more. -/
theorem thermalSample_hot {d i : Nat} (hd : d ≤ 8) (hi : i < sensors d) {readings : List Int} (hlen : i < readings.length)
    (hot : 105 ≤ nth 0 readings i) (s : State) :
    ∃ t, exec (.thermalSample d readings) s = .next t ∧ thermCap t d = 5 ∧
      (nth 0 (temps s d) i < 105 → ∃ r ∈ t.raises, r.cls = (FaultSrc.thermalCrit).at.1 ∧ r.idx = (FaultSrc.thermalCrit).at.2 ∧
        r.synd = thermSynd d i (nth 0 readings i) % 2 ^ 64 ∧ r.ev = s.evNo) ∧
      ((∃ x ∈ readings, 112 ≤ x) → t.boot.tripped = true ∧ (s.boot.tripped = false → t.outbox.getLast? = some .thermtrip)) := by
  have hnth : nth 0 (readings.take (sensors d)) i = nth 0 readings i := nth_take hi
  have hany : (readings.take (sensors d)).any (fun t => 105 ≤ t) = true := by
    rw [List.any_eq_true]
    refine ⟨nth 0 (readings.take (sensors d)) i, nth_mem ?_, by simpa [hnth] using hot⟩
    rw [List.length_take]
    omega
  have hcap := thermCap_sensed (d := d) hany s
  have htripped := sensed_tripped (d := d) hany s
  have hraise (hwas : nth 0 (temps s d) i < 105) := sensed_raises (s := s) hany
    (i := i) (List.mem_filter.mpr ⟨mem_upto hi, by simp only [hnth, hot, hwas, decide_true, Bool.and_self]⟩)
  rw [hnth] at hraise
  refine ⟨_, thermalSample_eq hd s readings, ?_⟩
  generalize sensed s d (readings.take (sensors d)) = u at hcap htripped hraise ⊢
  by_cases hgo : (readings.any (fun t => 112 ≤ t) && !s.boot.tripped) = true
  · rw [if_pos hgo, thermCap_ended, thermCap_stopClocks, ended_raises, stopClocks_raises, ended_boot, stopClocks_tripped, ended_outbox,
      stopClocks_outbox]
    exact ⟨hcap, hraise, fun _ => ⟨rfl, fun _ => List.getLast?_concat ..⟩⟩
  · rw [if_neg hgo, thermCap_ended, ended_raises, ended_boot]
    refine ⟨hcap, hraise, fun ⟨x, hx, h112⟩ => ?_⟩
    have hany112 : readings.any (fun t => 112 ≤ t) = true := List.any_eq_true.mpr ⟨x, hx, by simpa using h112⟩
    have hwas : s.boot.tripped = true := by simpa [hany112] using hgo
    exact ⟨htripped.trans hwas, fun h => by rw [hwas] at h; cases h⟩

/-! ### Thermal caps -/

theorem thermalCapStep_up {d i : Nat} (hd : d ≤ 8) (hi : (upto (temps s d).length).find?
      (fun i => ((s.f (powerBase + 0x18) 0 8 : Nat) : Int) ≤ nth 0 (temps s d) i) = some i) :
    exec (.thermalCapStep d true) s = .next (ended s (setTherm
      (if thermCap s d = 0 then s.raise .thermalThrottle 0 (thermSynd d i (nth 0 (temps s d) i)) else s) d (min 5 (thermCap s d + 1)))) := by
  show execThermalCapStep d true s = _
  rw [execThermalCapStep, done_eq]
  dsimp only
  rw [if_neg (by omega), if_pos rfl, hi]

theorem thermalCapStep_down {d : Nat} (hd : d ≤ 8)
    (h : ∀ x ∈ temps s d, x < ((s.f (powerBase + 0x18) 0 8 : Nat) : Int) - ((s.f (powerBase + 0x18) 8 4 : Nat) : Int)) :
    exec (.thermalCapStep d false) s = .next (ended s (setTherm s d (thermCap s d - 1))) := by
  show execThermalCapStep d false s = _
  rw [execThermalCapStep, done_eq]
  dsimp only
  rw [if_neg (by omega), if_neg (by decide), if_pos (List.all_eq_true.mpr fun x hx => decide_eq_true (h x hx))]

/-! ### Failing cores -/

/-- The work from `s` to `t` marks a core: registers and the host's messages move, and nothing else. -/
structure MarkFrame (s t : State) : Prop where
  mem : t.mem = s.mem
  cores : t.cores = s.cores
  dies : t.dies = s.dies
  raises : ∀ r ∈ s.raises, r ∈ t.raises

theorem sendMsix_markFrame (s : State) (f v : Nat) : MarkFrame s (s.sendMsix f v) := by
  unfold State.sendMsix
  split_ifs <;> exact ⟨rfl, rfl, rfl, fun _ => id⟩

theorem setF_markFrame (s : State) (o l w x : Nat) : MarkFrame s (s.setF o l w x) := ⟨rfl, rfl, rfl, fun _ => id⟩
theorem setB_markFrame (s : State) (o l : Nat) (b : Bool) : MarkFrame s (s.setB o l b) := ⟨rfl, rfl, rfl, fun _ => id⟩

theorem MarkFrame.refl (s : State) : MarkFrame s s := ⟨rfl, rfl, rfl, fun _ => id⟩

theorem MarkFrame.trans (h : MarkFrame s t) (g : MarkFrame t u) : MarkFrame s u :=
  ⟨g.mem.trans h.mem, g.cores.trans h.cores, g.dies.trans h.dies, fun r hr => g.raises r (h.raises r hr)⟩

theorem raise_markFrame (s : State) (c : FaultSrc) (i y : Nat) : MarkFrame s (s.raise c i y) :=
  ⟨rfl, rfl, rfl, fun _ hr => List.mem_append_left _ hr⟩

theorem capNote_markFrame (s : State) : MarkFrame s (capNote s) := by
  unfold capNote
  dsimp only
  have h := (setF_markFrame s 0x600 0 3 (capStage s)).trans
    (setF_markFrame _ 0x600 32 32 ((s.setF 0x600 0 3 (capStage s)).f 0x600 32 32 + 1))
  split
  · exact h.trans (sendMsix_markFrame ..)
  · exact h

theorem capNote_sameRegs (s : State) : SameRegs [0x600] s (capNote s) := by
  intro r hr
  have hr' : r ≠ 0x600 := by simpa using hr
  unfold capNote
  dsimp only
  split
  · rw [rd_of_regs (sendMsix_regs ..) r, State.rd_setF_other _ _ _ _ _ _ hr', State.rd_setF_other _ _ _ _ _ _ hr']
  · rw [State.rd_setF_other _ _ _ _ _ _ hr', State.rd_setF_other _ _ _ _ _ _ hr']

theorem takeOffline_markFrame (s : State) (n : Nat) : MarkFrame s (takeOffline s n) := by
  unfold takeOffline setReady setOffline capCount
  exact (((setB_markFrame ..).trans (setB_markFrame ..)).trans (setF_markFrame ..)).trans (setF_markFrame ..)

theorem coreOffline_markFrame (s : State) (sl : Nat) : MarkFrame s (coreOffline s sl) := by
  unfold coreOffline
  split
  · exact .refl s
  · split
    · exact .refl s
    · exact ((takeOffline_markFrame ..).trans (raise_markFrame ..)).trans (capNote_markFrame _)

/-- The registers of the capability map's cores lie apart from one another and from those that count them. -/
theorem takeOffline_marks {n : Nat} (hn : n < 256) (s : State) : offline (takeOffline s n) n = true ∧ coreReady (takeOffline s n) n = false := by
  have hbit : n % 64 + 1 ≤ 64 := by omega
  have hr : 0x680 + 8 * (n / 64) ≠ 0x6A0 + 8 * (n / 64) := by omega
  have hc (x : Nat) (hx : 0x680 ≤ x) : x ≠ rCapDie (n / 32) := by
    unfold rCapDie
    omega
  unfold takeOffline capCount setReady setOffline
  dsimp only
  refine ⟨?_, ?_⟩
  · rw [offline, State.fb_setF_other _ _ _ _ _ _ _ (hc _ (by omega)), State.fb_setF_other _ _ _ _ _ _ _ (hc _ (by omega)),
      State.fb_setB_other _ _ _ _ _ _ hr.symm, State.fb_setB_same _ _ _ _ hbit]
  · rw [coreReady, State.fb_setF_other _ _ _ _ _ _ _ (hc _ (by omega)), State.fb_setF_other _ _ _ _ _ _ _ (hc _ (by omega)),
      State.fb_setB_same _ _ _ _ hbit]

theorem coreOffline_marks {sl n : Nat} (hl : logicalOf s sl = some n) (hn : n < 256) :
    offline (coreOffline s sl) n = true ∧ (offline s n = false → coreReady (coreOffline s sl) n = false) := by
  unfold coreOffline
  rw [hl]
  dsimp only
  split
  · next h => exact ⟨h, fun h' => by rw [h] at h'; cases h'⟩
  · obtain ⟨h1, h2⟩ := takeOffline_marks hn s
    have hsame := capNote_sameRegs ((takeOffline s n).raise .coreOffline (sl / 64) n)
    have ho : (0x6A0 + 8 * (n / 64) : Nat) ∉ [0x600] := by
      rw [List.mem_singleton]
      omega
    have hr : (0x680 + 8 * (n / 64) : Nat) ∉ [0x600] := by
      rw [List.mem_singleton]
      omega
    have hfb (o l : Nat) (hno : o ∉ [0x600]) : (capNote ((takeOffline s n).raise .coreOffline (sl / 64) n)).fb o l = (takeOffline s n).fb o l := by
      rw [State.fb, State.f, hsame o hno, ← State.f, ← State.fb, State.raise_fb]
    exact ⟨(hfb _ _ ho).trans h1, fun _ => (hfb _ _ hr).trans h2⟩

/-- A failing core is reported and noted. -/
def failureNoted (s : State) (sl : Nat) : State :=
  (s.raise .coreFailed (sl / 64) (packBits [(sl, 0, 9), (coreNum s sl, 9, 8)])).modDie (sl / 64) (fun x => { x with failed := insertNat x.failed sl })

theorem coreFails_eq (s : State) (sl : Nat) :
    coreFails s sl = if spareAvail s (sl / 64) then failureNoted s sl else coreOffline (failureNoted s sl) sl := rfl

theorem failureNoted_regs (s : State) (sl : Nat) : (failureNoted s sl).regs = s.regs := rfl
theorem failureNoted_mem (s : State) (sl : Nat) : (failureNoted s sl).mem = s.mem := rfl
theorem failureNoted_cores (s : State) (sl : Nat) : (failureNoted s sl).cores = s.cores := rfl

theorem failureNoted_raises (s : State) (sl : Nat) : (failureNoted s sl).raises =
    s.raises ++ [⟨(FaultSrc.coreFailed).at.1, sl / 64, (FaultSrc.coreFailed).at.2, packBits [(sl, 0, 9), (coreNum s sl, 9, 8)] % 2 ^ 64, s.evNo, []⟩] :=
  rfl

theorem failureNoted_failed (s : State) (sl : Nat) : sl ∈ ((failureNoted s sl).die (sl / 64)).failed := by
  rw [failureNoted, State.die_modDie, if_pos rfl]
  exact mem_insertNat.mpr (.inl rfl)

theorem logicalOf_congr (h : t.regs = s.regs) {sl : Nat} (hd : (t.die (sl / 64)).mapped = (s.die (sl / 64)).mapped) :
    logicalOf t sl = logicalOf s sl := by
  unfold logicalOf spareActive spareTarget
  simp only [fb_regs h, hd]

theorem failureNoted_mapped (s : State) (sl : Nat) : ((failureNoted s sl).die (sl / 64)).mapped = (s.die (sl / 64)).mapped := by
  rw [failureNoted, State.die_modDie, if_pos rfl]
  rfl

/-- What the failure of a core does. -/
theorem coreFails_effect (s : State) (sl : Nat) :
    sl ∈ ((coreFails s sl).die (sl / 64)).failed ∧
      (∃ r ∈ (coreFails s sl).raises, r.cls = (FaultSrc.coreFailed).at.1 ∧ r.inst = sl / 64 ∧ r.idx = (FaultSrc.coreFailed).at.2 ∧ r.ev = s.evNo) ∧
      (spareAvail s (sl / 64) = false → ∀ n, n < 256 → logicalOf s sl = some n →
        offline (coreFails s sl) n = true ∧ (offline s n = false → coreReady (coreFails s sl) n = false)) ∧
      (coreFails s sl).mem = s.mem ∧ (coreFails s sl).cores = s.cores := by
  have hmark : MarkFrame (failureNoted s sl) (coreFails s sl) := by
    rw [coreFails_eq]
    split
    · exact .refl _
    · exact coreOffline_markFrame _ _
  have hraise : (⟨(FaultSrc.coreFailed).at.1, sl / 64, (FaultSrc.coreFailed).at.2, packBits [(sl, 0, 9), (coreNum s sl, 9, 8)] % 2 ^ 64,
      s.evNo, []⟩ : Raise) ∈ (failureNoted s sl).raises := by
    rw [failureNoted_raises]
    exact List.mem_append_right _ (List.mem_singleton.mpr rfl)
  refine ⟨?_, ⟨_, hmark.raises _ hraise, rfl, rfl, rfl, rfl⟩, fun hno n hn hl => ?_, hmark.mem.trans (failureNoted_mem ..),
    hmark.cores.trans (failureNoted_cores ..)⟩
  · rw [State.die, hmark.dies]
    exact failureNoted_failed s sl
  · rw [coreFails_eq, hno, if_neg (by decide)]
    rw [← logicalOf_congr (failureNoted_regs s sl) (failureNoted_mapped s sl)] at hl
    have hoff : offline (failureNoted s sl) n = offline s n := fb_regs (failureNoted_regs s sl) ..
    rw [← hoff]
    exact coreOffline_marks hl hn

theorem coreFailure_effect {sl : Nat} (hsl : isSlot sl = true) (hno : spareAvail s (sl / 64) = false) :
    ∃ t, exec (.coreFailure sl) s = .next t ∧ sl ∈ (t.die (sl / 64)).failed ∧
      (∃ r ∈ t.raises, r.cls = (FaultSrc.coreFailed).at.1 ∧ r.inst = sl / 64 ∧ r.idx = (FaultSrc.coreFailed).at.2 ∧ r.ev = s.evNo) ∧
      (∀ n, n < 256 → logicalOf s sl = some n → offline t n = true ∧ (offline s n = false → coreReady t n = false)) ∧
      SameMem s t ∧ SameCores [] s t := by
  have hexec : exec (.coreFailure sl) s = .next (ended s (coreFails s sl)) :=
    congrArg (fun t => Host.Outcome.next (ended s t)) (if_neg (by rw [hsl, hno]; decide))
  obtain ⟨hf, hr, hoff, hm, hc⟩ := coreFails_effect s sl
  generalize coreFails s sl = u at *
  exact ⟨_, hexec, hf, hr, hoff hno, fun a => byte_mem s hm a, fun k _ => by rw [ended_core, State.core, State.core, hc]⟩

theorem coreResetTimeout_effect {sl : Nat} (hsl : isSlot sl = true) (hre : (s.core sl).resets ≠ []) :
    ∃ t, exec (.coreResetTimeout sl) s = .next t ∧ (t.core sl).resetting = true ∧ sl ∈ (t.die (sl / 64)).failed ∧
      (∃ r ∈ t.raises, r.cls = (FaultSrc.coreFailed).at.1 ∧ r.inst = sl / 64 ∧ r.idx = (FaultSrc.coreFailed).at.2 ∧ r.ev = s.evNo) ∧
      (spareAvail s (sl / 64) = false → ∀ n, n < 256 → logicalOf s sl = some n → offline t n = true) ∧ SameMem s t ∧ SameCores [sl] s t := by
  have hexec : exec (.coreResetTimeout sl) s = .next (ended s (coreFails (s.modCore sl (fun c => { c with resetting := true })) sl)) :=
    congrArg (fun t => Host.Outcome.next (ended s t)) (if_neg (by simp [hsl, hre]))
  have hcore (k : Nat) := State.core_modCore s sl k (fun c => { c with resetting := true })
  have hmem := State.modCore_mem s sl (fun c => { c with resetting := true })
  have hregs := State.modCore_regs s sl (fun c => { c with resetting := true })
  have hdies := State.modCore_dies s sl (fun c => { c with resetting := true })
  have hfuse := State.modCore_fuses s sl (fun c => { c with resetting := true })
  have hev := State.modCore_evNo s sl (fun c => { c with resetting := true })
  generalize s.modCore sl (fun c => { c with resetting := true }) = v at *
  have hspare : spareAvail v (sl / 64) = spareAvail s (sl / 64) := by
    unfold spareAvail sparePresent spareActive upmBit
    rw [State.die, State.die, hdies, hfuse]
    simp only [fb_regs hregs]
  obtain ⟨hf, hr, hoff, hm, hc⟩ := coreFails_effect v sl
  rw [hev] at hr
  generalize coreFails v sl = u at *
  refine ⟨_, hexec, ?_, hf, hr, fun hno n hn hl => ?_, fun a => byte_mem s (hm.trans hmem) a, fun k hk => ?_⟩
  · rw [ended_core, State.core, hc]
    change (v.core sl).resetting = true
    rw [hcore, if_pos rfl]
  · exact (hoff (hspare.trans hno) n hn ((logicalOf_congr hregs (by rw [State.die, State.die, hdies])).trans hl)).1
  · rw [ended_core, State.core, hc]
    change v.core k = s.core k
    rw [hcore, if_neg (by simpa using hk)]

/-- Settles O21: levels and caps by the equations of their commands, sensors and failures by what each part of the work leaves. -/
theorem powerLevelsAndEnergy : Obligations.PowerLevelsAndEnergy := by
  unfold Obligations.PowerLevelsAndEnergy
  refine ⟨fun s d e h => frequencyChangeDone_eq h, ?_, ?_, ?_, fun s d other pkg nj hd => energyUpdate_adds hd s nj other pkg, ?_, ?_,
    fun s d i readings hd hi hlen hot => thermalSample_hot hd hi hlen hot s, fun s d i => thermalCapStep_up, fun s d => thermalCapStep_down,
    fun s d v _ hv => thermCap_setTherm hv s, fun s sl => coreFailure_effect, fun s sl => coreResetTimeout_effect⟩
  · intro s watts h
    have hlow : (if lowRun s watts = 10 then 0 else lowRun s watts) =
        if watts * 100 < s.f powerBase 0 12 * 95 then (if s.boot.lowMs + 1 = 10 then 0 else s.boot.lowMs + 1) else 0 := by
      unfold lowRun
      split <;> rfl
    rw [powerCapCheck_eq, if_pos h, powerNoted, hlow]
  · intro s watts h hlow hms
    have hrun : lowRun s watts = 10 := by rw [lowRun, if_pos hlow, hms]
    rw [powerCapCheck_eq, if_neg (not_lt.mpr h), if_pos hrun, powerNoted, if_pos hrun]
  · intro s watts h hms
    have hrun : lowRun s watts ≠ 10 := by
      unfold lowRun
      split
      · next hlow =>
        have := hms hlow
        omega
      · decide
    rw [powerCapCheck_eq, if_neg (not_lt.mpr h), if_neg hrun, powerNoted, if_neg hrun, lowRun]
  · intro s d readings hd h
    rw [thermalSample_cool hd.le h, sampled, sensors, if_neg hd.ne, if_neg hd.ne]
  · intro s readings h
    rw [thermalSample_cool le_rfl h, sampled, sensors, if_pos rfl, if_pos rfl]

end Sys2Proof.Machine
end

section
/-! ## PCIe training, boot trials and the image mailbox (R398, R399, R403) -/

namespace Sys2Proof.Machine

variable {s t u : State}

/-! ### The link trains -/

theorem sendMsix_if_boot (p : Prop) [Decidable p] (s : State) (f v : Nat) : (if p then s.sendMsix f v else s).boot = s.boot := by
  split
  · exact sendMsix_boot ..
  · rfl

theorem capNote_boot (s : State) : (capNote s).boot = s.boot :=
  (sendMsix_if_boot ..).trans ((State.setF_boot ..).trans (State.setF_boot ..))

/-- A note of the capability map leaves the link's fields. -/
theorem capNote_f_link (s : State) : (capNote s).f 0x600 4 3 = s.f 0x600 4 3 := by
  have h : ((s.setF 0x600 0 3 (capStage s)).setF 0x600 32 32 ((s.setF 0x600 0 3 (capStage s)).f 0x600 32 32 + 1)).f 0x600 4 3 = s.f 0x600 4 3 := by
    rw [State.f_setF_apart _ _ _ _ _ _ _ (by decide) (by decide), State.f_setF_apart _ _ _ _ _ _ _ (by decide) (by decide)]
  unfold capNote
  dsimp only
  split
  · rw [f_regs (sendMsix_regs ..), h]
  · exact h

theorem pcieTrain_effect (s : State) (gen width : Nat) :
    (pcieTrain s gen width).boot = { s.boot with width := if width < 16 then 8 else 16 } ∧
      (pcieTrain s gen width).f 0x600 4 3 = (if s.fb 0x600 7 then min 6 (max 1 gen) else 1) ∧
      SameRegs [0x600] s (pcieTrain s gen width) ∧ SameMem s (pcieTrain s gen width) := by
  have hgen : (if s.fb 0x600 7 then min 6 (max 1 gen) else 1) < 2 ^ 3 := by split <;> omega
  refine ⟨capNote_boot _, ?_, ?_, fun a => byte_mem _ (capNote_markFrame _).mem a⟩
  · rw [pcieTrain, capNote_f_link, State.f_setF_same _ _ _ _ _ (by decide), Nat.mod_eq_of_lt hgen]
  · refine SameRegs.trans (t := State.setF { s with boot := { s.boot with width := if width < 16 then 8 else 16 } } 0x600 4 3
      (if s.fb 0x600 7 then min 6 (max 1 gen) else 1)) (fun r hr => ?_) (capNote_sameRegs _)
    exact State.rd_setF_other _ _ _ _ _ _ (by simpa using hr)

/-! ### GLOBAL.BOOT -/

theorem reached_rBoot (s : State) : Reached s (.client 0) rBoot := reached_global rfl rfl rfl

/-- A value with nothing outside the bits TRY and CONFIRM. -/
def BootAsk (v : Word) : Prop := v = 4#64 ∨ v = 8#64

/-- No field of GLOBAL.BOOT keeps what is written, and TRY and CONFIRM are no reserved bits. -/
theorem applyFields_rBoot {v : Word} (hv : BootAsk v) {fs : List Field} (hfs : regFields rBoot = some fs) (old : Word) :
    applyFields (withGaps 0 fs) old v = (old, []) := by
  obtain rfl : [fRO 0 1 0, fRO 1 1 0, fW1S 2 1, fW1S 3 1, fRO 4 1 0, fRO 5 1 0, fRO 6 1 0, fRO 16 16 0, fRO 32 16 0] = fs :=
    Option.some.inj hfs
  obtain rfl | rfl := hv <;> rfl

/-- The bits that a write of GLOBAL.BOOT sets going. -/
def bootAsked (s : State) (v : Word) : State :=
  let s := if fld v 2 1 = 1 then s.setB rBoot 2 true else s
  if fld v 3 1 = 1 then s.setF rBoot 1 1 (s.f rBoot 0 1) else s

theorem regWrite_rBoot {v : Word} (hv : BootAsk v) (s : State) :
    regWrite s (.client 0) rBoot v = bootAsked ((unhold (dropLatch s rBoot) rBoot).wr rBoot (s.rd rBoot)) v := by
  obtain ⟨fs, hfs⟩ : ∃ fs, regFields rBoot = some fs := ⟨_, rfl⟩
  have hdisc (t : State) (o n : Word) : discards t (.client 0) rBoot o n = none := rfl
  have hcross (t : State) (n : Word) : crossRule t rBoot n = (n, []) := rfl
  rw [regWrite_reached _ (reached_rBoot s), putReg_reached _ (reached_rBoot s) hfs, hdisc]
  dsimp only
  unfold written andThen
  rw [applyFields_rBoot hv hfs]
  dsimp only
  rw [hcross]
  rfl

theorem execBootTry_eq (s : State) : exec (.bootTry (.client 0)) s =
    .next (ended s (((unhold (dropLatch s rBoot) rBoot).wr rBoot (s.rd rBoot)).setB rBoot 2 true)) :=
  congrArg (fun t => Host.Outcome.next (ended s t)) ((regWrite_rBoot (.inl rfl) s).trans rfl)

theorem execBootConfirm_eq (s : State) : exec (.bootConfirm (.client 0)) s =
    .next (ended s (((unhold (dropLatch s rBoot) rBoot).wr rBoot (s.rd rBoot)).setF rBoot 1 1
      (((unhold (dropLatch s rBoot) rBoot).wr rBoot (s.rd rBoot)).f rBoot 0 1))) :=
  congrArg (fun t => Host.Outcome.next (ended s t)) ((regWrite_rBoot (.inr rfl) s).trans rfl)

/-- The write itself leaves the fields of GLOBAL.BOOT. -/
theorem bootKept_f (s : State) (l w : Nat) : ((unhold (dropLatch s rBoot) rBoot).wr rBoot (s.rd rBoot)).f rBoot l w = s.f rBoot l w := by
  rw [State.f, State.rd_wr_same]
  rfl

theorem bootKept_sameRegs (s : State) : SameRegs [rBoot] s ((unhold (dropLatch s rBoot) rBoot).wr rBoot (s.rd rBoot)) :=
  sameRegs_wr (unhold (dropLatch s rBoot) rBoot) rBoot _

/-! ### The obligation -/

theorem f_mod (s : State) (o l w : Nat) : s.f o l w % 2 ^ w = s.f o l w := Nat.mod_eq_of_lt (fld_lt ..)

theorem bootTry_effect (s : State) : ∃ t, exec (.bootTry (.client 0)) s = .next t ∧ t.fb rBoot 2 = true ∧ t.f rBoot 0 2 = s.f rBoot 0 2 ∧
    SameRegs [rBoot] s t ∧ SameMem s t := by
  refine ⟨_, execBootTry_eq s, ?_, ?_, ?_, fun _ => rfl⟩
  · rw [ended_fb, State.fb_setB_same _ _ _ _ (by decide)]
  · rw [ended_f, State.f_setB_apart _ _ _ _ _ _ (by decide) (by decide), bootKept_f]
  · exact SameRegs.trans (bootKept_sameRegs s) (fun r hr => State.rd_setF_other _ _ _ _ _ _ (by simpa using hr))

theorem bootConfirm_effect (s : State) : ∃ t, exec (.bootConfirm (.client 0)) s = .next t ∧ t.f rBoot 1 1 = s.f rBoot 0 1 ∧
    t.f rBoot 0 1 = s.f rBoot 0 1 ∧ SameRegs [rBoot] s t ∧ SameMem s t := by
  refine ⟨_, execBootConfirm_eq s, ?_, ?_, ?_, fun _ => rfl⟩
  · rw [ended_f, State.f_setF_same _ _ _ _ _ (by decide), bootKept_f, f_mod]
  · rw [ended_f, State.f_setF_apart _ _ _ _ _ _ _ (by decide) (by decide), bootKept_f]
  · exact SameRegs.trans (bootKept_sameRegs s) (fun r hr => State.rd_setF_other _ _ _ _ _ _ (by simpa using hr))

/-- Settles O15: training, the two bits of GLOBAL.BOOT, and the image that is not running. -/
theorem firmwareImagesAndPcie : Obligations.FirmwareImagesAndPcie := by
  refine ⟨fun s gen width hperst => ?_, fun s gen width hperst => ?_,
    fun a => ⟨writesReg_of_regWrite fun _ => rfl, writesReg_of_regWrite fun _ => rfl⟩, bootTry_effect, bootConfirm_effect,
    fun s img version h g himg hrun => congrArg (fun t => Host.Outcome.next (ended s t)) (if_pos (by simp [hrun])),
    fun s img version h g himg hrun => congrArg (fun t => Host.Outcome.next (ended s t)) (if_neg (by simp [hrun]; omega))⟩
  · obtain ⟨hboot, hgen, hregs, hmem⟩ := pcieTrain_effect { s with boot := { s.boot with perst := false } } gen width
    refine ⟨_, congrArg (fun t => Host.Outcome.next (ended s t)) (if_pos hperst), ?_, ?_, (ended_f ..).trans hgen,
      fun r hr => (ended_rd ..).trans (hregs r hr), fun a => (ended_byte ..).trans (hmem a)⟩ <;> rw [ended_boot, hboot]
  · obtain ⟨hboot, hgen, hregs, hmem⟩ := pcieTrain_effect s gen width
    exact ⟨_, congrArg (fun t => Host.Outcome.next (ended s t)) (if_neg (by simp [hperst])), by rw [ended_boot, hboot], (ended_f ..).trans hgen,
      fun r hr => (ended_rd ..).trans (hregs r hr), fun a => (ended_byte ..).trans (hmem a)⟩

end Sys2Proof.Machine
end

section
/-! ## Dies come up (Table 16.4, R402-R405) -/

namespace Sys2Proof.Machine

variable {s t u : State}

/-! ### What a step of a die's level writes -/

theorem levelStep_sameRegs (s : State) (d : Nat) : SameRegs [rPlevel d] s (levelStep s d) := by
  intro r hr
  have hset (t : State) (b : Bool) : (t.setB (rPlevel d) 11 b).rd r = t.rd r := State.rd_setB_other _ _ _ _ _ (by simpa using hr)
  have hemit (t : State) (e : Nat) : (t.emit (.clock d e)).rd r = t.rd r := rfl
  have hmod (t : State) (f : Die → Die) : (t.modDie d f).rd r = t.rd r := rfl
  have hpump (t : State) : (pumpRsi t d).rd r = t.rd r := by
    unfold pumpRsi
    refine (hmod ..).trans (List.foldlRecOn _ _ (motive := fun a : State × List Rsi × Nat => a.1.rd r = t.rd r) rfl fun a ha q _ => ?_)
    split_ifs
    · exact ha
    · exact ha
    · exact ha
  unfold levelStep askLevel
  dsimp only
  split_ifs
  · rfl
  · rw [hemit, hset, hmod]
  · rw [hpump, hmod, hset]
  · rfl
  · rw [hemit, hset, hmod]
  · rw [hset]

theorem setFloor_sameRegs (s : State) (d v : Nat) : SameRegs [rPlevel d] s (setFloor s d v) :=
  SameRegs.trans (t := s.setF (rPlevel d) 19 3 v) (sameRegs_setF_mem (List.mem_singleton.mpr rfl) _ _ _ _) (levelStep_sameRegs _ d)

/-! ### Ready cores -/

/-- The core is marked ready unless it is offline or not built. -/
def readyCore (s : State) (n : Nat) : State := if offline s n || !coreBuilt s n then s else setReady s n true

/-- The registers of the capability map that say which cores are ready. -/
def readyMaps : List Nat := [0x680, 0x688, 0x690, 0x698]

theorem readyMap_mem {n : Nat} (h : n < 256) : 0x680 + 8 * (n / 64) ∈ readyMaps := by
  have : n / 64 < 4 := by omega
  unfold readyMaps
  interval_cases n / 64 <;> decide

theorem coreBuilt_lt {n : Nat} (h : coreBuilt s n = true) : n < 256 := by
  unfold coreBuilt at h
  simp only [Bool.and_eq_true, decide_eq_true_eq] at h
  obtain ⟨⟨⟨h, -⟩, -⟩, -⟩ := h
  exact h

/-- What one more core's mark keeps: other registers, and the marks there are. -/
structure ReadyFrame (s t : State) : Prop where
  regs : SameRegs readyMaps s t
  fuses : t.fuses = s.fuses
  kept : ∀ n, coreReady s n = true → coreReady t n = true

theorem ReadyFrame.refl (s : State) : ReadyFrame s s := ⟨fun _ _ => rfl, rfl, fun _ => id⟩

theorem ReadyFrame.trans (h : ReadyFrame s t) (g : ReadyFrame t u) : ReadyFrame s u :=
  ⟨SameRegs.trans h.regs g.regs, g.fuses.trans h.fuses, fun n hn => g.kept n (h.kept n hn)⟩

theorem readyCore_frame (s : State) (n : Nat) : ReadyFrame s (readyCore s n) := by
  unfold readyCore
  split
  · exact .refl s
  · next h =>
    simp only [Bool.or_eq_true, Bool.not_eq_true', not_or, Bool.not_eq_true, Bool.not_eq_false] at h
    refine ⟨sameRegs_setF_mem (readyMap_mem (coreBuilt_lt h.2)) _ _ _ _, rfl, fun m hm => ?_⟩
    unfold coreReady at hm ⊢
    unfold setReady
    by_cases ho : 0x680 + 8 * (m / 64) = 0x680 + 8 * (n / 64)
    · rw [ho] at hm ⊢
      by_cases hb : m % 64 = n % 64
      · rw [hb, State.fb_setB_same _ _ _ _ (by omega)]
      · rwa [State.fb_setB_apart _ _ _ _ _ (by omega) (by omega)]
    · rwa [State.fb_setB_other _ _ _ _ _ _ ho]

theorem readyCore_ready {n : Nat} (hoff : offline s n = false) (hbuilt : coreBuilt s n = true) : coreReady (readyCore s n) n = true := by
  unfold readyCore
  rw [hoff, hbuilt, if_neg (by decide)]
  exact State.fb_setB_same _ _ _ _ (by omega)

theorem readyCores_frame (ns : List Nat) (s : State) : ReadyFrame s (ns.foldl readyCore s) :=
  List.foldlRecOn _ _ (motive := fun t => ReadyFrame s t) (.refl s) fun t ht n _ => ht.trans (readyCore_frame t n)

theorem offline_apart {n : Nat} (h : n < 256) : (0x6A0 + 8 * (n / 64) : Nat) ∉ readyMaps := by
  have : n / 64 < 4 := by omega
  unfold readyMaps
  interval_cases n / 64 <;> decide

theorem ReadyFrame.offline {n : Nat} (h : ReadyFrame s t) (hn : n < 256) : offline t n = offline s n := by
  unfold Machine.offline State.fb State.f
  rw [h.regs _ (offline_apart hn)]

theorem coreBuilt_fuses (h : t.fuses = s.fuses) (n : Nat) : coreBuilt t n = coreBuilt s n := by
  unfold coreBuilt upmBit
  rw [h]

theorem readyCores_ready {ns : List Nat} {n : Nat} (hn : n ∈ ns) (hoff : offline s n = false) (hbuilt : coreBuilt s n = true) :
    coreReady (ns.foldl readyCore s) n = true := by
  induction ns generalizing s with
  | nil => cases hn
  | cons m ns ih =>
    rw [List.foldl_cons]
    have hframe := readyCore_frame s m
    obtain rfl | hn := List.mem_cons.mp hn
    · exact (readyCores_frame ns _).kept _ (readyCore_ready hoff hbuilt)
    · exact ih hn ((hframe.offline (coreBuilt_lt hbuilt)).trans hoff) ((coreBuilt_fuses hframe.fuses n).trans hbuilt)

/-! ### A die in reduced service -/

theorem rReset_apart (d : Nat) : rReset ∉ [rCapDie d, mcBase d, rPlevel d, dieBase d, 0x600] := by
  unfold rReset rCapDie mcBase rPlevel dieBase
  simp only [List.mem_cons, List.not_mem_nil, or_false]
  omega

/-- The die's entry of the capability map. -/
def capStart (s : State) (d : Nat) (hbmOk : Bool) : State :=
  ((s.setF (rCapDie d) 0 3 2).setB (rCapDie d) 3 (hbmOk && upmBit s (8 + d))).setB (rCapDie d) 7 (spareActive s d)

/-- The die's reset is over, and its features are those of the package. -/
def readyStart (s : State) (d : Nat) : State := (s.setB rReset (16 + d) false).setF (dieBase d) 32 8 (s.f 0x10 32 8)

/-- What follows once its cores are marked: the counts, the HBM, its level. -/
def readyRest (s : State) (d : Nat) (on : Bool) : State := capNote (capCount (setFloor (s.setB (mcBase d) 0 on) d 4) d)

theorem readyDie_eq (s : State) (d : Nat) (hbmOk : Bool) : readyDie s d hbmOk =
    readyRest ((fromLen (32 * d) 32).foldl readyCore (readyStart (capStart s d hbmOk) d)) d
      (hbmOk && upmBit ((fromLen (32 * d) 32).foldl readyCore (readyStart (capStart s d hbmOk) d)) (8 + d)) := by
  unfold readyDie readyStart readyRest
  rfl

theorem capCount_sameRegs (s : State) (d : Nat) : SameRegs [rCapDie d] s (capCount s d) :=
  SameRegs.trans (t := s.setF (rCapDie d) 8 6 ((fromLen (32 * d) 32).filter (fun n => coreReady s n)).length)
    (sameRegs_setF_mem (List.mem_singleton.mpr rfl) _ _ _ _) (sameRegs_setF_mem (List.mem_singleton.mpr rfl) _ _ _ _)

theorem capCount_state (s : State) (d : Nat) : dieState (capCount s d) d = dieState s d := by
  unfold capCount dieState
  rw [State.f_setF_apart _ _ _ _ _ _ _ (by decide) (by decide), State.f_setF_apart _ _ _ _ _ _ _ (by decide) (by decide)]

theorem capNote_f {o l w : Nat} (h : o ≠ 0x600) (s : State) : (capNote s).f o l w = s.f o l w := by
  unfold State.f
  rw [capNote_sameRegs s o (by simpa using h)]

theorem capNote_fb {o l : Nat} (h : o ≠ 0x600) (s : State) : (capNote s).fb o l = s.fb o l := by
  unfold State.fb
  rw [capNote_f h]

theorem setFloor_f {o d l w : Nat} (h : o ≠ rPlevel d) (s : State) (v : Nat) : (setFloor s d v).f o l w = s.f o l w := by
  unfold State.f
  rw [setFloor_sameRegs s d v o (by simpa using h)]

theorem readyRest_rd {o d : Nat} (h : o ∉ [rCapDie d, mcBase d, rPlevel d, 0x600]) (s : State) (on : Bool) : (readyRest s d on).rd o = s.rd o := by
  simp only [List.mem_cons, List.not_mem_nil, or_false, not_or] at h
  obtain ⟨hcap, hmc, hlev, hpkg⟩ := h
  rw [readyRest, capNote_sameRegs _ _ (by simpa using hpkg), capCount_sameRegs _ _ _ (by simpa using hcap),
    setFloor_sameRegs _ _ _ _ (by simpa using hlev), State.rd_setB_other _ _ _ _ _ hmc]

theorem readyRest_state {d : Nat} (hd : d < 8) (s : State) (on : Bool) : dieState (readyRest s d on) d = dieState s d := by
  have hcap : rCapDie d ≠ 0x600 ∧ rCapDie d ≠ rPlevel d ∧ rCapDie d ≠ mcBase d := by
    unfold rCapDie rPlevel mcBase dieBase
    omega
  obtain ⟨hpkg, hlev, hmc⟩ := hcap
  rw [readyRest, dieState, capNote_f hpkg]
  refine (capCount_state ..).trans ?_
  rw [dieState, setFloor_f hlev, State.f_setB_other _ _ _ _ _ _ _ hmc]
  rfl

theorem readyStart_state {d : Nat} (hd : d < 8) (s : State) (hbmOk : Bool) : dieState (readyStart (capStart s d hbmOk) d) d = 2 := by
  have hdie : rCapDie d ≠ dieBase d := by
    unfold rCapDie dieBase
    omega
  have hreset : rCapDie d ≠ rReset := by
    unfold rCapDie rReset
    omega
  rw [readyStart, dieState, State.f_setF_other _ _ _ _ _ _ _ _ hdie, State.f_setB_other _ _ _ _ _ _ _ hreset, capStart,
    State.f_setB_apart _ _ _ _ _ _ (by decide) (by decide), State.f_setB_apart _ _ _ _ _ _ (by decide) (by decide),
    State.f_setF_same _ _ _ _ _ (by decide)]
  rfl

theorem readyStart_rd {o d : Nat} (h : o ∉ [rCapDie d, rReset, dieBase d]) (s : State) (hbmOk : Bool) :
    (readyStart (capStart s d hbmOk) d).rd o = s.rd o := by
  simp only [List.mem_cons, List.not_mem_nil, or_false, not_or] at h
  obtain ⟨hcap, hreset, hdie⟩ := h
  rw [readyStart, State.rd_setF_other _ _ _ _ _ _ hdie, State.rd_setB_other _ _ _ _ _ hreset, capStart, State.rd_setB_other _ _ _ _ _ hcap,
    State.rd_setB_other _ _ _ _ _ hcap, State.rd_setF_other _ _ _ _ _ _ hcap]

theorem readyStart_reset {d : Nat} (hd : d < 8) (s : State) : (readyStart s d).fb rReset (16 + d) = false := by
  have hdie : rReset ≠ dieBase d := by
    unfold dieBase rReset
    omega
  rw [readyStart, State.fb_setF_other _ _ _ _ _ _ _ hdie, State.fb_setB_same _ _ _ _ (by omega)]

theorem readyMaps_apart {d o : Nat} (hd : d < 8) (h : o ∈ readyMaps) :
    o ≠ rCapDie d ∧ o ≠ rReset ∧ o ≠ dieBase d ∧ o ≠ mcBase d ∧ o ≠ rPlevel d ∧ o ≠ 0x600 := by
  unfold readyMaps at h
  unfold rCapDie dieBase rReset mcBase rPlevel dieBase
  simp only [List.mem_cons, List.not_mem_nil, or_false] at h
  omega

theorem readyDie_state {d : Nat} (hd : d < 8) (s : State) (hbmOk : Bool) : dieState (readyDie s d hbmOk) d = 2 := by
  have hcap : rCapDie d ∉ readyMaps := fun h => (readyMaps_apart hd h).1 rfl
  rw [readyDie_eq, readyRest_state hd, dieState, State.f, (readyCores_frame ..).regs _ hcap]
  exact readyStart_state hd ..

theorem readyDie_reset {d : Nat} (hd : d < 8) (s : State) (hbmOk : Bool) : (readyDie s d hbmOk).fb rReset (16 + d) = false := by
  have hmaps : rReset ∉ readyMaps := by decide
  have hrest : rReset ∉ [rCapDie d, mcBase d, rPlevel d, 0x600] := by
    unfold rReset rCapDie mcBase rPlevel dieBase
    simp only [List.mem_cons, List.not_mem_nil, or_false]
    omega
  rw [readyDie_eq, State.fb, State.f, readyRest_rd hrest, (readyCores_frame ..).regs _ hmaps]
  exact readyStart_reset hd _

theorem mem_fromLen {a n k : Nat} (h : a ≤ k) (hk : k < a + n) : k ∈ fromLen a n := by
  induction n generalizing a with
  | zero => omega
  | succ n ih =>
    obtain rfl | hlt := h.eq_or_lt
    · exact List.mem_cons_self
    · exact List.mem_cons_of_mem _ (ih hlt (by omega))

theorem offline_readyStart {d n : Nat} (hn : n / 32 = d) (h256 : n < 256) (hbmOk : Bool) :
    offline (readyStart (capStart s d hbmOk) d) n = offline s n := by
  have hapart : (0x6A0 + 8 * (n / 64) : Nat) ∉ [rCapDie d, rReset, dieBase d] := by
    unfold rCapDie rReset dieBase
    simp only [List.mem_cons, List.not_mem_nil, or_false]
    omega
  unfold offline State.fb State.f
  rw [readyStart_rd hapart]

theorem readyStart_fuses (s : State) (d : Nat) (hbmOk : Bool) : (readyStart (capStart s d hbmOk) d).fuses = s.fuses := by
  rw [readyStart, State.setF_fuses, State.setB_fuses, capStart, State.setB_fuses, State.setB_fuses, State.setF_fuses]

theorem readyDie_cores {d n : Nat} (hd : d < 8) (hn : n / 32 = d) (hbuilt : coreBuilt s n = true) (hoff : offline s n = false) (hbmOk : Bool) :
    coreReady (readyDie s d hbmOk) n = true := by
  have h256 := coreBuilt_lt hbuilt
  obtain ⟨hcap, -, -, hmc, hlev, hpkg⟩ := readyMaps_apart hd (readyMap_mem h256)
  have hmem : n ∈ fromLen (32 * d) 32 := mem_fromLen (by omega) (by omega)
  have hready := readyCores_ready hmem ((offline_readyStart hn h256 hbmOk).trans hoff)
    ((coreBuilt_fuses (readyStart_fuses s d hbmOk) n).trans hbuilt)
  have hrest := readyRest_rd (o := 0x680 + 8 * (n / 64)) (d := d) (by
    simp only [List.mem_cons, List.not_mem_nil, or_false, not_or]
    exact ⟨hcap, hmc, hlev, hpkg⟩)
  rw [readyDie_eq]
  unfold coreReady State.fb State.f at hready ⊢
  rw [hrest]
  exact hready

/-- No die loses its route: none is isolated. -/
theorem isolateCheck_routed {e : Nat} (h : ∀ x, x < 8 → 1 ≤ dieState s x → dieState s x ≤ 3 → hubRoute s x = true) : isolateCheck s e = s := by
  unfold isolateCheck
  refine List.foldlRecOn _ _ (motive := fun t => t = s) rfl fun t ht d hd => ?_
  subst ht
  rw [if_neg]
  simp only [Bool.and_eq_true, decide_eq_true_eq, Bool.not_eq_true', not_and, Bool.not_eq_false]
  exact fun hst => h d (lt_of_mem_upto hd) hst.1 hst.2

theorem testFailed_nil (s : State) (d : Nat) : testFailed s d [] = [] := by
  unfold testFailed
  simp

/-! ### Failed slots -/

theorem diePresent_lt {d : Nat} (h : diePresent s d = true) : d < 8 := by
  unfold diePresent at h
  simp only [Bool.and_eq_true, decide_eq_true_eq] at h
  exact h.1

theorem dieReady_eq {d : Nat} (hd : diePresent s d = true) (hfeat : s.boot.featSet = true) (hst : dieState s d = 1 ∨ dieState s d = 5)
    (failed : List Nat) (hbmOk : Bool) : exec (.dieReady d failed hbmOk) s = .next (ended s
      (match armSpare s d (testFailed s d failed) with
        | some t => t.setF (rCapDie d) 0 3 1
        | none => isolateCheck (readyDie ((testFailed s d failed).foldl coreFails s) d hbmOk) (4 * d + 2))) := by
  refine congrArg (fun t => Host.Outcome.next (ended s t)) (if_neg ?_)
  rw [hd, hfeat]
  obtain h | h := hst <;> rw [h] <;> decide

/-- Where the spare is armed, the die's reset is asked for and the spare is mapped in. -/
theorem armSpare_marks {d : Nat} {failed : List Nat} (hd : d < 8) (h : armSpare s d failed = some t) :
    t.fb rReset (16 + d) = true ∧ t.fb (rSpareMap d) 0 = true := by
  have hmap : rSpareMap d ≠ rReset := by
    unfold rSpareMap rReset dieBase
    omega
  unfold armSpare at h
  split at h
  · cases h
  · split at h
    · cases h
    · cases h
      constructor
      · exact State.fb_setB_same _ _ _ _ (by omega)
      · rw [askDieReset, State.fb_setB_other _ _ _ _ _ _ hmap, State.fb_setB_same _ _ _ _ (by decide)]

/-! ### The matrix self-test -/

theorem slotBase_hi (sl : Nat) : 0x1000000 ≤ slotBase sl := by
  unfold slotBase clusterBase dieBase
  omega

/-- The core slots of a list with their matrix units as tested. -/
def enableCores (s : State) (on : Bool) (l : List Nat) : State := l.foldl (fun s sl => enableCore s sl on) s

theorem enableCore_bit (s : State) (sl : Nat) (on : Bool) : (enableCore s sl on).fb (slotBase sl + 0x3A0) 2 = on := by
  have hval (x : Nat) (hx : x < 16) : (s.setF (slotBase sl + 0x3A0) 0 4 x).fb (slotBase sl + 0x3A0) 2 = decide (x / 4 % 2 = 1) := by
    have hset : (s.setF (slotBase sl + 0x3A0) 0 4 x).f (slotBase sl + 0x3A0) 0 4 = x := by
      rw [State.f_setF_same _ _ _ _ _ (by decide), Nat.mod_eq_of_lt (by omega)]
    unfold State.f fld bitsN at hset
    unfold State.fb State.f fld bitsN
    rw [decide_eq_decide]
    omega
  unfold enableCore
  rw [hval]
  · cases on <;> cases wideBuilt s <;> decide
  · cases on <;> cases wideBuilt s <;> decide

theorem enableCores_bit {l : List Nat} {on : Bool} {o : Nat} (h : (∃ sl ∈ l, o = slotBase sl + 0x3A0) ∨ s.fb o 2 = on) :
    (enableCores s on l).fb o 2 = on := by
  induction l generalizing s with
  | nil =>
    obtain ⟨sl, hsl, -⟩ | h := h
    · cases hsl
    · exact h
  | cons x l ih =>
    refine ih (s := enableCore s x on) ?_
    by_cases hx : o = slotBase x + 0x3A0
    · right
      rw [hx]
      exact enableCore_bit ..
    · obtain ⟨sl, hsl, ho⟩ | h := h
      · obtain rfl | hsl := List.mem_cons.mp hsl
        · exact absurd ho hx
        · exact .inl ⟨sl, hsl, ho⟩
      · right
        rw [enableCore, State.fb_setF_other _ _ _ _ _ _ _ hx]
        exact h

/-- Registers outside the dies are left. -/
theorem enableCores_rd {o : Nat} (ho : o < 0x1000000) (l : List Nat) (on : Bool) (s : State) : (enableCores s on l).rd o = s.rd o := by
  refine List.foldlRecOn _ _ (motive := fun t : State => t.rd o = s.rd o) rfl fun t ht sl _ => ?_
  have := slotBase_hi sl
  rw [enableCore, State.rd_setF_other _ _ _ _ _ _ (by omega), ht]

/-- The slots of a die. -/
def dieSlots (d : Nat) : List Nat := allSlots.filter (fun sl => sl / 64 = d && !(([] : List Nat).contains sl))

theorem mem_dieSlots {sl d : Nat} (h : isSlot sl = true) (hd : sl / 64 = d) : sl ∈ dieSlots d := by
  have hlt : sl < 512 := by
    unfold isSlot at h
    simp only [Bool.and_eq_true, decide_eq_true_eq] at h
    exact h.1
  exact List.mem_filter.mpr ⟨List.mem_filter.mpr ⟨mem_upto hlt, h⟩, by simp [hd]⟩

/-- The die's cores are tested. -/
def dieTested (s : State) (d : Nat) (on : Bool) : State := enableCores (s.setB (rCapDie d) 4 true) on (dieSlots d)

/-- The die is in full service. -/
def dieFull (s : State) (d : Nat) : State :=
  capNote (((((setFloor s d 0).setF (rCapDie d) 0 3 3).setB (rCapDie d) 5 (!(dieSlots d).isEmpty)).setB (rCapDie d) 6
    (wideBuilt ((setFloor s d 0).setF (rCapDie d) 0 3 3) && !(dieSlots d).isEmpty)))

theorem rCapDie_low {d : Nat} (hd : d < 8) : rCapDie d < 0x1000000 ∧ rCapDie d ≠ 0x600 ∧ rCapDie d ≠ rPlevel d := by
  unfold rCapDie rPlevel dieBase
  omega

theorem matrixSelftestDone_eq {d : Nat} (hd : d < 8) (hst : dieState s d = 2) (hcap : s.fb (rCapDie d) 4 = false) :
    exec (.matrixSelftestDone d []) s = .next (ended s
      (if s.fb 0x600 3 then capNote (dieTested s d (!s.fb 0x600 3)) else dieFull (dieTested s d (!s.fb 0x600 3)) d)) := by
  have hmixed : (s.setB (rCapDie d) 4 true).fb 0x600 3 = s.fb 0x600 3 := State.fb_setB_other _ _ _ _ _ _ (rCapDie_low hd).2.1.symm
  have hnone : armSpare s d [] = none := rfl
  show execMatrixSelftestDone d [] s = _
  unfold execMatrixSelftestDone
  rw [hst, hcap, if_neg (by decide), done_eq]
  simp only [testFailed_nil, hnone, List.foldl_nil, hmixed]
  unfold dieFull dieTested enableCores dieSlots
  congr 2

theorem dieTested_bit {sl d : Nat} (h : isSlot sl = true) (hd : sl / 64 = d) (s : State) (on : Bool) :
    (dieTested s d on).fb (slotBase sl + 0x3A0) 2 = on := enableCores_bit (.inl ⟨sl, mem_dieSlots h hd, rfl⟩)

theorem dieTested_cap {d : Nat} (hd : d < 8) (s : State) (on : Bool) :
    dieState (dieTested s d on) d = dieState s d ∧ (dieTested s d on).fb (rCapDie d) 4 = true := by
  have h := enableCores_rd (rCapDie_low hd).1 (dieSlots d) on (s.setB (rCapDie d) 4 true)
  constructor
  · rw [dieState, State.f, dieTested, h, ← State.f, State.f_setB_apart _ _ _ _ _ _ (by decide) (by decide)]
    rfl
  · rw [State.fb, State.f, dieTested, h, ← State.f, ← State.fb, State.fb_setB_same _ _ _ _ (by decide)]

theorem dieFull_cap {d : Nat} (hd : d < 8) (s : State) : dieState (dieFull s d) d = 3 ∧ (dieFull s d).fb (rCapDie d) 4 = s.fb (rCapDie d) 4 := by
  obtain ⟨-, hpkg, hlev⟩ := rCapDie_low hd
  constructor
  · rw [dieState, dieFull, capNote_f hpkg, State.f_setB_apart _ _ _ _ _ _ (by decide) (by decide),
      State.f_setB_apart _ _ _ _ _ _ (by decide) (by decide), State.f_setF_same _ _ _ _ _ (by decide)]
    rfl
  · rw [dieFull, capNote_fb hpkg, State.fb_setB_apart _ _ _ _ _ (by decide) (by decide),
      State.fb_setB_apart _ _ _ _ _ (by decide) (by decide), State.fb_setF_apart _ _ _ _ _ _ (by decide) (by decide), State.fb, setFloor_f hlev]
    rfl

theorem slot_apart {sl d : Nat} (hd : d < 8) (hsl : sl / 64 = d) :
    slotBase sl + 0x3A0 ≠ 0x600 ∧ slotBase sl + 0x3A0 ≠ rCapDie d ∧ slotBase sl + 0x3A0 ≠ rPlevel d := by
  unfold slotBase clusterBase rCapDie rPlevel dieBase
  omega

theorem dieFull_bit {sl d : Nat} (hd : d < 8) (hsl : sl / 64 = d) (s : State) :
    (dieFull s d).fb (slotBase sl + 0x3A0) 2 = s.fb (slotBase sl + 0x3A0) 2 := by
  obtain ⟨hpkg, hcap, hlev⟩ := slot_apart hd hsl
  rw [dieFull, capNote_fb hpkg, State.fb_setB_other _ _ _ _ _ _ hcap, State.fb_setB_other _ _ _ _ _ _ hcap, State.fb_setF_other _ _ _ _ _ _ _ hcap,
    State.fb, setFloor_f hlev]
  rfl

/-! ### The obligation -/

/-- Settles O16: the steps of a die on its way up, each with its register fields. -/
theorem diesComeUp : Obligations.DiesComeUp := by
  refine ⟨fun s d hbmOk hd hfeat hst hroute => ?_, fun s d failed hbmOk hd hfeat hst => ⟨fun t ht => ⟨?_, armSpare_marks (diePresent_lt hd) ht⟩, fun hnone => ?_⟩,
    fun s d hd hst hcap hmixed => ?_, fun s d hd hst hcap hmixed => ?_, fun s t d failed hst hcap ht => ?_⟩
  · have hlt := diePresent_lt hd
    have hrow := dieReady_eq hd hfeat hst [] hbmOk
    rw [testFailed_nil] at hrow
    have hnone : armSpare s d [] = none := rfl
    rw [hnone] at hrow
    dsimp only at hrow
    rw [List.foldl_nil, isolateCheck_routed hroute] at hrow
    exact ⟨_, hrow, (ended_f ..).trans (readyDie_state hlt s hbmOk), (ended_fb ..).trans (readyDie_reset hlt s hbmOk),
      fun n hn hbuilt hoff => (ended_fb ..).trans (readyDie_cores hlt hn hbuilt hoff hbmOk)⟩
  · rw [dieReady_eq hd hfeat hst, ht]
  · rw [dieReady_eq hd hfeat hst, hnone]
  · have hrow := matrixSelftestDone_eq hd hst hcap
    rw [hmixed, if_neg (by decide)] at hrow
    obtain ⟨hstate, hcap4⟩ := dieFull_cap hd (dieTested s d (!false))
    exact ⟨_, hrow, (ended_f ..).trans hstate, (ended_fb ..).trans (hcap4.trans (dieTested_cap hd ..).2),
      fun sl hsl hdie => (ended_fb ..).trans ((dieFull_bit hd hdie _).trans (dieTested_bit hsl hdie ..))⟩
  · have hrow := matrixSelftestDone_eq hd hst hcap
    rw [hmixed, if_pos rfl] at hrow
    obtain ⟨-, hpkg, -⟩ := rCapDie_low hd
    exact ⟨_, hrow, (ended_f ..).trans ((capNote_f hpkg _).trans ((dieTested_cap hd ..).1.trans hst)),
      (ended_fb ..).trans ((capNote_fb hpkg _).trans (dieTested_cap hd ..).2),
      fun sl hsl hdie => (ended_fb ..).trans ((capNote_fb (slot_apart hd hdie).1 _).trans (dieTested_bit hsl hdie ..))⟩
  · show execMatrixSelftestDone d failed s = _
    unfold execMatrixSelftestDone
    rw [hst, hcap, if_neg (by decide), done_eq]
    simp only [ht]

end Sys2Proof.Machine
end

section
/-! ## The heartbeat of the MC and the Lanterns (R368-R371, R398) -/

namespace Sys2Proof.Machine

variable {s t u : State}

/-! ### What a change of the ERR_N pin leaves -/

/-- A change of what asserts the pin is that change, with a signal at most. -/
theorem errChange_shape (s : State) (f : State → State) : errChange s f = f s ∨ ∃ b, errChange s f = (f s).emit (.errN b) := by
  unfold errChange
  dsimp only
  split
  · exact .inl rfl
  · exact .inr ⟨_, rfl⟩

theorem errChange_rd (s : State) (f : State → State) (o : Nat) : (errChange s f).rd o = (f s).rd o := by
  obtain h | ⟨b, h⟩ := errChange_shape s f
  · rw [h]
  · rw [h]
    rfl

theorem errChange_f (s : State) (f : State → State) (o l w : Nat) : (errChange s f).f o l w = (f s).f o l w := by
  unfold State.f
  rw [errChange_rd]

theorem errChange_fb (s : State) (f : State → State) (o l : Nat) : (errChange s f).fb o l = (f s).fb o l := by
  unfold State.fb
  rw [errChange_f]

theorem errChange_boot (s : State) (f : State → State) : (errChange s f).boot = (f s).boot := by
  obtain h | ⟨b, h⟩ := errChange_shape s f
  · rw [h]
  · rw [h]
    rfl

theorem errChange_cores (s : State) (f : State → State) : (errChange s f).cores = (f s).cores := by
  obtain h | ⟨b, h⟩ := errChange_shape s f
  · rw [h]
  · rw [h]
    rfl

/-! ### Bring-up moves on at a heartbeat -/

/-- The registers that the MC's part of bring-up writes. -/
def stageRegs : List Nat := 0x600 :: 0x10 :: ((upto 8).map rCapDie ++ (upto 8).map dieBase)

/-- What a stage of bring-up keeps. -/
structure StageFrame (s t : State) : Prop where
  regs : SameRegs stageRegs s t
  mem : t.mem = s.mem
  heard : t.boot.heard = s.boot.heard
  ever : s.boot.ever = true → t.boot.ever = true
  raises : ∀ r ∈ s.raises, r ∈ t.raises

namespace StageFrame

theorem refl (s : State) : StageFrame s s := ⟨fun _ _ => rfl, rfl, rfl, id, fun _ => id⟩

theorem trans (h : StageFrame s t) (g : StageFrame t u) : StageFrame s u :=
  ⟨SameRegs.trans h.regs g.regs, g.mem.trans h.mem, g.heard.trans h.heard, fun he => g.ever (h.ever he), fun r hr => g.raises r (h.raises r hr)⟩

theorem setF {o : Nat} (h : o ∈ stageRegs) (s : State) (l w x : Nat) : StageFrame s (s.setF o l w x) :=
  ⟨sameRegs_setF_mem h _ _ _ _, State.setF_mem .., congrArg Boot.heard (State.setF_boot ..),
    fun he => (congrArg Boot.ever (State.setF_boot ..)).trans he, fun r hr => by rwa [State.setF_raises]⟩

theorem setB {o : Nat} (h : o ∈ stageRegs) (s : State) (l : Nat) (b : Bool) : StageFrame s (s.setB o l b) := setF h s l 1 _

theorem capNote (s : State) : StageFrame s (capNote s) := by
  have hmem : (0x600 : Nat) ∈ stageRegs := List.mem_cons_self
  refine ⟨fun r hr => capNote_sameRegs s r fun h => hr ?_, (capNote_markFrame s).mem, congrArg Boot.heard (capNote_boot s),
    fun he => (congrArg Boot.ever (capNote_boot s)).trans he, (capNote_markFrame s).raises⟩
  rw [List.mem_singleton.mp h]
  exact hmem

end StageFrame

/-- The dies of the package. -/
def presentDies (s : State) : List Nat := (upto 8).filter (fun d => diePresent s d)

theorem lt_of_present {d : Nat} (h : d ∈ presentDies s) : d < 8 := lt_of_mem_upto (List.mem_filter.mp h).1
theorem mem_presentDies {d : Nat} (hd : d < 8) (h : diePresent s d = true) : d ∈ presentDies s := List.mem_filter.mpr ⟨mem_upto hd, h⟩

theorem rCapDie_mem {d : Nat} (h : d < 8) : rCapDie d ∈ stageRegs :=
  List.mem_cons_of_mem _ (List.mem_cons_of_mem _ (List.mem_append_left _ (List.mem_map_of_mem (mem_upto h))))

theorem dieBase_mem {d : Nat} (h : d < 8) : dieBase d ∈ stageRegs :=
  List.mem_cons_of_mem _ (List.mem_cons_of_mem _ (List.mem_append_right _ (List.mem_map_of_mem (mem_upto h))))

/-- The Lanterns' register and the heartbeat are none of the registers of bring-up. -/
theorem lantern_notMem : (0x500 : Nat) ∉ stageRegs ∧ (0x510 : Nat) ∉ stageRegs := by
  unfold stageRegs
  simp only [List.mem_cons, List.mem_append, List.mem_map, not_or, not_exists, not_and]
  have hcap (d o : Nat) (h : o < 0x640) : rCapDie d ≠ o := by
    unfold rCapDie
    omega
  have hdie (d o : Nat) (h : o < 0x640) : dieBase d ≠ o := by
    unfold dieBase
    omega
  exact ⟨⟨by decide, by decide, fun d _ => hcap d _ (by decide), fun d _ => hdie d _ (by decide)⟩, by decide, by decide,
    fun d _ => hcap d _ (by decide), fun d _ => hdie d _ (by decide)⟩

/-- A die that was absent trains. -/
def dieStarts (s : State) (d : Nat) : State := if dieState s d = 0 then s.setF (rCapDie d) 0 3 1 else s

/-- The MC has been heard since the package reset. -/
def markEver (s : State) : State := { s with boot := { s.boot with ever := true } }

/-- The first heartbeat: the latches are recorded. -/
def firstHeard (s : State) : State := markEver (recordLatches s)

theorem mcStage_first (h : s.boot.ever = false) : mcStage s = capNote ((presentDies s).foldl dieStarts (firstHeard s)) := by
  unfold mcStage firstHeard markEver dieStarts presentDies
  simp only [h, Bool.not_false, if_true]

/-- Every port 2 has trained, or leads nowhere. -/
def portsTrained (s : State) : Bool :=
  (presentDies s).all (fun d => dieState s d = 5 || gUp s (4 * d + 2) || (upto 16).all (fun g => gRetired s (4 * d + 2) g))

theorem mcStage_features (h : s.boot.ever = true) (hf : s.boot.featSet = false) :
    mcStage s = if portsTrained s then capNote (setFeatures s) else s := by
  unfold mcStage
  rw [h, hf]
  rfl

/-- The hub's engines are in the capability map. -/
def enginesReady (s : State) : State :=
  (((s.setB 0x600 8 (upmBit s 46)).setB 0x600 9 (upmBit s 47)).setB 0x600 10 (upmBit s 45)).setB 0x600 7 true

/-- So are the sites. -/
def hubReady (s : State) : State :=
  ((enginesReady s).setB 0x600 11 (sitePresent (enginesReady s) 0)).setB 0x600 12 (sitePresent (enginesReady s) 1)

theorem mcStage_hub (h : s.boot.ever = true) (hf : s.boot.featSet = true) (hp : s.fb 0x600 7 = false) : mcStage s = capNote (hubReady s) := by
  unfold mcStage hubReady enginesReady
  simp only [h, hf, hp, Bool.not_true, Bool.not_false, Bool.false_eq_true, if_true, if_false]

theorem mcStage_done (h : s.boot.ever = true) (hf : s.boot.featSet = true) (hp : s.fb 0x600 7 = true) : mcStage s = s := by
  unfold mcStage
  rw [h, hf, hp]
  rfl

theorem dieStarts_frame {d : Nat} (hd : d < 8) (s : State) : StageFrame s (dieStarts s d) := by
  unfold dieStarts
  split
  · exact .setF (rCapDie_mem hd) ..
  · exact .refl s

theorem firstHeard_frame (s : State) : StageFrame s (firstHeard s) := ⟨fun _ _ => rfl, rfl, rfl, fun _ => rfl, fun _ => id⟩

theorem dieStarts_fold_frame {l : List Nat} (hl : ∀ d ∈ l, d < 8) (s : State) : StageFrame s (l.foldl dieStarts s) :=
  List.foldlRecOn _ _ (motive := fun t => StageFrame s t) (.refl s) fun _ ht d hd => ht.trans (dieStarts_frame (hl d hd) _)

/-- The features of a package whose dies agree on their stepping, or not. -/
theorem setFeatures_frame (s : State) : StageFrame s (setFeatures s) ∧ (setFeatures s).boot.featSet = true := by
  have h10 : (0x10 : Nat) ∈ stageRegs := List.mem_cons_of_mem _ List.mem_cons_self
  have h600 : (0x600 : Nat) ∈ stageRegs := List.mem_cons_self
  have hdies (x : Nat) : StageFrame s ((presentDies s).foldl (fun s d => s.setF (dieBase d) 32 8 x) (s.setF 0x10 32 8 x)) :=
    List.foldlRecOn _ _ (motive := fun t => StageFrame s t) (.setF h10 ..) fun _ ht d hd => ht.trans (.setF (dieBase_mem (lt_of_present hd)) ..)
  have hset (t : State) : StageFrame t { t with boot := { t.boot with featSet := true } } := ⟨fun _ _ => rfl, rfl, rfl, id, fun _ => id⟩
  have hraise (t : State) (x : Nat) : StageFrame t ((t.setB 0x600 3 true).raise .mixedStepping 0 x) :=
    (StageFrame.setB h600 t 3 true).trans ⟨fun _ _ => rfl, rfl, rfl, id, fun _ hr => List.mem_append_left _ hr⟩
  unfold setFeatures
  dsimp only
  split
  · exact ⟨((hdies _).trans (hset _)).trans (hraise _ _), rfl⟩
  · exact ⟨(hdies _).trans (hset _), rfl⟩

theorem hubReady_frame (s : State) : StageFrame s (hubReady s) := by
  have h600 : (0x600 : Nat) ∈ stageRegs := List.mem_cons_self
  exact (((((StageFrame.setB h600 ..).trans (.setB h600 ..)).trans (.setB h600 ..)).trans (.setB h600 ..)).trans (.setB h600 ..)).trans
    (.setB h600 ..)

theorem mcStage_frame (s : State) : StageFrame s (mcStage s) := by
  cases he : s.boot.ever with
  | false =>
    rw [mcStage_first he]
    exact ((firstHeard_frame s).trans (dieStarts_fold_frame (fun d hd => lt_of_present hd) _)).trans (.capNote _)
  | true => cases hf : s.boot.featSet with
    | false =>
      rw [mcStage_features he hf]
      split
      · exact (setFeatures_frame s).1.trans (.capNote _)
      · exact .refl s
    | true => cases hp : s.fb 0x600 7 with
      | false =>
        rw [mcStage_hub he hf hp]
        exact (hubReady_frame s).trans (.capNote _)
      | true =>
        rw [mcStage_done he hf hp]
        exact .refl s

/-- After a heartbeat the MC has been heard since the package reset. -/
theorem mcStage_ever (s : State) : (mcStage s).boot.ever = true := by
  cases he : s.boot.ever with
  | false =>
    rw [mcStage_first he]
    exact ((dieStarts_fold_frame (fun d hd => lt_of_present hd) _).trans (.capNote _)).ever rfl
  | true => exact (mcStage_frame s).ever he

/-- The dies of a list that were absent train. -/
theorem dieStarts_fold {l : List Nat} {d : Nat} (hl : ∀ x ∈ l, x < 8) (h : (d ∈ l ∧ dieState s d = 0) ∨ dieState s d = 1) :
    dieState (l.foldl dieStarts s) d = 1 := by
  induction l generalizing s with
  | nil =>
    obtain ⟨hd, -⟩ | h := h
    · cases hd
    · exact h
  | cons x l ih =>
    have hother (hx : x ≠ d) : dieState (dieStarts s x) d = dieState s d := by
      unfold dieStarts
      split
      · exact State.f_setF_other _ _ _ _ _ _ _ _ (by unfold rCapDie; omega)
      · rfl
    have hsame (h0 : dieState s d = 0) : dieState (dieStarts s d) d = 1 := by
      unfold dieStarts
      rw [if_pos h0]
      exact State.f_setF_same _ _ _ _ _ (by decide)
    have hkept (h1 : dieState s d = 1) : dieState (dieStarts s x) d = 1 := by
      by_cases hx : x = d
      · subst hx
        unfold dieStarts
        rwa [if_neg (by omega)]
      · rw [hother hx, h1]
    refine ih (fun y hy => hl y (List.mem_cons_of_mem _ hy)) ?_
    obtain ⟨hd, h0⟩ | h1 := h
    · by_cases hx : x = d
      · subst hx
        exact .inr (hsame h0)
      · exact .inl ⟨(List.mem_cons.mp hd).resolve_left fun h => hx h.symm, (hother hx).trans h0⟩
    · exact .inr (hkept h1)

/-! ### The heartbeat -/

/-- The MC runs. -/
def heardNow (s : State) : State := { s with boot := { s.boot with heard := true } }

theorem heardNow_rd (s : State) (o : Nat) : (heardNow s).rd o = s.rd o := rfl
theorem heardNow_f (s : State) (o l w : Nat) : (heardNow s).f o l w = s.f o l w := rfl
theorem heardNow_fb (s : State) (o l : Nat) : (heardNow s).fb o l = s.fb o l := rfl
theorem heardNow_mem (s : State) : (heardNow s).mem = s.mem := rfl
theorem heardNow_cores (s : State) : (heardNow s).cores = s.cores := rfl
theorem heardNow_fuses (s : State) : (heardNow s).fuses = s.fuses := rfl
theorem heardNow_evNo (s : State) : (heardNow s).evNo = s.evNo := rfl
theorem heardNow_boot (s : State) : (heardNow s).boot = { s.boot with heard := true } := rfl

/-- What a changed heartbeat sets going. -/
def heartbeatNew (s : State) : State :=
  let s := if s.boot.checked then s else romStart s
  if lanternState s = 3 then s else mcStage (if lanternState (heardNow s) = 1 then raiseAction ((heardNow s).setF 0x500 0 2 2) 0 else heardNow s)

theorem heartbeat_changed {count : Nat} (h : s.f 0x510 0 32 ≠ count % 2 ^ 32) : heartbeat s count = heartbeatNew (s.setF 0x510 0 32 count) := by
  unfold heartbeat heartbeatNew heardNow
  simp only [h, ne_eq, not_false_eq_true, decide_true, Bool.not_true, Bool.false_eq_true, if_false]

theorem heartbeat_same {count : Nat} (h : s.f 0x510 0 32 = count % 2 ^ 32) : heartbeat s count = s.setF 0x510 0 32 count := by
  unfold heartbeat
  simp only [h, ne_eq, not_true_eq_false, decide_false, Bool.not_false, if_true]

theorem heartbeatNew_watched (hc : s.boot.checked = true) (hst : lanternState s = 0) : heartbeatNew s = mcStage (heardNow s) := by
  have hst' : lanternState (heardNow s) = 0 := hst
  unfold heartbeatNew
  simp only [hc, if_true, hst, hst']
  rfl

theorem heartbeatNew_takeover (hc : s.boot.checked = true) (hst : lanternState s = 1) :
    heartbeatNew s = mcStage (raiseAction ((heardNow s).setF 0x500 0 2 2) 0) := by
  have hst' : lanternState (heardNow s) = 1 := hst
  unfold heartbeatNew
  simp only [hc, if_true, hst, hst']
  rfl

/-- The register of the heartbeat is free of halves that wait. -/
def beatOpen (s : State) : State := unhold (dropLatch s 0x510) 0x510

theorem beatOpen_rd (s : State) (o : Nat) : (beatOpen s).rd o = s.rd o := rfl
theorem beatOpen_f (s : State) (o l w : Nat) : (beatOpen s).f o l w = s.f o l w := rfl
theorem beatOpen_fb (s : State) (o l : Nat) : (beatOpen s).fb o l = s.fb o l := rfl
theorem beatOpen_boot (s : State) : (beatOpen s).boot = s.boot := rfl
theorem beatOpen_mem (s : State) : (beatOpen s).mem = s.mem := rfl
theorem beatOpen_fuses (s : State) : (beatOpen s).fuses = s.fuses := rfl
theorem beatOpen_evNo (s : State) : (beatOpen s).evNo = s.evNo := rfl
theorem beatOpen_cores (s : State) : (beatOpen s).cores = s.cores := rfl

theorem lanternHeartbeat_eq (hp : s.boot.powered = true) (count : Word32) : exec (.lanternHeartbeat .mc count) s =
    .next (ended s (heartbeat (beatOpen s) count.toNat)) :=
  congrArg (fun t => Host.Outcome.next (ended s t)) ((if_pos rfl).trans (if_pos hp))

/-- The state that takes the new count. -/
def counted (s : State) (count : Word32) : State := (beatOpen s).setF 0x510 0 32 count.toNat

theorem counted_sameRegs (s : State) (count : Word32) : SameRegs [0x510] s (counted s count) :=
  fun r hr => (State.rd_setF_other _ _ _ _ _ _ (by simpa using hr)).trans (beatOpen_rd s r)

theorem counted_f {o : Nat} (h : o ≠ 0x510) (s : State) (count : Word32) (l w : Nat) : (counted s count).f o l w = s.f o l w := by
  unfold State.f
  rw [counted_sameRegs s count o (by simpa using h)]

theorem counted_fb {o : Nat} (h : o ≠ 0x510) (s : State) (count : Word32) (l : Nat) : (counted s count).fb o l = s.fb o l := by
  unfold State.fb
  rw [counted_f h]

theorem counted_count (s : State) (count : Word32) : (counted s count).f 0x510 0 32 = count.toNat :=
  (State.f_setF_same _ _ _ _ _ (by decide)).trans (Nat.mod_eq_of_lt count.isLt)

theorem counted_boot (s : State) (count : Word32) : (counted s count).boot = s.boot := (State.setF_boot ..).trans (beatOpen_boot s)
theorem counted_mem (s : State) (count : Word32) : (counted s count).mem = s.mem := (State.setF_mem ..).trans (beatOpen_mem s)
theorem counted_fuses (s : State) (count : Word32) : (counted s count).fuses = s.fuses := (State.setF_fuses ..).trans (beatOpen_fuses s)
theorem counted_evNo (s : State) (count : Word32) : (counted s count).evNo = s.evNo := (State.setF_evNo ..).trans (beatOpen_evNo s)
theorem counted_cores (s : State) (count : Word32) : (counted s count).cores = s.cores := (State.setF_cores ..).trans (beatOpen_cores s)

theorem beat_changed (hp : s.boot.powered = true) {count : Word32} (h : s.f 0x510 0 32 ≠ count.toNat) :
    exec (.lanternHeartbeat .mc count) s = .next (ended s (heartbeatNew (counted s count))) := by
  rw [lanternHeartbeat_eq hp, heartbeat_changed, counted]
  rwa [Nat.mod_eq_of_lt count.isLt]

theorem heardNow_frame (s : State) : StageFrame (heardNow s) (mcStage (heardNow s)) := mcStage_frame _

/-- A field that bring-up does not write. -/
theorem StageFrame.f {o : Nat} (h : StageFrame s t) (ho : o ∉ stageRegs) (l w : Nat) : t.f o l w = s.f o l w := by
  unfold State.f
  rw [h.regs o ho]

/-! #### A heartbeat that is watched -/

/-- The state in which a watched heartbeat moves bring-up on. -/
def beaten (s : State) (count : Word32) : State := heardNow (counted s count)

theorem beat_watched (hp : s.boot.powered = true) (hc : s.boot.checked = true) (hst : lanternState s = 0) {count : Word32}
    (h : s.f 0x510 0 32 ≠ count.toNat) : exec (.lanternHeartbeat .mc count) s = .next (ended s (mcStage (beaten s count))) := by
  have hst' : lanternState (counted s count) = 0 := (counted_f (by decide) ..).trans hst
  rw [beat_changed hp h, heartbeatNew_watched (by rw [counted_boot]; exact hc) hst']
  rfl

theorem beaten_boot (s : State) (count : Word32) : (beaten s count).boot = { s.boot with heard := true } := by
  rw [beaten, heardNow_boot, counted_boot]

theorem beaten_f {o : Nat} (h : o ≠ 0x510) (s : State) (count : Word32) (l w : Nat) : (beaten s count).f o l w = s.f o l w := by
  rw [beaten, heardNow_f, counted_f h]

theorem beaten_fb {o : Nat} (h : o ≠ 0x510) (s : State) (count : Word32) (l : Nat) : (beaten s count).fb o l = s.fb o l := by
  rw [beaten, heardNow_fb, counted_fb h]

theorem beaten_fuses (s : State) (count : Word32) : (beaten s count).fuses = s.fuses := (heardNow_fuses _).trans (counted_fuses s count)
theorem beaten_evNo (s : State) (count : Word32) : (beaten s count).evNo = s.evNo := (heardNow_evNo _).trans (counted_evNo s count)
theorem beaten_mem (s : State) (count : Word32) : (beaten s count).mem = s.mem := (heardNow_mem _).trans (counted_mem s count)
theorem beaten_cores (s : State) (count : Word32) : (beaten s count).cores = s.cores := (heardNow_cores _).trans (counted_cores s count)
theorem beaten_count (s : State) (count : Word32) : (beaten s count).f 0x510 0 32 = count.toNat := (heardNow_f ..).trans (counted_count s count)
theorem beaten_sameRegs (s : State) (count : Word32) : SameRegs [0x510] s (beaten s count) :=
  fun r hr => (heardNow_rd ..).trans (counted_sameRegs s count r hr)

theorem presentDies_beaten (s : State) (count : Word32) : presentDies (beaten s count) = presentDies s := by
  unfold presentDies diePresent upmBit
  rw [beaten_fuses]

theorem firstHeard_dieState (s : State) (d : Nat) : dieState (firstHeard s) d = dieState s d := rfl

theorem beaten_dieState {d : Nat} (hd : d < 8) (s : State) (count : Word32) : dieState (beaten s count) d = dieState s d :=
  beaten_f (by unfold rCapDie; omega) ..

theorem mcStage_dies (he : s.boot.ever = false) {d : Nat} (hd : d ∈ presentDies s) (h0 : dieState s d = 0) : dieState (mcStage s) d = 1 := by
  have h8 := lt_of_present hd
  rw [mcStage_first he]
  exact (capNote_f (by unfold rCapDie; omega) _).trans
    (dieStarts_fold (fun _ hx => lt_of_present hx) (.inl ⟨hd, (firstHeard_dieState s d).trans h0⟩))

theorem gUp_beaten {e : Nat} (h : gUp s e = true) (count : Word32) : gUp (beaten s count) e = true := by
  unfold gUp at h ⊢
  rwa [beaten_fb]
  unfold rGirth girthBase dieBase
  omega

theorem mcStage_feat (he : s.boot.ever = true) (hf : s.boot.featSet = false) (h : ∀ d ∈ presentDies s, gUp s (4 * d + 2) = true) :
    (mcStage s).boot.featSet = true := by
  have htrained : portsTrained s = true := List.all_eq_true.mpr fun d hd => by
    rw [h d hd]
    simp
  rw [mcStage_features he hf, if_pos htrained, capNote_boot]
  exact (setFeatures_frame s).2

theorem heartbeat_watched (s : State) (count : Word32) (hp : s.boot.powered = true) (hc : s.boot.checked = true) (hst : lanternState s = 0)
    (h : s.f 0x510 0 32 ≠ count.toNat) :
    ∃ t, exec (.lanternHeartbeat .mc count) s = .next t ∧ t.f 0x510 0 32 = count.toNat ∧ t.boot.heard = true ∧ t.boot.ever = true ∧
      lanternState t = 0 ∧ SameMem s t ∧
      (s.boot.ever = false → ∀ d, d < 8 → diePresent s d = true → dieState s d = 0 → dieState t d = 1) ∧
      (s.boot.ever = true → s.boot.featSet = false → (∀ d, d < 8 → diePresent s d = true → gUp s (4 * d + 2) = true) → t.boot.featSet = true) ∧
      (s.boot.ever = true → s.boot.featSet = true → s.fb 0x600 7 = true → SameRegs [0x510] s t ∧ SameCores [] s t) := by
  have hframe := mcStage_frame (beaten s count)
  have hboot := beaten_boot s count
  refine ⟨_, beat_watched hp hc hst h, (ended_f ..).trans ?_, ?_, ?_, (ended_f ..).trans ?_, fun a => (ended_byte ..).trans ?_,
    fun he d hd hpres h0 => (ended_f ..).trans ?_, fun he hf hup => ?_, fun he hf hhub => ?_⟩
  · rw [hframe.f lantern_notMem.2]
    exact beaten_count s count
  · rw [ended_boot, hframe.heard, hboot]
  · rw [ended_boot, mcStage_ever]
  · rw [hframe.f lantern_notMem.1, beaten_f (by decide)]
    exact hst
  · exact byte_mem s (hframe.mem.trans (beaten_mem s count)) a
  · exact mcStage_dies (by rw [hboot]; exact he) (by rw [presentDies_beaten]; exact mem_presentDies hd hpres) ((beaten_dieState hd ..).trans h0)
  · rw [ended_boot]
    refine mcStage_feat (by rw [hboot]; exact he) (by rw [hboot]; exact hf) fun d hd => gUp_beaten ?_ count
    rw [presentDies_beaten] at hd
    exact hup d (lt_of_present hd) (List.mem_filter.mp hd).2
  · rw [mcStage_done (by rw [hboot]; exact he) (by rw [hboot]; exact hf) (by rw [beaten_fb (by decide)]; exact hhub)]
    exact ⟨fun r hr => (ended_rd ..).trans (beaten_sameRegs s count r hr), sameCores_of_cores _ ((ended_cores ..).trans (beaten_cores s count))⟩

/-! #### A heartbeat after a takeover -/

/-- The takeover has ended. -/
def recovered (s : State) (count : Word32) : State := raiseAction ((beaten s count).setF 0x500 0 2 2) 0

theorem beat_takeover (hp : s.boot.powered = true) (hc : s.boot.checked = true) (hst : lanternState s = 1) {count : Word32}
    (h : s.f 0x510 0 32 ≠ count.toNat) : exec (.lanternHeartbeat .mc count) s = .next (ended s (mcStage (recovered s count))) := by
  have hst' : lanternState (counted s count) = 1 := (counted_f (by decide) ..).trans hst
  rw [beat_changed hp h, heartbeatNew_takeover (by rw [counted_boot]; exact hc) hst']
  rfl

theorem raiseAction_f (s : State) (x o l w : Nat) : (raiseAction s x).f o l w = s.f o l w := rfl
theorem raiseAction_boot (s : State) (x : Nat) : (raiseAction s x).boot = s.boot := rfl

/-- LANTERN_ACTION is among what is raised. -/
theorem raiseAction_raised (s : State) (x : Nat) : ∃ r ∈ (raiseAction s x).raises,
    r.cls = (FaultSrc.lanternAction).at.1 ∧ r.idx = (FaultSrc.lanternAction).at.2 ∧ r.ev = s.evNo :=
  ⟨_, List.mem_append_right _ (List.mem_singleton.mpr rfl), rfl, rfl, rfl⟩


theorem heartbeat_recovers (s : State) (count : Word32) (hp : s.boot.powered = true) (hc : s.boot.checked = true) (hst : lanternState s = 1)
    (h : s.f 0x510 0 32 ≠ count.toNat) :
    ∃ t, exec (.lanternHeartbeat .mc count) s = .next t ∧ t.f 0x510 0 32 = count.toNat ∧ t.boot.heard = true ∧ lanternState t = 2 ∧
      ∃ r ∈ t.raises, r.cls = (FaultSrc.lanternAction).at.1 ∧ r.idx = (FaultSrc.lanternAction).at.2 ∧ r.ev = s.evNo := by
  have hframe := mcStage_frame (recovered s count)
  obtain ⟨r, hr, hcls, hidx, hev⟩ := raiseAction_raised ((beaten s count).setF 0x500 0 2 2) 0
  refine ⟨_, beat_takeover hp hc hst h, (ended_f ..).trans ?_, ?_, (ended_f ..).trans ?_, r, hframe.raises r hr, hcls, hidx, ?_⟩
  · rw [hframe.f lantern_notMem.2, recovered, raiseAction_f, State.f_setF_other _ _ _ _ _ _ _ _ (by decide)]
    exact beaten_count s count
  · rw [ended_boot, hframe.heard, recovered, raiseAction_boot, State.setF_boot, beaten_boot]
  · rw [hframe.f lantern_notMem.1, recovered, raiseAction_f, State.f_setF_same _ _ _ _ _ (by decide)]
    rfl
  · rw [hev, State.setF_evNo, beaten_evNo]

/-! #### A heartbeat that says nothing new -/

/-- A field that is written as it is leaves its register. -/
theorem rd_setF_same {o l w x : Nat} (hw : l + w ≤ 64) (h : s.f o l w = x) : (s.setF o l w x).rd o = s.rd o := by
  have hlow := Nat.div_add_mod (s.rd o).toNat (2 ^ l)
  have hhigh := Nat.div_add_mod ((s.rd o).toNat / 2 ^ l) (2 ^ w)
  have hfld : x % 2 ^ w = (s.rd o).toNat / 2 ^ l % 2 ^ w := by
    rw [← h]
    exact Nat.mod_mod ..
  rw [State.setF, State.rd_wr_same]
  refine BitVec.eq_of_toNat_eq ((toNat_setFld _ _ _ _ hw).trans ?_)
  rw [hfld, Nat.pow_add, ← Nat.div_div_eq_div_mul]
  generalize (s.rd o).toNat / 2 ^ l / 2 ^ w = q at hhigh ⊢
  generalize (s.rd o).toNat / 2 ^ l % 2 ^ w = m at hhigh ⊢
  rw [← hhigh] at hlow
  linarith [hlow, mul_comm (2 ^ l) (2 ^ w * q + m)]

theorem heartbeat_old (s : State) (count : Word32) (hp : s.boot.powered = true) (h : s.f 0x510 0 32 = count.toNat) :
    ∃ t, exec (.lanternHeartbeat .mc count) s = .next t ∧ t.boot = s.boot ∧ SameRegs [] s t ∧ SameMem s t ∧ SameCores [] s t := by
  have hsame : (beatOpen s).f 0x510 0 32 = count.toNat % 2 ^ 32 := by rw [beatOpen_f, Nat.mod_eq_of_lt count.isLt, h]
  have hrow := lanternHeartbeat_eq hp count
  rw [heartbeat_same hsame] at hrow
  refine ⟨_, hrow, (ended_boot ..).trans (counted_boot s count), fun r _ => (ended_rd ..).trans ?_,
    fun a => (ended_byte ..).trans (byte_mem s (counted_mem s count) a), sameCores_of_cores _ ((ended_cores ..).trans (counted_cores s count))⟩
  by_cases hr : r = 0x510
  · rw [hr, rd_setF_same (by decide) ((beatOpen_f ..).trans h), beatOpen_rd]
  · exact counted_sameRegs s count r (by simpa using hr)

theorem heartbeat_other (s : State) (a : Agent) (count : Word32) (ha : a ≠ .mc) :
    ∃ t, exec (.lanternHeartbeat a count) s = .next t ∧ t.boot = s.boot ∧ SameRegs [0x210, 0x218] s t ∧ SameCores [] s t := by
  have hrow : exec (.lanternHeartbeat a count) s =
      .next (ended s (clampReport (beatOpen s) a 0x510 0 0 rsnDiscarded count.toNat (s.f 0x510 0 64))) :=
    congrArg (fun t => Host.Outcome.next (ended s t)) (if_neg ha)
  refine ⟨_, hrow, ?_, fun r hr => (ended_rd ..).trans ?_, sameCores_of_cores _ ?_⟩
  · rw [ended_boot, clampReport_boot, beatOpen_boot]
  · simp only [List.mem_cons, List.not_mem_nil, or_false, not_or] at hr
    rw [clampReport_rd _ _ _ _ _ _ _ _ _ hr.1 hr.2, beatOpen_rd]
  · rw [ended_cores, clampReport_cores, beatOpen_cores]

end Sys2Proof.Machine
end

section
/-! ## The takeover, BOOT_WAIT, the Lanterns' own heartbeats and the release (R368-R371, R398) -/

namespace Sys2Proof.Machine

variable {s t u : State}

/-! ### The takeover -/

/-- LANTERN_STATUS at the start of a takeover. -/
def takeoverWord (s : State) : Nat :=
  packBits [(1, 0, 2), (actingLantern s, 2, 1), (0, 3, 2), (s.f 0x500 5 1, 5, 1), (0, 6, 1), (1, 7, 1), (s.now / 65536, 16, 48)]

/-- The Lantern asserts ERR_HOLD and tells the partners. -/
def takenOver (s : State) : State := tellPartners (errChange s (fun s => s.wr 0x500 (BitVec.ofNat 64 (takeoverWord s))))

theorem mcHeartbeatStop_eq (hst : lanternState s = 0) (hh : s.boot.heard = true) :
    exec .mcHeartbeatStop s = .next (ended s (lanternReset (((takenOver s).setB 0x500 6 true).setF 0x500 3 2 1))) := by
  have hguard : (decide (lanternState s ≠ 0) || !s.boot.heard) = false := by rw [hst, hh]; rfl
  show execMcHeartbeatStop s = _
  unfold execMcHeartbeatStop
  rw [hguard, if_neg (by decide), done_eq]
  rfl

theorem sendVc0_rd (s : State) (p k : Nat) (l : List Nat) (o : Nat) : (sendVc0 s p k l).rd o = s.rd o := rfl

theorem tellPartners_rd (s : State) (o : Nat) : (tellPartners s).rd o = s.rd o := by
  unfold tellPartners
  refine List.foldlRecOn _ _ (motive := fun t : State => t.rd o = s.rd o) rfl fun t ht p _ => ?_
  split
  · rw [sendVc0_rd, ht]
  · exact ht

theorem takenOver_rd (s : State) : (takenOver s).rd 0x500 = BitVec.ofNat 64 (takeoverWord s) := by
  rw [takenOver, tellPartners_rd, errChange_rd, State.rd_wr_same]

theorem takenOver_f (s : State) (l w : Nat) : (takenOver s).f 0x500 l w = fld (BitVec.ofNat 64 (takeoverWord s)) l w := by
  rw [State.f, takenOver_rd]

theorem actingLantern_lt (s : State) : actingLantern s < 2 := by
  unfold actingLantern
  split <;> decide

/-- The fields of LANTERN_STATUS at the start of a takeover. -/
theorem takeoverWord_fields (s : State) : fld (BitVec.ofNat 64 (takeoverWord s)) 0 2 = 1 ∧
    fld (BitVec.ofNat 64 (takeoverWord s)) 2 1 = actingLantern s ∧ fld (BitVec.ofNat 64 (takeoverWord s)) 7 1 = 1 := by
  have hact := actingLantern_lt s
  have hboth : s.f 0x500 5 1 < 2 := fld_lt ..
  unfold takeoverWord packBits fld bitsN
  simp only [BitVec.toNat_ofNat, List.map_cons, List.map_nil, sumN, List.foldl_cons, List.foldl_nil]
  omega

theorem mcRestart_rd (s : State) (b : Bool) (o : Nat) : (mcRestart s b).rd o = s.rd o := rfl
theorem forget_rd (s : State) (lo hi o : Nat) : (s.forget lo hi).rd o = s.rd o := rfl
theorem mcRestart_heard (s : State) (b : Bool) : (mcRestart s b).boot.heard = false := rfl

theorem mcRestart_hart (s : State) (b : Bool) : (mcRestart s b).hart 72 = NmiHart.reset := by
  show look NmiHart.reset (putRaw s.nmi 72 NmiHart.reset) 72 = _
  simp

theorem lanternReset_rd {o : Nat} (h : o ≠ fltBase 12 0) (s : State) : (lanternReset s).rd o = s.rd o := by
  rw [lanternReset, mcRestart_rd, forget_rd, State.rd_setF_other _ _ _ _ _ _ h]

theorem lanternReset_f {o : Nat} (h : o ≠ fltBase 12 0) (s : State) (l w : Nat) : (lanternReset s).f o l w = s.f o l w := by
  unfold State.f
  rw [lanternReset_rd h]

theorem lanternReset_fb {o : Nat} (h : o ≠ fltBase 12 0) (s : State) (l : Nat) : (lanternReset s).fb o l = s.fb o l := by
  unfold State.fb
  rw [lanternReset_f h]

theorem mcHeartbeatStop_effect (s : State) (hst : lanternState s = 0) (hh : s.boot.heard = true) :
    ∃ t, exec .mcHeartbeatStop s = .next t ∧ lanternState t = 1 ∧ t.f 0x500 2 1 = actingLantern s ∧ t.f 0x500 3 2 = 1 ∧ t.fb 0x500 6 = true ∧
      t.fb 0x500 7 = true ∧ t.boot.heard = false ∧ (t.hart 72).handling = none := by
  have hne : (0x500 : Nat) ≠ fltBase 12 0 := by decide
  obtain ⟨hstate, hact, hhold⟩ := takeoverWord_fields s
  refine ⟨_, mcHeartbeatStop_eq hst hh, (ended_f ..).trans ?_, (ended_f ..).trans ?_, (ended_f ..).trans ?_, (ended_fb ..).trans ?_,
    (ended_fb ..).trans ?_, ?_, ?_⟩
  · rw [lanternReset_f hne, State.f_setF_apart _ _ _ _ _ _ _ (by decide) (by decide), State.f_setB_apart _ _ _ _ _ _ (by decide) (by decide),
      takenOver_f, hstate]
  · rw [lanternReset_f hne, State.f_setF_apart _ _ _ _ _ _ _ (by decide) (by decide), State.f_setB_apart _ _ _ _ _ _ (by decide) (by decide),
      takenOver_f, hact]
  · rw [lanternReset_f hne, State.f_setF_same _ _ _ _ _ (by decide)]
    rfl
  · rw [lanternReset_fb hne, State.fb_setF_apart _ _ _ _ _ _ (by decide) (by decide), State.fb_setB_same _ _ _ _ (by decide)]
  · rw [lanternReset_fb hne, State.fb_setF_apart _ _ _ _ _ _ (by decide) (by decide), State.fb_setB_apart _ _ _ _ _ (by decide) (by decide),
      State.fb, takenOver_f, hhold]
    rfl
  · rw [ended_boot, lanternReset, mcRestart_heard]
  · rw [State.hart, ended_nmi, ← State.hart, lanternReset, mcRestart_hart]
    rfl

/-! ### BOOT_WAIT -/

theorem bootWait_open (hh : s.boot.heard = false) (hp : s.boot.powered = true) (hst : lanternState s ≠ 3) :
    (s.boot.heard || !s.boot.powered || decide (lanternState s = 3)) = false := by
  rw [hh, hp, decide_eq_false hst]
  rfl

/-- In a takeover. -/
theorem bootWaitExpire_takeover (hh : s.boot.heard = false) (hp : s.boot.powered = true) (hst : lanternState s = 1) :
    exec .bootWaitExpire s = .next (ended s (if s.f 0x500 3 2 < 3 then lanternReset (s.setF 0x500 3 2 (s.f 0x500 3 2 + 1))
      else raiseAction (holdSafe s) 1)) := by
  show execBootWaitExpire s = _
  unfold execBootWaitExpire
  rw [bootWait_open hh hp (by omega), if_neg (by decide), if_pos hst, done_eq]

/-- While the MC is watched. -/
theorem bootWaitExpire_watched (hh : s.boot.heard = false) (hp : s.boot.powered = true) (hc : s.boot.checked = true) (hst : lanternState s = 0) :
    exec .bootWaitExpire s = .next (ended s (fallBack (resetMc s) (s.f rBoot 0 1) 2)) := by
  show execBootWaitExpire s = _
  unfold execBootWaitExpire
  rw [bootWait_open hh hp (by omega), if_neg (by decide), if_neg (by omega), if_pos hc, done_eq]
  dsimp only
  rw [if_neg (by omega)]

theorem levelAll_rd {o : Nat} (h : o < 0x1000000) (s : State) : (levelAll s).rd o = s.rd o := by
  unfold levelAll
  refine List.foldlRecOn _ _ (motive := fun t : State => t.rd o = s.rd o) rfl fun t ht d _ => ?_
  split
  · refine (levelStep_sameRegs t d o ?_).trans ht
    unfold rPlevel dieBase
    simp only [List.mem_singleton]
    omega
  · exact ht

/-- The service floors of all dies go to P5. -/
def floorAll (s : State) : State := (upto 8).foldl (fun s d => s.setF (rPlevel d) 19 3 5) s

theorem floorAll_rd {o : Nat} (h : o < 0x1000000) (s : State) : (floorAll s).rd o = s.rd o := by
  unfold floorAll
  refine List.foldlRecOn _ _ (motive := fun t : State => t.rd o = s.rd o) rfl fun t ht d _ => ?_
  rw [State.rd_setF_other, ht]
  unfold rPlevel dieBase
  omega

theorem floorAll_evNo (s : State) : (floorAll s).evNo = s.evNo :=
  List.foldlRecOn _ _ (motive := fun t : State => t.evNo = s.evNo) rfl fun _ ht _ _ => (State.setF_evNo ..).trans ht

theorem sendMsix_evNo (s : State) (f v : Nat) : (s.sendMsix f v).evNo = s.evNo := by
  unfold State.sendMsix
  split_ifs <;> rfl

theorem sendMsix_if_evNo (p : Prop) [Decidable p] (s : State) (f v : Nat) : (if p then s.sendMsix f v else s).evNo = s.evNo := by
  split
  · exact sendMsix_evNo ..
  · rfl

theorem capNote_evNo (s : State) : (capNote s).evNo = s.evNo :=
  (sendMsix_if_evNo ..).trans ((State.setF_evNo ..).trans (State.setF_evNo ..))

theorem holdSafe_eq (s : State) : holdSafe s = capNote (levelAll (floorAll (s.setF 0x500 0 2 3))) := rfl

theorem holdSafe_evNo (s : State) : (holdSafe s).evNo = s.evNo := by
  rw [holdSafe_eq, capNote_evNo, (LevelFrame.levelAll _).evNo, floorAll_evNo, State.setF_evNo]

theorem holdSafe_state (s : State) : lanternState (holdSafe s) = 3 := by
  rw [holdSafe_eq, lanternState, capNote_f (by decide), State.f, levelAll_rd (by decide), floorAll_rd (by decide), ← State.f,
    State.f_setF_same _ _ _ _ _ (by decide)]
  rfl

theorem bootWaitExpire_safe (s : State) (hh : s.boot.heard = false) (hp : s.boot.powered = true) (hst : lanternState s = 1)
    (hn : s.f 0x500 3 2 = 3) : ∃ t, exec .bootWaitExpire s = .next t ∧ lanternState t = 3 ∧
      ∃ r ∈ t.raises, r.cls = (FaultSrc.lanternAction).at.1 ∧ r.idx = (FaultSrc.lanternAction).at.2 ∧ r.ev = s.evNo := by
  have hrow := bootWaitExpire_takeover hh hp hst
  rw [if_neg (by omega)] at hrow
  obtain ⟨r, hr, hcls, hidx, hev⟩ := raiseAction_raised (holdSafe s) 1
  exact ⟨_, hrow, (ended_f ..).trans ((raiseAction_f ..).trans (holdSafe_state s)), r, hr, hcls, hidx, hev.trans (holdSafe_evNo s)⟩

/-! ### The Lanterns' own heartbeats -/

/-- A Lantern's heartbeat is present. -/
def beatSeen (s : State) (l : Nat) : State :=
  { s with boot := { s.boot with beats := insertNat s.boot.beats l, gone := s.boot.gone.filter (fun x => x ≠ l) } }

/-- A Lantern's heartbeat is absent. -/
def beatGone (s : State) (l : Nat) : State :=
  { s with boot := { s.boot with beats := s.boot.beats.filter (fun x => x ≠ l), gone := insertNat s.boot.gone l } }

theorem beatSeen_rd (s : State) (l o : Nat) : (beatSeen s l).rd o = s.rd o := rfl
theorem beatGone_rd (s : State) (l o : Nat) : (beatGone s l).rd o = s.rd o := rfl
theorem beatSeen_frame (s : State) (l : Nat) : (beatSeen s l).mem = s.mem ∧ (beatSeen s l).cores = s.cores := ⟨rfl, rfl⟩
theorem beatGone_frame (s : State) (l : Nat) : (beatGone s l).mem = s.mem ∧ (beatGone s l).cores = s.cores ∧ (beatGone s l).evNo = s.evNo :=
  ⟨rfl, rfl, rfl⟩

theorem beatSeen_boot (s : State) (l : Nat) : (beatSeen s l).boot =
    { s.boot with beats := insertNat s.boot.beats l, gone := s.boot.gone.filter (fun x => x ≠ l) } := rfl
theorem beatGone_boot (s : State) (l : Nat) : (beatGone s l).boot =
    { s.boot with beats := s.boot.beats.filter (fun x => x ≠ l), gone := insertNat s.boot.gone l } := rfl

theorem lanternPeerHeartbeat_effect (s : State) (l : Nat) (hl : l < 2) :
    ∃ t, exec (.lanternPeerHeartbeat l) s = .next t ∧ l ∈ t.boot.beats ∧ l ∉ t.boot.gone ∧
      (t.fb 0x500 5 = true ↔ (insertNat s.boot.beats l).length = 2) ∧ SameRegs [0x500] s t ∧ SameMem s t ∧ SameCores [] s t := by
  obtain ⟨hmem, hcores⟩ := beatSeen_frame s l
  have hrow : exec (.lanternPeerHeartbeat l) s = .next (ended s ((beatSeen s l).setB 0x500 5 ((insertNat s.boot.beats l).length = 2))) :=
    congrArg (fun t => Host.Outcome.next (ended s t)) (if_neg (by omega))
  refine ⟨_, hrow, ?_, ?_, ?_, fun r hr => ?_, fun a => ?_, sameCores_of_cores _ ?_⟩
  · rw [ended_boot, State.setB_boot, beatSeen_boot]
    exact mem_insertNat.mpr (.inl rfl)
  · rw [ended_boot, State.setB_boot, beatSeen_boot]
    simp
  · rw [ended_fb, State.fb_setB_same _ _ _ _ (by decide), decide_eq_true_eq]
  · rw [ended_rd, State.rd_setB_other _ _ _ _ _ (by simpa using hr), beatSeen_rd]
  · exact (ended_byte ..).trans (byte_mem s ((State.setB_mem ..).trans hmem) a)
  · rw [ended_cores, State.setB_cores, hcores]

theorem lanternLost_effect (s : State) (l : Nat) (hl : l < 2) (hgone : l ∉ s.boot.gone) :
    ∃ t, exec (.lanternLost l) s = .next t ∧ l ∉ t.boot.beats ∧ l ∈ t.boot.gone ∧ t.fb 0x500 5 = false ∧
      (∃ r ∈ t.raises, r.cls = (FaultSrc.lanternLost).at.1 ∧ r.idx = (FaultSrc.lanternLost).at.2 ∧ r.synd = l ∧ r.ev = s.evNo) ∧
      SameRegs [0x500] s t ∧ SameMem s t ∧ SameCores [] s t := by
  obtain ⟨hmem, hcores, hev⟩ := beatGone_frame s l
  have hguard : ¬ ((decide (1 < l) || s.boot.gone.contains l) = true) := by
    rw [Bool.or_eq_true, decide_eq_true_eq, List.contains_iff_mem]
    exact fun h => h.elim (by omega) hgone
  have hrow : exec (.lanternLost l) s = .next (ended s (((beatGone s l).setB 0x500 5 false).raise .lanternLost 0 (packBits [(l, 0, 1)]))) :=
    congrArg (fun t => Host.Outcome.next (ended s t)) (if_neg hguard)
  have hsynd : packBits [(l, 0, 1)] % 2 ^ 64 = l := by
    interval_cases l <;> decide
  refine ⟨_, hrow, ?_, ?_, ?_, ⟨_, List.mem_append_right _ (List.mem_singleton.mpr rfl), rfl, rfl, hsynd, ?_⟩, fun r hr => ?_, fun a => ?_,
    sameCores_of_cores _ ?_⟩
  · rw [ended_boot, State.raise_boot, State.setB_boot, beatGone_boot]
    simp
  · rw [ended_boot, State.raise_boot, State.setB_boot, beatGone_boot]
    exact mem_insertNat.mpr (.inl rfl)
  · rw [ended_fb, State.raise_fb, State.fb_setB_same _ _ _ _ (by decide)]
  · exact (State.setB_evNo (s := beatGone s l) 0x500 5 false).trans hev
  · rw [ended_rd, State.raise_rd, State.rd_setB_other _ _ _ _ _ (by simpa using hr), beatGone_rd]
  · exact (ended_byte ..).trans ((State.raise_byte ..).trans (byte_mem s ((State.setB_mem ..).trans hmem) a))
  · rw [ended_cores, State.raise_cores, State.setB_cores, hcores]

/-! ### The release -/

theorem reached_lanternCtl (s : State) : Reached s (.client 0) 0x508 := reached_global rfl rfl rfl

theorem withBits_release (s : State) : fld (withBits s 0x508 1) 0 1 = 1 := by
  unfold withBits fld bitsN
  rw [BitVec.toNat_or, Nat.pow_zero, Nat.div_one, Nat.pow_one]
  exact Nat.or_mod_two_eq_one.mpr (.inr rfl)

/-- The state in which RELEASE takes effect, where the register is written and its changes are reported. -/
def releaseAsked (s : State) (fs : List Field) (v : Word) : State :=
  let r := andThen (applyFields (withGaps 0 fs) (s.rd 0x508) v) (fun n => crossRule (unhold (dropLatch s 0x508) 0x508) 0x508 n)
  reportAll ((unhold (dropLatch s 0x508) 0x508).wr 0x508 r.1) (.client 0) 0x508 (mergeReps r.2)

theorem releaseAsked_f (s : State) (fs : List Field) (v : Word) (l w : Nat) : (releaseAsked s fs v).f 0x500 l w = s.f 0x500 l w := by
  unfold releaseAsked
  rw [reportAll_f _ _ _ _ _ _ _ (by decide) (by decide), State.f, State.rd_wr_other _ _ _ _ (by decide)]
  rfl

theorem releaseAsked_cores (s : State) (fs : List Field) (v : Word) : (releaseAsked s fs v).cores = s.cores := by
  unfold releaseAsked
  rw [reportAll_cores]
  rfl

theorem writeHook_lanternCtl (t : State) (a : Agent) (old v : Word) : writeHook t a 0x508 old v = releaseHook t a v := by
  have hblock : fltBlockAt (0x508 / 256 * 256) = none := rfl
  have hcore : coreAt 0x508 = none := rfl
  unfold writeHook
  rw [hblock, hcore]
  dsimp only
  unfold hubHook
  rw [if_neg (by decide), if_neg (by decide), if_pos rfl]

theorem written_release (s : State) (fs : List Field) (v : Word) (hv : fld v 0 1 = 1) (hst : lanternState s = 2) :
    written s (.client 0) 0x508 fs v = lanternRelease (releaseAsked s fs v) := by
  have hst' : lanternState (releaseAsked s fs v) = 2 := (releaseAsked_f ..).trans hst
  unfold written
  rw [writeHook_lanternCtl]
  change releaseHook (releaseAsked s fs v) (.client 0) v = _
  unfold releaseHook
  rw [if_neg (by omega), if_pos hst']

theorem lanternRelease_eq (s : State) (hst : lanternState s = 2) :
    ∃ fs, exec (.lanternRelease (.client 0)) s = .next (ended s (lanternRelease (releaseAsked s fs (withBits s 0x508 1)))) := by
  obtain ⟨fs, hfs⟩ : ∃ fs, regFields 0x508 = some fs := ⟨_, rfl⟩
  have hdisc (t : State) (o n : Word) : discards t (.client 0) 0x508 o n = none := rfl
  refine ⟨fs, congrArg (fun t => Host.Outcome.next (ended s t)) ?_⟩
  rw [regWrite_reached _ (reached_lanternCtl s), putReg_reached _ (reached_lanternCtl s) hfs, hdisc]
  exact written_release s fs _ (withBits_release s) hst

theorem lanternRelease_fields (s : State) : lanternState (lanternRelease s) = 0 ∧ (lanternRelease s).f 0x500 3 2 = 0 ∧
    (lanternRelease s).fb 0x500 6 = false ∧ (lanternRelease s).fb 0x500 7 = false := by
  unfold lanternRelease lanternState
  rw [errChange_f, errChange_f, errChange_fb, errChange_fb]
  refine ⟨?_, ?_, ?_, State.fb_setB_same _ _ _ _ (by decide)⟩
  · rw [State.f_setB_apart _ _ _ _ _ _ (by decide) (by decide), State.f_setB_apart _ _ _ _ _ _ (by decide) (by decide),
      State.f_setF_apart _ _ _ _ _ _ _ (by decide) (by decide), State.f_setF_same _ _ _ _ _ (by decide)]
    rfl
  · rw [State.f_setB_apart _ _ _ _ _ _ (by decide) (by decide), State.f_setB_apart _ _ _ _ _ _ (by decide) (by decide),
      State.f_setF_same _ _ _ _ _ (by decide)]
    rfl
  · rw [State.fb_setB_apart _ _ _ _ _ (by decide) (by decide), State.fb_setB_same _ _ _ _ (by decide)]

theorem lanternRelease_cores (s : State) : (lanternRelease s).cores = s.cores := by
  unfold lanternRelease
  rw [errChange_cores, State.setB_cores, State.setB_cores, State.setF_cores, State.setF_cores]

theorem lanternRelease_effect (s : State) (hst : lanternState s = 2) :
    ∃ t, exec (.lanternRelease (.client 0)) s = .next t ∧ lanternState t = 0 ∧ t.f 0x500 3 2 = 0 ∧ t.fb 0x500 6 = false ∧
      t.fb 0x500 7 = false ∧ SameCores [] s t := by
  obtain ⟨fs, hrow⟩ := lanternRelease_eq s hst
  obtain ⟨hstate, htries, hstop, hhold⟩ := lanternRelease_fields (releaseAsked s fs (withBits s 0x508 1))
  refine ⟨_, hrow, (ended_f ..).trans hstate, (ended_f ..).trans htries, (ended_fb ..).trans hstop, (ended_fb ..).trans hhold,
    sameCores_of_cores _ ?_⟩
  rw [ended_cores, lanternRelease_cores, releaseAsked_cores]

/-! ### The obligation -/

/-- Settles O17: each event of the heartbeats, with the fields it leaves. -/
theorem lanternsAndHeartbeat : Obligations.LanternsAndHeartbeat := by
  refine ⟨heartbeat_watched, heartbeat_recovers, heartbeat_old, heartbeat_other, mcHeartbeatStop_effect,
    fun s hh hp hc hst => bootWaitExpire_watched hh hp hc hst, fun s hh hp hst hn => ?_, bootWaitExpire_safe, lanternPeerHeartbeat_effect,
    lanternLost_effect, lanternRelease_effect, fun a => writesReg_of_regWrite fun _ => rfl⟩
  rw [bootWaitExpire_takeover hh hp hst, if_pos hn]

end Sys2Proof.Machine
end

section
/-! ## Where the fault sets stand (Table 14.1), and what a write of theirs sets going -/

namespace Sys2Proof.Machine

variable {s t u : State}

/-! ### The blocks that have one are finitely many -/

/-- The fault sets in the dies are those of classes 0 to 5. -/
theorem fltBlockAt_die {o cls inst : Nat} (ho : 0x1000000 ≤ o) (h : fltBlockAt o = some (cls, inst)) : cls ≤ 5 ∧ o < 0x5000000 := by
  have hlow : ¬ (0x200000 ≤ o && o < 0x290000) = true ∧ ¬ (0x400000 ≤ o && o < 0x420000) = true := by
    simp only [Bool.and_eq_true, decide_eq_true_eq]
    omega
  have hfixed : o ≠ 0x400 ∧ o ≠ 0x150400 ∧ o ≠ cinchBase + 0x400 ∧ o ≠ shadowBase + 0x400 ∧ o ≠ powerBase + 0x400 ∧ o ≠ mailboxBase + 0x400 ∧
      o ≠ 0x700400 := by
    unfold cinchBase shadowBase powerBase mailboxBase
    omega
  obtain ⟨h14, h6, h8, h9, h11, h12, h13⟩ := hfixed
  unfold fltBlockAt at h
  rw [if_neg h14, if_neg h6, if_neg h8, if_neg h9, if_neg h11, if_neg h12, if_neg h13, if_neg hlow.1, if_neg hlow.2] at h
  by_cases hdie : (0x1000000 ≤ o && o < 0x5000000) = true
  · have hhi : o < 0x5000000 := by
      simp only [Bool.and_eq_true, decide_eq_true_eq] at hdie
      exact hdie.2
    rw [if_pos hdie] at h
    dsimp only at h
    refine ⟨?_, hhi⟩
    split_ifs at h <;> cases h <;> decide
  · rw [if_neg hdie] at h
    cases h

theorem fltBase_far {cls inst : Nat} (hcls : cls ≤ 5) (h : 512 ≤ inst) : 0x5000000 ≤ fltBase cls inst := by
  have hdie (d o : Nat) (hd : 8 ≤ d) : 0x5000000 ≤ dieBase d + o := by
    unfold dieBase
    omega
  have hslot : fltBase 0 inst = dieBase (inst / 64) + (0x100000 + inst / 8 % 8 * 0x80000 + 0x10000 + inst % 8 * 0x10000 + 0x100) := by
    show slotBase inst + 0x100 = _
    unfold slotBase clusterBase
    omega
  have hcluster : fltBase 1 inst = dieBase (inst / 8) + (0x100000 + inst % 8 * 0x80000 + 0x100) := by
    show clusterBase (inst / 8) (inst % 8) + 0x100 = _
    unfold clusterBase
    omega
  have hgirth : fltBase 3 inst = dieBase (inst / 4) + (0x10000 + inst % 4 * 0x4000 + 0x100) := by
    show girthBase (inst / 4) (inst % 4) + 0x100 = _
    unfold girthBase
    omega
  have hdieBlock : fltBase 2 inst = dieBase inst + 0x100 := rfl
  have hmc : fltBase 4 inst = dieBase inst + 0x40100 := by
    show mcBase inst + 0x100 = _
    unfold mcBase
    omega
  have hslice : fltBase 5 inst = dieBase inst + 0x60100 := by
    show sliceBase inst + 0x100 = _
    unfold sliceBase
    omega
  interval_cases cls
  · rw [hslot]
    exact hdie _ _ (by omega)
  · rw [hcluster]
    exact hdie _ _ (by omega)
  · rw [hdieBlock]
    exact hdie _ _ (by omega)
  · rw [hgirth]
    exact hdie _ _ (by omega)
  · rw [hmc]
    exact hdie _ _ (by omega)
  · rw [hslice]
    exact hdie _ _ (by omega)

/-- Classes of one block have its address whatever their number. -/
theorem fltBase_single {cls : Nat} (h14 : cls ≤ 14) (h5 : 5 < cls) (h7 : cls ≠ 7) (h10 : cls ≠ 10) (inst : Nat) :
    fltBlockAt (fltBase cls inst) = some (cls, 0) := by
  obtain rfl | rfl | rfl | rfl | rfl | rfl | rfl : cls = 6 ∨ cls = 8 ∨ cls = 9 ∨ cls = 11 ∨ cls = 12 ∨ cls = 13 ∨ cls = 14 := by omega
  all_goals rfl

theorem isBlock_bounds {cls inst : Nat} (h : isBlock cls inst = true) : cls ≤ 14 ∧ inst < 512 := by
  unfold isBlock at h
  simp only [Bool.and_eq_true, decide_eq_true_eq] at h
  obtain ⟨hcls, hat⟩ := h
  refine ⟨hcls, ?_⟩
  by_contra hbig
  by_cases h5 : cls ≤ 5
  · have hfar := fltBase_far h5 (inst := inst) (by omega)
    have := (fltBlockAt_die (by omega) hat).2
    omega
  · have hdie (ho : 0x1000000 ≤ fltBase cls inst) : False := by
      have := (fltBlockAt_die ho hat).1
      omega
    by_cases h7 : cls = 7
    · subst h7
      refine hdie ?_
      show 0x1000000 ≤ wenBase inst + 0x400
      unfold wenBase
      omega
    · by_cases h10 : cls = 10
      · subst h10
        refine hdie ?_
        show 0x1000000 ≤ siteBase inst + 0x400
        unfold siteBase
        omega
      · rw [fltBase_single hcls (by omega) h7 h10] at hat
        cases hat
        omega

/-! ### What no rule of another register meets -/

/-- An offset of a core's window before its queues, but for the tag window. -/
def plainCore (o : Nat) : Bool := o ≠ 8 && o < 0x400

/-- An offset of a die's window, or of the hub's, that no rule names. -/
def plainWindow (off : Nat) : Bool :=
  if 0x1000000 ≤ off then
    !(0x2100 + 8 * 42 ≤ (off - 0x1000000) % 0x800000 && (off - 0x1000000) % 0x800000 ≤ 0x2100 + 8 * 44) &&
      !(0x44000 ≤ (off - 0x1000000) % 0x800000 && (off - 0x1000000) % 0x800000 < 0x45000) &&
      !(0x80000 ≤ (off - 0x1000000) % 0x800000 && (off - 0x1000000) % 0x800000 < 0x88000)
  else if (0x200000 ≤ off && off < 0x290000) = true then 0x40 ≤ (off - 0x200000) % 0x8000
  else !(cinchBase ≤ off && off ≤ cinchBase + 0x30) && !(shadowBase ≤ off && off ≤ shadowBase + 0x20) && !(0x701000 ≤ off && off < 0x713000) &&
    off ≠ memGenBase && off ≠ memGenBase + 0x20 && off ≠ marginBase && !(0x140000 ≤ off && off < 0x144100) && off ≠ siteBase 0 && off ≠ siteBase 1

/-- An offset outside the core windows that no rule names. -/
def plainHub (off : Nat) : Bool := off ≠ 0x510 && !isCredit off && queueOf off = none && plainWindow off

theorem plainHub_parts {off : Nat} (h : plainHub off = true) :
    off ≠ 0x510 ∧ isCredit off = false ∧ queueOf off = none ∧ plainWindow off = true := by
  unfold plainHub at h
  simp only [Bool.and_eq_true, decide_eq_true_eq, Bool.not_eq_true'] at h
  obtain ⟨⟨⟨h510, hcredit⟩, hqueue⟩, h⟩ := h
  exact ⟨h510, hcredit, hqueue, h⟩

def plainOff (off : Nat) : Bool :=
  match coreAt off with
  | some (_, o) => plainCore o
  | none => plainHub off

theorem coreDiscard_plain {o : Nat} (h : plainCore o = true) (s : State) (sl : Nat) (old new : Word) : coreDiscard s sl o old new = none := by
  unfold plainCore at h
  simp only [Bool.and_eq_true, decide_eq_true_eq] at h
  obtain ⟨h8, hlt⟩ := h
  have hout (a b : Nat) (ha : 0x400 ≤ a) : ¬ (a ≤ o && o < b) = true := by
    simp only [Bool.and_eq_true, decide_eq_true_eq]
    omega
  unfold coreDiscard
  dsimp only
  rw [if_neg h8, if_neg (hout _ _ (by decide)), if_neg, if_neg (hout _ _ (by decide)), if_neg (hout _ _ (by decide)), if_neg (hout _ _ (by decide)),
    if_neg (hout _ _ (by decide)), if_neg (by omega)]
  simp only [Bool.or_eq_true, decide_eq_true_eq]
  omega

theorem coreRule_plain {o : Nat} (h : plainCore o = true) (s : State) (sl : Nat) (new : Word) : coreRule s sl o new = (new, []) := by
  unfold plainCore at h
  simp only [Bool.and_eq_true, decide_eq_true_eq] at h
  obtain ⟨h8, hlt⟩ := h
  have hout (a b : Nat) (ha : 0x400 ≤ a) : ¬ (a ≤ o && o < b) = true := by
    simp only [Bool.and_eq_true, decide_eq_true_eq]
    omega
  unfold coreRule
  dsimp only
  rw [if_neg h8, if_neg (hout _ _ (by decide)), if_neg (by omega), if_neg (by omega), if_neg (hout _ _ (by decide)), if_neg (hout _ _ (by decide)),
    if_neg (hout _ _ (by decide)), if_neg (by omega)]

theorem hubDiscard_plain {off : Nat} (h : plainHub off = true) (s : State) (a : Agent) (old new : Word) : hubDiscard s a off old new = none := by
  obtain ⟨h510, -, hqueue, h⟩ := plainHub_parts h
  unfold hubDiscard
  unfold plainWindow at h
  dsimp only
  rw [if_neg h510]
  split at h
  · next hdie =>
    simp only [Bool.and_eq_true, Bool.not_eq_true'] at h
    obtain ⟨⟨-, h1⟩, h2⟩ := h
    rw [if_pos hdie, h1, if_neg (by decide), h2, if_neg (by decide)]
  · next hdie =>
    rw [if_neg hdie]
    split at h
    · next hwen =>
      have ho : 0x40 ≤ off - (0x200000 + (off - 0x200000) / 0x8000 * 0x8000) := by
        simp only [Bool.and_eq_true, decide_eq_true_eq] at hwen h
        omega
      rw [if_pos hwen, if_neg (by omega), if_neg]
      simp only [Bool.or_eq_true, decide_eq_true_eq]
      omega
    · next hwen =>
      simp only [Bool.and_eq_true, Bool.not_eq_true', decide_eq_true_eq] at h
      obtain ⟨⟨⟨⟨⟨⟨⟨⟨hc, hs⟩, hawl⟩, hgen⟩, hgen2⟩, hmargin⟩, hclient⟩, -⟩, -⟩ := h
      have hclient' : (decide (0x140000 ≤ off) && decide (off < 0x144100) && decide (off % 0x100 = 0)) = false := by rw [hclient, Bool.false_and]
      rw [if_neg hwen, hc, if_neg (by decide), hs, if_neg (by decide), hawl, if_neg (by decide), decide_eq_false hgen, decide_eq_false hgen2, if_neg (by decide),
        if_neg hmargin, hclient', if_neg (by decide), hqueue]

theorem hubRule_plain {off : Nat} (h : plainHub off = true) (s : State) (new : Word) : hubRule s off new = (new, []) := by
  obtain ⟨-, hcredit, hqueue, h⟩ := plainHub_parts h
  unfold hubRule
  unfold plainWindow at h
  dsimp only
  split at h
  · next hdie =>
    simp only [Bool.and_eq_true, Bool.not_eq_true'] at h
    obtain ⟨⟨h0, -⟩, h2⟩ := h
    rw [if_pos hdie, h0, if_neg (by decide), h2, Bool.false_and, if_neg (by decide)]
  · next hdie =>
    rw [if_neg hdie, hcredit, if_neg (by decide)]
    split at h
    · next hwen =>
      simp only [Bool.and_eq_true, decide_eq_true_eq] at hwen
      have hawl : (decide (0x701000 ≤ off) && decide (off < 0x713000) && decide (off % 0x1000 = 0x18)) = false := by
        simp only [Bool.and_eq_false_iff, decide_eq_false_iff_not]
        omega
      have hne : off ≠ shadowBase ∧ off ≠ siteBase 0 ∧ off ≠ siteBase 1 ∧ off ≠ memGenBase := by
        unfold shadowBase siteBase memGenBase
        omega
      obtain ⟨hs, h0, h1, hg⟩ := hne
      rw [if_neg hs, decide_eq_false h0, decide_eq_false h1, if_neg (by decide), hawl, if_neg (by decide), if_neg hg, hqueue]
    · next hwen =>
      simp only [Bool.and_eq_true, Bool.not_eq_true', decide_eq_true_eq] at h
      obtain ⟨⟨⟨⟨⟨⟨⟨⟨-, hs⟩, hawl⟩, hgen⟩, -⟩, -⟩, -⟩, h0⟩, h1⟩ := h
      have hshadow : off ≠ shadowBase := by
        rintro rfl
        exact absurd hs (by decide)
      rw [if_neg hshadow, decide_eq_false h0, decide_eq_false h1, if_neg (by decide), hawl, Bool.false_and, if_neg (by decide), if_neg hgen, hqueue]

theorem discards_plain {off : Nat} (h : plainOff off = true) (s : State) (a : Agent) (old new : Word) : discards s a off old new = none := by
  unfold plainOff at h
  unfold discards
  cases hcore : coreAt off with
  | some r =>
    rw [hcore] at h
    exact coreDiscard_plain h ..
  | none =>
    rw [hcore] at h
    exact hubDiscard_plain h ..

theorem crossRule_plain {off : Nat} (h : plainOff off = true) (s : State) (new : Word) : crossRule s off new = (new, []) := by
  unfold plainOff at h
  unfold crossRule
  cases hcore : coreAt off with
  | some r =>
    rw [hcore] at h
    exact coreRule_plain h ..
  | none =>
    rw [hcore] at h
    exact hubRule_plain h ..

/-! ### Registers that a write does not change of itself -/

/-- No field takes what is written. -/
def noRw (fs : List Field) : Bool := (withGaps 0 fs).all (fun f => f.acc ≠ .rw)

/-- What a write of `v` reports of the fields. -/
def reported (fs : List Field) (v : Word) : List Rep := (withGaps 0 fs).flatMap (fieldReport v)

theorem applyFields_noRw {fs : List Field} (h : noRw fs = true) (old v : Word) : applyFields (withGaps 0 fs) old v = (old, reported fs v) := by
  unfold noRw at h
  rw [applyFields_eq]
  refine Prod.ext ?_ rfl
  refine List.foldlRecOn _ _ (motive := fun x => x = old) rfl fun x hx f hf => ?_
  have hacc : f.acc ≠ .rw := by simpa using List.all_eq_true.mp h f hf
  unfold fieldValue
  rw [if_neg hacc, hx]

/-- The register as it is, free of halves that wait. -/
def regOpen (s : State) (off : Nat) : State := (unhold (dropLatch s off) off).wr off (s.rd off)

theorem regOpen_rd (s : State) (off r : Nat) : (regOpen s off).rd r = s.rd r := by
  unfold regOpen
  by_cases h : r = off
  · rw [h, State.rd_wr_same]
  · rw [State.rd_wr_other _ _ _ _ h]
    rfl

theorem regOpen_f (s : State) (off r l w : Nat) : (regOpen s off).f r l w = s.f r l w := by
  unfold State.f
  rw [regOpen_rd]

theorem regOpen_fb (s : State) (off r l : Nat) : (regOpen s off).fb r l = s.fb r l := by
  unfold State.fb
  rw [regOpen_f]

theorem regOpen_mem (s : State) (off : Nat) : (regOpen s off).mem = s.mem := rfl
theorem regOpen_cores (s : State) (off : Nat) : (regOpen s off).cores = s.cores := rfl

/-- Such a register, which no rule names, stays as it is, and what follows its write follows. -/
theorem regWrite_kept {off : Nat} {fs : List Field} {a : Agent} (hreach : Reached s a off) (hplain : plainOff off = true)
    (hfs : regFields off = some fs) (hkept : noRw fs = true) (v : Word) :
    regWrite s a off v = writeHook (reportAll (regOpen s off) a off (mergeReps (reported fs v))) a off (s.rd off) v := by
  rw [regWrite_reached _ hreach, putReg_reached _ hreach hfs, discards_plain hplain]
  dsimp only
  unfold written andThen
  rw [applyFields_noRw hkept]
  dsimp only
  rw [crossRule_plain hplain]
  dsimp only
  rw [List.append_nil]
  rfl

/-! ### The facts of every block -/

/-- The registers of a fault set that are written have no field that takes what is written, and an acknowledgement meets no reserved bit. -/
def fltKept (b : Nat) : Bool :=
  match regFields b, regFields (b + 8) with
  | some fs, some gs => noRw fs && noRw gs && (reported gs (BitVec.ofNat 64 (2 ^ 24))).isEmpty
  | _, _ => false

/-- Where a block's fault set stands. -/
def blockFacts (cls inst : Nat) : Bool :=
  fltBase cls inst % 256 = 0 && 0x400 ≤ fltBase cls inst && plainOff (fltBase cls inst) && plainOff (fltBase cls inst + 8) &&
    fltKept (fltBase cls inst) && (upto 8).all (fun r => rRing r 8 ≠ fltBase cls inst)

theorem blockFacts_all : ∀ cls, cls < 15 → ∀ inst, inst < 512 → isBlock cls inst = true → blockFacts cls inst = true := by decide +kernel

/-- What is known of a block's fault set. -/
structure FltAt (cls inst : Nat) : Prop where
  page : fltBase cls inst % 256 = 0
  low : 0x400 ≤ fltBase cls inst
  at_ : fltBlockAt (fltBase cls inst) = some (cls, inst)
  status : plainOff (fltBase cls inst) = true
  first : plainOff (fltBase cls inst + 8) = true
  kept : fltKept (fltBase cls inst) = true
  ring : ∀ r, r < 8 → rRing r 8 ≠ fltBase cls inst

theorem fltAt_of_isBlock {cls inst : Nat} (h : isBlock cls inst = true) : FltAt cls inst := by
  obtain ⟨hcls, hinst⟩ := isBlock_bounds h
  have hfacts := blockFacts_all cls (by omega) inst hinst h
  unfold blockFacts at hfacts
  unfold isBlock at h
  simp only [Bool.and_eq_true, decide_eq_true_eq] at hfacts h
  obtain ⟨⟨⟨⟨⟨hpage, hlow⟩, hstatus⟩, hfirst⟩, hkept⟩, hring⟩ := hfacts
  exact ⟨hpage, hlow, h.2, hstatus, hfirst, hkept, fun r hr => by simpa using List.all_eq_true.mp hring r (mem_upto hr)⟩

/-- A write of a block's status or latch, once reached, sets going what the fault set does. -/
theorem writeHook_flt {cls inst o : Nat} (h : FltAt cls inst) (ho : o < 0x50) (s : State) (a : Agent) (old v : Word) :
    writeHook s a (fltBase cls inst + o) old v = fltHook s cls inst o v := by
  have hpage := h.page
  have hbase : (fltBase cls inst + o) / 256 * 256 = fltBase cls inst := by omega
  have hoff : (fltBase cls inst + o) % 256 = o := by omega
  unfold writeHook
  rw [hbase, h.at_]
  dsimp only
  rw [hoff, if_pos ho]

theorem regWrite_fltFirst {cls inst : Nat} (h : FltAt cls inst) {a : Agent} (hreach : Reached s a (fltBase cls inst + 8)) :
    regWrite s a (fltBase cls inst + 8) (BitVec.ofNat 64 (2 ^ 24)) = ackFault (regOpen s (fltBase cls inst + 8)) cls inst := by
  have hkept := h.kept
  unfold fltKept at hkept
  split at hkept
  · next fs gs hfs hgs =>
    simp only [Bool.and_eq_true, List.isEmpty_iff] at hkept
    obtain ⟨⟨-, hrw⟩, hquiet⟩ := hkept
    rw [regWrite_kept hreach h.first hgs hrw, hquiet, writeHook_flt h (by decide)]
    rfl
  · cases hkept

theorem regWrite_fltStatus {cls inst : Nat} (h : FltAt cls inst) {a : Agent} (hreach : Reached s a (fltBase cls inst)) (v : Word) :
    ∃ rs, regWrite s a (fltBase cls inst) v = clearStatus (reportAll (regOpen s (fltBase cls inst)) a (fltBase cls inst) rs) cls inst (fld v 0 32) := by
  have hkept := h.kept
  unfold fltKept at hkept
  split at hkept
  · next fs gs hfs hgs =>
    simp only [Bool.and_eq_true] at hkept
    obtain ⟨⟨hrw, -⟩, -⟩ := hkept
    refine ⟨_, (regWrite_kept hreach h.status hfs hrw v).trans (writeHook_flt h (o := 0) (by decide) ..)⟩
  · cases hkept

end Sys2Proof.Machine
end

section
/-! ## Raised sources, acknowledgements and clears (R359-R363, R365) -/

namespace Sys2Proof.Machine

variable {s t u : State}

/-! ### What signals leave -/

/-- A step that sends signals at most. -/
structure SignalFrame (s t : State) : Prop where
  regs : t.regs = s.regs
  mem : t.mem = s.mem
  cores : t.cores = s.cores
  raises : t.raises = s.raises
  now : t.now = s.now

namespace SignalFrame

theorem refl (s : State) : SignalFrame s s := ⟨rfl, rfl, rfl, rfl, rfl⟩

theorem trans (h : SignalFrame s t) (g : SignalFrame t u) : SignalFrame s u :=
  ⟨g.regs.trans h.regs, g.mem.trans h.mem, g.cores.trans h.cores, g.raises.trans h.raises, g.now.trans h.now⟩

theorem emit (s : State) (g : Signal) : SignalFrame s (s.emit g) := ⟨rfl, rfl, rfl, rfl, rfl⟩

theorem errChange {f : State → State} (h : SignalFrame s (f s)) : SignalFrame s (errChange s f) := by
  obtain he | ⟨b, he⟩ := errChange_shape s f
  · rw [he]
    exact h
  · rw [he]
    exact h.trans (emit ..)

theorem sendMsix (s : State) (f v : Nat) : SignalFrame s (s.sendMsix f v) := by
  unfold State.sendMsix
  split_ifs <;> exact ⟨rfl, rfl, rfl, rfl, rfl⟩

theorem hostNote (s : State) (cls inst i : Nat) : SignalFrame s (hostNote s cls inst i) := by
  unfold Machine.hostNote
  split
  · exact sendMsix ..
  · exact refl s

theorem setHart (s : State) (o : Nat) (h : NmiHart) : SignalFrame s (s.setHart o h) := ⟨rfl, rfl, rfl, rfl, rfl⟩

theorem takeNmi (s : State) (o cls inst : Nat) : SignalFrame s (takeNmi s o cls inst) := ⟨rfl, rfl, rfl, rfl, rfl⟩

theorem ackNmi (s : State) (o cls inst : Nat) : SignalFrame s (ackNmi s o cls inst) := by
  unfold Machine.ackNmi
  split
  · exact refl s
  · dsimp only
    split
    · exact setHart ..
    · exact ((setHart ..).trans (setHart ..)).trans (takeNmi ..)

/-- The reactions NONE and INTERRUPT send a signal at most. -/
theorem react (s : State) {r : Nat} (hr : r ≤ 1) (cls inst i : Nat) : SignalFrame s (react s cls inst i r) := by
  interval_cases r
  · exact refl s
  · exact emit ..

theorem rd (h : SignalFrame s t) (o : Nat) : t.rd o = s.rd o := rd_of_regs h.regs o
theorem f (h : SignalFrame s t) (o l w : Nat) : t.f o l w = s.f o l w := f_regs h.regs o l w
theorem fb (h : SignalFrame s t) (o l : Nat) : t.fb o l = s.fb o l := fb_regs h.regs o l

end SignalFrame

/-! ### The status bit, and ERR_N -/

/-- ERR_N is asserted for a source. -/
def errNoted (s : State) (cls inst i : Nat) : State :=
  if fltErr s cls inst i then errChange s (fun s => { s with errBits := insertNat s.errBits (errKey cls inst i) }) else s

theorem errNoted_frame (s : State) (cls inst i : Nat) : SignalFrame s (errNoted s cls inst i) := by
  unfold errNoted
  split
  · exact .errChange ⟨rfl, rfl, rfl, rfl, rfl⟩
  · exact .refl s

theorem errNoted_bits {cls inst i : Nat} (h : fltErr s cls inst i = true) : errKey cls inst i ∈ (errNoted s cls inst i).errBits := by
  have hmem : errKey cls inst i ∈ insertNat s.errBits (errKey cls inst i) := mem_insertNat.mpr (.inl rfl)
  unfold errNoted
  rw [if_pos h]
  obtain he | ⟨b, he⟩ := errChange_shape s (fun s => { s with errBits := insertNat s.errBits (errKey cls inst i) })
  · rw [he]
    exact hmem
  · rw [he]
    exact hmem

/-- A source is marked: its status bit, ERR_N, and the LINK record of a link. -/
def marked (s : State) (cls inst i synd : Nat) : State :=
  let s := errNoted (s.setB (fltBase cls inst) i true) cls inst i
  if cls = 3 || cls = 7 then glintLink s cls inst i synd else s

/-- The coordinates of a trapped element. -/
def coordNoted (s : State) (cls inst i : Nat) (coord : List Nat) : State :=
  if cls = 0 && i = 0 then
    ((s.setF (slotBase inst + 0x208) 0 64 (nth 0 coord 0 + 2 ^ 32 * nth 0 coord 1)).setF (slotBase inst + 0x210) 0 64
      (nth 0 coord 2 + 2 ^ 32 * nth 0 coord 3)).setF (slotBase inst + 0x218) 0 64 (nth 0 coord 4)
  else s

/-- The trigger is counted as lost. -/
def lostCounted (s : State) (cls inst : Nat) : State :=
  (s.setB (fltBase cls inst + 0x20) 0 true).satF (fltBase cls inst + 0x20) 16 16 1

/-- A latch in use leaves the source pending, or lets its reset react. -/
def stillReact (s : State) (cls inst i r : Nat) : State :=
  if r = 1 || r = 2 then s.setB (fltBase cls inst) (32 + i) true
  else if r = 3 || r = 4 then react s cls inst i r
  else s

theorem raiseSource_eq (s : State) (cls inst i synd : Nat) (coord : List Nat) : raiseSource s cls inst i synd coord =
    if !fltValid (marked s cls inst i synd) cls inst then
      latchFault (coordNoted (marked s cls inst i synd) cls inst i coord) cls inst i synd false
    else stillReact (lostCounted (marked s cls inst i synd) cls inst) cls inst i
      (fltReact (lostCounted (marked s cls inst i synd) cls inst) cls inst i) := by
  unfold raiseSource marked errNoted coordNoted lostCounted stillReact
  rfl

/-- Where no ring takes LINK records, or the block is no link, marking writes the status bit and sends signals. -/
theorem marked_frame {cls inst : Nat} (hat : FltAt cls inst) (i synd : Nat)
    (hring : cls = 3 ∨ cls = 7 → ∀ g, g < 8 → ringTakes s g 1 none = false) :
    SignalFrame (s.setB (fltBase cls inst) i true) (marked s cls inst i synd) ∧
      (fltErr s cls inst i = true → errKey cls inst i ∈ (marked s cls inst i synd).errBits) := by
  have herr := errNoted_frame (s.setB (fltBase cls inst) i true) cls inst i
  have hkeep : fltErr (s.setB (fltBase cls inst) i true) cls inst i = fltErr s cls inst i := by
    unfold fltErr
    rw [State.fb_setB_other]
    omega
  have hmarked : marked s cls inst i synd = errNoted (s.setB (fltBase cls inst) i true) cls inst i := by
    unfold marked
    dsimp only
    split
    · next hlink =>
      refine glint_silent (fun g hg => ?_) _
      rw [ringTakes_congr ((herr.rd _).trans (State.rd_setB_other _ _ _ _ _ (hat.ring g hg)))]
      exact hring (by simpa using hlink) g hg
    · rfl
  rw [hmarked]
  exact ⟨herr, fun h => errNoted_bits (hkeep.trans h)⟩

/-! ### The latch -/

/-- FLT_FIRST of a latched source. -/
def latchWord (s : State) (cls inst i : Nat) (replayed : Bool) : Nat :=
  packBits [(i, 0, 5), (blockId cls inst, 8, 16), (1, 24, 1), (fltReact s cls inst i, 25, 3), (b2n (fltErr s cls inst i), 28, 1), (b2n replayed, 29, 1)]

/-- The latch is filled, and PF0 is told. -/
def latched (s : State) (cls inst i synd : Nat) (replayed : Bool) : State :=
  hostNote (((s.wr (fltBase cls inst + 0x10) (BitVec.ofNat 64 s.now)).wr (fltBase cls inst + 0x18) (BitVec.ofNat 64 synd)).wr (fltBase cls inst + 8)
    (BitVec.ofNat 64 (latchWord s cls inst i replayed))) cls inst i

theorem latchFault_eq (s : State) (cls inst i synd : Nat) (replayed : Bool) :
    latchFault s cls inst i synd replayed = react (latched s cls inst i synd replayed) cls inst i (fltReact s cls inst i) := rfl

theorem fltReact_lt (s : State) (cls inst i : Nat) : fltReact s cls inst i < 8 := fld_lt ..

/-- The fields of FLT_FIRST. -/
theorem latchWord_fields (s : State) (cls inst i : Nat) (replayed : Bool) (hi : i < 32) :
    fld (BitVec.ofNat 64 (latchWord s cls inst i replayed)) 0 5 = i ∧
    fld (BitVec.ofNat 64 (latchWord s cls inst i replayed)) 8 16 = blockId cls inst % 65536 ∧
    fld (BitVec.ofNat 64 (latchWord s cls inst i replayed)) 24 1 = 1 ∧
    fld (BitVec.ofNat 64 (latchWord s cls inst i replayed)) 25 3 = fltReact s cls inst i ∧
    fld (BitVec.ofNat 64 (latchWord s cls inst i replayed)) 29 1 = b2n replayed := by
  have hr := fltReact_lt s cls inst i
  have hrep : b2n replayed < 2 := by cases replayed <;> decide
  have hword : latchWord s cls inst i replayed = packBits [(i, 0, 5), (blockId cls inst % 65536, 8, 16), (1, 24, 1), (fltReact s cls inst i, 25, 3),
      (b2n (fltErr s cls inst i), 28, 1), (b2n replayed, 29, 1)] := by
    unfold latchWord packBits
    simp only [List.map_cons, List.map_nil, show (65536 : Nat) = 2 ^ 16 from rfl, Nat.mod_mod]
  have hpk : Packable [(i, 0, 5), (blockId cls inst % 65536, 8, 16), (1, 24, 1), (fltReact s cls inst i, 25, 3),
      (b2n (fltErr s cls inst i), 28, 1), (b2n replayed, 29, 1)] := by
    unfold Packable
    simp
  have hblock : blockId cls inst % 65536 < 2 ^ 16 := Nat.mod_lt _ (by decide)
  rw [hword]
  exact ⟨fld_packBits hpk (by simp) (by decide) hi, fld_packBits hpk (by simp) (by decide) hblock, fld_packBits hpk (by simp) (by decide) (by decide),
    fld_packBits hpk (by simp) (by decide) hr, fld_packBits hpk (by simp) (by decide) hrep⟩

theorem latched_rd (s : State) (cls inst i synd : Nat) (replayed : Bool) (o : Nat) : (latched s cls inst i synd replayed).rd o =
    if o = fltBase cls inst + 8 then BitVec.ofNat 64 (latchWord s cls inst i replayed)
    else if o = fltBase cls inst + 0x18 then BitVec.ofNat 64 synd
    else if o = fltBase cls inst + 0x10 then BitVec.ofNat 64 s.now else s.rd o := by
  unfold latched
  rw [(SignalFrame.hostNote _ cls inst i).rd]
  by_cases h8 : o = fltBase cls inst + 8
  · rw [if_pos h8, h8, State.rd_wr_same]
  · rw [if_neg h8, State.rd_wr_other _ _ _ _ h8]
    by_cases h18 : o = fltBase cls inst + 0x18
    · rw [if_pos h18, h18, State.rd_wr_same]
    · rw [if_neg h18, State.rd_wr_other _ _ _ _ h18]
      by_cases h10 : o = fltBase cls inst + 0x10
      · rw [if_pos h10, h10, State.rd_wr_same]
      · rw [if_neg h10, State.rd_wr_other _ _ _ _ h10]

theorem latched_first (s : State) (cls inst i synd : Nat) (replayed : Bool) (l w : Nat) :
    (latched s cls inst i synd replayed).f (fltBase cls inst + 8) l w = fld (BitVec.ofNat 64 (latchWord s cls inst i replayed)) l w := by
  rw [State.f, latched_rd, if_pos rfl]

theorem latched_other {o cls inst : Nat} (h : o ∉ [fltBase cls inst + 8, fltBase cls inst + 0x10, fltBase cls inst + 0x18]) (s : State)
    (i synd : Nat) (replayed : Bool) : (latched s cls inst i synd replayed).rd o = s.rd o := by
  simp only [List.mem_cons, List.not_mem_nil, or_false, not_or] at h
  rw [latched_rd, if_neg h.1, if_neg h.2.2, if_neg h.2.1]

theorem latched_frame (s : State) (cls inst i synd : Nat) (replayed : Bool) :
    (latched s cls inst i synd replayed).mem = s.mem ∧ (latched s cls inst i synd replayed).cores = s.cores ∧
      (latched s cls inst i synd replayed).raises = s.raises := by
  have h := SignalFrame.hostNote (((s.wr (fltBase cls inst + 0x10) (BitVec.ofNat 64 s.now)).wr (fltBase cls inst + 0x18) (BitVec.ofNat 64 synd)).wr
    (fltBase cls inst + 8) (BitVec.ofNat 64 (latchWord s cls inst i replayed))) cls inst i
  refine ⟨h.mem.trans ?_, h.cores.trans ?_, h.raises.trans ?_⟩
  · rw [State.wr_mem, State.wr_mem, State.wr_mem]
  · rw [State.wr_cores, State.wr_cores, State.wr_cores]
  · rw [State.wr_raises, State.wr_raises, State.wr_raises]

end Sys2Proof.Machine
end

section
/-! ## The fault latches (R359-R363, R365) -/

namespace Sys2Proof.Machine

variable {s t u : State}

/-! ### A trigger reaches its fault set -/

/-- The trigger is no longer waiting. -/
def triggered (s : State) (r : Raise) : State := { s with raises := s.raises.erase r }

theorem triggered_rd (s : State) (r : Raise) (o : Nat) : (triggered s r).rd o = s.rd o := rfl
theorem triggered_mem (s : State) (r : Raise) : (triggered s r).mem = s.mem := rfl
theorem triggered_cores (s : State) (r : Raise) : (triggered s r).cores = s.cores := rfl
theorem triggered_raises (s : State) (r : Raise) : (triggered s r).raises = s.raises.erase r := rfl
theorem triggered_now (s : State) (r : Raise) : (triggered s r).now = s.now := rfl
theorem triggered_outbox (s : State) (r : Raise) : (triggered s r).outbox = s.outbox := rfl
theorem triggered_takes (s : State) (r : Raise) (g b : Nat) (c : Option Nat) : ringTakes (triggered s r) g b c = ringTakes s g b c := rfl
theorem triggered_err (s : State) (r : Raise) (cls inst i : Nat) : fltErr (triggered s r) cls inst i = fltErr s cls inst i := rfl

theorem faultRaise_eq {cls inst : Nat} {r : Raise} (h : nextRaise s cls inst = some r) :
    exec (.faultRaise cls inst none) s = .next (ended s (raiseSource (triggered s r) cls inst r.idx r.synd r.coord)) := by
  show execFaultRaise cls inst none s = _
  rw [execFaultRaise, h, done_eq]
  rfl

/-- The registers of a fault set that latching writes, and the coordinates of class 0. -/
def coordRegs (cls inst : Nat) : List Nat := if cls = 0 then [slotBase inst + 0x208, slotBase inst + 0x210, slotBase inst + 0x218] else []

theorem coordNoted_rd {o cls inst : Nat} (h : o ∉ coordRegs cls inst) (s : State) (i : Nat) (coord : List Nat) :
    (coordNoted s cls inst i coord).rd o = s.rd o := by
  unfold coordNoted
  split
  · next hc =>
    simp only [Bool.and_eq_true, decide_eq_true_eq] at hc
    rw [coordRegs, if_pos hc.1] at h
    simp only [List.mem_cons, List.not_mem_nil, or_false, not_or] at h
    rw [State.rd_setF_other _ _ _ _ _ _ h.2.2, State.rd_setF_other _ _ _ _ _ _ h.2.1, State.rd_setF_other _ _ _ _ _ _ h.1]
  · rfl

theorem coordNoted_frame (s : State) (cls inst i : Nat) (coord : List Nat) :
    (coordNoted s cls inst i coord).mem = s.mem ∧ (coordNoted s cls inst i coord).cores = s.cores ∧
      (coordNoted s cls inst i coord).raises = s.raises ∧ (coordNoted s cls inst i coord).now = s.now ∧
      (coordNoted s cls inst i coord).errBits = s.errBits := by
  unfold coordNoted
  split
  · simp
  · exact ⟨rfl, rfl, rfl, rfl, rfl⟩

/-- The registers of a block's own fault set are none of its coordinates. -/
theorem notMem_coordRegs {cls inst o : Nat} (h : o < 0x100) : fltBase cls inst + o ∉ coordRegs cls inst := by
  unfold coordRegs
  split
  · next hc =>
    subst hc
    show slotBase inst + 0x100 + o ∉ _
    simp only [List.mem_cons, List.not_mem_nil, or_false]
    omega
  · simp

/-- A source is marked, and its coordinates are noted. -/
def sourced (s : State) (cls inst i synd : Nat) (coord : List Nat) : State := coordNoted (marked s cls inst i synd) cls inst i coord

section Marked

variable {cls inst i synd : Nat} {coord : List Nat} (hat : FltAt cls inst)
  (hring : cls = 3 ∨ cls = 7 → ∀ g, g < 8 → ringTakes s g 1 none = false)

include hat hring

theorem marked_other {o : Nat} (ho : o ≠ fltBase cls inst) : (marked s cls inst i synd).rd o = s.rd o := by
  rw [(marked_frame hat i synd hring).1.rd, State.rd_setB_other _ _ _ _ _ ho]

theorem sourced_other {o : Nat} (ho : o ≠ fltBase cls inst) (hc : o ∉ coordRegs cls inst) :
    (sourced s cls inst i synd coord).rd o = s.rd o := by
  rw [sourced, coordNoted_rd hc, marked_other hat hring ho]

theorem sourced_status : (sourced s cls inst i synd coord).rd (fltBase cls inst) = (s.setB (fltBase cls inst) i true).rd (fltBase cls inst) := by
  have hstatus : fltBase cls inst ∉ coordRegs cls inst := notMem_coordRegs (o := 0) (by decide)
  rw [sourced, coordNoted_rd hstatus, (marked_frame hat i synd hring).1.rd]

theorem marked_valid : fltValid (marked s cls inst i synd) cls inst = fltValid s cls inst := by
  unfold fltValid State.fb State.f
  rw [marked_other hat hring (by omega)]

theorem sourced_react (hi : i < 32) : fltReact (sourced s cls inst i synd coord) cls inst i = fltReact s cls inst i := by
  have hcoord : fltBase cls inst + 0x30 + 8 * (i / 8) ∉ coordRegs cls inst := by
    rw [Nat.add_assoc]
    exact notMem_coordRegs (by omega)
  unfold fltReact State.f
  rw [sourced_other hat hring (by omega) hcoord]

theorem sourced_frame : (sourced s cls inst i synd coord).mem = s.mem ∧ (sourced s cls inst i synd coord).cores = s.cores ∧
    (sourced s cls inst i synd coord).raises = s.raises ∧ (sourced s cls inst i synd coord).now = s.now ∧
    (fltErr s cls inst i = true → errKey cls inst i ∈ (sourced s cls inst i synd coord).errBits) := by
  obtain ⟨hmem, hcores, hraises, hnow, herr⟩ := coordNoted_frame (marked s cls inst i synd) cls inst i coord
  obtain ⟨hframe, hbits⟩ := marked_frame hat i synd hring
  exact ⟨hmem.trans (hframe.mem.trans (State.setB_mem ..)), hcores.trans (hframe.cores.trans (State.setB_cores ..)),
    hraises.trans (hframe.raises.trans (State.setB_raises ..)), hnow.trans (hframe.now.trans (State.setB_now ..)), fun h => herr ▸ hbits h⟩

end Marked

theorem hostNote_errBits (s : State) (cls inst i : Nat) : (hostNote s cls inst i).errBits = s.errBits := by
  unfold hostNote State.sendMsix
  split_ifs <;> rfl

theorem latched_errBits (s : State) (cls inst i synd : Nat) (replayed : Bool) : (latched s cls inst i synd replayed).errBits = s.errBits := by
  rw [latched, hostNote_errBits, State.wr_errBits, State.wr_errBits, State.wr_errBits]

/-- What is latched of a trigger that finds the latch empty. -/
structure Latched (s u : State) (cls inst : Nat) (r : Raise) : Prop where
  status : u.fb (fltBase cls inst) r.idx = true
  valid : fltValid u cls inst = true
  source : u.f (fltBase cls inst + 8) 0 5 = r.idx
  block : u.f (fltBase cls inst + 8) 8 16 = blockId cls inst % 65536
  reaction : u.f (fltBase cls inst + 8) 25 3 = fltReact s cls inst r.idx
  fresh : u.fb (fltBase cls inst + 8) 29 = false
  time : u.rd (fltBase cls inst + 0x10) = BitVec.ofNat 64 s.now
  synd : u.rd (fltBase cls inst + 0x18) = BitVec.ofNat 64 r.synd
  raises : u.raises = s.raises.erase r
  err : fltErr s cls inst r.idx = true → errKey cls inst r.idx ∈ u.errBits
  regs : SameRegs ([fltBase cls inst, fltBase cls inst + 8, fltBase cls inst + 0x10, fltBase cls inst + 0x18] ++ coordRegs cls inst) s u
  mem : u.mem = s.mem
  cores : u.cores = s.cores

/-- The state in which a trigger has been latched. -/
def latchedOf (s : State) (cls inst : Nat) (r : Raise) : State :=
  latched (sourced (triggered s r) cls inst r.idx r.synd r.coord) cls inst r.idx r.synd false

theorem latchedOf_latched {cls inst : Nat} {r : Raise} (hat : FltAt cls inst) (hi : r.idx < 32)
    (hring : cls = 3 ∨ cls = 7 → ∀ g, g < 8 → ringTakes s g 1 none = false) : Latched s (latchedOf s cls inst r) cls inst r := by
  have hring' : cls = 3 ∨ cls = 7 → ∀ g, g < 8 → ringTakes (triggered s r) g 1 none = false := hring
  obtain ⟨hmem, hcores, hraises, hnow, herr⟩ := sourced_frame (i := r.idx) (synd := r.synd) (coord := r.coord) hat hring'
  obtain ⟨lmem, lcores, lraises⟩ := latched_frame (sourced (triggered s r) cls inst r.idx r.synd r.coord) cls inst r.idx r.synd false
  obtain ⟨f0, f8, f24, f25, f29⟩ := latchWord_fields (sourced (triggered s r) cls inst r.idx r.synd r.coord) cls inst r.idx false hi
  have hreact : fltReact (sourced (triggered s r) cls inst r.idx r.synd r.coord) cls inst r.idx = fltReact s cls inst r.idx :=
    sourced_react hat hring' hi
  constructor
  case status =>
    rw [State.fb, State.f, latchedOf, latched_other (by simp), sourced_status hat hring', ← State.f, ← State.fb, State.fb_setB_same _ _ _ _ (by omega)]
  case valid =>
    rw [fltValid, State.fb, latchedOf, latched_first, f24]
    rfl
  case source => rw [latchedOf, latched_first, f0]
  case block => rw [latchedOf, latched_first, f8]
  case reaction => rw [latchedOf, latched_first, f25, hreact]
  case fresh =>
    rw [State.fb, latchedOf, latched_first, f29]
    rfl
  case time => rw [latchedOf, latched_rd, if_neg (by omega), if_neg (by omega), if_pos rfl, hnow, triggered_now]
  case synd => rw [latchedOf, latched_rd, if_neg (by omega), if_pos rfl]
  case raises => rw [latchedOf, lraises, hraises, triggered_raises]
  case err =>
    intro h
    rw [latchedOf, latched_errBits]
    exact herr ((triggered_err ..).trans h)
  case regs =>
    intro o ho
    simp only [List.mem_append, List.mem_cons, List.not_mem_nil, or_false, not_or] at ho
    obtain ⟨⟨h0, h8, h10, h18⟩, hc⟩ := ho
    rw [latchedOf, latched_other (by simp [h8, h10, h18]), sourced_other hat hring' h0 hc, triggered_rd]
  case mem => rw [latchedOf, lmem, hmem, triggered_mem]
  case cores => rw [latchedOf, lcores, hcores, triggered_cores]

theorem faultRaise_latches {cls inst : Nat} {r : Raise} (hat : FltAt cls inst) (hnext : nextRaise s cls inst = some r) (hi : r.idx < 32)
    (hvalid : fltValid s cls inst = false) (hring : cls = 3 ∨ cls = 7 → ∀ g, g < 8 → ringTakes s g 1 none = false) :
    exec (.faultRaise cls inst none) s = .next (ended s (react (latchedOf s cls inst r) cls inst r.idx (fltReact s cls inst r.idx))) := by
  have hring' : cls = 3 ∨ cls = 7 → ∀ g, g < 8 → ringTakes (triggered s r) g 1 none = false := hring
  have hvalid' : fltValid (marked (triggered s r) cls inst r.idx r.synd) cls inst = false := (marked_valid hat hring').trans hvalid
  have hreact : fltReact (sourced (triggered s r) cls inst r.idx r.synd r.coord) cls inst r.idx = fltReact s cls inst r.idx :=
    sourced_react hat hring' hi
  rw [faultRaise_eq hnext, raiseSource_eq, hvalid', Bool.not_false, if_pos rfl, latchFault_eq]
  change Host.Outcome.next (ended s (react (latchedOf s cls inst r) cls inst r.idx
    (fltReact (sourced (triggered s r) cls inst r.idx r.synd r.coord) cls inst r.idx))) = _
  rw [hreact]

/-! ### A trigger without reaction, or with an interrupt -/

theorem errNoted_quiet {cls inst i : Nat} (h : fltErr s cls inst i = false) : errNoted s cls inst i = s := by
  unfold errNoted
  rw [h, if_neg (by decide)]

theorem marked_quiet {cls inst i : Nat} (h3 : cls ≠ 3) (h7 : cls ≠ 7) (herr : fltErr s cls inst i = false) (synd : Nat) :
    marked s cls inst i synd = s.setB (fltBase cls inst) i true := by
  have hkeep : fltErr (s.setB (fltBase cls inst) i true) cls inst i = false := by
    refine Eq.trans ?_ herr
    unfold fltErr
    rw [State.fb_setB_other]
    omega
  unfold marked
  rw [errNoted_quiet hkeep, decide_eq_false h3, decide_eq_false h7]
  rfl

theorem coordNoted_outbox (s : State) (cls inst i : Nat) (coord : List Nat) : (coordNoted s cls inst i coord).outbox = s.outbox := by
  unfold coordNoted
  split
  · simp
  · rfl

theorem latched_outbox {cls inst i : Nat} (h : fltHost s cls inst i = false) (synd : Nat) (replayed : Bool) :
    (latched s cls inst i synd replayed).outbox = s.outbox := by
  have hhost : ∀ t : State, (∀ o, o ≠ fltBase cls inst + 8 → o ≠ fltBase cls inst + 0x10 → o ≠ fltBase cls inst + 0x18 → t.rd o = s.rd o) →
      (hostNote t cls inst i).outbox = t.outbox := fun t ht => by
    have hbit : fltHost t cls inst i = false := by
      refine Eq.trans ?_ h
      unfold fltHost State.fb State.f
      rw [ht _ (by omega) (by omega) (by omega)]
    unfold hostNote
    rw [hbit, Bool.false_and, if_neg (by decide)]
  rw [latched, hhost, State.wr_outbox, State.wr_outbox, State.wr_outbox]
  intro o h8 h10 h18
  rw [State.rd_wr_other _ _ _ _ h8, State.rd_wr_other _ _ _ _ h18, State.rd_wr_other _ _ _ _ h10]

theorem latchedOf_outbox {cls inst : Nat} {r : Raise} (hat : FltAt cls inst) (h3 : cls ≠ 3) (h7 : cls ≠ 7) (herr : fltErr s cls inst r.idx = false)
    (hhost : fltHost s cls inst r.idx = false) (hi : r.idx < 32) : (latchedOf s cls inst r).outbox = s.outbox := by
  have hcoord : fltBase cls inst + 0x30 + 8 * (r.idx / 8) ∉ coordRegs cls inst := by
    rw [Nat.add_assoc]
    exact notMem_coordRegs (by omega)
  have hbit : fltHost (sourced (triggered s r) cls inst r.idx r.synd r.coord) cls inst r.idx = false := by
    refine Eq.trans ?_ hhost
    unfold fltHost State.fb State.f
    rw [sourced_other (s := triggered s r) hat (fun h => absurd h (by omega)) (by omega) hcoord, triggered_rd]
  rw [latchedOf, latched_outbox hbit, sourced, coordNoted_outbox, marked_quiet h3 h7 ((triggered_err ..).trans herr), State.setB_outbox, triggered_outbox]

/-- The reactions NONE and INTERRUPT. -/
theorem react_outbox (s : State) {r : Nat} (hr : r ≤ 1) (cls inst i : Nat) :
    (react s cls inst i r).outbox = s.outbox ++ (if r = 1 then [.irq cls inst] else []) := by
  interval_cases r
  · exact (List.append_nil _).symm
  · rfl

/-! ### A trigger that finds the latch in use -/

theorem lostCounted_rd {cls inst o : Nat} (h : o ≠ fltBase cls inst + 0x20) (s : State) : (lostCounted s cls inst).rd o = s.rd o := by
  unfold lostCounted State.satF
  rw [State.rd_setF_other _ _ _ _ _ _ h, State.rd_setB_other _ _ _ _ _ h]

theorem lostCounted_frame (s : State) (cls inst : Nat) : (lostCounted s cls inst).mem = s.mem ∧ (lostCounted s cls inst).raises = s.raises ∧
    (lostCounted s cls inst).outbox = s.outbox := by
  unfold lostCounted State.satF
  simp

theorem lostCounted_count (s : State) (cls inst : Nat) : (lostCounted s cls inst).fb (fltBase cls inst + 0x20) 0 = true ∧
    (lostCounted s cls inst).f (fltBase cls inst + 0x20) 16 16 = min 65535 (s.f (fltBase cls inst + 0x20) 16 16 + 1) := by
  have hlt : min 65535 (s.f (fltBase cls inst + 0x20) 16 16 + 1) < 2 ^ 16 := by omega
  unfold lostCounted State.satF satAdd
  constructor
  · rw [State.fb_setF_apart _ _ _ _ _ _ (by decide) (by decide), State.fb_setB_same _ _ _ _ (by decide)]
  · rw [State.f_setF_same _ _ _ _ _ (by decide), State.f_setB_apart _ _ _ _ _ _ (by decide) (by decide)]
    exact Nat.mod_eq_of_lt hlt

/-- What stays of a source that awaits the latch. -/
theorem stillReact_low {r : Nat} (hr : r ≤ 2) (s : State) (cls inst i : Nat) :
    stillReact s cls inst i r = if r = 0 then s else s.setB (fltBase cls inst) (32 + i) true := by
  unfold stillReact
  interval_cases r <;> rfl

theorem faultRaise_counts {cls inst : Nat} {r : Raise} (hat : FltAt cls inst) (hnext : nextRaise s cls inst = some r)
    (h3 : cls ≠ 3) (h7 : cls ≠ 7) (hvalid : fltValid s cls inst = true) (hreact : fltReact s cls inst r.idx ≤ 2)
    (herr : fltErr s cls inst r.idx = false) : exec (.faultRaise cls inst none) s = .next (ended s
      (if fltReact s cls inst r.idx = 0 then lostCounted ((triggered s r).setB (fltBase cls inst) r.idx true) cls inst
        else (lostCounted ((triggered s r).setB (fltBase cls inst) r.idx true) cls inst).setB (fltBase cls inst) (32 + r.idx) true)) := by
  have hring' : cls = 3 ∨ cls = 7 → ∀ g, g < 8 → ringTakes (triggered s r) g 1 none = false := fun h => absurd h (by omega)
  have hvalid' : fltValid (marked (triggered s r) cls inst r.idx r.synd) cls inst = true := (marked_valid hat hring').trans hvalid
  have hr : fltReact (lostCounted ((triggered s r).setB (fltBase cls inst) r.idx true) cls inst) cls inst r.idx = fltReact s cls inst r.idx := by
    unfold fltReact State.f
    rw [lostCounted_rd (by omega), State.rd_setB_other _ _ _ _ _ (by omega), triggered_rd]
  rw [faultRaise_eq hnext, raiseSource_eq, hvalid', Bool.not_true, if_neg (by decide), marked_quiet h3 h7 ((triggered_err ..).trans herr), hr,
    stillReact_low hreact]

theorem faultRaise_pending (s : State) (cls inst : Nat) (r : Raise) (hblock : isBlock cls inst = true) (hnext : nextRaise s cls inst = some r)
    (hi : r.idx < 32) (h3 : cls ≠ 3) (h7 : cls ≠ 7) (hvalid : fltValid s cls inst = true) (hreact : fltReact s cls inst r.idx ≤ 2)
    (herr : fltErr s cls inst r.idx = false) :
    ∃ t, exec (.faultRaise cls inst none) s = .next t ∧
      t.fb (fltBase cls inst) r.idx = true ∧ t.fb (fltBase cls inst + 0x20) 0 = true ∧
      t.f (fltBase cls inst + 0x20) 16 16 = min 65535 (s.f (fltBase cls inst + 0x20) 16 16 + 1) ∧
      (fltReact s cls inst r.idx ≠ 0 → t.fb (fltBase cls inst) (32 + r.idx) = true) ∧
      t.raises = s.raises.erase r ∧ t.outbox = s.outbox ∧
      SameRegs [fltBase cls inst, fltBase cls inst + 0x20] s t ∧ SameMem s t := by
  have hrow := faultRaise_counts (fltAt_of_isBlock hblock) hnext h3 h7 hvalid hreact herr
  have hcount := lostCounted_count ((triggered s r).setB (fltBase cls inst) r.idx true) cls inst
  have hframe := lostCounted_frame ((triggered s r).setB (fltBase cls inst) r.idx true) cls inst
  have hold : ((triggered s r).setB (fltBase cls inst) r.idx true).f (fltBase cls inst + 0x20) 16 16 = s.f (fltBase cls inst + 0x20) 16 16 := by
    unfold State.f
    rw [State.rd_setB_other _ _ _ _ _ (by omega), triggered_rd]
  have hbit : (lostCounted ((triggered s r).setB (fltBase cls inst) r.idx true) cls inst).fb (fltBase cls inst) r.idx = true := by
    unfold State.fb State.f
    rw [lostCounted_rd (by omega), ← State.f, ← State.fb, State.fb_setB_same _ _ _ _ (by omega)]
  have hother (o : Nat) (ho : o ∉ [fltBase cls inst, fltBase cls inst + 0x20]) :
      (lostCounted ((triggered s r).setB (fltBase cls inst) r.idx true) cls inst).rd o = s.rd o := by
    simp only [List.mem_cons, List.not_mem_nil, or_false, not_or] at ho
    rw [lostCounted_rd ho.2, State.rd_setB_other _ _ _ _ _ ho.1, triggered_rd]
  generalize lostCounted ((triggered s r).setB (fltBase cls inst) r.idx true) cls inst = u at hrow hcount hframe hbit hother
  obtain ⟨hlost, hnum⟩ := hcount
  obtain ⟨hmem, hraises, houtbox⟩ := hframe
  rw [State.setB_raises, triggered_raises] at hraises
  rw [State.setB_outbox, triggered_outbox] at houtbox
  rw [State.setB_mem, triggered_mem] at hmem
  rw [hold] at hnum
  by_cases h0 : fltReact s cls inst r.idx = 0
  · rw [if_pos h0] at hrow
    exact ⟨_, hrow, (ended_fb ..).trans hbit, (ended_fb ..).trans hlost, (ended_f ..).trans hnum, fun h => absurd h0 h, (ended_raises ..).trans hraises,
      (ended_outbox ..).trans houtbox,
      fun o ho => (ended_rd ..).trans (hother o ho), fun a => (ended_byte ..).trans (byte_mem s hmem a)⟩
  · rw [if_neg h0] at hrow
    refine ⟨_, hrow, ?_, ?_, ?_, fun _ => ?_, ?_, ?_, fun o ho => ?_, fun a => (ended_byte ..).trans (byte_mem s ?_ a)⟩
    · rw [ended_fb, State.fb_setB_apart _ _ _ _ _ (by omega) (by omega), hbit]
    · rw [ended_fb, State.fb_setB_other _ _ _ _ _ _ (by omega), hlost]
    · rw [ended_f, State.f_setB_other _ _ _ _ _ _ _ (by omega), hnum]
    · rw [ended_fb, State.fb_setB_same _ _ _ _ (by omega)]
    · rw [ended_raises, State.setB_raises, hraises]
    · rw [ended_outbox, State.setB_outbox, houtbox]
    · rw [ended_rd, State.rd_setB_other, hother o ho]
      simp only [List.mem_cons, not_or] at ho
      exact ho.1
    · rw [State.setB_mem, hmem]

end Sys2Proof.Machine
end

section
/-! ## Acknowledged latches, cleared status bits, and the obligation on the fault sets (R361, R366) -/

namespace Sys2Proof.Machine

variable {s t u : State}

/-! ### The latch is acknowledged -/

/-- The owner whose trap the acknowledged latch raised. -/
def ackOwner (s : State) (cls inst : Nat) : Nat := if cls = 3 && s.f (fltBase cls inst + 8) 0 5 = 4 then 72 else ownerOf s cls inst

/-- The supply is let go with the latch of PSU_TIMEOUT. -/
def supplyLetGo (s : State) (cls : Nat) : State :=
  if cls = 11 && psuAcked s then { s with boot := { s.boot with psuHold := false } } else s

/-- The latch is empty. -/
def emptied (s : State) (cls inst : Nat) : State :=
  ackNmi (supplyLetGo (s.setB (fltBase cls inst + 8) 24 false) cls) (ackOwner s cls inst) cls inst

theorem ackFault_eq {cls inst : Nat} (h : fltValid s cls inst = true) : ackFault s cls inst =
    match lowBit (fltPending (emptied s cls inst) cls inst) with
    | none => emptied s cls inst
    | some i => latchFault ((emptied s cls inst).setB (fltBase cls inst) (32 + i) false) cls inst i 0 true := by
  exact if_neg (by rw [h]; decide)

theorem supplyLetGo_frame (s : State) (cls : Nat) : SignalFrame s (supplyLetGo s cls) := by
  unfold supplyLetGo
  split
  · exact ⟨rfl, rfl, rfl, rfl, rfl⟩
  · exact .refl s

theorem emptied_frame (s : State) (cls inst : Nat) : SignalFrame (s.setB (fltBase cls inst + 8) 24 false) (emptied s cls inst) :=
  (supplyLetGo_frame _ cls).trans (.ackNmi ..)

theorem emptied_rd {cls inst o : Nat} (h : o ≠ fltBase cls inst + 8) (s : State) : (emptied s cls inst).rd o = s.rd o := by
  rw [(emptied_frame s cls inst).rd, State.rd_setB_other _ _ _ _ _ h]

theorem emptied_pending (s : State) (cls inst : Nat) : fltPending (emptied s cls inst) cls inst = fltPending s cls inst := by
  unfold fltPending State.f
  rw [emptied_rd (by omega)]

theorem emptied_valid (s : State) (cls inst : Nat) : fltValid (emptied s cls inst) cls inst = false := by
  rw [fltValid, (emptied_frame s cls inst).fb, State.fb_setB_same _ _ _ _ (by decide)]

theorem emptied_mem (s : State) (cls inst : Nat) : (emptied s cls inst).mem = s.mem := (emptied_frame s cls inst).mem.trans (State.setB_mem ..)
theorem emptied_cores (s : State) (cls inst : Nat) : (emptied s cls inst).cores = s.cores := (emptied_frame s cls inst).cores.trans (State.setB_cores ..)

/-- The fields of a block read in a state whose registers are the same. -/
theorem fltPending_regs {cls inst : Nat} (h : ∀ o, t.rd o = s.rd o) : fltPending t cls inst = fltPending s cls inst := by
  unfold fltPending State.f
  rw [h]

theorem fltValid_regs {cls inst : Nat} (h : ∀ o, t.rd o = s.rd o) : fltValid t cls inst = fltValid s cls inst := by
  unfold fltValid State.fb State.f
  rw [h]

theorem faultAck_eq {cls inst : Nat} (hblock : isBlock cls inst = true) (hreach : Reached s (.client 0) (fltBase cls inst + 8)) :
    exec (.faultAck (.client 0) cls inst) s = .next (ended s (ackFault (regOpen s (fltBase cls inst + 8)) cls inst)) :=
  congrArg (fun t => Host.Outcome.next (ended s t)) ((if_pos hblock).trans (regWrite_fltFirst (fltAt_of_isBlock hblock) hreach))

theorem faultAck_empties (s : State) (cls inst : Nat) (hblock : isBlock cls inst = true) (hreach : Reached s (.client 0) (fltBase cls inst + 8))
    (hvalid : fltValid s cls inst = true) (hnone : fltPending s cls inst = 0) :
    ∃ t, exec (.faultAck (.client 0) cls inst) s = .next t ∧ fltValid t cls inst = false ∧ SameRegs [fltBase cls inst + 8] s t ∧
      SameMem s t ∧ SameCores [] s t := by
  have hrow := faultAck_eq hblock hreach
  have hopen (o : Nat) := regOpen_rd s (fltBase cls inst + 8) o
  have hlow : lowBit 0 = none := by decide
  rw [ackFault_eq ((fltValid_regs hopen).trans hvalid), emptied_pending, fltPending_regs hopen, hnone, hlow] at hrow
  refine ⟨_, hrow, ?_, fun o ho => ?_, fun a => ?_, sameCores_of_cores _ ?_⟩
  · exact (ended_fb ..).trans (emptied_valid ..)
  · rw [ended_rd, emptied_rd (by simpa using ho), hopen]
  · exact (ended_byte ..).trans (byte_mem s ((emptied_mem ..).trans (regOpen_mem ..)) a)
  · rw [ended_cores, emptied_cores, regOpen_cores]

theorem lowBit_lt {m i : Nat} (h : lowBit m = some i) : i < 32 := lt_of_mem_upto (List.mem_of_find?_eq_some h)

theorem faultAck_replays (s : State) (cls inst i : Nat) (hblock : isBlock cls inst = true) (hreach : Reached s (.client 0) (fltBase cls inst + 8))
    (hvalid : fltValid s cls inst = true) (hnext : lowBit (fltPending s cls inst) = some i) (hreact : fltReact s cls inst i ≤ 1) :
    ∃ t, exec (.faultAck (.client 0) cls inst) s = .next t ∧ fltValid t cls inst = true ∧ t.f (fltBase cls inst + 8) 0 5 = i ∧
      t.fb (fltBase cls inst + 8) 29 = true ∧ t.fb (fltBase cls inst) (32 + i) = false ∧ t.rd (fltBase cls inst + 0x18) = 0#64 ∧ SameMem s t ∧
      SameCores [] s t := by
  have hi := lowBit_lt hnext
  have hrow := faultAck_eq hblock hreach
  have hopen (o : Nat) := regOpen_rd s (fltBase cls inst + 8) o
  have hr : fltReact ((emptied (regOpen s (fltBase cls inst + 8)) cls inst).setB (fltBase cls inst) (32 + i) false) cls inst i =
      fltReact s cls inst i := by
    unfold fltReact State.f
    rw [State.rd_setB_other _ _ _ _ _ (by omega), emptied_rd (by omega), hopen]
  have hmem : ((emptied (regOpen s (fltBase cls inst + 8)) cls inst).setB (fltBase cls inst) (32 + i) false).mem = s.mem := by
    rw [State.setB_mem, emptied_mem, regOpen_mem]
  have hcores : ((emptied (regOpen s (fltBase cls inst + 8)) cls inst).setB (fltBase cls inst) (32 + i) false).cores = s.cores := by
    rw [State.setB_cores, emptied_cores, regOpen_cores]
  have hbit : ((emptied (regOpen s (fltBase cls inst + 8)) cls inst).setB (fltBase cls inst) (32 + i) false).fb (fltBase cls inst) (32 + i) = false :=
    State.fb_setB_same _ _ _ _ (by omega)
  rw [ackFault_eq ((fltValid_regs hopen).trans hvalid), emptied_pending, fltPending_regs hopen, hnext] at hrow
  dsimp only at hrow
  rw [latchFault_eq, hr] at hrow
  generalize (emptied (regOpen s (fltBase cls inst + 8)) cls inst).setB (fltBase cls inst) (32 + i) false = u at hrow hmem hcores hbit
  have hframe := SignalFrame.react (latched u cls inst i 0 true) hreact cls inst i
  obtain ⟨f0, -, f24, -, f29⟩ := latchWord_fields u cls inst i true hi
  obtain ⟨lmem, lcores, -⟩ := latched_frame u cls inst i 0 true
  refine ⟨_, hrow, ?_, ?_, ?_, ?_, ?_, fun a => ?_, sameCores_of_cores _ ?_⟩
  · refine (ended_fb ..).trans ((hframe.fb _ _).trans ?_)
    rw [State.fb, latched_first, f24]
    rfl
  · rw [ended_f, hframe.f, latched_first, f0]
  · rw [ended_fb, hframe.fb, State.fb, latched_first, f29]
    rfl
  · rw [ended_fb, hframe.fb, State.fb, State.f, latched_other (by simp)]
    exact hbit
  · rw [ended_rd, hframe.rd, latched_rd, if_neg (by omega), if_pos rfl]
  · exact (ended_byte ..).trans (byte_mem s (hframe.mem.trans (lmem.trans hmem)) a)
  · rw [ended_cores, hframe.cores, lcores, hcores]

/-! ### Status bits are cleared -/

/-- What a mask takes out of a number. -/
theorem bitN_sub_and (x m i : Nat) : bitN (x - (x &&& m)) i = (bitN x i && !bitN m i) := by
  have hbit (n k : Nat) : bitN n k = n.testBit k := by rw [bitN, Nat.testBit_eq_decide_div_mod_eq]
  rw [hbit, hbit, hbit]
  induction i generalizing x m with
  | zero =>
    have hle := Nat.and_le_left (n := x) (m := m)
    have hand : (x &&& m) % 2 = (x % 2) * (m % 2) := by
      have h2 : (x &&& m) % 2 = (x % 2 &&& m % 2) := Nat.and_mod_two_pow (n := 1)
      rw [h2]
      obtain h | h := Nat.mod_two_eq_zero_or_one x <;> obtain h' | h' := Nat.mod_two_eq_zero_or_one m <;> rw [h, h'] <;> rfl
    rw [Nat.testBit_zero, Nat.testBit_zero, Nat.testBit_zero]
    obtain h | h := Nat.mod_two_eq_zero_or_one x <;> obtain h' | h' := Nat.mod_two_eq_zero_or_one m <;> rw [h, h'] at hand <;> rw [h, h'] <;> simp <;>
      omega
  | succ i ih =>
    have hle := Nat.and_le_left (n := x) (m := m)
    have hand : (x &&& m) % 2 ≤ x % 2 := by
      have h2 : (x &&& m) % 2 = (x % 2 &&& m % 2) := Nat.and_mod_two_pow (n := 1)
      rw [h2]
      exact Nat.and_le_left
    have hhalf : (x - (x &&& m)) / 2 = x / 2 - (x / 2 &&& m / 2) := by
      rw [← Nat.and_div_two]
      omega
    rw [Nat.testBit_succ, Nat.testBit_succ, Nat.testBit_succ, hhalf]
    exact ih _ _

/-- A bit of a field. -/
theorem fb_eq_bitN {o i w : Nat} (h : i < w) (s : State) : s.fb o i = bitN (s.f o 0 w) i := by
  have hbit : (s.rd o).toNat / 2 ^ 0 % 2 ^ w / 2 ^ i % 2 = (s.rd o).toNat / 2 ^ i % 2 := by
    obtain ⟨k, rfl⟩ : ∃ k, w = i + (k + 1) := ⟨w - i - 1, by omega⟩
    rw [Nat.pow_zero, Nat.div_one, Nat.pow_add, Nat.mod_mul_right_div_self]
    exact Nat.mod_mod_of_dvd _ ⟨2 ^ k, by rw [Nat.pow_succ, Nat.mul_comm]⟩
  unfold State.fb State.f fld bitsN bitN
  rw [hbit, Nat.pow_one]

theorem errClear_rd (s : State) (cls inst mask o : Nat) : (errClear s cls inst mask).rd o = s.rd o := errChange_rd ..
theorem errClear_cores (s : State) (cls inst mask : Nat) : (errClear s cls inst mask).cores = s.cores := errChange_cores ..

theorem clearStatus_rd {cls inst o : Nat} (h : o ≠ fltBase cls inst) (s : State) (mask : Nat) : (clearStatus s cls inst mask).rd o = s.rd o := by
  rw [clearStatus, errClear_rd, State.rd_setF_other _ _ _ _ _ _ h]

theorem clearStatus_bits (s : State) (cls inst : Nat) {mask : Nat} (hmask : mask < 2 ^ 32) :
    (∀ i, i < 32 → (clearStatus s cls inst mask).fb (fltBase cls inst) i = (s.fb (fltBase cls inst) i && !bitN mask i)) ∧
      fltPending (clearStatus s cls inst mask) cls inst = fltPending s cls inst := by
  have hlt : s.f (fltBase cls inst) 0 32 - (s.f (fltBase cls inst) 0 32 &&& mask % 2 ^ 32) < 2 ^ 32 :=
    (Nat.sub_le _ _).trans_lt (fld_lt ..)
  refine ⟨fun i hi => ?_, ?_⟩
  · rw [fb_eq_bitN hi, State.f, clearStatus, errClear_rd, ← State.f, State.f_setF_same _ _ _ _ _ (by decide), Nat.mod_eq_of_lt hlt, bitN_sub_and,
      Nat.mod_eq_of_lt hmask, ← fb_eq_bitN hi]
  · rw [fltPending, State.f, clearStatus, errClear_rd, ← State.f, State.f_setF_apart _ _ _ _ _ _ _ (by decide) (by decide)]
    rfl

theorem fltStatusClear_effect (s : State) (cls inst : Nat) (mask : Word32) (hblock : isBlock cls inst = true)
    (hreach : Reached s (.client 0) (fltBase cls inst)) :
    ∃ t, exec (.fltStatusClear (.client 0) cls inst mask) s = .next t ∧
      (∀ i, i < 32 → t.fb (fltBase cls inst) i = (s.fb (fltBase cls inst) i && !bitN mask.toNat i)) ∧
      fltPending t cls inst = fltPending s cls inst ∧
      SameRegs [fltBase cls inst, 0x210, 0x218] s t ∧ SameCores [] s t := by
  have hat := fltAt_of_isBlock hblock
  have hlow := hat.low
  have hmask := mask.isLt
  have hword : fld (BitVec.ofNat 64 mask.toNat) 0 32 = mask.toNat := by
    unfold fld bitsN
    rw [BitVec.toNat_ofNat]
    omega
  obtain ⟨rs, hwrite⟩ := regWrite_fltStatus hat hreach (BitVec.ofNat 64 mask.toNat)
  rw [hword] at hwrite
  have hrow : exec (.fltStatusClear (.client 0) cls inst mask) s = .next (ended s (clearStatus
      (reportAll (regOpen s (fltBase cls inst)) (.client 0) (fltBase cls inst) rs) cls inst mask.toNat)) :=
    congrArg (fun t => Host.Outcome.next (ended s t)) ((if_pos hblock).trans hwrite)
  obtain ⟨hbits, hpending⟩ := clearStatus_bits (reportAll (regOpen s (fltBase cls inst)) (.client 0) (fltBase cls inst) rs) cls inst hmask
  refine ⟨_, hrow, fun i hi => ?_, ?_, fun o ho => ?_, sameCores_of_cores _ ?_⟩
  · rw [ended_fb, hbits i hi, reportAll_fb _ _ _ _ _ _ (by omega) (by omega), regOpen_fb]
  · refine (ended_f ..).trans (hpending.trans ?_)
    rw [fltPending, reportAll_f _ _ _ _ _ _ _ (by omega) (by omega), regOpen_f]
    rfl
  · simp only [List.mem_cons, List.not_mem_nil, or_false, not_or] at ho
    rw [ended_rd, clearStatus_rd ho.1, reportAll_rd _ _ _ _ _ ho.2.1 ho.2.2, regOpen_rd]
  · rw [ended_cores, clearStatus, errClear_cores, State.setF_cores, reportAll_cores, regOpen_cores]

/-! ### Reactions -/

/-- But for the first source of class 0, latching writes the fault set alone. -/
theorem latchedOf_plain {cls inst o : Nat} {r : Raise} (hat : FltAt cls inst)
    (hring : cls = 3 ∨ cls = 7 → ∀ g, g < 8 → ringTakes s g 1 none = false) (h0 : ¬ (cls = 0 ∧ r.idx = 0))
    (ho : o ∉ [fltBase cls inst, fltBase cls inst + 8, fltBase cls inst + 0x10, fltBase cls inst + 0x18]) : (latchedOf s cls inst r).rd o = s.rd o := by
  have hcoord : coordNoted (marked (triggered s r) cls inst r.idx r.synd) cls inst r.idx r.coord = marked (triggered s r) cls inst r.idx r.synd := by
    unfold coordNoted
    rw [if_neg]
    simpa only [Bool.and_eq_true, decide_eq_true_eq] using h0
  simp only [List.mem_cons, List.not_mem_nil, or_false, not_or] at ho
  obtain ⟨hs, h8, h10, h18⟩ := ho
  rw [latchedOf, latched_other (by simp [h8, h10, h18]), sourced, hcoord, marked_other (s := triggered s r) hat hring hs, triggered_rd]

theorem react_nmi {cls inst i : Nat} (h12 : cls ≠ 12) (h3 : cls ≠ 3) (hfree : (u.hart (ownerOf u cls inst)).handling = none) :
    (react u cls inst i 2).hart (ownerOf u cls inst) = { u.hart (ownerOf u cls inst) with
      mepc := (u.hart (ownerOf u cls inst)).pc, mcause := 2 ^ 63 + 24, mtval := fltBase cls inst, pc := (u.hart (ownerOf u cls inst)).nmivec,
      handling := some (cls, inst) } := by
  have hreact : react u cls inst i 2 = takeNmi u (ownerOf u cls inst) cls inst := by
    show (if cls = 12 then u.emit (.irq cls inst) else sendNmi u (if cls = 3 && i = 4 then 72 else ownerOf u cls inst) cls inst) = _
    rw [if_neg h12, decide_eq_false h3, Bool.false_and, if_neg (by decide)]
    unfold sendNmi
    rw [hfree]
  rw [hreact]
  show look NmiHart.reset (putRaw u.nmi (ownerOf u cls inst) _) (ownerOf u cls inst) = _
  rw [look_putRaw, if_pos rfl]

theorem faultRaise_outside (s : State) (inst i synd : Nat) (hi : i < 2) (hsynd : synd < 2 ^ 64) :
    exec (.faultRaise 12 inst (some (i, synd))) s = .next (ended s (raiseSource s 12 0 i synd [])) ∧
    (inst < 64 → exec (.faultRaise 1 inst (some (i, synd))) s = .next (ended s (raiseSource s 1 inst i synd []))) := by
  constructor
  · show execFaultRaise 12 inst (some (i, synd)) s = _
    unfold execFaultRaise
    dsimp only
    rw [Nat.mod_eq_of_lt hsynd, if_pos (by unfold outsideSource; simp [hi]), done_eq, if_pos rfl]
  · intro hinst
    show execFaultRaise 1 inst (some (i, synd)) s = _
    unfold execFaultRaise
    dsimp only
    rw [Nat.mod_eq_of_lt hsynd, if_pos (by unfold outsideSource; simp [hi, hinst]), done_eq, if_neg (by decide)]

/-! ### The obligation -/

/-- Settles O18: the latch of a trigger, the count of one that finds it in use, acknowledgement and clear, from what is known of the place of
each block's fault set. -/
theorem faultLatches : Obligations.FaultLatches := by
  refine ⟨fun s cls inst r hblock hnext hi hvalid hring => ?_, fun s cls inst r hblock hnext hi h3 h7 h0 hvalid hreact herr hhost => ?_,
    fun u cls inst i h12 h3 hfree => ?_, fun u cls inst i hfree => ?_, faultRaise_pending, faultRaise_outside, faultAck_empties, faultAck_replays,
    fun a cls inst hblock => writesReg_of_guard hblock fun _ => rfl, fun a cls inst mask hblock => writesReg_of_guard hblock fun _ => rfl,
    fltStatusClear_effect⟩
  · have hat := fltAt_of_isBlock hblock
    have h := latchedOf_latched hat hi hring
    exact ⟨_, faultRaise_latches hat hnext hi hvalid hring, h.status, h.valid, h.source, h.block, h.reaction, h.fresh, h.time, h.synd, h.raises, h.err,
      h.regs, fun a => byte_mem s h.mem a, sameCores_of_cores _ h.cores⟩
  · have hat := fltAt_of_isBlock hblock
    have hring : cls = 3 ∨ cls = 7 → ∀ g, g < 8 → ringTakes s g 1 none = false := fun h => absurd h (by omega)
    have h := latchedOf_latched hat hi hring
    have hframe := SignalFrame.react (latchedOf s cls inst r) hreact cls inst r.idx
    refine ⟨_, faultRaise_latches hat hnext hi hvalid hring, ?_, (ended_fb ..).trans ((hframe.fb ..).trans h.valid), ?_, ?_, ?_, ?_, ?_, ?_, fun o ho => ?_,
      fun a => (ended_byte ..).trans (byte_mem s (hframe.mem.trans h.mem) a)⟩
    · rw [ended_fb, hframe.fb, h.status]
    · rw [ended_f, hframe.f, h.source]
    · rw [ended_f, hframe.f, h.block]
    · rw [ended_rd, hframe.rd, h.time]
    · rw [ended_rd, hframe.rd, h.synd]
    · rw [ended_raises, hframe.raises, h.raises]
    · rw [ended_outbox, react_outbox _ hreact, latchedOf_outbox hat h3 h7 herr hhost hi]
    · rw [ended_rd, hframe.rd, latchedOf_plain hat hring h0 ho]
  · rw [react_nmi h12 h3 hfree]
    exact ⟨rfl, rfl, rfl⟩
  · show (requestReset u 3 (blockId cls inst)).boot.resetReq = _
    unfold requestReset
    rw [hfree, if_neg (by decide)]

end Sys2Proof.Machine
end

section
/-! ## What leaves the commands and tasks of the host interface, and the resets of functions (R351, R352, R394) -/

namespace Sys2Proof.Machine

variable {s t u : State}

/-- The commands and the tasks of the host interface are the same. -/
structure SameWork (s t : State) : Prop where
  cmds : t.host.cmds = s.host.cmds
  tasks : t.host.tasks = s.host.tasks

namespace SameWork

theorem refl (s : State) : SameWork s s := ⟨rfl, rfl⟩

theorem trans (h : SameWork s t) (g : SameWork t u) : SameWork s u := ⟨g.cmds.trans h.cmds, g.tasks.trans h.tasks⟩

theorem of_host (h : t.host = s.host) : SameWork s t := ⟨congrArg HostIf.cmds h, congrArg HostIf.tasks h⟩

theorem setF (s : State) (o l w x : Nat) : SameWork s (s.setF o l w x) := of_host (State.setF_host ..)
theorem setB (s : State) (o l : Nat) (b : Bool) : SameWork s (s.setB o l b) := of_host (State.setB_host ..)
theorem wr (s : State) (o : Nat) (v : Word) : SameWork s (s.wr o v) := of_host (State.wr_host ..)
theorem addCtr (s : State) (o n : Nat) : SameWork s (s.addCtr o n) := of_host (State.addCtr_host ..)
theorem satF (s : State) (o l w x : Nat) : SameWork s (s.satF o l w x) := of_host (State.satF_host ..)
theorem modCore (s : State) (sl : Nat) (f : Core → Core) : SameWork s (s.modCore sl f) := of_host (State.modCore_host ..)
theorem setRq (s : State) (sl r : Nat) (x : RxQ) : SameWork s (s.setRq sl r x) := of_host (State.setRq_host ..)
theorem setChan (s : State) (sl c : Nat) (x : Chan) : SameWork s (s.setChan sl c x) := of_host (State.setChan_host ..)
theorem resetRange (s : State) (lo hi : Nat) : SameWork s (s.resetRange lo hi) := of_host (State.resetRange_host ..)

theorem ite {c : Prop} [Decidable c] {x y : State} (hx : SameWork s x) (hy : SameWork s y) : SameWork s (if c then x else y) := by
  split
  · exact hx
  · exact hy

theorem foldl {α : Type} (f : State → α → State) (hf : ∀ t a, SameWork t (f t a)) (l : List α) (s : State) : SameWork s (l.foldl f s) :=
  List.foldlRecOn _ _ (motive := fun t => SameWork s t) (refl s) fun t ht a _ => ht.trans (hf t a)

/-! ### Memory and trace records -/

theorem ringKeeps (s : State) : RingKeeps (SameWork s) where
  counter _ _ _ _ h := h.trans (addCtr ..)
  poisonRead _ _ h := h.trans (addCtr ..)
  lines _ _ _ h := h.trans (of_host rfl)
  wake _ _ _ _ h := h.trans (of_host (wakeNow_host ..))
  mem _ _ _ _ _ _ h := h.trans (of_host rfl)
  lost _ _ _ h := trans (t := State.raise _ .traceLost 0 _) (h.trans (of_host (State.raise_host ..))) (addCtr ..)
  lostMore _ _ _ h := h.trans (addCtr ..)
  produced _ _ _ _ h := h.trans (setF ..)

theorem localWrite (s : State) (a : Nat) (bs : List Byte) : SameWork s (localWrite s a bs) := of_host (localWrite_host ..)
theorem setHdrW (s : State) (sl q i v : Nat) : SameWork s (setHdrW s sl q i v) := localWrite ..

/-! ### Completions -/

theorem rqStatus (s : State) (sl r : Nat) : SameWork s (rqStatus s sl r) := ((setF ..).trans (setF ..)).trans (setF ..)

theorem releaseMsgs (s : State) (sl r : Nat) (p : RxMsg → Bool) : SameWork s (releaseMsgs s sl r p) :=
  ((setRq ..).trans (setF ..)).trans (rqStatus ..)

theorem freeMsgs (s : State) (sl : Nat) (o : Op) : SameWork s (freeMsgs s sl o) := foldl _ (fun _ _ => releaseMsgs ..) _ _

theorem addEnergy (s : State) (f nj : Nat) : SameWork s (addEnergy s f nj) := (addCtr ..).trans ⟨rfl, rfl⟩

theorem account (s : State) (f ns hbm link nj : Nat) : SameWork s (account s f ns hbm link nj) :=
  ((((addCtr ..).trans (addCtr ..)).trans (addCtr ..)).trans (addCtr ..)).trans (addEnergy ..)

theorem noteRun (s : State) (sl q seq st det : Nat) : SameWork s (noteRun s sl q seq st det) := ⟨rfl, rfl⟩

theorem glintOp (s : State) (sl : Nat) (o : Op) (typ st det fl : Nat) : SameWork s (glintOp s sl o typ st det fl) :=
  (ringKeeps s).glintOp sl o typ st det fl (refl s)

theorem writeRecord (s : State) (sl : Nat) (o : Op) (r : Rec) : SameWork s (writeRecord s sl o r) := by
  unfold Machine.writeRecord
  extract_lets _ _ _ _ s1 s2 s3 s4
  have hrecord : SameWork s s1 := ite (refl s) ((localWrite ..).trans (setHdrW ..))
  have hevent : SameWork s s2 := ite (hrecord.trans (setF ..)) hrecord
  have hirq : SameWork s s3 := ite (hevent.trans (of_host rfl)) hevent
  exact ((hirq.trans (account ..)).trans (noteRun ..)).trans (glintOp ..)

theorem memBad (s : State) (b : Bool) : SameWork s { s with memBad := b } := ⟨rfl, rfl⟩

theorem finish (s : State) (sl : Nat) (o : Op) (r : Rec) : SameWork s (finish s sl o r) := by
  unfold Machine.finish
  exact ((memBad s false).trans (freeMsgs ..)).trans (ite (modCore ..) ((modCore ..).trans (writeRecord ..)))

theorem finishWith (s : State) (sl : Nat) (o : Op) (st : Nat) : SameWork s (finishWith s sl o st) := finish ..

/-! ### Messages of channels -/

theorem unreachReply (s : State) (m : NetMsg) : SameWork s (unreachReply s m) := by
  unfold Machine.unreachReply
  split <;> exact of_host rfl

theorem submit (s : State) (port : Option Nat) (r : WReq) (org : WOrigin) : SameWork s (submit s port r org).1 := by
  unfold Machine.submit
  split <;> exact of_host rfl

theorem respond (s : State) (via vc dst tag reqId code arg : Nat) (bs : List Byte) : SameWork s (respond s via vc dst tag reqId code arg bs) := by
  unfold Machine.respond
  split <;> exact of_host rfl

theorem post (s : State) (m : NetMsg) : SameWork s (s.post m) := by
  unfold State.post
  refine ite (of_host rfl) (ite ?_ ?_)
  · exact ite (submit ..) ((submit ..).trans (unreachReply ..))
  · split
    · exact refl s
    · extract_lets src s1 s2
      have h2 : SameWork s s2 := ⟨rfl, rfl⟩
      exact h2.trans (respond ..)

theorem fromChan (s : State) (sl c tag : Nat) (d : Nat × Nat × Nat) (b : NetBody) : SameWork s (fromChan s sl c tag d b) := post ..

theorem rqNack (s : State) (sl r : Nat) (e : Nat × Nat × Nat) (b : NetBody) : SameWork s (rqNack s sl r e b) := (satF ..).trans (post ..)

theorem unbindPort (s : State) (sl p : Nat) : SameWork s (unbindPort s sl p) := setF ..

theorem bindPort (s : State) (sl p r ctx : Nat) : SameWork s (bindPort s sl p r ctx) := by
  unfold Machine.bindPort
  exact trans (trans (foldl _ (fun _ _ => ite (unbindPort ..) (refl _)) _ _) (setF ..)) (modCore ..)

theorem withdrawReq (s : State) (e d : Nat × Nat × Nat) (p : Nat → Bool) : SameWork s (withdrawReq s e d p) := by
  unfold Machine.withdrawReq
  extract_lets s1 sl x
  have h1 : SameWork s s1 := ⟨rfl, rfl⟩
  exact ite (h1.trans ((setRq ..).trans (rqStatus ..))) h1

/-! ### Channels settle -/

theorem updOp (s : State) (sl : Nat) (o : Op) : SameWork s (updOp s sl o) := modCore ..

theorem pumpSends (n : Nat) (s : State) (sl : Nat) : SameWork s (pumpSends n s sl) := by
  induction n generalizing s with
  | zero => exact refl s
  | succ n ih =>
    unfold Machine.pumpSends
    split
    · exact refl s
    · exact (((updOp ..).trans (setF ..)).trans (fromChan ..)).trans (ih _)

theorem endCloses (s : State) (sl c : Nat) : SameWork s (endCloses s sl c) := foldl _ (fun _ _ => finishWith ..) _ _

theorem enterClosed (s : State) (sl c : Nat) (b : Bool) : SameWork s (enterClosed s sl c b) := by
  unfold Machine.enterClosed
  exact ((setF ..).trans (ite (fromChan ..) (refl _))).trans (endCloses ..)

theorem checkClosed (s : State) (sl c : Nat) : SameWork s (checkClosed s sl c) := ite (enterClosed ..) (refl s)

theorem closeEnded (s : State) (sl : Nat) : SameWork s (closeEnded s sl) := foldl _ (fun _ _ => checkClosed ..) _ _

theorem recvMove {sl : Nat} {o : Op} (h : recvMove s sl o = some t) : SameWork s t := by
  unfold Machine.recvMove at h
  dsimp only at h
  split_ifs at h <;> cases h
  · exact (releaseMsgs ..).trans (updOp ..)
  · exact (unbindPort ..).trans (updOp ..)
  · exact (bindPort ..).trans (updOp ..)
  · exact finishWith ..

theorem recvNext {sl : Nat} (h : recvNext s sl = some t) : SameWork s t := by
  obtain ⟨o, -, ho⟩ := List.exists_of_findSome?_eq_some h
  exact recvMove ho

theorem recvPump (n : Nat) (s : State) (sl : Nat) : SameWork s (recvPump n s sl) := by
  induction n generalizing s with
  | zero => exact refl s
  | succ n ih =>
    unfold Machine.recvPump
    split
    · exact refl s
    · next h => exact (recvNext h).trans (ih _)

theorem settle (s : State) (sl : Nat) : SameWork s (settle s sl) := ((recvPump ..).trans (closeEnded ..)).trans (pumpSends ..)

theorem closeRq (s : State) (sl r : Nat) : SameWork s (closeRq s sl r) := by
  unfold Machine.closeRq
  extract_lets x waiting s1 s2 s3 s4 s5 s6
  have h1 : SameWork s s1 := foldl _ (fun _ _ => rqNack ..) _ _
  have h2 : SameWork s s2 := h1.trans (foldl _ (fun _ _ => rqNack ..) _ _)
  have h3 : SameWork s s3 := h2.trans (foldl _ (fun _ _ => ite (unbindPort ..) (refl _)) _ _)
  have h4 : SameWork s s4 := h3.trans ((setRq ..).trans (wr ..))
  have h5 : SameWork s s5 := h4.trans (rqStatus ..)
  have h6 : SameWork s s6 := h5.trans (foldl _ (fun _ _ => finishWith ..) _ _)
  exact h6.trans (settle ..)

theorem closeRqs (s : State) (sl : Nat) (p : Nat → Bool) : SameWork s (closeRqs s sl p) :=
  foldl _ (fun _ _ => ite ((setF ..).trans (closeRq ..)) (refl _)) _ _

theorem resetSender (s : State) (sl : Nat) (p : Nat → Bool) : SameWork s (resetSender s sl p) := by
  unfold Machine.resetSender
  refine (foldl _ (fun t o => (withdrawReq ..).trans (ite (fromChan ..) (ite (fromChan ..) (refl _)))) _ _).trans (foldl _ (fun t c => ite (refl _) ?_) _ _)
  exact (ite (fromChan ..) (refl _) : SameWork t _).trans (setF ..)

/-! ### The steps of a function's reset -/

theorem flrChannels (s : State) (f sl : Nat) : SameWork s (flrChannels s f sl) := by
  unfold Machine.flrChannels
  exact ((closeRqs ..).trans (resetSender ..)).trans (foldl _ (fun _ _ => (setB ..).trans (setChan ..)) _ _)

theorem scrubCore (s : State) (sl : Nat) : SameWork s (scrubCore s sl) := by
  unfold Machine.scrubCore emptyAcc zeroStreams
  extract_lets lo s1
  have h1 : SameWork s s1 := ⟨rfl, rfl⟩
  exact ((h1.trans (modCore ..)).trans (resetRange ..)).trans (resetRange ..)

theorem stashClear (s : State) (sl : Nat) : SameWork s (stashClear s sl) :=
  ((((((modCore ..).trans (setF ..)).trans (setF ..)).trans (setF ..)).trans (setF ..)).trans (setF ..)).trans (setF ..)

theorem flrOwned (s : State) (f sl : Nat) : SameWork s (flrOwned s f sl) := by
  unfold Machine.flrOwned
  extract_lets queues stashMine s1 s2 s3
  have h1 : SameWork s s1 := foldl _ (fun _ _ => ite (setF ..) (refl _)) _ _
  have h2 : SameWork s s2 := ite (h1.trans (((setB ..).trans (stashClear ..)).trans (setB ..))) h1
  have h3 : SameWork s s3 := h2.trans (foldl _ (fun _ _ => ite (resetRange ..) (refl _)) _ _)
  exact h3.trans (foldl _ (fun _ _ => foldl _ (fun _ _ => ite (resetRange ..) (refl _)) _ _) _ _)

theorem freeCore (s : State) (n f : Nat) : SameWork s (freeCore s n f) := by
  unfold Machine.freeCore nanHaltedBit
  extract_lets sl s1 s2 s3
  have h1 : SameWork s s1 := setHdrW ..
  have h2 : SameWork s s2 := ((h1.trans (setB ..)).trans (setF ..)).trans (setF ..)
  have h3 : SameWork s s3 := h2.trans ((modCore ..).trans (setB ..))
  have hlast (t : State) : SameWork t (t.modHost (fun h => { h with lastOf := putRaw h.lastOf n f })) := ⟨rfl, rfl⟩
  exact h3.trans (hlast _)

theorem putTod (s : State) (sl q t : Nat) : SameWork s (putTod s sl q t) := (localWrite ..).trans (setHdrW ..)

/-- One TOD is supplied. -/
theorem feedStep (s : State) (sl q t : Nat) (f : List Run → List Run) :
    SameWork s { Machine.putTod s sl q t with host := { (Machine.putTod s sl q t).host with runs := f (Machine.putTod s sl q t).host.runs } } := by
  have hruns (u : State) : SameWork u { u with host := { u.host with runs := f u.host.runs } } := ⟨rfl, rfl⟩
  exact (putTod s sl q t).trans (hruns _)

theorem feedRun (k : Nat) (s : State) (sl q : Nat) : SameWork s (feedRun k s sl q) := by
  induction k generalizing s with
  | zero => exact refl s
  | succ k ih =>
    unfold Machine.feedRun
    split
    · exact refl s
    · refine ite (refl s) ?_
      exact (feedStep ..).trans (ih _)

theorem bindTask (s : State) (sl f : Nat) : SameWork s (bindTask s sl f) := by
  unfold Machine.bindTask
  exact ((((((((setF ..).trans (setF ..)).trans (setF ..)).trans (setF ..)).trans (setF ..)).trans (setF ..)).trans (setF ..)).trans
    (foldl _ (fun _ _ => wr ..) _ _)).trans (setB ..)

theorem startRun (s : State) (c : HCmd) (sl q : Nat) (win : Option Nat) : SameWork s (startRun s c sl q win) := by
  have hruns (r : Run) : SameWork s (s.modHost (fun h => { h with runs := h.runs ++ [r] })) := ⟨rfl, rfl⟩
  unfold Machine.startRun
  exact (hruns _).trans (feedRun ..)

end SameWork

end Sys2Proof.Machine
end

section
/-! ## The resets of functions (R351, R352, R394) -/

namespace Sys2Proof.Machine

variable {s t u : State}

/-- No command and no task of a client is left. -/
structure NoWork (f : Nat) (s : State) : Prop where
  cmds : ∀ c ∈ s.host.cmds, c.f ≠ f
  tasks : ∀ t ∈ s.host.tasks, t.f ≠ f

namespace NoWork

variable {f : Nat}

theorem keeps (h : NoWork f s) (k : SameWork s t) : NoWork f t := ⟨by rw [k.cmds]; exact h.cmds, by rw [k.tasks]; exact h.tasks⟩

/-- A fold of steps that keep the host interface free of the client's work. -/
theorem foldl {α : Type} {g : State → α → State} (hg : ∀ t a, NoWork f t → NoWork f (g t a)) (l : List α) (h : NoWork f s) : NoWork f (l.foldl g s) :=
  List.foldlRecOn _ _ (motive := NoWork f) h fun t ht a _ => hg t a ht

theorem foldl_same {α : Type} {g : State → α → State} (hg : ∀ t a, SameWork t (g t a)) (l : List α) (h : NoWork f s) : NoWork f (l.foldl g s) :=
  foldl (fun _ _ ht => ht.keeps (hg _ _)) l h

/-- Tasks of other clients take each other's place. -/
theorem setTask {x : HTask} (h : NoWork f s) (hx : x.f ≠ f) : NoWork f (setTask s x) := by
  refine ⟨h.cmds, fun y hy => ?_⟩
  obtain ⟨z, hz, rfl⟩ := List.mem_map.mp (show y ∈ s.host.tasks.map (fun z => if z.cmd = x.cmd then x else z) from hy)
  split
  · exact hx
  · exact h.tasks z hz

theorem runTask {x : HTask} (h : NoWork f s) (hx : x.f ≠ f) : NoWork f (runTask s x) := by
  unfold Machine.runTask
  split
  · exact h
  · extract_lets sl d s1 s2 s3
    have h1 : NoWork f s1 := h.keeps ((SameWork.setF ..).trans (SameWork.setF ..))
    have h2 : NoWork f s2 := h1.keeps (SameWork.bindTask ..)
    have h3 : NoWork f s3 := h2.setTask hx
    exact h3.keeps (SameWork.startRun ..)

theorem giveCore {x : HTask} (h : NoWork f s) (hx : x.f ≠ f) (n : Nat) : NoWork f (giveCore s x n) := by
  unfold Machine.giveCore
  extract_lets y foreign
  split
  · exact h.setTask hx
  · split
    · exact h.setTask hx
    · exact (h.setTask (x := y) hx).runTask hx

theorem bestTask {x : HTask} {n : Nat} (h : bestTask s n = some x) : x ∈ s.host.tasks := by
  unfold Machine.bestTask at h
  have hall : ∀ b : Option HTask, (s.host.tasks.filter (fun t => t.stage = 0 && allowed s t.f n)).foldl (fun b t => match b with
      | none => some t
      | some x => if taskBefore s t x then some t else some x) none = b → ∀ y, b = some y → y ∈ s.host.tasks := by
    rintro b rfl
    refine List.foldlRecOn _ _ (motive := fun b : Option HTask => ∀ y, b = some y → y ∈ s.host.tasks) (fun y hy => by cases hy) fun b hb t ht y hy => ?_
    have ht' := (List.mem_filter.mp ht).1
    split at hy
    · cases hy
      exact ht'
    · split at hy
      · cases hy
        exact ht'
      · exact hb y hy
  exact hall _ h x rfl

/-- The tasks that a core was promised wait again. -/
theorem waitAgain (h : NoWork f s) (n : Nat) : NoWork f (s.modHost (fun h => { h with
    tasks := h.tasks.map (fun t => if t.stage = 1 && t.core = n then { t with stage := 0 } else t) })) := by
  refine ⟨h.cmds, fun y hy => ?_⟩
  obtain ⟨z, hz, rfl⟩ := List.mem_map.mp (show y ∈ s.host.tasks.map (fun t => if t.stage = 1 && t.core = n then { t with stage := 0 } else t) from hy)
  split
  · exact h.tasks z hz
  · exact h.tasks z hz

theorem passCore (h : NoWork f s) (n : Nat) : NoWork f (passCore s n) := by
  unfold Machine.passCore
  extract_lets s1
  have h1 : NoWork f s1 := h.waitAgain n
  split
  · next x hx =>
    split
    · exact h1.giveCore (h1.tasks x (bestTask hx)) n
    · exact h1
  · exact h1

end NoWork

/-! ### The reset of one function -/

/-- The client's commands, its runs and its tasks are removed. -/
def workGone (s : State) (f : Nat) : State :=
  s.modHost (fun h => { h with
    cmds := h.cmds.filter (fun c => c.f ≠ f), runs := h.runs.filter (fun r => !((s.host.cmds.filter (fun c => c.f = f)).map (fun c => c.id)).contains r.cmd)
    tasks := h.tasks.filter (fun t => t.f ≠ f) })

theorem workGone_noWork (s : State) (f : Nat) : NoWork f (workGone s f) :=
  ⟨fun c hc => by simpa using (List.mem_filter.mp (show c ∈ s.host.cmds.filter (fun c => c.f ≠ f) from hc)).2,
    fun t ht => by simpa using (List.mem_filter.mp (show t ∈ s.host.tasks.filter (fun t => t.f ≠ f) from ht)).2⟩

/-- A queue of the client is as after reset. -/
def queueReset (f : Nat) (s : State) (q : Nat) : State :=
  ((s.resetRange (rQ q 0) (rQ q 0x40)).setF (rQ q 0x10) 16 7 f).modHost (fun h => { h with coal := put 0 h.coal q 0 })

theorem queueReset_same (f : Nat) (s : State) (q : Nat) : SameWork s (queueReset f s q) := by
  have hcoal (t : State) : SameWork t (t.modHost (fun h => { h with coal := put 0 h.coal q 0 })) := ⟨rfl, rfl⟩
  exact ((SameWork.resetRange ..).trans (SameWork.setF ..)).trans (hcoal _)

/-- The client's messages and its enabled vectors are removed. -/
def vectorsGone (s : State) (f : Nat) : State :=
  s.modHost (fun h => { h with msixOn := h.msixOn.filter (fun p => p.1 ≠ f), msixPend := h.msixPend.filter (fun p => p.1 ≠ f) })

theorem vectorsGone_same (s : State) (f : Nat) : SameWork s (vectorsGone s f) := ⟨rfl, rfl⟩

theorem vectorsGone_gone (s : State) (f : Nat) : (∀ p ∈ (vectorsGone s f).host.msixPend, p.1 ≠ f) ∧ ∀ p ∈ (vectorsGone s f).host.msixOn, p.1 ≠ f :=
  ⟨fun p hp => by simpa using (List.mem_filter.mp (show p ∈ s.host.msixPend.filter (fun p => p.1 ≠ f) from hp)).2,
    fun p hp => by simpa using (List.mem_filter.mp (show p ∈ s.host.msixOn.filter (fun p => p.1 ≠ f) from hp)).2⟩

/-- What follows on the cores and the queues once the client's work is gone. -/
def flrRest (s : State) (f : Nat) (held left : List Nat) : State :=
  let s := (upto 256).foldl (fun s n => flrChannels s f (slotOf s n)) s
  let s := held.foldl (fun s n => scrubCore s (slotOf s n)) s
  let s := (upto 256).foldl (fun s n => flrOwned s f (slotOf s n)) s
  let s := left.foldl (fun s n => passCore (freeCore s n f) n) s
  (funcQueues s f).foldl (queueReset f) s

theorem flrOne_shape (s : State) (f : Nat) : ∃ held left x y, flrOne s f =
    (vectorsGone (flrRest (workGone x f) f held left) f).raise .flrDone 0 y := by
  unfold flrOne vectorsGone flrRest workGone queueReset
  exact ⟨_, _, _, _, rfl⟩

theorem flrRest_noWork {f : Nat} (h : NoWork f s) (held left : List Nat) : NoWork f (flrRest s f held left) := by
  unfold flrRest
  extract_lets s1 s2 s3 s4
  have h1 : NoWork f s1 := h.foldl_same (fun _ _ => .flrChannels ..) _
  have h2 : NoWork f s2 := h1.foldl_same (fun _ _ => .scrubCore ..) _
  have h3 : NoWork f s3 := h2.foldl_same (fun _ _ => .flrOwned ..) _
  have h4 : NoWork f s4 := h3.foldl (fun _ _ ht => (ht.keeps (.freeCore ..)).passCore _) _
  exact h4.foldl_same (queueReset_same f) _

theorem flrOne_gone (s : State) (f : Nat) : (∀ c ∈ (flrOne s f).host.cmds, c.f ≠ f) ∧ (∀ t ∈ (flrOne s f).host.tasks, t.f ≠ f) ∧
    (∀ p ∈ (flrOne s f).host.msixPend, p.1 ≠ f) ∧ (∀ p ∈ (flrOne s f).host.msixOn, p.1 ≠ f) := by
  obtain ⟨held, left, x, y, hshape⟩ := flrOne_shape s f
  have hwork := (flrRest_noWork (workGone_noWork x f) held left).keeps (vectorsGone_same _ f)
  obtain ⟨hpend, hon⟩ := vectorsGone_gone (flrRest (workGone x f) f held left) f
  rw [hshape, State.raise_host]
  exact ⟨hwork.cmds, hwork.tasks, hpend, hon⟩

/-- Settles O52: the rows by their definitions, and what is left of a function's work by what each step of its reset keeps. -/
theorem functionResets : Obligations.FunctionResets := by
  refine ⟨fun s f hlo hhi => ?_, fun s f hf => congrArg (fun t => Host.Outcome.next (ended s t)) (if_pos hf), fun s => ?_, fun s => ?_,
    fun s f _ => flrOne_gone s f⟩
  · refine congrArg (fun t => Host.Outcome.next (ended s t)) ((if_neg (by omega)).trans ?_)
    exact if_neg (by omega)
  · exact congrArg (fun t => Host.Outcome.next (ended s t)) ((if_neg (by decide)).trans (if_pos rfl))
  · have h0 : flr s 0 = (fromLen 1 63).foldl flrOne ((flrOne s 0).modHost (fun h => { h with vfEnable := false })) := if_pos rfl
    refine congrArg (fun t => Host.Outcome.next (ended s t)) ?_
    rw [h0]
    exact if_neg (by decide)

end Sys2Proof.Machine
end

section
/-! Girth traffic (R18-R23). -/
namespace Sys2Proof.Machine

variable {s : State} {e : Nat}

/-- What a new flit leaves behind at its end and at the far one. -/
theorem gSendNew_far (s : State) (e : Nat) (f : GFlit) :
    (gSendNew s e f).gend (farEnd e) =
      { s.gend (farEnd e) with wire := (s.gend (farEnd e)).wire ++ [(gBytes (gNewHeader s e f) f.payload, f.way)] } := by
  unfold gSendNew
  dsimp only
  rw [gSend_eq]
  simp only [State.gend_modGend, farEnd_ne, if_false, if_true]
  rfl

theorem gSendNew_near (s : State) (e : Nat) (f : GFlit) :
    (gSendNew s e f).gend e =
      let x := s.gend e
      let r := gReturn x
      gAge { x with
        txq := x.txq.erase f, replay := x.replay ++ [⟨x.nextSeq, f, r.1, r.2, 0, false⟩], nextSeq := (x.nextSeq + 1) % 1024
        cred := setNth x.cred f.cls (nth 0 x.cred f.cls - 1), owed := setNth x.owed r.2 (nth 0 x.owed r.2 - r.1) } (some f.cls) := by
  unfold gSendNew
  dsimp only
  rw [gSend_eq]
  simp only [State.gend_modGend, (farEnd_ne e).symm, if_false, if_true]

theorem gSendNew_other (s : State) {e i : Nat} (f : GFlit) (hi : i ≠ e) (hf : i ≠ farEnd e) : (gSendNew s e f).gend i = s.gend i := by
  unfold gSendNew
  dsimp only
  rw [gSend_eq]
  simp only [State.gend_modGend, hi, hf, if_false]

theorem lt_length_of_nth_pos {l : List Nat} {i : Nat} (h : 0 < nth 0 l i) : i < l.length := by
  by_contra hlong
  rw [nth, List.getD_eq_default _ _ (Nat.le_of_not_lt hlong)] at h
  exact absurd h (Nat.lt_irrefl 0)

theorem nth_setNth_same {α : Type} (d : α) {l : List α} {i : Nat} (v : α) (h : i < l.length) : nth d (setNth l i v) i = v := by
  unfold nth setNth
  rw [List.getD_eq_getElem _ _ (by rw [List.length_set]; exact h), List.getElem_set_self]

/-- A new flit is kept, its class has one credit less, and nothing waits (R19-R21). -/
theorem transmit_offer {o : GirthOffer} {way : GDest} (h : GSends s e) (hreplay : (s.gend e).replay = []) (htxq : (s.gend e).txq = [])
    (hok : gOfferOk (gLoc e) o = true) (hroute : gRoute s (gLoc e) o.cls ⟨o.stage, o.dst, o.resp, 0⟩ = (e, way))
    (hstay : gShould s e o.cls way = false) (hcred : 0 < nth 0 (s.gend e).cred o.cls) (hfeat : o.cls = 3 ∨ s.boot.featSet = true) :
    ∃ t h, exec (.girthTransmit e [o]) s = .next t ∧
      (t.gend (farEnd e)).wire = (s.gend (farEnd e)).wire ++ [(gBytes h o.payload, way)] ∧ h.seq = (s.gend e).nextSeq ∧ h.cls = o.cls ∧
      h.tag = o.tag % 2 ^ 14 ∧ h.len = o.payload.length / 16 ∧
      (t.gend e).nextSeq = ((s.gend e).nextSeq + 1) % 1024 ∧ (t.gend e).txq = [] ∧
      (t.gend e).replay = [⟨(s.gend e).nextSeq, ⟨o.cls, o.tag % 2 ^ 14, o.payload, way⟩, h.credRet, h.credCls, 0, false⟩] ∧
      nth 0 (t.gend e).cred o.cls = nth 0 (s.gend e).cred o.cls - 1 ∧ (∀ i, i ≠ e → i ≠ farEnd e → t.gend i = s.gend i) ∧
      SameRegs [] s t ∧ SameMem s t ∧ SameCores [] s t := by
  let f : GFlit := ⟨o.cls, o.tag % 2 ^ 14, o.payload, way⟩
  let s1 := s.modGend e (fun x => { x with txq := [f] })
  have hx : s1.gend e = { s.gend e with txq := [f] } := by simp [s1]
  have hy : s1.gend (farEnd e) = s.gend (farEnd e) := by simp [s1, farEnd_ne]
  have hnear : (ended s (gSendNew s1 e f)).gend e = _ := gSendNew_near s1 e f
  have hfar : (ended s (gSendNew s1 e f)).gend (farEnd e) = _ := gSendNew_far s1 e f
  have hseq : (gNewHeader s1 e f).seq = (s.gend e).nextSeq := by
    show (s1.gend e).nextSeq = _
    rw [hx]
  rw [hx] at hnear
  rw [hy] at hfar
  refine ⟨_, gNewHeader s1 e f, exec_girthTransmit_offer h hreplay htxq hok hroute hstay hcred hfeat, ?_, hseq, rfl, rfl, rfl, ?_, ?_, ?_, ?_,
    fun i hi hf => ?_, fun _ _ => rfl, fun _ => rfl, fun _ _ => rfl⟩
  · rw [hfar]
  · rw [hnear]
    rfl
  · rw [hnear]
    exact List.erase_cons_head ..
  · rw [hnear]
    show (s.gend e).replay ++ _ = _
    rw [hreplay, List.nil_append]
    show [_] = [GEntry.mk _ _ (gReturn (s1.gend e)).1 (gReturn (s1.gend e)).2 _ _]
    rw [hx]
  · rw [hnear]
    exact nth_setNth_same 0 _ (lt_length_of_nth_pos hcred)
  · exact (gSendNew_other s1 f hi hf).trans (by simp [s1, hi])

/-- A flit that is due leaves an end again, with the credit it carried (R22). -/
def gResent (s : State) (e : Nat) (r : GEntry) : State :=
  (gSend s e r.seq r.fl r.credRet r.credCls).modGend e (fun x =>
    gAge { x with replay := x.replay.map (fun y => if y.seq = r.seq then { y with due := false, resends := y.resends + 1 } else y) } none)

theorem gResent_far (s : State) (e : Nat) (r : GEntry) : ((gResent s e r).gend (farEnd e)).wire =
    (s.gend (farEnd e)).wire ++ [(gBytes (gHeader s e r.seq r.fl r.credRet r.credCls) r.fl.payload, r.fl.way)] := by
  unfold gResent
  rw [gSend_eq]
  simp only [State.gend_modGend, farEnd_ne, if_false, if_true]

theorem gResent_near (s : State) (e : Nat) (r : GEntry) : (gResent s e r).gend e = gAge { s.gend e with
    replay := (s.gend e).replay.map (fun y => if y.seq = r.seq then { y with due := false, resends := y.resends + 1 } else y) } none := by
  unfold gResent
  rw [gSend_eq]
  simp only [State.gend_modGend, (farEnd_ne e).symm, if_false, if_true]

theorem gResent_regs (s : State) (e : Nat) (r : GEntry) : (gResent s e r).regs = s.regs := by
  unfold gResent
  rw [gSend_eq]
  rfl

theorem gResent_mem (s : State) (e : Nat) (r : GEntry) : (gResent s e r).mem = s.mem := by
  unfold gResent
  rw [gSend_eq]
  rfl

theorem gResent_cores (s : State) (e : Nat) (r : GEntry) : (gResent s e r).cores = s.cores := by
  unfold gResent
  rw [gSend_eq]
  rfl

/-- A flit that is due is resent and counted (R22, R23). -/
theorem exec_girthTransmit_resend {r : GEntry} (h : GSends s e) (hdue : (s.gend e).replay.find? (fun r => r.due && r.resends < 32) = some r) :
    exec (.girthTransmit e []) s = .next (ended s ((gResent s e r).addCtr (rGirth e 0x18) 1)) := by
  obtain ⟨he, hup, htrain, hret, hretf, hon⟩ := h
  show execGirthTransmit e [] s = _
  unfold execGirthTransmit gResent
  simp only [List.filter_nil, List.foldl_nil, done_eq, he, hup, htrain, hret, hretf, domOn_of_on hon, hdue, decide_true, Bool.not_true,
    Bool.or_self, if_false, Bool.false_eq_true]

theorem addCtr_rd_same {s t : State} (h : t.regs = s.regs) (o n : Nat) : (t.addCtr o n).rd o = (s.addCtr o n).rd o := by
  unfold State.addCtr
  rw [State.rd_wr_same, State.rd_wr_same, rd_regs h]

theorem transmit_resend {r : GEntry} (h : GSends s e) (hdue : (s.gend e).replay.find? (fun r => r.due && r.resends < 32) = some r) :
    ∃ t h, exec (.girthTransmit e []) s = .next t ∧
      (t.gend (farEnd e)).wire = (s.gend (farEnd e)).wire ++ [(gBytes h r.fl.payload, r.fl.way)] ∧
      h.seq = r.seq ∧ h.cls = r.fl.cls ∧ h.tag = r.fl.tag ∧ h.credRet = r.credRet ∧ h.credCls = r.credCls ∧
      (t.gend e).replay = (s.gend e).replay.map (fun y => if y.seq = r.seq then { y with due := false, resends := y.resends + 1 } else y) ∧
      (t.gend e).cred = (s.gend e).cred ∧ t.rd (rGirth e 0x18) = (s.addCtr (rGirth e 0x18) 1).rd (rGirth e 0x18) ∧
      SameRegs [rGirth e 0x18] s t ∧ SameMem s t ∧ SameCores [] s t := by
  refine ⟨_, gHeader s e r.seq r.fl r.credRet r.credCls, exec_girthTransmit_resend h hdue, gResent_far .., rfl, rfl, rfl, rfl, rfl,
    congrArg GEnd.replay (gResent_near s e r), (congrArg GEnd.cred (gResent_near s e r)).trans rfl, ?_, ?_, ?_, ?_⟩
  · rw [ended_rd]
    exact addCtr_rd_same (gResent_regs s e r) _ 1
  · exact (sameRegs_regs _ (gResent_regs s e r)).trans (sameRegs_addCtr_mem (List.mem_singleton_self _) _ 1)
  · exact fun a => byte_mem (s := s) (t := gResent s e r) (gResent_mem s e r) a
  · exact sameCores_of_cores _ (gResent_cores s e r)

/-! ### Reception (R20-R22) -/

section
variable (x : GEnd) (q m : Nat)

/-- An acknowledgement speaks of the replay buffer only. -/
theorem gAck_eq : gAck x q m = { x with replay := (gAck x q m).replay } := by
  unfold gAck
  dsimp only
  split <;> rfl

end

/-- An end after the acknowledgement that a flit carries. -/
def gAcked (x : GEnd) (h : GHdr) : GEnd := if h.ackValid then gAck x h.ackSeq h.sack else x

theorem gAcked_eq (x : GEnd) (h : GHdr) : gAcked x h = { x with replay := (gAcked x h).replay } := by
  unfold gAcked
  split
  · exact gAck_eq ..
  · rfl

/-- An end takes a flit with a good CRC, unless it is late or is held already (R20-R22). -/
def gTake (x : GEnd) (h : GHdr) (f : GFlit) : GEnd :=
  let x := gAcked x h
  let new := subMod 10 h.seq x.rxNext < 512 && !x.held.any (fun p => p.1 = h.seq)
  let x := { x with anyRx := true }
  if new then { x with cred := setNth x.cred h.credCls (nth 0 x.cred h.credCls + h.credRet), held := x.held ++ [(h.seq, f)] } else x

section
variable (x : GEnd) (h : GHdr) (f : GFlit)

/-- Taking a flit speaks of what is held, of credit and of the acknowledgement. -/
theorem gTake_kept : (gTake x h f).wire = x.wire ∧ (gTake x h f).txq = x.txq ∧ (gTake x h f).moved = x.moved ∧ (gTake x h f).rxNext = x.rxNext := by
  unfold gTake
  rw [gAcked_eq]
  dsimp only
  split <;> exact ⟨rfl, rfl, rfl, rfl⟩

/-- The flit expected next is new to an end that holds nothing. -/
theorem gTake_held (hheld : x.held = []) (hseq : h.seq = x.rxNext) : (gTake x h f).held = [(h.seq, f)] := by
  have hdist : subMod 10 h.seq x.rxNext < 512 := by
    rw [hseq]
    unfold subMod
    omega
  unfold gTake
  rw [gAcked_eq]
  dsimp only
  rw [hheld, if_pos (by simp [hdist])]
  rfl

end

/-- Where a flit goes on, nothing but what waits to be sent changes. -/
theorem gOffer_gend (s : State) (loc : Nat) (f : GFlit) (i : Nat) :
    (gOffer s loc f).gend i = if i = (gRoute s loc f.cls f.way).1 then
      { s.gend i with txq := (s.gend i).txq ++ [{ f with way := (gRoute s loc f.cls f.way).2 }] } else s.gend i := by
  unfold gOffer
  rw [State.gend_modGend]
  split
  case isTrue h => rw [← h]
  case isFalse h => rfl

/-- What a flit that arrives leaves as it is at every end: what it holds, what it expects and its wire. -/
theorem gArrive_kept (s : State) (e : Nat) (f : GFlit) (i : Nat) : ((gArrive s e f).gend i).held = (s.gend i).held ∧
    ((gArrive s e f).gend i).rxNext = (s.gend i).rxNext ∧ ((gArrive s e f).gend i).wire = (s.gend i).wire := by
  unfold gArrive
  split
  · exact ⟨rfl, rfl, rfl⟩
  · rw [gOffer_gend]
    split <;> exact ⟨rfl, rfl, rfl⟩

theorem gArrive_regs (s : State) (e : Nat) (f : GFlit) : (gArrive s e f).regs = s.regs := by
  unfold gArrive
  split <;> rfl

theorem gArrive_mem (s : State) (e : Nat) (f : GFlit) : (gArrive s e f).mem = s.mem := by
  unfold gArrive
  split <;> rfl

theorem gArrive_cores (s : State) (e : Nat) (f : GFlit) : (gArrive s e f).cores = s.cores := by
  unfold gArrive
  split <;> rfl

theorem gDeliver_idle (n : Nat) {s : State} {e : Nat} (h : (s.gend e).held = []) : gDeliver n s e = s := by
  cases n with
  | zero => rfl
  | succ n => simp only [gDeliver, h, List.find?_nil]

/-- An end after it has passed on the one flit it held. -/
def gPassed (x : GEnd) (q : Nat) (f : GFlit) : GEnd :=
  { x with held := [], rxNext := (q + 1) % 1024, owed := setNth x.owed f.cls (nth 0 x.owed f.cls + 1) }

/-- The flit expected next is passed on, and no other is held. -/
theorem gDeliver_one (n : Nat) {s : State} {e q : Nat} {f : GFlit} (h : (s.gend e).held = [(q, f)]) (hq : q = (s.gend e).rxNext) :
    gDeliver (n + 1) s e = gArrive (s.setGend e (gPassed (s.gend e) q f)) e f := by
  have hnone (t : State) (ht : (t.gend e).held = []) : gDeliver n t e = t := gDeliver_idle n ht
  simp only [gDeliver, h]
  rw [List.find?_cons_of_pos (by simpa using hq)]
  simp only [List.filter_cons, ne_eq, not_true, decide_false, if_false, List.filter_nil, Bool.false_eq_true]
  rw [hnone]
  · rfl
  · rw [(gArrive_kept _ e f e).1, State.gend_setGend, if_pos rfl]

section
variable {flip : Nat} {w : List Byte} {way : GDest} {rest : List (List Byte × GDest)}

/-- The flit that comes next on the wire, with what line errors have changed in it. -/
def gIncoming (w : List Byte) (flip : Nat) : List Byte := leBytes 128 (leNat w ^^^ flip)
/-- The header of a flit. -/
def gHdrIn (fl : List Byte) : GHdr := gHdrOf (leNat (fl.take 8)) (leNat ((fl.drop 120).take 4))
/-- What a flit carries. -/
def gFlitIn (fl : List Byte) (way : GDest) : GFlit := ⟨(gHdrIn fl).cls, (gHdrIn fl).tag, (fl.drop 8).take (16 * (gHdrIn fl).len), way⟩
/-- The end that has taken a flit from its wire. -/
def gGot (s : State) (e : Nat) (fl : List Byte) (way : GDest) (rest : List (List Byte × GDest)) : GEnd :=
  gTake { s.gend e with wire := rest } (gHdrIn fl) (gFlitIn fl way)

/-- A flit with a good CRC is taken, and what is now in order is passed on. -/
theorem exec_girthFlitReceive_good (hwire : (s.gend e).wire = (w, way) :: rest) (hup : gUp s e = true)
    (hon : pdState s (e / 4) (42 + gPort e) = 0) (hcrc : gCrcOk (gIncoming w flip) = true) :
    exec (.girthFlitReceive e flip) s = .next (ended s (gDeliver 512
      ((s.modGend e (fun x => { x with wire := rest })).setGend e (gGot s e (gIncoming w flip) way rest)) e)) := by
  have hs1 : (s.modGend e (fun x => { x with wire := rest })).gend e = { s.gend e with wire := rest } := by simp
  have hup1 : gUp (s.modGend e (fun x => { x with wire := rest })) e = true := (gUp_regs rfl e).trans hup
  show execGirthFlitReceive e flip s = _
  unfold execGirthFlitReceive
  rw [done_eq, hwire]
  dsimp only
  rw [needOn_on _ _ _ (by simpa using hon), hup1, show leBytes 128 (leNat w ^^^ flip) = gIncoming w flip from rfl, hcrc,
    hs1]
  simp only [Bool.not_true, Bool.false_eq_true, if_false]
  rfl

/-- A flit that is the one expected is passed on (R20, R21). -/
theorem exec_girthFlitReceive_next (hwire : (s.gend e).wire = (w, way) :: rest) (hup : gUp s e = true)
    (hon : pdState s (e / 4) (42 + gPort e) = 0) (hheld : (s.gend e).held = []) (hcrc : gCrcOk (gIncoming w flip) = true)
    (hseq : (gHdrIn (gIncoming w flip)).seq = (s.gend e).rxNext) :
    ∃ u : State, exec (.girthFlitReceive e flip) s = .next (ended s (gArrive u e (gFlitIn (gIncoming w flip) way))) ∧
      u.regs = s.regs ∧ u.mem = s.mem ∧ u.cores = s.cores ∧ u.outbox = s.outbox ∧
      (∀ i, (u.gend i).txq = (s.gend i).txq ∧ (u.gend i).moved = (s.gend i).moved) ∧
      (u.gend e).held = [] ∧ (u.gend e).wire = rest ∧ (u.gend e).rxNext = ((gHdrIn (gIncoming w flip)).seq + 1) % 1024 := by
  let fl := gIncoming w flip
  let x := gGot s e fl way rest
  let s1 := (s.modGend e (fun x => { x with wire := rest })).setGend e x
  let u := s1.setGend e (gPassed x (gHdrIn fl).seq (gFlitIn fl way))
  obtain ⟨hxwire, hxtxq, hxmoved, hxnext⟩ := gTake_kept { s.gend e with wire := rest } (gHdrIn fl) (gFlitIn fl way)
  have hx : s1.gend e = x := by simp [s1]
  have hxheld : x.held = [((gHdrIn fl).seq, gFlitIn fl way)] := gTake_held _ _ _ hheld hseq
  have hstep := gDeliver_one 511 (hx.symm ▸ hxheld) (hseq.trans (hxnext.symm.trans (congrArg GEnd.rxNext hx.symm)))
  rw [hx] at hstep
  have hu : u.gend e = gPassed x (gHdrIn fl).seq (gFlitIn fl way) := by simp [u]
  refine ⟨u, ?_, rfl, rfl, rfl, rfl, fun i => ?_, ?_, ?_, ?_⟩
  · rw [exec_girthFlitReceive_good hwire hup hon hcrc]
    exact congrArg (fun t => Host.Outcome.next (ended s t)) hstep
  · by_cases hi : i = e
    · subst hi
      rw [hu]
      exact ⟨hxtxq, hxmoved⟩
    · rw [show u.gend i = s.gend i by simp [u, s1, hi]]
      exact ⟨rfl, rfl⟩
  · rw [hu]
    rfl
  · rw [hu]
    exact hxwire
  · rw [hu]
    rfl

theorem receive_next (hwire : (s.gend e).wire = (w, way) :: rest) (hup : gUp s e = true)
    (hon : pdState s (e / 4) (42 + gPort e) = 0) (hheld : (s.gend e).held = []) :
    let fl := leBytes 128 (leNat w ^^^ flip)
    let h := gHdrOf (leNat (fl.take 8)) (leNat ((fl.drop 120).take 4))
    let data := (fl.drop 8).take (16 * h.len)
    let r := gRoute s (gLoc e) h.cls way
    gCrcOk fl = true → h.seq = (s.gend e).rxNext →
    ∃ t, exec (.girthFlitReceive e flip) s = .next t ∧
      (way.dst = gLoc e → t.outbox = s.outbox ++ [.girth e h.cls h.tag data] ∧ ∀ i, (t.gend i).txq = (s.gend i).txq) ∧
      (way.dst ≠ gLoc e → t.outbox = s.outbox ∧ (t.gend r.1).txq = (s.gend r.1).txq ++ [⟨h.cls, h.tag, data, r.2⟩]) ∧
      (t.gend e).rxNext = (h.seq + 1) % 1024 ∧ (t.gend e).wire = rest ∧ (t.gend e).held = [] ∧ SameRegs [] s t ∧ SameMem s t ∧
      SameCores [] s t := by
  intro fl h data r hcrc hseq
  let f : GFlit := gFlitIn fl way
  obtain ⟨u, hexec, hregs, hmem, hcores, hout, hends, huheld, huwire, hunext⟩ := exec_girthFlitReceive_next hwire hup hon hheld hcrc hseq
  obtain ⟨hheld', hnext', hwire'⟩ := gArrive_kept u e f e
  have hroute : gRoute u (gLoc e) f.cls f.way = r := gRoute_congr hregs (fun i => (hends i).2) ..
  refine ⟨_, hexec, fun hhere => ?_, fun hthere => ?_, hnext'.trans hunext, hwire'.trans huwire, hheld'.trans huheld,
    sameRegs_regs _ ((gArrive_regs u e f).trans hregs), fun a => byte_mem (s := s) (t := gArrive u e f) ((gArrive_mem u e f).trans hmem) a,
    sameCores_of_cores _ ((gArrive_cores u e f).trans hcores)⟩
  · have harrive : gArrive u e f = u.emit (.girth e f.cls f.tag f.payload) := if_pos hhere
    rw [show gArrive u e (gFlitIn (gIncoming w flip) way) = _ from harrive]
    refine ⟨?_, fun i => (hends i).1⟩
    show u.outbox ++ _ = _
    rw [hout]
    rfl
  · have harrive : gArrive u e f = gOffer u (gLoc e) f := if_neg hthere
    rw [show gArrive u e (gFlitIn (gIncoming w flip) way) = _ from harrive]
    refine ⟨hout, (congrArg GEnd.txq (gOffer_gend u (gLoc e) f r.1)).trans ?_⟩
    rw [hroute, if_pos rfl]
    show (u.gend r.1).txq ++ _ = _
    rw [(hends r.1).1]
    rfl

/-- A flit with a bad CRC is dropped and counted (R20). -/
theorem exec_girthFlitReceive_badCrc {w : List Byte × GDest} (hwire : (s.gend e).wire = w :: rest) (hup : gUp s e = true)
    (hon : pdState s (e / 4) (42 + gPort e) = 0) (hcrc : gCrcOk (leBytes 128 (leNat w.1 ^^^ flip)) = false) :
    exec (.girthFlitReceive e flip) s =
      .next (ended s ((s.modGend e (fun x => { x with wire := rest })).addCtr (rGirth e 0x20) 1)) := by
  have hup1 : gUp (s.modGend e (fun x => { x with wire := rest })) e = true := (gUp_regs rfl e).trans hup
  show execGirthFlitReceive e flip s = _
  unfold execGirthFlitReceive
  rw [done_eq, hwire]
  dsimp only
  rw [needOn_on _ _ _ (by simpa using hon), hup1, hcrc]
  simp only [Bool.not_true, Bool.not_false, Bool.false_eq_true, if_false, if_true]

end

theorem exec_girthAckTimeout (s : State) {e : Nat} (he : e < 32) : exec (.girthAckTimeout e) s =
    .next (ended s (s.modGend e (fun x => { x with replay := x.replay.map (fun r => { r with due := true }) }))) := by
  show execGirthAckTimeout e s = _
  unfold execGirthAckTimeout
  rw [done_eq, if_pos he]

theorem exec_girthReplayLimit {r : GEntry} (hlimit : (s.gend e).replay.find? (fun r => 32 ≤ r.resends) = some r) (hup : gUp s e = true) :
    exec (.girthReplayLimit e) s = .next (ended s (gRetrain (gRaise s e .replayLimit 5 [gPort e, r.seq]) e)) := by
  show execGirthReplayLimit e s = _
  unfold execGirthReplayLimit
  rw [done_eq, hlimit]
  exact congrArg (fun t => Host.Outcome.next (ended s t)) (if_pos hup)

/-- Settles O10: the transmitter and the receiver by what each leaves at the two ends of the link, where a flit that is expected next is the
only one held and so the only one passed on. -/
theorem girthTraffic : Obligations.GirthTraffic :=
  ⟨fun _ _ _ _ he hup htrain hret hretf hon hreplay htxq hok hroute hstay hcred hfeat =>
      transmit_offer ⟨he, hup, htrain, hret, hretf, hon⟩ hreplay htxq hok hroute hstay hcred hfeat,
    fun _ _ _ he hup htrain hret hretf hon hdue => transmit_resend ⟨he, hup, htrain, hret, hretf, hon⟩ hdue,
    fun _ _ _ _ _ _ hwire _ hup hon hheld => receive_next hwire hup hon hheld,
    fun _ _ _ _ _ hwire _ hup hon hcrc => exec_girthFlitReceive_badCrc hwire hup hon hcrc,
    fun s _ he => exec_girthAckTimeout s he,
    fun _ _ _ hlimit hup => exec_girthReplayLimit hlimit hup⟩

end Sys2Proof.Machine
end

section
/-! Girth lanes: training, failures, spares, retired groups and the reroute release (R24-R29). -/
namespace Sys2Proof.Machine

variable {s : State} {e : Nat}

/-! ### What the shared operations leave at the ends -/

/-- Trace records leave the ends of the links as they are. -/
theorem ringKeeps_girth (s : State) : RingKeeps (fun t => t.girth = s.girth) where
  counter _ _ _ _ h := (State.addCtr_girth ..).trans h
  poisonRead _ _ h := (State.addCtr_girth ..).trans h
  lines _ _ _ h := h
  wake _ _ _ _ h := (wakeNow_girth ..).trans h
  mem _ _ _ _ _ _ h := h
  lost _ _ _ h := (State.addCtr_girth ..).trans ((State.raise_girth ..).trans h)
  lostMore _ _ _ h := (State.addCtr_girth ..).trans h
  produced _ _ _ _ h := (State.setF_girth ..).trans h

/-- What a margining run that ends changes: its status register, and one source raised. -/
def marginEnded (s : State) (synd : Nat) : State := (s.setF marginBase 25 2 3).raise .marginAbort 0 synd

theorem marginEnded_girth (s : State) (y : Nat) : (marginEnded s y).girth = s.girth := (State.raise_girth ..).trans (State.setF_girth ..)
theorem marginEnded_evNo (s : State) (y : Nat) : (marginEnded s y).evNo = s.evNo := (State.raise_evNo ..).trans (State.setF_evNo ..)

theorem marginHit_cases (s : State) (e : Nat) (hit : Nat → Nat → Bool) : marginHit s e hit = s ∨ ∃ y, marginHit s e hit = marginEnded s y := by
  unfold marginHit marginEnded
  dsimp only
  split
  · exact .inr ⟨_, rfl⟩
  · exact .inl rfl

theorem marginHit_girth (s : State) (e : Nat) (hit : Nat → Nat → Bool) : (marginHit s e hit).girth = s.girth := by
  obtain h | ⟨y, h⟩ := marginHit_cases s e hit
  · rw [h]
  · rw [h, marginEnded_girth]

theorem marginHit_evNo (s : State) (e : Nat) (hit : Nat → Nat → Bool) : (marginHit s e hit).evNo = s.evNo := by
  obtain h | ⟨y, h⟩ := marginHit_cases s e hit
  · rw [h]
  · rw [h, marginEnded_evNo]

theorem gRaise_girth (s : State) (e : Nat) (src : FaultSrc) (i : Nat) (l : List Nat) : (gRaise s e src i l).girth = s.girth := by
  unfold gRaise
  dsimp only
  split
  · rw [State.raise_girth, State.raise_girth]
  · rw [State.raise_girth]

theorem gRaise_regs (s : State) (e : Nat) (src : FaultSrc) (i : Nat) (l : List Nat) : (gRaise s e src i l).regs = s.regs := by
  unfold gRaise
  dsimp only
  split
  · rw [State.raise_regs, State.raise_regs]
  · rw [State.raise_regs]

/-- The source is among what a Girth event raises. -/
theorem mem_gRaise (s : State) (e : Nat) (src : FaultSrc) (i : Nat) (l : List Nat) :
    ∃ r ∈ (gRaise s e src i l).raises, r.cls = src.at.1 ∧ r.inst = 4 * (e / 4) + gPort e ∧ r.idx = src.at.2 ∧ r.ev = s.evNo := by
  refine ⟨⟨src.at.1, 4 * (e / 4) + gPort e, src.at.2, (Config.girthSynd i l).toNat % 2 ^ 64, s.evNo, []⟩, ?_, rfl, rfl, rfl, rfl⟩
  unfold gRaise
  dsimp only
  split
  · rw [State.raise_raises, State.raise_raises]
    exact List.mem_append_left _ (List.mem_append_right _ (List.mem_singleton_self _))
  · rw [State.raise_raises]
    exact List.mem_append_right _ (List.mem_singleton_self _)

/-- The margining runs of both ends, on a link that goes down. -/
def marginsOver (s : State) (e : Nat) (b : Bool) : State :=
  if b then s else marginHit (marginHit s e (fun _ _ => true)) (farEnd e) (fun _ _ => true)

theorem marginsOver_girth (s : State) (e : Nat) (b : Bool) : (marginsOver s e b).girth = s.girth := by
  unfold marginsOver
  split
  · rfl
  · rw [marginHit_girth, marginHit_girth]

theorem setLinkUp_eq (s : State) (e : Nat) (b : Bool) : setLinkUp s e b = if gUp s e = b then s
    else glintLink ((marginsOver s e b).setB (rGirth e 0) 0 b) 3 (4 * (e / 4) + gPort e) (0x80 + b2n b) 0 := rfl

theorem setLinkUp_girth (s : State) (e : Nat) (b : Bool) : (setLinkUp s e b).girth = s.girth := by
  rw [setLinkUp_eq]
  split
  · rfl
  · exact (ringKeeps_girth s).glintLink _ _ _ _ ((State.setB_girth ..).trans (marginsOver_girth s e b))

/-! ### Training (R23, R29) -/

/-- The groups an end has left. -/
def groupsLeft (s : State) (e : Nat) : Nat := 16 - ((upto 16).filter (fun g => gRetired s e g)).length

/-- The register of a port whose training has ended, before the link is up. -/
def gWidth (s : State) (e : Nat) : State :=
  (s.setF (rGirth e 0) 8 5 (groupsLeft s e)).setB (rGirth e 0) 1 (groupsLeft s e < 12)

theorem gTrained_eq (s : State) (e : Nat) : gTrained s e = (setLinkUp (gWidth s e) e true).modGend e (fun x =>
    { x with training := false, replay := x.replay.map (fun r => { r with due := true, resends := 0 }) }) := rfl

theorem gTrained_gend (s : State) (e : Nat) : ((gTrained s e).gend e).training = false ∧ ∀ r ∈ ((gTrained s e).gend e).replay, r.due = true := by
  rw [gTrained_eq, State.gend_modGend, if_pos rfl]
  refine ⟨rfl, fun r hr => ?_⟩
  obtain ⟨y, -, rfl⟩ := List.mem_map.mp hr
  rfl

theorem rRing_ne_rGirth {r : Nat} (hr : r < 8) (o e p : Nat) (ho : o < 0x20) : rRing r o ≠ rGirth e p := by
  have := le_rGirth e p
  unfold rRing glintBase
  omega

/-- A link that comes up, where no ring takes LINK records, sets one bit. -/
theorem setLinkUp_silent (h : ∀ r, r < 8 → ringTakes s r 1 none = false) (hdown : gUp s e = false) :
    setLinkUp s e true = s.setB (rGirth e 0) 0 true := by
  unfold setLinkUp
  rw [hdown, if_neg (by decide), if_pos rfl]
  exact glint_silent (fun r hr => (ringTakes_congr (State.rd_setB_other _ _ _ _ _ (rRing_ne_rGirth hr 8 e 0 (by decide)))).trans (h r hr)) _

theorem gActive_gWidth (s : State) (e : Nat) : gActive (gWidth s e) e = groupsLeft s e := by
  unfold gActive gWidth
  rw [State.f_setB_apart _ _ _ _ _ _ (by decide) (by decide), State.f_setF_same _ _ _ _ _ (by decide)]
  exact Nat.mod_eq_of_lt (by unfold groupsLeft; omega)

theorem gTrained_up (he : e < 32) (h : ∀ r, r < 8 → ringTakes s r 1 none = false) :
    gUp (gTrained s e) e = true ∧ gActive (gTrained s e) e = groupsLeft s e := by
  have hregs : (gTrained s e).regs = (setLinkUp (gWidth s e) e true).regs := rfl
  rw [gUp_regs hregs, show gActive (gTrained s e) e = gActive (setLinkUp (gWidth s e) e true) e from f_regs hregs ..]
  have hsilent (r : Nat) (hr : r < 8) : ringTakes (gWidth s e) r 1 none = false := by
    refine (ringTakes_congr ?_).trans (h r hr)
    have hne := rRing_ne_rGirth hr 8 e 0 (by decide)
    exact (State.rd_setB_other _ _ _ _ _ hne).trans (State.rd_setF_other _ _ _ _ _ _ hne)
  cases hup : gUp (gWidth s e) e
  case true =>
    rw [show setLinkUp (gWidth s e) e true = gWidth s e from if_pos hup]
    exact ⟨hup, gActive_gWidth s e⟩
  case false =>
    rw [setLinkUp_silent hsilent hup]
    have hbit : ((gWidth s e).setB (rGirth e 0) 0 true).fb (rGirth e 0) 0 = true := State.fb_setB_same _ _ _ _ (by decide)
    refine ⟨by rw [gUp, decide_eq_true he, hbit]; rfl, ?_⟩
    exact (State.f_setB_apart _ _ _ _ _ _ (by decide) (by decide)).trans (gActive_gWidth s e)

theorem exec_girthRetrainDone (he : e < 32) (hdown : gUp s e = false)
    (hable : ∀ x ∈ [e, farEnd e], 1 ≤ dieState s (x / 4) ∧ ∃ g, g < 16 ∧ gRetired s x g = false) (hfeat : gPort e = 2 ∨ s.boot.featSet = true) :
    exec (.girthRetrainDone e) s = .next (ended s (gTrained (gTrained s e) (farEnd e))) := by
  have hends (x : Nat) (hx : x ∈ [e, farEnd e]) :
      (decide (1 ≤ dieState s (x / 4)) && (upto 16).any (fun g => !gRetired s x g)) = true := by
    obtain ⟨hdie, g, hg, hret⟩ := hable x hx
    rw [decide_eq_true hdie, Bool.true_and, List.any_eq_true]
    exact ⟨g, mem_upto hg, by rw [hret]; rfl⟩
  have hpower : (decide (gPort e ≠ 2) && !s.boot.featSet) = false := by
    rcases hfeat with hport | hset
    · simp [hport]
    · simp [hset]
  show execGirthRetrainDone e s = _
  unfold execGirthRetrainDone
  extract_lets f able
  have habe : able e = true := hends e (by simp)
  have habf : able f = true := hends f (by simp [f])
  rw [habe, habf, hdown, hpower, decide_eq_true he, done_eq]
  rfl

/-! ### Lane failures (R24-R27) -/

theorem exec_girthLaneFail {g lane : Nat} (he : e < 32) (hg : g < 16) (hlane : lane < 66) (hup : gUp s e = true) (hret : gRetired s e g = false) :
    exec (.girthLaneFail e g lane) s = .next (ended s (s.modGend e (fun x =>
      if x.fails.contains (g, lane) then x else { x with fails := x.fails ++ [(g, lane)] }))) := by
  show execGirthLaneFail e g lane s = _
  unfold execGirthLaneFail
  rw [decide_eq_true he, decide_eq_false (Nat.not_le.mpr hg), decide_eq_false (Nat.not_le.mpr hlane), hup, hret, done_eq]
  rfl

/-- What LANE_SPARED leaves, before its event: the failure is over and one spare more is in use. -/
def spareTaken (s : State) (e g lane : Nat) (rest : List (Nat × Nat)) : State :=
  (marginHit (s.modGend e (fun x => { x with fails := rest })) e (fun h l => h = g && l = lane)).setF (rGirth e 0) (32 + 2 * g) 2 (gSpares s e g + 1)

theorem spareTaken_gend (s : State) (e g lane : Nat) (rest : List (Nat × Nat)) :
    (spareTaken s e g lane rest).gend e = { s.gend e with fails := rest } := by
  refine (gend_girth ((State.setF_girth ..).trans (marginHit_girth ..)) e).trans ?_
  rw [State.gend_modGend, if_pos rfl]

theorem spareTaken_evNo (s : State) (e g lane : Nat) (rest : List (Nat × Nat)) : (spareTaken s e g lane rest).evNo = s.evNo :=
  (State.setF_evNo ..).trans (marginHit_evNo ..)

theorem spareTaken_frame (s : State) (e g lane : Nat) (rest : List (Nat × Nat)) : LinkFrame s (spareTaken s e g lane rest) :=
  ((LinkFrame.modGend ..).trans (LinkFrame.marginHit ..)).trans (LinkFrame.setF ..)

theorem gSpares_spareTaken {g : Nat} (hg : g < 16) (hfree : gSpares s e g < 2) (lane : Nat) (rest : List (Nat × Nat)) :
    gSpares (spareTaken s e g lane rest) e g = gSpares s e g + 1 :=
  (State.f_setF_same _ _ _ _ _ (by omega)).trans (Nat.mod_eq_of_lt (by omega))

theorem exec_laneSpared {g lane : Nat} {rest : List (Nat × Nat)} (hfails : (s.gend e).fails = (g, lane) :: rest) (hfree : gSpares s e g < 2) :
    exec (.laneSpared e) s = .next (ended s (gRaise (spareTaken s e g lane rest) e .girthLaneSpared 0 [gPort e, g, lane, gSpares s e g])) := by
  show execLaneSpared e s = _
  unfold execLaneSpared
  rw [hfails, done_eq]
  dsimp only
  rw [if_neg (Nat.not_le.mpr hfree)]
  rfl

theorem laneSpared_effect {g lane : Nat} {rest : List (Nat × Nat)} (hg : g < 16) (hfails : (s.gend e).fails = (g, lane) :: rest)
    (hfree : gSpares s e g < 2) :
    ∃ t, exec (.laneSpared e) s = .next t ∧ (t.gend e).fails = rest ∧ gSpares t e g = gSpares s e g + 1 ∧ (t.gend e).replay = (s.gend e).replay ∧
      (t.gend e).txq = (s.gend e).txq ∧ SameMem s t ∧ SameCores [] s t ∧
      ∃ r ∈ t.raises, r.cls = (FaultSrc.girthLaneSpared).at.1 ∧ r.inst = 4 * (e / 4) + gPort e ∧ r.idx = (FaultSrc.girthLaneSpared).at.2 ∧
        r.ev = s.evNo := by
  let u := spareTaken s e g lane rest
  let t := gRaise u e .girthLaneSpared 0 [gPort e, g, lane, gSpares s e g]
  have hgend : t.gend e = { s.gend e with fails := rest } := (gend_girth (gRaise_girth ..) e).trans (spareTaken_gend ..)
  have hframe : LinkFrame s t := (spareTaken_frame ..).trans (LinkFrame.gRaise ..)
  obtain ⟨r, hr, hcls, hinst, hidx, hev⟩ := mem_gRaise u e .girthLaneSpared 0 [gPort e, g, lane, gSpares s e g]
  refine ⟨ended s t, exec_laneSpared hfails hfree, congrArg GEnd.fails hgend, ?_, (congrArg GEnd.replay hgend).trans rfl,
    (congrArg GEnd.txq hgend).trans rfl, fun a => byte_mem (s := s) (t := t) hframe.mem a, sameCores_of_cores _ hframe.cores,
    r, hr, hcls, hinst, hidx, hev.trans (spareTaken_evNo ..)⟩
  exact (f_regs (s := u) (gRaise_regs ..) ..).trans (gSpares_spareTaken hg hfree lane rest)

/-- What GROUP_RETIRED leaves before the port may be degraded or down. -/
def groupGone (s : State) (e g n : Nat) : State :=
  gRaise (((marginHit (s.modGend e (fun x => { x with fails := x.fails.filter (fun p => p.1 ≠ g) })) e (fun h _ => h = g)).setB
    (rGirth e 0) (16 + g) true).setF (rGirth e 0) 8 5 n) e .groupRetired 1 [gPort e, g, n]

theorem exec_groupRetired {g lane n : Nat} {rest : List (Nat × Nat)} (hfails : (s.gend e).fails = (g, lane) :: rest) (hused : 2 ≤ gSpares s e g)
    (hleft : gActive s e = n + 1) :
    exec (.groupRetired e) s = .next (ended s
      (let v := if n = 11 then gRaise ((groupGone s e g n).setB (rGirth e 0) 1 true) e .portDegraded 2 [gPort e, n] else groupGone s e g n
      if n = 0 then isolateCheck (gRaise (setLinkUp (setLinkUp v e false) (farEnd e) false) e .portDown 3 [gPort e]) e else v)) := by
  show execGroupRetired e s = _
  unfold execGroupRetired
  rw [hfails, done_eq]
  dsimp only
  rw [if_neg (Nat.not_lt.mpr hused), hleft]
  rfl

/-! ### The reroute release (R27, R28) -/

theorem exec_reroute_narrow (he : e < 32) (hdeg : s.fb (rGirth e 0) 1 = true) (hnear : gDead s e = false) (hfar : gDead s (farEnd e) = false)
    (hempty : (s.gend e).replay = []) : exec (.girthRerouteRelease e) s = .next (ended s (gRelease s e [] 1)) := by
  show execGirthRerouteRelease e s = _
  unfold execGirthRerouteRelease
  dsimp only
  rw [hdeg, hnear, hfar, decide_eq_true he, hempty, done_eq]
  rfl

theorem exec_reroute_down (he : e < 32) (hdeg : s.fb (rGirth e 0) 1 = true) (hdead : gDead s e = true ∨ gDead s (farEnd e) = true) :
    exec (.girthRerouteRelease e) s = .next (ended s (gRelease (s.modGend e (fun x => { x with replay := [] })) e
      (((s.gend e).replay.filter (fun r => subMod 10 r.seq (s.gend (farEnd e)).rxNext < 512)).map (fun r => r.fl)) 2)) := by
  have hdead' : (gDead s e || gDead s (farEnd e)) = true := Bool.or_eq_true_iff.mpr hdead
  show execGirthRerouteRelease e s = _
  unfold execGirthRerouteRelease
  rw [hdeg, hdead', decide_eq_true he, done_eq]
  rfl

/-- Traffic that goes on changes no register, and nothing of what an end has released. -/
theorem gOffers_kept (s : State) (e : Nat) (f : GFlit → GFlit) (l : List GFlit) :
    (l.foldl (fun t x => gOffer t (gLoc e) (f x)) s).regs = s.regs ∧
      ∀ i, ((l.foldl (fun t x => gOffer t (gLoc e) (f x)) s).gend i).moved = (s.gend i).moved := by
  refine List.foldlRecOn _ _ (motive := fun t : State => t.regs = s.regs ∧ ∀ i, (t.gend i).moved = (s.gend i).moved) ⟨rfl, fun _ => rfl⟩ ?_
  rintro t ⟨hregs, hmoved⟩ x -
  refine ⟨hregs, fun i => ?_⟩
  rw [gOffer_gend]
  split <;> exact hmoved i

theorem gRelease_kept (s : State) (e k : Nat) (old : List GFlit) : (gRelease s e old k).fb (rGirth e 0) 2 = true ∧
    ((gRelease s e old k).gend e).moved = k ∧ SameRegs [rGirth e 0] s (gRelease s e old k) ∧ SameMem s (gRelease s e old k) ∧
    SameCores [] s (gRelease s e old k) := by
  have hframe := LinkFrame.gRelease s e old k
  obtain ⟨hregs, hmoved⟩ := gOffers_kept
    (((s.setB (rGirth e 0) 2 true).modGend e (fun x => { x with moved := k })).modGend e (fun x => { x with
      txq := x.txq.filter (fun f => !gShould ((s.setB (rGirth e 0) 2 true).modGend e (fun x => { x with moved := k })) e f.cls f.way) })) e
    (fun f => { f with way := { f.way with leg := if f.way.leg = 1 then 1 else 0 } })
    (old ++ (((s.setB (rGirth e 0) 2 true).modGend e (fun x => { x with moved := k })).gend e).txq.filter
      (fun f => gShould ((s.setB (rGirth e 0) 2 true).modGend e (fun x => { x with moved := k })) e f.cls f.way))
  have hreg : (gRelease s e old k).regs = (s.setB (rGirth e 0) 2 true).regs := hregs
  refine ⟨(fb_regs hreg ..).trans (State.fb_setB_same _ _ _ _ (by decide)), (hmoved e).trans ?_, fun r hr => ?_,
    fun a => byte_mem (s := s) hframe.mem a, sameCores_of_cores _ hframe.cores⟩
  · simp only [State.gend_modGend, if_true]
  · rw [rd_regs hreg, State.rd_setB_other _ _ _ _ _ (by simpa using hr)]

/-- Settles O11: each command by the one branch it takes, and what training and a release leave at their port. -/
theorem girthLinkRecovery : Obligations.GirthLinkRecovery := by
  refine ⟨fun s e he hdown hable hfeat => exec_girthRetrainDone he hdown hable hfeat,
    fun s e he => ⟨(gTrained_gend s e).1, (gTrained_gend s e).2, fun h => gTrained_up he h⟩,
    fun s e g lane he hg hlane hup hret => exec_girthLaneFail he hg hlane hup hret,
    fun s e g lane rest _ hg hfails hfree => laneSpared_effect hg hfails hfree,
    fun s e g lane n rest hfails hused hleft => ?_,
    fun s e he hdeg => ⟨fun hnear hfar hempty => exec_reroute_narrow he hdeg hnear hfar hempty, fun hdead => exec_reroute_down he hdeg hdead⟩,
    fun s e k old => gRelease_kept s e k old⟩
  intro u v
  have hv : groupGone s e g n = v := rfl
  rw [exec_groupRetired hfails hused hleft, hv]
  refine ⟨fun h0 h11 => ?_, fun h11 => ?_, fun h0 => ?_⟩
  · rw [if_neg h0, if_neg h11]
  · rw [if_neg (by omega), if_pos h11]
  · rw [if_pos h0, if_neg (by omega)]

end Sys2Proof.Machine
end

section
/-! Flits of Wenlyn ports: transmission and reception (R285, R287, R288, R293, R294, R303). -/
namespace Sys2Proof.Machine

variable {s : State} {p : Nat}

/-! ### Sending a flit -/

/-- The credit that a flit carries changes only what a port knows of credit. -/
theorem credOut_eq (s : State) (p : Nat) (x : WPort) : (credOut s p x).2 =
    { x with retd := (credOut s p x).2.retd, retHist := (credOut s p x).2.retHist, credOwed := (credOut s p x).2.credOwed } := by
  unfold credOut
  split <;> rfl

/-- The header of a flit that a port sends, where Awl injects nothing. -/
def sentHdr (s : State) (p : Nat) (f : Option (Nat × Bool × WFlit)) : WHdr :=
  let x := s.wport p
  let cr := (credOut s p x).1
  let h0 : WHdr :=
    { seq := 0, vc := 0, ackValid := x.anyRx, ackSeq := if x.anyRx then (x.rxNext + 4095) % 4096 else 0, typ := 1, som := false, eom := false
      len8 := 0, retx := false, credValid := cr.isSome, credVc := (cr.getD (0, 0)).1, credRet := (cr.getD (0, 0)).2, ttl := 0, resv := 0
      src := ownPkg s, dst := s.f (wenBase p + 0x48) 0 12, tag := 0, reqId := 0 }
  match f with
  | none => h0
  | some (q, re, w) => { h0 with
      seq := q, vc := w.vc, typ := 0, som := w.som, eom := w.eom, len8 := w.len8, retx := re, ttl := w.ttl, src := w.src, dst := w.dst
      tag := w.tag, reqId := w.reqId }

/-- What such a flit carries. -/
def sentPayload (f : Option (Nat × Bool × WFlit)) : List Byte := match f with | none => [] | some (_, _, w) => w.payload

/-- The trailer of such a flit. -/
def sentTrailer (s : State) (p : Nat) : Nat :=
  if (s.wport p).anyRx then ackTrailer (credOut s p (s.wport p)).2 else 0

/-- The port after it: nothing is owed. -/
def sentPort (s : State) (p : Nat) : WPort :=
  { (credOut s p (s.wport p)).2 with owe := false, inj := 0, injN := (s.wport p).injN + 1 }

theorem sendFlit_eq (hinj : (s.wport p).inj = 0) (f : Option (Nat × Bool × WFlit)) : sendFlit s p f =
    ((s.setWport p (sentPort s p)).addCtr (wenBase p + 0x80) 1).emit
      (.wenFlit p (flitBytes (sentHdr s p f) (sentPayload f) (sentTrailer s p) false)) := by
  have hx := credOut_eq s p (s.wport p)
  have hinj' : (credOut s p (s.wport p)).2.inj = 0 := (congrArg WPort.inj hx).trans hinj
  have hany : (credOut s p (s.wport p)).2.anyRx = (s.wport p).anyRx := (congrArg WPort.anyRx hx).trans rfl
  have hnext : (credOut s p (s.wport p)).2.rxNext = (s.wport p).rxNext := (congrArg WPort.rxNext hx).trans rfl
  have hinjN : (credOut s p (s.wport p)).2.injN = (s.wport p).injN := (congrArg WPort.injN hx).trans rfl
  unfold sendFlit
  simp only [hinj', hany, hnext, hinjN]
  cases f with
  | none => simp [sentPort, sentHdr, sentPayload, sentTrailer, hany, hnext]
  | some q =>
    obtain ⟨q, re, w⟩ := q
    simp [sentPort, sentHdr, sentPayload, sentTrailer, hany, hnext]

section
variable (s : State) (p : Nat)

/-- What a port keeps when it sends a flit. -/
theorem sentPort_eq : sentPort s p = { s.wport p with
    retd := (credOut s p (s.wport p)).2.retd, retHist := (credOut s p (s.wport p)).2.retHist, credOwed := (credOut s p (s.wport p)).2.credOwed,
    owe := false, inj := 0, injN := (s.wport p).injN + 1 } := by
  unfold sentPort
  rw [credOut_eq]

theorem markSent_wport (f : WFlit) (q : Nat) : (markSent s p f).wport q = s.wport q := by
  unfold markSent
  split <;> rfl

theorem markSent_regs (f : WFlit) : (markSent s p f).regs = s.regs := by
  unfold markSent
  split <;> rfl

theorem markSent_outbox (f : WFlit) : (markSent s p f).outbox = s.outbox := by
  unfold markSent
  split <;> rfl

theorem countVc_wen (v n : Nat) (tx : Bool) : (countVc s v n tx).wen = s.wen := by
  unfold countVc
  split
  · exact State.addCtr_wen ..
  · split
    · exact State.addCtr_wen ..
    · rfl

theorem countVc_outbox (v n : Nat) (tx : Bool) : (countVc s v n tx).outbox = s.outbox := by
  unfold countVc
  split
  · exact State.addCtr_outbox ..
  · split
    · exact State.addCtr_outbox ..
    · rfl

/-- The counters of VC3 and VC4 are Cinch's and Shadow's. -/
theorem countVc_rd (v n : Nat) (tx : Bool) {o : Nat} (h : o < 0x300000) : (countVc s v n tx).rd o = s.rd o := by
  have hbases : cinchBase = 0x300000 ∧ shadowBase = 0x380000 := ⟨rfl, rfl⟩
  obtain ⟨hc, hs⟩ := hbases
  unfold countVc
  split
  · refine State.rd_addCtr_other _ _ _ _ ?_
    split <;> omega
  · split
    · refine State.rd_addCtr_other _ _ _ _ ?_
      split <;> omega
    · rfl

end

theorem linkLive_lt (h : linkLive s p = true) : p < 18 := by
  unfold linkLive at h
  simp only [Bool.and_eq_true, decide_eq_true_eq] at h
  exact h.1.1

theorem wenBase_add_lt {o : Nat} (hp : p < 18) (ho : o < 0x8000) : wenBase p + o < 0x300000 := by
  unfold wenBase
  omega

/-- The port that has sent a flit. -/
theorem sendFlit_wport (hinj : (s.wport p).inj = 0) (f : Option (Nat × Bool × WFlit)) : (sendFlit s p f).wport p = sentPort s p := by
  rw [sendFlit_eq hinj, wport_wen (State.emit_wen ..), wport_wen (State.addCtr_wen ..), State.wport_setWport, if_pos rfl]

theorem sendFlit_outbox (hinj : (s.wport p).inj = 0) (f : Option (Nat × Bool × WFlit)) : (sendFlit s p f).outbox =
    s.outbox ++ [.wenFlit p (flitBytes (sentHdr s p f) (sentPayload f) (sentTrailer s p) false)] := by
  rw [sendFlit_eq hinj, State.emit_outbox, State.addCtr_outbox, State.setWport_outbox]

/-- Every flit is counted, and no other register changes. -/
theorem sendFlit_counted (s : State) (p : Nat) (f : Option (Nat × Bool × WFlit)) :
    (sendFlit s p f).rd (wenBase p + 0x80) = s.rd (wenBase p + 0x80) + 1#64 ∧ SameRegs [wenBase p + 0x80] s (sendFlit s p f) := by
  obtain ⟨x, fl, h⟩ := sendFlit_shape s p f
  refine ⟨?_, fun o ho => ?_⟩
  · rw [h, State.emit_rd, State.rd_addCtr_same, State.setWport_rd]
  · rw [h, State.emit_rd, State.rd_addCtr_other _ _ _ _ (by simpa using ho), State.setWport_rd]

/-- A VC that is picked has a flit to send and credit for it. -/
theorem cred_pos_of_fresh {v : Nat} (h : txPick s p = .fresh v) : 0 < nth 0 (s.wport p).cred v := by
  have hready (hv : vcReady s p (s.wport p) v = true) : 0 < nth 0 (s.wport p).cred v := by
    unfold vcReady at hv
    split at hv
    · exact absurd hv (by decide)
    · simp only [Bool.and_eq_true, decide_eq_true_eq] at hv
      exact hv.1.1.1
  have hsome (c : Prop) [Decidable c] (a : Nat) (hv : v ∈ if c then [a].filter (fun v => vcReady s p (s.wport p) v) else []) :
      vcReady s p (s.wport p) v = true := by
    split at hv
    · exact (List.mem_filter.mp hv).2
    · cases hv
  unfold txPick at h
  dsimp only at h
  split at h
  · cases h
  · split at h
    · next w hw =>
      obtain rfl := TxPick.fresh.inj h
      have hmem := List.mem_of_head? hw
      simp only [List.mem_append] at hmem
      refine hready ?_
      rcases hmem with (((((h | h) | h) | h) | h) | h) | h
      · exact (List.mem_filter.mp h).2
      · exact hsome _ 7 h
      · exact hsome _ 4 h
      all_goals exact (List.mem_filter.mp h).2
    · split at h <;> cases h

/-- The port after it has sent the new flit `q`. -/
def freshPort (x : WPort) (q now v : Nat) (f : WFlit) (rest : List WFlit) : WPort :=
  { x with
    txq := putRaw x.txq v rest, replay := x.replay ++ [⟨q, f, 0, false, none⟩], nextSeq := (q + 1) % 4096
    cred := setNth x.cred v (nth 0 x.cred v - 1), recent := (now, v) :: lastUs now (fun e => e.1) x.recent
    rr3 := if 1 ≤ v && v ≤ 3 then v else x.rr3, rr2 := if v = 5 || v = 6 then v else x.rr2 }

theorem transmit_fresh {v : Nat} {f : WFlit} {rest : List WFlit} (hpick : txPick s p = .fresh v) (hq : look [] (s.wport p).txq v = f :: rest)
    (hinj : (s.wport p).inj = 0) :
    transmit s p = countVc ((sendFlit (markSent s p f) p (some ((s.wport p).nextSeq, false, f))).modWport p
      (fun x => freshPort x (s.wport p).nextSeq (sendFlit (markSent s p f) p (some ((s.wport p).nextSeq, false, f))).now v f rest)) v f.len8 true := by
  unfold transmit
  rw [hpick]
  dsimp only
  rw [hq]
  dsimp only
  rw [markSent_wport, hinj, if_neg (by simp)]
  rfl

theorem wenlynTransmit_fresh {v : Nat} {f : WFlit} {rest : List WFlit} (hlive : linkLive s p = true) (hpick : txPick s p = .fresh v)
    (hq : look [] (s.wport p).txq v = f :: rest) (hinj : (s.wport p).inj = 0) :
    ∃ t h tr, exec (.wenlynTransmit p) s = .next t ∧ t.outbox = s.outbox ++ [.wenFlit p (flitBytes h f.payload tr false)] ∧
      h.seq = (s.wport p).nextSeq ∧ h.typ = 0 ∧ h.retx = false ∧ h.vc = f.vc ∧ h.som = f.som ∧ h.eom = f.eom ∧ h.len8 = f.len8 ∧ h.ttl = f.ttl ∧
      h.src = f.src ∧ h.dst = f.dst ∧ h.tag = f.tag ∧ h.reqId = f.reqId ∧
      look [] (t.wport p).txq v = rest ∧ (t.wport p).nextSeq = ((s.wport p).nextSeq + 1) % 4096 ∧
      (t.wport p).replay = (s.wport p).replay ++ [⟨(s.wport p).nextSeq, f, 0, false, none⟩] ∧
      nth 0 (t.wport p).cred v = nth 0 (s.wport p).cred v - 1 ∧ t.rd (wenBase p + 0x80) = s.rd (wenBase p + 0x80) + 1#64 ∧ SameMem s t ∧
      SameCores [] s t := by
  let q := (s.wport p).nextSeq
  let m := markSent s p f
  let n := some (q, false, f)
  have hp := linkLive_lt hlive
  have hexec : exec (.wenlynTransmit p) s = .next (ended s (transmit s p)) := by
    show execWenlynTransmit p s = _
    unfold execWenlynTransmit
    rw [if_pos hlive, done_eq]
  have hm : m.wport p = s.wport p := markSent_wport ..
  have hport : (transmit s p).wport p = freshPort (sentPort m p) q (sendFlit m p n).now v f rest := by
    rw [transmit_fresh hpick hq hinj]
    refine (wport_wen (countVc_wen ..) p).trans ?_
    rw [State.wport_modWport, if_pos rfl]
    refine congrArg (fun x => freshPort x q (sendFlit m p n).now v f rest) ?_
    exact sendFlit_wport (hm ▸ hinj) n
  have hsent := sentPort_eq m p
  rw [hm] at hsent
  have hframe := (LinkFrame.transmit s p).clauses
  obtain ⟨hmem, hcores, -⟩ := hframe
  refine ⟨_, sentHdr m p n, sentTrailer m p, hexec, ?_, rfl, rfl, rfl, rfl, rfl, rfl, rfl, rfl, rfl, rfl, rfl, rfl, ?_, ?_, ?_, ?_, ?_,
    hmem, hcores⟩
  · rw [ended_outbox, transmit_fresh hpick hq hinj, countVc_outbox, State.modWport_outbox, sendFlit_outbox (hm ▸ hinj), markSent_outbox]
    rfl
  · rw [ended_wport, hport]
    simp [freshPort]
  · rw [ended_wport, hport]
    rfl
  · rw [ended_wport, hport, hsent]
    rfl
  · rw [ended_wport, hport, hsent]
    exact nth_setNth_same 0 _ (lt_length_of_nth_pos (cred_pos_of_fresh hpick))
  · rw [ended_rd, transmit_fresh hpick hq hinj, countVc_rd _ _ _ _ (wenBase_add_lt hp (by decide)), State.modWport_rd,
      (sendFlit_counted m p n).1, rd_regs (markSent_regs s p f)]

/-! ### Resending (R294) -/

/-- The port after it has resent the flit of an entry. -/
def resentPort (x : WPort) (e : WEntry) : WPort :=
  { x with replay := x.replay.map (fun y => if y.seq = e.seq then { y with due := false, resends := y.resends + 1 } else y) }

theorem transmit_resend_eq {e : WEntry} (hpick : txPick s p = .resend e) : transmit s p =
    countVc (((sendFlit s p (some (e.seq, true, e.fl))).modWport p (fun x => resentPort x e)).addCtr (wenBase p + 0x90) 1) e.fl.vc e.fl.len8 true := by
  unfold transmit
  rw [hpick]
  rfl

theorem exec_wenlynTransmit (hlive : linkLive s p = true) : exec (.wenlynTransmit p) s = .next (ended s (transmit s p)) := by
  show execWenlynTransmit p s = _
  unfold execWenlynTransmit
  rw [if_pos hlive, done_eq]

theorem wenlynTransmit_resend {e : WEntry} (hlive : linkLive s p = true) (hpick : txPick s p = .resend e) (hinj : (s.wport p).inj = 0) :
    ∃ t h tr, exec (.wenlynTransmit p) s = .next t ∧ t.outbox = s.outbox ++ [.wenFlit p (flitBytes h e.fl.payload tr false)] ∧
      h.seq = e.seq ∧ h.typ = 0 ∧ h.retx = true ∧ h.vc = e.fl.vc ∧ h.dst = e.fl.dst ∧ h.tag = e.fl.tag ∧ h.reqId = e.fl.reqId ∧
      (t.wport p).replay = (s.wport p).replay.map (fun y => if y.seq = e.seq then { y with due := false, resends := y.resends + 1 } else y) ∧
      (t.wport p).cred = (s.wport p).cred ∧ t.rd (wenBase p + 0x90) = s.rd (wenBase p + 0x90) + 1#64 ∧ SameMem s t ∧ SameCores [] s t := by
  let n := some (e.seq, true, e.fl)
  have hp := linkLive_lt hlive
  have hport : (transmit s p).wport p = resentPort (sentPort s p) e := by
    rw [transmit_resend_eq hpick, wport_wen (countVc_wen ..), wport_wen (State.addCtr_wen ..), State.wport_modWport, if_pos rfl,
      sendFlit_wport hinj]
  obtain ⟨hmem, hcores, -⟩ := (LinkFrame.transmit s p).clauses
  refine ⟨_, sentHdr s p n, sentTrailer s p, exec_wenlynTransmit hlive, ?_, rfl, rfl, rfl, rfl, rfl, rfl, rfl, ?_, ?_, ?_, hmem, hcores⟩
  · rw [ended_outbox, transmit_resend_eq hpick, countVc_outbox, State.addCtr_outbox, State.modWport_outbox, sendFlit_outbox hinj]
    rfl
  · rw [ended_wport, hport, sentPort_eq]
    rfl
  · rw [ended_wport, hport, sentPort_eq]
    rfl
  · rw [ended_rd, transmit_resend_eq hpick, countVc_rd _ _ _ _ (wenBase_add_lt hp (by decide)), State.rd_addCtr_same, State.modWport_rd,
      (sendFlit_counted s p _).2 _ (by simp)]

theorem wenlynTransmit_null (hlive : linkLive s p = true) (hpick : txPick s p = .null) :
    exec (.wenlynTransmit p) s = .next (ended s (sendFlit s p none)) := by
  rw [exec_wenlynTransmit hlive, transmit, hpick]

theorem wenlynTransmit_none (hlive : linkLive s p = true) (hpick : txPick s p = .none) : exec (.wenlynTransmit p) s = .next (ended s s) := by
  rw [exec_wenlynTransmit hlive, transmit, hpick]

/-! ### The checker of Awl (R412) -/

/-- What each update of the checker keeps, the checker keeps: it writes Awl's registers and raises a source. -/
theorem awlCheck_keeps {P : State → Prop} (hctr : ∀ (t : State) (o n : Nat), 0x700000 ≤ o → P t → P (t.addCtr o n))
    (hwr : ∀ (t : State) (o : Nat) (v : Word), 0x700000 ≤ o → P t → P (t.wr o v))
    (hraise : ∀ (t : State) (c : FaultSrc) (i y : Nat), P t → P (t.raise c i y)) (p rule lo hi : Nat) (h : P s) : P (awlCheck s p rule lo hi) := by
  have hbase (k : Nat) : 0x700000 ≤ awlBase p + k := by
    unfold awlBase
    omega
  unfold awlCheck
  refine keeps_ite _ h ?_
  have hcount := hctr s (awlBase p + 0x88 + 8 * (rule - 1)) 1 ((hbase (0x88 + 8 * (rule - 1))).trans (by omega)) h
  exact keeps_ite _ (hraise _ _ _ _ (hwr _ _ _ (hbase _) (hwr _ _ _ (hbase _) hcount))) hcount

theorem awlCheck_wport (s : State) (p rule lo hi q : Nat) : (awlCheck s p rule lo hi).wport q = s.wport q :=
  awlCheck_keeps (P := fun t => t.wport q = s.wport q) (fun _ _ _ _ h => h) (fun _ _ _ _ h => h) (fun _ _ _ _ h => h) p rule lo hi rfl

theorem awlCheck_rd (s : State) (p rule lo hi : Nat) {o : Nat} (ho : o < 0x300000) : (awlCheck s p rule lo hi).rd o = s.rd o :=
  awlCheck_keeps (P := fun t => t.rd o = s.rd o) (fun _ _ _ hk h => (State.rd_addCtr_other _ _ _ _ (by omega)).trans h)
    (fun _ _ _ hk h => (State.rd_wr_other _ _ _ _ (by omega)).trans h) (fun _ _ _ _ h => h) p rule lo hi rfl

theorem awlCheck_raises (s : State) (p rule lo hi : Nat) {r : Raise} (hr : r ∈ s.raises) : r ∈ (awlCheck s p rule lo hi).raises :=
  awlCheck_keeps (P := fun t => r ∈ t.raises) (fun _ _ _ _ h => h) (fun _ _ _ _ h => h)
    (fun _ _ _ _ h => List.mem_append_left _ h) p rule lo hi hr

theorem awlCheck_frame (s : State) (p rule lo hi : Nat) : LinkFrame s (awlCheck s p rule lo hi) :=
  awlCheck_keeps (P := LinkFrame s) (fun _ _ _ _ h => h.trans (LinkFrame.addCtr ..))
    (fun _ _ _ _ h => h.trans ⟨rfl, rfl, rfl, rfl, rfl, rfl, fun _ _ => rfl, rfl, rfl, rfl⟩)
    (fun _ _ _ _ h => h.trans (LinkFrame.raise ..)) p rule lo hi (LinkFrame.refl s)

/-! ### Reception (R285, R293, R303) -/

theorem wenlynReceive_badCrc {flit : List Byte} (sp : Option NetMsg) (hlive : linkLive s p = true) (hlen : flit.length = 256)
    (hcrc : flitCrcOk flit = false) : exec (.wenlynFlitReceive p flit sp) s =
      .next (ended s ((s.modWport p (fun x => { x with crcT := s.now :: x.crcT })).addCtr (wenBase p + 0x98) 1)) := by
  show execWenlynFlitReceive p flit sp s = _
  unfold execWenlynFlitReceive
  rw [hlive, hcrc, hlen, done_eq]
  rfl

/-- The header of a Wenlyn flit. -/
def wHdrIn (flit : List Byte) : WHdr := hdrOf (leNat (flit.take 8)) (leNat ((flit.drop 8).take 8))

/-- The port has counted a good flit and taken its acknowledgement and its credit. -/
def flitCounted (s : State) (p : Nat) (flit : List Byte) : State :=
  let h := wHdrIn flit
  let u := s.addCtr (wenBase p + 0x88) 1
  let v := if h.ackValid then u.modWport p (fun x => applyAck x s.now (ackTimerNs s p) h.ackSeq (leNat (flit.drop 252))) else u
  if h.credValid then v.modWport p (fun x => applyCred x h.credVc h.credRet) else v

/-- The port has counted a flit of a bad type. -/
def flitMalformed (s : State) (p rule : Nat) (h : WHdr) : State :=
  ((s.modWport p (fun x => { x with malT := s.now :: x.malT })).addCtr (wenBase p + 0xB0) 1).raise .malformed p
    (packBits [(h.src, 0, 12), (h.vc, 12, 3), (rule, 15, 5)])

theorem wenlynReceive_good {flit : List Byte} (sp : Option NetMsg) (hlive : linkLive s p = true) (hlen : flit.length = 256)
    (hcrc : flitCrcOk flit = true) : exec (.wenlynFlitReceive p flit sp) s = .next (ended s
      (if (wHdrIn flit).typ = 0 then dataFlit (flitCounted s p flit) p (wHdrIn flit) (leNat (flit.take 8)) (leNat ((flit.drop 8).take 8))
          (headRule (wHdrIn flit)) ((flit.drop 16).take 232) sp
        else if headRule (wHdrIn flit) = 0 then flitCounted s p flit
        else awlCheck (flitMalformed (flitCounted s p flit) p (headRule (wHdrIn flit)) (wHdrIn flit)) p (headRule (wHdrIn flit)) (leNat (flit.take 8))
          (leNat ((flit.drop 8).take 8)))) := by
  have htimer : ackTimerNs (s.addCtr (wenBase p + 0x88) 1) p = ackTimerNs s p := by
    unfold ackTimerNs portF
    exact State.f_addCtr_other _ _ _ _ _ _ (by omega)
  show execWenlynFlitReceive p flit sp s = _
  unfold execWenlynFlitReceive
  rw [hlive, hcrc, hlen, done_eq]
  simp only [Bool.not_true, ne_eq, not_true, decide_false, Bool.or_self, Bool.false_eq_true, if_false, htimer, State.addCtr_now]
  rfl

end Sys2Proof.Machine
end

section
/-! Wenlyn flits received and the timers of a port (R285, R293, R294, R303). -/
namespace Sys2Proof.Machine

variable {s : State} {p : Nat}

theorem applyAck_eq (x : WPort) (now timer a b : Nat) : applyAck x now timer a b = { x with replay := (applyAck x now timer a b).replay } := by
  unfold applyAck
  dsimp only
  split <;> rfl

theorem applyAck_held (x : WPort) (now timer a b : Nat) : (applyAck x now timer a b).held = x.held := by rw [applyAck_eq]
theorem applyAck_rxNext (x : WPort) (now timer a b : Nat) : (applyAck x now timer a b).rxNext = x.rxNext := by rw [applyAck_eq]

/-- What an acknowledgement and a credit leave at the port that takes them. -/
theorem flitCounted_keeps {P : State → Prop} (hctr : P (s.addCtr (wenBase p + 0x88) 1))
    (hport : ∀ (t : State) (x : WPort), x.held = (t.wport p).held → x.rxNext = (t.wport p).rxNext → P t → P (t.setWport p x)) (flit : List Byte) :
    P (flitCounted s p flit) := by
  unfold flitCounted
  refine keeps_ite _ (hport _ _ rfl rfl ?_) ?_
  all_goals exact keeps_ite _ (hport _ _ (applyAck_held ..) (applyAck_rxNext ..) hctr) hctr

theorem flitCounted_port (s : State) (p : Nat) (flit : List Byte) :
    ((flitCounted s p flit).wport p).held = (s.wport p).held ∧ ((flitCounted s p flit).wport p).rxNext = (s.wport p).rxNext :=
  flitCounted_keeps (P := fun t => (t.wport p).held = (s.wport p).held ∧ (t.wport p).rxNext = (s.wport p).rxNext) ⟨rfl, rfl⟩
    (fun t x hheld hnext h => by
      rw [State.wport_setWport, if_pos rfl]
      exact ⟨hheld.trans h.1, hnext.trans h.2⟩) flit

theorem flitCounted_rd (s : State) (p : Nat) (flit : List Byte) {o : Nat} (h : o ≠ wenBase p + 0x88) : (flitCounted s p flit).rd o = s.rd o :=
  flitCounted_keeps (P := fun t => t.rd o = s.rd o) (State.rd_addCtr_other _ _ _ _ h) (fun _ _ _ _ h => h) flit

theorem flitCounted_evNo (s : State) (p : Nat) (flit : List Byte) : (flitCounted s p flit).evNo = s.evNo :=
  flitCounted_keeps (P := fun t => t.evNo = s.evNo) (State.addCtr_evNo ..) (fun _ _ _ _ h => h) flit

theorem flitCounted_frame (s : State) (p : Nat) (flit : List Byte) : LinkFrame s (flitCounted s p flit) :=
  flitCounted_keeps (P := LinkFrame s) (LinkFrame.addCtr ..) (fun _ _ _ _ h => h.trans (LinkFrame.setWport ..)) flit

/-- A flit of a bad type is counted and raised as MALFORMED. -/
theorem flitMalformed_effect (s : State) (p rule : Nat) (h : WHdr) :
    (flitMalformed s p rule h).rd (wenBase p + 0xB0) = s.rd (wenBase p + 0xB0) + 1#64 ∧
      ((flitMalformed s p rule h).wport p).held = (s.wport p).held ∧ ((flitMalformed s p rule h).wport p).rxNext = (s.wport p).rxNext ∧
      LinkFrame s (flitMalformed s p rule h) ∧
      ∃ r ∈ (flitMalformed s p rule h).raises, r.cls = 7 ∧ r.inst = p ∧ r.idx = (FaultSrc.malformed).at.2 ∧ r.ev = s.evNo := by
  unfold flitMalformed
  refine ⟨?_, ?_, ?_, ?_, ?_⟩
  · rw [State.raise_rd, State.rd_addCtr_same, State.modWport_rd]
  · rw [wport_wen (State.raise_wen ..), wport_wen (State.addCtr_wen ..), State.wport_modWport, if_pos rfl]
  · rw [wport_wen (State.raise_wen ..), wport_wen (State.addCtr_wen ..), State.wport_modWport, if_pos rfl]
  · exact ((LinkFrame.modWport ..).trans (LinkFrame.addCtr ..)).trans (LinkFrame.raise ..)
  · rw [State.raise_raises]
    exact ⟨_, List.mem_append_right _ (List.mem_singleton_self _), rfl, rfl, rfl, rfl⟩

theorem wenlynReceive_malformed {flit : List Byte} (sp : Option NetMsg) (hlive : linkLive s p = true) (hlen : flit.length = 256)
    (hcrc : flitCrcOk flit = true) (htyp : (wHdrIn flit).typ ≠ 0) (hrule : headRule (wHdrIn flit) ≠ 0) :
    ∃ t, exec (.wenlynFlitReceive p flit sp) s = .next t ∧
      t.rd (wenBase p + 0xB0) = s.rd (wenBase p + 0xB0) + 1#64 ∧ (t.wport p).held = (s.wport p).held ∧ (t.wport p).rxNext = (s.wport p).rxNext ∧
      (∃ r ∈ t.raises, r.cls = 7 ∧ r.inst = p ∧ r.idx = (FaultSrc.malformed).at.2 ∧ r.ev = s.evNo) ∧ SameMem s t ∧ SameCores [] s t := by
  let u := flitCounted s p flit
  let rule := headRule (wHdrIn flit)
  let v := flitMalformed u p rule (wHdrIn flit)
  let t := awlCheck v p rule (leNat (flit.take 8)) (leNat ((flit.drop 8).take 8))
  obtain ⟨hheld, hnext⟩ := flitCounted_port s p flit
  obtain ⟨hctr, hheld', hnext', hframe, r, hr, hcls, hinst, hidx, hev⟩ := flitMalformed_effect u p rule (wHdrIn flit)
  have hport : t.wport p = v.wport p := awlCheck_wport ..
  obtain ⟨hmem, hcores, -⟩ := (((flitCounted_frame s p flit).trans hframe).trans (awlCheck_frame v p rule _ _)).clauses
  refine ⟨ended s t, ?_, ?_, ?_, ?_, ⟨r, awlCheck_raises _ _ _ _ _ hr, hcls, hinst, hidx, hev.trans (flitCounted_evNo ..)⟩, hmem, hcores⟩
  · rw [wenlynReceive_good sp hlive hlen hcrc, if_neg htyp, if_neg hrule]
  · rw [ended_rd]
    refine (awlCheck_rd _ _ _ _ _ (wenBase_add_lt (linkLive_lt hlive) (by decide))).trans (hctr.trans ?_)
    rw [flitCounted_rd _ _ _ (by omega)]
  · rw [ended_wport, hport, hheld', hheld]
  · rw [ended_wport, hport, hnext', hnext]

/-! ### In and out of order (R293) -/

theorem dataFlit_duplicate (lo hi rule : Nat) (h : WHdr) (pl : List Byte) (sp : Option NetMsg)
    (hdup : 2047 ≤ subMod 12 h.seq (s.wport p).rxNext ∨ (s.wport p).held.any (fun y => y.seq = h.seq) = true) :
    dataFlit s p h lo hi rule pl sp = (s.setWport p { s.wport p with owe := true, anyRx := true }).addCtr (wenBase p + 0xA0) 1 := by
  have hcond : (decide (2047 ≤ subMod 12 h.seq (s.wport p).rxNext) || (s.wport p).held.any (fun y => y.seq = h.seq)) = true := by
    simpa only [Bool.or_eq_true, decide_eq_true_eq] using hdup
  unfold dataFlit
  exact if_pos hcond

theorem deliverHeld_waits (n : Nat) {s : State} {p : Nat} (h : ∀ y ∈ (s.wport p).held, y.seq ≠ (s.wport p).rxNext) : deliverHeld n s p = s := by
  cases n with
  | zero => rfl
  | succ n =>
    have hnone : (s.wport p).held.find? (fun y => y.seq = (s.wport p).rxNext) = none :=
      List.find?_eq_none.mpr fun y hy => by simpa using h y hy
    unfold deliverHeld
    dsimp only
    rw [hnone]

/-- The port after it has put a flit among those it holds. -/
def heldPort (x : WPort) (h : WHdr) (y : WHeld) : WPort :=
  { x with owe := true, anyRx := true, got := addAt x.got h.vc 1, held := x.held ++ [y] }

/-- A flit ahead of the missing one is held, and none is passed on. -/
theorem dataFlit_ahead {lo hi rule : Nat} {h : WHdr} {pl : List Byte} {sp : Option NetMsg} (hlow : 1 ≤ subMod 12 h.seq (s.wport p).rxNext)
    (hhigh : subMod 12 h.seq (s.wport p).rxNext < 2047)
    (hheld : ∀ y ∈ (s.wport p).held, y.seq ≠ h.seq ∧ y.seq ≠ (s.wport p).rxNext) :
    ∃ y : WHeld, y.seq = h.seq ∧ (dataFlit s p h lo hi rule pl sp).wport p = heldPort (s.wport p) h y := by
  have hnew : (s.wport p).held.any (fun y => y.seq = h.seq) = false :=
    List.any_eq_false.mpr fun y hy => by simpa using (hheld y hy).1
  have hahead : h.seq ≠ (s.wport p).rxNext := by
    intro heq
    rw [heq] at hlow
    unfold subMod at hlow
    omega
  unfold dataFlit
  extract_lets x breach f s1 s2
  have hcond : (decide (2047 ≤ subMod 12 h.seq x.rxNext) || x.held.any (fun y => y.seq = h.seq)) = false := by
    rw [hnew, decide_eq_false (Nat.not_le.mpr hhigh)]
    rfl
  let y : WHeld := { seq := h.seq, rule := rule, lo := lo, hi := hi, spells := sp, fl := f }
  have hport : (countVc s2 h.vc h.len8 false).wport p = heldPort x h y := by
    have hs1 : s1.wport p = heldPort x h y := by
      refine (State.wport_setWport ..).trans ?_
      rw [if_pos rfl]
      rfl
    rw [wport_wen (countVc_wen ..)]
    show (if breach then awlCheck s1 p 9 lo hi else s1).wport p = _
    split
    · rw [awlCheck_wport, hs1]
    · exact hs1
  refine ⟨y, rfl, ?_⟩
  rw [if_neg (by rw [hcond]; decide), deliverHeld_waits, hport]
  rw [hport]
  intro z hz
  rcases List.mem_append.mp hz with hz | hz
  · exact (hheld z hz).2
  · rw [List.mem_singleton.mp hz]
    exact hahead

/-! ### Timers (R288, R294) -/

theorem exec_wenlynAckTimeout {e : WEntry} {rest : List WEntry} (hlive : linkLive s p = true) (hreplay : (s.wport p).replay = e :: rest) :
    exec (.wenlynAckTimeout p) s = .next (ended s (s.modWport p (fun x =>
      { x with replay := (e :: rest).map (fun y => if subMod 12 y.seq e.seq ≤ 32 then { y with due := true } else y) }))) := by
  show execWenlynAckTimeout p s = _
  unfold execWenlynAckTimeout State.modWport
  dsimp only
  rw [hlive, hreplay, done_eq]
  rfl

theorem exec_ackCoalesceTimeout (hlive : linkLive s p = true) (howe : (s.wport p).owe = true) (hinj : (s.wport p).inj = 0) :
    ∃ t fl, exec (.ackCoalesceTimeout p) s = .next t ∧ t.outbox = s.outbox ++ [.wenFlit p fl] ∧ (t.wport p).owe = false ∧
      t.rd (wenBase p + 0x80) = s.rd (wenBase p + 0x80) + 1#64 ∧ SameRegs [wenBase p + 0x80] s t ∧ SameMem s t := by
  obtain ⟨hctr, hregs⟩ := sendFlit_counted s p none
  refine ⟨ended s (sendFlit s p none), _, ?_, sendFlit_outbox hinj none, ?_, hctr, hregs, (LinkFrame.sendFlit s p none).clauses.1⟩
  · show execAckCoalesceTimeout p s = _
    unfold execAckCoalesceTimeout
    rw [hlive, howe, hinj, done_eq]
    rfl
  · rw [ended_wport, sendFlit_wport hinj]
    rfl

theorem exec_keepaliveTimeout (hlive : linkLive s p = true) :
    ∃ t fl, exec (.keepaliveTimeout p) s = .next t ∧ t.outbox = s.outbox ++ [.wenFlit p fl] ∧
      t.rd (wenBase p + 0x80) = s.rd (wenBase p + 0x80) + 1#64 ∧ SameRegs [wenBase p + 0x80] s t ∧ SameMem s t := by
  let u := s.modWport p (fun x => { x with credOwed := x.credOwed ++ (upto 8).filter (fun v => !x.credOwed.contains v) })
  obtain ⟨hctr, hregs⟩ := sendFlit_counted u p none
  obtain ⟨x, fl, hshape⟩ := sendFlit_shape u p none
  refine ⟨ended s (sendFlit u p none), fl, ?_, ?_, hctr, hregs, ((LinkFrame.modWport ..).trans (LinkFrame.sendFlit u p none)).clauses.1⟩
  · show execKeepaliveTimeout p s = _
    unfold execKeepaliveTimeout
    rw [if_pos hlive, done_eq]
  · rw [ended_outbox, hshape, State.emit_outbox, State.addCtr_outbox, State.setWport_outbox, State.modWport_outbox]

/-- Settles O22: the flit that leaves by its header and what its port keeps, the flit that arrives by the branch it takes, and a flit ahead of
the missing one by the search for the missing one, which finds none. -/
theorem wenlynFlits : Obligations.WenlynFlits := by
  refine ⟨fun s p v f rest hlive hpick hq hinj => wenlynTransmit_fresh hlive hpick hq hinj,
    fun s p e hlive hpick hinj => wenlynTransmit_resend hlive hpick hinj, fun s p => wenlynTransmit_null, fun s p => wenlynTransmit_none,
    fun s p flit sp hlive hlen hcrc => wenlynReceive_badCrc sp hlive hlen hcrc, fun s p flit sp hlive hlen hcrc => ?_,
    fun s p lo hi rule h pl sp => ⟨dataFlit_duplicate lo hi rule h pl sp, fun hlow hhigh _ _ hheld => ?_⟩,
    fun s p e rest => exec_wenlynAckTimeout, fun s p => exec_ackCoalesceTimeout, fun s p => exec_keepaliveTimeout⟩
  · intro lo hi h u v w
    refine ⟨fun htyp hlen8 hresv => ?_, fun htyp => ?_, wenlynReceive_malformed sp hlive hlen hcrc⟩
    · have hrule : headRule (wHdrIn flit) = 0 := by
        show headRule h = 0
        unfold headRule
        rw [htyp, hlen8, hresv]
        rfl
      have htyp' : (wHdrIn flit).typ ≠ 0 := by
        show h.typ ≠ 0
        omega
      rw [wenlynReceive_good sp hlive hlen hcrc, if_neg htyp', if_pos hrule]
      rfl
    · rw [wenlynReceive_good sp hlive hlen hcrc, if_pos (show (wHdrIn flit).typ = 0 from htyp)]
      rfl
  · obtain ⟨y, hseq, hport⟩ := dataFlit_ahead hlow hhigh hheld
    rw [hport]
    exact ⟨by simp [heldPort, hseq], rfl, rfl⟩

end Sys2Proof.Machine
end

section
/-! Events of Wenlyn ports: what a port's change of state leaves alone, and a port that goes down (R295-R297, R303-R305). -/
namespace Sys2Proof.Machine

variable {s t u : State} {p : Nat}

/-! ### A change of a port's state -/

/-- Registers of the hub that neither a trace record nor a memory access changes. -/
def HubReg (o : Nat) : Prop := o < 0x500000 ∨ 0x700000 ≤ o ∧ o < 0x740000

/-- From `s` to `t` only trace records and memory accesses have happened, and sources may have been raised. -/
structure Recorded (s t : State) : Prop where
  rd : ∀ o, HubReg o → t.rd o = s.rd o
  wen : t.wen = s.wen
  outbox : t.outbox = s.outbox
  evNo : t.evNo = s.evNo
  raises : ∀ r ∈ s.raises, r ∈ t.raises
  cores : t.cores = s.cores

namespace Recorded

theorem refl (s : State) : Recorded s s := ⟨fun _ _ => rfl, rfl, rfl, rfl, fun _ h => h, rfl⟩

theorem trans (h : Recorded s t) (g : Recorded t u) : Recorded s u :=
  ⟨fun o ho => (g.rd o ho).trans (h.rd o ho), g.wen.trans h.wen, g.outbox.trans h.outbox, g.evNo.trans h.evNo,
    fun r hr => g.raises r (h.raises r hr), g.cores.trans h.cores⟩

theorem addCtr {o : Nat} (ho : ¬ HubReg o) (s : State) (n : Nat) : Recorded s (s.addCtr o n) :=
  ⟨fun _ hq => State.rd_addCtr_other _ _ _ _ (fun h => ho (h ▸ hq)), State.addCtr_wen .., State.addCtr_outbox .., State.addCtr_evNo ..,
    fun _ h => h, State.addCtr_cores ..⟩

theorem setF {o : Nat} (ho : ¬ HubReg o) (s : State) (l w x : Nat) : Recorded s (s.setF o l w x) :=
  ⟨fun _ hq => State.rd_setF_other _ _ _ _ _ _ (fun h => ho (h ▸ hq)), State.setF_wen .., State.setF_outbox .., State.setF_evNo ..,
    fun _ h => h, State.setF_cores ..⟩

theorem raise (s : State) (c : FaultSrc) (i y : Nat) : Recorded s (s.raise c i y) :=
  ⟨fun _ _ => rfl, State.raise_wen .., State.raise_outbox .., State.raise_evNo .., fun _ h => List.mem_append_left _ h, State.raise_cores ..⟩

theorem wakeNow (s : State) {d n : Nat} (ho : ¬ HubReg (rPd d n)) : Recorded s (wakeNow s d n) :=
  ⟨fun _ hq => wakeNow_rd_other (fun h => ho (h ▸ hq)) s, wakeNow_wen .., wakeNow_outbox .., wakeNow_evNo ..,
    fun _ h => (wakeNow_raises s d n).symm ▸ h, wakeNow_cores ..⟩

end Recorded

theorem not_hubReg_die (d o : Nat) : ¬ HubReg (dieBase d + o) := by
  unfold HubReg dieBase
  omega

theorem not_hubReg_rPd {d n : Nat} (hn : n ≤ 45) : ¬ HubReg (rPd d n) := by
  unfold rPd
  split
  · unfold HubReg powerBase
    omega
  · rw [Nat.add_assoc]
    exact not_hubReg_die _ _

theorem not_hubReg_rRing {r o : Nat} (hr : r < 8) (ho : o < 0x20) : ¬ HubReg (rRing r o) := by
  unfold HubReg rRing glintBase
  omega

theorem recorded_ringKeeps (s : State) : RingKeeps (Recorded s) where
  counter t d o _ h := h.trans (.addCtr (by unfold rSlice sliceBase; rw [Nat.add_assoc]; exact not_hubReg_die _ _) t 1)
  poisonRead t d h := h.trans (.addCtr (by unfold mcBase; rw [Nat.add_assoc]; exact not_hubReg_die _ _) t 1)
  lines _ _ _ h := h.trans ⟨fun _ _ => rfl, rfl, rfl, rfl, fun _ h => h, rfl⟩
  wake t _ _ hn h := h.trans (.wakeNow t (not_hubReg_rPd hn))
  mem _ _ _ _ _ _ h := h.trans ⟨fun _ _ => rfl, rfl, rfl, rfl, fun _ h => h, rfl⟩
  lost t _ hr h := (h.trans (.raise t ..)).trans (.addCtr (not_hubReg_rRing hr (by decide)) _ 1)
  lostMore t _ hr h := h.trans (.addCtr (not_hubReg_rRing hr (by decide)) t 1)
  produced t _ n hr h := h.trans (.setF (not_hubReg_rRing hr (by decide)) t 0 32 n)

theorem hubReg_wen {o : Nat} (hp : p < 18) (ho : o < 0x8000) : HubReg (wenBase p + o) :=
  .inl ((wenBase_add_lt hp ho).trans (by decide))

theorem f_of_rd {o : Nat} (h : t.rd o = s.rd o) (l w : Nat) : t.f o l w = s.f o l w := by
  unfold State.f
  rw [h]

theorem fb_of_rd {o : Nat} (h : t.rd o = s.rd o) (l : Nat) : t.fb o l = s.fb o l := by
  unfold State.fb
  rw [f_of_rd h]

/-- A port enters another state: STATE changes, and a LINK record is taken. -/
theorem setPortState_recorded {st : Nat} (h : portState s p ≠ st) : Recorded (s.setF (wenBase p + 8) 0 3 st) (setPortState s p st) := by
  unfold setPortState
  rw [if_neg h]
  exact (recorded_ringKeeps _).glintLink _ _ _ _ (Recorded.refl _)

theorem portState_setPortState {st : Nat} (hp : p < 18) (hst : st < 8) (h : portState s p ≠ st) : portState (setPortState s p st) p = st := by
  unfold portState
  rw [f_of_rd ((setPortState_recorded h).rd _ (hubReg_wen hp (by decide))), State.f_setF_same _ _ _ _ _ (by decide)]
  exact Nat.mod_eq_of_lt hst

/-- Every other field of the status register, and every other register of the hub, stays. -/
theorem setPortState_rd {st o : Nat} (h : portState s p ≠ st) (ho : HubReg o) (hne : o ≠ wenBase p + 8) : (setPortState s p st).rd o = s.rd o :=
  ((setPortState_recorded h).rd o ho).trans (State.rd_setF_other _ _ _ _ _ _ hne)

theorem setPortState_wport {st : Nat} (h : portState s p ≠ st) (q : Nat) : (setPortState s p st).wport q = s.wport q :=
  (wport_wen (setPortState_recorded h).wen q).trans (wport_wen (State.setF_wen ..) q)

theorem setPortState_outbox {st : Nat} (h : portState s p ≠ st) : (setPortState s p st).outbox = s.outbox :=
  (setPortState_recorded h).outbox.trans (State.setF_outbox ..)

/-! ### A port goes down (R296) -/

/-- The partner is told of the cause, but not after its own close. -/
def closeTold (s : State) (p c : Nat) : State := if c = 8 then s else s.emit (.vc0 p 2 [c])

theorem closeTold_regs (s : State) (p c : Nat) : (closeTold s p c).regs = s.regs := by
  unfold closeTold
  split
  · rfl
  · exact State.emit_regs ..

theorem closeTold_evNo (s : State) (p c : Nat) : (closeTold s p c).evNo = s.evNo := by
  unfold closeTold
  split
  · rfl
  · exact State.emit_evNo ..

theorem closeTold_cores (s : State) (p c : Nat) : (closeTold s p c).cores = s.cores := by
  unfold closeTold
  split
  · rfl
  · exact State.emit_cores ..

theorem mem_closeTold {c : Nat} (h : c ≠ 8) : .vc0 p 2 [c] ∈ (closeTold s p c).outbox := by
  unfold closeTold
  rw [if_neg h, State.emit_outbox]
  exact List.mem_append_right _ (List.mem_singleton_self _)

/-- The port with its cause kept and its transport reset, before it leaves UP. -/
def linkCut (s : State) (p c : Nat) : State :=
  (((closeTold s p c).raise .linkDown p (packBits [(c, 0, 4), ((outsOn s p).length, 4, 13)])).setF (wenBase p + 8) 4 4 c).setWport p WPort.reset

theorem linkDown_eq {c : Nat} (hup : portState s p = 5) : linkDown s p c =
    let u := setPortState (linkCut s p c) p 1
    if u.fb (wenBase p) 13 && portCarries u (portF u p 0 8 5) && !awlPort s p then failOver u p (portF u p 0 8 5)
    else (outsOn s p).foldl (fun v o => afterDown v p o) u := by
  unfold linkDown linkDownTo
  exact if_neg (not_not.mpr hup)

theorem linkDown_other {c : Nat} (hdown : portState s p ≠ 5) : linkDown s p c = s := by
  unfold linkDown linkDownTo
  exact if_pos hdown

theorem portState_linkCut (s : State) (p c : Nat) : portState (linkCut s p c) p = portState s p := by
  unfold portState
  rw [linkCut, State.setWport_f, State.f_setF_apart _ _ _ _ _ _ _ (by decide) (by decide), State.raise_f, f_regs (closeTold_regs s p c)]

theorem linkLost_of_up {c : Nat} (hp : p < 18) (hc : c < 16) (hup : portState s p = 5) :
    LinkLost s (setPortState (linkCut s p c) p 1) p c ∧ (c ≠ 8 → .vc0 p 2 [c] ∈ (setPortState (linkCut s p c) p 1).outbox) := by
  have hne : portState (linkCut s p c) p ≠ 1 := by
    rw [portState_linkCut, hup]
    decide
  have hrec := setPortState_recorded hne
  refine ⟨⟨portState_setPortState hp (by decide) hne, ?_, ?_, ?_, ?_⟩, fun h8 => ?_⟩
  · rw [f_of_rd (hrec.rd _ (hubReg_wen hp (by decide))), State.f_setF_apart _ _ _ _ _ _ _ (by decide) (by decide), linkCut, State.setWport_f,
      State.f_setF_same _ _ _ _ _ (by decide)]
    exact Nat.mod_eq_of_lt hc
  · rw [setPortState_wport hne, linkCut, State.wport_setWport, if_pos rfl]
  · have hraise : (⟨7, p, (FaultSrc.linkDown).at.2, packBits [(c, 0, 4), ((outsOn s p).length, 4, 13)] % 2 ^ 64, s.evNo, []⟩ : Raise) ∈
        (linkCut s p c).raises := by
      rw [linkCut, State.setWport_raises, State.setF_raises, State.raise_raises, closeTold_evNo]
      exact List.mem_append_right _ (List.mem_singleton_self _)
    exact ⟨_, hrec.raises _ ((State.setF_raises ..).symm ▸ hraise), rfl, rfl, rfl, rfl⟩
  · refine sameCores_of_cores _ (hrec.cores.trans ?_)
    rw [State.setF_cores, linkCut, State.setWport_cores, State.setF_cores, State.raise_cores, closeTold_cores]
  · rw [setPortState_outbox hne, linkCut, State.setWport_outbox, State.setF_outbox, State.raise_outbox]
    exact mem_closeTold h8

end Sys2Proof.Machine
end

section
/-! Wenlyn links that are lost, lanes that are spared, and the notices of partners (R295-R297, R303-R305). -/
namespace Sys2Proof.Machine

variable {s : State} {p : Nat}

/-! ### Each cause of Table 11.7 -/

theorem exec_wenlynReplayLimit (h : ∃ e ∈ (s.wport p).replay, portF s p 0x28 48 8 ≤ e.resends) :
    exec (.wenlynReplayLimit p) s = .next (ended s (linkDown s p 3)) := by
  have hany : (s.wport p).replay.any (fun e => portF s p 0x28 48 8 ≤ e.resends) = true := by
    simpa only [List.any_eq_true, decide_eq_true_eq] using h
  show execWenlynReplayLimit p s = _
  unfold execWenlynReplayLimit
  rw [if_pos hany, done_eq]

theorem exec_linkDead (hp : p < 18) : exec (.linkDead p) s = .next (ended s (linkDown s p 2)) := by
  show execLinkDead p s = _
  unfold execLinkDead
  rw [if_pos hp, done_eq]

theorem exec_peerClose (hp : p < 18) : exec (.peerClose p) s = .next (ended s (linkDown s p 8)) := by
  show execPeerClose p s = _
  unfold execPeerClose
  rw [if_pos hp, done_eq]

theorem exec_wenlynErrorLimit (s : State) (p : Nat) :
    let n (l : List Nat) := (l.filter (fun t => s.now - t ≤ errWindowNs s p)).length
    (portF s p 0x28 0 16 < n (s.wport p).crcT → exec (.wenlynErrorLimit p) s = .next (ended s (linkDown s p 4))) ∧
    (n (s.wport p).crcT ≤ portF s p 0x28 0 16 → portF s p 0x28 16 16 < n (s.wport p).malT →
      exec (.wenlynErrorLimit p) s = .next (ended s (linkDown s p 5))) := by
  intro n
  refine ⟨fun hcrc => ?_, fun hcrc hmal => ?_⟩
  · exact congrArg (fun t => Host.Outcome.next (ended s t)) (if_pos hcrc)
  · exact congrArg (fun t => Host.Outcome.next (ended s t)) ((if_neg (Nat.not_lt.mpr hcrc)).trans (if_pos hmal))

theorem exec_creditStarved {vc : Nat} (hup : portUp s p = true) (hwait : look [] (s.wport p).txq vc ≠ []) (hcred : nth 0 (s.wport p).cred vc = 0) :
    exec (.creditStarved p vc) s = .next (ended s (if s.fb (wenBase p) 4 then linkDown (s.raise .creditStarved p (packBits [(vc, 0, 3)])) p 7
      else s.raise .creditStarved p (packBits [(vc, 0, 3)]))) := by
  have hnonempty : (look [] (s.wport p).txq vc).isEmpty = false := by simpa using hwait
  show execCreditStarved p vc s = _
  unfold execCreditStarved
  rw [hup, hnonempty, hcred, done_eq]
  rfl

theorem exec_lossOfLock_two {a b : Nat} (hlive : linkLive s p = true) (ha : a < 9) (hb : b < 9) (hne : a ≠ b)
    (hlocka : s.fb (wenBase p + 0x10) a = true) (hlockb : s.fb (wenBase p + 0x10) b = true) :
    exec (.lossOfLock p [a, b]) s =
      .next (ended s (linkDown ((s.setB (wenBase p + 0x10) a false).setB (wenBase p + 0x10) b false) p 1)) := by
  have hlanes : ([a, b].filter (fun l => l < 9 && s.fb (wenBase p + 0x10) l)).eraseDups = [a, b] := by
    simp [ha, hb, hlocka, hlockb, List.eraseDups_cons, Ne.symm hne]
  show execLossOfLock p [a, b] s = _
  unfold execLossOfLock
  dsimp only
  rw [hlive, hlanes, done_eq]
  rfl

/-! ### Lanes (R295) -/

theorem spareFree_failed {lane : Nat} (hlane : lane < 8) : spareFree (s.setB (wenBase p + 0x10) (9 + lane) true) p = spareFree s p := by
  unfold spareFree
  rw [State.fb_setB_apart _ _ _ _ _ (by omega) (by omega), State.fb_setB_apart _ _ _ _ _ (by omega) (by omega),
    State.fb_setB_apart _ _ _ _ _ (by omega) (by omega)]

/-- A lane that carries data asks for the spare. -/
theorem laneFails_spared {lane : Nat} (hlane : lane < 8) (huse : laneInUse s p lane = true) (hfree : spareFree s p = true)
    (hswap : (s.wport p).swap = none) : laneFails s p lane =
      (sendVc0 (s.setB (wenBase p + 0x10) (9 + lane) true) p 3 [lane]).modWport p (fun x => { x with swap := some lane }) := by
  have hkept : ((s.setB (wenBase p + 0x10) (9 + lane) true).wport p).swap = none := hswap
  unfold laneFails
  dsimp only
  rw [hkept, spareFree_failed hlane, hfree, huse, decide_eq_true hlane, decide_eq_true (show lane < 9 by omega)]
  rfl

/-- A lane that finds no spare ends the link. -/
theorem laneFails_exhausted {lane : Nat} (hlane : lane < 9) (huse : laneInUse s p lane = true) (hswap : (s.wport p).swap ≠ some lane)
    (hnone : lane = 8 ∨ spareFree s p = false ∨ (s.wport p).swap ≠ none) :
    laneFails s p lane = linkDown (s.setB (wenBase p + 0x10) (9 + lane) true) p 6 := by
  have hkept : ((s.setB (wenBase p + 0x10) (9 + lane) true).wport p).swap = (s.wport p).swap := rfl
  have hspare : (decide (lane < 8) && spareFree (s.setB (wenBase p + 0x10) (9 + lane) true) p && (s.wport p).swap.isNone) = false := by
    by_cases h8 : lane < 8
    · rw [spareFree_failed h8]
      rcases hnone with heq | hfree | hother
      · omega
      · rw [hfree, Bool.and_false, Bool.false_and]
      · rw [Option.isNone_eq_false_iff.mpr (Option.isSome_iff_ne_none.mpr hother), Bool.and_false]
    · rw [decide_eq_false h8, Bool.false_and, Bool.false_and]
  unfold laneFails
  dsimp only
  rw [hkept, hspare, huse, decide_eq_true hlane, decide_eq_false hswap]
  rfl

theorem exec_wenlynLaneFail {lane : Nat} (hlive : linkLive s p = true) :
    exec (.wenlynLaneFail p lane) s = .next (ended s (laneFails s p lane)) := by
  show execWenlynLaneFail p lane s = _
  unfold execWenlynLaneFail
  rw [if_pos hlive, done_eq]

theorem exec_lossOfLock_one {lane : Nat} (hlive : linkLive s p = true) (hlane : lane < 9) (hlock : s.fb (wenBase p + 0x10) lane = true) :
    exec (.lossOfLock p [lane]) s = .next (ended s (laneFails (s.setB (wenBase p + 0x10) lane false) p lane)) := by
  have hlanes : ([lane].filter (fun l => l < 9 && s.fb (wenBase p + 0x10) l)).eraseDups = [lane] := by
    simp [hlane, hlock, List.eraseDups_cons]
  show execLossOfLock p [lane] s = _
  unfold execLossOfLock
  dsimp only
  rw [hlive, hlanes, done_eq]
  rfl

theorem exec_laneSwap {lane : Nat} (hlive : linkLive s p = true) (hlane : lane < 8) (hfree : spareFree s p = true) :
    let u := (((s.setF (wenBase p + 0x10) 18 3 lane).setF (wenBase p + 0x10) 21 1 1).modWport p (fun x => { x with swap := none })).raise
      .wenLaneSpared p (packBits [(lane, 0, 4), (lane, 4, 3)])
    exec (.laneSwap p lane) s = .next (ended s (if (s.wport p).swap.any (fun l => l ≠ lane) then linkDown u p 6 else u)) := by
  intro u
  show execLaneSwap p lane s = _
  unfold execLaneSwap
  rw [hlive, hfree, decide_eq_true hlane, done_eq]
  rfl

/-! ### A partner's fault notice (R305) -/

theorem exec_partnerFault {pkg : Nat} (hup : portUp s p = true) : exec (.partnerFault p pkg) s = .next (ended s
    (if (peers s).contains pkg then peerLost (s.raise .partnerFault p (packBits [(pkg, 0, 12)]))
      else s.raise .partnerFault p (packBits [(pkg, 0, 12)]))) := by
  have hpeers : peers (s.raise .partnerFault p (packBits [(pkg, 0, 12)])) = peers s := rfl
  show execPartnerFault p pkg s = _
  unfold execPartnerFault
  dsimp only
  rw [hup, hpeers, done_eq]
  rfl

/-- Settles O23: each cause by the branch that names it, and a port that leaves UP by what its state change leaves alone. -/
theorem wenlynLinkLoss : Obligations.WenlynLinkLoss := by
  refine ⟨fun s p => exec_wenlynReplayLimit, fun s p hp => ⟨exec_linkDead hp, exec_peerClose hp⟩, exec_wenlynErrorLimit,
    fun s p vc hup hwait hcred => exec_creditStarved hup hwait hcred,
    fun s p a b hlive ha hb hne hlocka hlockb => exec_lossOfLock_two hlive ha hb hne hlocka hlockb,
    fun s p c hp hc hup => ⟨setPortState (linkCut s p c) p 1, (linkLost_of_up hp hc hup).1, (linkLost_of_up hp hc hup).2, linkDown_eq hup⟩,
    fun s p c hdown => linkDown_other hdown, fun s p lane hlive hlane huse hfree hswap => ⟨?_, exec_lossOfLock_one hlive (by omega)⟩,
    fun s p lane hlive hlane huse hswap hnone => ?_, fun s p lane hlive hlane hfree => exec_laneSwap hlive hlane hfree,
    fun s p pkg hup hpeer => ?_, fun s p pkg hup hpeer => ?_⟩
  · rw [exec_wenlynLaneFail hlive, laneFails_spared hlane huse hfree hswap]
  · rw [exec_wenlynLaneFail hlive, laneFails_exhausted hlane huse hswap hnone]
  · rw [exec_partnerFault hup, if_neg (by simpa using hpeer)]
  · rw [exec_partnerFault hup, if_pos (by simpa using hpeer)]

end Sys2Proof.Machine
end

section
/-! Bring-up of Wenlyn ports: training and HELLO (R287, R290, R291). -/
namespace Sys2Proof.Machine

variable {s t : State} {p : Nat}

/-! ### Notices on VC0 -/

theorem pieces_short {α : Type} {n : Nat} {xs : List α} (h0 : 0 < xs.length) (h : xs.length ≤ n) : pieces n xs = [xs] := by
  obtain ⟨k, hk⟩ := Nat.exists_eq_succ_of_ne_zero (Nat.ne_of_gt h0)
  have hempty : xs.isEmpty = false := by
    rw [List.isEmpty_eq_false_iff]
    exact List.ne_nil_of_length_pos h0
  unfold pieces
  rw [if_neg (by omega), hk, piecesGo, hempty, if_neg (by decide), List.take_of_length_le h, List.drop_of_length_le h]
  cases k <;> rfl

/-- A notice is one flit. -/
theorem vc0Flits_length (s : State) (p kind : Nat) (vals : List Nat) : (vc0Flits s p (vc0Payload kind vals)).length = 1 := by
  have hlen : (vc0Payload kind vals).length ≤ 232 := by
    unfold vc0Payload
    rw [List.length_cons, List.length_take]
    omega
  unfold vc0Flits
  dsimp only
  rw [pieces_short (by unfold vc0Payload; exact Nat.succ_pos _) hlen]
  rfl

theorem enqueue_wport (s : State) (p vc : Nat) (fs : List WFlit) :
    (enqueue s p vc fs).wport p = { s.wport p with txq := putRaw (s.wport p).txq vc (look [] (s.wport p).txq vc ++ fs) } := by
  unfold enqueue
  rw [State.wport_modWport, if_pos rfl]

theorem sendVc0_wport (s : State) (p kind : Nat) (vals : List Nat) : (sendVc0 s p kind vals).wport p =
    { s.wport p with txq := putRaw (s.wport p).txq 0 (look [] (s.wport p).txq 0 ++ vc0Flits s p (vc0Payload kind vals)) } :=
  (wport_wen (State.emit_wen ..) p).trans (enqueue_wport ..)

theorem sendVc0_regs (s : State) (p kind : Nat) (vals : List Nat) : (sendVc0 s p kind vals).regs = s.regs := rfl

theorem mem_sendVc0 (s : State) (p kind : Nat) (vals : List Nat) : .vc0 p kind vals ∈ (sendVc0 s p kind vals).outbox :=
  List.mem_append_right _ (List.mem_singleton_self _)

theorem helloVals_regs (h : t.regs = s.regs) (p : Nat) : helloVals t p = helloVals s p := by
  unfold helloVals laneMap creditsOf ownPkg portF
  simp only [f_regs h, fb_regs h]

/-- Whether a port is given to Awl in a mode is read from two registers of the hub. -/
theorem awlIn_of_rd {m : Nat} (hctl : t.rd (wenBase p) = s.rd (wenBase p)) (hawl : t.rd (awlBase p) = s.rd (awlBase p)) :
    awlIn t p m = awlIn s p m := by
  unfold awlIn awlPort awlMode
  rw [fb_of_rd hctl, f_of_rd hawl]

theorem hubReg_awl (hp : p < 18) : HubReg (awlBase p) ∧ ∀ k, k < 0x8000 → awlBase p ≠ wenBase p + k := by
  unfold HubReg awlBase wenBase
  exact ⟨by omega, fun k hk => by omega⟩

theorem ended_portState (s t : State) (p : Nat) : portState (ended s t) p = portState t p := rfl

theorem portState_regs (h : t.regs = s.regs) (p : Nat) : portState t p = portState s p := by
  unfold portState
  rw [f_regs h]

/-! ### Training (R290) -/

/-- The lane register of a port that has trained on some lanes. -/
def laneWord (lanes : Nat) : Word :=
  let lost := (upto 8).find? (fun l => !bitN lanes l)
  BitVec.ofNat 64 (packBits
    [(lanes, 0, 9), (2 ^ (lost.getD 9) % 512, 9, 9), (lost.getD 0, 18, 3), (b2n lost.isSome, 21, 1), (b2n (bitN lanes 8), 22, 1)])

theorem fld_laneWord {lanes : Nat} (h : lanes < 512) : fld (laneWord lanes) 0 9 = lanes :=
  fld_packBits (by simp [Packable]) List.mem_cons_self (by decide) h

/-- The port that has trained, before it enters INIT. -/
def trained (s : State) (p lanes : Nat) : State :=
  (s.wr (wenBase p + 0x10) (laneWord lanes)).setWport p { WPort.reset with cred := [16, 0, 0, 0, 0, 0, 0, 0] }

theorem trained_rd (s : State) (p lanes : Nat) {o : Nat} (h : o ≠ wenBase p + 0x10) : (trained s p lanes).rd o = s.rd o :=
  (State.setWport_rd ..).trans (State.rd_wr_other _ _ _ _ h)

theorem portState_trained {lanes : Nat} (htrain : portState s p = 2) : portState (trained s p lanes) p ≠ 3 := by
  unfold portState at htrain ⊢
  rw [f_of_rd (trained_rd _ _ _ (by omega)), htrain]
  decide

section
variable {lanes : Nat} (hp : p < 18) (htrain : portState s p = 2)
include hp htrain

/-- What INIT starts from. -/
theorem trained_init (hlanes : lanes < 512) :
    portState (setPortState (trained s p lanes) p 3) p = 3 ∧ (setPortState (trained s p lanes) p 3).f (wenBase p + 0x10) 0 9 = lanes ∧
      (setPortState (trained s p lanes) p 3).wport p = { WPort.reset with cred := [16, 0, 0, 0, 0, 0, 0, 0] } ∧
      ∀ m, awlIn (setPortState (trained s p lanes) p 3) p m = awlIn s p m := by
  have hne := portState_trained (lanes := lanes) htrain
  obtain ⟨hhub, happly⟩ := hubReg_awl hp
  refine ⟨portState_setPortState hp (by decide) hne, ?_, ?_, fun m => awlIn_of_rd ?_ ?_⟩
  · rw [f_of_rd (setPortState_rd hne (hubReg_wen hp (by decide)) (by omega)), State.f, trained, State.setWport_rd, State.rd_wr_same,
      fld_laneWord hlanes]
  · rw [setPortState_wport hne, trained, State.wport_setWport, if_pos rfl]
  · exact (setPortState_rd hne (hubReg_wen (o := 0) hp (by decide)) (by omega)).trans (trained_rd _ _ _ (by omega))
  · rw [setPortState_rd hne hhub (happly 8 (by decide)), trained_rd _ _ _ (happly 0x10 (by decide))]

theorem exec_trainingDone (hpause : (s.wport p).paused = false) (hmany : 8 ≤ lanesIn lanes) :
    exec (.trainingDone p lanes) s = .next (ended s (if awlIn (setPortState (trained s p lanes) p 3) p 1
      then (setPortState (trained s p lanes) p 3).emit (.prbs p)
      else sendVc0 (setPortState (trained s p lanes) p 3) p 0 (helloVals (setPortState (trained s p lanes) p 3) p))) := by
  show execTrainingDone p lanes s = _
  unfold execTrainingDone
  rw [done_eq, if_neg (by simp [hp, htrain, hpause, hmany])]
  unfold trained laneWord
  dsimp only

theorem trainingDone_hello (hpause : (s.wport p).paused = false) (hmany : 8 ≤ lanesIn lanes) (hlanes : lanes < 512) (hawl : awlIn s p 1 = false) :
    ∃ t, exec (.trainingDone p lanes) s = .next t ∧ portState t p = 3 ∧ t.f (wenBase p + 0x10) 0 9 = lanes ∧
      (t.wport p).cred = [16, 0, 0, 0, 0, 0, 0, 0] ∧ (look [] (t.wport p).txq 0).length = 1 ∧ .vc0 p 0 (helloVals t p) ∈ t.outbox := by
  let u := setPortState (trained s p lanes) p 3
  let v := sendVc0 u p 0 (helloVals u p)
  obtain ⟨hstate, hword, hport, hin⟩ := trained_init hp htrain hlanes
  have hregs : v.regs = u.regs := sendVc0_regs ..
  have hv : v.wport p = { u.wport p with txq := putRaw (u.wport p).txq 0 (look [] (u.wport p).txq 0 ++ vc0Flits u p (vc0Payload 0 (helloVals u p))) } :=
    sendVc0_wport ..
  refine ⟨ended s v, ?_, ?_, ?_, ?_, ?_, ?_⟩
  · rw [exec_trainingDone hp htrain hpause hmany, hin, hawl, if_neg (by decide)]
  · rw [ended_portState, portState_regs hregs]
    exact hstate
  · rw [ended_f, f_regs hregs]
    exact hword
  · rw [ended_wport, hv, hport]
  · rw [ended_wport, hv, hport]
    dsimp only
    rw [look_putRaw, if_pos rfl, List.length_append, vc0Flits_length]
    rfl
  · rw [ended_outbox, show helloVals (ended s v) p = helloVals u p from (helloVals_regs (ended_regs ..) p).trans (helloVals_regs hregs p)]
    exact mem_sendVc0 ..

theorem trainingDone_pattern (hpause : (s.wport p).paused = false) (hmany : 8 ≤ lanesIn lanes) (hlanes : lanes < 512) (hawl : awlIn s p 1 = true) :
    ∃ t, exec (.trainingDone p lanes) s = .next t ∧ portState t p = 3 ∧ .prbs p ∈ t.outbox := by
  let u := setPortState (trained s p lanes) p 3
  obtain ⟨hstate, -, -, hin⟩ := trained_init hp htrain hlanes
  refine ⟨ended s (u.emit (.prbs p)), ?_, ?_, ?_⟩
  · rw [exec_trainingDone hp htrain hpause hmany, hin, hawl, if_pos rfl]
  · rw [ended_portState, portState_regs (State.emit_regs ..)]
    exact hstate
  · rw [ended_outbox, State.emit_outbox]
    exact List.mem_append_right _ (List.mem_singleton_self _)

/-- TRAIN_FAIL names the lanes that have locked. -/
theorem exec_trainTimeout (hpause : (s.wport p).paused = false) : exec (.trainTimeout p lanes) s = .next (ended s
    (((s.setF (wenBase p + 0x10) 0 9 lanes).raise .trainFail p (packBits [(portF (s.setF (wenBase p + 0x10) 0 9 lanes) p 0x10 0 9, 0, 9)])).modWport p
      (fun x => { x with paused := true }))) := by
  show execTrainTimeout p lanes s = _
  unfold execTrainTimeout
  rw [htrain, hpause, decide_eq_true hp, done_eq]
  rfl

theorem trainTimeout_effect (hpause : (s.wport p).paused = false) (hlanes : lanes < 512) :
    ∃ t, exec (.trainTimeout p lanes) s = .next t ∧ (t.wport p).paused = true ∧ t.f (wenBase p + 0x10) 0 9 = lanes ∧
      (∃ r ∈ t.raises, r.cls = 7 ∧ r.inst = p ∧ r.idx = (FaultSrc.trainFail).at.2 ∧ r.synd = lanes ∧ r.ev = s.evNo) ∧
      SameRegs [wenBase p + 0x10] s t ∧ SameMem s t ∧ SameCores [] s t := by
  let u := s.setF (wenBase p + 0x10) 0 9 lanes
  have hread : u.f (wenBase p + 0x10) 0 9 = lanes := (State.f_setF_same _ _ _ _ _ (by decide)).trans (Nat.mod_eq_of_lt hlanes)
  have hsynd : packBits [(portF u p 0x10 0 9, 0, 9)] % 2 ^ 64 = lanes := by
    rw [portF, hread]
    simp only [packBits, List.map_cons, List.map_nil, sumN, List.foldl_cons, List.foldl_nil]
    omega
  obtain ⟨hmem, hcores, -⟩ := (((LinkFrame.setF s (wenBase p + 0x10) 0 9 lanes).trans (LinkFrame.raise u .trainFail p
    (packBits [(portF u p 0x10 0 9, 0, 9)]))).trans (LinkFrame.modWport _ p (fun x => { x with paused := true }))).clauses
  refine ⟨_, exec_trainTimeout hp htrain hpause, ?_, ?_, ?_, ?_, hmem, hcores⟩
  · rw [ended_wport, State.wport_modWport, if_pos rfl]
  · rw [ended_f, State.modWport_f, State.raise_f]
    exact hread
  · rw [ended_raises, State.modWport_raises, State.raise_raises]
    exact ⟨_, List.mem_append_right _ (List.mem_singleton_self _), rfl, rfl, rfl, hsynd, State.setF_evNo (s := s) (wenBase p + 0x10) 0 9 lanes⟩
  · intro o ho
    rw [ended_rd, State.modWport_rd, State.raise_rd]
    exact State.rd_setF_other _ _ _ _ _ _ (by simpa using ho)

theorem exec_trainRetry : exec (.trainRetry p) s = .next (ended s (s.modWport p (fun x => { x with paused := false }))) := by
  show execTrainRetry p s = _
  unfold execTrainRetry
  rw [htrain, decide_eq_true hp, done_eq]
  rfl

end

/-- A port that begins to train starts from a reset transport. -/
theorem startTraining_effect (hp : p < 18) (hstate : portState s p ≠ 2) (hon : pdState s 8 (5 + p) = 0) :
    portState (startTraining s p) p = 2 ∧ (startTraining s p).wport p = WPort.reset ∧ (startTraining s p).rd (wenBase p + 0x10) = 0#64 := by
  let u := (s.setWport p WPort.reset).wr (wenBase p + 0x10) 0#64
  have hwake : wakeDom s 8 (5 + p) = s := by
    unfold wakeDom
    rw [hon]
    rfl
  have hne : portState u p ≠ 2 := by
    unfold portState at hstate ⊢
    rw [f_of_rd (State.rd_wr_other _ _ _ _ (by omega)), State.setWport_f]
    exact hstate
  have hstart : startTraining s p = setPortState u p 2 := by
    unfold startTraining
    rw [hwake]
  rw [hstart]
  refine ⟨portState_setPortState hp (by decide) hne, ?_, ?_⟩
  · rw [setPortState_wport hne, wport_wen (State.wr_wen ..), State.wport_setWport, if_pos rfl]
  · rw [setPortState_rd hne (hubReg_wen hp (by decide)) (by omega), State.rd_wr_same]

theorem downRetrain_effect (hp : p < 18) (hdown : portState s p = 1) (hon : pdState s 8 (5 + p) = 0) :
    ∃ t, exec (.downRetrain p) s = .next t ∧ portState t p = 2 ∧ t.wport p = WPort.reset ∧ t.rd (wenBase p + 0x10) = 0#64 := by
  obtain ⟨hstate, hport, hword⟩ := startTraining_effect hp (by rw [hdown]; decide) hon
  refine ⟨ended s (startTraining s p), ?_, (ended_portState ..).trans hstate, (ended_wport ..).trans hport, (ended_rd ..).trans hword⟩
  show execDownRetrain p s = _
  unfold execDownRetrain
  rw [hdown, decide_eq_true hp, done_eq]
  rfl

/-! ### HELLO (R291) -/

/-- PEER as an accepted HELLO sets it. -/
def peerWord (pkg port level : Nat) : Word := BitVec.ofNat 64 (packBits [(pkg, 0, 12), (port, 12, 5), (level, 17, 8)])

/-- The port after an accepted HELLO: the partner's window and credit. -/
def greetedPort (x : WPort) (idem : Nat) (credits : List Nat) : WPort :=
  { x with
    peerIdem := idem
    cred := (upto 8).map (fun v => if v = 0 then nth 0 x.cred 0 + nth 0 credits 0 - 16 else nth 0 x.cred v + nth 0 credits v) }

/-- The state after an accepted HELLO, before the port leaves INIT. -/
def greeted (s : State) (p pkg port level idem : Nat) (credits : List Nat) : State :=
  (s.wr (wenBase p + 0x48) (peerWord pkg port level)).modWport p (fun x => greetedPort x idem credits)

theorem nth_greeted_cred (x : WPort) (idem : Nat) (credits : List Nat) {v : Nat} (hv : v < 8) : nth 0 (greetedPort x idem credits).cred v =
    if v = 0 then nth 0 x.cred 0 + nth 0 credits 0 - 16 else nth 0 x.cred v + nth 0 credits v := by
  unfold greetedPort
  interval_cases v <;> rfl

section
variable {pkg port level idem : Nat} {credits lanes : List Nat}

theorem greeted_rd (s : State) (p : Nat) {o : Nat} (h : o ≠ wenBase p + 0x48) : (greeted s p pkg port level idem credits).rd o = s.rd o :=
  (State.modWport_rd ..).trans (State.rd_wr_other _ _ _ _ h)

theorem greeted_peer (s : State) (p : Nat) : (greeted s p pkg port level idem credits).rd (wenBase p + 0x48) = peerWord pkg port level :=
  (State.modWport_rd ..).trans (State.rd_wr_same ..)

theorem greeted_wport (s : State) (p : Nat) : (greeted s p pkg port level idem credits).wport p = greetedPort (s.wport p) idem credits := by
  unfold greeted
  rw [State.wport_modWport, if_pos rfl, wport_wen (State.wr_wen ..)]

/-- What the fields of PEER read as. -/
theorem fld_peerWord (hpkg : pkg < 4096) (hport : port < 18) (hlevel : level < 256) :
    fld (peerWord pkg port level) 0 12 = pkg ∧ fld (peerWord pkg port level) 12 5 = port ∧ fld (peerWord pkg port level) 17 8 = level := by
  have hfields : Packable [(pkg, 0, 12), (port, 12, 5), (level, 17, 8)] := by simp [Packable]
  exact ⟨fld_packBits hfields (by simp) (by decide) hpkg, fld_packBits hfields (by simp) (by decide) (by omega),
    fld_packBits hfields (by simp) (by decide) hlevel⟩

theorem helloOk_ranges (h : helloOk s pkg port level credits idem lanes = true) : pkg < 4096 ∧ port < 18 ∧ level < 256 := by
  unfold helloOk at h
  simp only [Bool.and_eq_true, decide_eq_true_eq] at h
  omega

/-- Whether this end requires authentication. -/
def ownAuth (s : State) (p : Nat) : Bool := s.fb (wenBase p) 2 && !awlIn s p 3

theorem ownAuth_greeted (hp : p < 18) : ownAuth (greeted s p pkg port level idem credits) p = ownAuth s p := by
  have hctl : (greeted s p pkg port level idem credits).rd (wenBase p) = s.rd (wenBase p) := greeted_rd _ _ (by omega)
  unfold ownAuth
  rw [fb_of_rd hctl, awlIn_of_rd hctl (greeted_rd _ _ ((hubReg_awl hp).2 _ (by decide)))]

theorem exec_hello_accepted {authReq : Bool} (hlive : linkLive s p = true) (hinit : portState s p = 3)
    (hok : helloOk s pkg port level credits idem lanes = true) :
    exec (.hello p pkg port level credits idem authReq lanes) s = .next (ended s
      (let u := greeted s p pkg port level idem credits
      if ownAuth u p || authReq then spdmAsk (setPortState u p 4) p 0x10 0x84 (leBytes 2 0) else setPortState u p 5)) := by
  show execHello p pkg port level credits idem authReq lanes s = _
  unfold execHello
  rw [done_eq, if_neg (by simp [hlive, hinit]), if_neg (by simp [hok])]
  rfl

theorem exec_hello_refused {authReq : Bool} (hlive : linkLive s p = true) (hinit : portState s p = 3)
    (hbad : helloOk s pkg port level credits idem lanes = false) :
    exec (.hello p pkg port level credits idem authReq lanes) s = .next (ended s (startTraining s p)) := by
  show execHello p pkg port level credits idem authReq lanes s = _
  unfold execHello
  rw [done_eq, if_neg (by simp [hlive, hinit]), if_pos (by simp [hbad])]

/-- A request of this end is queued, and its answer waited for. -/
theorem spdmAsk_wport (s : State) (p ver code : Nat) (stated : List Byte) : ∃ q, (spdmAsk s p ver code stated).wport p =
    { s.wport p with txq := q, spdmReq := some code } := by
  unfold spdmAsk
  rw [State.wport_modWport, if_pos rfl]
  refine ⟨((enqueue s p 0 (vc0Flits s p (vc0Payload 4 [(leBytes 1 ver ++ leBytes 1 code ++ stated ++ Config.spdmPayload s.freeCtr).length] ++
    (leBytes 1 ver ++ leBytes 1 code ++ stated ++ Config.spdmPayload s.freeCtr)))).wport p).txq, ?_⟩
  have hport : (spdmSend s p ver code stated).wport p = (enqueue s p 0 (vc0Flits s p (vc0Payload 4
      [(leBytes 1 ver ++ leBytes 1 code ++ stated ++ Config.spdmPayload s.freeCtr).length] ++
    (leBytes 1 ver ++ leBytes 1 code ++ stated ++ Config.spdmPayload s.freeCtr)))).wport p := rfl
  rw [hport, enqueue_wport]

theorem spdmAsk_regs (s : State) (p ver code : Nat) (stated : List Byte) : (spdmAsk s p ver code stated).regs = s.regs := rfl

/-- The port leaves INIT with what the HELLO has set. -/
theorem setPortState_greeted {st : Nat} (hp : p < 18) (hst : st < 8) (hne : st ≠ 3) (hinit : portState s p = 3)
    (hok : helloOk s pkg port level credits idem lanes = true) :
    let v := setPortState (greeted s p pkg port level idem credits) p st
    portState v p = st ∧ v.f (wenBase p + 0x48) 0 12 = pkg ∧ v.f (wenBase p + 0x48) 12 5 = port ∧ v.f (wenBase p + 0x48) 17 8 = level ∧
      v.wport p = greetedPort (s.wport p) idem credits := by
  intro v
  obtain ⟨hpkg, hport, hlevel⟩ := helloOk_ranges hok
  obtain ⟨h1, h2, h3⟩ := fld_peerWord hpkg hport hlevel
  have hother : portState (greeted s p pkg port level idem credits) p ≠ st := by
    unfold portState at hinit ⊢
    rw [f_of_rd (greeted_rd _ _ (by omega)), hinit]
    exact hne.symm
  have hpeer : v.rd (wenBase p + 0x48) = peerWord pkg port level :=
    (setPortState_rd hother (hubReg_wen hp (by decide)) (by omega)).trans (greeted_peer ..)
  have hf (l w : Nat) : v.f (wenBase p + 0x48) l w = fld (peerWord pkg port level) l w := congrArg (fun x => fld x l w) hpeer
  exact ⟨portState_setPortState hp hst hother, (hf ..).trans h1, (hf ..).trans h2, (hf ..).trans h3,
    (setPortState_wport hother p).trans (greeted_wport ..)⟩

end

/-- Settles O24: each event by its branch, and what a port starts from by what its change of state leaves alone. -/
theorem wenlynBringUp : Obligations.WenlynBringUp := by
  refine ⟨fun s p lanes hp htrain hpause hmany hlanes hawl => trainingDone_hello hp htrain hpause hmany hlanes hawl,
    fun s p lanes hp htrain hpause hmany hlanes hawl => trainingDone_pattern hp htrain hpause hmany hlanes hawl,
    fun s p lanes hp htrain hpause hlanes => trainTimeout_effect hp htrain hpause hlanes, fun s p hp htrain => exec_trainRetry hp htrain,
    fun s p hp hdown hon => downRetrain_effect hp hdown hon, fun s p pkg port level idem credits lanes authReq hlive hinit hok => ?_,
    fun s p pkg port level idem credits lanes authReq hlive hinit hbad => exec_hello_refused hlive hinit hbad⟩
  have hp := linkLive_lt hlive
  have hexec := exec_hello_accepted (authReq := authReq) hlive hinit hok
  have hcred0 := nth_greeted_cred (s.wport p) idem credits (v := 0) (by decide)
  have hcred (v : Nat) (h1 : 1 ≤ v) (h8 : v < 8) : nth 0 (greetedPort (s.wport p) idem credits).cred v =
      nth 0 (s.wport p).cred v + nth 0 credits v := by
    rw [nth_greeted_cred _ _ _ h8, if_neg (by omega)]
  dsimp only at hexec
  rw [ownAuth_greeted hp] at hexec
  by_cases hauth : (ownAuth s p || authReq) = true
  · obtain ⟨hstate, hpkg, hport, hlevel, hwport⟩ := setPortState_greeted (st := 4) hp (by decide) (by decide) hinit hok
    let u := setPortState (greeted s p pkg port level idem credits) p 4
    obtain ⟨q, hask⟩ := spdmAsk_wport u p 0x10 0x84 (leBytes 2 0)
    have hregs := spdmAsk_regs u p 0x10 0x84 (leBytes 2 0)
    rw [if_pos hauth] at hexec
    rw [hwport] at hask
    refine ⟨_, hexec, ?_, ?_, ?_, ?_, ?_, fun _ => ?_, ?_, fun v h1 h8 => ?_⟩
    · rw [ended_portState, portState_regs hregs]
      exact hstate.trans (if_pos hauth).symm
    · rw [ended_f, f_regs hregs]
      exact hpkg
    · rw [ended_f, f_regs hregs]
      exact hport
    · rw [ended_f, f_regs hregs]
      exact hlevel
    · rw [ended_wport, hask]
      rfl
    · rw [ended_wport, hask]
    · rw [ended_wport, hask]
      exact hcred0
    · rw [ended_wport, hask]
      exact hcred v h1 h8
  · obtain ⟨hstate, hpkg, hport, hlevel, hwport⟩ := setPortState_greeted (st := 5) hp (by decide) (by decide) hinit hok
    rw [if_neg hauth] at hexec
    refine ⟨_, hexec, ?_, (ended_f ..).trans hpkg, (ended_f ..).trans hport, (ended_f ..).trans hlevel, ?_, fun h => absurd h hauth, ?_,
      fun v h1 h8 => ?_⟩
    · rw [ended_portState]
      exact hstate.trans (if_neg hauth).symm
    · rw [ended_wport, hwport]
      rfl
    · rw [ended_wport, hwport]
      exact hcred0
    · rw [ended_wport, hwport]
      exact hcred v h1 h8

end Sys2Proof.Machine
end

section
/-! Requests and responses at the hub, timeouts, and the idempotency table (R297-R301, R307). -/
namespace Sys2Proof.Machine

variable {s u : State} {i p : Nat} {r : WReq}

/-! ### READ and WRITE -/

theorem exec_read (h : inTake s i 1 = some (p, r, u)) : exec (.read i) s = .next (ended s
    (if !remoteWin u r.src 1 (r.arg % 2 ^ 48) (readLen r) then answerOn (admitDrop u p r) p r rcDenied 0 []
      else if poisoned u (r.arg % 2 ^ 48) (readLen r) then
        answerOn (hbmTouch u hintNormal (r.arg % 2 ^ 48) (readLen r)) p r rcPoisoned 0 []
      else answerOn (hbmTouch u hintNormal (r.arg % 2 ^ 48) (readLen r)) p r rcOk 0 (u.bytes (r.arg % 2 ^ 48) (readLen r)))) := by
  show execRead i s = _
  unfold execRead
  rw [h, done_eq]

theorem exec_write (h : inTake s i 2 = some (p, r, u)) : exec (.write i) s = .next (ended s
    (if r.data.length = 0 || 4096 < r.data.length then answerOn u p r rcMalformed 0 []
      else if !remoteWin u r.src 2 (r.arg % 2 ^ 48) r.data.length then answerOn (admitDrop u p r) p r rcDenied 0 []
      else answerOn (hbmWrite u hintNormal (r.arg % 2 ^ 48) r.data) p r
        (if (hbmWrite u hintNormal (r.arg % 2 ^ 48) r.data).memBad then rcPoisoned else rcOk) 0 [])) := by
  show execWrite i s = _
  unfold execWrite
  rw [h, done_eq]

theorem write_length (h0 : 0 < r.data.length) (h : r.data.length ≤ 4096) :
    ¬ (decide (r.data.length = 0) || decide (4096 < r.data.length)) = true := by
  simp only [Bool.or_eq_true, decide_eq_true_eq]
  omega

theorem write_requests (h : inTake s i 2 = some (p, r, u)) :
    (0 < r.data.length → r.data.length ≤ 4096 → remoteWin u r.src 2 (r.arg % 2 ^ 48) r.data.length = true →
      exec (.write i) s = .next (ended s (answerOn (hbmWrite u hintNormal (r.arg % 2 ^ 48) r.data) p r
        (if (hbmWrite u hintNormal (r.arg % 2 ^ 48) r.data).memBad then rcPoisoned else rcOk) 0 []))) ∧
    (0 < r.data.length → r.data.length ≤ 4096 → remoteWin u r.src 2 (r.arg % 2 ^ 48) r.data.length = false →
      exec (.write i) s = .next (ended s (answerOn (admitDrop u p r) p r rcDenied 0 []))) ∧
    ((r.data.length = 0 ∨ 4096 < r.data.length) → exec (.write i) s = .next (ended s (answerOn u p r rcMalformed 0 []))) := by
  rw [exec_write h]
  refine ⟨fun h0 hmax hwin => ?_, fun h0 hmax hwin => ?_, fun hlen => ?_⟩
  · rw [if_neg (write_length h0 hmax), hwin, if_neg (by decide)]
  · rw [if_neg (write_length h0 hmax), hwin, if_pos (by decide)]
  · rw [if_pos (by simpa only [Bool.or_eq_true, decide_eq_true_eq] using hlen)]

/-! ### ATOMIC -/

/-- Bytes of data that an atomic brings. -/
def atomicNeed (code : Nat) : Nat := if code = 8 then 16 else if code = 7 then 8 else 4
/-- The new value of an atomic: the comparand of a CAS comes before it. -/
def atomicValue (r : WReq) (code : Nat) : Nat :=
  if 7 ≤ code then leNat ((r.data.drop (atWidth code)).take (atWidth code)) else leNat (r.data.take (atWidth code))
/-- The comparand of a CAS. -/
def atomicComparand (r : WReq) (code : Nat) : Nat := if 7 ≤ code then leNat (r.data.take (atWidth code)) else 0

section
variable {a c w : Nat} (ha : a = r.arg % 2 ^ 48) (hc : c = r.flags % 16) (hw : w = atWidth c)
include ha hc hw

theorem exec_atomic (h : inTake s i 3 = some (p, r, u)) : exec (.atomic i) s = .next (ended s
    (if 8 < c then answerOn u p r rcUnsupported 0 []
      else if r.data.length ≠ atomicNeed c || a % w ≠ 0 then answerOn u p r rcMalformed 0 []
      else if !remoteWin u r.src 3 a w then answerOn (admitDrop u p r) p r rcDenied 0 []
      else if poisoned u a w then answerOn u p r rcPoisoned 0 []
      else answerOn (u.atomicAt hintNormal c a (atomicValue r c) (atomicComparand r c)).1 p r rcOk 0 (leBytes w (u.num a w)))) := by
  subst ha hc hw
  show execAtomic i s = _
  unfold execAtomic atomicValue atomicComparand atomicNeed
  rw [h, done_eq]
  simp only
  rfl

theorem atomic_requests (h : inTake s i 3 = some (p, r, u)) :
    (c ≤ 8 → r.data.length = atomicNeed c → a % w = 0 → remoteWin u r.src 3 a w = true → poisoned u a w = false →
      exec (.atomic i) s = .next (ended s
        (answerOn (u.atomicAt hintNormal c a (atomicValue r c) (atomicComparand r c)).1 p r rcOk 0 (leBytes w (u.num a w))))) ∧
    (c ≤ 8 → r.data.length = atomicNeed c → a % w = 0 → remoteWin u r.src 3 a w = true → poisoned u a w = true →
      exec (.atomic i) s = .next (ended s (answerOn u p r rcPoisoned 0 []))) ∧
    (c ≤ 8 → r.data.length = atomicNeed c → a % w = 0 → remoteWin u r.src 3 a w = false →
      exec (.atomic i) s = .next (ended s (answerOn (admitDrop u p r) p r rcDenied 0 []))) ∧
    (c ≤ 8 → (r.data.length ≠ atomicNeed c ∨ a % w ≠ 0) → exec (.atomic i) s = .next (ended s (answerOn u p r rcMalformed 0 []))) ∧
    (8 < c → exec (.atomic i) s = .next (ended s (answerOn u p r rcUnsupported 0 []))) := by
  have hfits (hlen : r.data.length = atomicNeed c) (halign : a % w = 0) : ¬ (decide (r.data.length ≠ atomicNeed c) || decide (a % w ≠ 0)) = true := by
    simp [hlen, halign]
  rw [exec_atomic ha hc hw h]
  refine ⟨fun hcode hlen halign hwin hpois => ?_, fun hcode hlen halign hwin hpois => ?_, fun hcode hlen halign hwin => ?_,
    fun hcode hbad => ?_, fun hcode => ?_⟩
  · rw [if_neg (Nat.not_lt.mpr hcode), if_neg (hfits hlen halign), hwin, if_neg (by decide), hpois, if_neg (by decide)]
  · rw [if_neg (Nat.not_lt.mpr hcode), if_neg (hfits hlen halign), hwin, if_neg (by decide), hpois, if_pos rfl]
  · rw [if_neg (Nat.not_lt.mpr hcode), if_neg (hfits hlen halign), hwin, if_pos (by decide)]
  · rw [if_neg (Nat.not_lt.mpr hcode), if_pos]
    simpa only [Bool.or_eq_true, decide_eq_true_eq] using hbad
  · rw [if_pos hcode]

end

/-! ### Responses (R297, R307) -/

/-- The state without the request that a response ends. -/
def outDone (u : State) (o : WOut) : State := { u with wen := { u.wen with outs := u.wen.outs.filter (fun y => y ≠ o) } }

section
variable {sp : Option NetMsg}

theorem exec_resp_unmatched (h : inTake s i 0x80 = some (p, r, u))
    (hnone : u.wen.outs.find? (fun o => o.req.tag = r.tag && o.req.reqId = r.reqId) = none) :
    exec (.resp i sp) s = .next (ended s (awlCheck (u.addCtr (wenBase p + 0xA8) 1) p 10 0
      (packBits [(r.src, 0, 12), (ownPkg s, 12, 12), (r.tag, 24, 14), (r.reqId, 38, 26)]))) := by
  show execResp i sp s = _
  unfold execResp
  rw [h, done_eq]
  dsimp only
  rw [hnone]

variable {o : WOut}

theorem exec_resp_matched (h : inTake s i 0x80 = some (p, r, u))
    (hsome : u.wen.outs.find? (fun o => o.req.tag = r.tag && o.req.reqId = r.reqId) = some o) :
    exec (.resp i sp) s = .next (ended s ((outAnswered (outDone u o) o r sp).getD s)) := by
  show execResp i sp s = _
  unfold execResp
  rw [h, done_eq]
  dsimp only
  rw [hsome]
  rfl

theorem outAnswered_eq (v : State) (o : WOut) (r : WReq) (sp : Option NetMsg) (hcode : r.code ≠ rcDenied) :
    (o.org = .cinch → outAnswered v o r sp = some (if r.code = 0 then v else peerLost v)) ∧
    (∀ m, o.org = .chan m → r.code ≠ 0 → outAnswered v o r sp = some (unreachReply v m)) ∧
    (∀ base copy n, o.org = .shadow base copy n → r.code = 0 → outAnswered v o r sp = some v) ∧
    (∀ cmd, o.org = .restore cmd → outAnswered v o r sp = some (restoreGot v cmd r.code r.data)) := by
  unfold outAnswered
  rw [if_neg hcode]
  refine ⟨fun horg => ?_, fun m horg h0 => ?_, fun base copy n horg h0 => ?_, fun cmd horg => ?_⟩
  · rw [horg]
  · rw [horg]
    exact if_pos h0
  · rw [horg]
    exact congrArg some (if_pos h0)
  · rw [horg]

theorem outAnswered_denied (v : State) {o : WOut} {m : NetMsg} (r : WReq) (sp : Option NetMsg) (horg : o.org = .chan m) (hcode : r.code = rcDenied) :
    outAnswered v o r sp = some (unreachReply (v.emit (.remoteEnd o.req.dst o.req.tag stRemoteDenied)) m) := by
  unfold outAnswered
  rw [if_pos hcode, horg]
  exact if_pos (by rw [hcode]; decide)

end

/-! ### Timeouts (R297, R298) -/

theorem exec_remoteTimeout {tag reqId : Nat} {o : WOut}
    (h : s.wen.outs.find? (fun o => o.req.tag = tag && o.req.reqId = reqId && o.sent) = some o) :
    exec (.remoteTimeout tag reqId) s = .next (ended s (failOut s o stRemoteTimeout)) := by
  show execRemoteTimeout tag reqId s = _
  unfold execRemoteTimeout
  rw [h, done_eq]

theorem unstick_idle {n : Nat} (h : (s.wport p).stuck = []) : unstick n s p = s := by
  cases n with
  | zero => rfl
  | succ n =>
    unfold unstick
    rw [h]

/-- The idempotency table without an entry. -/
def idemWithout (s : State) (pkg reqId : Nat) : State :=
  { s with wen := { s.wen with idem := s.wen.idem.filter (fun e => !(e.1 = pkg && e.2.1 = reqId)) } }

theorem idemWithout_wport (s : State) (pkg reqId p : Nat) : (idemWithout s pkg reqId).wport p = s.wport p := rfl

theorem exec_idemExpire {pkg reqId : Nat} (h : ∀ p, p < 18 → (s.wport p).stuck = []) :
    exec (.idemExpire pkg reqId) s = .next (ended s (idemWithout s pkg reqId)) := by
  have hfold : (upto 18).foldl (fun s p => unstick 4096 s p) (idemWithout s pkg reqId) = idemWithout s pkg reqId :=
    List.foldlRecOn _ _ (motive := fun t => t = idemWithout s pkg reqId) rfl fun t ht q hq => by
      rw [ht]
      exact unstick_idle (by rw [idemWithout_wport]; exact h q (lt_of_mem_upto hq))
  exact congrArg (fun t => Host.Outcome.next (ended s t)) hfold

/-- Settles O26: each request by the branch of its command, and each response by the origin of the request it ends. -/
theorem wenlynHubRequests : Obligations.WenlynHubRequests := by
  refine ⟨fun s u i p r h hwin => ⟨fun hpois => ?_, fun hpois => ?_⟩, fun s u i p r h => write_requests h, fun s u i p r h => atomic_requests rfl rfl rfl h,
    fun s u i p r h hwin => ?_, fun s u i p r sp h hnone => exec_resp_unmatched h hnone, fun s u i p r sp o h hsome => ?_,
    fun s tag reqId o h => exec_remoteTimeout h, fun s pkg reqId h => exec_idemExpire h⟩
  · rw [exec_read h, hwin, if_neg (by decide), hpois, if_neg (by decide)]
  · rw [exec_read h, hwin, if_neg (by decide), hpois, if_pos rfl]
  · rw [exec_read h, hwin, if_pos (by decide)]
  · intro v
    have hexec := exec_resp_matched (sp := sp) h hsome
    refine ⟨fun horg h0 => ?_, fun m horg h0 hden => ?_, fun m horg hden => ?_, fun base copy n horg h0 => ?_, fun cmd horg hden => ?_⟩
    · rw [hexec, (outAnswered_eq _ o r sp (by rw [h0]; decide)).1 horg, if_pos h0]
      rfl
    · rw [hexec, (outAnswered_eq _ o r sp hden).2.1 m horg h0]
      rfl
    · rw [hexec, outAnswered_denied _ r sp horg hden]
      rfl
    · rw [hexec, (outAnswered_eq _ o r sp (by rw [h0]; decide)).2.2.1 base copy n horg h0]
      rfl
    · rw [hexec, (outAnswered_eq _ o r sp hden).2.2.2 cmd horg]
      rfl

end Sys2Proof.Machine
end

section
/-! Authentication of Wenlyn partners (R300). -/
namespace Sys2Proof.Machine

variable {s t : State} {p : Nat}

/-! ### Messages -/

/-- An SPDM message: version, code, what the manual states, and the rest. -/
def spdmBytes (s : State) (ver code : Nat) (stated : List Byte) : List Byte :=
  leBytes 1 ver ++ leBytes 1 code ++ stated ++ Config.spdmPayload s.freeCtr

/-- The flits of an SPDM message are queued. -/
def spdmQueued (s : State) (p ver code : Nat) (stated : List Byte) : State :=
  enqueue s p 0 (vc0Flits s p (vc0Payload 4 [(spdmBytes s ver code stated).length] ++ spdmBytes s ver code stated))

theorem spdmSend_eq (s : State) (p ver code : Nat) (stated : List Byte) : spdmSend s p ver code stated =
    { (spdmQueued s p ver code stated).emit (.spdm p (spdmBytes s ver code stated)) with freeCtr := s.freeCtr + 1 } := rfl

section
variable (s : State) (p ver code : Nat) (stated : List Byte)

theorem spdmSend_outbox : (spdmSend s p ver code stated).outbox = s.outbox ++ [.spdm p (spdmBytes s ver code stated)] := rfl
theorem spdmSend_regs : (spdmSend s p ver code stated).regs = s.regs := rfl

end

theorem mem_insertNat_self (a : Nat) : ∀ l : List Nat, a ∈ insertNat l a
  | [] => List.mem_singleton_self a
  | k :: l => by
    unfold insertNat
    split
    · exact List.mem_cons_self
    · split
      · next h => exact h ▸ List.mem_cons_self
      · exact List.mem_cons_of_mem _ (mem_insertNat_self a l)

/-- An answer goes out and is noted. -/
theorem spdmAnswer_answered (hlive : linkLive s p = true) (hinit : portState s p ≠ 3) (ver code : Nat) (stated : List Byte) :
    SpdmAnswered s (ended s (spdmAnswer s p ver code stated)) p ver code stated := by
  let u := spdmSend s p ver code stated
  have heq : spdmAnswer s p ver code stated = u.modWport p (fun x => { x with spdm := insertNat x.spdm code }) := by
    unfold spdmAnswer
    exact if_neg (by simp [hlive, hinit])
  obtain ⟨hmem, hcores, -⟩ := (LinkFrame.spdmAnswer s p ver code stated).clauses
  refine ⟨⟨Config.spdmPayload s.freeCtr, ?_⟩, ?_, fun o _ => ?_, hmem, hcores⟩
  · rw [ended_outbox, heq, State.modWport_outbox]
    rfl
  · rw [ended_wport, heq, State.wport_modWport, if_pos rfl]
    exact mem_insertNat_self ..
  · rw [ended_rd, heq, State.modWport_rd]
    exact rd_regs (spdmSend_regs ..) o

/-! ### The exchange -/

/-- A request goes out on a port whose messages and registers are those of `s`. -/
theorem spdmAsk_asked {u : State} (hout : u.outbox = s.outbox) (hregs : u.regs = s.regs) (hframe : LinkFrame s u) (code : Nat) (stated : List Byte) :
    SpdmAsked s (ended s (spdmAsk u p 0x13 code stated)) p code := by
  obtain ⟨q, hport⟩ := spdmAsk_wport u p 0x13 code stated
  obtain ⟨hmem, hcores, -⟩ := (hframe.trans ((LinkFrame.spdmSend u p 0x13 code stated).trans
    (LinkFrame.modWport _ p (fun x => { x with spdmReq := some code })))).clauses
  refine ⟨⟨stated ++ Config.spdmPayload u.freeCtr, ?_⟩, ?_, fun o _ => ?_, hmem, hcores⟩
  · rw [ended_outbox, spdmAsk, State.modWport_outbox, spdmSend_outbox, hout, spdmBytes, List.append_assoc _ stated]
  · rw [ended_wport, hport]
  · rw [ended_rd]
    exact rd_regs ((spdmAsk_regs ..).trans hregs) o

section
variable {code ans : Nat} {m : List Byte} {ok : Bool} {next : State → State}
variable (hlive : linkLive s p = true) (hauth : portState s p = 4) (hwait : (s.wport p).spdmReq = some code)
include hlive hauth hwait

theorem spdmStep_good (hans : msgNat m 1 1 = ans) (hok : ok = true) : spdmStep s p code ans m ok next = next s := by
  unfold spdmStep spdmWaits
  rw [if_neg (by simp [hlive, hauth, hwait]), if_pos (by simp [hans, hok])]

theorem spdmStep_bad (hans : msgNat m 1 1 ≠ ans) : spdmStep s p code ans m ok next = authFails s p := by
  unfold spdmStep spdmWaits
  rw [if_neg (by simp [hlive, hauth, hwait]), if_neg (by simp [hans])]

end

/-- The exchange has failed, before the port leaves AUTH. -/
def authRefused (s : State) (p : Nat) : State :=
  s.freeWord.2.raise .authFail p (packBits [(s.freeWord.1, 0, 16)])

theorem portState_authFails (hp : p < 18) (hauth : portState s p = 4) : portState (authFails s p) p = 6 := by
  have hsame : portState (authRefused s p) p = portState s p := rfl
  have heq : authFails s p = setPortState (authRefused s p) p 6 := rfl
  rw [heq]
  exact portState_setPortState hp (by decide) (by rw [hsame, hauth]; decide)

theorem refused_effect (hp : p < 18) (hauth : portState s p = 4) : portState (ended s (authFails s p)) p = 6 :=
  (ended_portState ..).trans (portState_authFails hp hauth)

/-! ### The commands -/

section
variable (hlive : linkLive s p = true) (hinit : portState s p ≠ 3)
include hlive hinit

theorem spdm_answers :
    (∃ t, exec (.spdmGetVersion p none) s = .next t ∧ SpdmAnswered s t p 0x10 0x04 [0#8, 0#8, 0#8, 1#8, 0x00#8, 0x13#8]) ∧
    (∃ t, exec (.spdmGetCapabilities p none) s = .next t ∧ SpdmAnswered s t p 0x13 0x61 (leBytes 2 0 ++ leBytes 4 0 ++ leBytes 4 0x16)) ∧
    (∃ t, exec (.spdmNegotiateAlgorithms p none) s = .next t ∧
      SpdmAnswered s t p 0x13 0x63 (leBytes 2 0 ++ leBytes 2 36 ++ leBytes 2 1 ++ leBytes 4 0x4 ++ leBytes 4 0x80 ++ leBytes 4 0x2)) ∧
    (∃ t, exec (.spdmGetDigests p none) s = .next t ∧ SpdmAnswered s t p 0x13 0x01 (leBytes 2 0x0100)) ∧
    (∃ t, exec (.spdmGetCertificate p none) s = .next t ∧ SpdmAnswered s t p 0x13 0x02 (leBytes 2 0)) ∧
    (∃ t, exec (.spdmChallenge p none) s = .next t ∧ SpdmAnswered s t p 0x13 0x03 (leBytes 2 0)) ∧
    (∃ t, exec (.spdmGetMeasurements p none) s = .next t ∧ SpdmAnswered s t p 0x13 0x60 (leBytes 2 0)) :=
  ⟨⟨_, rfl, spdmAnswer_answered hlive hinit ..⟩, ⟨_, rfl, spdmAnswer_answered hlive hinit ..⟩, ⟨_, rfl, spdmAnswer_answered hlive hinit ..⟩,
    ⟨_, rfl, spdmAnswer_answered hlive hinit ..⟩, ⟨_, rfl, spdmAnswer_answered hlive hinit ..⟩, ⟨_, rfl, spdmAnswer_answered hlive hinit ..⟩,
    ⟨_, rfl, spdmAnswer_answered hlive hinit ..⟩⟩

end

section
variable {m : List Byte} (hlive : linkLive s p = true) (hauth : portState s p = 4)
include hlive hauth

/-- A good answer is followed by the next request. -/
theorem asked_of_good {c : Instr} {code ans next : Nat} {ok : Bool} {stated : List Byte} {f : State → State}
    (hexec : exec c s = .next (ended s (spdmStep s p code ans m ok f))) (hnext : f s = spdmAsk s p 0x13 next stated)
    (hwait : (s.wport p).spdmReq = some code) (hans : msgNat m 1 1 = ans) (hok : ok = true) : ∃ t, exec c s = .next t ∧ SpdmAsked s t p next := by
  rw [hexec, spdmStep_good hlive hauth hwait hans hok, hnext]
  exact ⟨_, rfl, spdmAsk_asked rfl rfl (LinkFrame.refl s) next stated⟩

/-- A wrong answer ends in AUTH_FAILED. -/
theorem refused_of_bad {c : Instr} {code ans : Nat} {ok : Bool} {f : State → State}
    (hexec : exec c s = .next (ended s (spdmStep s p code ans m ok f))) (hwait : (s.wport p).spdmReq = some code) (hans : msgNat m 1 1 ≠ ans) :
    ∃ t, exec c s = .next t ∧ portState t p = 6 := by
  rw [hexec, spdmStep_bad hlive hauth hwait hans]
  exact ⟨_, rfl, refused_effect (linkLive_lt hlive) hauth⟩

/-- After the part of a chain that has arrived, the next part or the challenge is asked for. -/
theorem certificate_asked (hwait : (s.wport p).spdmReq = some 0x82) (hans : msgNat m 1 1 = 0x02) :
    ∃ t, exec (.spdmGetCertificate p (some m)) s = .next t ∧ SpdmAsked s t p (if msgNat m 6 2 = 0 then 0x83 else 0x82) := by
  let u := s.modWport p (fun x => { x with spdmCert := x.spdmCert + msgNat m 4 2 })
  have hexec : exec (.spdmGetCertificate p (some m)) s = .next (ended s (spdmStep s p 0x82 0x02 m true (fun s =>
      let s := s.modWport p (fun x => { x with spdmCert := x.spdmCert + msgNat m 4 2 })
      if msgNat m 6 2 = 0 then spdmAsk s p 0x13 0x83 (leBytes 2 0) else certAsk s p))) := rfl
  have hframe : LinkFrame s u := LinkFrame.modWport ..
  rw [hexec, spdmStep_good hlive hauth hwait hans rfl]
  dsimp only
  by_cases hlast : msgNat m 6 2 = 0
  · rw [if_pos hlast, if_pos hlast]
    exact ⟨_, rfl, spdmAsk_asked (State.modWport_outbox ..) (State.modWport_regs ..) hframe 0x83 _⟩
  · rw [if_neg hlast, if_neg hlast]
    exact ⟨_, rfl, spdmAsk_asked (State.modWport_outbox ..) (State.modWport_regs ..) hframe 0x82 _⟩

theorem spdm_requests :
    ((s.wport p).spdmReq = some 0x84 → msgNat m 1 1 = 0x04 → (∃ k, k < msgNat m 5 1 ∧ msgNat m (7 + 2 * k) 1 = 0x13) →
      ∃ t, exec (.spdmGetVersion p (some m)) s = .next t ∧ SpdmAsked s t p 0xE1) ∧
    ((s.wport p).spdmReq = some 0xE1 → msgNat m 1 1 = 0x61 → bitN (msgNat m 8 4) 1 = true → bitN (msgNat m 8 4) 2 = true →
      bitsN (msgNat m 8 4) 3 2 = 2 → ∃ t, exec (.spdmGetCapabilities p (some m)) s = .next t ∧ SpdmAsked s t p 0xE3) ∧
    ((s.wport p).spdmReq = some 0xE3 → msgNat m 1 1 = 0x63 → msgNat m 12 4 = 0x80 → msgNat m 16 4 = 0x2 →
      ∃ t, exec (.spdmNegotiateAlgorithms p (some m)) s = .next t ∧ SpdmAsked s t p 0x81) ∧
    ((s.wport p).spdmReq = some 0x81 → msgNat m 1 1 = 0x01 → bitN (msgNat m 3 1) 0 = true →
      ∃ t, exec (.spdmGetDigests p (some m)) s = .next t ∧ SpdmAsked s t p 0x82) ∧
    ((s.wport p).spdmReq = some 0x82 → msgNat m 1 1 = 0x02 →
      ∃ t, exec (.spdmGetCertificate p (some m)) s = .next t ∧ SpdmAsked s t p (if msgNat m 6 2 = 0 then 0x83 else 0x82)) ∧
    ((s.wport p).spdmReq = some 0x84 → msgNat m 1 1 ≠ 0x04 → ∃ t, exec (.spdmGetVersion p (some m)) s = .next t ∧ portState t p = 6) ∧
    ((s.wport p).spdmReq = some 0xE1 → msgNat m 1 1 ≠ 0x61 → ∃ t, exec (.spdmGetCapabilities p (some m)) s = .next t ∧ portState t p = 6) ∧
    ((s.wport p).spdmReq = some 0xE3 → msgNat m 1 1 ≠ 0x63 →
      ∃ t, exec (.spdmNegotiateAlgorithms p (some m)) s = .next t ∧ portState t p = 6) ∧
    ((s.wport p).spdmReq = some 0x81 → msgNat m 1 1 ≠ 0x01 → ∃ t, exec (.spdmGetDigests p (some m)) s = .next t ∧ portState t p = 6) ∧
    ((s.wport p).spdmReq = some 0x82 → msgNat m 1 1 ≠ 0x02 → ∃ t, exec (.spdmGetCertificate p (some m)) s = .next t ∧ portState t p = 6) := by
  refine ⟨fun hwait hans hver => asked_of_good hlive hauth rfl rfl hwait hans ?_,
    fun hwait hans hcert hchal hmeas => asked_of_good hlive hauth rfl rfl hwait hans ?_,
    fun hwait hans hasym hhash => asked_of_good hlive hauth rfl rfl hwait hans ?_,
    fun hwait hans hslot => asked_of_good hlive hauth rfl rfl hwait hans hslot, certificate_asked hlive hauth,
    refused_of_bad hlive hauth rfl, refused_of_bad hlive hauth rfl, refused_of_bad hlive hauth rfl, refused_of_bad hlive hauth rfl,
    refused_of_bad hlive hauth rfl⟩
  · obtain ⟨k, hk, hver⟩ := hver
    exact List.any_eq_true.mpr ⟨k, mem_upto hk, decide_eq_true hver⟩
  · rw [hcert, hchal, hmeas]
    rfl
  · rw [hasym, hhash]
    rfl

end

/-! ### The challenge and the measurements -/

section
variable (hlive : linkLive s p = true)
include hlive

theorem exec_spdmChallenge (hauth : portState s p = 4) (hwait : (s.wport p).spdmReq = some 0x83) (root : Nat) (sig : Bool) :
    exec (.spdmChallenge p (some (root, sig))) s = .next (ended s
      (if root = spdmRoot s && sig then spdmAsk (setPortState s p 5) p 0x13 0xE0 (leBytes 1 1 ++ leBytes 1 0xFF) else authFails s p)) :=
  congrArg (fun t => Host.Outcome.next (ended s t)) (if_neg (by simp [spdmWaits, hlive, hauth, hwait]))

theorem challenge_good (hauth : portState s p = 4) (hwait : (s.wport p).spdmReq = some 0x83) :
    ∃ t, exec (.spdmChallenge p (some (spdmRoot s, true))) s = .next t ∧ portState t p = 5 ∧ (t.wport p).spdmReq = some 0xE0 := by
  let u := setPortState s p 5
  obtain ⟨q, hport⟩ := spdmAsk_wport u p 0x13 0xE0 (leBytes 1 1 ++ leBytes 1 0xFF)
  have hstate : portState u p = 5 := portState_setPortState (linkLive_lt hlive) (by decide) (by rw [hauth]; decide)
  rw [exec_spdmChallenge hlive hauth hwait, if_pos (by simp)]
  refine ⟨_, rfl, ?_, ?_⟩
  · rw [ended_portState, portState_regs (spdmAsk_regs ..)]
    exact hstate
  · rw [ended_wport, hport]

theorem challenge_bad {root : Nat} {sig : Bool} (hauth : portState s p = 4) (hwait : (s.wport p).spdmReq = some 0x83)
    (hbad : root ≠ spdmRoot s ∨ sig = false) : ∃ t, exec (.spdmChallenge p (some (root, sig))) s = .next t ∧ portState t p = 6 := by
  have hwrong : ¬ (decide (root = spdmRoot s) && sig) = true := by
    simp only [Bool.and_eq_true, decide_eq_true_eq]
    rintro ⟨hroot, hsig⟩
    rcases hbad with h | h
    · exact h hroot
    · rw [hsig] at h
      cases h
  rw [exec_spdmChallenge hlive hauth hwait, if_neg hwrong]
  exact ⟨_, rfl, refused_effect (linkLive_lt hlive) hauth⟩

/-- The measurements of a partner are kept, and no answer is waited for. -/
def measured (s : State) (p : Nat) (m : List Byte) : State :=
  let t := s.modWport p (fun x => { x with spdmReq := none })
  { t with wen := { t.wen with meas := putRaw t.wen.meas p m } }

omit hlive in
theorem measured_frame (s : State) (p : Nat) (m : List Byte) : LinkFrame s (measured s p m) :=
  (LinkFrame.modWport ..).trans (LinkFrame.with_wen ..)

theorem measurements_kept {m : List Byte} (hwait : (s.wport p).spdmReq = some 0xE0) (hans : msgNat m 1 1 = 0x60) :
    ∃ t, exec (.spdmGetMeasurements p (some m)) s = .next t ∧ look [] t.wen.meas p = m ∧ (t.wport p).spdmReq = none ∧ SameRegs [] s t ∧
      SameMem s t ∧ SameCores [] s t := by
  have hexec : exec (.spdmGetMeasurements p (some m)) s = .next (ended s (measured s p m)) :=
    congrArg (fun t => Host.Outcome.next (ended s t)) (if_neg (by simp [spdmWaits, hlive, hwait, hans]))
  obtain ⟨hmem, hcores, -⟩ := (measured_frame s p m).clauses
  refine ⟨_, hexec, ?_, ?_, fun _ _ => rfl, hmem, hcores⟩
  · exact (look_putRaw ..).trans (if_pos rfl)
  · have hport : (measured s p m).wport p = (s.modWport p (fun x => { x with spdmReq := none })).wport p := rfl
    rw [ended_wport, hport, State.wport_modWport, if_pos rfl]

end

theorem exec_authTimeout (hp : p < 18) (hauth : portState s p = 4) : ∃ t, exec (.authTimeout p) s = .next t ∧ portState t p = 6 :=
  ⟨_, congrArg (fun t => Host.Outcome.next (ended s t)) (if_pos (by simp [hp, hauth])), refused_effect hp hauth⟩

/-- Settles O25: the responder by the message that each answer sends, the requester by what an exchange does with a good and with a bad answer. -/
theorem wenlynAuthentication : Obligations.WenlynAuthentication :=
  ⟨fun _ _ hlive hinit => spdm_answers hlive hinit, fun _ _ _ hlive hauth => spdm_requests hlive hauth,
    fun _ _ hlive hauth hwait => challenge_good hlive hauth hwait, fun _ _ _ _ hlive hauth hwait hbad => challenge_bad hlive hauth hwait hbad,
    fun _ _ _ hlive hwait hans => measurements_kept hlive hwait hans, fun _ _ hp hauth => exec_authTimeout hp hauth⟩

end Sys2Proof.Machine
end

section
/-! Copies, the placement of tasks, pre-emption, scrubbing, restoring and energy shares (R339-R349). -/
namespace Sys2Proof.Machine

variable {s : State}

/-! ### Segments of a copy (R339, R340) -/

/-- The command that a segment belongs to. -/
def copyOf (s : State) (id : Nat) : Option HCmd := s.host.cmds.find? (fun c => c.id = id && c.stage = 1 && cmdKind c.ent = .copy)

/-- The command after a segment has ended with a status. -/
def segmentOver (c : HCmd) (seg st : Nat) : HCmd :=
  let n := (cpRange (cpLen c.ent) seg).2
  { c with
    segRes := c.segRes ++ [(seg, st)], hbm := c.hbm + (if cpDir c.ent = 2 then 2 * n else n), link := c.link + (if cpDir c.ent = 2 then 0 else n) }

section
variable {id seg : Nat} {fail : Bool}

theorem copySegment_absent (h : ∀ c, copyOf s id = some c → c.segs ≤ seg ∨ ∃ p ∈ c.segRes, p.1 = seg) :
    exec (.copySegmentDone id seg fail) s = .next (ended s s) := by
  show execCopySegmentDone id seg fail s = _
  unfold execCopySegmentDone
  rw [done_eq]
  refine congrArg (fun t => Host.Outcome.next (ended s t)) ?_
  change (match copyOf s id with | none => s | some c => _) = s
  cases hfind : copyOf s id with
  | none => rfl
  | some c =>
    have hover : (decide (c.segs ≤ seg) || c.segRes.any (fun p => p.1 = seg)) = true := by
      simpa only [Bool.or_eq_true, decide_eq_true_eq, List.any_eq_true] using h c hfind
    exact if_pos hover

variable {c : HCmd} (hfind : copyOf s id = some c) (hseg : seg < c.segs) (hnew : ∀ p ∈ c.segRes, p.1 ≠ seg)
include hfind hseg hnew

theorem exec_copySegmentDone : exec (.copySegmentDone id seg fail) s = .next (ended s
    (let o := (cpRange (cpLen c.ent) seg).1
    let n := (cpRange (cpLen c.ent) seg).2
    let r := if fail && cpDir c.ent ≠ 2 then (cpSpoil (raiseDma s c.q 1 (cpHost c.ent + o)) c.f c.ent o n, stHostDmaError)
      else cpSegment s c.f c.ent o n
    setCmd r.1 (segmentOver c seg r.2))) := by
  have hopen : ¬ (decide (c.segs ≤ seg) || c.segRes.any (fun p => p.1 = seg)) = true := by
    simp only [Bool.or_eq_true, decide_eq_true_eq, List.any_eq_true, not_or]
    exact ⟨Nat.not_le.mpr hseg, fun ⟨p, hp, heq⟩ => hnew p hp heq⟩
  show execCopySegmentDone id seg fail s = _
  unfold execCopySegmentDone
  rw [done_eq, show s.host.cmds.find? _ = some c from hfind]
  exact congrArg (fun t => Host.Outcome.next (ended s t)) (if_neg hopen)

/-- A segment of which a host access failed ends with HOST_DMA_ERROR. -/
theorem copySegment_hostFails (hfail : fail = true) (hdir : cpDir c.ent ≠ 2) : exec (.copySegmentDone id seg fail) s = .next (ended s
    (setCmd (cpSpoil (raiseDma s c.q 1 (cpHost c.ent + (cpRange (cpLen c.ent) seg).1)) c.f c.ent (cpRange (cpLen c.ent) seg).1
      (cpRange (cpLen c.ent) seg).2) (segmentOver c seg stHostDmaError))) := by
  rw [exec_copySegmentDone hfind hseg hnew]
  dsimp only
  rw [if_pos (by simp [hfail, hdir])]

omit hfind hseg hnew in
theorem not_hostFails (h : fail = false ∨ cpDir c.ent = 2) : ¬ (fail && decide (cpDir c.ent ≠ 2)) = true := by
  simp only [Bool.and_eq_true, decide_eq_true_eq]
  rintro ⟨hfail, hdir⟩
  rcases h with h | h
  · rw [h] at hfail
    cases hfail
  · exact hdir h

/-- A segment that reads poison ends with MEM_UNCORR. -/
theorem copySegment_poisoned (h : fail = false ∨ cpDir c.ent = 2) (hdir : cpDir c.ent ≠ 0)
    (hpois : poisoned s (cpDev c.ent + (cpRange (cpLen c.ent) seg).1) (cpRange (cpLen c.ent) seg).2 = true) :
    exec (.copySegmentDone id seg fail) s = .next (ended s
      (setCmd (cpSpoil (cpRead s c.f (cpDev c.ent + (cpRange (cpLen c.ent) seg).1) (cpRange (cpLen c.ent) seg).2) c.f c.ent
        (cpRange (cpLen c.ent) seg).1 (cpRange (cpLen c.ent) seg).2) (segmentOver c seg stMemUncorr))) := by
  rw [exec_copySegmentDone hfind hseg hnew]
  dsimp only
  rw [if_neg (not_hostFails h), cpSegment, if_pos (by simp [hdir, hpois])]

/-- A segment that is moved ends with OK, or with MEM_UNCORR where it could not be written. -/
theorem copySegment_moved (h : fail = false ∨ cpDir c.ent = 2)
    (hgood : cpDir c.ent = 0 ∨ poisoned s (cpDev c.ent + (cpRange (cpLen c.ent) seg).1) (cpRange (cpLen c.ent) seg).2 = false) :
    exec (.copySegmentDone id seg fail) s = .next (ended s
      (if (cpMove s c.f c.ent (cpRange (cpLen c.ent) seg).1 (cpRange (cpLen c.ent) seg).2).memBad
        then setCmd (cpSpoil (cpMove s c.f c.ent (cpRange (cpLen c.ent) seg).1 (cpRange (cpLen c.ent) seg).2) c.f c.ent
          (cpRange (cpLen c.ent) seg).1 (cpRange (cpLen c.ent) seg).2) (segmentOver c seg stMemUncorr)
        else setCmd (cpMove s c.f c.ent (cpRange (cpLen c.ent) seg).1 (cpRange (cpLen c.ent) seg).2) (segmentOver c seg stOK))) := by
  have hread : ¬ (decide (cpDir c.ent ≠ 0) && poisoned s (cpDev c.ent + (cpRange (cpLen c.ent) seg).1) (cpRange (cpLen c.ent) seg).2) = true := by
    simp only [Bool.and_eq_true, decide_eq_true_eq]
    rintro ⟨hdir, hpois⟩
    rcases hgood with hgood | hgood
    · exact hdir hgood
    · rw [hgood] at hpois
      cases hpois
  rw [exec_copySegmentDone hfind hseg hnew]
  dsimp only
  rw [if_neg (not_hostFails h), cpSegment, if_neg hread]
  dsimp only
  split <;> rfl

end

/-! ### What a copy ends with (R340) -/

theorem cpResult_ok {c : HCmd} (h : ∀ i ∈ upto c.segs, look 0 c.segRes i = 0) :
    cpResult c = { c with stage := 2, status := 0, prefix_ := cpLen c.ent } := by
  have hbad : (upto c.segs).filter (fun i => look 0 c.segRes i ≠ 0) = [] :=
    List.filter_eq_nil_iff.mpr fun i hi => by simpa using h i hi
  unfold cpResult
  dsimp only
  rw [hbad]

theorem cpResult_failed {c : HCmd} {i : Nat} {rest : List Nat} (h : (upto c.segs).filter (fun i => look 0 c.segRes i ≠ 0) = i :: rest) :
    cpResult c = if rest.length + 1 = c.segs then { c with stage := 2, status := look 0 c.segRes 0, detail := look 0 c.segRes 0 }
      else { c with stage := 2, status := stPartial, prefix_ := i * cpSeg (cpLen c.ent), detail := look 0 c.segRes i + 65536 * i } := by
  unfold cpResult
  dsimp only
  rw [h]
  rfl

/-! ### Placement and pre-emption (R342, R346, R347) -/

/-- A victim's core stops issuing, and is promised to the task. -/
def promised (s : State) (t v : HTask) : State :=
  let u := setTask (setTask s { v with stage := 4 }) { t with stage := 1, core := v.core }
  u.modCore (slotOf u v.core) (fun c => { c with stopIssue := true })

section
variable {id n core : Nat} {t : HTask}

theorem taskPlace_idle (h : s.host.tasks.find? (fun t => t.cmd = id && t.stage = 0) = none ∨ frozen s = true ∨ heldSafe s = true) :
    exec (.taskPlace id) s = .next (ended s s) := by
  show execTaskPlace id s = _
  unfold execTaskPlace
  rw [done_eq]
  refine congrArg (fun t => Host.Outcome.next (ended s t)) ?_
  split
  · rfl
  · next t hfind =>
    rcases h with hnone | hstop | hsafe
    · rw [hnone] at hfind
      cases hfind
    · exact if_pos (by rw [hstop]; rfl)
    · exact if_pos (by rw [hsafe, Bool.or_true])

variable (hfind : s.host.tasks.find? (fun t => t.cmd = id && t.stage = 0) = some t) (hfrozen : frozen s = false) (hsafe : heldSafe s = false)
include hfind hfrozen hsafe

/-- A waiting task, where a core of its set is free. -/
theorem exec_taskPlace_free (hfree : (upto 256).find? (fun n => allowed s t.f n && coreFree s n) = some n) :
    exec (.taskPlace id) s = .next (ended s (if (bestTask s n).any (fun x => x.cmd = id) then giveCore s t n else s)) := by
  show execTaskPlace id s = _
  unfold execTaskPlace
  rw [done_eq, hfind]
  dsimp only
  rw [hfrozen, hsafe, if_neg (by decide), hfree]

/-- A waiting task, where no core of its set is free. -/
theorem exec_taskPlace_full (hnone : (upto 256).find? (fun n => allowed s t.f n && coreFree s n) = none) :
    exec (.taskPlace id) s =
      .next (ended s (if !s.fb (engineBase + 0x50040) 0 then s else (victim s t.f).elim s (promised s t))) := by
  show execTaskPlace id s = _
  unfold execTaskPlace
  rw [done_eq, hfind]
  dsimp only
  rw [hfrozen, hsafe, if_neg (by decide), hnone]
  cases victim s t.f <;> rfl

theorem taskPlace_free (hfree : (upto 256).find? (fun n => allowed s t.f n && coreFree s n) = some n) :
    (∀ x, bestTask s n = some x → x.cmd = id → exec (.taskPlace id) s = .next (ended s (giveCore s t n))) ∧
    ((∀ x, bestTask s n = some x → x.cmd ≠ id) → exec (.taskPlace id) s = .next (ended s s)) := by
  rw [exec_taskPlace_free hfind hfrozen hsafe hfree]
  refine ⟨fun x hbest hid => ?_, fun hother => ?_⟩
  · rw [hbest, if_pos (by simpa using hid)]
  · rw [if_neg]
    cases hbest : bestTask s n with
    | none => simp
    | some x => simpa using hother x hbest

theorem taskPlace_full (hnone : (upto 256).find? (fun n => allowed s t.f n && coreFree s n) = none) :
    (s.fb (engineBase + 0x50040) 0 = false ∨ victim s t.f = none → exec (.taskPlace id) s = .next (ended s s)) ∧
    (∀ v, s.fb (engineBase + 0x50040) 0 = true → victim s t.f = some v →
      let u := setTask (setTask s { v with stage := 4 }) { t with stage := 1, core := v.core }
      exec (.taskPlace id) s = .next (ended s (u.modCore (slotOf u v.core) (fun c => { c with stopIssue := true })))) := by
  rw [exec_taskPlace_full hfind hfrozen hsafe hnone]
  refine ⟨fun h => ?_, fun v hon hvictim => ?_⟩
  · cases hon : s.fb (engineBase + 0x50040) 0 with
    | false => rfl
    | true =>
      obtain h | h := h
      · rw [hon] at h
        cases h
      · rw [h]
        rfl
  · rw [hon, hvictim]
    rfl

end

section
variable {core : Nat} {t : HTask}

theorem preemptSaveDone_busy (hfind : s.host.tasks.find? (fun t => t.stage = 4 && t.core = core) = some t)
    (hops : (s.core (slotOf s core)).ops ≠ []) : exec (.preemptSaveDone core) s = .next (ended s s) := by
  show execPreemptSaveDone core s = _
  unfold execPreemptSaveDone
  rw [done_eq, hfind]
  dsimp only
  rw [if_pos (by simpa using hops)]

theorem preemptSaveDone_saved (hfind : s.host.tasks.find? (fun t => t.stage = 4 && t.core = core) = some t)
    (hops : (s.core (slotOf s core)).ops = []) :
    let k := saveSlot s t.f
    let new := (s.host.tasks.find? (fun x => x.stage = 1 && x.core = core)).map (fun x => x.f)
    exec (.preemptSaveDone core) s = .next (ended s (passCore (((freeCore (saveCore s t k) core t.f).addCtr (clientBase t.f + 0x68) 1).raise
      .preempt 0 (packBits [(core, 0, 8), (t.f, 8, 7), (new.getD 0, 15, 7), (k, 22, 8)])) core)) := by
  intro k new
  show execPreemptSaveDone core s = _
  unfold execPreemptSaveDone
  rw [done_eq, hfind]
  dsimp only
  rw [if_neg (by simp [hops])]

theorem exec_coreScrubDone (hfind : s.host.tasks.find? (fun t => t.stage = 2 && t.core = core) = some t) :
    exec (.coreScrubDone core) s = .next (ended s (runTask (scrubCore s (slotOf s core)) t)) := by
  show execCoreScrubDone core s = _
  unfold execCoreScrubDone
  rw [done_eq, hfind]

theorem stages_idle (s : State) (core : Nat) :
    (s.host.tasks.find? (fun t => t.stage = 4 && t.core = core) = none → exec (.preemptSaveDone core) s = .next (ended s s)) ∧
    (s.host.tasks.find? (fun t => t.stage = 2 && t.core = core) = none → exec (.coreScrubDone core) s = .next (ended s s)) ∧
    ((∀ t, s.host.tasks.find? (fun t => t.stage = 5 && t.core = core) = some t → t.saved = none) →
      exec (.taskRestoreDone core) s = .next (ended s s)) := by
  refine ⟨fun h => ?_, fun h => ?_, fun h => ?_⟩
  · show execPreemptSaveDone core s = _
    unfold execPreemptSaveDone
    rw [done_eq, h]
  · show execCoreScrubDone core s = _
    unfold execCoreScrubDone
    rw [done_eq, h]
  · show execTaskRestoreDone core s = _
    unfold execTaskRestoreDone
    rw [done_eq]
    refine congrArg (fun t => Host.Outcome.next (ended s t)) ?_
    split
    · rfl
    · next t hfind =>
      rw [h t hfind]

end

/-! ### Restoring (R348) -/

theorem putTod_cores (s : State) (sl q t : Nat) : (putTod s sl q t).cores = s.cores := by
  unfold putTod
  rw [setHdrW_cores, localWrite_cores]

theorem feedRun_cores (k : Nat) (s : State) (sl q : Nat) : (feedRun k s sl q).cores = s.cores := by
  induction k generalizing s with
  | zero => rfl
  | succ k ih =>
    unfold feedRun
    split
    · rfl
    · split
      · rfl
      · exact (ih _).trans (putTod_cores ..)

theorem bindTask_cores (s : State) (sl f : Nat) : (bindTask s sl f).cores = s.cores := by
  unfold bindTask
  refine (State.setB_cores ..).trans ?_
  refine List.foldlRecOn _ _ (motive := fun t : State => t.cores = s.cores) ?_ fun t ht _ _ => (State.wr_cores ..).trans ht
  simp only [State.setF_cores]

/-- The core of a restored task, before its queue is set up: registers, accumulators and tags are the saved ones. -/
def stateBack (s : State) (sl f : Nat) (v : Saved) : State :=
  let b := saveBase s f v.slot
  let s := poisonBack (localWrite s (spadA sl) (s.bytes b (2 ^ 24))) sl b
  let s := v.regs.foldl (fun s p => s.wr (slotBase sl + p.1) p.2) s
  s.modCore sl (fun c => { c with acc := v.acc, tags := v.tags })

/-- The queue of a restored task, and what the ring engine still has to bring it. -/
def queueBack (s : State) (sl w : Nat) (t : HTask) (v : Saved) : State :=
  let s := setHdrW (setHdrW (setHdrW (setHdrW s sl 0 0 v.seq) sl 0 1 v.seq) sl 0 2 v.cplProd) sl 0 3 v.cplCons
  let s := bindTask s sl t.f
  let s := v.tods.foldl (fun s b => putTod s sl 0 (retag (leNat b) (some w))) s
  s.modHost (fun h => { h with runs := h.runs.map (fun r => if r.cmd = t.cmd then { r with sl := sl, win := some w } else r) })

theorem stateBack_core (s : State) (sl f : Nat) (v : Saved) :
    ((stateBack s sl f v).core sl).acc = v.acc ∧ ((stateBack s sl f v).core sl).tags = v.tags := by
  unfold stateBack
  dsimp only
  rw [State.core_modCore, if_pos rfl]
  exact ⟨rfl, rfl⟩

theorem queueBack_cores (s : State) (sl w : Nat) (t : HTask) (v : Saved) : (queueBack s sl w t v).cores = s.cores := by
  unfold queueBack
  refine (State.modHost_cores ..).trans ?_
  refine List.foldlRecOn _ _ (motive := fun u : State => u.cores = s.cores) ?_ fun u hu _ _ => (putTod_cores ..).trans hu
  rw [bindTask_cores, setHdrW_cores, setHdrW_cores, setHdrW_cores, setHdrW_cores]

theorem exec_taskRestoreDone {core : Nat} {t : HTask} {v : Saved} (hfind : s.host.tasks.find? (fun t => t.stage = 5 && t.core = core) = some t)
    (hsaved : t.saved = some v) : exec (.taskRestoreDone core) s = .next (ended s (feedRun 4096 (setTask
      (queueBack (stateBack s (slotOf s core) t.f v) (slotOf s core) (s.f (rTagCfg (slotOf s core)) 0 8) t v) { t with stage := 3, saved := none })
      (slotOf s core) 0)) := by
  show execTaskRestoreDone core s = _
  unfold execTaskRestoreDone
  rw [done_eq, hfind]
  dsimp only
  rw [hsaved]
  rfl

/-- The restored task is the only one of its command. -/
theorem tasks_setTask {s : State} {t x : HTask} (hx : x ∈ (setTask s t).host.tasks) (hcmd : x.cmd = t.cmd) : x = t := by
  unfold setTask at hx
  rw [State.modHost_host] at hx
  obtain ⟨y, -, rfl⟩ := List.mem_map.mp hx
  split at hcmd
  · next h => rw [if_pos h]
  · next h => exact absurd hcmd h

theorem taskRestoreDone_effect {core : Nat} {t : HTask} {v : Saved} (hfind : s.host.tasks.find? (fun t => t.stage = 5 && t.core = core) = some t)
    (hsaved : t.saved = some v) :
    ∃ u, exec (.taskRestoreDone core) s = .next u ∧ (∀ x ∈ u.host.tasks, x.cmd = t.cmd → x.stage = 3 ∧ x.saved = none) ∧
      (u.core (slotOf s core)).acc = v.acc ∧ (u.core (slotOf s core)).tags = v.tags := by
  let sl := slotOf s core
  let a := stateBack s sl t.f v
  let b := setTask (queueBack a sl (s.f (rTagCfg sl) 0 8) t v) { t with stage := 3, saved := none }
  have htasks : (feedRun 4096 b sl 0).host.tasks = b.host.tasks := (SameWork.feedRun ..).tasks
  have hcores : (feedRun 4096 b sl 0).core sl = a.core sl := by
    rw [State.core, feedRun_cores, show b.cores = (queueBack a sl (s.f (rTagCfg sl) 0 8) t v).cores from State.modHost_cores .., queueBack_cores]
    rfl
  obtain ⟨hacc, htags⟩ := stateBack_core s sl t.f v
  refine ⟨_, exec_taskRestoreDone hfind hsaved, fun x hx hcmd => ?_, ?_, ?_⟩
  · rw [ended_host, htasks] at hx
    rw [tasks_setTask (t := { t with stage := 3, saved := none }) hx hcmd]
    exact ⟨rfl, rfl⟩
  · rw [ended_core]
    exact (congrArg Core.acc hcores).trans hacc
  · rw [ended_core]
    exact (congrArg Core.tags hcores).trans htags

/-! ### Energy shares (R349) -/

theorem energyApportion_effect (s : State) (sl : Nat) (shares : List (Nat × Nat)) :
    let e := (s.rd (rEnergyCore sl)).toNat
    let live := shares.filter (fun p => (s.core sl).ops.any (fun o => o.live && o.tag = p.1))
    let total := sumN (live.map (fun p => p.2))
    ∃ t, exec (.energyApportion sl shares) s = .next t ∧
      (t.core sl).ops = (s.core sl).ops.map (fun o => if o.live && total ≠ 0 then { o with
        nj := o.nj + subMod 64 e (look 0 s.host.njLast sl) * look 0 live o.tag / total } else o) ∧
      look 0 t.host.njLast sl = e ∧ SameRegs [] s t ∧ SameMem s t ∧ SameCores [sl] s t := by
  intro e live total
  let s1 := s.modCore sl (fun c => { c with ops := c.ops.map (fun o => if o.live && total ≠ 0 then { o with
    nj := o.nj + subMod 64 e (look 0 s.host.njLast sl) * look 0 live o.tag / total } else o) })
  let t := s1.modHost (fun h => { h with njLast := put 0 h.njLast sl e })
  have hcore (k : Nat) : (ended s t).core k = s1.core k := rfl
  refine ⟨ended s t, rfl, ?_, ?_, fun _ _ => rfl, fun _ => rfl, fun k hk => ?_⟩
  · rw [hcore, State.core_modCore, if_pos rfl]
  · rw [ended_host, State.modHost_host]
    exact (look_put ..).trans (if_pos rfl)
  · rw [hcore, State.core_modCore, if_neg (by simpa using hk)]

/-- Settles O51: each command by the branch it takes, and a restored core by what the later writes leave alone. -/
theorem tasksAndCopies : Obligations.TasksAndCopies := by
  refine ⟨fun s id seg fail h => copySegment_absent h,
    fun s id seg fail c hfind hseg hnew => ⟨copySegment_hostFails hfind hseg hnew, copySegment_poisoned hfind hseg hnew,
      copySegment_moved hfind hseg hnew⟩,
    fun c h => cpResult_ok h, fun c i rest h => cpResult_failed h,
    fun s id n t hfind hfrozen hsafe hfree => taskPlace_free hfind hfrozen hsafe hfree,
    fun s id t hfind hfrozen hsafe hnone => taskPlace_full hfind hfrozen hsafe hnone, fun s id h => taskPlace_idle h,
    fun s core t hfind => ⟨preemptSaveDone_busy hfind, preemptSaveDone_saved hfind⟩, fun s core t hfind => exec_coreScrubDone hfind,
    fun s core t v hfind hsaved => taskRestoreDone_effect hfind hsaved, stages_idle, energyApportion_effect⟩

end Sys2Proof.Machine
end
